-- ==== Sys2Proof/Word.lean ====
section
/-!
DEFINITION. The word types of the DM-RK8: bytes, 32-bit instruction words, 64-bit registers and 128-byte lines
(spec/00_scope.md R3: bit 0 is the least significant bit and multi-byte values are little-endian).
-/
namespace Sys2Proof

/-- One byte of memory. -/
abbrev Byte := BitVec 8

/-- One instruction word (13_encoding R291). -/
abbrev Word32 := BitVec 32

/-- One 64-bit register or memory dword. -/
abbrev DWord := BitVec 64

/-- One 128-byte line, byte k in bits 8k+7 to 8k (07_coherence, R3). -/
abbrev Line := BitVec 1024

/-- One bit per byte of a line: the byte mask of a write (07_coherence R154). -/
abbrev LineMask := BitVec 128

/-- A string of bits whose length the context fixes: a vector register (8 × RLEN bits), a predicate (PLEN bits), a
tile or the rows of the operand latch; bit 0 is the least significant bit of element 0 (15_vector_compute R332). -/
abbrev Bits := Nat

/-- `w` bits of `x` from bit `lo`. -/
def bitsAt (x lo w : Nat) : Nat := (x >>> lo) % 2 ^ w

/-- `x` with its `w` bits from bit `lo` replaced by the low `w` bits of `v`. -/
def setBitsAt (x lo w v : Nat) : Nat :=
  (x >>> (lo + w)) <<< (lo + w) + ((v % 2 ^ w) <<< lo) + x % 2 ^ lo

end Sys2Proof
end

