-- ==== Sys2Proof/Syntax.lean ====
section
/-!
DEFINITION. The steps of the DM-RK8, one constructor per row of the opcode table: the 260 encoded instructions, whose
arguments are the free fields of the word, and the 150 steps that have no encoding (of homes, agents, engines, directors
and the host interface), whose arguments are what the step carries.
-/
namespace Sys2Proof

/-- An agent number (07_coherence R151): sequencers 0 to 8,191, engines from 8,192, host ports from 8,224. -/
abbrev Agent := Nat

/-- A holder of ownership (07_coherence R149, R151): an L1 slice, numbered 4 × cluster + slice over the device (0 to 1,023;
06_clusters R131, R132), or an engine of a die. -/
inductive Owner where
  | l1 (slice : Nat)
  | engine (die eng : Nat)
  deriving DecidableEq, Repr

/-- The mode of a recall (R154): S keeps a shared copy, I drops it. -/
inductive RecallMode where
  | s
  | i
  deriving DecidableEq, Repr

/-- The sectors of a line on its way: how many, and their image (08_compression R186). -/
structure Sectors where
  nsec : Nat
  image : Bits
  deriving DecidableEq, Repr

/-- A line as a home sends it to a cluster (06_clusters R133, 08_compression R186): CODE with NSEC and the image of its sectors; CODE
15 is poison. -/
structure Form extends Sectors where
  code : Nat
  deriving DecidableEq, Repr

/-- The bytes that a write-back carries, with the poison of a copy whose data was lost (01_package R19). -/
structure LineData where
  bytes : Line
  poison : Bool
  deriving DecidableEq, Repr

/-- What the completion slot of a peer store names: the agent, the address of the line, and the cause where the target refused it
(02_links R45), else 0. -/
structure PeerDone where
  k : Agent
  addr : Nat
  cause : Nat
  deriving DecidableEq, Repr

/-- How a module comes up: whether the image's flash reads back whole (01_package R25), and whether the physical function has the
retirement log cleared (01_package R23). -/
structure BootInput where
  imageOk : Bool
  clearLog : Bool
  deriving DecidableEq, Repr

/-- What an uncorrectable error damages: lines, and of a cluster the sequencers whose vector registers or tiles it affects and
whether it affects the latches (01_package R18, R19). -/
structure Damage where
  lines : List Nat
  seqs : List Agent := []
  latches : Bool := false
  deriving DecidableEq, Repr

/-- How a host port trained (02_links R31). -/
inductive PortMode where
  | absent
  | pcie
  | cxl
  deriving DecidableEq, Repr

/-- A region of error counting (01_package R18). -/
inductive Region where
  | llcWay (die slice way : Nat)
  | page (frame : Nat)
  | stageBlock (die block : Nat)
  | cluster (cluster : Nat)
  deriving DecidableEq, Repr

/-- The management window with the physical function's ring, or the window and ring of an interface (03 R50, R64). -/
inductive RingId where
  | pf
  | vi (n : Nat)
  deriving DecidableEq, Repr

/-- The chain of one context at one engine of one die (19 R420). -/
structure ChainId where
  vi : Nat
  cid : Nat
  die : Nat
  eng : Nat
  deriving DecidableEq, Repr

/-- A register named by class and number (11 R258); `ctl` for a control register. -/
inductive RegRef where
  | g (n : Nat)
  | v (n : Nat)
  | p (n : Nat)
  | a (n : Nat)
  | ctl (n : Nat)
  deriving DecidableEq, Repr

/-- One meter's reading at the close of an accounting interval (01 R14): the die (4 and 5 for the I/O dies), the energy
in µJ it counted, the engine shares that belong to queues, and the activity by which the rest is split: for each queue
its sequencer-cycles, matrix MACs, Stage operations and bytes moved. -/
structure MeterReading where
  die : Nat
  energy : Nat
  engine : List (Nat × Nat × Nat × Nat)
  activity : List (Nat × Nat × Nat × Nat × Nat × Nat)
  deriving DecidableEq, Repr

/-- What a Stage bank does in one operation (06 R142, 18 R399): `op` none is a load, `some` the code of R399; `store`
writes the operand. -/
inductive StageAct where
  | load
  | store
  | alu (op ty : BitVec 4)
  deriving DecidableEq, Repr

/-- One operation on its way to a bank: the die, the byte offset in the die's Stage memory, the width in bytes, the
action, its operands, the clock it carries, the agent it answers (06 R142, 09 R204), and the least old value with which it is
done (0: any): the stack limit where the answer goes to sp (11 R270). -/
structure StageOp where
  die : Nat
  off : Nat
  size : Nat
  act : StageAct
  s : DWord
  s2 : DWord
  clock : Nat
  k : Agent
  dest : Option Nat
  floor : Nat := 0
  deriving DecidableEq, Repr

/-- One step of the machine: an instruction of the opcode table, or a step without an encoding. The rows with operands
come first, in the table's order, then the rows with none, then seven rows of the last primaries, then the steps without
an encoding: Lean's compiled code builds no constructor with fields past the 244th, and the decoder builds these. -/
inductive Instr where
  /-- TRAPZ (R302). -/
  | trapz (x : BitVec 24)
  /-- CTLR (R308). -/
  | ctlr (d : BitVec 5) (n : BitVec 8)
  /-- CTLW (R308). -/
  | ctlw (a : BitVec 5) (e : BitVec 1) (n : BitVec 8)
  /-- CTLS (R308). -/
  | ctls (d a : BitVec 5) (e : BitVec 1) (n : BitVec 8)
  /-- CTLC (R308). -/
  | ctlc (d a : BitVec 5) (e : BitVec 1) (n : BitVec 8)
  /-- CTLX (R308). -/
  | ctlx (d a : BitVec 5) (e : BitVec 1) (n : BitVec 8)
  /-- SYSCALL (R443). -/
  | syscall (i : BitVec 19)
  /-- TLBINV (R445). -/
  | tlbinv (d a : BitVec 5) (e : BitVec 1) (k : BitVec 2)
  /-- BFLIP (R446). -/
  | bflip (d a : BitVec 5) (e k : BitVec 1)
  /-- ENRD (R447). -/
  | enrd (d : BitVec 5) (s : BitVec 13)
  /-- DMARK (R449). -/
  | dmark (i : BitVec 19)
  /-- ADD (R310). -/
  | add (d a b : BitVec 5) (e f : BitVec 1) (t : BitVec 4) (v : BitVec 3)
  /-- SUB (R310). -/
  | sub (d a b : BitVec 5) (e f : BitVec 1) (t : BitVec 4) (v : BitVec 3)
  /-- MUL (R310). -/
  | mul (d a b : BitVec 5) (e f : BitVec 1) (t : BitVec 4) (v : BitVec 3)
  /-- MULH (R310). -/
  | mulh (d a b : BitVec 5) (e f : BitVec 1) (t : BitVec 4) (v : BitVec 3)
  /-- DIV (R311). -/
  | div (d a b : BitVec 5) (e f : BitVec 1) (t : BitVec 4) (v : BitVec 3)
  /-- REM (R311). -/
  | rem (d a b : BitVec 5) (e f : BitVec 1) (t : BitVec 4) (v : BitVec 3)
  /-- MIN (R310). -/
  | min (d a b : BitVec 5) (e f : BitVec 1) (t : BitVec 4) (v : BitVec 3)
  /-- MAX (R310). -/
  | max (d a b : BitVec 5) (e f : BitVec 1) (t : BitVec 4) (v : BitVec 3)
  /-- AND (R310). -/
  | and (d a b : BitVec 5) (e f : BitVec 1)
  /-- OR (R310). -/
  | or (d a b : BitVec 5) (e f : BitVec 1)
  /-- XOR (R310). -/
  | xor (d a b : BitVec 5) (e f : BitVec 1)
  /-- ANDN (R310). -/
  | andn (d a b : BitVec 5) (e f : BitVec 1)
  /-- SHL (R310). -/
  | shl (d a b : BitVec 5) (e f : BitVec 1) (t : BitVec 4) (v : BitVec 3)
  /-- SHR (R310). -/
  | shr (d a b : BitVec 5) (e f : BitVec 1) (t : BitVec 4) (v : BitVec 3)
  /-- ROT (R310). -/
  | rot (d a b : BitVec 5) (e f : BitVec 1) (t : BitVec 4) (v : BitVec 3)
  /-- CMP (R310). -/
  | cmp (d a b : BitVec 5) (e f : BitVec 1) (t : BitVec 4) (v : BitVec 3)
  /-- ADDI (R312). -/
  | addi (d a : BitVec 5) (e : BitVec 1) (i : BitVec 13)
  /-- MULI (R312). -/
  | muli (d a : BitVec 5) (e : BitVec 1) (i : BitVec 13)
  /-- ANDI (R312). -/
  | andi (d a : BitVec 5) (e : BitVec 1) (i : BitVec 13)
  /-- ORI (R312). -/
  | ori (d a : BitVec 5) (e : BitVec 1) (i : BitVec 13)
  /-- XORI (R312). -/
  | xori (d a : BitVec 5) (e : BitVec 1) (i : BitVec 13)
  /-- SHLI (R312). -/
  | shli (d a : BitVec 5) (e : BitVec 1) (s : BitVec 6)
  /-- SHRI (R312). -/
  | shri (d a : BitVec 5) (e k : BitVec 1) (s : BitVec 6)
  /-- ROTI (R312). -/
  | roti (d a : BitVec 5) (e : BitVec 1) (s : BitVec 6)
  /-- SLTI (R312). -/
  | slti (d a : BitVec 5) (e : BitVec 1) (i : BitVec 13)
  /-- SLTNI (R312). -/
  | sltni (d a : BitVec 5) (e : BitVec 1) (i : BitVec 13)
  /-- SEQI (R312). -/
  | seqi (d a : BitVec 5) (e : BitVec 1) (i : BitVec 13)
  /-- MINI (R312). -/
  | mini (d a : BitVec 5) (e : BitVec 1) (i : BitVec 13)
  /-- MAXI (R312). -/
  | maxi (d a : BitVec 5) (e : BitVec 1) (i : BitVec 13)
  /-- DIVI (R312). -/
  | divi (d a : BitVec 5) (e : BitVec 1) (i : BitVec 13)
  /-- REMI (R312). -/
  | remi (d a : BitVec 5) (e : BitVec 1) (i : BitVec 13)
  /-- SUBFI (R312). -/
  | subfi (d a : BitVec 5) (e : BitVec 1) (i : BitVec 13)
  /-- MOVI (R313). -/
  | movi (d : BitVec 5) (i : BitVec 19)
  /-- LDHI (R313). -/
  | ldhi (d : BitVec 5) (i : BitVec 19)
  /-- ADDPC (R313). -/
  | addpc (d : BitVec 5) (i : BitVec 19)
  /-- CLZ (R314). -/
  | clz (d a : BitVec 5) (e : BitVec 1) (t : BitVec 4)
  /-- CTZ (R314). -/
  | ctz (d a : BitVec 5) (e : BitVec 1) (t : BitVec 4)
  /-- POPC (R314). -/
  | popc (d a : BitVec 5) (e : BitVec 1) (t : BitVec 4)
  /-- BREV (R314). -/
  | brev (d a : BitVec 5) (e : BitVec 1) (t : BitVec 4)
  /-- BSWAP (R314). -/
  | bswap (d a : BitVec 5) (e : BitVec 1) (t : BitVec 4)
  /-- EXT (R315). -/
  | ext (d a : BitVec 5) (e x : BitVec 1) (l p : BitVec 6)
  /-- INS (R315). -/
  | ins (d a : BitVec 5) (e : BitVec 1) (l p : BitVec 6)
  /-- SEL (R316). -/
  | sel (d a b : BitVec 5) (e f : BitVec 1) (c : BitVec 2)
  /-- MAC (R316). -/
  | mac (d a b : BitVec 5) (e f : BitVec 1) (t : BitVec 4) (v : BitVec 1)
  /-- ABS (R316). -/
  | abs (d a : BitVec 5) (e : BitVec 1) (t : BitVec 4) (v : BitVec 1)
  /-- CVTW (R316). -/
  | cvtw (d a : BitVec 5) (e : BitVec 1) (t : BitVec 4) (u : BitVec 3)
  /-- CRC (R316). -/
  | crc (d a b : BitVec 5) (e f : BitVec 1) (t : BitVec 4)
  /-- HASH (R316). -/
  | hash (d a b : BitVec 5) (e f : BitVec 1)
  /-- FADD (R317). -/
  | fadd (d a b : BitVec 5) (e f : BitVec 1) (t : BitVec 4) (v : BitVec 3)
  /-- FSUB (R317). -/
  | fsub (d a b : BitVec 5) (e f : BitVec 1) (t : BitVec 4) (v : BitVec 3)
  /-- FMUL (R317). -/
  | fmul (d a b : BitVec 5) (e f : BitVec 1) (t : BitVec 4) (v : BitVec 3)
  /-- FDIV (R317). -/
  | fdiv (d a b : BitVec 5) (e f : BitVec 1) (t : BitVec 4) (v : BitVec 3)
  /-- FSQRT (R317). -/
  | fsqrt (d a : BitVec 5) (e : BitVec 1) (t : BitVec 4) (v : BitVec 3)
  /-- FMIN (R317). -/
  | fmin (d a b : BitVec 5) (e f : BitVec 1) (t : BitVec 4) (v : BitVec 3)
  /-- FMAX (R317). -/
  | fmax (d a b : BitVec 5) (e f : BitVec 1) (t : BitVec 4) (v : BitVec 3)
  /-- FMA (R318). -/
  | fma (d a b c : BitVec 5) (e : BitVec 1) (t : BitVec 3)
  /-- FNMA (R318). -/
  | fnma (d a b c : BitVec 5) (e : BitVec 1) (t : BitVec 3)
  /-- FCMP (R317). -/
  | fcmp (d a b : BitVec 5) (e f : BitVec 1) (t : BitVec 4) (v : BitVec 3)
  /-- FCVT (R317). -/
  | fcvt (d a : BitVec 5) (u : BitVec 4) (e : BitVec 1) (t : BitVec 4) (v : BitVec 3)
  /-- FCVTI (R317). -/
  | fcvti (d a : BitVec 5) (u : BitVec 4) (e : BitVec 1) (t : BitVec 4) (v : BitVec 3)
  /-- ICVTF (R317). -/
  | icvtf (d a : BitVec 5) (u : BitVec 4) (e : BitVec 1) (t : BitVec 4) (v : BitVec 3)
  /-- FCLASS (R317). -/
  | fclass (d a : BitVec 5) (e : BitVec 1) (t : BitVec 4)
  /-- FEXP2 (R317). -/
  | fexp2 (d a : BitVec 5) (e : BitVec 1) (t : BitVec 4) (v : BitVec 3)
  /-- FLOG2 (R317). -/
  | flog2 (d a : BitVec 5) (e : BitVec 1) (t : BitVec 4) (v : BitVec 3)
  /-- JMP (R319). -/
  | jmp (o : BitVec 18)
  /-- CALL (R319). -/
  | call (o : BitVec 18)
  /-- BEQZ (R319). -/
  | beqz (a : BitVec 5) (e : BitVec 1) (o : BitVec 18)
  /-- BNEZ (R319). -/
  | bnez (a : BitVec 5) (e : BitVec 1) (o : BitVec 18)
  /-- BLTZ (R319). -/
  | bltz (a : BitVec 5) (e : BitVec 1) (o : BitVec 18)
  /-- BGEZ (R319). -/
  | bgez (a : BitVec 5) (e : BitVec 1) (o : BitVec 18)
  /-- BGTZ (R319). -/
  | bgtz (a : BitVec 5) (e : BitVec 1) (o : BitVec 18)
  /-- BLEZ (R319). -/
  | blez (a : BitVec 5) (e : BitVec 1) (o : BitVec 18)
  /-- BPANY (R319). -/
  | bpany (a : BitVec 5) (e : BitVec 1) (o : BitVec 18)
  /-- BPNONE (R319). -/
  | bpnone (a : BitVec 5) (e : BitVec 1) (o : BitVec 18)
  /-- JR (R320). -/
  | jr (a : BitVec 5) (e : BitVec 1) (i : BitVec 13)
  /-- CALLR (R320). -/
  | callr (d a : BitVec 5) (e : BitVec 1) (i : BitVec 13)
  /-- LOOP (R323). -/
  | loop (a : BitVec 5) (e : BitVec 1) (o : BitVec 18)
  /-- LBRK (R325). -/
  | lbrk (k : BitVec 19)
  /-- LIDX (R325). -/
  | lidx (d : BitVec 5) (k : BitVec 19)
  /-- LDB (R326). -/
  | ldb (d a : BitVec 5) (e : BitVec 1) (i : BitVec 13)
  /-- LDBN (R326). -/
  | ldbn (d a : BitVec 5) (e : BitVec 1) (i : BitVec 13)
  /-- LDH (R326). -/
  | ldh (d a : BitVec 5) (e : BitVec 1) (i : BitVec 13)
  /-- LDHN (R326). -/
  | ldhn (d a : BitVec 5) (e : BitVec 1) (i : BitVec 13)
  /-- LDW (R326). -/
  | ldw (d a : BitVec 5) (e : BitVec 1) (i : BitVec 13)
  /-- LDWN (R326). -/
  | ldwn (d a : BitVec 5) (e : BitVec 1) (i : BitVec 13)
  /-- LDD (R326). -/
  | ldd (d a : BitVec 5) (e : BitVec 1) (i : BitVec 13)
  /-- STB (R326). -/
  | stb (d a : BitVec 5) (e : BitVec 1) (i : BitVec 13)
  /-- STH (R326). -/
  | sth (d a : BitVec 5) (e : BitVec 1) (i : BitVec 13)
  /-- STW (R326). -/
  | stw (d a : BitVec 5) (e : BitVec 1) (i : BitVec 13)
  /-- STD (R326). -/
  | std (d a : BitVec 5) (e : BitVec 1) (i : BitVec 13)
  /-- LDO (R328). -/
  | ldo (d a : BitVec 5) (e : BitVec 1) (c : BitVec 3) (z : BitVec 1) (s : BitVec 2)
  /-- STO (R328). -/
  | sto (d a : BitVec 5) (e : BitVec 1) (c : BitVec 3) (s : BitVec 2)
  /-- SLD (R329). -/
  | sld (d a : BitVec 5) (e : BitVec 1) (i : BitVec 13)
  /-- SST (R329). -/
  | sst (d a : BitVec 5) (e : BitVec 1) (i : BitVec 13)
  /-- PREF (R330). -/
  | pref (k a : BitVec 5) (e : BitVec 1) (i : BitVec 13)
  /-- VCFG (R337). -/
  | vcfg (n : BitVec 3)
  /-- SETVL (R338). -/
  | setvl (d a : BitVec 5) (e : BitVec 1) (w : BitVec 2)
  /-- VADD (R341). -/
  | vadd (d a b : BitVec 5) (e f : BitVec 1) (t : BitVec 4) (v : BitVec 3)
  /-- VSUB (R341). -/
  | vsub (d a b : BitVec 5) (e f : BitVec 1) (t : BitVec 4) (v : BitVec 3)
  /-- VMUL (R341). -/
  | vmul (d a b : BitVec 5) (e f : BitVec 1) (t : BitVec 4) (v : BitVec 3)
  /-- VMULH (R341). -/
  | vmulh (d a b : BitVec 5) (e f : BitVec 1) (t : BitVec 4) (v : BitVec 3)
  /-- VDIV (R341). -/
  | vdiv (d a b : BitVec 5) (e f : BitVec 1) (t : BitVec 4) (v : BitVec 3)
  /-- VREM (R341). -/
  | vrem (d a b : BitVec 5) (e f : BitVec 1) (t : BitVec 4) (v : BitVec 3)
  /-- VMIN (R341). -/
  | vmin (d a b : BitVec 5) (e f : BitVec 1) (t : BitVec 4) (v : BitVec 3)
  /-- VMAX (R341). -/
  | vmax (d a b : BitVec 5) (e f : BitVec 1) (t : BitVec 4) (v : BitVec 3)
  /-- VAND (R341). -/
  | vand (d a b : BitVec 5) (e f : BitVec 1) (t : BitVec 4) (v : BitVec 3)
  /-- VOR (R341). -/
  | vor (d a b : BitVec 5) (e f : BitVec 1) (t : BitVec 4) (v : BitVec 3)
  /-- VXOR (R341). -/
  | vxor (d a b : BitVec 5) (e f : BitVec 1) (t : BitVec 4) (v : BitVec 3)
  /-- VSHL (R341). -/
  | vshl (d a b : BitVec 5) (e f : BitVec 1) (t : BitVec 4) (v : BitVec 3)
  /-- VSHR (R341). -/
  | vshr (d a b : BitVec 5) (e f : BitVec 1) (t : BitVec 4) (v : BitVec 3)
  /-- VROT (R341). -/
  | vrot (d a b : BitVec 5) (e f : BitVec 1) (t : BitVec 4) (v : BitVec 3)
  /-- VFADD (R342). -/
  | vfadd (d a b : BitVec 5) (e f : BitVec 1) (t : BitVec 4) (v : BitVec 3)
  /-- VFSUB (R342). -/
  | vfsub (d a b : BitVec 5) (e f : BitVec 1) (t : BitVec 4) (v : BitVec 3)
  /-- VFMUL (R342). -/
  | vfmul (d a b : BitVec 5) (e f : BitVec 1) (t : BitVec 4) (v : BitVec 3)
  /-- VFDIV (R342). -/
  | vfdiv (d a b : BitVec 5) (e f : BitVec 1) (t : BitVec 4) (v : BitVec 3)
  /-- VFSQRT (R342). -/
  | vfsqrt (d a : BitVec 5) (e : BitVec 1) (t : BitVec 4)
  /-- VFMIN (R342). -/
  | vfmin (d a b : BitVec 5) (e f : BitVec 1) (t : BitVec 4) (v : BitVec 3)
  /-- VFMAX (R342). -/
  | vfmax (d a b : BitVec 5) (e f : BitVec 1) (t : BitVec 4) (v : BitVec 3)
  /-- VFMA (R343). -/
  | vfma (d a b c : BitVec 5) (e : BitVec 1) (t : BitVec 3)
  /-- VFNMA (R343). -/
  | vfnma (d a b c : BitVec 5) (e : BitVec 1) (t : BitVec 3)
  /-- VFEXP2 (R342). -/
  | vfexp2 (d a : BitVec 5) (e : BitVec 1) (t : BitVec 4)
  /-- VFLOG2 (R342). -/
  | vflog2 (d a : BitVec 5) (e : BitVec 1) (t : BitVec 4)
  /-- VFRCP (R342). -/
  | vfrcp (d a : BitVec 5) (e : BitVec 1) (t : BitVec 4)
  /-- VFRSQ (R342). -/
  | vfrsq (d a : BitVec 5) (e : BitVec 1) (t : BitVec 4)
  /-- VFTANH (R342). -/
  | vftanh (d a : BitVec 5) (e : BitVec 1) (t : BitVec 4)
  /-- VABS (R342). -/
  | vabs (d a : BitVec 5) (e : BitVec 1) (t : BitVec 4) (v : BitVec 3)
  /-- VNEG (R342). -/
  | vneg (d a : BitVec 5) (e : BitVec 1) (t : BitVec 4) (v : BitVec 3)
  /-- VCMP (R344). -/
  | vcmp (d a b : BitVec 5) (e f : BitVec 1) (t : BitVec 4) (v : BitVec 3)
  /-- VCMPS (R344). -/
  | vcmps (d a b : BitVec 5) (e f : BitVec 1) (t : BitVec 4) (v : BitVec 3)
  /-- VFCMP (R344). -/
  | vfcmp (d a b : BitVec 5) (e f : BitVec 1) (t : BitVec 4) (v : BitVec 3)
  /-- VFCMPS (R344). -/
  | vfcmps (d a b : BitVec 5) (e f : BitVec 1) (t : BitVec 4) (v : BitVec 3)
  /-- PAND (R345). -/
  | pand (d a b : BitVec 5) (e f : BitVec 1)
  /-- POR (R345). -/
  | por (d a b : BitVec 5) (e f : BitVec 1)
  /-- PXOR (R345). -/
  | pxor (d a b : BitVec 5) (e f : BitVec 1)
  /-- PANDN (R345). -/
  | pandn (d a b : BitVec 5) (e f : BitVec 1)
  /-- PNOT (R345). -/
  | pnot (d a : BitVec 5) (e : BitVec 1)
  /-- PCNT (R345). -/
  | pcnt (d a : BitVec 5) (e : BitVec 1)
  /-- PFIRST (R345). -/
  | pfirst (d a : BitVec 5) (e : BitVec 1)
  /-- PSET (R345). -/
  | pset (d a : BitVec 5) (e : BitVec 1) (k : BitVec 2)
  /-- PPACK (R345). -/
  | ppack (d : BitVec 5)
  /-- PUNPK (R345). -/
  | punpk (a : BitVec 5) (e : BitVec 1)
  /-- PMOV (R345). -/
  | pmov (d a : BitVec 5) (e : BitVec 1) (k : BitVec 2)
  /-- FMASKP (R345). -/
  | fmaskp (d a : BitVec 5) (e k : BitVec 1)
  /-- VMOV (R346). -/
  | vmov (d a : BitVec 5) (e : BitVec 1) (t : BitVec 4)
  /-- VBCST (R346). -/
  | vbcst (d a : BitVec 5) (e : BitVec 1) (t : BitVec 4)
  /-- VEXT (R346). -/
  | vext (d a b : BitVec 5) (e f : BitVec 1) (t : BitVec 4)
  /-- VINS (R346). -/
  | vins (d a b : BitVec 5) (e f : BitVec 1) (t : BitVec 4)
  /-- VSLUP (R346). -/
  | vslup (d a b : BitVec 5) (e f : BitVec 1) (t : BitVec 4)
  /-- VSLDN (R346). -/
  | vsldn (d a b : BitVec 5) (e f : BitVec 1) (t : BitVec 4)
  /-- VCPRS (R346). -/
  | vcprs (d a b : BitVec 5) (e f : BitVec 1) (t : BitVec 4)
  /-- VEXPD (R346). -/
  | vexpd (d a b : BitVec 5) (e f : BitVec 1) (t : BitVec 4)
  /-- VPERM (R346). -/
  | vperm (d a b : BitVec 5) (e f : BitVec 1) (t : BitVec 4)
  /-- VIOTA (R346). -/
  | viota (d a : BitVec 5) (e : BitVec 1) (t : BitVec 4) (v : BitVec 3)
  /-- VSEL (R346). -/
  | vsel (d a b : BitVec 5) (e f : BitVec 1) (t : BitVec 4)
  /-- VRED (R347). -/
  | vred (d a b : BitVec 5) (e f : BitVec 1) (t : BitVec 4) (v : BitVec 3)
  /-- VFRED (R347). -/
  | vfred (d a b : BitVec 5) (e f : BitVec 1) (t : BitVec 4) (v : BitVec 3)
  /-- VSCAN (R347). -/
  | vscan (d a b : BitVec 5) (e f : BitVec 1) (t : BitVec 4) (v : BitVec 3)
  /-- VFSCAN (R347). -/
  | vfscan (d a b : BitVec 5) (e f : BitVec 1) (t : BitVec 4) (v : BitVec 3)
  /-- VDOT (R347). -/
  | vdot (d a b : BitVec 5) (e f : BitVec 1) (t : BitVec 4)
  /-- VLD (R364). -/
  | vld (v a : BitVec 5) (e : BitVec 1) (t : BitVec 4)
  /-- VST (R364). -/
  | vst (v a : BitVec 5) (e : BitVec 1) (t : BitVec 4)
  /-- VLDFF (R365). -/
  | vldff (v a : BitVec 5) (e : BitVec 1) (t : BitVec 4)
  /-- VGTH (R366). -/
  | vgth (v a : BitVec 5) (e : BitVec 1) (b : BitVec 5) (f : BitVec 1) (t : BitVec 4)
  /-- VSCT (R366). -/
  | vsct (v a : BitVec 5) (e : BitVec 1) (b : BitVec 5) (f : BitVec 1) (t : BitVec 4)
  /-- VGTHW (R367). -/
  | vgthw (v a : BitVec 5) (e : BitVec 1) (b : BitVec 5) (f : BitVec 1) (t : BitVec 4) (x : BitVec 3)
  /-- VLDS (R370). -/
  | vlds (v a : BitVec 5) (e : BitVec 1) (t : BitVec 4)
  /-- VSTS (R370). -/
  | vsts (v a : BitVec 5) (e : BitVec 1) (t : BitVec 4)
  /-- VGTHS (R370). -/
  | vgths (v a : BitVec 5) (e : BitVec 1) (b : BitVec 5) (f : BitVec 1) (t : BitVec 4)
  /-- VSCTS (R370). -/
  | vscts (v a : BitVec 5) (e : BitVec 1) (b : BitVec 5) (f : BitVec 1) (t : BitVec 4)
  /-- VSPILL (R371). -/
  | vspill (v a : BitVec 5) (e : BitVec 1)
  /-- VFILL (R371). -/
  | vfill (v a : BitVec 5) (e : BitVec 1)
  /-- VLDBC (R368). -/
  | vldbc (v a : BitVec 5) (e : BitVec 1) (t : BitVec 4)
  /-- VPREF (R372). -/
  | vpref (a : BitVec 5) (e : BitVec 1) (t : BitVec 4) (k : BitVec 2)
  /-- VLDSG (R369). -/
  | vldsg (v a : BitVec 5) (e : BitVec 1) (t : BitVec 4) (x : BitVec 3)
  /-- VSTSG (R369). -/
  | vstsg (v a : BitVec 5) (e : BitVec 1) (t : BitVec 4) (x : BitVec 3)
  /-- VCVT (R348). -/
  | vcvt (d a : BitVec 5) (u : BitVec 4) (e : BitVec 1) (t : BitVec 4) (v : BitVec 3)
  /-- VCVTI (R348). -/
  | vcvti (d a : BitVec 5) (u : BitVec 4) (e : BitVec 1) (t : BitVec 4) (v : BitVec 3)
  /-- VICVT (R348). -/
  | vicvt (d a : BitVec 5) (u : BitVec 4) (e : BitVec 1) (t : BitVec 4) (v : BitVec 3)
  /-- VNARW (R348). -/
  | vnarw (d a : BitVec 5) (u : BitVec 4) (e : BitVec 1) (t : BitVec 4)
  /-- VWIDN (R348). -/
  | vwidn (d a : BitVec 5) (u : BitVec 4) (e : BitVec 1) (t : BitVec 4)
  /-- VQNT (R349). -/
  | vqnt (d a b : BitVec 5) (e f : BitVec 1) (q : BitVec 4) (g : BitVec 2)
  /-- VDQNT (R349). -/
  | vdqnt (d a b : BitVec 5) (e f : BitVec 1) (q : BitVec 4) (g : BitVec 2)
  /-- VBSCL (R349). -/
  | vbscl (d a : BitVec 5) (e : BitVec 1) (q : BitVec 4) (g : BitVec 2)
  /-- VFRND (R348). -/
  | vfrnd (d a : BitVec 5) (e : BitVec 1) (t : BitVec 4) (v : BitVec 3)
  /-- VFCLS (R348). -/
  | vfcls (d a : BitVec 5) (e : BitVec 1) (t : BitVec 4)
  /-- VPK (R348). -/
  | vpk (d a b : BitVec 5) (e f : BitVec 1) (t : BitVec 4)
  /-- VUPK (R348). -/
  | vupk (d a : BitVec 5) (e : BitVec 1) (t : BitVec 4) (v : BitVec 1)
  /-- VBSWP (R348). -/
  | vbswp (d a : BitVec 5) (e : BitVec 1) (t : BitVec 4)
  /-- VCLZ (R348). -/
  | vclz (d a : BitVec 5) (e : BitVec 1) (t : BitVec 4) (v : BitVec 1)
  /-- VPOPC (R348). -/
  | vpopc (d a : BitVec 5) (e : BitVec 1) (t : BitVec 4)
  /-- VHASH (R348). -/
  | vhash (d a b : BitVec 5) (e f : BitVec 1)
  /-- MLATCH (R379). -/
  | mlatch (d a b : BitVec 5) (e f : BitVec 1) (t : BitVec 4)
  /-- MLATCHV (R380). -/
  | mlatchv (a b : BitVec 5) (e f : BitVec 1) (t : BitVec 4)
  /-- MOP (R383). -/
  | mop (d a b : BitVec 5) (e f : BitVec 1) (t : BitVec 4) (k : BitVec 1) (g : BitVec 2)
  /-- MOP.SP (R384). -/
  | mopSp (d a b : BitVec 5) (e f : BitVec 1) (t : BitVec 4) (k : BitVec 1) (g : BitVec 2)
  /-- MOP.PAIR (R386). -/
  | mopPair (d a b : BitVec 5) (e f : BitVec 1) (t : BitVec 4) (k : BitVec 1) (g : BitVec 2)
  /-- MPSTAT (R389). -/
  | mpstat (d : BitVec 5)
  /-- TZERO (R390). -/
  | tzero (d : BitVec 5)
  /-- TMOV (R390). -/
  | tmov (d a : BitVec 5) (e : BitVec 1)
  /-- TADD (R390). -/
  | tadd (d a : BitVec 5) (e : BitVec 1) (t : BitVec 4)
  /-- TACT (R390). -/
  | tact (d a : BitVec 5) (e : BitVec 1) (v : BitVec 2) (t : BitVec 4)
  /-- TSTORE (R392). -/
  | tstore (d a b : BitVec 5) (e f : BitVec 1) (t : BitVec 4) (v : BitVec 1)
  /-- TSAVE (R393). -/
  | tsave (d a : BitVec 5) (e k : BitVec 1)
  /-- TLOAD (R393). -/
  | tload (d a : BitVec 5) (e k : BitVec 1)
  /-- TRDV (R391). -/
  | trdv (d a b : BitVec 5) (e f : BitVec 1) (t : BitVec 4) (v : BitVec 1)
  /-- TWRV (R391). -/
  | twrv (d a b : BitVec 5) (e f : BitVec 1) (t : BitVec 4) (v : BitVec 1)
  /-- TFILL (R390). -/
  | tfill (d a : BitVec 5) (e : BitVec 1) (t : BitVec 4)
  /-- AMO (R400). -/
  | amo (d a : BitVec 5) (e : BitVec 1) (s : BitVec 3) (o : BitVec 2) (p t : BitVec 4)
  /-- VAMO (R402). -/
  | vamo (d a : BitVec 5) (e : BitVec 1) (s : BitVec 3) (o : BitVec 2) (p t : BitVec 4)
  /-- VGLL (R403). -/
  | vgll (d a : BitVec 5) (e : BitVec 1) (s : BitVec 3) (o : BitVec 2) (t : BitVec 4)
  /-- VSCC (R403). -/
  | vscc (d a : BitVec 5) (e : BitVec 1) (s : BitVec 3) (o : BitVec 2) (p : BitVec 3) (t : BitVec 4)
  /-- SAMO (R401). -/
  | samo (d a : BitVec 5) (e : BitVec 1) (p t : BitVec 4)
  /-- SRED (R404). -/
  | sred (d a : BitVec 5) (e : BitVec 1) (p t : BitVec 4)
  /-- HACC (R405). -/
  | hacc (d a : BitVec 5) (e : BitVec 1) (r : BitVec 5) (o : BitVec 3)
  /-- WAITA (R406). -/
  | waita (d a : BitVec 5) (e : BitVec 1) (s : BitVec 3) (o : BitVec 2) (c : BitVec 4) (z : BitVec 2)
  /-- VWAIT (R408). -/
  | vwait (d a : BitVec 5) (e : BitVec 1) (s : BitVec 3) (o : BitVec 2) (p c : BitVec 3)
  /-- ARRIVE (R410). -/
  | arrive (d a : BitVec 5) (e : BitVec 1) (s : BitVec 3) (o : BitVec 2) (x l : BitVec 1) (n : BitVec 3) (g : BitVec 1)
  /-- AWAIT (R411). -/
  | await (d a : BitVec 5) (e : BitVec 1) (s : BitVec 3) (l : BitVec 1) (n : BitVec 3) (g : BitVec 1)
  /-- ENDPH (R412). -/
  | endph (s : BitVec 3) (l : BitVec 1) (n : BitVec 3)
  /-- FENCE (R413). -/
  | fence (s : BitVec 3)
  /-- MPRINT (R415). -/
  | mprint (d a : BitVec 5) (e : BitVec 1)
  /-- MPRINT.FORK (R415). -/
  | mprintFork (d a : BitVec 5) (e : BitVec 1)
  /-- MSTRIKE (R415). -/
  | mstrike (d a : BitVec 5) (e : BitVec 1)
  /-- MQUERY (R416). -/
  | mquery (d a : BitVec 5) (e : BitVec 1)
  /-- MGRANT (R417). -/
  | mgrant (d a : BitVec 5) (e : BitVec 1)
  /-- PLSHARE (R418). -/
  | plshare (d a : BitVec 5) (e : BitVec 1) (s : BitVec 5)
  /-- PLDEC (R418). -/
  | pldec (a : BitVec 5) (e : BitVec 1) (s : BitVec 5)
  /-- ECMD (R437). -/
  | ecmd (d a : BitVec 5) (e : BitVec 1) (f : BitVec 3)
  /-- ECPOLL (R439). -/
  | ecpoll (d : BitVec 5) (f : BitVec 3)
  /-- ECFENCE (R439). -/
  | ecfence (d : BitVec 5) (f : BitVec 4)
  /-- ECABORT (R440). -/
  | ecabort (d a : BitVec 5) (e : BitVec 1) (f : BitVec 3)
  /-- ECSTAT (R439). -/
  | ecstat (d : BitVec 5) (f : BitVec 3)
  /-- SLEEPTO (R441). -/
  | sleepto (d a : BitVec 5) (e : BitVec 1) (f : BitVec 3)
  /-- ERET (R443). -/
  | eret
  /-- IDLE (R444). -/
  | idle
  /-- FENCEI (R448). -/
  | fencei
  /-- DHALT (R449). -/
  | dhalt
  /-- NOP (R442). -/
  | nop
  /-- LCONT (R325). -/
  | lcont
  /-- YIELD (R442). -/
  | yield
  /-- STREND (R339). -/
  | strend
  /-- STRABT (R340). -/
  | strabt
  /-- SLEEP (R442). -/
  | sleep (a : BitVec 5) (e : BitVec 1)
  /-- PAUSE (R442). -/
  | pause (n : BitVec 16)
  /-- SETVLI (R338). -/
  | setvli (d : BitVec 5) (n : BitVec 17) (w : BitVec 2)
  /-- HINT (R442). -/
  | hint (i : BitVec 19)
  /-- PRCHK (R439). -/
  | prchk (d a : BitVec 5) (e : BitVec 1) (f : BitVec 3)
  /-- BRKC (R443). -/
  | brkc (a : BitVec 5) (e : BitVec 1) (i : BitVec 13)
  /-- BRK (R302). -/
  | brk (i : BitVec 24)
  /-- STRIP_COMMIT (R163). -/
  | stripCommit (k : Agent)
  /-- RDS (R155). -/
  | rds (k gen line pts lease : Nat)
  /-- RNW (R155). -/
  | rnw (k gen line pts lease wts epoch : Nat)
  /-- RDO (R157). -/
  | rdo (k gen line pts : Nat)
  /-- RDR (R164). -/
  | rdr (k gen line pts : Nat)
  /-- VAL (R163). -/
  | val (k gen line tc wts epoch : Nat)
  /-- WB (R159). -/
  | wb (o : Owner) (gen line ver wts rts : Nat) (data : LineData) (mask : LineMask)
  /-- REL (R159). -/
  | rel (o : Owner) (gen line ver wts rts : Nat)
  /-- NH (R160). -/
  | nh (o : Owner) (gen line ver : Nat)
  /-- PPR (R174). -/
  | ppr (k gen line : Nat)
  /-- PPA (R174). -/
  | ppa (k gen line tp : Nat) (bytes : Line) (mask : LineMask)
  /-- DATA (R155). -/
  | data (k line code : Nat) (sectors : Sectors) (wts leaseEnd : Nat)
  /-- RNOK (R155). -/
  | rnok (k line leaseEnd : Nat)
  /-- GRANT (R157). -/
  | grant (k line code : Nat) (sectors : Sectors) (wts rts ver : Nat) (forRead : Bool)
  /-- VOK (R163). -/
  | vok (k line : Nat)
  /-- VFAIL (R164). -/
  | vfail (k line : Nat)
  /-- RCL (R158). -/
  | rcl (o : Owner) (line ver : Nat) (mode : RecallMode)
  /-- IDLE_RULE_TICK (R161). -/
  | idleRuleTick (k : Agent)
  /-- REPEAT_RULE (R161). -/
  | repeatRule (k : Agent)
  /-- REBASE (R166). -/
  | rebase
  /-- DEAD_AGENT (R168). -/
  | deadAgent (o : Owner)
  /-- HEAT_SWEEP (R101). -/
  | heatSweep (line : Nat)
  /-- HOST_MEMRD (R171); `own` when the host asks for the line exclusively (R36). -/
  | hostMemrd (port line : Nat) (own : Bool)
  /-- HOST_MEMWR (R171). -/
  | hostMemwr (port line : Nat) (bytes : Line) (mask : LineMask)
  /-- BIRSPI (R39). -/
  | birspi (line : Nat)
  /-- BIAS_FLIP_DONE (R37). -/
  | biasFlipDone (frame : Nat)
  /-- PEER_LOAD (R172). -/
  | peerLoad (src off size tag : Nat)
  /-- PEER_STORE (R172). -/
  | peerStore (src off size : Nat) (bytes : Line) (tag : Nat)
  /-- PEER_ATOMIC (R47). -/
  | peerAtomic (src off : Nat) (op ty : BitVec 4) (s s2 : DWord) (tag : Nat)
  /-- PEER_COMPLETION (R47): the completion slot of the oldest store of an agent that is out to a line of a peer. -/
  | peerCompletion (done : PeerDone)
  /-- HOST_GLOBAL_OBSERVATION (R49). -/
  | hostGlobalObservation (k : Agent)
  /-- PERSISTENCE_FLUSH_DONE (R213). -/
  | persistenceFlushDone (k : Agent)
  /-- FLIT_RECEIVE (R43): the 256 bytes of a flit (R42): its header, the 15 slots, slot i in bits 128i+127 to 128i, and its CRC-64. -/
  | flitReceive (port : Nat) (head : BitVec 64) (slots : BitVec 1920) (crc : BitVec 64)
  /-- PORT_DOWN (R43). -/
  | portDown (port : Nat)
  /-- RETRAIN_ATTEMPT (R44). -/
  | retrainAttempt (port cleanFlits : Nat)
  /-- RETRAIN_SUCCESS (R44). -/
  | retrainSuccess (port : Nat)
  /-- MODULE_RESET (R10): how the ports trained and how the module comes up. -/
  | moduleReset (port0 port1 : PortMode) (boot : BootInput)
  /-- ACCOUNTING_INTERVAL (R14). -/
  | accountingInterval (meters : List MeterReading)
  /-- WINDOW_BOUNDARY (R16): the energy of the admitted work in µJ at each clock step from 20 to 40, and whether every sensor
  reads below 95 °C (R17). -/
  | windowBoundary (predicted : List Nat) (cool : Bool)
  /-- CLOCK_CHANGE (R16). -/
  | clockChange (die step : Nat)
  /-- THERMAL_TRIP (R17). -/
  | thermalTrip
  /-- THERMAL_SHUTDOWN (R17). -/
  | thermalShutdown
  /-- CORRECTED_ERROR (R19). -/
  | correctedError (r : Region)
  /-- UNCORRECTABLE_ERROR (R19): the region and what it damages. -/
  | uncorrectableError (r : Region) (lost : Damage)
  /-- WAY_RETIRE_DONE (R22). -/
  | wayRetireDone (die slice : Nat)
  /-- HEARTBEAT_MISS (R122). -/
  | heartbeatMiss (die : Nat)
  /-- FENCED_DIE_REISSUE (R124). -/
  | fencedDieReissue (die : Nat)
  /-- SLATE_FETCH (R109). -/
  | slateFetch (vi q : Nat)
  /-- SLATE_ADMIT (R110). -/
  | slateAdmit (vi q : Nat)
  /-- STAGE_RESERVE (R112). -/
  | stageReserve (die slot : Nat)
  /-- BIND (R116). -/
  | bind (die row outer count saved : Nat)
  /-- DISPATCH_START (R114). -/
  | dispatchStart (k : Agent)
  /-- CONTEXT_RESUME (R263). -/
  | contextResume (k : Agent)
  /-- SLATE_COMPLETE (R115). -/
  | slateComplete (slot : Nat)
  /-- PREEMPT_REQUEST (R119). -/
  | preemptRequest (k : Agent)
  /-- CONTEXT_SAVE (R262). -/
  | contextSave (k : Agent)
  /-- FORCED_PREEMPT (R120). -/
  | forcedPreempt (k : Agent)
  /-- TLBPINWAIT_EXPIRY (R96). -/
  | tlbpinwaitExpiry (k holder : Agent)
  /-- TLBINV_DONE (R96). -/
  | tlbinvDone (k : Agent)
  /-- FAULT_BATCH_POST (R66). -/
  | faultBatchPost (vi : Nat)
  /-- EVENT_POST (R65). -/
  | eventPost (ring : RingId) (kind cid detail pc : Nat)
  /-- WAIT_WAKE (R407). -/
  | waitWake (k line t : Nat)
  /-- WAIT_DEADLINE (R406). -/
  | waitDeadline (k : Agent)
  /-- WAIT_POLL (R407). -/
  | waitPoll (k : Agent)
  /-- SLEEP_WAKE (R442). -/
  | sleepWake (k : Agent)
  /-- SLEEPTO_WAKE (R441). -/
  | sleeptoWake (k : Agent)
  /-- PAUSE_END (R442). -/
  | pauseEnd (k : Agent)
  /-- PAIR_START (R386). -/
  | pairStart (k : Agent)
  /-- PAIRWAIT_EXPIRY (R387). -/
  | pairwaitExpiry (k : Agent)
  /-- MATRIX_CHUNK (R383). -/
  | matrixChunk (k : Agent)
  /-- ENGINE_SEGMENT_ISSUE (R145). -/
  | engineSegmentIssue (c : ChainId)
  /-- DOLLY_COPY (R428). -/
  | dollyCopy (c : ChainId)
  /-- DOLLY_FILL (R428). -/
  | dollyFill (c : ChainId)
  /-- DOLLY_COPYM (R429). -/
  | dollyCopym (c : ChainId)
  /-- FOLLOW_ON_MATRIX (R430). -/
  | followOnMatrix (c : ChainId)
  /-- CAST_DISPATCH (R432). -/
  | castDispatch (c : ChainId)
  /-- MIX_COMBINE (R433). -/
  | mixCombine (c : ChainId)
  /-- COLL_PUT (R434). -/
  | collPut (c : ChainId)
  /-- COLL_REDUCE (R434). -/
  | collReduce (c : ChainId)
  /-- COLL_SIGNAL (R434). -/
  | collSignal (c : ChainId)
  /-- DAILIES_DELTA (R435). -/
  | dailiesDelta (c : ChainId)
  /-- ENGINE_FAULT (R426). -/
  | engineFault (c : ChainId) (cause vaPage access detail : Nat)
  /-- COMMAND_COMPLETE (R425). -/
  | commandComplete (c : ChainId)
  /-- MODBUDGET_WRITE (R12). -/
  | modbudgetWrite (value : DWord)
  /-- ERROR_WINDOW_WRITE (R20). -/
  | errorWindowWrite (value : DWord)
  /-- FWCMD_INSTALL (R25). -/
  | fwcmdInstall (value : DWord)
  /-- FW_UPDATE_DONE (R25). -/
  | fwUpdateDone (result : Nat)
  /-- RECCMD_RECOVERY (R27). -/
  | reccmdRecovery (value : DWord)
  /-- RECOVERY_DONE (R27). -/
  | recoveryDone (result : Nat)
  /-- ATTCMD_REQUEST (R30). -/
  | attcmdRequest (who : RingId) (value : DWord)
  /-- ATTESTATION_SIGNED (R29). -/
  | attestationSigned
  /-- OWNCMD_WRITE (R54). -/
  | owncmdWrite (value : DWord)
  /-- OWNCMD_DONE (R54). -/
  | owncmdDone
  /-- VICTL_ENABLE (R55). -/
  | victlEnable (vi : Nat)
  /-- VICTL_DISABLE (R55). -/
  | victlDisable (vi : Nat)
  /-- VICTL_DISABLE_DONE (R55). -/
  | victlDisableDone (vi : Nat)
  /-- HOST_RANGE_WRITE (R55). -/
  | hostRangeWrite (vi k : Nat) (isSize : Bool) (value : DWord)
  /-- VITICKETS_WRITE (R116). -/
  | viticketsWrite (vi : Nat) (value : DWord)
  /-- CTXCMD_CREATE (R56). -/
  | ctxcmdCreate (vi : Nat)
  /-- CTXCMD_DESTROY (R56). -/
  | ctxcmdDestroy (vi cid : Nat)
  /-- CTXPRIV_WRITE (R246). -/
  | ctxprivWrite (value : DWord)
  /-- QUEUE_ENABLE (R63). -/
  | queueEnable (vi q : Nat)
  /-- QUEUE_DISABLE (R63). -/
  | queueDisable (vi q : Nat)
  /-- QUEUE_TICKETS_WRITE (R116). -/
  | queueTicketsWrite (vi q tickets : Nat)
  /-- QTAIL_WRITE (R61). -/
  | qtailWrite (vi q : Nat) (value : DWord)
  /-- FQBASE_WRITE (R64). -/
  | fqbaseWrite (vi : Nat) (value : DWord)
  /-- FQSIZE_WRITE (R64). -/
  | fqsizeWrite (vi : Nat) (value : DWord)
  /-- FQHEAD_WRITE (R64). -/
  | fqheadWrite (vi : Nat) (value : DWord)
  /-- FQREPLAY_RETRY (R67). -/
  | fqreplayRetry (vi tag : Nat)
  /-- FQREPLAY_ABANDON (R67). -/
  | fqreplayAbandon (vi tag : Nat)
  /-- FQREPLAY_RESERVED (R67). -/
  | fqreplayReserved (vi : Nat) (value : DWord)
  /-- CBCMD_CONVERT (R193). -/
  | cbcmdConvert (vi index : Nat)
  /-- CBCMD_RELEASE (R193). -/
  | cbcmdRelease (vi index : Nat)
  /-- CBCMD_GRANT (R193). -/
  | cbcmdGrant (vi index : Nat)
  /-- CBCMD_NONE (R193). -/
  | cbcmdNone (vi : Nat)
  /-- CSTATADDR_WRITE (R189). -/
  | cstataddrWrite (vi : Nat) (value : DWord)
  /-- DBGCMD_HALT (R265). -/
  | dbgcmdHalt (vi : Nat)
  /-- DBGCMD_RUN (R265). -/
  | dbgcmdRun (vi : Nat)
  /-- DBGCMD_STEP (R266). -/
  | dbgcmdStep (vi : Nat)
  /-- DBGCMD_STEP_GROUP (R266). -/
  | dbgcmdStepGroup (vi : Nat)
  /-- DBGCMD_DUMP (R265). -/
  | dbgcmdDump (vi : Nat)
  /-- LINKCTL_RETRAIN (R44). -/
  | linkctlRetrain (ports : BitVec 12)
  /-- TLBPINWAIT_WRITE (R97). -/
  | tlbpinwaitWrite (value : DWord)
  /-- PREEMPTDL_WRITE (R121). -/
  | preemptdlWrite (value : DWord)
  /-- HEATCTL_WRITE (R98). -/
  | heatctlWrite (value : DWord)
  /-- STALEDROP_READ (R175). -/
  | staledropRead (die : Nat)
  /-- PHOVL_READ (R175). -/
  | phovlRead (die : Nat)
  /-- RENEWD_READ (R175). -/
  | renewdRead (die : Nat)
  /-- RENEWF_READ (R175). -/
  | renewfRead (die : Nat)
  /-- EXPEVICT_READ (R187). -/
  | expevictRead (die : Nat)
  /-- EXPRECALL_READ (R187). -/
  | exprecallRead (die : Nat)
  /-- INCOMP_READ (R187). -/
  | incompRead (die : Nat)
  /-- POOLEXP_READ (R187). -/
  | poolexpRead (die : Nat)
  /-- MDHIT_READ (R187). -/
  | mdhitRead (die : Nat)
  /-- MDMISS_READ (R187). -/
  | mdmissRead (die : Nat)
  /-- MDUE_READ (R187). -/
  | mdueRead (die : Nat)
  /-- MDLEAK_READ (R187). -/
  | mdleakRead (die : Nat)
  /-- FQSTAT_READ (R64). -/
  | fqstatRead (vi : Nat)
  /-- OWNCMD_READ (R54). -/
  | owncmdRead
  /-- REGISTER_WRITE (R5). -/
  | registerWrite (win : RingId) (offset : Nat) (value : DWord)
  /-- STAGE_BANK_OPERATION (R142). -/
  | stageBankOperation (op : StageOp)
  /-- STAGE_ANSWER (R204). -/
  | stageAnswer (k bt : Nat) (result : Option DWord)
  /-- LONG_LATENCY_RESULT (R239). -/
  | longLatencyResult (k : Agent) (r : RegRef) (value : Nat)
  /-- PEER_DATA_RETURN (R48). -/
  | peerDataReturn (k : Agent) (value : DWord) (cause : Nat)
  /-- HOST_READ_COMPLETION (R33). -/
  | hostReadCompletion (line : Nat) (bytes : Line)
  /-- PHASE_RESERVE_REPLY (R174). -/
  | phaseReserveReply (k line rts : Nat)
  /-- BISNPDATABLK_ANSWER (R36). -/
  | bisnpdatablkAnswer (line : Nat) (dirty : Option (Line × LineMask))
  /-- CTXCMD_DONE (R56). -/
  | ctxcmdDone (vi : Nat)
  /-- CBCMD_DONE (R193). -/
  | cbcmdDone (vi : Nat)
  /-- HOST_RANGE_INVALIDATE_DONE (R55). -/
  | hostRangeInvalidateDone (vi : Nat)
  deriving DecidableEq, Repr

/-- The seven rows that Lean's compiled code cannot build as `Instr` values; the decoder names them here. -/
inductive LastRow where
  | sleep (a : BitVec 5) (e : BitVec 1)
  | pause (n : BitVec 16)
  | setvli (d : BitVec 5) (n : BitVec 17) (w : BitVec 2)
  | hint (i : BitVec 19)
  | prchk (d a : BitVec 5) (e : BitVec 1) (f : BitVec 3)
  | brkc (a : BitVec 5) (e : BitVec 1) (i : BitVec 13)
  | brk (i : BitVec 24)
  deriving DecidableEq, Repr

/-- The instruction of a last row. -/
noncomputable def LastRow.toInstr : LastRow → Instr
  | .sleep a e => .sleep a e
  | .pause n => .pause n
  | .setvli d n w => .setvli d n w
  | .hint i => .hint i
  | .prchk d a e f => .prchk d a e f
  | .brkc a e i => .brkc a e i
  | .brk i => .brk i

end Sys2Proof
end

