-- ==== Sys2Proof/Decode.lean ====
section
/-!
DEFINITION. The decoder and the encoder (spec/13_encoding.md). A word is judged in the order of R301: the primary opcode
0x00 is TRAPZ whatever its other bits; a word whose function code no entry assigns is `unassigned` (trap 0x01, TVAL 1);
a word with a reserved field or an unused E bit that is not zero is `reserved` (trap 0x01, TVAL 2); every other word
is an instruction, whose element types and registers are judged when it executes.
-/
namespace Sys2Proof

/-- What the decoder reads from bytes: an instruction, or the name of the reason it refuses. -/
inductive Decoded where
  | instr (i : Instr)
  /-- One of the seven rows of the last primaries. -/
  | last (r : LastRow)
  /-- An unassigned function code (R301, TVAL 1). -/
  | unassigned
  /-- A reserved field that is not zero (R301, TVAL 2). -/
  | reserved
  /-- LCONT with an immediate that is not zero: an illegal operand (14 R325). -/
  | operand
  /-- Fewer than four bytes. -/
  | short
  deriving DecidableEq, Repr

/-- The field of `n` bits of `w` that begins at bit `lo` (R292). -/
def fld {n : Nat} (w lo : Nat) : BitVec n := BitVec.ofNat n (w / 2 ^ lo)

/-- The instructions of primaries 0x00 to 0x0F by their low digit (R297). -/
def fields0 (w : Nat) : Nat → Option (Instr ⊕ LastRow)
  | 0x0 => some (.inl (.trapz (fld w 0)))
  | 0x1 => some (.inl (.ctlr (fld w 19) (fld w 0)))
  | 0x2 => some (.inl (.ctlw (fld w 14) (fld w 13) (fld w 0)))
  | 0x3 => some (.inl (.ctls (fld w 19) (fld w 14) (fld w 13) (fld w 0)))
  | 0x4 => some (.inl (.ctlc (fld w 19) (fld w 14) (fld w 13) (fld w 0)))
  | 0x5 => some (.inl (.ctlx (fld w 19) (fld w 14) (fld w 13) (fld w 0)))
  | 0x6 => some (.inl (.syscall (fld w 0)))
  | 0x7 => some (.inl .eret)
  | 0x8 => some (.inl .idle)
  | 0x9 => some (.inl (.tlbinv (fld w 19) (fld w 14) (fld w 13) (fld w 0)))
  | 0xA => some (.inl (.bflip (fld w 19) (fld w 14) (fld w 13) (fld w 0)))
  | 0xB => some (.inl (.enrd (fld w 19) (fld w 0)))
  | 0xC => some (.inl .fencei)
  | 0xD => some (.inl .dhalt)
  | 0xE => some (.inl (.dmark (fld w 0)))
  | 0xF => some (.inl .nop)
  | _ => none

/-- The instructions of primaries 0x10 to 0x1F by their low digit (R297). -/
def fields1 (w : Nat) : Nat → Option (Instr ⊕ LastRow)
  | 0x0 => some (.inl (.add (fld w 19) (fld w 14) (fld w 9) (fld w 8) (fld w 7) (fld w 3) (fld w 0)))
  | 0x1 => some (.inl (.sub (fld w 19) (fld w 14) (fld w 9) (fld w 8) (fld w 7) (fld w 3) (fld w 0)))
  | 0x2 => some (.inl (.mul (fld w 19) (fld w 14) (fld w 9) (fld w 8) (fld w 7) (fld w 3) (fld w 0)))
  | 0x3 => some (.inl (.mulh (fld w 19) (fld w 14) (fld w 9) (fld w 8) (fld w 7) (fld w 3) (fld w 0)))
  | 0x4 => some (.inl (.div (fld w 19) (fld w 14) (fld w 9) (fld w 8) (fld w 7) (fld w 3) (fld w 0)))
  | 0x5 => some (.inl (.rem (fld w 19) (fld w 14) (fld w 9) (fld w 8) (fld w 7) (fld w 3) (fld w 0)))
  | 0x6 => some (.inl (.min (fld w 19) (fld w 14) (fld w 9) (fld w 8) (fld w 7) (fld w 3) (fld w 0)))
  | 0x7 => some (.inl (.max (fld w 19) (fld w 14) (fld w 9) (fld w 8) (fld w 7) (fld w 3) (fld w 0)))
  | 0x8 => some (.inl (.and (fld w 19) (fld w 14) (fld w 9) (fld w 8) (fld w 7)))
  | 0x9 => some (.inl (.or (fld w 19) (fld w 14) (fld w 9) (fld w 8) (fld w 7)))
  | 0xA => some (.inl (.xor (fld w 19) (fld w 14) (fld w 9) (fld w 8) (fld w 7)))
  | 0xB => some (.inl (.andn (fld w 19) (fld w 14) (fld w 9) (fld w 8) (fld w 7)))
  | 0xC => some (.inl (.shl (fld w 19) (fld w 14) (fld w 9) (fld w 8) (fld w 7) (fld w 3) (fld w 0)))
  | 0xD => some (.inl (.shr (fld w 19) (fld w 14) (fld w 9) (fld w 8) (fld w 7) (fld w 3) (fld w 0)))
  | 0xE => some (.inl (.rot (fld w 19) (fld w 14) (fld w 9) (fld w 8) (fld w 7) (fld w 3) (fld w 0)))
  | 0xF => some (.inl (.cmp (fld w 19) (fld w 14) (fld w 9) (fld w 8) (fld w 7) (fld w 3) (fld w 0)))
  | _ => none

/-- The instructions of primaries 0x20 to 0x2F by their low digit (R297). -/
def fields2 (w : Nat) : Nat → Option (Instr ⊕ LastRow)
  | 0x0 => some (.inl (.addi (fld w 19) (fld w 14) (fld w 13) (fld w 0)))
  | 0x1 => some (.inl (.muli (fld w 19) (fld w 14) (fld w 13) (fld w 0)))
  | 0x2 => some (.inl (.andi (fld w 19) (fld w 14) (fld w 13) (fld w 0)))
  | 0x3 => some (.inl (.ori (fld w 19) (fld w 14) (fld w 13) (fld w 0)))
  | 0x4 => some (.inl (.xori (fld w 19) (fld w 14) (fld w 13) (fld w 0)))
  | 0x5 => some (.inl (.shli (fld w 19) (fld w 14) (fld w 13) (fld w 0)))
  | 0x6 => some (.inl (.shri (fld w 19) (fld w 14) (fld w 13) (fld w 6) (fld w 0)))
  | 0x7 => some (.inl (.roti (fld w 19) (fld w 14) (fld w 13) (fld w 0)))
  | 0x8 => some (.inl (.slti (fld w 19) (fld w 14) (fld w 13) (fld w 0)))
  | 0x9 => some (.inl (.sltni (fld w 19) (fld w 14) (fld w 13) (fld w 0)))
  | 0xA => some (.inl (.seqi (fld w 19) (fld w 14) (fld w 13) (fld w 0)))
  | 0xB => some (.inl (.mini (fld w 19) (fld w 14) (fld w 13) (fld w 0)))
  | 0xC => some (.inl (.maxi (fld w 19) (fld w 14) (fld w 13) (fld w 0)))
  | 0xD => some (.inl (.divi (fld w 19) (fld w 14) (fld w 13) (fld w 0)))
  | 0xE => some (.inl (.remi (fld w 19) (fld w 14) (fld w 13) (fld w 0)))
  | 0xF => some (.inl (.subfi (fld w 19) (fld w 14) (fld w 13) (fld w 0)))
  | _ => none

/-- The instructions of primaries 0x30 to 0x3F by their low digit (R297). -/
def fields3 (w : Nat) : Nat → Option (Instr ⊕ LastRow)
  | 0x0 => some (.inl (.movi (fld w 19) (fld w 0)))
  | 0x1 => some (.inl (.ldhi (fld w 19) (fld w 0)))
  | 0x2 => some (.inl (.addpc (fld w 19) (fld w 0)))
  | 0x3 => some (.inl (.clz (fld w 19) (fld w 14) (fld w 8) (fld w 3)))
  | 0x4 => some (.inl (.ctz (fld w 19) (fld w 14) (fld w 8) (fld w 3)))
  | 0x5 => some (.inl (.popc (fld w 19) (fld w 14) (fld w 8) (fld w 3)))
  | 0x6 => some (.inl (.brev (fld w 19) (fld w 14) (fld w 8) (fld w 3)))
  | 0x7 => some (.inl (.bswap (fld w 19) (fld w 14) (fld w 8) (fld w 3)))
  | 0x8 => some (.inl (.ext (fld w 19) (fld w 14) (fld w 13) (fld w 12) (fld w 6) (fld w 0)))
  | 0x9 => some (.inl (.ins (fld w 19) (fld w 14) (fld w 13) (fld w 6) (fld w 0)))
  | 0xA => some (.inl (.sel (fld w 19) (fld w 14) (fld w 9) (fld w 8) (fld w 7) (fld w 0)))
  | 0xB => some (.inl (.mac (fld w 19) (fld w 14) (fld w 9) (fld w 8) (fld w 7) (fld w 3) (fld w 0)))
  | 0xC => some (.inl (.abs (fld w 19) (fld w 14) (fld w 8) (fld w 3) (fld w 0)))
  | 0xD => some (.inl (.cvtw (fld w 19) (fld w 14) (fld w 8) (fld w 3) (fld w 0)))
  | 0xE => some (.inl (.crc (fld w 19) (fld w 14) (fld w 9) (fld w 8) (fld w 7) (fld w 3)))
  | 0xF => some (.inl (.hash (fld w 19) (fld w 14) (fld w 9) (fld w 8) (fld w 7)))
  | _ => none

/-- The instructions of primaries 0x40 to 0x4F by their low digit (R297). -/
def fields4 (w : Nat) : Nat → Option (Instr ⊕ LastRow)
  | 0x0 => some (.inl (.fadd (fld w 19) (fld w 14) (fld w 9) (fld w 8) (fld w 7) (fld w 3) (fld w 0)))
  | 0x1 => some (.inl (.fsub (fld w 19) (fld w 14) (fld w 9) (fld w 8) (fld w 7) (fld w 3) (fld w 0)))
  | 0x2 => some (.inl (.fmul (fld w 19) (fld w 14) (fld w 9) (fld w 8) (fld w 7) (fld w 3) (fld w 0)))
  | 0x3 => some (.inl (.fdiv (fld w 19) (fld w 14) (fld w 9) (fld w 8) (fld w 7) (fld w 3) (fld w 0)))
  | 0x4 => some (.inl (.fsqrt (fld w 19) (fld w 14) (fld w 8) (fld w 3) (fld w 0)))
  | 0x5 => some (.inl (.fmin (fld w 19) (fld w 14) (fld w 9) (fld w 8) (fld w 7) (fld w 3) (fld w 0)))
  | 0x6 => some (.inl (.fmax (fld w 19) (fld w 14) (fld w 9) (fld w 8) (fld w 7) (fld w 3) (fld w 0)))
  | 0x7 => some (.inl (.fma (fld w 19) (fld w 14) (fld w 9) (fld w 4) (fld w 3) (fld w 0)))
  | 0x8 => some (.inl (.fnma (fld w 19) (fld w 14) (fld w 9) (fld w 4) (fld w 3) (fld w 0)))
  | 0x9 => some (.inl (.fcmp (fld w 19) (fld w 14) (fld w 9) (fld w 8) (fld w 7) (fld w 3) (fld w 0)))
  | 0xA => some (.inl (.fcvt (fld w 19) (fld w 14) (fld w 9) (fld w 8) (fld w 3) (fld w 0)))
  | 0xB => some (.inl (.fcvti (fld w 19) (fld w 14) (fld w 9) (fld w 8) (fld w 3) (fld w 0)))
  | 0xC => some (.inl (.icvtf (fld w 19) (fld w 14) (fld w 9) (fld w 8) (fld w 3) (fld w 0)))
  | 0xD => some (.inl (.fclass (fld w 19) (fld w 14) (fld w 8) (fld w 3)))
  | 0xE => some (.inl (.fexp2 (fld w 19) (fld w 14) (fld w 8) (fld w 3) (fld w 0)))
  | 0xF => some (.inl (.flog2 (fld w 19) (fld w 14) (fld w 8) (fld w 3) (fld w 0)))
  | _ => none

/-- The instructions of primaries 0x50 to 0x5F by their low digit (R297). -/
def fields5 (w : Nat) : Nat → Option (Instr ⊕ LastRow)
  | 0x0 => some (.inl (.jmp (fld w 0)))
  | 0x1 => some (.inl (.call (fld w 0)))
  | 0x2 => some (.inl (.beqz (fld w 19) (fld w 18) (fld w 0)))
  | 0x3 => some (.inl (.bnez (fld w 19) (fld w 18) (fld w 0)))
  | 0x4 => some (.inl (.bltz (fld w 19) (fld w 18) (fld w 0)))
  | 0x5 => some (.inl (.bgez (fld w 19) (fld w 18) (fld w 0)))
  | 0x6 => some (.inl (.bgtz (fld w 19) (fld w 18) (fld w 0)))
  | 0x7 => some (.inl (.blez (fld w 19) (fld w 18) (fld w 0)))
  | 0x8 => some (.inl (.bpany (fld w 19) (fld w 18) (fld w 0)))
  | 0x9 => some (.inl (.bpnone (fld w 19) (fld w 18) (fld w 0)))
  | 0xA => some (.inl (.jr (fld w 14) (fld w 13) (fld w 0)))
  | 0xB => some (.inl (.callr (fld w 19) (fld w 14) (fld w 13) (fld w 0)))
  | 0xC => some (.inl (.loop (fld w 19) (fld w 18) (fld w 0)))
  | 0xD => some (.inl (.lbrk (fld w 0)))
  | 0xE => some (.inl (.lidx (fld w 19) (fld w 0)))
  | 0xF => some (.inl .lcont)
  | _ => none

/-- The instructions of primaries 0x60 to 0x6F by their low digit (R297). -/
def fields6 (w : Nat) : Nat → Option (Instr ⊕ LastRow)
  | 0x0 => some (.inl (.ldb (fld w 19) (fld w 14) (fld w 13) (fld w 0)))
  | 0x1 => some (.inl (.ldbn (fld w 19) (fld w 14) (fld w 13) (fld w 0)))
  | 0x2 => some (.inl (.ldh (fld w 19) (fld w 14) (fld w 13) (fld w 0)))
  | 0x3 => some (.inl (.ldhn (fld w 19) (fld w 14) (fld w 13) (fld w 0)))
  | 0x4 => some (.inl (.ldw (fld w 19) (fld w 14) (fld w 13) (fld w 0)))
  | 0x5 => some (.inl (.ldwn (fld w 19) (fld w 14) (fld w 13) (fld w 0)))
  | 0x6 => some (.inl (.ldd (fld w 19) (fld w 14) (fld w 13) (fld w 0)))
  | 0x7 => some (.inl (.stb (fld w 19) (fld w 14) (fld w 13) (fld w 0)))
  | 0x8 => some (.inl (.sth (fld w 19) (fld w 14) (fld w 13) (fld w 0)))
  | 0x9 => some (.inl (.stw (fld w 19) (fld w 14) (fld w 13) (fld w 0)))
  | 0xA => some (.inl (.std (fld w 19) (fld w 14) (fld w 13) (fld w 0)))
  | 0xB => some (.inl (.ldo (fld w 19) (fld w 14) (fld w 13) (fld w 10) (fld w 2) (fld w 0)))
  | 0xC => some (.inl (.sto (fld w 19) (fld w 14) (fld w 13) (fld w 10) (fld w 0)))
  | 0xD => some (.inl (.sld (fld w 19) (fld w 14) (fld w 13) (fld w 0)))
  | 0xE => some (.inl (.sst (fld w 19) (fld w 14) (fld w 13) (fld w 0)))
  | 0xF => some (.inl (.pref (fld w 19) (fld w 14) (fld w 13) (fld w 0)))
  | _ => none

/-- The instructions of primaries 0x70 to 0x7F by their low digit (R297). -/
def fields7 (w : Nat) : Nat → Option (Instr ⊕ LastRow)
  | 0x0 => some (.inl (.vcfg (fld w 0)))
  | 0x1 => some (.inl (.setvl (fld w 19) (fld w 14) (fld w 13) (fld w 0)))
  | 0x2 => some (.inl (.vadd (fld w 19) (fld w 14) (fld w 9) (fld w 8) (fld w 7) (fld w 3) (fld w 0)))
  | 0x3 => some (.inl (.vsub (fld w 19) (fld w 14) (fld w 9) (fld w 8) (fld w 7) (fld w 3) (fld w 0)))
  | 0x4 => some (.inl (.vmul (fld w 19) (fld w 14) (fld w 9) (fld w 8) (fld w 7) (fld w 3) (fld w 0)))
  | 0x5 => some (.inl (.vmulh (fld w 19) (fld w 14) (fld w 9) (fld w 8) (fld w 7) (fld w 3) (fld w 0)))
  | 0x6 => some (.inl (.vdiv (fld w 19) (fld w 14) (fld w 9) (fld w 8) (fld w 7) (fld w 3) (fld w 0)))
  | 0x7 => some (.inl (.vrem (fld w 19) (fld w 14) (fld w 9) (fld w 8) (fld w 7) (fld w 3) (fld w 0)))
  | 0x8 => some (.inl (.vmin (fld w 19) (fld w 14) (fld w 9) (fld w 8) (fld w 7) (fld w 3) (fld w 0)))
  | 0x9 => some (.inl (.vmax (fld w 19) (fld w 14) (fld w 9) (fld w 8) (fld w 7) (fld w 3) (fld w 0)))
  | 0xA => some (.inl (.vand (fld w 19) (fld w 14) (fld w 9) (fld w 8) (fld w 7) (fld w 3) (fld w 0)))
  | 0xB => some (.inl (.vor (fld w 19) (fld w 14) (fld w 9) (fld w 8) (fld w 7) (fld w 3) (fld w 0)))
  | 0xC => some (.inl (.vxor (fld w 19) (fld w 14) (fld w 9) (fld w 8) (fld w 7) (fld w 3) (fld w 0)))
  | 0xD => some (.inl (.vshl (fld w 19) (fld w 14) (fld w 9) (fld w 8) (fld w 7) (fld w 3) (fld w 0)))
  | 0xE => some (.inl (.vshr (fld w 19) (fld w 14) (fld w 9) (fld w 8) (fld w 7) (fld w 3) (fld w 0)))
  | 0xF => some (.inl (.vrot (fld w 19) (fld w 14) (fld w 9) (fld w 8) (fld w 7) (fld w 3) (fld w 0)))
  | _ => none

/-- The instructions of primaries 0x80 to 0x8F by their low digit (R297). -/
def fields8 (w : Nat) : Nat → Option (Instr ⊕ LastRow)
  | 0x0 => some (.inl (.vfadd (fld w 19) (fld w 14) (fld w 9) (fld w 8) (fld w 7) (fld w 3) (fld w 0)))
  | 0x1 => some (.inl (.vfsub (fld w 19) (fld w 14) (fld w 9) (fld w 8) (fld w 7) (fld w 3) (fld w 0)))
  | 0x2 => some (.inl (.vfmul (fld w 19) (fld w 14) (fld w 9) (fld w 8) (fld w 7) (fld w 3) (fld w 0)))
  | 0x3 => some (.inl (.vfdiv (fld w 19) (fld w 14) (fld w 9) (fld w 8) (fld w 7) (fld w 3) (fld w 0)))
  | 0x4 => some (.inl (.vfsqrt (fld w 19) (fld w 14) (fld w 8) (fld w 3)))
  | 0x5 => some (.inl (.vfmin (fld w 19) (fld w 14) (fld w 9) (fld w 8) (fld w 7) (fld w 3) (fld w 0)))
  | 0x6 => some (.inl (.vfmax (fld w 19) (fld w 14) (fld w 9) (fld w 8) (fld w 7) (fld w 3) (fld w 0)))
  | 0x7 => some (.inl (.vfma (fld w 19) (fld w 14) (fld w 9) (fld w 4) (fld w 3) (fld w 0)))
  | 0x8 => some (.inl (.vfnma (fld w 19) (fld w 14) (fld w 9) (fld w 4) (fld w 3) (fld w 0)))
  | 0x9 => some (.inl (.vfexp2 (fld w 19) (fld w 14) (fld w 8) (fld w 3)))
  | 0xA => some (.inl (.vflog2 (fld w 19) (fld w 14) (fld w 8) (fld w 3)))
  | 0xB => some (.inl (.vfrcp (fld w 19) (fld w 14) (fld w 8) (fld w 3)))
  | 0xC => some (.inl (.vfrsq (fld w 19) (fld w 14) (fld w 8) (fld w 3)))
  | 0xD => some (.inl (.vftanh (fld w 19) (fld w 14) (fld w 8) (fld w 3)))
  | 0xE => some (.inl (.vabs (fld w 19) (fld w 14) (fld w 8) (fld w 3) (fld w 0)))
  | 0xF => some (.inl (.vneg (fld w 19) (fld w 14) (fld w 8) (fld w 3) (fld w 0)))
  | _ => none

/-- The instructions of primaries 0x90 to 0x9F by their low digit (R297). -/
def fields9 (w : Nat) : Nat → Option (Instr ⊕ LastRow)
  | 0x0 => some (.inl (.vcmp (fld w 19) (fld w 14) (fld w 9) (fld w 8) (fld w 7) (fld w 3) (fld w 0)))
  | 0x1 => some (.inl (.vcmps (fld w 19) (fld w 14) (fld w 9) (fld w 8) (fld w 7) (fld w 3) (fld w 0)))
  | 0x2 => some (.inl (.vfcmp (fld w 19) (fld w 14) (fld w 9) (fld w 8) (fld w 7) (fld w 3) (fld w 0)))
  | 0x3 => some (.inl (.vfcmps (fld w 19) (fld w 14) (fld w 9) (fld w 8) (fld w 7) (fld w 3) (fld w 0)))
  | 0x4 => some (.inl (.pand (fld w 19) (fld w 14) (fld w 9) (fld w 8) (fld w 7)))
  | 0x5 => some (.inl (.por (fld w 19) (fld w 14) (fld w 9) (fld w 8) (fld w 7)))
  | 0x6 => some (.inl (.pxor (fld w 19) (fld w 14) (fld w 9) (fld w 8) (fld w 7)))
  | 0x7 => some (.inl (.pandn (fld w 19) (fld w 14) (fld w 9) (fld w 8) (fld w 7)))
  | 0x8 => some (.inl (.pnot (fld w 19) (fld w 14) (fld w 8)))
  | 0x9 => some (.inl (.pcnt (fld w 19) (fld w 14) (fld w 8)))
  | 0xA => some (.inl (.pfirst (fld w 19) (fld w 14) (fld w 8)))
  | 0xB => some (.inl (.pset (fld w 19) (fld w 14) (fld w 8) (fld w 0)))
  | 0xC => some (.inl (.ppack (fld w 19)))
  | 0xD => some (.inl (.punpk (fld w 14) (fld w 8)))
  | 0xE => some (.inl (.pmov (fld w 19) (fld w 14) (fld w 8) (fld w 0)))
  | 0xF => some (.inl (.fmaskp (fld w 19) (fld w 14) (fld w 8) (fld w 0)))
  | _ => none

/-- The instructions of primaries 0xA0 to 0xAF by their low digit (R297). -/
def fieldsA (w : Nat) : Nat → Option (Instr ⊕ LastRow)
  | 0x0 => some (.inl (.vmov (fld w 19) (fld w 14) (fld w 8) (fld w 3)))
  | 0x1 => some (.inl (.vbcst (fld w 19) (fld w 14) (fld w 8) (fld w 3)))
  | 0x2 => some (.inl (.vext (fld w 19) (fld w 14) (fld w 9) (fld w 8) (fld w 7) (fld w 3)))
  | 0x3 => some (.inl (.vins (fld w 19) (fld w 14) (fld w 9) (fld w 8) (fld w 7) (fld w 3)))
  | 0x4 => some (.inl (.vslup (fld w 19) (fld w 14) (fld w 9) (fld w 8) (fld w 7) (fld w 3)))
  | 0x5 => some (.inl (.vsldn (fld w 19) (fld w 14) (fld w 9) (fld w 8) (fld w 7) (fld w 3)))
  | 0x6 => some (.inl (.vcprs (fld w 19) (fld w 14) (fld w 9) (fld w 8) (fld w 7) (fld w 3)))
  | 0x7 => some (.inl (.vexpd (fld w 19) (fld w 14) (fld w 9) (fld w 8) (fld w 7) (fld w 3)))
  | 0x8 => some (.inl (.vperm (fld w 19) (fld w 14) (fld w 9) (fld w 8) (fld w 7) (fld w 3)))
  | 0x9 => some (.inl (.viota (fld w 19) (fld w 14) (fld w 8) (fld w 3) (fld w 0)))
  | 0xA => some (.inl (.vsel (fld w 19) (fld w 14) (fld w 9) (fld w 8) (fld w 7) (fld w 3)))
  | 0xB => some (.inl (.vred (fld w 19) (fld w 14) (fld w 9) (fld w 8) (fld w 7) (fld w 3) (fld w 0)))
  | 0xC => some (.inl (.vfred (fld w 19) (fld w 14) (fld w 9) (fld w 8) (fld w 7) (fld w 3) (fld w 0)))
  | 0xD => some (.inl (.vscan (fld w 19) (fld w 14) (fld w 9) (fld w 8) (fld w 7) (fld w 3) (fld w 0)))
  | 0xE => some (.inl (.vfscan (fld w 19) (fld w 14) (fld w 9) (fld w 8) (fld w 7) (fld w 3) (fld w 0)))
  | 0xF => some (.inl (.vdot (fld w 19) (fld w 14) (fld w 9) (fld w 8) (fld w 7) (fld w 3)))
  | _ => none

/-- The instructions of primaries 0xB0 to 0xBF by their low digit (R297). -/
def fieldsB (w : Nat) : Nat → Option (Instr ⊕ LastRow)
  | 0x0 => some (.inl (.vld (fld w 19) (fld w 14) (fld w 13) (fld w 3)))
  | 0x1 => some (.inl (.vst (fld w 19) (fld w 14) (fld w 13) (fld w 3)))
  | 0x2 => some (.inl (.vldff (fld w 19) (fld w 14) (fld w 13) (fld w 3)))
  | 0x3 => some (.inl (.vgth (fld w 19) (fld w 14) (fld w 13) (fld w 8) (fld w 7) (fld w 3)))
  | 0x4 => some (.inl (.vsct (fld w 19) (fld w 14) (fld w 13) (fld w 8) (fld w 7) (fld w 3)))
  | 0x5 => some (.inl (.vgthw (fld w 19) (fld w 14) (fld w 13) (fld w 8) (fld w 7) (fld w 3) (fld w 0)))
  | 0x6 => some (.inl (.vlds (fld w 19) (fld w 14) (fld w 13) (fld w 3)))
  | 0x7 => some (.inl (.vsts (fld w 19) (fld w 14) (fld w 13) (fld w 3)))
  | 0x8 => some (.inl (.vgths (fld w 19) (fld w 14) (fld w 13) (fld w 8) (fld w 7) (fld w 3)))
  | 0x9 => some (.inl (.vscts (fld w 19) (fld w 14) (fld w 13) (fld w 8) (fld w 7) (fld w 3)))
  | 0xA => some (.inl (.vspill (fld w 19) (fld w 14) (fld w 13)))
  | 0xB => some (.inl (.vfill (fld w 19) (fld w 14) (fld w 13)))
  | 0xC => some (.inl (.vldbc (fld w 19) (fld w 14) (fld w 13) (fld w 3)))
  | 0xD => some (.inl (.vpref (fld w 14) (fld w 13) (fld w 3) (fld w 0)))
  | 0xE => some (.inl (.vldsg (fld w 19) (fld w 14) (fld w 13) (fld w 3) (fld w 0)))
  | 0xF => some (.inl (.vstsg (fld w 19) (fld w 14) (fld w 13) (fld w 3) (fld w 0)))
  | _ => none

/-- The instructions of primaries 0xC0 to 0xCF by their low digit (R297). -/
def fieldsC (w : Nat) : Nat → Option (Instr ⊕ LastRow)
  | 0x0 => some (.inl (.vcvt (fld w 19) (fld w 14) (fld w 9) (fld w 8) (fld w 3) (fld w 0)))
  | 0x1 => some (.inl (.vcvti (fld w 19) (fld w 14) (fld w 9) (fld w 8) (fld w 3) (fld w 0)))
  | 0x2 => some (.inl (.vicvt (fld w 19) (fld w 14) (fld w 9) (fld w 8) (fld w 3) (fld w 0)))
  | 0x3 => some (.inl (.vnarw (fld w 19) (fld w 14) (fld w 9) (fld w 8) (fld w 3)))
  | 0x4 => some (.inl (.vwidn (fld w 19) (fld w 14) (fld w 9) (fld w 8) (fld w 3)))
  | 0x5 => some (.inl (.vqnt (fld w 19) (fld w 14) (fld w 9) (fld w 8) (fld w 7) (fld w 3) (fld w 0)))
  | 0x6 => some (.inl (.vdqnt (fld w 19) (fld w 14) (fld w 9) (fld w 8) (fld w 7) (fld w 3) (fld w 0)))
  | 0x7 => some (.inl (.vbscl (fld w 19) (fld w 14) (fld w 8) (fld w 3) (fld w 0)))
  | 0x8 => some (.inl (.vfrnd (fld w 19) (fld w 14) (fld w 8) (fld w 3) (fld w 0)))
  | 0x9 => some (.inl (.vfcls (fld w 19) (fld w 14) (fld w 8) (fld w 3)))
  | 0xA => some (.inl (.vpk (fld w 19) (fld w 14) (fld w 9) (fld w 8) (fld w 7) (fld w 3)))
  | 0xB => some (.inl (.vupk (fld w 19) (fld w 14) (fld w 8) (fld w 3) (fld w 0)))
  | 0xC => some (.inl (.vbswp (fld w 19) (fld w 14) (fld w 8) (fld w 3)))
  | 0xD => some (.inl (.vclz (fld w 19) (fld w 14) (fld w 8) (fld w 3) (fld w 0)))
  | 0xE => some (.inl (.vpopc (fld w 19) (fld w 14) (fld w 8) (fld w 3)))
  | 0xF => some (.inl (.vhash (fld w 19) (fld w 14) (fld w 9) (fld w 8) (fld w 7)))
  | _ => none

/-- The instructions of primaries 0xD0 to 0xDF by their low digit (R297). -/
def fieldsD (w : Nat) : Nat → Option (Instr ⊕ LastRow)
  | 0x0 => some (.inl (.mlatch (fld w 19) (fld w 14) (fld w 9) (fld w 8) (fld w 7) (fld w 3)))
  | 0x1 => some (.inl (.mlatchv (fld w 14) (fld w 9) (fld w 8) (fld w 7) (fld w 3)))
  | 0x2 => some (.inl (.mop (fld w 19) (fld w 14) (fld w 9) (fld w 8) (fld w 7) (fld w 3) (fld w 2) (fld w 0)))
  | 0x3 => some (.inl (.mopSp (fld w 19) (fld w 14) (fld w 9) (fld w 8) (fld w 7) (fld w 3) (fld w 2) (fld w 0)))
  | 0x4 => some (.inl (.mopPair (fld w 19) (fld w 14) (fld w 9) (fld w 8) (fld w 7) (fld w 3) (fld w 2) (fld w 0)))
  | 0x5 => some (.inl (.mpstat (fld w 19)))
  | 0x6 => some (.inl (.tzero (fld w 19)))
  | 0x7 => some (.inl (.tmov (fld w 19) (fld w 14) (fld w 8)))
  | 0x8 => some (.inl (.tadd (fld w 19) (fld w 14) (fld w 8) (fld w 3)))
  | 0x9 => some (.inl (.tact (fld w 19) (fld w 14) (fld w 8) (fld w 0) (fld w 3)))
  | 0xA => some (.inl (.tstore (fld w 19) (fld w 14) (fld w 9) (fld w 8) (fld w 7) (fld w 3) (fld w 0)))
  | 0xB => some (.inl (.tsave (fld w 19) (fld w 14) (fld w 8) (fld w 0)))
  | 0xC => some (.inl (.tload (fld w 19) (fld w 14) (fld w 8) (fld w 0)))
  | 0xD => some (.inl (.trdv (fld w 19) (fld w 14) (fld w 9) (fld w 8) (fld w 7) (fld w 3) (fld w 0)))
  | 0xE => some (.inl (.twrv (fld w 19) (fld w 14) (fld w 9) (fld w 8) (fld w 7) (fld w 3) (fld w 0)))
  | 0xF => some (.inl (.tfill (fld w 19) (fld w 14) (fld w 8) (fld w 3)))
  | _ => none

/-- The instructions of primaries 0xE0 to 0xEF by their low digit (R297). -/
def fieldsE (w : Nat) : Nat → Option (Instr ⊕ LastRow)
  | 0x0 => some (.inl (.amo (fld w 19) (fld w 14) (fld w 13) (fld w 10) (fld w 8) (fld w 4) (fld w 0)))
  | 0x1 => some (.inl (.vamo (fld w 19) (fld w 14) (fld w 13) (fld w 10) (fld w 8) (fld w 4) (fld w 0)))
  | 0x2 => some (.inl (.vgll (fld w 19) (fld w 14) (fld w 13) (fld w 10) (fld w 8) (fld w 0)))
  | 0x3 => some (.inl (.vscc (fld w 19) (fld w 14) (fld w 13) (fld w 10) (fld w 8) (fld w 5) (fld w 0)))
  | 0x4 => some (.inl (.samo (fld w 19) (fld w 14) (fld w 13) (fld w 4) (fld w 0)))
  | 0x5 => some (.inl (.sred (fld w 19) (fld w 14) (fld w 13) (fld w 4) (fld w 0)))
  | 0x6 => some (.inl (.hacc (fld w 19) (fld w 14) (fld w 13) (fld w 3) (fld w 0)))
  | 0x7 => some (.inl (.waita (fld w 19) (fld w 14) (fld w 13) (fld w 10) (fld w 8) (fld w 4) (fld w 0)))
  | 0x8 => some (.inl (.vwait (fld w 19) (fld w 14) (fld w 13) (fld w 10) (fld w 8) (fld w 5) (fld w 0)))
  | 0x9 => some (.inl (.arrive (fld w 19) (fld w 14) (fld w 13) (fld w 10) (fld w 8) (fld w 5) (fld w 4) (fld w 1) (fld w 0)))
  | 0xA => some (.inl (.await (fld w 19) (fld w 14) (fld w 13) (fld w 10) (fld w 4) (fld w 1) (fld w 0)))
  | 0xB => some (.inl (.endph (fld w 10) (fld w 4) (fld w 1)))
  | 0xC => some (.inl (.fence (fld w 10)))
  | 0xD => match w % 256 with
    | 0 => some (.inl (.mprint (fld w 19) (fld w 14) (fld w 13)))
    | 1 => some (.inl (.mprintFork (fld w 19) (fld w 14) (fld w 13)))
    | 2 => some (.inl (.mstrike (fld w 19) (fld w 14) (fld w 13)))
    | _ => none
  | 0xE => match w % 256 with
    | 0 => some (.inl (.mquery (fld w 19) (fld w 14) (fld w 13)))
    | 1 => some (.inl (.mgrant (fld w 19) (fld w 14) (fld w 13)))
    | _ => none
  | 0xF => match w % 8 with
    | 0 => some (.inl (.plshare (fld w 19) (fld w 14) (fld w 13) (fld w 3)))
    | 1 => some (.inl (.pldec (fld w 14) (fld w 13) (fld w 3)))
    | _ => none
  | _ => none

/-- The instructions of primaries 0xF0 to 0xFF by their low digit (R297). -/
def fieldsF (w : Nat) : Nat → Option (Instr ⊕ LastRow)
  | 0x0 => some (.inl (.ecmd (fld w 19) (fld w 14) (fld w 13) (fld w 0)))
  | 0x1 => some (.inl (.ecpoll (fld w 19) (fld w 0)))
  | 0x2 => some (.inl (.ecfence (fld w 19) (fld w 0)))
  | 0x3 => some (.inl (.ecabort (fld w 19) (fld w 14) (fld w 13) (fld w 0)))
  | 0x4 => some (.inl (.ecstat (fld w 19) (fld w 0)))
  | 0x5 => some (.inl (.sleepto (fld w 19) (fld w 14) (fld w 13) (fld w 0)))
  | 0x6 => some (.inr (.sleep (fld w 14) (fld w 13)))
  | 0x7 => some (.inr (.pause (fld w 0)))
  | 0x8 => some (.inl .yield)
  | 0x9 => some (.inr (.setvli (fld w 19) (fld w 2) (fld w 0)))
  | 0xA => some (.inl .strend)
  | 0xB => some (.inl .strabt)
  | 0xC => some (.inr (.hint (fld w 0)))
  | 0xD => some (.inr (.prchk (fld w 19) (fld w 14) (fld w 13) (fld w 0)))
  | 0xE => some (.inr (.brkc (fld w 14) (fld w 13) (fld w 0)))
  | 0xF => some (.inr (.brk (fld w 0)))
  | _ => none

/-- The instruction a word names by its primary opcode and, on shared primaries, its function code; the fields are not
judged yet (R297, R299). -/
def fieldsOf (w : Nat) : Option (Instr ⊕ LastRow) :=
  match w / 2 ^ 28 % 16 with
  | 0x0 => fields0 w (w / 2 ^ 24 % 16)
  | 0x1 => fields1 w (w / 2 ^ 24 % 16)
  | 0x2 => fields2 w (w / 2 ^ 24 % 16)
  | 0x3 => fields3 w (w / 2 ^ 24 % 16)
  | 0x4 => fields4 w (w / 2 ^ 24 % 16)
  | 0x5 => fields5 w (w / 2 ^ 24 % 16)
  | 0x6 => fields6 w (w / 2 ^ 24 % 16)
  | 0x7 => fields7 w (w / 2 ^ 24 % 16)
  | 0x8 => fields8 w (w / 2 ^ 24 % 16)
  | 0x9 => fields9 w (w / 2 ^ 24 % 16)
  | 0xA => fieldsA w (w / 2 ^ 24 % 16)
  | 0xB => fieldsB w (w / 2 ^ 24 % 16)
  | 0xC => fieldsC w (w / 2 ^ 24 % 16)
  | 0xD => fieldsD w (w / 2 ^ 24 % 16)
  | 0xE => fieldsE w (w / 2 ^ 24 % 16)
  | 0xF => fieldsF w (w / 2 ^ 24 % 16)
  | _ => none

/-- The bits of a function code that an entry fixes at 0 (R295, R299, R300). -/
def fnFixed : Nat → Nat
  | 0xBD | 0xC5 | 0xC6 | 0xC7 | 0xD9 => 0x000004
  | 0x3B | 0x3C | 0xCB | 0xCD | 0xDA | 0xDD | 0xDE => 0x000006
  | 0x33 | 0x34 | 0x35 | 0x36 | 0x37 | 0x3E | 0x4D | 0x84 | 0x89 | 0x8A | 0x8B | 0x8C | 0x8D | 0xA0 | 0xA1 | 0xA2
  | 0xA3 | 0xA4 | 0xA5 | 0xA6 | 0xA7 | 0xA8 | 0xAA | 0xAF | 0xB0 | 0xB1 | 0xB2 | 0xB3 | 0xB4 | 0xB6 | 0xB7 | 0xB8
  | 0xB9 | 0xBC | 0xC3 | 0xC4 | 0xC9 | 0xCA | 0xCC | 0xCE | 0xD0 | 0xD1 | 0xD8 | 0xDF => 0x000007
  | 0xE7 => 0x00000C
  | 0xE3 => 0x000010
  | 0xE8 => 0x000018
  | 0x3A | 0x9B | 0x9E => 0x00007C
  | 0x9F | 0xDB | 0xDC => 0x00007E
  | 0x18 | 0x19 | 0x1A | 0x1B | 0x3F | 0x94 | 0x95 | 0x96 | 0x97 | 0x98 | 0x99 | 0x9A | 0x9C | 0x9D | 0xBA | 0xBB
  | 0xCF | 0xD5 | 0xD6 | 0xD7 => 0x00007F
  | 0xE9 => 0x0000C0
  | 0xEA => 0x0000E0
  | 0xEB => 0x0000E1
  | 0xE2 | 0xF2 => 0x0000F0
  | 0x6B | 0xF0 | 0xF1 | 0xF3 | 0xF4 | 0xF5 | 0xFD => 0x0000F8
  | 0x09 | 0x6C => 0x0000FC
  | 0x0A => 0x0000FE
  | 0x0C | 0xEC | 0xF6 => 0x0000FF
  | _ => 0

/-- The bits outside the function code that an entry fixes (R293, R296). -/
def reservedMask : Nat → Nat
  | 0x6B | 0x6C | 0xEA => 0x000300
  | 0x39 => 0x001000
  | 0x03 | 0x04 | 0x05 | 0x09 | 0x0A | 0xE4 | 0xE5 | 0xE6 | 0xED | 0xEE | 0xEF | 0xF0 | 0xF3 | 0xF5 | 0xFD => 0x001F00
  | 0x26 | 0xB0 | 0xB1 | 0xB2 | 0xB6 | 0xB7 | 0xBA | 0xBB | 0xBC | 0xBE | 0xBF => 0x001F80
  | 0x25 | 0x27 => 0x001FC0
  | 0x71 => 0x001FFC
  | 0x4A | 0x4B | 0x4C | 0xC0 | 0xC1 | 0xC2 | 0xC3 | 0xC4 => 0x002080
  | 0x33 | 0x34 | 0x35 | 0x36 | 0x37 | 0x3C | 0x3D | 0x44 | 0x4D | 0x4E | 0x4F | 0x84 | 0x89 | 0x8A | 0x8B | 0x8C
  | 0x8D | 0x8E | 0x8F | 0x98 | 0x99 | 0x9A | 0x9B | 0x9E | 0x9F | 0xA0 | 0xA1 | 0xA9 | 0xC7 | 0xC8 | 0xC9 | 0xCB
  | 0xCC | 0xCD | 0xCE | 0xD7 | 0xD8 | 0xD9 | 0xDB | 0xDC | 0xDF => 0x003E80
  | 0x0B => 0x07E000
  | 0x01 | 0xF1 | 0xF2 | 0xF4 => 0x07FF00
  | 0x9C | 0xD5 | 0xD6 => 0x07FF80
  | 0x06 | 0x0E | 0x5A | 0x5D | 0x5F | 0xD1 | 0xFC | 0xFE => 0xF80000
  | 0x02 | 0xF6 => 0xF81F00
  | 0xBD => 0xF81F80
  | 0x9D => 0xF83E80
  | 0x50 | 0x51 => 0xFC0000
  | 0xF7 => 0xFF0000
  | 0xEB | 0xEC => 0xFFE300
  | 0x0C => 0xFFFF00
  | 0x70 => 0xFFFFF8
  | 0x07 | 0x08 | 0x0D | 0x0F | 0xF8 | 0xFA | 0xFB => 0xFFFFFF
  | _ => 0

/-- The values of the fixed bits: 0, but for the order fields LDO and ENDPH, STO and ARRIVE, and FENCE require (R296, R300,
R412, R413). -/
def reservedValue : Nat → Nat
  | 0x6B | 0xEA => 0x000100
  | 0x6C | 0xEB => 0x000200
  | 0xEC => 0x000300
  | _ => 0

/-- The function code of the word is assigned (R301, TVAL 1). A level code of ARRIVE, AWAIT and ENDPH without the
level bit is an unassigned function code (18 R409, R412; DEDUCED, log 15). -/
def Instr.fnAssigned : Instr → Bool
  | .tlbinv _ _ _ k | .pset _ _ _ k | .pmov _ _ _ k | .vpref _ _ _ k =>
    decide (k.toNat ≤ 2)
  | .add _ _ _ _ _ _ v | .sub _ _ _ _ _ _ v | .mul _ _ _ _ _ _ v | .rot _ _ _ _ _ _ v | .fmin _ _ _ _ _ _ v
  | .fmax _ _ _ _ _ _ v | .vabs _ _ _ _ v | .vneg _ _ _ _ v | .viota _ _ _ _ v =>
    decide (v.toNat ≤ 1)
  | .mulh _ _ _ _ _ _ v | .div _ _ _ _ _ _ v | .rem _ _ _ _ _ _ v | .min _ _ _ _ _ _ v | .max _ _ _ _ _ _ v
  | .shl _ _ _ _ _ _ v | .shr _ _ _ _ _ _ v =>
    decide (v.toNat = 0)
  | .cmp _ _ _ _ _ _ v | .fadd _ _ _ _ _ _ v | .fsub _ _ _ _ _ _ v | .fmul _ _ _ _ _ _ v | .fdiv _ _ _ _ _ _ v
  | .fsqrt _ _ _ _ v | .fcvt _ _ _ _ _ v | .fcvti _ _ _ _ _ v | .icvtf _ _ _ _ _ v | .fexp2 _ _ _ _ v
  | .flog2 _ _ _ _ v | .vcmp _ _ _ _ _ _ v | .vcmps _ _ _ _ _ _ v | .vred _ _ _ _ _ _ v | .vcvt _ _ _ _ _ v
  | .vcvti _ _ _ _ _ v | .vicvt _ _ _ _ _ v | .vfrnd _ _ _ _ v =>
    decide (v.toNat ≤ 5)
  | .fcmp _ _ _ _ _ _ v | .vfcmp _ _ _ _ _ _ v | .vfcmps _ _ _ _ _ _ v =>
    decide (v.toNat ≤ 3)
  | .ldo _ _ _ _ z s =>
    decide (¬(z.toNat = 1 ∧ s.toNat = 3))
  | .vadd _ _ _ _ _ _ v | .vsub _ _ _ _ _ _ v | .vmul _ _ _ _ _ _ v | .vrot _ _ _ _ _ _ v | .vfmin _ _ _ _ _ _ v
  | .vfmax _ _ _ _ _ _ v =>
    decide (v.toNat % 4 ≤ 1)
  | .vmulh _ _ _ _ _ _ v | .vdiv _ _ _ _ _ _ v | .vrem _ _ _ _ _ _ v | .vmin _ _ _ _ _ _ v | .vmax _ _ _ _ _ _ v
  | .vand _ _ _ _ _ _ v | .vor _ _ _ _ _ _ v | .vxor _ _ _ _ _ _ v | .vshl _ _ _ _ _ _ v | .vshr _ _ _ _ _ _ v
  | .vfadd _ _ _ _ _ _ v | .vfsub _ _ _ _ _ _ v | .vfmul _ _ _ _ _ _ v | .vfdiv _ _ _ _ _ _ v =>
    decide (v.toNat % 4 = 0)
  | .vfred _ _ _ _ _ _ v | .vscan _ _ _ _ _ _ v | .vfscan _ _ _ _ _ _ v =>
    decide (v.toNat ≤ 2)
  | .vqnt _ _ _ _ _ _ g | .vdqnt _ _ _ _ _ _ g | .vbscl _ _ _ _ g =>
    decide (1 ≤ g.toNat)
  | .amo _ _ _ _ _ p _ | .samo _ _ _ p _ =>
    decide (p.toNat ≤ 10)
  | .vamo _ _ _ _ _ p _ =>
    decide (p.toNat ≤ 10 ∧ p.toNat ≠ 7)
  | .sred _ _ _ p _ =>
    decide (p.toNat ≤ 10 ∧ p.toNat ≠ 0 ∧ p.toNat ≠ 7)
  | .hacc _ _ _ _ o =>
    decide (o.toNat ≤ 4)
  | .waita _ _ _ _ _ c _ =>
    decide (c.toNat ≤ 7)
  | .vwait _ _ _ _ _ _ c =>
    decide (c.toNat ≤ 4)
  | .arrive _ _ _ _ _ _ l n _ | .await _ _ _ _ l n _ | .endph _ l n =>
    decide ((l.toNat = 0 → n.toNat = 0))
  | .ecmd _ _ _ f =>
    decide (f.toNat ≤ 5)
  | .ecpoll _ f | .ecabort _ _ _ f | .ecstat _ f | .sleepto _ _ _ f | .prchk _ _ _ f =>
    decide (f.toNat ≤ 4)
  | .ecfence _ f =>
    decide (f.toNat ≤ 4 ∨ f.toNat = 8)
  | .trapz .. | .ctlr .. | .ctlw .. | .ctls .. | .ctlc .. | .ctlx .. | .syscall .. | .eret | .idle | .bflip ..
  | .enrd .. | .fencei | .dhalt | .dmark .. | .nop | .and .. | .or .. | .xor .. | .andn .. | .addi .. | .muli ..
  | .andi .. | .ori .. | .xori .. | .shli .. | .shri .. | .roti .. | .slti .. | .sltni .. | .seqi .. | .mini ..
  | .maxi .. | .divi .. | .remi .. | .subfi .. | .movi .. | .ldhi .. | .addpc .. | .clz .. | .ctz .. | .popc ..
  | .brev .. | .bswap .. | .ext .. | .ins .. | .sel .. | .mac .. | .abs .. | .cvtw .. | .crc .. | .hash ..
  | .fma .. | .fnma .. | .fclass .. | .jmp .. | .call .. | .beqz .. | .bnez .. | .bltz .. | .bgez .. | .bgtz ..
  | .blez .. | .bpany .. | .bpnone .. | .jr .. | .callr .. | .loop .. | .lbrk .. | .lidx .. | .lcont | .ldb ..
  | .ldbn .. | .ldh .. | .ldhn .. | .ldw .. | .ldwn .. | .ldd .. | .stb .. | .sth .. | .stw .. | .std .. | .sto ..
  | .sld .. | .sst .. | .pref .. | .vcfg .. | .setvl .. | .vfsqrt .. | .vfma .. | .vfnma .. | .vfexp2 ..
  | .vflog2 .. | .vfrcp .. | .vfrsq .. | .vftanh .. | .pand .. | .por .. | .pxor .. | .pandn .. | .pnot ..
  | .pcnt .. | .pfirst .. | .ppack .. | .punpk .. | .fmaskp .. | .vmov .. | .vbcst .. | .vext .. | .vins ..
  | .vslup .. | .vsldn .. | .vcprs .. | .vexpd .. | .vperm .. | .vsel .. | .vdot .. | .vld .. | .vst .. | .vldff ..
  | .vgth .. | .vsct .. | .vgthw .. | .vlds .. | .vsts .. | .vgths .. | .vscts .. | .vspill .. | .vfill ..
  | .vldbc .. | .vldsg .. | .vstsg .. | .vnarw .. | .vwidn .. | .vfcls .. | .vpk .. | .vupk .. | .vbswp ..
  | .vclz .. | .vpopc .. | .vhash .. | .mlatch .. | .mlatchv .. | .mop .. | .mopSp .. | .mopPair .. | .mpstat ..
  | .tzero .. | .tmov .. | .tadd .. | .tact .. | .tstore .. | .tsave .. | .tload .. | .trdv .. | .twrv ..
  | .tfill .. | .vgll .. | .vscc .. | .fence .. | .mprint .. | .mprintFork .. | .mstrike .. | .mquery ..
  | .mgrant .. | .plshare .. | .pldec .. | .sleep .. | .pause .. | .yield | .setvli .. | .strend | .strabt
  | .hint .. | .brkc .. | .brk .. => true
  | .stripCommit .. | .rds .. | .rnw .. | .rdo .. | .rdr .. | .val .. | .wb .. | .rel .. | .nh .. | .ppr ..
  | .ppa .. | .data .. | .rnok .. | .grant .. | .vok .. | .vfail .. | .rcl .. | .idleRuleTick .. | .repeatRule ..
  | .rebase | .deadAgent .. | .heatSweep .. | .hostMemrd .. | .hostMemwr .. | .birspi .. | .biasFlipDone ..
  | .peerLoad .. | .peerStore .. | .peerAtomic .. | .peerCompletion .. | .hostGlobalObservation ..
  | .persistenceFlushDone .. | .flitReceive .. | .portDown .. | .retrainAttempt .. | .retrainSuccess ..
  | .moduleReset .. | .accountingInterval .. | .windowBoundary .. | .clockChange .. | .thermalTrip
  | .thermalShutdown | .correctedError .. | .uncorrectableError .. | .wayRetireDone .. | .heartbeatMiss ..
  | .fencedDieReissue .. | .slateFetch .. | .slateAdmit .. | .stageReserve .. | .bind .. | .dispatchStart ..
  | .contextResume .. | .slateComplete .. | .preemptRequest .. | .contextSave .. | .forcedPreempt ..
  | .tlbpinwaitExpiry .. | .tlbinvDone .. | .faultBatchPost .. | .eventPost .. | .waitWake .. | .waitDeadline ..
  | .waitPoll .. | .sleepWake .. | .sleeptoWake .. | .pauseEnd .. | .pairStart .. | .pairwaitExpiry ..
  | .matrixChunk .. | .engineSegmentIssue .. | .dollyCopy .. | .dollyFill .. | .dollyCopym .. | .followOnMatrix ..
  | .castDispatch .. | .mixCombine .. | .collPut .. | .collReduce .. | .collSignal .. | .dailiesDelta ..
  | .engineFault .. | .commandComplete .. | .modbudgetWrite .. | .errorWindowWrite .. | .fwcmdInstall ..
  | .fwUpdateDone .. | .reccmdRecovery .. | .recoveryDone .. | .attcmdRequest .. | .attestationSigned
  | .owncmdWrite .. | .owncmdDone | .victlEnable .. | .victlDisable .. | .victlDisableDone .. | .hostRangeWrite ..
  | .viticketsWrite .. | .ctxcmdCreate .. | .ctxcmdDestroy .. | .ctxprivWrite .. | .queueEnable ..
  | .queueDisable .. | .queueTicketsWrite .. | .qtailWrite .. | .fqbaseWrite .. | .fqsizeWrite .. | .fqheadWrite ..
  | .fqreplayRetry .. | .fqreplayAbandon .. | .fqreplayReserved .. | .cbcmdConvert .. | .cbcmdRelease ..
  | .cbcmdGrant .. | .cbcmdNone .. | .cstataddrWrite .. | .dbgcmdHalt .. | .dbgcmdRun .. | .dbgcmdStep ..
  | .dbgcmdStepGroup .. | .dbgcmdDump .. | .linkctlRetrain .. | .tlbpinwaitWrite .. | .preemptdlWrite ..
  | .heatctlWrite .. | .staledropRead .. | .phovlRead .. | .renewdRead .. | .renewfRead .. | .expevictRead ..
  | .exprecallRead .. | .incompRead .. | .poolexpRead .. | .mdhitRead .. | .mdmissRead .. | .mdueRead ..
  | .mdleakRead .. | .fqstatRead .. | .owncmdRead | .registerWrite .. | .stageBankOperation .. | .stageAnswer ..
  | .longLatencyResult .. | .peerDataReturn .. | .hostReadCompletion .. | .phaseReserveReply ..
  | .bisnpdatablkAnswer .. | .ctxcmdDone .. | .cbcmdDone .. | .hostRangeInvalidateDone .. => true

/-- The fields and E bits the form does not use are zero (R301, TVAL 2). -/
def Instr.reservedZero : Instr → Bool
  | .tlbinv _ a e k =>
    decide ((k.toNat ≠ 0 → a.toNat = 0 ∧ e.toNat = 0))
  | .pref k _ _ _ =>
    decide (k.toNat ≤ 2)
  | .pset _ a e k =>
    decide ((k.toNat ≠ 2 → a.toNat = 0 ∧ e.toNat = 0))
  | .fmaskp d a e k =>
    decide ((k.toNat = 0 → a.toNat = 0 ∧ e.toNat = 0) ∧ (k.toNat = 1 → d.toNat = 0))
  | .viota _ a e _ v =>
    decide ((v.toNat = 1 → a.toNat = 0 ∧ e.toNat = 0))
  | .tact _ a e v _ =>
    decide ((v.toNat = 0 ∨ v.toNat = 3 → a.toNat = 0 ∧ e.toNat = 0))
  | .tsave d _ _ k | .tload d _ _ k =>
    decide ((k.toNat = 1 → d.toNat = 0))
  | .amo _ _ _ s o _ _ | .vamo _ _ _ s o _ _ =>
    decide ((o.toNat = 0 → s.toNat = 0))
  | .vgll _ _ _ s o _ | .waita _ _ _ s o _ _ | .vwait _ _ _ s o _ _ =>
    decide (o.toNat ≤ 1 ∧ (o.toNat = 0 → s.toNat = 0))
  | .vscc _ _ _ s o _ _ =>
    decide ((o.toNat = 0 ∨ o.toNat = 2) ∧ (o.toNat = 0 → s.toNat = 0))
  | .arrive _ _ _ s o x l _ _ =>
    decide ((x.toNat = 0 → o.toNat = 2) ∧ (x.toNat = 1 → o.toNat = 0) ∧ (l.toNat = 1 → s.toNat = 0))
  | .await _ _ _ s l _ _ | .endph s l _ =>
    decide ((l.toNat = 1 → s.toNat = 0))
  | .trapz .. | .ctlr .. | .ctlw .. | .ctls .. | .ctlc .. | .ctlx .. | .syscall .. | .eret | .idle | .bflip ..
  | .enrd .. | .fencei | .dhalt | .dmark .. | .nop | .add .. | .sub .. | .mul .. | .mulh .. | .div .. | .rem ..
  | .min .. | .max .. | .and .. | .or .. | .xor .. | .andn .. | .shl .. | .shr .. | .rot .. | .cmp .. | .addi ..
  | .muli .. | .andi .. | .ori .. | .xori .. | .shli .. | .shri .. | .roti .. | .slti .. | .sltni .. | .seqi ..
  | .mini .. | .maxi .. | .divi .. | .remi .. | .subfi .. | .movi .. | .ldhi .. | .addpc .. | .clz .. | .ctz ..
  | .popc .. | .brev .. | .bswap .. | .ext .. | .ins .. | .sel .. | .mac .. | .abs .. | .cvtw .. | .crc ..
  | .hash .. | .fadd .. | .fsub .. | .fmul .. | .fdiv .. | .fsqrt .. | .fmin .. | .fmax .. | .fma .. | .fnma ..
  | .fcmp .. | .fcvt .. | .fcvti .. | .icvtf .. | .fclass .. | .fexp2 .. | .flog2 .. | .jmp .. | .call ..
  | .beqz .. | .bnez .. | .bltz .. | .bgez .. | .bgtz .. | .blez .. | .bpany .. | .bpnone .. | .jr .. | .callr ..
  | .loop .. | .lbrk .. | .lidx .. | .lcont | .ldb .. | .ldbn .. | .ldh .. | .ldhn .. | .ldw .. | .ldwn ..
  | .ldd .. | .stb .. | .sth .. | .stw .. | .std .. | .ldo .. | .sto .. | .sld .. | .sst .. | .vcfg .. | .setvl ..
  | .vadd .. | .vsub .. | .vmul .. | .vmulh .. | .vdiv .. | .vrem .. | .vmin .. | .vmax .. | .vand .. | .vor ..
  | .vxor .. | .vshl .. | .vshr .. | .vrot .. | .vfadd .. | .vfsub .. | .vfmul .. | .vfdiv .. | .vfsqrt ..
  | .vfmin .. | .vfmax .. | .vfma .. | .vfnma .. | .vfexp2 .. | .vflog2 .. | .vfrcp .. | .vfrsq .. | .vftanh ..
  | .vabs .. | .vneg .. | .vcmp .. | .vcmps .. | .vfcmp .. | .vfcmps .. | .pand .. | .por .. | .pxor .. | .pandn ..
  | .pnot .. | .pcnt .. | .pfirst .. | .ppack .. | .punpk .. | .pmov .. | .vmov .. | .vbcst .. | .vext ..
  | .vins .. | .vslup .. | .vsldn .. | .vcprs .. | .vexpd .. | .vperm .. | .vsel .. | .vred .. | .vfred ..
  | .vscan .. | .vfscan .. | .vdot .. | .vld .. | .vst .. | .vldff .. | .vgth .. | .vsct .. | .vgthw .. | .vlds ..
  | .vsts .. | .vgths .. | .vscts .. | .vspill .. | .vfill .. | .vldbc .. | .vpref .. | .vldsg .. | .vstsg ..
  | .vcvt .. | .vcvti .. | .vicvt .. | .vnarw .. | .vwidn .. | .vqnt .. | .vdqnt .. | .vbscl .. | .vfrnd ..
  | .vfcls .. | .vpk .. | .vupk .. | .vbswp .. | .vclz .. | .vpopc .. | .vhash .. | .mlatch .. | .mlatchv ..
  | .mop .. | .mopSp .. | .mopPair .. | .mpstat .. | .tzero .. | .tmov .. | .tadd .. | .tstore .. | .trdv ..
  | .twrv .. | .tfill .. | .samo .. | .sred .. | .hacc .. | .fence .. | .mprint .. | .mprintFork .. | .mstrike ..
  | .mquery .. | .mgrant .. | .plshare .. | .pldec .. | .ecmd .. | .ecpoll .. | .ecfence .. | .ecabort ..
  | .ecstat .. | .sleepto .. | .sleep .. | .pause .. | .yield | .setvli .. | .strend | .strabt | .hint ..
  | .prchk .. | .brkc .. | .brk .. => true
  | .stripCommit .. | .rds .. | .rnw .. | .rdo .. | .rdr .. | .val .. | .wb .. | .rel .. | .nh .. | .ppr ..
  | .ppa .. | .data .. | .rnok .. | .grant .. | .vok .. | .vfail .. | .rcl .. | .idleRuleTick .. | .repeatRule ..
  | .rebase | .deadAgent .. | .heatSweep .. | .hostMemrd .. | .hostMemwr .. | .birspi .. | .biasFlipDone ..
  | .peerLoad .. | .peerStore .. | .peerAtomic .. | .peerCompletion .. | .hostGlobalObservation ..
  | .persistenceFlushDone .. | .flitReceive .. | .portDown .. | .retrainAttempt .. | .retrainSuccess ..
  | .moduleReset .. | .accountingInterval .. | .windowBoundary .. | .clockChange .. | .thermalTrip
  | .thermalShutdown | .correctedError .. | .uncorrectableError .. | .wayRetireDone .. | .heartbeatMiss ..
  | .fencedDieReissue .. | .slateFetch .. | .slateAdmit .. | .stageReserve .. | .bind .. | .dispatchStart ..
  | .contextResume .. | .slateComplete .. | .preemptRequest .. | .contextSave .. | .forcedPreempt ..
  | .tlbpinwaitExpiry .. | .tlbinvDone .. | .faultBatchPost .. | .eventPost .. | .waitWake .. | .waitDeadline ..
  | .waitPoll .. | .sleepWake .. | .sleeptoWake .. | .pauseEnd .. | .pairStart .. | .pairwaitExpiry ..
  | .matrixChunk .. | .engineSegmentIssue .. | .dollyCopy .. | .dollyFill .. | .dollyCopym .. | .followOnMatrix ..
  | .castDispatch .. | .mixCombine .. | .collPut .. | .collReduce .. | .collSignal .. | .dailiesDelta ..
  | .engineFault .. | .commandComplete .. | .modbudgetWrite .. | .errorWindowWrite .. | .fwcmdInstall ..
  | .fwUpdateDone .. | .reccmdRecovery .. | .recoveryDone .. | .attcmdRequest .. | .attestationSigned
  | .owncmdWrite .. | .owncmdDone | .victlEnable .. | .victlDisable .. | .victlDisableDone .. | .hostRangeWrite ..
  | .viticketsWrite .. | .ctxcmdCreate .. | .ctxcmdDestroy .. | .ctxprivWrite .. | .queueEnable ..
  | .queueDisable .. | .queueTicketsWrite .. | .qtailWrite .. | .fqbaseWrite .. | .fqsizeWrite .. | .fqheadWrite ..
  | .fqreplayRetry .. | .fqreplayAbandon .. | .fqreplayReserved .. | .cbcmdConvert .. | .cbcmdRelease ..
  | .cbcmdGrant .. | .cbcmdNone .. | .cstataddrWrite .. | .dbgcmdHalt .. | .dbgcmdRun .. | .dbgcmdStep ..
  | .dbgcmdStepGroup .. | .dbgcmdDump .. | .linkctlRetrain .. | .tlbpinwaitWrite .. | .preemptdlWrite ..
  | .heatctlWrite .. | .staledropRead .. | .phovlRead .. | .renewdRead .. | .renewfRead .. | .expevictRead ..
  | .exprecallRead .. | .incompRead .. | .poolexpRead .. | .mdhitRead .. | .mdmissRead .. | .mdueRead ..
  | .mdleakRead .. | .fqstatRead .. | .owncmdRead | .registerWrite .. | .stageBankOperation .. | .stageAnswer ..
  | .longLatencyResult .. | .peerDataReturn .. | .hostReadCompletion .. | .phaseReserveReply ..
  | .bisnpdatablkAnswer .. | .ctxcmdDone .. | .cbcmdDone .. | .hostRangeInvalidateDone .. => true

/-- `Instr.fnAssigned` of what `fieldsOf` reads. Of the last rows only PRCHK has a function code, 0 to 4 (19 R439). -/
def fnOk : Instr ⊕ LastRow → Bool
  | .inl i => i.fnAssigned
  | .inr (.prchk _ _ _ f) => decide (f.toNat ≤ 4)
  | .inr _ => true

/-- `Instr.reservedZero` of what `fieldsOf` reads; the last rows use all their fields. -/
def fieldsZero : Instr ⊕ LastRow → Bool
  | .inl i => i.reservedZero
  | .inr _ => true

/-- `reservedMask` of a word: PLDEC alone of its primary has no destination (R418). -/
def reservedBits (w : Nat) : Nat :=
  if w / 2 ^ 24 = 0xEF ∧ w % 8 = 1 then 0xF81F00 else reservedMask (w / 2 ^ 24)

/-- The instruction in a word, judged in the order of R301. -/
def decodeWord (w : Nat) : Decoded :=
  match fieldsOf w with
  | none => .unassigned
  | some i =>
    if w &&& fnFixed (w / 2 ^ 24) ≠ 0 then .unassigned
    else if fnOk i = false then .unassigned
    else if w &&& reservedBits w ≠ reservedValue (w / 2 ^ 24) then .reserved
    else if fieldsZero i = false then .reserved
    else if w / 2 ^ 24 = 0x5F ∧ w % 2 ^ 19 ≠ 0 then .operand
    else match i with
      | .inl i => .instr i
      | .inr r => .last r

/-- The word in four bytes, little-endian (R291). -/
def wordOfBytes (b0 b1 b2 b3 : Byte) : Nat :=
  b0.toNat + b1.toNat * 2 ^ 8 + b2.toNat * 2 ^ 16 + b3.toNat * 2 ^ 24

/-- The instruction at the head of a list of bytes. -/
def decodeBytes : List Byte → Decoded
  | b0 :: b1 :: b2 :: b3 :: _ => decodeWord (wordOfBytes b0 b1 b2 b3)
  | _ => .short

/-- The instruction decoded, none where the decoder refuses. -/
noncomputable def Decoded.toInstr : Decoded → Option Instr
  | .instr i => some i
  | .last r => some r.toInstr
  | _ => none

/-- The word of format RRR (three registers) from its fields (R292). -/
def encRRR (op d a b e f fn : Nat) : Nat :=
  op * 2 ^ 24 + d * 2 ^ 19 + a * 2 ^ 14 + b * 2 ^ 9 + e * 2 ^ 8 + f * 2 ^ 7 + fn

/-- The word of format RRRR (four registers) from its fields (R292). -/
def encRRRR (op d a b c e t : Nat) : Nat :=
  op * 2 ^ 24 + d * 2 ^ 19 + a * 2 ^ 14 + b * 2 ^ 9 + c * 2 ^ 4 + e * 2 ^ 3 + t

/-- The word of format RI (two registers and an immediate) from its fields (R292). -/
def encRI (op d a e i : Nat) : Nat :=
  op * 2 ^ 24 + d * 2 ^ 19 + a * 2 ^ 14 + e * 2 ^ 13 + i

/-- The word of format BR (a branch) from its fields (R292). -/
def encBR (op a e o : Nat) : Nat :=
  op * 2 ^ 24 + a * 2 ^ 19 + e * 2 ^ 18 + o

/-- The word of format WI (a wide immediate) from its fields (R292). -/
def encWI (op d i : Nat) : Nat :=
  op * 2 ^ 24 + d * 2 ^ 19 + i

/-- The word of format VM (vector memory) from its fields (R292). -/
def encVM (op v a e b f fn : Nat) : Nat :=
  op * 2 ^ 24 + v * 2 ^ 19 + a * 2 ^ 14 + e * 2 ^ 13 + b * 2 ^ 8 + f * 2 ^ 7 + fn

/-- The word of format SY (scope and order) from its fields (R292). -/
def encSY (op d a e s o fn : Nat) : Nat :=
  op * 2 ^ 24 + d * 2 ^ 19 + a * 2 ^ 14 + e * 2 ^ 13 + s * 2 ^ 10 + o * 2 ^ 8 + fn

/-- The word of format BK (BRK) from its fields (R292). -/
def encBK (op i : Nat) : Nat :=
  op * 2 ^ 24 + i

/-- The word of an instruction, from the field ranges of R292 and the opcode map of R297; a step without an encoding has
none. -/
def Instr.encodeNat : Instr → Nat
  | .trapz x => x.toNat
  | .ctlr d n => encRI 0x01 d.toNat 0 0 n.toNat
  | .ctlw a e n => encRI 0x02 0 a.toNat e.toNat n.toNat
  | .ctls d a e n => encRI 0x03 d.toNat a.toNat e.toNat n.toNat
  | .ctlc d a e n => encRI 0x04 d.toNat a.toNat e.toNat n.toNat
  | .ctlx d a e n => encRI 0x05 d.toNat a.toNat e.toNat n.toNat
  | .syscall i => encWI 0x06 0 i.toNat
  | .eret => encWI 0x07 0 0
  | .idle => encWI 0x08 0 0
  | .tlbinv d a e k => encSY 0x09 d.toNat a.toNat e.toNat 0 0 k.toNat
  | .bflip d a e k => encSY 0x0A d.toNat a.toNat e.toNat 0 0 k.toNat
  | .enrd d s => encRI 0x0B d.toNat 0 0 s.toNat
  | .fencei => encSY 0x0C 0 0 0 0 0 0
  | .dhalt => encWI 0x0D 0 0
  | .dmark i => encWI 0x0E 0 i.toNat
  | .nop => encWI 0x0F 0 0
  | .add d a b e f t v => encRRR 0x10 d.toNat a.toNat b.toNat e.toNat f.toNat (t.toNat * 8 + v.toNat)
  | .sub d a b e f t v => encRRR 0x11 d.toNat a.toNat b.toNat e.toNat f.toNat (t.toNat * 8 + v.toNat)
  | .mul d a b e f t v => encRRR 0x12 d.toNat a.toNat b.toNat e.toNat f.toNat (t.toNat * 8 + v.toNat)
  | .mulh d a b e f t v => encRRR 0x13 d.toNat a.toNat b.toNat e.toNat f.toNat (t.toNat * 8 + v.toNat)
  | .div d a b e f t v => encRRR 0x14 d.toNat a.toNat b.toNat e.toNat f.toNat (t.toNat * 8 + v.toNat)
  | .rem d a b e f t v => encRRR 0x15 d.toNat a.toNat b.toNat e.toNat f.toNat (t.toNat * 8 + v.toNat)
  | .min d a b e f t v => encRRR 0x16 d.toNat a.toNat b.toNat e.toNat f.toNat (t.toNat * 8 + v.toNat)
  | .max d a b e f t v => encRRR 0x17 d.toNat a.toNat b.toNat e.toNat f.toNat (t.toNat * 8 + v.toNat)
  | .and d a b e f => encRRR 0x18 d.toNat a.toNat b.toNat e.toNat f.toNat 0
  | .or d a b e f => encRRR 0x19 d.toNat a.toNat b.toNat e.toNat f.toNat 0
  | .xor d a b e f => encRRR 0x1A d.toNat a.toNat b.toNat e.toNat f.toNat 0
  | .andn d a b e f => encRRR 0x1B d.toNat a.toNat b.toNat e.toNat f.toNat 0
  | .shl d a b e f t v => encRRR 0x1C d.toNat a.toNat b.toNat e.toNat f.toNat (t.toNat * 8 + v.toNat)
  | .shr d a b e f t v => encRRR 0x1D d.toNat a.toNat b.toNat e.toNat f.toNat (t.toNat * 8 + v.toNat)
  | .rot d a b e f t v => encRRR 0x1E d.toNat a.toNat b.toNat e.toNat f.toNat (t.toNat * 8 + v.toNat)
  | .cmp d a b e f t v => encRRR 0x1F d.toNat a.toNat b.toNat e.toNat f.toNat (t.toNat * 8 + v.toNat)
  | .addi d a e i => encRI 0x20 d.toNat a.toNat e.toNat i.toNat
  | .muli d a e i => encRI 0x21 d.toNat a.toNat e.toNat i.toNat
  | .andi d a e i => encRI 0x22 d.toNat a.toNat e.toNat i.toNat
  | .ori d a e i => encRI 0x23 d.toNat a.toNat e.toNat i.toNat
  | .xori d a e i => encRI 0x24 d.toNat a.toNat e.toNat i.toNat
  | .shli d a e s => encRI 0x25 d.toNat a.toNat e.toNat s.toNat
  | .shri d a e k s => encRI 0x26 d.toNat a.toNat e.toNat (k.toNat * 64 + s.toNat)
  | .roti d a e s => encRI 0x27 d.toNat a.toNat e.toNat s.toNat
  | .slti d a e i => encRI 0x28 d.toNat a.toNat e.toNat i.toNat
  | .sltni d a e i => encRI 0x29 d.toNat a.toNat e.toNat i.toNat
  | .seqi d a e i => encRI 0x2A d.toNat a.toNat e.toNat i.toNat
  | .mini d a e i => encRI 0x2B d.toNat a.toNat e.toNat i.toNat
  | .maxi d a e i => encRI 0x2C d.toNat a.toNat e.toNat i.toNat
  | .divi d a e i => encRI 0x2D d.toNat a.toNat e.toNat i.toNat
  | .remi d a e i => encRI 0x2E d.toNat a.toNat e.toNat i.toNat
  | .subfi d a e i => encRI 0x2F d.toNat a.toNat e.toNat i.toNat
  | .movi d i => encWI 0x30 d.toNat i.toNat
  | .ldhi d i => encWI 0x31 d.toNat i.toNat
  | .addpc d i => encWI 0x32 d.toNat i.toNat
  | .clz d a e t => encRRR 0x33 d.toNat a.toNat 0 e.toNat 0 (t.toNat * 8)
  | .ctz d a e t => encRRR 0x34 d.toNat a.toNat 0 e.toNat 0 (t.toNat * 8)
  | .popc d a e t => encRRR 0x35 d.toNat a.toNat 0 e.toNat 0 (t.toNat * 8)
  | .brev d a e t => encRRR 0x36 d.toNat a.toNat 0 e.toNat 0 (t.toNat * 8)
  | .bswap d a e t => encRRR 0x37 d.toNat a.toNat 0 e.toNat 0 (t.toNat * 8)
  | .ext d a e x l p => encRI 0x38 d.toNat a.toNat e.toNat (x.toNat * 4096 + l.toNat * 64 + p.toNat)
  | .ins d a e l p => encRI 0x39 d.toNat a.toNat e.toNat (l.toNat * 64 + p.toNat)
  | .sel d a b e f c => encRRR 0x3A d.toNat a.toNat b.toNat e.toNat f.toNat c.toNat
  | .mac d a b e f t v => encRRR 0x3B d.toNat a.toNat b.toNat e.toNat f.toNat (t.toNat * 8 + v.toNat)
  | .abs d a e t v => encRRR 0x3C d.toNat a.toNat 0 e.toNat 0 (t.toNat * 8 + v.toNat)
  | .cvtw d a e t u => encRRR 0x3D d.toNat a.toNat 0 e.toNat 0 (t.toNat * 8 + u.toNat)
  | .crc d a b e f t => encRRR 0x3E d.toNat a.toNat b.toNat e.toNat f.toNat (t.toNat * 8)
  | .hash d a b e f => encRRR 0x3F d.toNat a.toNat b.toNat e.toNat f.toNat 0
  | .fadd d a b e f t v => encRRR 0x40 d.toNat a.toNat b.toNat e.toNat f.toNat (t.toNat * 8 + v.toNat)
  | .fsub d a b e f t v => encRRR 0x41 d.toNat a.toNat b.toNat e.toNat f.toNat (t.toNat * 8 + v.toNat)
  | .fmul d a b e f t v => encRRR 0x42 d.toNat a.toNat b.toNat e.toNat f.toNat (t.toNat * 8 + v.toNat)
  | .fdiv d a b e f t v => encRRR 0x43 d.toNat a.toNat b.toNat e.toNat f.toNat (t.toNat * 8 + v.toNat)
  | .fsqrt d a e t v => encRRR 0x44 d.toNat a.toNat 0 e.toNat 0 (t.toNat * 8 + v.toNat)
  | .fmin d a b e f t v => encRRR 0x45 d.toNat a.toNat b.toNat e.toNat f.toNat (t.toNat * 8 + v.toNat)
  | .fmax d a b e f t v => encRRR 0x46 d.toNat a.toNat b.toNat e.toNat f.toNat (t.toNat * 8 + v.toNat)
  | .fma d a b c e t => encRRRR 0x47 d.toNat a.toNat b.toNat c.toNat e.toNat t.toNat
  | .fnma d a b c e t => encRRRR 0x48 d.toNat a.toNat b.toNat c.toNat e.toNat t.toNat
  | .fcmp d a b e f t v => encRRR 0x49 d.toNat a.toNat b.toNat e.toNat f.toNat (t.toNat * 8 + v.toNat)
  | .fcvt d a u e t v => encRRR 0x4A d.toNat a.toNat u.toNat e.toNat 0 (t.toNat * 8 + v.toNat)
  | .fcvti d a u e t v => encRRR 0x4B d.toNat a.toNat u.toNat e.toNat 0 (t.toNat * 8 + v.toNat)
  | .icvtf d a u e t v => encRRR 0x4C d.toNat a.toNat u.toNat e.toNat 0 (t.toNat * 8 + v.toNat)
  | .fclass d a e t => encRRR 0x4D d.toNat a.toNat 0 e.toNat 0 (t.toNat * 8)
  | .fexp2 d a e t v => encRRR 0x4E d.toNat a.toNat 0 e.toNat 0 (t.toNat * 8 + v.toNat)
  | .flog2 d a e t v => encRRR 0x4F d.toNat a.toNat 0 e.toNat 0 (t.toNat * 8 + v.toNat)
  | .jmp o => encBR 0x50 0 0 o.toNat
  | .call o => encBR 0x51 0 0 o.toNat
  | .beqz a e o => encBR 0x52 a.toNat e.toNat o.toNat
  | .bnez a e o => encBR 0x53 a.toNat e.toNat o.toNat
  | .bltz a e o => encBR 0x54 a.toNat e.toNat o.toNat
  | .bgez a e o => encBR 0x55 a.toNat e.toNat o.toNat
  | .bgtz a e o => encBR 0x56 a.toNat e.toNat o.toNat
  | .blez a e o => encBR 0x57 a.toNat e.toNat o.toNat
  | .bpany a e o => encBR 0x58 a.toNat e.toNat o.toNat
  | .bpnone a e o => encBR 0x59 a.toNat e.toNat o.toNat
  | .jr a e i => encRI 0x5A 0 a.toNat e.toNat i.toNat
  | .callr d a e i => encRI 0x5B d.toNat a.toNat e.toNat i.toNat
  | .loop a e o => encBR 0x5C a.toNat e.toNat o.toNat
  | .lbrk k => encWI 0x5D 0 k.toNat
  | .lidx d k => encWI 0x5E d.toNat k.toNat
  | .lcont => encWI 0x5F 0 0
  | .ldb d a e i => encRI 0x60 d.toNat a.toNat e.toNat i.toNat
  | .ldbn d a e i => encRI 0x61 d.toNat a.toNat e.toNat i.toNat
  | .ldh d a e i => encRI 0x62 d.toNat a.toNat e.toNat i.toNat
  | .ldhn d a e i => encRI 0x63 d.toNat a.toNat e.toNat i.toNat
  | .ldw d a e i => encRI 0x64 d.toNat a.toNat e.toNat i.toNat
  | .ldwn d a e i => encRI 0x65 d.toNat a.toNat e.toNat i.toNat
  | .ldd d a e i => encRI 0x66 d.toNat a.toNat e.toNat i.toNat
  | .stb d a e i => encRI 0x67 d.toNat a.toNat e.toNat i.toNat
  | .sth d a e i => encRI 0x68 d.toNat a.toNat e.toNat i.toNat
  | .stw d a e i => encRI 0x69 d.toNat a.toNat e.toNat i.toNat
  | .std d a e i => encRI 0x6A d.toNat a.toNat e.toNat i.toNat
  | .ldo d a e c z s => encSY 0x6B d.toNat a.toNat e.toNat c.toNat 1 (z.toNat * 4 + s.toNat)
  | .sto d a e c s => encSY 0x6C d.toNat a.toNat e.toNat c.toNat 2 s.toNat
  | .sld d a e i => encRI 0x6D d.toNat a.toNat e.toNat i.toNat
  | .sst d a e i => encRI 0x6E d.toNat a.toNat e.toNat i.toNat
  | .pref k a e i => encRI 0x6F k.toNat a.toNat e.toNat i.toNat
  | .vcfg n => encWI 0x70 0 n.toNat
  | .setvl d a e w => encRI 0x71 d.toNat a.toNat e.toNat w.toNat
  | .vadd d a b e f t v => encRRR 0x72 d.toNat a.toNat b.toNat e.toNat f.toNat (t.toNat * 8 + v.toNat)
  | .vsub d a b e f t v => encRRR 0x73 d.toNat a.toNat b.toNat e.toNat f.toNat (t.toNat * 8 + v.toNat)
  | .vmul d a b e f t v => encRRR 0x74 d.toNat a.toNat b.toNat e.toNat f.toNat (t.toNat * 8 + v.toNat)
  | .vmulh d a b e f t v => encRRR 0x75 d.toNat a.toNat b.toNat e.toNat f.toNat (t.toNat * 8 + v.toNat)
  | .vdiv d a b e f t v => encRRR 0x76 d.toNat a.toNat b.toNat e.toNat f.toNat (t.toNat * 8 + v.toNat)
  | .vrem d a b e f t v => encRRR 0x77 d.toNat a.toNat b.toNat e.toNat f.toNat (t.toNat * 8 + v.toNat)
  | .vmin d a b e f t v => encRRR 0x78 d.toNat a.toNat b.toNat e.toNat f.toNat (t.toNat * 8 + v.toNat)
  | .vmax d a b e f t v => encRRR 0x79 d.toNat a.toNat b.toNat e.toNat f.toNat (t.toNat * 8 + v.toNat)
  | .vand d a b e f t v => encRRR 0x7A d.toNat a.toNat b.toNat e.toNat f.toNat (t.toNat * 8 + v.toNat)
  | .vor d a b e f t v => encRRR 0x7B d.toNat a.toNat b.toNat e.toNat f.toNat (t.toNat * 8 + v.toNat)
  | .vxor d a b e f t v => encRRR 0x7C d.toNat a.toNat b.toNat e.toNat f.toNat (t.toNat * 8 + v.toNat)
  | .vshl d a b e f t v => encRRR 0x7D d.toNat a.toNat b.toNat e.toNat f.toNat (t.toNat * 8 + v.toNat)
  | .vshr d a b e f t v => encRRR 0x7E d.toNat a.toNat b.toNat e.toNat f.toNat (t.toNat * 8 + v.toNat)
  | .vrot d a b e f t v => encRRR 0x7F d.toNat a.toNat b.toNat e.toNat f.toNat (t.toNat * 8 + v.toNat)
  | .vfadd d a b e f t v => encRRR 0x80 d.toNat a.toNat b.toNat e.toNat f.toNat (t.toNat * 8 + v.toNat)
  | .vfsub d a b e f t v => encRRR 0x81 d.toNat a.toNat b.toNat e.toNat f.toNat (t.toNat * 8 + v.toNat)
  | .vfmul d a b e f t v => encRRR 0x82 d.toNat a.toNat b.toNat e.toNat f.toNat (t.toNat * 8 + v.toNat)
  | .vfdiv d a b e f t v => encRRR 0x83 d.toNat a.toNat b.toNat e.toNat f.toNat (t.toNat * 8 + v.toNat)
  | .vfsqrt d a e t => encRRR 0x84 d.toNat a.toNat 0 e.toNat 0 (t.toNat * 8)
  | .vfmin d a b e f t v => encRRR 0x85 d.toNat a.toNat b.toNat e.toNat f.toNat (t.toNat * 8 + v.toNat)
  | .vfmax d a b e f t v => encRRR 0x86 d.toNat a.toNat b.toNat e.toNat f.toNat (t.toNat * 8 + v.toNat)
  | .vfma d a b c e t => encRRRR 0x87 d.toNat a.toNat b.toNat c.toNat e.toNat t.toNat
  | .vfnma d a b c e t => encRRRR 0x88 d.toNat a.toNat b.toNat c.toNat e.toNat t.toNat
  | .vfexp2 d a e t => encRRR 0x89 d.toNat a.toNat 0 e.toNat 0 (t.toNat * 8)
  | .vflog2 d a e t => encRRR 0x8A d.toNat a.toNat 0 e.toNat 0 (t.toNat * 8)
  | .vfrcp d a e t => encRRR 0x8B d.toNat a.toNat 0 e.toNat 0 (t.toNat * 8)
  | .vfrsq d a e t => encRRR 0x8C d.toNat a.toNat 0 e.toNat 0 (t.toNat * 8)
  | .vftanh d a e t => encRRR 0x8D d.toNat a.toNat 0 e.toNat 0 (t.toNat * 8)
  | .vabs d a e t v => encRRR 0x8E d.toNat a.toNat 0 e.toNat 0 (t.toNat * 8 + v.toNat)
  | .vneg d a e t v => encRRR 0x8F d.toNat a.toNat 0 e.toNat 0 (t.toNat * 8 + v.toNat)
  | .vcmp d a b e f t v => encRRR 0x90 d.toNat a.toNat b.toNat e.toNat f.toNat (t.toNat * 8 + v.toNat)
  | .vcmps d a b e f t v => encRRR 0x91 d.toNat a.toNat b.toNat e.toNat f.toNat (t.toNat * 8 + v.toNat)
  | .vfcmp d a b e f t v => encRRR 0x92 d.toNat a.toNat b.toNat e.toNat f.toNat (t.toNat * 8 + v.toNat)
  | .vfcmps d a b e f t v => encRRR 0x93 d.toNat a.toNat b.toNat e.toNat f.toNat (t.toNat * 8 + v.toNat)
  | .pand d a b e f => encRRR 0x94 d.toNat a.toNat b.toNat e.toNat f.toNat 0
  | .por d a b e f => encRRR 0x95 d.toNat a.toNat b.toNat e.toNat f.toNat 0
  | .pxor d a b e f => encRRR 0x96 d.toNat a.toNat b.toNat e.toNat f.toNat 0
  | .pandn d a b e f => encRRR 0x97 d.toNat a.toNat b.toNat e.toNat f.toNat 0
  | .pnot d a e => encRRR 0x98 d.toNat a.toNat 0 e.toNat 0 0
  | .pcnt d a e => encRRR 0x99 d.toNat a.toNat 0 e.toNat 0 0
  | .pfirst d a e => encRRR 0x9A d.toNat a.toNat 0 e.toNat 0 0
  | .pset d a e k => encRRR 0x9B d.toNat a.toNat 0 e.toNat 0 k.toNat
  | .ppack d => encRRR 0x9C d.toNat 0 0 0 0 0
  | .punpk a e => encRRR 0x9D 0 a.toNat 0 e.toNat 0 0
  | .pmov d a e k => encRRR 0x9E d.toNat a.toNat 0 e.toNat 0 k.toNat
  | .fmaskp d a e k => encRRR 0x9F d.toNat a.toNat 0 e.toNat 0 k.toNat
  | .vmov d a e t => encRRR 0xA0 d.toNat a.toNat 0 e.toNat 0 (t.toNat * 8)
  | .vbcst d a e t => encRRR 0xA1 d.toNat a.toNat 0 e.toNat 0 (t.toNat * 8)
  | .vext d a b e f t => encRRR 0xA2 d.toNat a.toNat b.toNat e.toNat f.toNat (t.toNat * 8)
  | .vins d a b e f t => encRRR 0xA3 d.toNat a.toNat b.toNat e.toNat f.toNat (t.toNat * 8)
  | .vslup d a b e f t => encRRR 0xA4 d.toNat a.toNat b.toNat e.toNat f.toNat (t.toNat * 8)
  | .vsldn d a b e f t => encRRR 0xA5 d.toNat a.toNat b.toNat e.toNat f.toNat (t.toNat * 8)
  | .vcprs d a b e f t => encRRR 0xA6 d.toNat a.toNat b.toNat e.toNat f.toNat (t.toNat * 8)
  | .vexpd d a b e f t => encRRR 0xA7 d.toNat a.toNat b.toNat e.toNat f.toNat (t.toNat * 8)
  | .vperm d a b e f t => encRRR 0xA8 d.toNat a.toNat b.toNat e.toNat f.toNat (t.toNat * 8)
  | .viota d a e t v => encRRR 0xA9 d.toNat a.toNat 0 e.toNat 0 (t.toNat * 8 + v.toNat)
  | .vsel d a b e f t => encRRR 0xAA d.toNat a.toNat b.toNat e.toNat f.toNat (t.toNat * 8)
  | .vred d a b e f t v => encRRR 0xAB d.toNat a.toNat b.toNat e.toNat f.toNat (t.toNat * 8 + v.toNat)
  | .vfred d a b e f t v => encRRR 0xAC d.toNat a.toNat b.toNat e.toNat f.toNat (t.toNat * 8 + v.toNat)
  | .vscan d a b e f t v => encRRR 0xAD d.toNat a.toNat b.toNat e.toNat f.toNat (t.toNat * 8 + v.toNat)
  | .vfscan d a b e f t v => encRRR 0xAE d.toNat a.toNat b.toNat e.toNat f.toNat (t.toNat * 8 + v.toNat)
  | .vdot d a b e f t => encRRR 0xAF d.toNat a.toNat b.toNat e.toNat f.toNat (t.toNat * 8)
  | .vld v a e t => encVM 0xB0 v.toNat a.toNat e.toNat 0 0 (t.toNat * 8)
  | .vst v a e t => encVM 0xB1 v.toNat a.toNat e.toNat 0 0 (t.toNat * 8)
  | .vldff v a e t => encVM 0xB2 v.toNat a.toNat e.toNat 0 0 (t.toNat * 8)
  | .vgth v a e b f t => encVM 0xB3 v.toNat a.toNat e.toNat b.toNat f.toNat (t.toNat * 8)
  | .vsct v a e b f t => encVM 0xB4 v.toNat a.toNat e.toNat b.toNat f.toNat (t.toNat * 8)
  | .vgthw v a e b f t x => encVM 0xB5 v.toNat a.toNat e.toNat b.toNat f.toNat (t.toNat * 8 + x.toNat)
  | .vlds v a e t => encVM 0xB6 v.toNat a.toNat e.toNat 0 0 (t.toNat * 8)
  | .vsts v a e t => encVM 0xB7 v.toNat a.toNat e.toNat 0 0 (t.toNat * 8)
  | .vgths v a e b f t => encVM 0xB8 v.toNat a.toNat e.toNat b.toNat f.toNat (t.toNat * 8)
  | .vscts v a e b f t => encVM 0xB9 v.toNat a.toNat e.toNat b.toNat f.toNat (t.toNat * 8)
  | .vspill v a e => encVM 0xBA v.toNat a.toNat e.toNat 0 0 0
  | .vfill v a e => encVM 0xBB v.toNat a.toNat e.toNat 0 0 0
  | .vldbc v a e t => encVM 0xBC v.toNat a.toNat e.toNat 0 0 (t.toNat * 8)
  | .vpref a e t k => encVM 0xBD 0 a.toNat e.toNat 0 0 (t.toNat * 8 + k.toNat)
  | .vldsg v a e t x => encVM 0xBE v.toNat a.toNat e.toNat 0 0 (t.toNat * 8 + x.toNat)
  | .vstsg v a e t x => encVM 0xBF v.toNat a.toNat e.toNat 0 0 (t.toNat * 8 + x.toNat)
  | .vcvt d a u e t v => encRRR 0xC0 d.toNat a.toNat u.toNat e.toNat 0 (t.toNat * 8 + v.toNat)
  | .vcvti d a u e t v => encRRR 0xC1 d.toNat a.toNat u.toNat e.toNat 0 (t.toNat * 8 + v.toNat)
  | .vicvt d a u e t v => encRRR 0xC2 d.toNat a.toNat u.toNat e.toNat 0 (t.toNat * 8 + v.toNat)
  | .vnarw d a u e t => encRRR 0xC3 d.toNat a.toNat u.toNat e.toNat 0 (t.toNat * 8)
  | .vwidn d a u e t => encRRR 0xC4 d.toNat a.toNat u.toNat e.toNat 0 (t.toNat * 8)
  | .vqnt d a b e f q g => encRRR 0xC5 d.toNat a.toNat b.toNat e.toNat f.toNat (q.toNat * 8 + g.toNat)
  | .vdqnt d a b e f q g => encRRR 0xC6 d.toNat a.toNat b.toNat e.toNat f.toNat (q.toNat * 8 + g.toNat)
  | .vbscl d a e q g => encRRR 0xC7 d.toNat a.toNat 0 e.toNat 0 (q.toNat * 8 + g.toNat)
  | .vfrnd d a e t v => encRRR 0xC8 d.toNat a.toNat 0 e.toNat 0 (t.toNat * 8 + v.toNat)
  | .vfcls d a e t => encRRR 0xC9 d.toNat a.toNat 0 e.toNat 0 (t.toNat * 8)
  | .vpk d a b e f t => encRRR 0xCA d.toNat a.toNat b.toNat e.toNat f.toNat (t.toNat * 8)
  | .vupk d a e t v => encRRR 0xCB d.toNat a.toNat 0 e.toNat 0 (t.toNat * 8 + v.toNat)
  | .vbswp d a e t => encRRR 0xCC d.toNat a.toNat 0 e.toNat 0 (t.toNat * 8)
  | .vclz d a e t v => encRRR 0xCD d.toNat a.toNat 0 e.toNat 0 (t.toNat * 8 + v.toNat)
  | .vpopc d a e t => encRRR 0xCE d.toNat a.toNat 0 e.toNat 0 (t.toNat * 8)
  | .vhash d a b e f => encRRR 0xCF d.toNat a.toNat b.toNat e.toNat f.toNat 0
  | .mlatch d a b e f t => encRRR 0xD0 d.toNat a.toNat b.toNat e.toNat f.toNat (t.toNat * 8)
  | .mlatchv a b e f t => encRRR 0xD1 0 a.toNat b.toNat e.toNat f.toNat (t.toNat * 8)
  | .mop d a b e f t k g => encRRR 0xD2 d.toNat a.toNat b.toNat e.toNat f.toNat (t.toNat * 8 + k.toNat * 4 + g.toNat)
  | .mopSp d a b e f t k g =>
    encRRR 0xD3 d.toNat a.toNat b.toNat e.toNat f.toNat (t.toNat * 8 + k.toNat * 4 + g.toNat)
  | .mopPair d a b e f t k g =>
    encRRR 0xD4 d.toNat a.toNat b.toNat e.toNat f.toNat (t.toNat * 8 + k.toNat * 4 + g.toNat)
  | .mpstat d => encRRR 0xD5 d.toNat 0 0 0 0 0
  | .tzero d => encRRR 0xD6 d.toNat 0 0 0 0 0
  | .tmov d a e => encRRR 0xD7 d.toNat a.toNat 0 e.toNat 0 0
  | .tadd d a e t => encRRR 0xD8 d.toNat a.toNat 0 e.toNat 0 (t.toNat * 8)
  | .tact d a e v t => encRRR 0xD9 d.toNat a.toNat 0 e.toNat 0 (v.toNat + t.toNat * 8)
  | .tstore d a b e f t v => encRRR 0xDA d.toNat a.toNat b.toNat e.toNat f.toNat (t.toNat * 8 + v.toNat)
  | .tsave d a e k => encRRR 0xDB d.toNat a.toNat 0 e.toNat 0 k.toNat
  | .tload d a e k => encRRR 0xDC d.toNat a.toNat 0 e.toNat 0 k.toNat
  | .trdv d a b e f t v => encRRR 0xDD d.toNat a.toNat b.toNat e.toNat f.toNat (t.toNat * 8 + v.toNat)
  | .twrv d a b e f t v => encRRR 0xDE d.toNat a.toNat b.toNat e.toNat f.toNat (t.toNat * 8 + v.toNat)
  | .tfill d a e t => encRRR 0xDF d.toNat a.toNat 0 e.toNat 0 (t.toNat * 8)
  | .amo d a e s o p t => encSY 0xE0 d.toNat a.toNat e.toNat s.toNat o.toNat (p.toNat * 16 + t.toNat)
  | .vamo d a e s o p t => encSY 0xE1 d.toNat a.toNat e.toNat s.toNat o.toNat (p.toNat * 16 + t.toNat)
  | .vgll d a e s o t => encSY 0xE2 d.toNat a.toNat e.toNat s.toNat o.toNat t.toNat
  | .vscc d a e s o p t => encSY 0xE3 d.toNat a.toNat e.toNat s.toNat o.toNat (p.toNat * 32 + t.toNat)
  | .samo d a e p t => encSY 0xE4 d.toNat a.toNat e.toNat 0 0 (p.toNat * 16 + t.toNat)
  | .sred d a e p t => encSY 0xE5 d.toNat a.toNat e.toNat 0 0 (p.toNat * 16 + t.toNat)
  | .hacc d a e r o => encSY 0xE6 d.toNat a.toNat e.toNat 0 0 (r.toNat * 8 + o.toNat)
  | .waita d a e s o c z => encSY 0xE7 d.toNat a.toNat e.toNat s.toNat o.toNat (c.toNat * 16 + z.toNat)
  | .vwait d a e s o p c => encSY 0xE8 d.toNat a.toNat e.toNat s.toNat o.toNat (p.toNat * 32 + c.toNat)
  | .arrive d a e s o x l n g =>
    encSY 0xE9 d.toNat a.toNat e.toNat s.toNat o.toNat (x.toNat * 32 + l.toNat * 16 + n.toNat * 2 + g.toNat)
  | .await d a e s l n g => encSY 0xEA d.toNat a.toNat e.toNat s.toNat 1 (l.toNat * 16 + n.toNat * 2 + g.toNat)
  | .endph s l n => encSY 0xEB 0 0 0 s.toNat 2 (l.toNat * 16 + n.toNat * 2)
  | .fence s => encSY 0xEC 0 0 0 s.toNat 3 0
  | .mprint d a e => encSY 0xED d.toNat a.toNat e.toNat 0 0 0
  | .mprintFork d a e => encSY 0xED d.toNat a.toNat e.toNat 0 0 1
  | .mstrike d a e => encSY 0xED d.toNat a.toNat e.toNat 0 0 2
  | .mquery d a e => encSY 0xEE d.toNat a.toNat e.toNat 0 0 0
  | .mgrant d a e => encSY 0xEE d.toNat a.toNat e.toNat 0 0 1
  | .plshare d a e s => encSY 0xEF d.toNat a.toNat e.toNat 0 0 (s.toNat * 8)
  | .pldec a e s => encSY 0xEF 0 a.toNat e.toNat 0 0 (s.toNat * 8 + 1)
  | .ecmd d a e f => encSY 0xF0 d.toNat a.toNat e.toNat 0 0 f.toNat
  | .ecpoll d f => encSY 0xF1 d.toNat 0 0 0 0 f.toNat
  | .ecfence d f => encSY 0xF2 d.toNat 0 0 0 0 f.toNat
  | .ecabort d a e f => encSY 0xF3 d.toNat a.toNat e.toNat 0 0 f.toNat
  | .ecstat d f => encSY 0xF4 d.toNat 0 0 0 0 f.toNat
  | .sleepto d a e f => encSY 0xF5 d.toNat a.toNat e.toNat 0 0 f.toNat
  | .sleep a e => encSY 0xF6 0 a.toNat e.toNat 0 0 0
  | .pause n => encWI 0xF7 0 n.toNat
  | .yield => encWI 0xF8 0 0
  | .setvli d n w => encWI 0xF9 d.toNat (n.toNat * 4 + w.toNat)
  | .strend => encWI 0xFA 0 0
  | .strabt => encWI 0xFB 0 0
  | .hint i => encWI 0xFC 0 i.toNat
  | .prchk d a e f => encSY 0xFD d.toNat a.toNat e.toNat 0 0 f.toNat
  | .brkc a e i => encRI 0xFE 0 a.toNat e.toNat i.toNat
  | .brk i => encBK 0xFF i.toNat
  | .stripCommit .. | .rds .. | .rnw .. | .rdo .. | .rdr .. | .val .. | .wb .. | .rel .. | .nh .. | .ppr ..
  | .ppa .. | .data .. | .rnok .. | .grant .. | .vok .. | .vfail .. | .rcl .. | .idleRuleTick .. | .repeatRule ..
  | .rebase | .deadAgent .. | .heatSweep .. | .hostMemrd .. | .hostMemwr .. | .birspi .. | .biasFlipDone ..
  | .peerLoad .. | .peerStore .. | .peerAtomic .. | .peerCompletion .. | .hostGlobalObservation ..
  | .persistenceFlushDone .. | .flitReceive .. | .portDown .. | .retrainAttempt .. | .retrainSuccess ..
  | .moduleReset .. | .accountingInterval .. | .windowBoundary .. | .clockChange .. | .thermalTrip
  | .thermalShutdown | .correctedError .. | .uncorrectableError .. | .wayRetireDone .. | .heartbeatMiss ..
  | .fencedDieReissue .. | .slateFetch .. | .slateAdmit .. | .stageReserve .. | .bind .. | .dispatchStart ..
  | .contextResume .. | .slateComplete .. | .preemptRequest .. | .contextSave .. | .forcedPreempt ..
  | .tlbpinwaitExpiry .. | .tlbinvDone .. | .faultBatchPost .. | .eventPost .. | .waitWake .. | .waitDeadline ..
  | .waitPoll .. | .sleepWake .. | .sleeptoWake .. | .pauseEnd .. | .pairStart .. | .pairwaitExpiry ..
  | .matrixChunk .. | .engineSegmentIssue .. | .dollyCopy .. | .dollyFill .. | .dollyCopym .. | .followOnMatrix ..
  | .castDispatch .. | .mixCombine .. | .collPut .. | .collReduce .. | .collSignal .. | .dailiesDelta ..
  | .engineFault .. | .commandComplete .. | .modbudgetWrite .. | .errorWindowWrite .. | .fwcmdInstall ..
  | .fwUpdateDone .. | .reccmdRecovery .. | .recoveryDone .. | .attcmdRequest .. | .attestationSigned
  | .owncmdWrite .. | .owncmdDone | .victlEnable .. | .victlDisable .. | .victlDisableDone .. | .hostRangeWrite ..
  | .viticketsWrite .. | .ctxcmdCreate .. | .ctxcmdDestroy .. | .ctxprivWrite .. | .queueEnable ..
  | .queueDisable .. | .queueTicketsWrite .. | .qtailWrite .. | .fqbaseWrite .. | .fqsizeWrite .. | .fqheadWrite ..
  | .fqreplayRetry .. | .fqreplayAbandon .. | .fqreplayReserved .. | .cbcmdConvert .. | .cbcmdRelease ..
  | .cbcmdGrant .. | .cbcmdNone .. | .cstataddrWrite .. | .dbgcmdHalt .. | .dbgcmdRun .. | .dbgcmdStep ..
  | .dbgcmdStepGroup .. | .dbgcmdDump .. | .linkctlRetrain .. | .tlbpinwaitWrite .. | .preemptdlWrite ..
  | .heatctlWrite .. | .staledropRead .. | .phovlRead .. | .renewdRead .. | .renewfRead .. | .expevictRead ..
  | .exprecallRead .. | .incompRead .. | .poolexpRead .. | .mdhitRead .. | .mdmissRead .. | .mdueRead ..
  | .mdleakRead .. | .fqstatRead .. | .owncmdRead | .registerWrite .. | .stageBankOperation .. | .stageAnswer ..
  | .longLatencyResult .. | .peerDataReturn .. | .hostReadCompletion .. | .phaseReserveReply ..
  | .bisnpdatablkAnswer .. | .ctxcmdDone .. | .cbcmdDone .. | .hostRangeInvalidateDone .. => 0

/-- The word of an instruction that has one (R291). -/
def encode (i : Instr) : Word32 := BitVec.ofNat 32 i.encodeNat

/-- The four bytes of a word as memory holds them (R3). -/
def bytesOfWord (w : Nat) : List Byte :=
  [BitVec.ofNat 8 w, BitVec.ofNat 8 (w / 2 ^ 8), BitVec.ofNat 8 (w / 2 ^ 16), BitVec.ofNat 8 (w / 2 ^ 24)]

/-- The instruction this decoder reads from an instruction whose bits are `w`, bit 0 being the least significant bit
of its one word; the table gives every encoded row 32 bits. -/
noncomputable def decodeTableWord (nbits w : Nat) : Option Instr :=
  (decodeBytes (bytesOfWord (w % 2 ^ nbits))).toInstr

end Sys2Proof
end

