-- ==== Sys2Proof/Config.lean ====
section
/-!
DEFINITION. What an implementation fixes and the spec leaves open. Each constant is opaque: no proof can see its value,
so a statement holds whatever it is.
-/
namespace Sys2Proof.Config

/-- The bits of the n-th free value: a string of bits of any length, used where the spec calls contents undefined
(05 R114, 08 R193, 11 R242, 17 R375; log 5). -/
opaque freeBits : Nat → Nat

/-- The fixed hash by which a 4 KiB frame's lines are spread over the home slices of a die (07 R148; log 6). -/
opaque frameHash : Nat → Nat

/-- The cost in reference cycles that the firmware's published rates give a command entry (19 R437; log 10). -/
opaque promiseCost : (engine entry : Nat) → Nat

/-- The four weights of the energy split: per sequencer-cycle, per matrix MAC, per Stage operation, per byte moved
(01 R14; log 10). -/
opaque energyWeight : Nat → Nat

/-- Whether an image's SLH-DSA signature verifies under the fused key hash (01 R24; log 11). -/
opaque imageSigned : List Byte → Bool

/-- The 64-bit security version an image carries (01 R24; log 11). -/
opaque imageVersion : List Byte → Nat

/-- The fuse counter of the security version (01 R24; log 11). -/
opaque fuseCounter : Nat

/-- The partition and quota summary of a report, 16 bytes, from the interface's number (128 for the physical function) and
its frames of HBM4E, of LPDDR-6 and of the host window: the spec names what it holds and gives no layout (01 R29; log 11). -/
opaque interfaceSummary : (vi hbm lpddr host : Nat) → Nat

/-- The retirement summary of a report, 32 bytes, from the masked ways, fenced clusters, retired pages and retired Stage
blocks, each list by number: no layout is given (01 R29; log 11). -/
opaque retirementSummary : (ways clusters pages blocks : List Nat) → Nat

/-- The CRC-64 over bytes 0 to 247 of a flit: the spec gives no polynomial (02 R42; log 101). -/
opaque flitCrc : BitVec 1984 → BitVec 64

/-- The hash of a line address that spreads a peer's lines over its ports (02 R41; log 101). -/
opaque linkHash : Nat → Nat

/-- The SLH-DSA signature of a report's first 128 bytes, 29,792 bytes (01 R28, R29; log 11). -/
opaque signature : List Byte → List Byte

/-- A nearer bound than the model's interval arithmetic reached, for the rounding of a transcendental result: the floor
of 2^k times the value (10 R221, 14 R317; log 16). -/
opaque transcendentalFloor : (function argument k : Int) → Int

end Sys2Proof.Config
end

