-- ==== Sys2Proof/Machine/Float.lean ====
section
/-!
DEFINITION. Numbers (spec/10_numbers.md): the element types (R214 to R217), exact values, the rounding step (R221) with
stochastic bits (R222), overflow and saturation (R224), conversions (R225), block scales (R228) and the functions the
scalar, vector and matrix chapters compute before they round once.
-/
namespace Sys2Proof.Machine

/-! ## Element types -/

/-- The width in bits of a type code (R214). -/
def typeBits (t : Nat) : Nat :=
  match t with
  | 0 => 8 | 1 => 16 | 2 => 32 | 3 => 64 | 4 => 8 | 5 => 16 | 6 => 32 | 7 => 64
  | 8 => 4 | 9 => 8 | 10 => 8 | 11 => 16 | 12 => 16 | 13 => 32 | 14 => 64 | _ => 0

def isSigned (t : Nat) : Bool := t ≤ 3
def isInt (t : Nat) : Bool := t ≤ 7
def isFloat (t : Nat) : Bool := 8 ≤ t && t ≤ 14

/-- Exponent bits, mantissa bits and bias of a floating type (R216). -/
def expBits (t : Nat) : Nat := match t with | 8 => 2 | 9 => 4 | 10 => 5 | 11 => 5 | 12 => 8 | 13 => 8 | _ => 11
def manBits (t : Nat) : Nat := match t with | 8 => 1 | 9 => 3 | 10 => 2 | 11 => 10 | 12 => 7 | 13 => 23 | _ => 52
def expBias (t : Nat) : Nat := match t with | 8 => 1 | 9 => 7 | 10 => 15 | 11 => 15 | 12 => 127 | 13 => 127 | _ => 1023

/-- Whether the type has infinities (R216). -/
def hasInf (t : Nat) : Bool := 10 ≤ t

/-- The sign bit of an encoding. -/
def signBit (t : Nat) : Nat := 2 ^ (typeBits t - 1)

/-- The canonical NaN (R218); e2m1 has none and takes +0 (R224). -/
def canonicalNaN (t : Nat) : Nat :=
  match t with
  | 8 => 0 | 9 => 0x7F | 10 => 0x7E | 11 => 0x7E00 | 12 => 0x7FC0 | 13 => 0x7FC00000 | _ => 0x7FF8000000000000

/-- The magnitude encoding of the largest finite value (R216). -/
def maxFinite (t : Nat) : Nat :=
  match t with
  | 8 => 0x7 | 9 => 0x7E | 10 => 0x7B | 11 => 0x7BFF | 12 => 0x7F7F | 13 => 0x7F7FFFFF | _ => 0x7FEFFFFFFFFFFFFF

/-- The magnitude encoding of infinity. -/
def infinity (t : Nat) : Nat := (2 ^ expBits t - 1) * 2 ^ manBits t

/-! ## Flags of FFLAGS (R226) -/

def flNV : BitVec 6 := 0x01
def flDZ : BitVec 6 := 0x02
def flOF : BitVec 6 := 0x04
def flUF : BitVec 6 := 0x08
def flNX : BitVec 6 := 0x10
def flSAT : BitVec 6 := 0x20

/-! ## Exact values -/

/-- A value: a NaN (signalling or quiet), an infinity, or (−1)^neg × m × 2^e. -/
inductive Num where
  | nan (sig : Bool)
  | inf (neg : Bool)
  | fin (neg : Bool) (m : Nat) (e : Int)
  deriving DecidableEq, Repr

/-- The value of an encoding (R217, R218). An e4m3 NaN is quiet. -/
def decodeFloat (t bits : Nat) : Num :=
  let mb := manBits t
  let eb := expBits t
  let m := bits % 2 ^ mb
  let e := bits / 2 ^ mb % 2 ^ eb
  let neg := decide (bits / 2 ^ (mb + eb) % 2 = 1)
  if t = 9 ∧ e = 15 ∧ m = 7 then .nan false
  else if hasInf t ∧ e = 2 ^ eb - 1 then
    if m = 0 then .inf neg else .nan (decide (m < 2 ^ (mb - 1)))
  else if e = 0 then .fin neg m (1 - (expBias t : Int) - mb)
  else .fin neg (2 ^ mb + m) ((e : Int) - expBias t - mb)

/-- A real number to be rounded: its sign, and for a scale k the floor of its magnitude times 2^k with whether that is
exact; `top` is a bound with 2^top ≤ magnitude < 2^(top + 2). -/
structure Exact where
  neg : Bool
  top : Int
  floor : Int → Nat × Bool

/-- m × 2^e scaled by 2^k and floored. -/
def scaleNat (m : Nat) (e k : Int) : Nat × Bool :=
  let j := e + k
  if 0 ≤ j then (m * 2 ^ j.toNat, true)
  else
    let d := 2 ^ (-j).toNat
    (m / d, m % d = 0)

/-- The exact dyadic (−1)^neg × m × 2^e, m not 0. -/
def exactDyadic (neg : Bool) (m : Nat) (e : Int) : Exact :=
  { neg := neg, top := (m.log2 : Int) + e, floor := scaleNat m e }

/-- The exact quotient of magnitudes m1 × 2^e1 / (m2 × 2^e2), both not 0. -/
def exactQuot (neg : Bool) (m1 : Nat) (e1 : Int) (m2 : Nat) (e2 : Int) : Exact :=
  { neg := neg, top := (m1.log2 : Int) - m2.log2 - 1 + e1 - e2
    floor := fun k =>
      let j := e1 - e2 + k
      let n := if 0 ≤ j then m1 * 2 ^ j.toNat else m1
      let d := if 0 ≤ j then m2 else m2 * 2 ^ (-j).toNat
      (n / d, n % d = 0) }

/-- The integer square root. -/
def isqrt (n : Nat) : Nat := Nat.sqrt n

/-- The exact square root of m1 × 2^e1 / (m2 × 2^e2), both not 0. -/
def exactSqrt (m1 : Nat) (e1 : Int) (m2 : Nat) (e2 : Int) : Exact :=
  let l := (m1.log2 : Int) - m2.log2 - 1 + e1 - e2
  { neg := false, top := l.ediv 2
    floor := fun k =>
      let j := e1 - e2 + 2 * k
      let n := if 0 ≤ j then m1 * 2 ^ j.toNat else m1
      let d := if 0 ≤ j then m2 else m2 * 2 ^ (-j).toNat
      let r := isqrt (n / d)
      (r, r * r * d = n) }

/-! ## Rounding (R221, R224) -/

/-- How a rounding step rounds: the mode 0 to 4 of FCTL.RM, whether a conversion saturates, and the stochastic bits. -/
structure RoundCtl where
  rm : Nat
  sat : Bool := false
  conv : Bool := false
  stoch : Nat := 0
  deriving DecidableEq, Repr

/-- The encoding of n × 2^q with n < 2^(mb + 2) on the grid of the type. -/
def encodeMag (t n : Nat) (q : Int) : Nat :=
  if n = 0 then 0
  else
    let mb := manBits t
    let e := (n.log2 : Int) + q
    let emin := 1 - (expBias t : Int)
    if e < emin then (scaleNat n q ((mb : Int) - emin)).1
    else
      let f := (scaleNat n q ((mb : Int) - e)).1
      (e + expBias t).toNat * 2 ^ mb + (f - 2 ^ mb)

/-- Whether n × 2^q lies above the largest finite value. -/
def aboveMax (t n : Nat) (q : Int) : Bool :=
  match decodeFloat t (maxFinite t) with
  | .fin _ m e =>
    let k := min q e
    decide (m * 2 ^ (e - k).toNat < n * 2 ^ (q - k).toNat)
  | _ => false

/-- A finite value that rounds beyond the largest finite one (R224). -/
def overflow (t : Nat) (c : RoundCtl) (neg : Bool) : Nat × BitVec 6 :=
  let sgn := if neg then signBit t else 0
  let toward := decide (c.rm = 1) || (decide (c.rm = 2) && !neg) || (decide (c.rm = 3) && neg)
  if c.conv && c.sat then (sgn + maxFinite t, flSAT ||| flNX)
  else if t = 8 then (sgn + maxFinite t, flOF ||| flNX)
  else if t = 9 then (if toward then sgn + maxFinite t else canonicalNaN t, flOF ||| flNX)
  else if toward then (sgn + maxFinite t, flOF ||| flNX)
  else (sgn + infinity t, flOF ||| flNX)

/-- The choice between the two neighbours of a magnitude: whether to take the larger, from the integer part `l`, whether
the value is exact, and the magnitude floored at one and at 32 further bits (R221). -/
def roundsUp (c : RoundCtl) (neg : Bool) (l half sr : Nat) (halfExact srExact : Bool) : Bool :=
  match c.rm with
  | 0 => if half % 2 = 0 then false else if halfExact then decide (l % 2 = 1) else true
  | 1 => false
  | 2 => neg
  | 3 => !neg
  | _ =>
    let fr := sr - l * 2 ^ 32
    if neg then
      -- lo is the larger magnitude: (x − lo) / (hi − lo) is 1 minus the fraction
      let p := 2 ^ 32 - (if srExact then fr else fr + 1)
      !decide (c.stoch < p)
    else decide (c.stoch < fr)

/-- The rounding step of R221 for a value that is not zero. -/
def roundExact (t : Nat) (c : RoundCtl) (x : Exact) : Nat × BitVec 6 :=
  let mb : Int := manBits t
  let emin := 1 - (expBias t : Int)
  let e := if 2 ≤ (x.floor (-x.top)).1 then x.top + 1 else x.top
  let q := (if e < emin then emin else e) - mb
  let fl := x.floor (-q)
  let sgn := if x.neg then signBit t else 0
  if fl.2 then
    if aboveMax t fl.1 q then overflow t c x.neg else (sgn + encodeMag t fl.1 q, 0)
  else
    let h := x.floor (1 - q)
    let r := x.floor (32 - q)
    let n := if roundsUp c x.neg fl.1 h.1 r.1 h.2 r.2 then fl.1 + 1 else fl.1
    if aboveMax t n q then overflow t c x.neg
    else (sgn + encodeMag t n q, if e < emin then flNX ||| flUF else flNX)

/-- The encoding of a signed zero. -/
def zeroOf (t : Nat) (neg : Bool) : Nat := if neg then signBit t else 0

/-- The encoding of an infinity that an operation gives, in a type without infinities as R224 gives for an input. -/
def infOf (t : Nat) (c : RoundCtl) (neg : Bool) : Nat × BitVec 6 :=
  let sgn := if neg then signBit t else 0
  if c.conv && c.sat then (sgn + maxFinite t, flSAT)
  else if t = 8 then (sgn + maxFinite t, flNV)
  else if t = 9 then (canonicalNaN t, flNV)
  else (sgn + infinity t, 0)

/-- The result NaN of an operation; in e2m1 a NaN gives +0 and sets invalid (R224). -/
def nanOf (t : Nat) (fl : BitVec 6) : Nat × BitVec 6 := (canonicalNaN t, if t = 8 then fl ||| flNV else fl)

/-- A value rounded into a type: the step that every conversion and operation ends with. -/
def roundNum (t : Nat) (c : RoundCtl) : Num → Nat × BitVec 6
  | .nan sig => nanOf t (if sig then flNV else 0)
  | .inf neg => infOf t c neg
  | .fin neg m e => if m = 0 then (zeroOf t neg, 0) else roundExact t c (exactDyadic neg m e)

/-! ## Operations before rounding -/

/-- The sum of two finite values, exact; an exact zero of opposite signs is +0, and −0 under RDN (R221). -/
def addFin (rm : Nat) (n1 : Bool) (m1 : Nat) (e1 : Int) (n2 : Bool) (m2 : Nat) (e2 : Int) : Num :=
  let e := min e1 e2
  let a : Int := (if n1 then -1 else 1) * (m1 * 2 ^ (e1 - e).toNat : Nat)
  let b : Int := (if n2 then -1 else 1) * (m2 * 2 ^ (e2 - e).toNat : Nat)
  let s := a + b
  if s = 0 then
    if n1 = n2 ∧ m1 = 0 ∧ m2 = 0 then .fin n1 0 0 else .fin (decide (rm = 2)) 0 0
  else .fin (decide (s < 0)) s.natAbs e

/-- The exact sum; `inv` reports an invalid operation (R218, R221). -/
def addNum (rm : Nat) : Num → Num → Num × Bool
  | .nan a, .nan b => (.nan false, a || b)
  | .nan a, _ => (.nan false, a)
  | _, .nan b => (.nan false, b)
  | .inf a, .inf b => if a = b then (.inf a, false) else (.nan false, true)
  | .inf a, _ => (.inf a, false)
  | _, .inf b => (.inf b, false)
  | .fin n1 m1 e1, .fin n2 m2 e2 => (addFin rm n1 m1 e1 n2 m2 e2, false)

/-- The exact product. -/
def mulNum : Num → Num → Num × Bool
  | .nan a, .nan b => (.nan false, a || b)
  | .nan a, _ => (.nan false, a)
  | _, .nan b => (.nan false, b)
  | .inf a, .inf b => (.inf (a != b), false)
  | .inf a, .fin n m _ => if m = 0 then (.nan false, true) else (.inf (a != n), false)
  | .fin n m _, .inf b => if m = 0 then (.nan false, true) else (.inf (n != b), false)
  | .fin n1 m1 e1, .fin n2 m2 e2 => (.fin (n1 != n2) (m1 * m2) (e1 + e2), false)

def negNum : Num → Num
  | .nan s => .nan s
  | .inf n => .inf (!n)
  | .fin n m e => .fin (!n) m e

def absNum : Num → Num
  | .nan s => .nan s
  | .inf _ => .inf false
  | .fin _ m e => .fin false m e

/-- The invalid flag when it is due. -/
def nvIf (b : Bool) : BitVec 6 := if b then flNV else 0

/-- A value rounded with the flags of the operation that made it. -/
def finishNum (t : Nat) (c : RoundCtl) (r : Num × Bool) : Nat × BitVec 6 :=
  let q := roundNum t c r.1
  (q.1, q.2 ||| nvIf r.2)

def fAdd (t : Nat) (c : RoundCtl) (a b : Nat) : Nat × BitVec 6 :=
  finishNum t c (addNum c.rm (decodeFloat t a) (decodeFloat t b))

def fSub (t : Nat) (c : RoundCtl) (a b : Nat) : Nat × BitVec 6 :=
  finishNum t c (addNum c.rm (decodeFloat t a) (negNum (decodeFloat t b)))

def fMul (t : Nat) (c : RoundCtl) (a b : Nat) : Nat × BitVec 6 :=
  finishNum t c (mulNum (decodeFloat t a) (decodeFloat t b))

/-- The quotient rounded once; a finite nonzero value by zero gives an infinity and divide-by-zero (14 R317). -/
def divNum (t : Nat) (c : RoundCtl) (x y : Num) : Nat × BitVec 6 :=
  match x, y with
  | .nan a, .nan b => nanOf t (nvIf (a || b))
  | .nan a, _ => nanOf t (nvIf a)
  | _, .nan b => nanOf t (nvIf b)
  | .inf _, .inf _ => nanOf t flNV
  | .inf a, .fin n _ _ => infOf t c (a != n)
  | .fin n _ _, .inf b => (zeroOf t (n != b), 0)
  | .fin n1 m1 e1, .fin n2 m2 e2 =>
    if m2 = 0 then
      if m1 = 0 then nanOf t flNV
      else
        let r := infOf t c (n1 != n2)
        (r.1, r.2 ||| flDZ)
    else if m1 = 0 then (zeroOf t (n1 != n2), 0)
    else roundExact t c (exactQuot (n1 != n2) m1 e1 m2 e2)

def fDiv (t : Nat) (c : RoundCtl) (a b : Nat) : Nat × BitVec 6 := divNum t c (decodeFloat t a) (decodeFloat t b)

/-- The square root; √(−0) is −0 and a negative operand is invalid (14 R317). -/
def fSqrt (t : Nat) (c : RoundCtl) (a : Nat) : Nat × BitVec 6 :=
  match decodeFloat t a with
  | .nan s => nanOf t (nvIf s)
  | .inf neg => if neg then nanOf t flNV else infOf t c false
  | .fin neg m e =>
    if m = 0 then (zeroOf t neg, 0)
    else if neg then nanOf t flNV
    else roundExact t c (exactSqrt m e 1 0)

/-- 1 / x (15 R342): ±0 gives an infinity of its sign and divide-by-zero. -/
def fRcp (t : Nat) (c : RoundCtl) (a : Nat) : Nat × BitVec 6 := divNum t c (.fin false 1 0) (decodeFloat t a)

/-- 1 / √x (15 R342). -/
def fRsq (t : Nat) (c : RoundCtl) (a : Nat) : Nat × BitVec 6 :=
  match decodeFloat t a with
  | .nan s => nanOf t (nvIf s)
  | .inf neg => if neg then nanOf t flNV else (zeroOf t false, 0)
  | .fin neg m e =>
    if m = 0 then
      let r := infOf t c neg
      (r.1, r.2 ||| flDZ)
    else if neg then nanOf t flNV
    else roundExact t c (exactSqrt 1 0 m e)

/-- a × b + c, rounded once (R237); ∞ × 0 is invalid whatever c is (14 R318). -/
def fFma (t : Nat) (c : RoundCtl) (negate : Bool) (x y z : Nat) : Nat × BitVec 6 :=
  let a := decodeFloat t x
  let b := decodeFloat t y
  let d := decodeFloat t z
  let p := mulNum a b
  let p1 := if negate then negNum p.1 else p.1
  let zsig := match d with | .nan s => s | _ => false
  match p1 with
  | .nan _ => nanOf t (nvIf (p.2 || zsig))
  | _ =>
    let s := addNum c.rm p1 d
    finishNum t c (s.1, s.2)

/-- Whether x < y, for values that are not NaN; −0 equals +0. -/
def numLt : Num → Num → Bool
  | .inf a, .inf b => a && !b
  | .inf a, _ => a
  | _, .inf b => !b
  | .fin n1 m1 e1, .fin n2 m2 e2 =>
    let e := min e1 e2
    let a : Int := (if n1 then -1 else 1) * (m1 * 2 ^ (e1 - e).toNat : Nat)
    let b : Int := (if n2 then -1 else 1) * (m2 * 2 ^ (e2 - e).toNat : Nat)
    decide (a < b)
  | _, _ => false

def isNaN : Num → Bool
  | .nan _ => true
  | _ => false

def isSig : Num → Bool
  | .nan s => s
  | _ => false

def isNeg : Num → Bool
  | .inf n => n
  | .fin n _ _ => n
  | _ => false

/-- FMIN and FMAX (14 R317): −0 counts below +0; variant 0 returns the operand that is not a NaN. -/
def fMinMax (t : Nat) (wantMax nanVariant : Bool) (a b : Nat) : Nat × BitVec 6 :=
  let x := decodeFloat t a
  let y := decodeFloat t b
  let fl := nvIf (isSig x || isSig y)
  if isNaN x && isNaN y then (canonicalNaN t, fl)
  else if isNaN x then (if nanVariant then canonicalNaN t else b, fl)
  else if isNaN y then (if nanVariant then canonicalNaN t else a, fl)
  else
    let lt := numLt x y || (!numLt y x && isNeg x && !isNeg y)
    (if lt != wantMax then a else b, fl)

/-- FCMP (14 R317): 0 .EQ, 1 .LT, 2 .LE, 3 .UN. -/
def fCompare (t cc a b : Nat) : Bool × BitVec 6 :=
  let x := decodeFloat t a
  let y := decodeFloat t b
  let un := isNaN x || isNaN y
  let sig := isSig x || isSig y
  match cc with
  | 0 => (!un && !numLt x y && !numLt y x, nvIf sig)
  | 1 => (!un && numLt x y, nvIf un)
  | 2 => (!un && !numLt y x, nvIf un)
  | _ => (un, nvIf sig)

/-- FCLASS's one-hot class (14 R317). -/
def fClass (t a : Nat) : Nat :=
  match decodeFloat t a with
  | .nan s => if s then 2 ^ 8 else 2 ^ 9
  | .inf n => if n then 1 else 2 ^ 7
  | .fin n m _ =>
    if m = 0 then (if n then 2 ^ 3 else 2 ^ 4)
    else if a / 2 ^ manBits t % 2 ^ expBits t = 0 then (if n then 2 ^ 2 else 2 ^ 5)
    else (if n then 2 else 2 ^ 6)

/-! ## Integers -/

/-- The value of `n` low bits read as the type says (R215). -/
def intVal (t bits : Nat) : Int :=
  let n := typeBits t
  let b := bits % 2 ^ n
  if isSigned t && decide (2 ^ (n - 1) ≤ b) then (b : Int) - (2 ^ n : Nat) else b

def intMin (t : Nat) : Int := if isSigned t then -((2 ^ (typeBits t - 1) : Nat) : Int) else 0
def intMax (t : Nat) : Int :=
  if isSigned t then ((2 ^ (typeBits t - 1) : Nat) : Int) - 1 else ((2 ^ typeBits t : Nat) : Int) - 1

/-- The low bits of an integer. -/
def intBits (t : Nat) (v : Int) : Nat := (v % ((2 ^ typeBits t : Nat) : Int)).toNat

/-- The nearest value of the type's range. -/
def intClamp (t : Nat) (v : Int) : Int := if v < intMin t then intMin t else if intMax t < v then intMax t else v

/-- A wrapping or saturating integer result with its SAT flag (14 R310). -/
def intResult (t : Nat) (sat : Bool) (v : Int) : Nat × BitVec 6 :=
  if sat then
    let c := intClamp t v
    (intBits t c, if c = v then 0 else flSAT)
  else (intBits t v, 0)

/-- Integer division truncating toward zero, with the corners of 14 R311. -/
def intDiv (t a b : Nat) : Nat × BitVec 6 :=
  let y := intVal t b
  if y = 0 then (2 ^ typeBits t - 1, flDZ) else (intBits t ((intVal t a).tdiv y), 0)

def intRem (t a b : Nat) : Nat × BitVec 6 :=
  let y := intVal t b
  if y = 0 then (intBits t (intVal t a), flDZ) else (intBits t ((intVal t a).tmod y), 0)

/-! ## Conversions (R223 to R225) -/

/-- Whether a conversion from u into t goes to fewer bits or fewer exponent bits (R223). -/
def narrows (t u : Nat) : Bool := decide (typeBits t < typeBits u) || decide (expBits t < expBits u)

/-- Float to float. -/
def cvtFloat (t u : Nat) (c : RoundCtl) (a : Nat) : Nat × BitVec 6 :=
  roundNum t { c with conv := narrows t u } (decodeFloat u a)

/-- An exact value rounded to an integer: the integer and whether it was inexact. -/
def roundInt (c : RoundCtl) (neg : Bool) (m : Nat) (e : Int) : Int × Bool :=
  let l := scaleNat m e 0
  let h := scaleNat m e 1
  let r := scaleNat m e 32
  let n := if l.2 then l.1 else if roundsUp c neg l.1 h.1 r.1 h.2 r.2 then l.1 + 1 else l.1
  (if neg then -(n : Int) else n, !l.2)

/-- A value to an integer type: NaN gives 0 and invalid; out of range gives the nearest limit (R225). -/
def numToInt (t : Nat) (c : RoundCtl) : Num → Nat × BitVec 6
  | .nan _ => (0, flNV)
  | .inf neg => (intBits t (if neg then intMin t else intMax t), if c.sat then flSAT else flNV)
  | .fin neg m e =>
    let r := roundInt c neg m e
    if intMin t ≤ r.1 ∧ r.1 ≤ intMax t then (intBits t r.1, if r.2 then flNX else 0)
    else (intBits t (intClamp t r.1), if c.sat then flSAT else flNV)

def cvtFloatInt (t u : Nat) (c : RoundCtl) (a : Nat) : Nat × BitVec 6 := numToInt t c (decodeFloat u a)

/-- Integer to float; SAT applies to a value outside the target range, narrowing or not (R223, R225). -/
def cvtIntFloat (t u : Nat) (c : RoundCtl) (a : Nat) : Nat × BitVec 6 :=
  let v := intVal u a
  roundNum t { c with conv := true } (.fin (decide (v < 0)) v.natAbs 0)

/-- Integer to integer (R225). -/
def cvtInt (t u : Nat) (sat : Bool) (a : Nat) : Nat × BitVec 6 :=
  let v := intVal u a
  if intMin t ≤ v ∧ v ≤ intMax t then (intBits t v, 0)
  else if sat then (intBits t (intClamp t v), flSAT) else (intBits t v, 0)

/-- A value of type u converted to type t, whatever the two are. -/
def convert (t u : Nat) (c : RoundCtl) (a : Nat) : Nat × BitVec 6 :=
  if t = u then (a % 2 ^ typeBits t, 0)
  else if isFloat t then (if isFloat u then cvtFloat t u c a else cvtIntFloat t u c a)
  else if isFloat u then cvtFloatInt t u c a
  else cvtInt t u c.sat a

/-! ## Block scales (R228) -/

/-- The value of a 12-bit E4M8 scale. -/
def scaleNum (s : Nat) : Num :=
  let e := s / 256 % 16
  let m := s % 256
  if e = 0 then .fin false m (-14) else .fin false (256 + m) ((e : Int) - 15)

/-- The smallest E4M8 scale at or above m × 2^e / (mx × 2^ex), 0xFFF above the largest (R232). -/
def scaleFor (m : Nat) (e : Int) (mx : Nat) (ex : Int) : Nat :=
  if m = 0 then 0
  else
    let x := exactQuot false m e mx ex
    let top := if 2 ≤ (x.floor (-x.top)).1 then x.top + 1 else x.top
    let q := (if top < -6 then -6 else top) - 8
    let f := x.floor (-q)
    let n := if f.2 then f.1 else f.1 + 1
    -- n × 2^q on the grid of the binade; n = 512 is the next binade
    let code := if n < 256 then n else
      let q' := if n = 512 then q + 1 else q
      let n' := if n = 512 then 256 else n
      ((q' + 15).toNat) * 256 + (n' - 256)
    if code > 0xFFF then 0xFFF else code

/-! ## Transcendental functions -/

/-- Σ 1 / (n 2^n) to `p` bits: ln 2 scaled by 2^p, low by less than p + 2. -/
def ln2Fixed (p : Nat) : Nat → Nat
  | 0 => 0
  | n + 1 => ln2Fixed p n + 2 ^ p / ((n + 1) * 2 ^ (n + 1))

/-- Σ z^n / n! with z scaled by 2^p. -/
def expSeries (p z : Nat) : (n i t : Nat) → Nat
  | 0, _, _ => 0
  | n + 1, i, t => t + expSeries p z n (i + 1) (t * z / 2 ^ p / (i + 1))

/-- Σ w^(2n+1) / (2n+1) with w scaled by 2^p, `w2` its square. -/
def atanhSeries (p w2 : Nat) : (n i t : Nat) → Nat
  | 0, _, _ => 0
  | n + 1, i, t => t / (2 * i + 1) + atanhSeries p w2 n (i + 1) (t * w2 / 2 ^ p)

/-- The common floor of two bounds scaled by 2^g, if they agree. -/
def agree (lo hi : Int) (g : Nat) : Option Nat :=
  let a := lo / 2 ^ g
  let b := hi / 2 ^ g
  if a = b ∧ 0 ≤ a then some a.toNat else none

/-- The floor of 2^k × f, trying wider arithmetic a few times: the widest separates 2^x from 1 and tanh x from x at the smallest
subnormal. Config's nearer bound after that (log 16). -/
def floorBy (fn : Int) (arg : Int) (bounds : Nat → Option Nat) (k : Int) : Nat × Bool :=
  match (bounds 64 <|> bounds 256 <|> bounds 1024 <|> bounds 4096) with
  | some v => (v, false)
  | none => ((Config.transcendentalFloor fn arg k).toNat, false)

/-- 2^f for 0 < f = fm / 2^fe < 1, scaled by 2^j. -/
def exp2Floor (arg : Int) (fm fe : Nat) (j k : Int) : Nat × Bool :=
  if j < 0 then (if j = -1 then (0, false) else (0, false))
  else floorBy 0 arg (fun g =>
    let p := j.toNat + g
    let l := ln2Fixed p p
    let z := fm * l / 2 ^ fe
    let s := expSeries p z p 0 (2 ^ p)
    let d : Int := 2 ^ (g / 2)
    agree ((s : Int) - d) (s + d) g) k

/-- FEXP2 (14 R317): 2^x, correctly rounded. -/
def fExp2 (t : Nat) (c : RoundCtl) (a : Nat) : Nat × BitVec 6 :=
  match decodeFloat t a with
  | .nan s => nanOf t (nvIf s)
  | .inf neg => if neg then (zeroOf t false, 0) else infOf t c false
  | .fin neg m e =>
    if m = 0 then roundNum t c (.fin false 1 0)
    else if 13 < (m.log2 : Int) + e then
      -- beyond every type's range: far above the largest or below the smallest value
      roundExact t c (if neg then
        { neg := false, top := -16384, floor := fun k => (if k ≤ 16384 then 0 else 2 ^ (k - 16384).toNat, false) }
        else exactDyadic false 3 16383)
    else if 0 ≤ e then
      let i : Int := (m * 2 ^ e.toNat : Nat)
      roundNum t c (.fin false 1 (if neg then -i else i))
    else
      let fe := (-e).toNat
      let v : Int := if neg then -(m : Int) else m
      let i := v / (2 ^ fe : Nat)
      let fm := (v - i * (2 ^ fe : Nat)).toNat
      if fm = 0 then roundNum t c (.fin false 1 i)
      else roundExact t c { neg := false, top := i, floor := fun k => exp2Floor (a : Int) fm fe (k + i) k }

/-- The magnitude of log2 of y = m / 2^l in (1, 2) plus the integer i, scaled by 2^k. -/
def log2Floor (arg : Int) (m l : Nat) (i k : Int) : Nat × Bool :=
  floorBy 1 arg (fun g =>
    let p := k.toNat + g
    let one := 2 ^ p
    let y := m * one / 2 ^ l
    let w := (y - one) * one / (y + one)
    let ln := 2 * atanhSeries p (w * w / one) p 0 w
    let l2 := ln2Fixed p p
    let d := 2 ^ (g / 2)
    let lo : Int := (i * one + ((ln - d) * one / (l2 + d) : Nat))
    let hi : Int := (i * one + ((ln + d) * one / (l2 - d) + 1 : Nat))
    let sh := ((p : Int) - k).toNat
    if 0 ≤ i then agree lo hi sh else agree (-hi) (-lo) sh) k

/-- FLOG2 (14 R317): log2 x, correctly rounded. -/
def fLog2 (t : Nat) (c : RoundCtl) (a : Nat) : Nat × BitVec 6 :=
  match decodeFloat t a with
  | .nan s => nanOf t (nvIf s)
  | .inf neg => if neg then nanOf t flNV else infOf t c false
  | .fin neg m e =>
    if m = 0 then
      let r := infOf t c true
      (r.1, r.2 ||| flDZ)
    else if neg then nanOf t flNV
    else
      let l := m.log2
      let i := (l : Int) + e
      if m = 2 ^ l then roundNum t c (.fin (decide (i < 0)) i.natAbs 0)
      else
        -- the magnitude lies strictly between |i| and |i| + 1, on the side of the sign of i
        let neg' := decide (i < 0)
        let x : Exact := { neg := neg', top := 0, floor := fun k => log2Floor (a : Int) m l i k }
        let top : Int :=
          if 1 ≤ i then (i.toNat.log2 : Int)
          else if i < -1 then ((i.natAbs - 1).log2 : Int)
          else
            -- log2 of a value near 1: find its binade from a wide floor
            ((x.floor 80).1.log2 : Int) - 80
        roundExact t c { x with top := top }

/-- The floor of 2^k × tanh x, x = m × 2^e > 0 below 64. -/
def tanhFloor (arg : Int) (m : Nat) (e k : Int) : Nat × Bool :=
  floorBy 2 arg (fun g =>
    let p := (max k 0).toNat + g + 320
    let one := 2 ^ p
    let z := (scaleNat m (e + 1) p).1
    let s := expSeries p z (p + 600) 0 one
    let d := 2 ^ 240
    let lo := (s - d - one) * one / (s - d + one)
    let hi := (s + d + one - 2 * one) * one / (s + d + one) + 1
    let sh := p - k.toNat
    if k < 0 then agree (lo / 2 ^ (-k).toNat : Nat) (hi / 2 ^ (-k).toNat : Nat) p
    else agree (lo : Int) (hi : Int) sh) k

/-- tanh, correctly rounded (15 R342, 17 R390). -/
def tanhNum (t : Nat) (c : RoundCtl) (arg : Int) : Num → Nat × BitVec 6
  | .nan s => nanOf t (nvIf s)
  | .inf neg => roundNum t c (.fin neg 1 0)
  | .fin neg m e =>
    if m = 0 then (zeroOf t neg, 0)
    else if 6 ≤ (m.log2 : Int) + e then
      -- 1 − tanh x is below 2^−180
      roundExact t c { neg := neg, top := -1, floor := fun k => (if k ≤ 0 then 0 else 2 ^ k.toNat - 1, false) }
    else
      let top := (m.log2 : Int) + e
      let x : Exact := { neg := neg, top := if 0 ≤ top then -1 else top - 1, floor := fun k => tanhFloor arg m e k }
      roundExact t c x

def fTanh (t : Nat) (c : RoundCtl) (a : Nat) : Nat × BitVec 6 := tanhNum t c a (decodeFloat t a)

end Sys2Proof.Machine
end

