-- ==== Sys2Proof/Machine/State.lean ====
section
/-!
DEFINITION. The state of the DM-RK8 as plain data: the sequencers (spec/11_execution_state.md R238 to R245), coherent
memory with its homes and copies (spec/07_coherence.md, spec/08_compression.md), Stage memory (spec/06_clusters.md), the
translation caches (spec/04_address_spaces.md), the virtual interfaces and the physical function's registers
(spec/03_host_interface.md, spec/01_package.md, spec/02_links.md), scheduling (spec/05_scheduling.md) and the engines
(spec/19_engines_system.md); the state right after module reset; and the reasons a step can stop.
-/
namespace Sys2Proof.Machine

/-- Why the machine stops. -/
inductive Fault where
  /-- Raised by `step` after THERMAL_SHUTDOWN: the module has powered off at 110 °C (01 R17) and nothing but a module reset
  runs. Safe. -/
  | poweredOff
  deriving DecidableEq, Repr

/-- Why the model refuses. -/
inductive Refusal where
  /-- Raised by `exec` for an instruction with no meaning yet, by name. Safe. -/
  | notModelled (mnemonic : String)
  deriving DecidableEq, Repr

/-- A map from numbers, sorted by key; a key that is not listed has the default its reader names. -/
abbrev AMap (α : Type) := List (Nat × α)

/-- Bytes by address in canonical form: addresses rising, and no entry equal to what an unlisted address reads as. -/
abbrev Memory := List Host.Cell

/-! ## Sequencers -/

/-- An entry of the loop stack in use (14 R322): START, LEN (body words minus 1), COUNT and INDEX. -/
structure LoopEntry where
  start : DWord
  len : Nat
  count : Nat
  index : Nat
  deriving DecidableEq, Repr

/-- The full bits of the g, v, p and a registers (11 R239). -/
structure FullBits where
  g : BitVec 32 := BitVec.allOnes 32
  v : BitVec 32 := BitVec.allOnes 32
  p : BitVec 8 := BitVec.allOnes 8
  a : BitVec 8 := BitVec.allOnes 8
  deriving DecidableEq, Repr

/-- The control registers the strip checkpoint restores (11 R244, marked C). MAXVL follows from NVLOG and SEW (R242). -/
structure CRegs where
  vl : Nat := 0
  sew : Nat := 2
  nvlog : Nat := 0
  vstart : Nat := 0
  vmask : BitVec 4 := 0
  vstride : DWord := 0
  fctl : BitVec 5 := 0
  fflags : BitVec 6 := 0
  mfmt : BitVec 7 := 0
  splane : DWord := 0
  seed : DWord := 0
  lease : Nat := 16
  slim : DWord := 0
  pairwait : DWord := 65536
  deriving DecidableEq, Repr

/-- The other control registers of a sequencer (11 R244, R245), with the STAGE bytes of its slate (06 R140). -/
structure NRegs where
  fmask : Bits := 0
  strips : DWord := 0
  stgbase : Nat := 0
  stage : Nat := 0
  lcnt : DWord := 0
  lidx : List DWord := List.replicate 8 0
  promise : DWord := 0
  sreplay : DWord := 0
  sfault : Nat := 0
  tvec : DWord := 0
  epc : DWord := 0
  cause : DWord := 0
  tval : DWord := 0
  estep : Bool := false
  rbk : Bool := false
  priv : Bool := false
  intrap : Bool := false
  escr0 : DWord := 0
  escr1 : DWord := 0
  claim : BitVec 8 := 0
  deriving DecidableEq, Repr

/-- What an operand latch holds (17 R378): LV, LTYPE, LK, LM and the rows of 512 B. -/
structure Latch where
  lv : Bool := false
  ltype : Nat := 0
  lk : Nat := 0
  lm : Nat := 0
  rows : List Bits := []
  deriving DecidableEq, Repr

/-- The operand latch or the pair latch of a cluster (06 R126): what it holds, the sequencer that filled it (none: not filled
since module reset) and the interface it was filled for (06 R138). -/
structure LatchUnit where
  latch : Latch := {}
  holder : Option Agent := none
  vi : Nat := 128
  deriving DecidableEq, Repr

/-- A place a store can name: a physical line, or line `i` of the page whose matte record lies in line `rec` (04 R87). -/
inductive Loc where
  | line (l : Nat)
  | matte (rec i plate : Nat)
  deriving DecidableEq, Repr

/-- Bytes a strip or a phase buffers for one place, with the leaf entry the stores went through (06 R132, 07 R173), their
page, the lowest element among them and how many elements they were (25 R474). -/
structure BufEntry where
  loc : Loc
  bytes : Line
  mask : LineMask
  leaf : Nat
  page : Nat
  first : Nat
  count : Nat
  deriving DecidableEq, Repr

/-- A line read by the open strip: the write time observed and the rebase count then (07 R163, R167). -/
structure ReadEntry where
  wts : Nat
  epoch : Nat
  deriving DecidableEq, Repr

/-- An arrival .RLX held to the commit (09 R205): a Stage offset of the die or a place with its byte offset, and the
destination register. -/
structure RlxArrive where
  stage : Bool
  addr : Nat
  loc : Loc
  leaf : Nat
  page : Nat
  dest : Nat
  deriving DecidableEq, Repr

/-- The strip checkpoint (11 R249). -/
structure Ckpt where
  pc : DWord
  g : Vector DWord 32
  gfull : BitVec 32
  p : Vector Bits 8
  pfull : BitVec 8
  loops : List LoopEntry
  c : CRegs
  deriving DecidableEq, Repr

/-- An open strip: its checkpoint, buffered coherent, phase and Stage stores (11 R250, 06 R143), read log, held
arrivals, whether the run takes ownership of what it reads (07 R164), and the VL it was granted. -/
structure Strip where
  ckpt : Ckpt
  buf : List BufEntry := []
  phbuf : List BufEntry := []
  sst : List (Nat × Byte) := []
  reads : AMap ReadEntry := []
  rlx : List RlxArrive := []
  ownMode : Bool := false
  granted : Nat := 0
  deriving DecidableEq, Repr

/-- A commit in progress (07 R163): the slots of its matte walks (a place, its slot and whether it was popped), its Tc once
fixed, the validations still out, whether one has failed, and whether the stores have performed. -/
structure Commit where
  slots : List (Loc × Nat × Bool) := []
  tc : Option Nat := none
  pending : List Nat := []
  failed : Bool := false
  stored : Bool := false
  deriving DecidableEq, Repr

/-- A translation: the 4 KiB frame of the access, the leaf's size code and the place of its entry, and the leaf's fields
(04 R71, R72). -/
structure Leaf where
  entry : Nat
  level : Nat
  base : Nat
  w0 : DWord
  w1 : DWord
  deriving DecidableEq, Repr

/-- A cached translation, tagged with interface and context (04 R93): the page's number and size in bytes as a power
of two. -/
structure TlbEntry where
  vi : Nat
  cid : Nat
  vpage : Nat
  log : Nat
  leaf : Leaf
  deriving DecidableEq, Repr

/-- The work a call entry binds (05 R113, R114): the slate's slot, interface, context, queue and number, the flattened outer
index, the range of innermost indices, and the save slot it uses. -/
structure Binding where
  slot : Nat
  vi : Nat
  cid : Nat
  q : Nat
  number : Nat
  outer : Nat
  first : Nat
  count : Nat
  saveSlot : Nat
  deriving DecidableEq, Repr

/-- A parked wait (18 R406 to R411): the lines and Stage bank words it watches, its deadline, and whether and since when
it rereads every 1,024 cycles. -/
structure Park where
  lines : List Nat
  poll : Bool := false
  since : Nat := 0
  deadline : Option Nat := none
  deriving DecidableEq, Repr

/-- What a sequencer waits for. An instruction that waits is executed again when the wait ends. -/
inductive Wait where
  | run
  /-- A line its slice asked the home for, or an owner's answer a home waits for. -/
  | line
  /-- Its commit (07 R163). -/
  | commit
  /-- A Stage operation's answer (09 R204). -/
  | stage
  /-- A register to fill (11 R240). -/
  | full
  /-- Room in the fault ring, or an enabled interface (03 R66, R477). -/
  | posting
  /-- The answer to a fault batch (03 R67). -/
  | batch (tag : Nat)
  /-- Parked on memory (18 R407). -/
  | park (p : Park)
  | sleep (until_ : Nat)
  | sleepto (eng n until_ : Nat)
  | pause (until_ : Nat)
  /-- An engine chain: ECMD when full, ECFENCE, ECABORT; `none` for all engines. -/
  | chain (eng : Option Nat)
  /-- An ENDPH's replies (07 R174). -/
  | publish
  /-- A peer's answer, the host's global observation, a persistence flush, host data (02 R48, R49; 09 R213). -/
  | peer
  | host
  | persist
  /-- A matrix instruction's next chunk, or a partner (17 R383, R386). -/
  | matrix
  | pair (since : Nat)
  /-- A TLBINV or a bias flip to complete (04 R96, 02 R37). -/
  | inv
  | flip (frame : Nat)
  /-- The fetch of the queue's last host-appended slate (05 R118). -/
  | append
  deriving DecidableEq, Repr

/-- A value on its way to a register (11 R239). -/
structure Arrival where
  reg : RegRef
  value : Nat
  deriving DecidableEq, Repr

/-- What a waiting instruction has done so far, kept until it retires: a value that has come back, a time, values by
address, steps taken, whether a persistence flush has been asked for, the address (plus 1) last asked of a peer or of the
host, the cause a peer refused with, and for a wait on memory the lines it is parked on and the wakes since. -/
structure Note where
  value : Option DWord := none
  time : Nat := 0
  lines : AMap Nat := []
  step : Nat := 0
  flushed : Bool := false
  asked : Nat := 0
  cause : Nat := 0
  parked : List Nat := []
  woke : List (Nat × Nat) := []
  deriving DecidableEq, Repr

/-- A MOP that has begun or waits for its partner (17 R381): the form (0 MOP, 1 MOP.SP, 2 MOP.PAIR), tile, type, geometry,
BAND, both descriptors, the band scales once they have been read, and the latest bank clock that its reads have returned (09
R204). -/
structure Mop where
  form : Nat
  d : Nat
  t : Nat
  geo : Nat
  band : Bool
  ga : DWord
  gb : DWord
  bands : Option Nat := none
  bt : Nat := 0
  deriving DecidableEq, Repr

/-- The pair status and STEPS of the last MOP.PAIR (17 R389). -/
structure PairStat where
  pst : Nat := 0
  steps : Nat := 0
  deriving DecidableEq, Repr

/-- A posted store to a peer that has no completion yet (02 R47): where it goes, its bytes, the page it was made through, the
interface and context that sent it, and for an engine's the units of its command before it (19 R426). -/
structure PeerStore where
  addr : Nat
  bytes : Line
  mask : LineMask
  page : Nat
  vi : Nat
  cid : Nat
  unit : Nat := 0
  deriving DecidableEq, Repr

/-- A TLBINV in progress (04 R96): what it names, when it issued, the holders of pins it waits for and of accesses in flight, and
the posted stores, each with its sender, that it waits for. -/
structure Inval where
  kind : Nat
  vi : Nat
  cid : Nat
  va : Nat
  since : Nat
  holders : List Agent
  stores : List (Nat × PeerStore) := []
  deriving DecidableEq, Repr

/-- One sequencer. -/
structure Seq where
  bound : Option Binding := none
  gen : Nat := 0
  pc : DWord := 0
  g : Vector DWord 32 := Vector.replicate 32 0
  full : FullBits := {}
  v : Vector Bits 32 := Vector.replicate 32 0
  p : Vector Bits 8 := Vector.replicate 8 0
  a : Vector Bits 8 := Vector.replicate 8 0
  loops : List LoopEntry := []
  pts : Nat := 0
  c : CRegs := {}
  n : NRegs := {}
  phys : List Nat := []
  pair : PairStat := {}
  mop : Option Mop := none
  linkEpoch : Nat := 0
  mark : BitVec 19 := 0
  strip : Option Strip := none
  commit : Option Commit := none
  fails : Nat := 0
  age : Option Nat := none
  forced : Bool := false
  cut : Option Nat := none
  phase : List BufEntry := []
  holds : List Nat := []
  deferred : List (Nat × Nat × RecallMode) := []
  pins : List TlbEntry := []
  inflight : List (Bool × TlbEntry) := []
  named : List Nat := []
  fetched : AMap Word32 := []
  lastStore : Nat := 0
  loadRun : Nat := 0
  loadLine : Nat := 0
  wmax : Nat := 0
  arrivals : List Arrival := []
  wait : Wait := .run
  note : Option Note := none
  follow : Nat := 0
  inval : Option Inval := none
  peerOut : List PeerStore := []
  peerBad : List (PeerStore × Nat) := []
  peerRetry : List PeerStore := []
  hostOut : Nat := 0
  wants : List Nat := []
  halted : Bool := false
  stepReq : Nat := 0
  estepDue : Option Nat := none
  preempt : Option Nat := none
  pinLate : Bool := false
  came : List Agent := []
  deriving DecidableEq, Repr

/-! ## Coherence -/

/-- A message on its way, or a step that something already done causes: the table's own steps, in the order they arose. -/
inductive Due where
  | stripCommit (k : Agent)
  | rds (k gen line pts lease : Nat)
  | rnw (k gen line pts lease wts epoch : Nat)
  | rdo (k gen line pts : Nat)
  | rdr (k gen line pts : Nat)
  | val (k gen line tc wts epoch : Nat)
  | wb (o : Owner) (gen line ver wts rts : Nat) (bytes : Line) (mask : LineMask) (poison : Bool)
  | rel (o : Owner) (gen line ver wts rts : Nat)
  | nh (o : Owner) (gen line ver : Nat)
  | ppr (k gen line : Nat)
  | ppa (k gen line tp : Nat) (bytes : Line) (mask : LineMask)
  /-- Writes of the device itself that wait for a line (02 R36; log 20). -/
  | deviceWrite (line : Nat)
  | deadAgent (o : Owner)
  | data (k line : Nat) (form : Form) (wts leaseEnd : Nat)
  | rnok (k line leaseEnd : Nat)
  | grant (k line : Nat) (form : Form) (wts rts ver : Nat) (forRead : Bool)
  | vok (k line : Nat)
  | vfail (k line : Nat)
  | rcl (o : Owner) (line ver : Nat) (mode : RecallMode)
  | rebase
  | hostMemrd (port line : Nat) (own : Bool)
  | hostMemwr (port line : Nat) (bytes : Line) (mask : LineMask)
  | biasFlipDone (frame : Nat)
  | peerLoad (src off size tag : Nat)
  | peerStore (src off size : Nat) (bytes : Line) (tag : Nat)
  | peerAtomic (src off : Nat) (op ty : BitVec 4) (s s2 : DWord) (tag : Nat)
  | wayRetireDone (die slice : Nat)
  | slateFetch (vi q : Nat)
  | slateAdmit (vi q : Nat)
  | stageReserve (die slot : Nat)
  | dispatchStart (k : Agent)
  | contextResume (k : Agent)
  | slateComplete (slot : Nat)
  | contextSave (k : Agent)
  | forcedPreempt (k : Agent)
  | tlbinvDone (k : Agent)
  | faultBatchPost (vi : Nat)
  | eventPost (ring : RingId) (kind cid detail pc : Nat)
  | waitWake (k line t : Nat)
  | pairStart (k : Agent)
  | matrixChunk (k : Agent)
  | engineSegmentIssue (c : ChainId)
  | dollyCopy (c : ChainId)
  | dollyFill (c : ChainId)
  | dollyCopym (c : ChainId)
  | followOnMatrix (c : ChainId)
  | castDispatch (c : ChainId)
  | mixCombine (c : ChainId)
  | collPut (c : ChainId)
  | collReduce (c : ChainId)
  | collSignal (c : ChainId)
  | dailiesDelta (c : ChainId)
  | engineFault (c : ChainId) (cause vaPage access detail : Nat)
  | commandComplete (c : ChainId)
  | owncmdDone
  | victlDisableDone (vi : Nat)
  | ctxcmdDone (vi : Nat)
  | cbcmdDone (vi : Nat)
  | hostRangeInvalidateDone (vi : Nat)
  | repeatRule (k : Agent)
  | stageBankOperation (op : StageOp)
  | stageAnswer (k bt : Nat) (result : Option DWord)
  | longLatencyResult (k : Agent) (r : RegRef) (value : Nat)
  | phaseReserveReply (k line rts : Nat)
  deriving DecidableEq, Repr

/-- What waits at a home for an owner's answer: a request, or a sequencer, engine command or device step to try again. -/
inductive Waiting where
  | req (d : Due)
  | again (k : Agent)
  | eng (c : ChainId)
  deriving DecidableEq, Repr

/-- A link tag (18 R403): agent number, generation, epoch and the time it was made. -/
structure LinkTag where
  k : Agent
  gen : Nat
  epoch : Nat
  t : Nat
  deriving DecidableEq, Repr

/-- A publish that has reserved a line (07 R174): the publishes pending then whose apply has not come since are those it
overlaps. `tp` and `mask` once it has applied, kept as long as one that it overlaps is pending. -/
structure PhPub where
  id : Nat
  k : Agent
  tp : Option Nat
  mask : LineMask
  lapped : List Nat
  deriving DecidableEq, Repr

/-- A stored logical time (07 R153): an offset from the timebase and the generation it was stored under. -/
structure Stamp where
  off : BitVec 24 := 0
  gen : Bool := false
  deriving DecidableEq, Repr

/-- A line's state at its home: the last-level cache tag of 07 R149 and 08 R182, with the data the sectors hold decoded,
its last owner, the interface that ownership was granted for (08 R189) and when the owner was asked for the line (07 R168), link tags (18 R403), parked waiters (18 R407) and pending publishes (07 R174). `T` is how the times are held:
24-bit offsets with the generation bit as the tag stores them (07 R153), or full times as the home works with them. -/
structure HomeLine (T : Type) where
  data : Line := 0
  code : Nat := 0
  sects : List Nat := []
  way : Nat := 0
  lru : Nat := 0
  dirty : Bool := false
  hx : Option Nat := none
  wts : T
  rts : T
  gen : Bool := false
  ver : Nat := 0
  own : Option Owner := none
  last : Option Owner := none
  gvi : Nat := 128
  omode : Bool := false
  recalled : Bool := false
  asked : Nat := 0
  pubs : List PhPub := []
  tags : List LinkTag := []
  waiters : List Agent := []
  deriving DecidableEq, Repr

/-- One home slice: MTS (07 R150) as it is stored, the overflow list of waiters (18 R407), retired ways and one being retired (01 R21,
R22), the sample count of heat (04 R100) and the host-tracking directory (02 R36), least recently used first. -/
structure Slice where
  mts : Stamp := {}
  overflow : List (Agent × Nat) := []
  retired : List Nat := []
  retiring : Option Nat := none
  retireNext : List Nat := []
  samples : Nat := 0
  dir : List (Nat × Bool) := []
  deriving DecidableEq, Repr

/-- A line in an L1 slice or held by an engine (07 R153 to R158): the data, the times, whether it is owned and for what,
the version, the bytes modified since the grant, and whether it is a phase-page copy (07 R173) or poisoned; `T` as for a
home's line. -/
structure Copy (T : Type) where
  data : Line
  wts : T
  rts : T
  gen : Bool := false
  own : Bool := false
  forRead : Bool := false
  ver : Nat := 0
  mask : LineMask := 0
  phase : Bool := false
  poison : Bool := false
  deriving DecidableEq, Repr

/-! ## Virtual interfaces -/

/-- Who posted a fault batch (04 R102, 08 R195). -/
inductive PostSrc where
  | seq (k : Agent)
  | engine (c : ChainId)
  | queueFetch (q : Nat)
  | queueDone (q : Nat)
  | home (line : Nat)
  deriving DecidableEq, Repr

/-- One entry of a fault batch (04 R103). -/
structure FaultEntry where
  page : Nat
  access : Nat
  cause : Nat
  first : Nat
  count : Nat
  detail : Nat
  deriving DecidableEq, Repr

/-- A record, or a batch of records, to go into a ring (03 R65, R66; 04 R102). -/
inductive Posting where
  | batch (src : PostSrc) (cid pc number : Nat) (entries : List FaultEntry)
  | event (kind cid detail pc : Nat)
  deriving DecidableEq, Repr

/-- A posting in line for a ring, and whether its wait for room has been counted (03 R64, R66). -/
structure Queued where
  post : Posting
  waited : Bool := false
  deriving DecidableEq, Repr

/-- A batch in the ring that software has not answered (03 R67), its pages, those of them whose translation faulted and is not
cached (04 R74), and whether it rolled a strip back (11 R252). -/
structure Batch where
  tag : Nat
  src : PostSrc
  cid : Nat
  pages : List Nat := []
  uncached : List Nat := []
  rolled : Bool := false
  deriving DecidableEq, Repr

/-- A saved context (05 R119, 11 R262): its die and its work with the save slot, the batch that had no answer yet and the
answer that came since, what the frames do not hold of its strip runs (07 R164; 11 R253; 05 R120), its phase bytes and the
sequencers that sent stores for it (logs 47, 48). -/
structure SavedCtx where
  die : Nat
  work : Binding
  tag : Option Nat
  answer : Option Bool
  rolled : Bool
  named : List Nat
  fails : Nat
  age : Option Nat
  forced : Bool
  cut : Option Nat
  phase : List BufEntry
  came : List Agent
  stores : List PeerStore
  halted : Bool
  stepReq : Nat
  deriving DecidableEq, Repr

/-- A context (03 R56 to R58), with the frames of its save slots as creation checked them (R57). -/
structure Ctx where
  root : Nat
  slots : Nat
  maxTiles : Nat
  frames : List Nat
  priv : Bool := false
  lost : Bool := false
  dying : Bool := false
  saved : List SavedCtx := []
  deriving DecidableEq, Repr

/-- A slate that has been fetched and not admitted: number, address, its 256 bytes, and the time of the fetch (05 R110). -/
structure Fetched where
  n : Nat
  addr : Nat
  bytes : Bits
  t : Nat
  deriving DecidableEq, Repr

/-- A queue (03 R59 to R63): its registers, the number QHEAD names, the next number to fetch and the slate whose link leads
there (none: QHEAD), the addresses known, the slates fetched, those in flight, those complete above QDONE, completion times,
the clocks of ECMD appends (05 R110), energy to charge at the next admission (01 R16), by sequencer the stores of completed slates
to the host window that the host has not observed (R62, 09 R209), and whether a fetch or a completion word waits for the answer to
its batch, or for a halt to be cleared (R62). -/
structure Queue where
  tickets : Nat := 1
  err : Nat := 0
  tailerr : Bool := false
  halt : Bool := false
  en : Bool := false
  qhead : DWord := 0
  qtail : DWord := 0
  doneAddr : DWord := 0
  qdone : Nat := 0
  ctx : Nat := 0
  est : DWord := 0
  headN : Nat := 1
  next : Nat := 1
  linkOf : Option Nat := none
  addrs : AMap Nat := []
  ready : List Fetched := []
  inflight : List Nat := []
  doneSet : List Nat := []
  doneT : AMap Nat := []
  launchT : AMap Nat := []
  excess : Nat := 0
  hostFrom : AMap Nat := []
  wordWait : Bool := false
  wordHalt : Bool := false
  fetchWait : Bool := false
  deriving DecidableEq, Repr

/-- The attestation registers of a requester, and the nonce and buffer of the request that is queued (01 R30). -/
structure Attest where
  nonce : List DWord := List.replicate 4 0
  buf : DWord := 0
  qNonce : List DWord := []
  qBuf : Nat := 0
  busy : Bool := false
  overrun : Bool := false
  result : Nat := 0xF
  deriving DecidableEq, Repr

/-- One fault ring (03 R64): base, size code, head and tail counts, status, whether FQBASE has been written since the
enable (R477), the next tag, batches with no answer, and the postings held or waiting for room. -/
structure Ring where
  base : DWord := 0
  size : Nat := 0
  head : DWord := 0
  tail : DWord := 0
  badcmd : Bool := false
  waits : Nat := 0
  ready : Bool := false
  nextTag : Nat := 1
  batches : List Batch := []
  queue : List Queued := []
  deriving DecidableEq, Repr

/-- One virtual interface: its registers (03 R51, R55, R56, R64; 04 R79; 08 R189, R193; 11 R265), contexts and queues; BUSY
of a disable and of a host-range write apart; of the command in progress at CTXCMD its result, new ID and the context whose
end it waits for (0: none), of the one at CBCMD its result. -/
structure Vi where
  en : Bool := false
  busy : Bool := false
  hrBusy : Bool := false
  therm : Bool := false
  tickets : Nat := 0
  hrBase : List DWord := List.replicate 8 0
  hrSize : List DWord := List.replicate 8 0
  ring : Ring := {}
  ctxdesc : DWord := 0
  ctxBusy : Bool := false
  ctxPend : Nat × Nat × Nat := (0, 0, 0)
  ctxOverrun : Bool := false
  ctxResult : Nat := 0
  ctxNew : Nat := 0
  ctxs : AMap Ctx := []
  queues : AMap Queue := []
  pltbase : DWord := 0
  pltsize : Nat := 0
  cstat : DWord := 0
  cbframe : DWord := 0
  cbBusy : Bool := false
  cbPend : Nat := 0
  cbOverrun : Bool := false
  cbResult : Nat := 0
  cptbase : DWord := 0
  cptsize : Nat := 0
  dbgsel : DWord := 0
  dbgResult : Nat := 0
  dbgbuf : DWord := 0
  att : Attest := {}
  deriving DecidableEq, Repr

/-! ## Scheduling -/

/-- One level of a slate (05 R107). -/
structure Level where
  extent : Nat
  chunk : Nat
  domain : Nat
  scope : Nat
  deriving DecidableEq, Repr

/-- An admitted slate (05 R106 to R115): its fields, admission and completion times, the live dies its prefixes were dealt to
and the prefixes dealt again (R124); by flattened outer index the ranges bound and those done, with how many indices that is; the
instances that outer indices have taken (R107), by level and flattened index; its Stage reservations by die, the engine
commands still out, the energy used, the sequencers that have worked for it, and whether its context is lost. -/
structure Slate where
  vi : Nat
  cid : Nat
  q : Nat
  number : Nat
  flags : Nat
  pc : DWord
  arg : DWord
  stackBase : Nat
  stackSize : Nat
  nvlog : Nat
  tiles : Nat
  stage : Nat
  energy : Nat
  levels : List Level
  admitT : Nat
  doneT : Nat
  dies : List Nat
  moved : AMap Nat := []
  bound : AMap (List (Nat × Nat)) := []
  doneIdx : AMap (List (Nat × Nat)) := []
  doneCount : Nat := 0
  insts : List ((Nat × Nat) × Nat) := []
  resv : AMap Nat := []
  commands : Nat := 0
  used : Nat := 0
  workers : List Agent := []
  abandoned : Bool := false
  deriving DecidableEq, Repr

/-- One call entry (05 R113). -/
structure CallEntry where
  valid : Bool := false
  resume : Bool := false
  work : Binding
  deriving DecidableEq, Repr

/-- One die's director core, distributor and dispatch (05 R112 to R125). -/
structure Die where
  clock : Nat := 40
  planned : Nat := 40
  fenced : Bool := false
  reissued : Bool := false
  fencedClusters : List Nat := []
  passVi : AMap Nat := []
  passQ : AMap Nat := []
  activeVi : List Nat := []
  activeQ : List Nat := []
  vtimeVi : Nat := 0
  vtimeQ : AMap Nat := []
  rows : AMap (List CallEntry) := []
  stale : Nat := 0
  phovl : Nat := 0
  renewd : Nat := 0
  renewf : Nat := 0
  expevict : Nat := 0
  exprecall : Nat := 0
  incomp : Nat := 0
  poolexp : Nat := 0
  mdhit : Nat := 0
  mdmiss : Nat := 0
  mdue : Nat := 0
  mdleak : Nat := 0
  deriving DecidableEq, Repr

/-! ## Engines -/

/-- Where a command stands: its next segment is to be issued, its operation runs on the segment, its follow-on matrix
command is to run (19 R430), its completion record is to be written (R425), or it waits to post a batch or for the answer
(R426). -/
inductive CmdPhase where
  | segment | operate | follow | record | batch
  deriving DecidableEq, Repr

/-- A fault an engine met: cause, address, access code, and detail (04 R103, R104). -/
structure EngFault where
  cause : Nat
  va : Nat
  access : Nat
  detail : Nat
  deriving DecidableEq, Repr

/-- A command of a chain (19 R420, R422): its number, entry and place, the issuing sequencer, its slate, privilege and
FCTL, its clock (06 R144), the time of its last write (05 R110) and promise; how far it has come: units finished, the byte of its run where the segment begins and
ends, the virtual lines of the segment written, lines owned, pages pinned (04 R95), a recalled line to write first (06 R146),
the fault that ended the segment, AUX, a dispatched row's slot and destination (R432), the dailies record that goes out (R435),
elements of a reduction that cross a line, by their byte of the stream, until both lines have them (R434), peer answers and the peer
address (plus 1) asked for; the tag it waits for, whether it is to stop, has asked for a flush, its status, and its follow-on
matrix command with its flags. -/
structure Cmd where
  n : Nat
  va : Nat
  entry : Bits
  k : Agent
  slot : Nat
  priv : Bool
  fctl : BitVec 5
  clock : Nat
  wmax : Nat := 0
  promise : Nat
  phase : CmdPhase := .segment
  started : Bool := false
  unit : Nat := 0
  sub : Nat := 0
  pos : Nat := 0
  segEnd : Nat := 0
  wrote : List Nat := []
  owned : List Nat := []
  pins : List TlbEntry := []
  front : List (Nat × Nat) := []
  fault : Option EngFault := none
  aux : Nat := 0
  row : Option (Nat × Nat) := none
  data : Option Bits := none
  kept : AMap Nat := []
  got : AMap Nat := []
  asked : Nat := 0
  refused : Nat := 0
  waiting : Option Nat := none
  stop : Bool := false
  flushed : Option Bool := none
  status : Option Nat := none
  mop : Option Mop := none
  chunk : Nat := 0
  deriving DecidableEq, Repr

/-- A chain (19 R420, R439): the last number given, the commands not yet completed, and the number, status and time of
the last completed. -/
structure Chain where
  last : Nat := 0
  cmds : List Cmd := []
  done : Nat := 0
  doneStatus : Nat := 0
  doneT : Nat := 0
  lastPromise : Nat := 0
  deriving DecidableEq, Repr

/-- A matrix instruction in the array of a cluster (06 R135): the sequencer, or the chain of a follow-on. -/
inductive MatrixJob where
  | seq (k : Agent)
  | follow (c : ChainId)
  deriving DecidableEq, Repr

/-! ## The device -/

/-- A message to a peer (02 R42, R47): a read, a posted store, an atomic (operation 15 an arrival), or the answer to a
request of a peer for a line. -/
inductive PeerMsg where
  | read (addr size : Nat) (k : Agent)
  | write (addr : Nat) (bytes : Line) (mask : LineMask) (k : Agent)
  | atomic (addr : Nat) (op ty : BitVec 4) (s s2 : DWord) (k : Agent)
  | reply (src line tag : Nat) (value : Line) (ok : Bool)
  deriving DecidableEq, Repr

/-- A message that left the device, for the record (log 8): to the host on one of its ports, by host physical address (02
R33) or, in an answer, by line, with whether MetaValue Invalid says that the host keeps no copy (R35); or a flit on a Morrix
Link port with its sequence, the sequence it acknowledges and its message, and a request for a flit again (R42, R43). -/
inductive OutMsg where
  | hostData (port line : Nat) (bytes : Line) (invalid : Bool)
  | hostDone (port line : Nat)
  | hostRead (port addr : Nat)
  | hostWrite (port addr : Nat) (bytes : Line) (mask : LineMask)
  | hostAtomic (port addr : Nat) (op ty : BitVec 4) (s s2 : DWord)
  | snoop (line : Nat) (inv : Bool)
  | flush (port : Nat)
  | msix (vi vector : Nat)
  | flit (port seqNo ackNo : Nat) (msg : PeerMsg)
  | flitRetry (port seqNo : Nat)
  deriving DecidableEq, Repr

/-- One Morrix Link port (02 R42 to R44): whether it is up, failed retries and retrains, the next sequence to receive, the last
one acknowledged by the far side, the next to send, the flits sent and not acknowledged and the messages that wait behind
them, the credits returned, and type and payload slots of the last flit received. -/
structure LinkPort where
  up : Bool := true
  retries : Nat := 0
  fails : Nat := 0
  rxSeq : Nat := 0
  ackSeq : Nat := 0
  retrain : Bool := false
  stopped : Bool := false
  txSeq : Nat := 0
  unacked : List (Nat × PeerMsg) := []
  queue : List PeerMsg := []
  credits : Nat := 0
  rxType : Nat := 0
  rxSlots : List (BitVec 128) := []
  deriving DecidableEq, Repr

/-- An entry of the persistent machine-check log (01 R17, 07 R168, 08 R195, R198): its kind and detail. -/
structure LogEntry where
  kind : Nat
  detail : Nat
  deriving DecidableEq, Repr

/-- The physical function's registers (01 R12, R20, R26, R27; 02 R46; 03 R54; 04 R97, R98; 05 R121, R125; 08 R190; 19
R424), with the image that the security processor has copied (01 R26; none where it refused to), and the event records
posted to the physical function (03 R65). -/
structure Mgmt where
  modbudget : Nat := 0x0AF0
  window : Nat := 0x0258
  thresh : Nat := 3
  fwstage : DWord := 0
  fwLen : Nat := 0
  fwOp : Nat := 0
  fwResult : Nat := 0xF
  fwOverrun : Bool := false
  fwBusy : Bool := false
  fwCopy : Option (List Byte) := none
  recaddr : DWord := 0
  reclen : DWord := 0
  recResult : Nat := 0xF
  recBusy : Bool := false
  hostbase : DWord := 0
  peerid : Nat := 0
  peeren0 : DWord := 0
  peeren1 : DWord := 0
  route : AMap (BitVec 12) := []
  exports : AMap (Nat × Nat × Nat × Nat) := []
  ownset : Nat := 0
  ownOwner : Nat := 0
  ownCount : Nat := 0
  ownBusy : Bool := false
  ownOverrun : Bool := false
  ownResult : Nat := 0
  heatbase : DWord := 0
  heatEn : Bool := false
  heatshift : Nat := 8
  tlbpinwait : Nat := 100000
  preemptdl : Nat := 100000
  mdbaseh : DWord := 0
  mdbasel : DWord := 0
  master : Nat := 0
  elect : Bool := false
  att : Attest := {}
  events : List Bits := []
  deriving DecidableEq, Repr

/-- What the director cores take next: a sequencer's turn, a due message ahead of the others, or a step that comes from
outside; each takes `dt` reference cycles. A turn that holds leaves results in flight (log 2). -/
inductive Agenda where
  | turn (k : Agent) (dt : Nat) (hold : Bool)
  | deliver (n dt : Nat)
  | event (i : Instr) (dt : Nat)
  deriving DecidableEq, Repr

/-- The whole device. `agenda`, `due`, `cur`, `fresh`, `hostVal`, `hostLines` and `outbox` are the model's own (logs 2, 5, 8). -/
structure State where
  seqs : AMap Seq := []
  cur : Agent := 0
  agenda : List Agenda := []
  due : List Due := []
  fresh : Nat := 0
  cycle : Nat := 0
  off : Bool := false
  recovery : Bool := false
  mem : Memory := []
  stage : Memory := []
  bt : AMap Nat := []
  stageWait : AMap (List Agent) := []
  homes : AMap (HomeLine (BitVec 24)) := []
  slices : AMap Slice := []
  copies : AMap (Copy (BitVec 24)) := []
  engCopies : AMap (Copy (BitVec 24)) := []
  latches : AMap LatchUnit := []
  pairLatches : AMap LatchUnit := []
  tileVis : AMap (List Nat) := []
  engPeerOut : AMap (List PeerStore) := []
  engPeerBad : AMap (List (PeerStore × Nat)) := []
  poisoned : List Nat := []
  converted : AMap Nat := []
  tbase : Nat := 0
  rebases : Nat := 0
  engGen : AMap Nat := []
  hostHorizon : Nat := 0
  peerHorizon : Nat := 0
  owners : AMap Nat := []
  bias : List Nat := []
  waiting : AMap (List Waiting) := []
  roomWait : AMap (List Waiting) := []
  devWrites : List (Nat × Line × LineMask) := []
  hostAsked : List Nat := []
  flipping : AMap (Nat × List Nat × List Agent) := []
  coreTlb : AMap (List TlbEntry) := []
  dieTlb : AMap (List TlbEntry) := []
  mdCached : AMap (List Nat) := []
  vis : AMap Vi := []
  slates : AMap Slate := []
  dies : Vector Die 4 := Vector.replicate 4 {}
  chains : AMap Chain := []
  matrix : AMap (List MatrixJob) := []
  mgmt : Mgmt := {}
  energy : AMap Nat := []
  residue : AMap Nat := []
  committed : Nat := 0
  windowStart : Nat := 0
  budget : Nat := 0x0AF0
  thermal : Bool := false
  errTimes : AMap (List Nat) := []
  retiredLog : List Region := []
  mcLog : List LogEntry := []
  image : List Byte := []
  nextImage : Option (List Byte) := none
  attQueue : List RingId := []
  ports : List PortMode := [.pcie, .pcie]
  links : Vector LinkPort 12 := Vector.replicate 12 {}
  hostVal : AMap DWord := []
  hostLines : AMap Line := []
  outbox : List OutMsg := []
  deriving DecidableEq, Repr

/-- The machine right after module reset: every field at the value the spec states, and at the value log 3 names where
the spec states none. -/
def State.reset : State := {}

end Sys2Proof.Machine
end

