-- ==== Sys2Proof/Machine/Maps.lean ====
section
/-!
DEFINITION. Reading and writing the state's maps and byte memories: sorted association lists, memory in its canonical
form (an unlisted byte reads 0; log 4), and lines of 128 bytes (spec/00_scope.md R3).
-/
namespace Sys2Proof.Machine

/-! ## Maps -/

def AMap.find {α : Type} : AMap α → Nat → Option α
  | [], _ => none
  | (k, v) :: m, i => if k = i then some v else AMap.find m i

def AMap.getD {α : Type} (m : AMap α) (i : Nat) (d : α) : α := (m.find i).getD d

/-- The map with the value of key `i` set, keys kept rising. -/
def AMap.set {α : Type} : AMap α → Nat → α → AMap α
  | [], i, v => [(i, v)]
  | (k, w) :: m, i, v =>
    if k = i then (i, v) :: m else if i < k then (i, v) :: (k, w) :: m else (k, w) :: AMap.set m i v

def AMap.erase {α : Type} (m : AMap α) (i : Nat) : AMap α := m.filter fun e => e.1 ≠ i

def AMap.modify {α : Type} (m : AMap α) (i : Nat) (d : α) (f : α → α) : AMap α := m.set i (f (m.getD i d))

/-! ## Byte memories -/

/-- What a byte that nothing has written reads as (log 4; Stage memory: 06 R140). -/
def Memory.blank : Byte := 0

/-- The byte at an address. -/
def Memory.byte : Memory → Nat → Byte
  | [], _ => Memory.blank
  | (k, b) :: m, a => if k = a then b else Memory.byte m a

/-- The memory with one byte written, in canonical form. -/
def Memory.put : Memory → Nat → Byte → Memory
  | [], a, b => if b = Memory.blank then [] else [(a, b)]
  | (k, c) :: m, a, b =>
    if a < k then (if b = Memory.blank then (k, c) :: m else (a, b) :: (k, c) :: m)
    else if k = a then (if b = Memory.blank then m else (a, b) :: m)
    else (k, c) :: Memory.put m a b

/-- Canonical form: addresses rising and no entry that holds what an unlisted byte reads as. -/
def Memory.wf : Memory → Bool
  | [] => true
  | [(_, b)] => decide (b ≠ Memory.blank)
  | (a, b) :: (a', b') :: m => decide (b ≠ Memory.blank) && decide (a < a') && Memory.wf ((a', b') :: m)

/-- `n` bytes from an address as one little-endian number. -/
def Memory.read (m : Memory) (a : Nat) : Nat → Nat
  | 0 => 0
  | n + 1 => (m.byte a).toNat + 256 * Memory.read m (a + 1) n

/-- `n` bytes of a little-endian number written from an address. -/
def Memory.write (m : Memory) (a v : Nat) : Nat → Memory
  | 0 => m
  | n + 1 => Memory.write (m.put a (BitVec.ofNat 8 v)) (a + 1) (v / 256) n

/-- Bytes written from an address. -/
def Memory.writeBytes : Memory → Nat → List Byte → Memory
  | m, _, [] => m
  | m, a, b :: bs => Memory.writeBytes (m.put a b) (a + 1) bs

/-! ## Lines -/

def lineBytes : Nat := 128

/-- Byte `k` of a line. -/
def lineByte (l : Line) (k : Nat) : Byte := BitVec.ofNat 8 (l.toNat >>> (8 * k))

/-- `n` bytes of a line from byte `k`, little-endian. -/
def lineField (l : Line) (k n : Nat) : Nat := bitsAt l.toNat (8 * k) (8 * n)

/-- The bits of a line a byte mask covers. -/
def maskBits (m : LineMask) : Nat → Nat
  | 0 => 0
  | k + 1 => maskBits m k + (if m.getLsbD k then 255 <<< (8 * k) else 0)

/-- A line with the masked bytes of another. -/
def mergeLine (old new : Line) (m : LineMask) : Line :=
  let b := BitVec.ofNat 1024 (maskBits m 128)
  (old &&& ~~~b) ||| (new &&& b)

/-- The mask of `n` bytes from byte `k`. -/
def maskOf (k n : Nat) : LineMask := BitVec.ofNat 128 ((2 ^ n - 1) <<< k)

/-- The mask of every byte. -/
def fullMask : LineMask := BitVec.allOnes 128

/-- `v` placed at byte `k` of a line. -/
def lineWith (k v : Nat) : Line := BitVec.ofNat 1024 (v <<< (8 * k))

/-- The line `l` of a byte memory. -/
def Memory.line (m : Memory) (l : Nat) : Line := BitVec.ofNat 1024 (m.read (128 * l) 128)

/-- The line `l` of a byte memory written whole. -/
def Memory.setLine (m : Memory) (l : Nat) (d : Line) : Memory := m.write (128 * l) d.toNat 128

/-- Applies `f` over a list, threading a state. -/
def thread {α σ : Type} (f : α → σ → σ) : List α → σ → σ
  | [], s => s
  | a :: as, s => thread f as (f a s)

/-- Values without repeats, in order of first mention. -/
def dedup {α : Type} [DecidableEq α] (xs : List α) : List α :=
  (xs.foldl (fun acc x => if acc.contains x then acc else x :: acc) []).reverse

end Sys2Proof.Machine
end

