-- ==== Sys2Proof/Machine/Ops.lean ====
section
/-!
DEFINITION. The named operations over a sequencer's state: registers with their full and empty bits (spec/
11_execution_state.md R239, R240), control registers (R244), the stack limit (R270), results that wait, trap or fault,
rolling a strip back (R249), taking a trap (R258), failing a context (R259) and returning from a handler (R260).
-/
namespace Sys2Proof.Machine

/-! ## Results -/

/-- What part of an instruction answers: a value, a wait (the instruction is executed again when it ends), a trap, or
page faults to post. -/
inductive Res (α : Type) where
  | ok (a : α) (s : State)
  | wait (s : State)
  | trap (cause tval : Nat) (s : State)
  | fault (es : List FaultEntry) (s : State)

/-- Sequencing. -/
def Res.andThen {α β : Type} (r : Res α) (f : α → State → Res β) : Res β :=
  match r with
  | .ok a s => f a s
  | .wait s => .wait s
  | .trap c v s => .trap c v s
  | .fault es s => .fault es s

/-- Where the pc goes when an instruction ends (14 R319, R324): past it, to a target, or nowhere (it has set the pc
itself or continues). -/
inductive Flow where
  | next
  | jump (pc : DWord)
  | stay
  /-- The instruction has executed the element group that starts at `elem`; `last` when it has no more (11 R266). -/
  | group (elem : Nat) (last : Bool)

/-! ## Sequencers -/

/-- Sequencer `k`. -/
def State.seq (s : State) (k : Agent) : Seq := s.seqs.getD k {}

def State.setSeq (s : State) (k : Agent) (q : Seq) : State := { s with seqs := s.seqs.set k q }

def State.upd (s : State) (k : Agent) (f : Seq → Seq) : State := s.setSeq k (f (s.seq k))

/-- The sequencer whose turn it is. -/
def State.me (s : State) : Seq := s.seq s.cur

/-- The current sequencer changed. -/
def State.updMe (s : State) (f : Seq → Seq) : State := s.upd s.cur f

/-- The die, cluster (0 to 255 over the device), core (0 to 1,023) of a sequencer (05 R113). -/
def dieOfSeq (k : Agent) : Nat := k / 2048
def clusterOfSeq (k : Agent) : Nat := k / 32
def coreOfSeq (k : Agent) : Nat := k / 8

/-- The interface and context a sequencer works for; 128 when it has no call entry. -/
def Seq.vi (q : Seq) : Nat := match q.bound with | some b => b.vi | none => 128
def Seq.cid (q : Seq) : Nat := match q.bound with | some b => b.cid | none => 0

/-- Die `d` changed. -/
def State.updDie (s : State) (d : Nat) (f : Die → Die) : State :=
  if h : d < 4 then { s with dies := s.dies.set d (f s.dies[d]) h } else s

def State.die (s : State) (d : Nat) : Die := if h : d < 4 then s.dies[d] else {}

/-- Steps the machine itself causes are appended, first come first served. -/
def State.post (s : State) (d : Due) : State := { s with due := s.due ++ [d] }

/-- The sequencer parks or waits. -/
def State.waitFor (s : State) (k : Agent) (w : Wait) : State := s.upd k fun q => { q with wait := w }

/-- The sequencer runs again; the waiting instruction is executed again. -/
def State.wake (s : State) (k : Agent) : State := s.upd k fun q => { q with wait := .run }

/-! ## Registers -/

/-- g0 reads 0 (11 R238). -/
def Seq.gRead (q : Seq) (n : Nat) : DWord := if h : 0 < n ∧ n < 32 then q.g[n]'h.2 else 0

/-- Writes to g0 are discarded. -/
def Seq.gSet (q : Seq) (n : Nat) (v : DWord) : Seq :=
  if h : 0 < n ∧ n < 32 then { q with g := q.g.set n v h.2 } else q

def Seq.vRead (q : Seq) (n : Nat) : Bits := if h : n < 32 then q.v[n] else 0
def Seq.vSet (q : Seq) (n : Nat) (x : Bits) : Seq := if h : n < 32 then { q with v := q.v.set n x h } else q
def Seq.pRead (q : Seq) (n : Nat) : Bits := if h : n < 8 then q.p[n] else 0
def Seq.pSet (q : Seq) (n : Nat) (x : Bits) : Seq := if h : n < 8 then { q with p := q.p.set n x h } else q
def Seq.aRead (q : Seq) (n : Nat) : Bits := if h : n < 8 then q.a[n] else 0
def Seq.aSet (q : Seq) (n : Nat) (x : Bits) : Seq := if h : n < 8 then { q with a := q.a.set n x h } else q

/-- One bit of a register class's full bits set to `b`. -/
def setBit {w : Nat} (x : BitVec w) (n : Nat) (b : Bool) : BitVec w :=
  if b then x ||| BitVec.ofNat w (2 ^ n) else x &&& ~~~(BitVec.ofNat w (2 ^ n))

/-- The full bit of a register; g0 is always full (11 R239). -/
def Seq.isFull (q : Seq) : RegRef → Bool
  | .g n => n = 0 || q.full.g.getLsbD n
  | .v n => q.full.v.getLsbD n
  | .p n => q.full.p.getLsbD n
  | .a n => q.full.a.getLsbD n
  | .ctl _ => true

def Seq.setFull (q : Seq) (r : RegRef) (b : Bool) : Seq :=
  match r with
  | .g n => { q with full := { q.full with g := setBit q.full.g n b } }
  | .v n => { q with full := { q.full with v := setBit q.full.v n b } }
  | .p n => { q with full := { q.full with p := setBit q.full.p n b } }
  | .a n => { q with full := { q.full with a := setBit q.full.a n b } }
  | .ctl _ => q

/-- A register written with a value, its full bit untouched. -/
def Seq.setReg (q : Seq) (r : RegRef) (x : Nat) : Seq :=
  match r with
  | .g n => q.gSet n (BitVec.ofNat 64 x)
  | .v n => q.vSet n x
  | .p n => q.pSet n x
  | .a n => q.aSet n x
  | .ctl _ => q

/-- A value arrives: the register is written and full (11 R239). -/
def Seq.arrive (q : Seq) (r : RegRef) (x : Nat) : Seq :=
  let q := (q.setReg r x).setFull r true
  match q.wait with
  | .full => { q with wait := .run }
  | _ => q

/-- A producer's destination: empty at issue, the value in flight (11 R239, log 7). -/
def Seq.produce (q : Seq) (r : RegRef) (x : Nat) : Seq :=
  { q.setFull r false with arrivals := q.arrivals ++ [{ reg := r, value := x }] }

/-- The values in flight arrive, in order. -/
def Seq.land (q : Seq) : Seq := thread (fun a q => q.arrive a.reg a.value) q.arrivals { q with arrivals := [] }

/-- The registers that relaxed arrivals of the open strip will fill at its commit (18 R410). -/
def Seq.rlxMask (q : Seq) : BitVec 32 :=
  match q.strip with
  | some st => st.rlx.foldl (fun m r => m ||| BitVec.ofNat 32 (2 ^ r.dest)) 0
  | none => 0

/-- All g and p registers are full (11 R240), but for those that only the strip's close fills (18 R410). -/
def Seq.allFull (q : Seq) : Bool := q.full.g ||| 1 ||| q.rlxMask = BitVec.allOnes 32 && q.full.p = BitVec.allOnes 8

/-- The code a trap gives a register (11 R258). -/
def regCode : RegRef → Nat
  | .g n => n
  | .v n => 0x100 + n
  | .p n => 0x200 + n
  | .a n => 0x300 + n
  | .ctl n => 0x400 + n

/-- NV, RLEN, MAXVL and PLEN (11 R242). -/
def CRegs.nv (c : CRegs) : Nat := 2 ^ c.nvlog
def CRegs.rlen (c : CRegs) : Nat := 32768 / c.nv
def CRegs.sewBits (c : CRegs) : Nat := 8 * 2 ^ c.sew
def CRegs.maxvl (c : CRegs) : Nat := min 8192 (c.rlen * 8 / c.sewBits)
def CRegs.plen (c : CRegs) : Nat := min 8192 c.rlen

/-- A control-register number that R244 assigns. -/
def ctlExists (n : Nat) : Bool := n ≤ 0x1E || (0x20 ≤ n && n ≤ 0x29)

/-- The register exists (11 R243, 13 R301). -/
def Seq.exists_ (q : Seq) : RegRef → Bool
  | .g n => n < 32
  | .v n => n < q.c.nv
  | .p n => n < 8
  | .a n => n < 8 && q.n.claim.getLsbD n
  | .ctl n => ctlExists n

/-! ## Rounding control and flags -/

/-- FCTL.RM, FCTL.SAT and FCTL.LA (10 R220). -/
def CRegs.rm (c : CRegs) : Nat := c.fctl.toNat % 8
def CRegs.sat (c : CRegs) : Bool := c.fctl.getLsbD 3
def CRegs.la (c : CRegs) : Bool := c.fctl.getLsbD 4

/-- Sticky flags set (10 R226). -/
def Seq.raise (q : Seq) (f : BitVec 6) : Seq := { q with c := { q.c with fflags := q.c.fflags ||| f } }

/-! ## Writing a scalar register -/

/-- A write of g[d], refused below the stack limit (11 R270). -/
def writeG (d : Nat) (v : DWord) (s : State) : Res Unit :=
  let q := s.me
  if d = 31 ∧ q.c.slim ≠ 0 ∧ v.toNat < q.c.slim.toNat then .trap 0x08 v.toNat s
  else .ok () (s.updMe fun q => q.gSet d v)

/-- A write of g[d] that arrives later (14 R305, 18 R397). -/
def produceG (d : Nat) (v : DWord) (s : State) : Res Unit :=
  let q := s.me
  if d = 31 ∧ q.c.slim ≠ 0 ∧ v.toNat < q.c.slim.toNat then .trap 0x08 v.toNat s
  else if d = 0 then .ok () s
  else .ok () (s.updMe fun q => q.produce (.g d) v.toNat)

/-! ## The latches of a cluster (06 R126, R138; 17 R378, R386) -/

/-- What a latch unit holds for sequencer `k`: nothing of what another has put there (log 17). -/
def LatchUnit.held (u : LatchUnit) (k : Agent) : Option Latch := if u.holder = some k then some u.latch else none

/-- A latch unit emptied of what `k` put there; the interface it was last used for is kept. -/
def LatchUnit.clear (u : LatchUnit) (k : Agent) : LatchUnit := if u.holder = some k then { u with latch := {}, holder := none } else u

/-- The operand latch of sequencer `k`'s cluster, as `k` has filled it. -/
def State.latch (s : State) (k : Agent) : Latch := ((s.latches.getD (clusterOfSeq k) {}).held k).getD {}
/-- The pair latch that holds the deposit made for `k`. -/
def State.pairLatch (s : State) (k : Agent) : Option Latch := (s.pairLatches.getD (clusterOfSeq k) {}).held k

/-- The operand latch filled by `k`: what another sequencer had there is lost to it. -/
def setLatch (k : Agent) (l : Latch) (s : State) : State :=
  { s with latches := s.latches.set (clusterOfSeq k) { latch := l, holder := some k, vi := (s.seq k).vi } }
/-- A deposit for sequencer `k`. -/
def setPairLatch (k : Agent) (l : Latch) (s : State) : State :=
  { s with pairLatches := s.pairLatches.set (clusterOfSeq k) { latch := l, holder := some k, vi := (s.seq k).vi } }
def clearLatch (k : Agent) (s : State) : State :=
  { s with latches := s.latches.map fun e => if e.1 = clusterOfSeq k then (e.1, e.2.clear k) else e }
def clearPairLatch (k : Agent) (s : State) : State :=
  { s with pairLatches := s.pairLatches.map fun e => if e.1 = clusterOfSeq k then (e.1, e.2.clear k) else e }

/-! ## Control registers (11 R244, R245) -/

/-- TSTAT as it reads. -/
def NRegs.tstat (n : NRegs) : Nat :=
  (if n.estep then 8 else 0) + (if n.rbk then 4 else 0) + (if n.priv then 2 else 0) + (if n.intrap then 1 else 0)

/-- VSTATE as it reads. -/
def Seq.vstate (q : Seq) : Nat := (if q.strip.isSome then 2 ^ 15 else 0) + q.c.nvlog * 256 + q.c.sew

/-- The value of a control register (R244). -/
def ctlRead (k : Agent) (n : Nat) (s : State) : DWord :=
  let q := s.seq k
  match n with
  | 0x00 => BitVec.ofNat 64 q.c.vl
  | 0x01 => BitVec.ofNat 64 q.c.maxvl
  | 0x02 => BitVec.ofNat 64 q.vstate
  | 0x03 => BitVec.ofNat 64 q.c.vstart
  | 0x04 => q.c.vmask.setWidth 64
  | 0x05 => q.c.vstride
  | 0x06 => 131072
  | 0x07 => BitVec.ofNat 64 q.n.fmask
  | 0x08 => q.c.fctl.setWidth 64
  | 0x09 => q.c.fflags.setWidth 64
  | 0x0A => q.c.mfmt.setWidth 64
  | 0x0B => q.c.splane
  | 0x0C => q.c.seed
  | 0x0D => q.n.strips
  | 0x0E => BitVec.ofNat 64 q.pts
  | 0x0F => BitVec.ofNat 64 q.c.lease
  | 0x10 => q.c.slim
  | 0x11 => BitVec.ofNat 64 q.n.stgbase
  | 0x12 => q.n.lcnt
  | 0x1B => q.n.promise
  | 0x1C => q.c.pairwait
  | 0x1D => q.n.sreplay
  | 0x1E => BitVec.ofNat 64 q.n.sfault
  | 0x20 => q.n.tvec
  | 0x21 => q.n.epc
  | 0x22 => q.n.cause
  | 0x23 => q.n.tval
  | 0x24 => BitVec.ofNat 64 q.n.tstat
  | 0x25 => q.n.escr0
  | 0x26 => q.n.escr1
  | 0x27 => BitVec.ofNat 64 (q.n.claim.toNat * 256 + (if (s.latch k).lv then 1 else 0))
  | 0x28 => BitVec.ofNat 64 s.cycle
  | 0x29 => BitVec.ofNat 64 (q.gen * 65536 + k)
  | n => if 0x13 ≤ n ∧ n ≤ 0x1A then q.n.lidx.getD (n - 0x13) 0 else 0

/-- Reading SREPLAY clears it (R5, R244). -/
def ctlReadEffect (n : Nat) (q : Seq) : Seq :=
  if n = 0x1D then { q with n := { q.n with sreplay := 0 } } else q

/-- A write by CTLW, CTLS, CTLC or CTLX under the register's map (14 R308): RO and RC registers and fields are kept. -/
def ctlWrite (n : Nat) (v : DWord) (q : Seq) : Seq :=
  match n with
  | 0x03 => { q with c := { q.c with vstart := v.toNat % 65536 } }
  | 0x04 => { q with c := { q.c with vmask := v.setWidth 4 } }
  | 0x05 => { q with c := { q.c with vstride := v } }
  | 0x07 => { q with n := { q.n with fmask := setBitsAt q.n.fmask 0 64 v.toNat } }
  | 0x08 =>
    let rm := if v.toNat % 8 ≤ 4 then v.toNat % 8 else q.c.rm
    { q with c := { q.c with fctl := BitVec.ofNat 5 (v.toNat / 8 % 4 * 8 + rm) } }
  | 0x09 => { q with c := { q.c with fflags := v.setWidth 6 } }
  | 0x0A => { q with c := { q.c with mfmt := v.setWidth 7 } }
  | 0x0B => { q with c := { q.c with splane := BitVec.ofNat 64 (v.toNat % 2 ^ 57 / 2 * 2) } }
  | 0x0C => { q with c := { q.c with seed := v } }
  | 0x0F => { q with c := { q.c with lease := if v = 0 then 1 else min v.toNat 4096 } }
  | 0x10 => { q with c := { q.c with slim := v } }
  | 0x1C => { q with c := { q.c with pairwait := if v = 0 then 1 else v } }
  | 0x20 => { q with n := { q.n with tvec := v } }
  | 0x21 => { q with n := { q.n with epc := v } }
  | 0x22 => { q with n := { q.n with cause := v } }
  | 0x23 => { q with n := { q.n with tval := v } }
  | 0x24 => { q with n := { q.n with estep := v.getLsbD 3, rbk := v.getLsbD 2, intrap := v.getLsbD 0 } }
  | 0x25 => { q with n := { q.n with escr0 := v } }
  | 0x26 => { q with n := { q.n with escr1 := v } }
  | _ => q

/-! ## Loop stack (14 R322, R324) -/

/-- END of an entry: the last body instruction. -/
def LoopEntry.stop (e : LoopEntry) : DWord := e.start + BitVec.ofNat 64 (4 * e.len)

/-- LoopStep at the retirement of `x`: the stack and where the pc goes. The stack's top is the list's head. -/
def loopStep (x : DWord) : List LoopEntry → List LoopEntry × DWord
  | [] => ([], x + 4)
  | e :: es =>
    if e.stop = x then
      if e.index + 1 < e.count then ({ e with index := e.index + 1 } :: es, e.start)
      else loopStep x es
    else (e :: es, x + 4)

/-! ## Rolling back, trapping, returning -/

/-- Whether a pending result belongs to sequencer `k` (11 R241). -/
def Due.isResultOf (k : Agent) : Due → Bool
  | .longLatencyResult j _ _ => j = k
  | _ => false

/-- The checkpoint restored, the strip's effects gone (11 R249, R241). The lines held are let go by the caller. Pages that a
serviced batch named stay pinned (R253). -/
def Seq.restore (q : Seq) : Seq :=
  match q.strip with
  | none => q
  | some st =>
    { q with
      pc := st.ckpt.pc, g := st.ckpt.g, p := st.ckpt.p, loops := st.ckpt.loops, c := st.ckpt.c
      full := { q.full with g := st.ckpt.gfull, p := st.ckpt.pfull, v := BitVec.allOnes 32 }
      strip := none, commit := none, note := none
      -- only a TLOAD from before the SETVL can still be on its way to a tile: its producer was not discarded
      arrivals := q.arrivals.filter fun a => match a.reg with | .a _ => true | _ => false
      estepDue := none, wants := [], inflight := []
      pins := q.pins.filter fun e => q.named.any fun p => e.vpage = p * 4096 / 2 ^ e.log }

/-- A sequencer whose line, owner's answer or home has come goes on: its instruction is executed again, its commit
continues. -/
def resume (k : Agent) (s : State) : State :=
  match (s.seq k).wait with
  | .line => s.wake k
  | .commit => s.post (.stripCommit k)
  | _ => s

/-! ## Chains (19 R420) -/

def chainKey (c : ChainId) : Nat := ((c.vi * 256 + c.cid) * 4 + c.die) * 8 + c.eng

/-- The chain that a key names. -/
def chainOfKey (n : Nat) : ChainId := { vi := n / 8192, cid := n / 32 % 256, die := n / 8 % 4, eng := n % 8 }

def State.chain (s : State) (c : ChainId) : Chain := s.chains.getD (chainKey c) {}
def State.updChain (s : State) (c : ChainId) (f : Chain → Chain) : State := { s with chains := s.chains.set (chainKey c) (f (s.chain c)) }

/-- The first command of a chain that has not completed: chains run their commands one at a time (log 38). -/
def State.headCmd (s : State) (c : ChainId) : Option Cmd := (s.chain c).cmds.head?

/-- The first command of a chain changed. -/
def State.updCmd (s : State) (c : ChainId) (f : Cmd → Cmd) : State :=
  s.updChain c fun ch => { ch with cmds := match ch.cmds with | x :: xs => f x :: xs | [] => [] }

/-- OP of an entry (19 R422). -/
def Cmd.op (x : Cmd) : Nat := bitsAt x.entry 64 8

/-- The step by which a chain's first command goes on. -/
def engDue (c : ChainId) (x : Cmd) : Option Due :=
  match x.phase with
  | .segment => some (.engineSegmentIssue c)
  | .operate => some (match c.eng, x.op with
      | 0, 0 => .dollyCopy c
      | 0, 1 => .dollyFill c
      | 0, _ => .dollyCopym c
      | 1, _ => .castDispatch c
      | 2, _ => .mixCombine c
      | 3, 0 => .collPut c
      | 3, 1 => .collReduce c
      | 3, _ => .collSignal c
      | _, _ => .dailiesDelta c)
  | .follow => some (.followOnMatrix c)
  | .record => some (.commandComplete c)
  | .batch => none

/-- A chain goes on. -/
def engGo (c : ChainId) (s : State) : State :=
  match s.headCmd c with
  | none => s
  | some x => match engDue c x with
    | none => s
    | some d => if d ∈ s.due then s else s.post d

/-- What waits at a line is taken up again, in arrival order, ahead of what came later (08 R185). -/
def serveWaiting (x : Nat) (s : State) : State :=
  match s.waiting.find x with
  | none => s
  | some ws =>
    let s := { s with waiting := s.waiting.erase x }
    let reqs := ws.filterMap fun w => match w with | .req d => some d | _ => none
    let ks := ws.filterMap fun w => match w with | .again k => some k | _ => none
    let cs := ws.filterMap fun w => match w with | .eng c => some c | _ => none
    let s := { s with due := reqs ++ s.due }
    thread engGo (dedup cs) (thread resume ks s)

/-- The slice of a cluster that holds a line: PA bits 8:7 XOR PA bits 16:15 (06 R131). -/
def l1Slice (x : Nat) : Nat := bitsAt x 0 2 ^^^ bitsAt x 8 2

/-- The L1 slice, numbered over the device, that holds a line for cluster `c`; the cluster of a slice. -/
def sliceOf (c x : Nat) : Nat := 4 * c + l1Slice x
def clusterOfSlice (sl : Nat) : Nat := sl / 4

/-- The agent that holds a line for cluster `c` (06 R132). -/
def l1Of (c x : Nat) : Owner := .l1 (sliceOf c x)

/-- Recalls a commit or an ownership-mode run held back are answered now (07 R158), and what waited for its lines goes
on. -/
def letGo (k : Agent) (s : State) : State :=
  let q := s.seq k
  let s := s.upd k fun q => { q with holds := [], deferred := [] }
  let s := { s with due := s.due ++ q.deferred.map fun d => .rcl (l1Of (clusterOfSeq k) d.1) d.1 d.2.1 d.2.2 }
  thread serveWaiting q.holds s

/-! ## Pins (04 R95, R96) -/

def TlbEntry.covers (e : TlbEntry) (vi cid va : Nat) : Bool :=
  e.vi = vi && e.cid = cid && e.vpage = va / 2 ^ e.log

/-- The entries an invalidation names: 0 a virtual address, 1 a context, 2 the interface (19 R445). -/
def Inval.names (i : Inval) (e : TlbEntry) : Bool :=
  match i.kind with
  | 0 => e.covers i.vi i.cid i.va
  | 1 => e.vi = i.vi && e.cid = i.cid
  | _ => e.vi = i.vi

/-- The translations a sequencer's accesses go through whatever becomes of the caches: its pins, those of the instruction in
progress with them, and the one of an access in flight. -/
def Seq.heldPins (q : Seq) : List TlbEntry := q.pins ++ q.inflight.map Prod.snd

/-- The pages of the instruction in progress: `pinned` for one that the instruction pins before its first element performs (R95), else
a page that an access in flight uses (R96). -/
def Seq.uses (q : Seq) (pinned : Bool) (e : TlbEntry) : Seq :=
  if (pinned, e) ∈ q.inflight then q else { q with inflight := q.inflight ++ [(pinned, e)] }

/-- Invalidations wait for a holder no longer where it holds nothing that they name; those of the host are judged again (03 R54,
R55). -/
def dropHolder (h : Nat) (held : List TlbEntry) (s : State) : State :=
  let s : State := { s with seqs := s.seqs.map fun e => match e.2.inval with
      | some i => if i.holders.contains h && !held.any i.names
          then (e.1, { e.2 with inval := some { i with holders := i.holders.filter (· ≠ h) } }) else e
      | none => e }
  let own : List Due := if s.mgmt.ownBusy then [.owncmdDone] else []
  let ranges : List Due := (s.vis.filter fun e => e.2.hrBusy).map fun e => .hostRangeInvalidateDone e.1
  { s with due := s.due ++ own ++ ranges }

/-- Sequencer `k` has let pins go. -/
def unpinned (k : Agent) (s : State) : State := dropHolder k (s.seq k).heldPins s

/-- The instruction in progress uses its pages no more. -/
def endAccess (k : Agent) (s : State) : State :=
  if (s.seq k).inflight = [] then s else unpinned k (s.upd k fun q => { q with inflight := [] })

/-- The number under which a chain holds pins. -/
def chainHolder (c : ChainId) : Nat := 2 ^ 20 + (chainKey c)

/-- The first command of a chain holds no pins any more. -/
def engUnpin (c : ChainId) (s : State) : State := dropHolder (chainHolder c) [] (s.updCmd c fun x => { x with pins := [] })

/-- A posted store of sender `h` has performed, or will not: no invalidation waits for it (04 R96). -/
def dropStore (h : Nat) (p : PeerStore) (s : State) : State :=
  { s with seqs := s.seqs.map fun e => match e.2.inval with
      | some i => if (h, p) ∈ i.stores then (e.1, { e.2 with inval := some { i with stores := i.stores.erase (h, p) } }) else e
      | none => e }

/-- A rollback of any kind (11 R249): the strip's results in flight are dropped with it. -/
def rollBack (k : Agent) (s : State) : State :=
  let s := { s with due := s.due.filter fun d => !d.isResultOf k }
  letGo k (unpinned k (s.upd k Seq.restore))

/-- A rollback caused by a fault or trap counts in SFAULT, and the granted VL is kept for the cut (11 R253). -/
def countFault (k : Agent) (s : State) : State :=
  s.upd k fun q => match q.strip with
    | none => q
    | some st => { q with n := { q.n with sfault := min 3 (q.n.sfault + 1) }, cut := some st.granted }

/-! ## The matrix unit of a cluster (06 R135; 17 R386, R387) -/

/-- The job whose turn it is at the array of cluster `c`: the first in arrival order (06 R135). -/
def matrixTurn (c : Nat) (s : State) : Option MatrixJob := (s.matrix.getD c []).head?

/-- The other half of a pair: cluster c XOR 1 of the die, the same core and slot (06 R137). -/
def partner (k : Agent) : Agent := k / 64 * 64 + (k + 32) % 64

/-- Sequencer `k` executes a MOP.PAIR whose chunks run. -/
def pairRuns (k : Agent) (s : State) : Bool :=
  match (s.seq k).mop, (s.seq k).wait with
  | some m, .matrix => m.form = 2
  | _, _ => false

/-- The job whose turn has come starts: the instruction is executed again, a follow-on starts. -/
def matrixStart (c : Nat) (s : State) : State :=
  match matrixTurn c s with
  | none => s
  | some (.follow x) => engGo x s
  | some (.seq k) => s.wake k

/-- A job leaves the queue: the next has its turn, and those that found the queue full try again. -/
def matrixLeave (c : Nat) (j : MatrixJob) (s : State) : State :=
  let jobs := s.matrix.getD c []
  if j ∉ jobs then s
  else
    let before := matrixTurn c s
    let s := { s with matrix := s.matrix.set c (jobs.filter (· ≠ j)) }
    let s := if before = some j then matrixStart c s else s
    let outside := (s.seqs.filter fun e => decide (clusterOfSeq e.1 = c) && decide (e.2.wait = .matrix) && e.2.follow = 0
      && !jobs.contains (.seq e.1)).map Prod.fst
    let follows := (s.chains.filter fun e => match e.2.cmds with
      | x :: _ => x.phase = .follow && clusterOfSeq x.k = c && !jobs.contains (.follow (chainOfKey e.1))
      | [] => false).map fun e => chainOfKey e.1
    thread engGo follows (thread (fun k s => s.wake k) outside s)

/-- Sequencer `k` has no matrix instruction any more. A partner whose chunks run meets its next chunk boundary (17 R387). -/
def matrixDrop (k : Agent) (s : State) : State :=
  let runs := pairRuns k s
  let s := matrixLeave (clusterOfSeq k) (.seq k) (s.upd k fun q => { q with mop := none })
  if runs && pairRuns (partner k) s then s.post (.matrixChunk (partner k)) else s

/-- Every vector register takes a free value and is full (11 R242, 17 R375; log 5): what was on its way to one is gone. -/
def undefineV (k : Agent) (s : State) : State :=
  let q := s.seq k
  let n := 2 ^ q.c.nvlog
  let bits := 8 * (32768 / n)
  let free := Vector.ofFn fun (i : Fin 32) => if i.val < n then Config.freeBits (s.fresh + i.val) % 2 ^ bits else 0
  let s := s.setSeq k
    { q with v := free, full := { q.full with v := BitVec.allOnes 32 }
             arrivals := q.arrivals.filter fun a => match a.reg with | .v _ => false | _ => true }
  { s with fresh := s.fresh + 32, due := s.due.filter fun d => match d with
      | .longLatencyResult j (.v _) _ => j ≠ k
      | _ => true }

/-- The key under which a wait watches a Stage bank word. -/
def stageKey (w : Nat) : Nat := 2 ^ 60 + w

/-- The sequencer is parked nowhere (18 R407). -/
def unpark (k : Agent) (s : State) : State :=
  match (s.seq k).note with
  | none => s
  | some n =>
    if n.parked = [] then s
    else
      let s := s.upd k fun q => { q with note := some { n with parked := [] } }
      { s with
        homes := s.homes.map fun e => if e.1 ∈ n.parked then (e.1, { e.2 with waiters := e.2.waiters.filter (· ≠ k) }) else e
        slices := s.slices.map fun e => (e.1, { e.2 with overflow := e.2.overflow.filter fun w => w.1 ≠ k })
        stageWait := s.stageWait.map fun e => (e.1, e.2.filter (· ≠ k)) }

/-- Contexts of an interface. -/
def State.vi (s : State) (n : Nat) : Vi := s.vis.getD n {}
def State.updVi (s : State) (n : Nat) (f : Vi → Vi) : State := { s with vis := s.vis.set n (f (s.vi n)) }

/-- A fault batch of sequencer `k` that has not reached the ring is withdrawn (03 R477, 05 R119). -/
def withdraw (k : Agent) (s : State) : State :=
  let q := s.seq k
  match q.wait with
  | .posting => s.updVi q.vi fun v => { v with ring := { v.ring with queue := v.ring.queue.filter fun p => match p.post with
      | .batch (.seq j) _ _ _ _ => j ≠ k
      | _ => true } }
  | _ => s

/-- The deposit of a MOP.PAIR that waits for its partner is withdrawn (17 R387). -/
def withdrawPair (k : Agent) (s : State) : State :=
  match (s.seq k).wait with
  | .pair _ => matrixDrop k (clearPairLatch (partner k) s)
  | _ => s

/-- A sequencer whose work ends leaves the latches; a deposit by a partner that still waits stays (17 R387). -/
def leaveLatches (k : Agent) (s : State) : State :=
  match (s.seq (partner k)).wait with
  | .pair _ => clearLatch k s
  | _ => clearPairLatch k (clearLatch k s)

/-- What a sequencer holds when it has no call entry. -/
def Seq.unbound (q : Seq) : Seq :=
  { q with bound := none, wait := .run, note := none, preempt := none, pins := [], inflight := [], named := [], phase := [], inval := none,
           n := { q.n with claim := 0 }, phys := [], wants := [], halted := false, stepReq := 0,
           pinLate := false, follow := 0, arrivals := [], came := [], forced := false, fails := 0,
           age := none, cut := none }

/-- The sequencer has no call entry any more; dispatch clears the entry (05 R113). -/
def unbind (k : Agent) (s : State) : State :=
  let vi := (s.seq k).vi
  let cid := (s.seq k).cid
  let s := leaveLatches k (matrixDrop k (rollBack k (withdrawPair k (unpark k (withdraw k s)))))
  let s := s.upd k Seq.unbound
  let s := (unpinned k s).updDie (dieOfSeq k) fun die =>
    { die with rows := die.rows.modify (k % 2048) [] fun es => es.drop 1 }
  let s := if (s.vi vi).ctxs.any fun e => e.1 = cid && e.2.dying then s.post (.ctxcmdDone vi) else s
  if (s.die (dieOfSeq k)).rows.getD (k % 2048) [] = [] then s else s.post (.dispatchStart k)

/-- A context's work is given up (03 R56, R58): its queues hold none in flight, its saved contexts and the call entries
that have not started are gone, and its slates are abandoned. -/
def dropWork (vi cid : Nat) (s : State) : State :=
  let mine (b : Binding) : Bool := b.vi = vi && b.cid = cid
  let s := s.updVi vi fun v =>
    { v with
      ctxs := v.ctxs.map fun e => if e.1 = cid then (e.1, { e.2 with saved := [] }) else e
      queues := v.queues.map fun e => if e.2.ctx = cid then (e.1, { e.2 with ready := [], inflight := [], doneSet := [] }) else e }
  let slots := (s.slates.filter fun e => e.2.vi = vi && e.2.cid = cid).map Prod.fst
  let slates := s.slates.map fun (e : Nat × Slate) => if e.1 ∈ slots then (e.1, { e.2 with abandoned := true }) else e
  let row (d : Nat) (r : Nat × List CallEntry) : Nat × List CallEntry :=
    let n := if (s.seq (2048 * d + r.1)).bound.any mine then 1 else 0
    (r.1, r.2.take n ++ (r.2.drop n).filter fun c => !mine c.work)
  let s := (List.range 4).foldl (fun s d => s.updDie d fun x => { x with rows := x.rows.map (row d) }) { s with slates := slates }
  let ends : List Due := slots.map fun n => .slateComplete n
  { s with due := s.due ++ ends }

/-- The sequencers that work for a context. -/
def boundTo (vi cid : Nat) (s : State) : List Agent :=
  (s.seqs.filter fun e => e.2.bound.any fun b => b.vi = vi && b.cid = cid).map Prod.fst

/-- Work of a context stops: its sequencers at once. -/
def stopContext (vi cid : Nat) (s : State) : State :=
  let s := dropWork vi cid s
  thread unbind (boundTo vi cid s) s

/-- A context becomes LOST (03 R58): its queues halt with ERR 2, its work stops, and the event given is posted. -/
def loseContext (vi cid kind detail pc : Nat) (s : State) : State :=
  let s := s.updVi vi fun v =>
    { v with
      ctxs := v.ctxs.map fun e => if e.1 = cid then (e.1, { e.2 with lost := true }) else e
      queues := v.queues.map fun e => if e.2.ctx = cid then (e.1, { e.2 with halt := true, err := 2 }) else e }
  (stopContext vi cid s).post (.eventPost (.vi vi) kind cid detail pc)

/-- A trap with no handler, or inside a handler (11 R259). -/
def contextFails (k cause : Nat) (pc : DWord) (s : State) : State :=
  let q := s.seq k
  loseContext q.vi q.cid 0x08 (cause % 256) pc.toNat s

/-- The pc is 4-byte aligned (11 R238): the two low bits of TVEC and EPC take no part (log 26). -/
def aligned (x : DWord) : DWord := x &&& ~~~3

/-- TAKING A TRAP (11 R258): an open strip rolls back and RBK tells so; EPC, CAUSE and TVAL are saved, INTRAP is set and
the pc goes to TVEC; with no handler, or inside one, the context fails. The link epoch rises (18 R403). -/
def takeTrap (k cause : Nat) (val : Nat) (s : State) : State :=
  let open_ := (s.seq k).strip.isSome
  let s := if open_ then rollBack k (countFault k s) else s
  let s := s.upd k fun q => { q with n := { q.n with rbk := open_ }, note := none, wait := .run }
  let q := s.seq k
  if q.n.tvec = 0 ∨ q.n.intrap then contextFails k cause q.pc s
  else s.upd k fun q =>
    { q with
      n := { q.n with epc := q.pc, cause := BitVec.ofNat 64 cause, tval := BitVec.ofNat 64 val, intrap := true }
      pc := aligned q.n.tvec
      linkEpoch := (q.linkEpoch + 1) % 65536 }

/-- THE RETURN FROM A TRAP (11 R260). -/
def trapReturn (k : Agent) (s : State) : State :=
  s.upd k fun q => { q with pc := aligned q.n.epc, n := { q.n with intrap := false } }

end Sys2Proof.Machine
end

