-- ==== Sys2Proof/Machine/Operands.lean ====
section
/-!
DEFINITION. Judging a decoded word (spec/13_encoding.md R301) and retiring an instruction: the register fields, the
sources with their empty-register policy (spec/11_execution_state.md R240), the strip closed first where an instruction
closes one (R248), the pc and loop stack moved (spec/14_scalar.md R324), stepping (R266), and the traps and fault
batches an instruction ends in.
-/
namespace Sys2Proof.Machine

abbrev Out := Host.Outcome State Fault Refusal

/-- What R301 asks of a decoded word: the instruction word (TVAL of an illegal operand), privilege, the register fields
and the sources in the rule's order, each source with its E bit, the destinations, whether the type is accepted, whether
all g and p registers must be full first (R240), and whether it closes an open strip (R248). -/
structure Operands where
  word : Nat
  priv : Bool := false
  regs : List RegRef := []
  typeOk : Bool := true
  sources : List (RegRef × Bool) := []
  dests : List RegRef := []
  closes : Bool := false

/-! ## Retiring -/

/-- The pc and the loop stack after an instruction at the pc (14 R324). -/
def Seq.advance (q : Seq) : Flow → Seq
  | .next | .group _ true =>
    let r := loopStep q.pc q.loops
    { q with loops := r.1, pc := r.2 }
  | .jump t => { q with pc := t }
  | .stay | .group _ false => q

/-- Element stepping is on (11 R266). -/
def Seq.estepOn (q : Seq) : Bool := q.n.estep && q.n.tvec ≠ 0 && !q.n.intrap

/-- A vector instruction executes one group at a time: under ESTEP or a host's element-group step (11 R266). -/
def Seq.grouped (q : Seq) : Bool := q.estepOn || q.stepReq = 2

/-- The index that an element-step trap reports (11 R266). -/
def Flow.elem : Flow → Nat
  | .group e _ => e
  | _ => 0

/-- A host's step ends: the sequencer halts again (11 R266). -/
def Seq.stepDone (q : Seq) (f : Flow) : Seq :=
  if q.stepReq = 0 then q
  else match f with
    | .group _ false => if q.stepReq = 2 then { q with stepReq := 0, halted := true } else q
    | _ => { q with stepReq := 0, halted := true }

/-- An instruction retires. `before` is the sequencer at its issue: stepping is on when it was on then and still is, and
a host command takes no step trap (11 R266; log 19). -/
def Seq.retire (q before : Seq) (f : Flow) : Seq :=
  let q := { q with note := none }.advance f
  let q := if before.estepOn && q.estepOn && before.stepReq = 0 then { q with estepDue := some f.elem } else q
  q.stepDone f

/-- A fault batch of sequencer `k` waits to be posted in its interface's ring (11 R252, 03 R66). -/
def postFaults (k : Agent) (es : List FaultEntry) (s : State) : State :=
  let q := s.seq k
  let s := s.updVi q.vi fun v =>
    { v with ring := { v.ring with queue := v.ring.queue ++ [{ post := .batch (.seq k) q.cid q.pc.toNat 0 es }] } }
  (s.upd k fun q => { q with wait := .posting, note := none }).post (.faultBatchPost q.vi)

/-- Sequencer `k` takes a trap and, under a host's step, halts at the handler. -/
def trapSeq (k cause val : Nat) (s : State) : State := (takeTrap k cause val s).upd k fun q => q.stepDone .next

/-- Lines an instruction outside a strip held for its stores are let go (07 R158). -/
def tidy (k : Agent) (s : State) : State :=
  if (s.seq k).holds = [] ∨ (s.seq k).strip.isSome then s else letGo k s

/-- Accesses of the instruction are in flight while it waits for them (04 R96). -/
def Seq.accessing (q : Seq) : Bool :=
  match q.wait with
  | .run | .line | .peer | .host => true
  | _ => false

/-- What an instruction's answer does to the machine. -/
def settle (k : Agent) (before : Seq) : Res Flow → State
  | .ok f s => (tidy k (endAccess k s)).upd k fun q => q.retire before f
  | .wait s => if (s.seq k).accessing then s else endAccess k s
  | .trap c v s => trapSeq k c v (tidy k (endAccess k s))
  | .fault es s => postFaults k es (tidy k (endAccess k s))

/-! ## Judging a word -/

/-- The first register field that does not exist (R243, R301). -/
def Operands.badReg (o : Operands) (q : Seq) : Option RegRef := o.regs.find? fun r => !q.exists_ r

/-- The first empty source whose policy is to trap. -/
def Operands.emptyTrap (o : Operands) (q : Seq) : Option RegRef :=
  (o.sources.find? fun x => x.2 && !q.isFull x.1).map Prod.fst

/-- Whether the instruction may execute: every source and destination full, and where it closes a strip all g and p
registers (R240). -/
def Operands.ready (o : Operands) (q : Seq) : Bool :=
  o.sources.all (fun x => q.isFull x.1) && o.dests.all q.isFull && (!o.closes || q.allFull)

/-- What an instruction does, whole: where the value that it would write to sp lies below the stack limit, it traps with no effect
(11 R258, R270), and what it had done in this turn is not done. -/
def perform (k : Agent) (before : Seq) (body : State → Res Flow) (s : State) : State :=
  match body s with
  | .trap c v t => settle k before (.trap c v (if c = 0x08 then s else t))
  | r => settle k before r

/-- Executes an instruction of the current sequencer after the checks of R301. -/
def issue (o : Operands) (body : State → Res Flow) (s : State) : Out :=
  let q := s.me
  .next <|
    if o.priv && !q.n.priv then trapSeq s.cur 0x05 0 s
    else match o.badReg q with
      | some r => trapSeq s.cur 0x02 (regCode r) s
      | none =>
        if !o.typeOk then trapSeq s.cur 0x03 o.word s
        else match o.emptyTrap q with
          | some r => trapSeq s.cur 0x06 (regCode r) s
          | none =>
            if !o.ready q then s.waitFor s.cur .full
            else if o.closes && q.strip.isSome then (s.waitFor s.cur .commit).post (.stripCommit s.cur)
            else perform s.cur q body s

/-! ## Operands of the usual shapes -/

/-- The E bit of a source. -/
def eb (e : BitVec 1) : Bool := e = 1

/-- The g register a field names. -/
def gr (n : BitVec 5) : RegRef := .g n.toNat
def vr (n : BitVec 5) : RegRef := .v n.toNat
def pr (n : BitVec 5) : RegRef := .p n.toNat
def ar (n : BitVec 5) : RegRef := .a n.toNat

/-- A destination and two sources, each in its register class. -/
def ops3 (w : Nat) (d a b : RegRef) (e f : BitVec 1) (ok : Bool) : Operands :=
  { word := w, regs := [d, a, b], typeOk := ok, sources := [(a, eb e), (b, eb f)], dests := [d] }

/-- A destination and one source. -/
def ops2 (w : Nat) (d a : RegRef) (e : BitVec 1) (ok : Bool) : Operands :=
  { word := w, regs := [d, a], typeOk := ok, sources := [(a, eb e)], dests := [d] }

/-- One source. -/
def ops1 (w : Nat) (a : RegRef) (e : BitVec 1) : Operands :=
  { word := w, regs := [a], sources := [(a, eb e)] }

/-- A destination alone. -/
def opsD (w : Nat) (d : RegRef) : Operands := { word := w, regs := [d], dests := [d] }

/-- An instruction that closes the strip first. -/
def Operands.closing (o : Operands) : Operands := { o with closes := true }

end Sys2Proof.Machine
end

