-- ==== Sys2Proof/Machine/Shake.lean ====
section
/-!
DEFINITION. SHAKE256 (FIPS 202), which the spec names for stochastic bits (spec/10_numbers.md R222), block hashes (spec/
19_engines_system.md R435) and image measurements (spec/01_package.md R28); the standard itself is outside the spec (log 18).
The permutation's 1600 bits are one vector of five planes of five lanes, the lane in column x of plane y at bit 64 (5 y + x), and
tables are computed as the standard defines them.
-/
namespace Sys2Proof.Machine.Shake

/-- The permutation's state. -/
abbrev Sponge := BitVec 1600

/-- One plane: the five lanes of equal y. -/
abbrev Plane := BitVec 320

def plane (a : Sponge) (y : Nat) : Plane := a.extractLsb' (320 * y) 320

/-- A state put together from its planes. -/
def ofPlanes (f : Nat → Plane) : Sponge := f 4 ++ f 3 ++ f 2 ++ f 1 ++ f 0

/-- Every lane of a plane rotated by one bit. -/
def spin (p : Plane) : Plane :=
  let low : Plane := BitVec.ofNat 320 (((2 ^ 320 - 1) / (2 ^ 64 - 1)))
  ((p <<< 1) &&& ~~~low) ||| ((p >>> 63) &&& low)

/-- Step θ: each column takes the parity of its neighbours. -/
def theta (a : Sponge) : Sponge :=
  let par := plane a 0 ^^^ plane a 1 ^^^ plane a 2 ^^^ plane a 3 ^^^ plane a 4
  let mix := par.rotateLeft 64 ^^^ spin (par.rotateRight 64)
  ofPlanes fun y => plane a y ^^^ mix

/-- Steps ρ and π: lanes move along the walk (x, y) → (y, 2x + 3y) that starts at (1, 0), the t-th of them turned by (t + 1)(t + 2)/2. -/
def walk (a : Sponge) : (n t x y : Nat) → Sponge → Sponge
  | 0, _, _, _, b => b
  | n + 1, t, x, y, b =>
    let y2 := (2 * x + 3 * y) % 5
    let moved := (a.extractLsb' (64 * (5 * y + x)) 64).rotateLeft ((t + 1) * (t + 2) / 2)
    walk a n (t + 1) y y2 (b ||| moved.setWidth 1600 <<< (64 * (5 * y2 + y)))

/-- Step χ, a plane at a time. -/
def chi (a : Sponge) : Sponge :=
  ofPlanes fun y =>
    let p := plane a y
    p ^^^ (~~~(p.rotateRight 64) &&& p.rotateRight 128)

/-- The shift register of step ι after one step. -/
def nextBit (r : Nat) : Nat := if 128 ≤ r then (2 * r) ^^^ 0x171 else 2 * r

/-- Step ι: the register gives bit 2^j − 1 of lane 0 at its j-th step of the round, and goes on. -/
def iota (a : Sponge) : (n j r : Nat) → Sponge × Nat
  | 0, _, r => (a, r)
  | n + 1, j, r =>
    let x := iota a n (j + 1) (nextBit r)
    (if r % 2 = 1 then x.1 ^^^ BitVec.ofNat 1600 (2 ^ (2 ^ j - 1)) else x.1, x.2)

/-- The rounds. -/
def rounds : (n r : Nat) → Sponge → Sponge
  | 0, _, a => a
  | n + 1, r, a =>
    let m := theta a
    let x := iota (chi (walk m 24 0 1 0 ((m.setWidth 64).setWidth 1600))) 7 0 r
    rounds n x.2 x.1

def permute (a : Sponge) : Sponge := rounds 24 1 a

/-- The blocks of 136 bytes of a padded message, given as a little-endian number, taken in. -/
def takeIn (msg : Nat) : (n : Nat) → Sponge → Sponge
  | 0, a => a
  | n + 1, a => takeIn (msg / 2 ^ 1088) n (permute (a ^^^ BitVec.ofNat 1600 (msg % 2 ^ 1088)))

/-- Output blocks. -/
def giveOut : (n : Nat) → Sponge → Nat
  | 0, _ => 0
  | n + 1, a => a.toNat % 2 ^ 1088 + (giveOut n (permute a)) * 2 ^ 1088

/-- The first `n` output bytes of SHAKE256 over the `len` low bytes of a number, both little-endian. -/
def shake256 (msg len n : Nat) : Nat :=
  let blocks := len / 136 + 1
  let padded := msg % 2 ^ (8 * len) + 0x1F * 2 ^ (8 * len) + 2 ^ (1088 * blocks - 1)
  giveOut ((n + 135) / 136) (takeIn padded blocks 0) % 2 ^ (8 * n)

/-- The first `n` output bytes over a list of bytes. -/
def shakeBytes (bs : List Byte) (n : Nat) : Nat :=
  shake256 (bs.foldr (fun b v => b.toNat + 256 * v) 0) bs.length n

/-- StochBits(e) of R222: the first four bytes over SEED, STRIPS and e. -/
def stochBits (seed strips e : Nat) : Nat :=
  shake256 (seed % 2 ^ 64 + (strips % 2 ^ 64) * 2 ^ 64 + (e % 2 ^ 32) * 2 ^ 128) 20 4

/-- The first 16 bytes over a 64 KiB block (19 R435). -/
def blockHash (block : Nat) : Nat := shake256 block 65536 16

end Sys2Proof.Machine.Shake
end

