-- ==== Sys2Proof/Machine/Flags.lean ====
section
/-!
DEFINITION. Rounding control and sticky flags as a sequencer's instructions use them (spec/10_numbers.md R220 to R227),
and the writes of a scalar result with its flags (spec/14_scalar.md R304 to R306).
-/
namespace Sys2Proof.Machine

/-- The rounding of element `e` under mode `rm`: FCTL.SAT, and the stochastic bits of SEED, STRIPS and e (R222). -/
def Seq.round (q : Seq) (rm e : Nat) : RoundCtl :=
  { rm := rm, sat := q.c.sat,
    stoch := if rm = 4 then Shake.stochBits q.c.seed.toNat q.n.strips.toNat e else 0 }

/-- The mode a variant selects: 0 is FCTL.RM, 1 to 5 fix a mode (14 R317). -/
def Seq.modeOf (q : Seq) (v : Nat) : Nat := if v = 0 then q.c.rm else v - 1

/-- The 64 bits a scalar register receives for a result of a type: sign-extended for sN, zero-extended otherwise
(14 R304). -/
def scalarOf (t bits : Nat) : DWord := BitVec.ofInt 64 (intVal t bits)

/-- g[d] written at once, with flags. -/
def putG (d : Nat) (v : DWord) (fl : BitVec 6) (s : State) : Res Flow :=
  (writeG d v s).andThen fun _ s => .ok .next (s.updMe fun q => q.raise fl)

/-- g[d] written when the long-latency unit answers, with flags: empty until then (14 R305). -/
def lateG (d : Nat) (v : DWord) (fl : BitVec 6) (s : State) : Res Flow :=
  let q := s.me
  if d = 31 ∧ q.c.slim ≠ 0 ∧ v.toNat < q.c.slim.toNat then .trap 0x08 v.toNat s
  else
    let s := s.updMe fun q => q.raise fl
    if d = 0 then .ok .next s
    else .ok .next ((s.updMe fun q => q.setFull (.g d) false).post (.longLatencyResult s.cur (.g d) v.toNat))

/-- LONG_LATENCY_RESULT (11 R239): the destination is written and full. -/
def execLongLatencyResult (k : Agent) (r : RegRef) (value : Nat) (s : State) : Out :=
  .next (s.upd k fun q => q.arrive r value)

end Sys2Proof.Machine
end

