-- ==== Sys2Proof/Machine/Scalar.lean ====
section
/-!
DEFINITION. The scalar instructions (spec/14_scalar.md): control registers (R308), integer operations (R310, R311),
immediates (R312, R313), bits and special integer work (R314 to R316) and floating point (R317, R318).
-/
namespace Sys2Proof.Machine

/-! ## Control registers -/

/-- CtlOp of R308: the old value goes to g[d] where there is one, unless sp may not take it (11 R270); `f` gives what is
written from the old value. -/
def ctlOp (d : Option Nat) (n : Nat) (f : Option (DWord → DWord)) (s : State) : Res Flow :=
  let old := ctlRead s.cur n s
  let write (s : State) : State := match f with | some f => s.updMe (ctlWrite n (f old)) | none => s
  match d with
  | some d => (putG d old 0 s).andThen fun fl s => .ok fl (write (s.updMe (ctlReadEffect n)))
  | none => .ok .next (write s)

/-- CTLR (14 R308). -/
def execCtlr (d : BitVec 5) (n : BitVec 8) (s : State) : Out :=
  issue { word := (Instr.ctlr d n).encodeNat, regs := [gr d, .ctl n.toNat], dests := [gr d] }
    (ctlOp (some d.toNat) n.toNat none) s

/-- CTLW (14 R308). -/
def execCtlw (a : BitVec 5) (e : BitVec 1) (n : BitVec 8) (s : State) : Out :=
  issue { word := (Instr.ctlw a e n).encodeNat, regs := [gr a, .ctl n.toNat], sources := [(gr a, eb e)] }
    (ctlOp none n.toNat (some fun _ => s.me.gRead a.toNat)) s

/-- CTLS (14 R308). -/
def execCtls (d a : BitVec 5) (e : BitVec 1) (n : BitVec 8) (s : State) : Out :=
  issue { word := (Instr.ctls d a e n).encodeNat, regs := [gr d, gr a, .ctl n.toNat], sources := [(gr a, eb e)],
          dests := [gr d] } (ctlOp (some d.toNat) n.toNat (some fun old => old ||| s.me.gRead a.toNat)) s

/-- CTLC (14 R308). -/
def execCtlc (d a : BitVec 5) (e : BitVec 1) (n : BitVec 8) (s : State) : Out :=
  issue { word := (Instr.ctlc d a e n).encodeNat, regs := [gr d, gr a, .ctl n.toNat], sources := [(gr a, eb e)],
          dests := [gr d] } (ctlOp (some d.toNat) n.toNat (some fun old => old &&& ~~~(s.me.gRead a.toNat))) s

/-- CTLX (14 R308). -/
def execCtlx (d a : BitVec 5) (e : BitVec 1) (n : BitVec 8) (s : State) : Out :=
  issue { word := (Instr.ctlx d a e n).encodeNat, regs := [gr d, gr a, .ctl n.toNat], sources := [(gr a, eb e)],
          dests := [gr d] } (ctlOp (some d.toNat) n.toNat (some fun _ => s.me.gRead a.toNat)) s

/-! ## Integer register operations (R310, R311) -/

/-- A result of type `t` written to g[d] from the sources' low bits. -/
def intOp (t d a b : Nat) (f : Nat → Nat → Nat × BitVec 6) (s : State) : Res Flow :=
  let q := s.me
  let r := f (q.gRead a).toNat (q.gRead b).toNat
  putG d (scalarOf t r.1) r.2 s

/-- The bits of `n` low bits of x rotated right by k. -/
def rotR (n x k : Nat) : Nat :=
  let x := x % 2 ^ n
  let k := k % n
  (x >>> k + (x <<< (n - k))) % 2 ^ n

/-- ADD, SUB and MUL: the exact result wrapped or clamped. -/
def arith (f : Int → Int → Int) (t : Nat) (sat : Bool) (x y : Nat) : Nat × BitVec 6 :=
  intResult t sat (f (intVal t x) (intVal t y))

/-- The high half of the product. -/
def mulHigh (t x y : Nat) : Nat × BitVec 6 := (intBits t ((intVal t x * intVal t y) / (2 ^ typeBits t : Nat)), 0)

def shiftLeft (t x y : Nat) : Nat × BitVec 6 := (intBits t (intVal t x * (2 ^ (y % typeBits t) : Nat)), 0)

/-- SHR: arithmetic for sN, logical for nN. -/
def shiftRight (t x y : Nat) : Nat × BitVec 6 := (intBits t (intVal t x / (2 ^ (y % typeBits t) : Nat)), 0)

def rotate (t : Nat) (left : Bool) (x y : Nat) : Nat × BitVec 6 :=
  let n := typeBits t
  (rotR n x (if left then n - y % n else y), 0)

/-- CMP's relations: 0 .EQ, 1 .NE, 2 .LT, 3 .LE, 4 .GT, 5 .GE. -/
def relation (cc : Nat) (x y : Int) : Bool :=
  match cc with
  | 0 => x = y | 1 => x ≠ y | 2 => x < y | 3 => x ≤ y | 4 => y < x | _ => y ≤ x

/-- 1 when a condition holds, else 0. -/
def flagWord (b : Bool) : DWord := if b then 1 else 0

/-- ADD (14 R310). -/
def execAdd (d a b : BitVec 5) (e f : BitVec 1) (t : BitVec 4) (v : BitVec 3) (s : State) : Out :=
  issue (ops3 (Instr.add d a b e f t v).encodeNat (gr d) (gr a) (gr b) e f (isInt t.toNat))
    (intOp t.toNat d.toNat a.toNat b.toNat (arith (fun x y => x + y) t.toNat (v = 1))) s

/-- SUB (14 R310). -/
def execSub (d a b : BitVec 5) (e f : BitVec 1) (t : BitVec 4) (v : BitVec 3) (s : State) : Out :=
  issue (ops3 (Instr.sub d a b e f t v).encodeNat (gr d) (gr a) (gr b) e f (isInt t.toNat))
    (intOp t.toNat d.toNat a.toNat b.toNat (arith (fun x y => x - y) t.toNat (v = 1))) s

/-- MUL (14 R310). -/
def execMul (d a b : BitVec 5) (e f : BitVec 1) (t : BitVec 4) (v : BitVec 3) (s : State) : Out :=
  issue (ops3 (Instr.mul d a b e f t v).encodeNat (gr d) (gr a) (gr b) e f (isInt t.toNat))
    (intOp t.toNat d.toNat a.toNat b.toNat (arith (fun x y => x * y) t.toNat (v = 1))) s

/-- MULH (14 R310). -/
def execMulh (d a b : BitVec 5) (e f : BitVec 1) (t : BitVec 4) (v : BitVec 3) (s : State) : Out :=
  issue (ops3 (Instr.mulh d a b e f t v).encodeNat (gr d) (gr a) (gr b) e f (isInt t.toNat))
    (intOp t.toNat d.toNat a.toNat b.toNat (mulHigh t.toNat)) s

/-- A result of type `t` on its way to g[d] from the divider (14 R305). -/
def lateIntOp (t d a b : Nat) (f : Nat → Nat → Nat × BitVec 6) (s : State) : Res Flow :=
  let q := s.me
  let r := f (q.gRead a).toNat (q.gRead b).toNat
  lateG d (scalarOf t r.1) r.2 s

/-- DIV (14 R311). -/
def execDiv (d a b : BitVec 5) (e f : BitVec 1) (t : BitVec 4) (v : BitVec 3) (s : State) : Out :=
  issue (ops3 (Instr.div d a b e f t v).encodeNat (gr d) (gr a) (gr b) e f (isInt t.toNat))
    (lateIntOp t.toNat d.toNat a.toNat b.toNat (intDiv t.toNat)) s

/-- REM (14 R311). -/
def execRem (d a b : BitVec 5) (e f : BitVec 1) (t : BitVec 4) (v : BitVec 3) (s : State) : Out :=
  issue (ops3 (Instr.rem d a b e f t v).encodeNat (gr d) (gr a) (gr b) e f (isInt t.toNat))
    (lateIntOp t.toNat d.toNat a.toNat b.toNat (intRem t.toNat)) s

/-- The smaller or the larger of two integers. -/
def pick (t : Nat) (max : Bool) (x y : Nat) : Nat × BitVec 6 :=
  (if decide (intVal t y < intVal t x) = max then x else y, 0)

/-- MIN (14 R310). -/
def execMin (d a b : BitVec 5) (e f : BitVec 1) (t : BitVec 4) (v : BitVec 3) (s : State) : Out :=
  issue (ops3 (Instr.min d a b e f t v).encodeNat (gr d) (gr a) (gr b) e f (isInt t.toNat))
    (intOp t.toNat d.toNat a.toNat b.toNat (pick t.toNat false)) s

/-- MAX (14 R310). -/
def execMax (d a b : BitVec 5) (e f : BitVec 1) (t : BitVec 4) (v : BitVec 3) (s : State) : Out :=
  issue (ops3 (Instr.max d a b e f t v).encodeNat (gr d) (gr a) (gr b) e f (isInt t.toNat))
    (intOp t.toNat d.toNat a.toNat b.toNat (pick t.toNat true)) s

/-- A 64-bit operation on two registers. -/
def wordOp (d a b : Nat) (f : DWord → DWord → DWord) (s : State) : Res Flow :=
  putG d (f (s.me.gRead a) (s.me.gRead b)) 0 s

/-- AND (14 R310). -/
def execAnd (d a b : BitVec 5) (e f : BitVec 1) (s : State) : Out :=
  issue (ops3 (Instr.and d a b e f).encodeNat (gr d) (gr a) (gr b) e f true)
    (wordOp d.toNat a.toNat b.toNat fun x y => x &&& y) s

/-- OR (14 R310). -/
def execOr (d a b : BitVec 5) (e f : BitVec 1) (s : State) : Out :=
  issue (ops3 (Instr.or d a b e f).encodeNat (gr d) (gr a) (gr b) e f true)
    (wordOp d.toNat a.toNat b.toNat fun x y => x ||| y) s

/-- XOR (14 R310). -/
def execXor (d a b : BitVec 5) (e f : BitVec 1) (s : State) : Out :=
  issue (ops3 (Instr.xor d a b e f).encodeNat (gr d) (gr a) (gr b) e f true)
    (wordOp d.toNat a.toNat b.toNat fun x y => x ^^^ y) s

/-- ANDN (14 R310). -/
def execAndn (d a b : BitVec 5) (e f : BitVec 1) (s : State) : Out :=
  issue (ops3 (Instr.andn d a b e f).encodeNat (gr d) (gr a) (gr b) e f true)
    (wordOp d.toNat a.toNat b.toNat fun x y => x &&& ~~~y) s

/-- SHL (14 R310). -/
def execShl (d a b : BitVec 5) (e f : BitVec 1) (t : BitVec 4) (v : BitVec 3) (s : State) : Out :=
  issue (ops3 (Instr.shl d a b e f t v).encodeNat (gr d) (gr a) (gr b) e f (isInt t.toNat))
    (intOp t.toNat d.toNat a.toNat b.toNat (shiftLeft t.toNat)) s

/-- SHR (14 R310). -/
def execShr (d a b : BitVec 5) (e f : BitVec 1) (t : BitVec 4) (v : BitVec 3) (s : State) : Out :=
  issue (ops3 (Instr.shr d a b e f t v).encodeNat (gr d) (gr a) (gr b) e f (isInt t.toNat))
    (intOp t.toNat d.toNat a.toNat b.toNat (shiftRight t.toNat)) s

/-- ROT (14 R310). -/
def execRot (d a b : BitVec 5) (e f : BitVec 1) (t : BitVec 4) (v : BitVec 3) (s : State) : Out :=
  issue (ops3 (Instr.rot d a b e f t v).encodeNat (gr d) (gr a) (gr b) e f (isInt t.toNat))
    (intOp t.toNat d.toNat a.toNat b.toNat (rotate t.toNat (v = 1))) s

/-- CMP (14 R310). -/
def execCmp (d a b : BitVec 5) (e f : BitVec 1) (t : BitVec 4) (v : BitVec 3) (s : State) : Out :=
  issue (ops3 (Instr.cmp d a b e f t v).encodeNat (gr d) (gr a) (gr b) e f (isInt t.toNat))
    (fun s => putG d.toNat (flagWord (relation v.toNat (intVal t.toNat (s.me.gRead a.toNat).toNat)
      (intVal t.toNat (s.me.gRead b.toNat).toNat))) 0 s) s

/-! ## Immediates (R312, R313) -/

/-- A 64-bit operation on g[a] and the sign-extended immediate. -/
def immOp (d a : Nat) (i : BitVec 13) (f : DWord → DWord → DWord) (s : State) : Res Flow :=
  putG d (f (s.me.gRead a) (i.signExtend 64)) 0 s

/-- ADDI (14 R312). -/
def execAddi (d a : BitVec 5) (e : BitVec 1) (i : BitVec 13) (s : State) : Out :=
  issue (ops2 (Instr.addi d a e i).encodeNat (gr d) (gr a) e true)
    (immOp d.toNat a.toNat i fun x y => x + y) s

/-- MULI (14 R312). -/
def execMuli (d a : BitVec 5) (e : BitVec 1) (i : BitVec 13) (s : State) : Out :=
  issue (ops2 (Instr.muli d a e i).encodeNat (gr d) (gr a) e true)
    (immOp d.toNat a.toNat i fun x y => x * y) s

/-- ANDI (14 R312). -/
def execAndi (d a : BitVec 5) (e : BitVec 1) (i : BitVec 13) (s : State) : Out :=
  issue (ops2 (Instr.andi d a e i).encodeNat (gr d) (gr a) e true)
    (immOp d.toNat a.toNat i fun x y => x &&& y) s

/-- ORI (14 R312). -/
def execOri (d a : BitVec 5) (e : BitVec 1) (i : BitVec 13) (s : State) : Out :=
  issue (ops2 (Instr.ori d a e i).encodeNat (gr d) (gr a) e true)
    (immOp d.toNat a.toNat i fun x y => x ||| y) s

/-- XORI (14 R312). -/
def execXori (d a : BitVec 5) (e : BitVec 1) (i : BitVec 13) (s : State) : Out :=
  issue (ops2 (Instr.xori d a e i).encodeNat (gr d) (gr a) e true)
    (immOp d.toNat a.toNat i fun x y => x ^^^ y) s

/-- SHLI (14 R312). -/
def execShli (d a : BitVec 5) (e : BitVec 1) (i : BitVec 6) (s : State) : Out :=
  issue (ops2 (Instr.shli d a e i).encodeNat (gr d) (gr a) e true)
    (fun s => putG d.toNat (s.me.gRead a.toNat <<< i.toNat) 0 s) s

/-- SHRI (14 R312). -/
def execShri (d a : BitVec 5) (e k : BitVec 1) (i : BitVec 6) (s : State) : Out :=
  issue (ops2 (Instr.shri d a e k i).encodeNat (gr d) (gr a) e true)
    (fun s => putG d.toNat (if k = 1 then (s.me.gRead a.toNat).sshiftRight i.toNat else s.me.gRead a.toNat >>> i.toNat) 0 s) s

/-- ROTI (14 R312). -/
def execRoti (d a : BitVec 5) (e : BitVec 1) (i : BitVec 6) (s : State) : Out :=
  issue (ops2 (Instr.roti d a e i).encodeNat (gr d) (gr a) e true)
    (fun s => putG d.toNat ((s.me.gRead a.toNat).rotateRight i.toNat) 0 s) s

/-- SLTI (14 R312). -/
def execSlti (d a : BitVec 5) (e : BitVec 1) (i : BitVec 13) (s : State) : Out :=
  issue (ops2 (Instr.slti d a e i).encodeNat (gr d) (gr a) e true)
    (immOp d.toNat a.toNat i fun x y => flagWord (x.slt y)) s

/-- SLTNI (14 R312). -/
def execSltni (d a : BitVec 5) (e : BitVec 1) (i : BitVec 13) (s : State) : Out :=
  issue (ops2 (Instr.sltni d a e i).encodeNat (gr d) (gr a) e true)
    (immOp d.toNat a.toNat i fun x y => flagWord (x.ult y)) s

/-- SEQI (14 R312). -/
def execSeqi (d a : BitVec 5) (e : BitVec 1) (i : BitVec 13) (s : State) : Out :=
  issue (ops2 (Instr.seqi d a e i).encodeNat (gr d) (gr a) e true)
    (immOp d.toNat a.toNat i fun x y => flagWord (x = y)) s

/-- MINI (14 R312). -/
def execMini (d a : BitVec 5) (e : BitVec 1) (i : BitVec 13) (s : State) : Out :=
  issue (ops2 (Instr.mini d a e i).encodeNat (gr d) (gr a) e true)
    (immOp d.toNat a.toNat i fun x y => if y.slt x then y else x) s

/-- MAXI (14 R312). -/
def execMaxi (d a : BitVec 5) (e : BitVec 1) (i : BitVec 13) (s : State) : Out :=
  issue (ops2 (Instr.maxi d a e i).encodeNat (gr d) (gr a) e true)
    (immOp d.toNat a.toNat i fun x y => if x.slt y then y else x) s

/-- Division of g[a] by the immediate at type s64, on its way from the divider. -/
def immDivOp (d a : Nat) (i : BitVec 13) (f : Nat → Nat → Nat × BitVec 6) (s : State) : Res Flow :=
  let r := f (s.me.gRead a).toNat (i.signExtend 64 : DWord).toNat
  lateG d (BitVec.ofNat 64 r.1) r.2 s

/-- DIVI (14 R312). -/
def execDivi (d a : BitVec 5) (e : BitVec 1) (i : BitVec 13) (s : State) : Out :=
  issue (ops2 (Instr.divi d a e i).encodeNat (gr d) (gr a) e true)
    (immDivOp d.toNat a.toNat i (intDiv 3)) s

/-- REMI (14 R312). -/
def execRemi (d a : BitVec 5) (e : BitVec 1) (i : BitVec 13) (s : State) : Out :=
  issue (ops2 (Instr.remi d a e i).encodeNat (gr d) (gr a) e true)
    (immDivOp d.toNat a.toNat i (intRem 3)) s

/-- SUBFI (14 R312). -/
def execSubfi (d a : BitVec 5) (e : BitVec 1) (i : BitVec 13) (s : State) : Out :=
  issue (ops2 (Instr.subfi d a e i).encodeNat (gr d) (gr a) e true)
    (immOp d.toNat a.toNat i fun x y => y - x) s

/-- MOVI (14 R313). -/
def execMovi (d : BitVec 5) (i : BitVec 19) (s : State) : Out :=
  issue (opsD (Instr.movi d i).encodeNat (gr d)) (fun s => putG d.toNat (i.signExtend 64) 0 s) s

/-- LDHI (14 R313). -/
def execLdhi (d : BitVec 5) (i : BitVec 19) (s : State) : Out :=
  issue (opsD (Instr.ldhi d i).encodeNat (gr d)) (fun s => putG d.toNat (i.setWidth 64 <<< 13) 0 s) s

/-- ADDPC (14 R313). -/
def execAddpc (d : BitVec 5) (i : BitVec 19) (s : State) : Out :=
  issue (opsD (Instr.addpc d i).encodeNat (gr d)) (fun s => putG d.toNat (s.me.pc + (i.signExtend 64 <<< 2)) 0 s) s

/-! ## Bits and special integer work (R314 to R316) -/

def countLead (n x : Nat) : Nat := if x % 2 ^ n = 0 then n else n - 1 - (x % 2 ^ n).log2

/-- Trailing zeros of `n` bits. -/
def countTrail (x : Nat) : Nat → Nat
  | 0 => 0
  | n + 1 => if x % 2 = 1 then 0 else 1 + countTrail (x / 2) n

def countOnes (x : Nat) : Nat → Nat
  | 0 => 0
  | n + 1 => x % 2 + countOnes (x / 2) n

/-- The `n` groups of `w` bits of x in the other order. -/
def reverseGroups (w x : Nat) : Nat → Nat
  | 0 => 0
  | n + 1 => (x % 2 ^ w) * 2 ^ (w * n) + reverseGroups w (x / 2 ^ w) n

/-- CLZ (14 R314). -/
def execClz (d a : BitVec 5) (e : BitVec 1) (t : BitVec 4) (s : State) : Out :=
  issue (ops2 (Instr.clz d a e t).encodeNat (gr d) (gr a) e (isInt t.toNat))
    (fun s => putG d.toNat (BitVec.ofNat 64 (countLead (typeBits t.toNat) (s.me.gRead a.toNat).toNat)) 0 s) s

/-- CTZ (14 R314). -/
def execCtz (d a : BitVec 5) (e : BitVec 1) (t : BitVec 4) (s : State) : Out :=
  issue (ops2 (Instr.ctz d a e t).encodeNat (gr d) (gr a) e (isInt t.toNat))
    (fun s => putG d.toNat (BitVec.ofNat 64 (countTrail (s.me.gRead a.toNat).toNat (typeBits t.toNat))) 0 s) s

/-- POPC (14 R314). -/
def execPopc (d a : BitVec 5) (e : BitVec 1) (t : BitVec 4) (s : State) : Out :=
  issue (ops2 (Instr.popc d a e t).encodeNat (gr d) (gr a) e (isInt t.toNat))
    (fun s => putG d.toNat (BitVec.ofNat 64 (countOnes (s.me.gRead a.toNat).toNat (typeBits t.toNat))) 0 s) s

/-- BREV (14 R314). -/
def execBrev (d a : BitVec 5) (e : BitVec 1) (t : BitVec 4) (s : State) : Out :=
  issue (ops2 (Instr.brev d a e t).encodeNat (gr d) (gr a) e (isInt t.toNat))
    (fun s => putG d.toNat (scalarOf t.toNat (reverseGroups 1 (s.me.gRead a.toNat).toNat (typeBits t.toNat))) 0 s) s

/-- BSWAP (14 R314). -/
def execBswap (d a : BitVec 5) (e : BitVec 1) (t : BitVec 4) (s : State) : Out :=
  issue (ops2 (Instr.bswap d a e t).encodeNat (gr d) (gr a) e (isInt t.toNat && t.toNat % 4 ≠ 0))
    (fun s => putG d.toNat (scalarOf t.toNat (reverseGroups 8 (s.me.gRead a.toNat).toNat ((typeBits t.toNat) / 8))) 0 s) s

/-- EXT (14 R315). -/
def execExt (d a : BitVec 5) (e x : BitVec 1) (l p : BitVec 6) (s : State) : Out :=
  let w := (Instr.ext d a e x l p).encodeNat
  issue (ops2 w (gr d) (gr a) e true) (fun s =>
    let n := l.toNat + 1
    if 64 < p.toNat + n then .trap 0x03 w s
    else
      let f := bitsAt (s.me.gRead a.toNat).toNat p.toNat n
      putG d.toNat (if x = 1 then BitVec.ofInt 64 (if 2 ^ (n - 1) ≤ f then (f : Int) - (2 ^ n : Nat) else f)
        else BitVec.ofNat 64 f) 0 s) s

/-- INS (14 R315): d is a source that always waits. -/
def execIns (d a : BitVec 5) (e : BitVec 1) (l p : BitVec 6) (s : State) : Out :=
  let w := (Instr.ins d a e l p).encodeNat
  issue { ops2 w (gr d) (gr a) e true with sources := [(gr d, false), (gr a, eb e)] } (fun s =>
    let n := l.toNat + 1
    if 64 < p.toNat + n then .trap 0x03 w s
    else putG d.toNat (BitVec.ofNat 64 (setBitsAt (s.me.gRead d.toNat).toNat p.toNat n (s.me.gRead a.toNat).toNat)) 0 s) s

/-- SEL's conditions on the old d: 0 .EQZ, 1 .NEZ, 2 .LTZ, 3 .GEZ (14 R316). -/
def selects (c : Nat) (x : DWord) : Bool :=
  match c with
  | 0 => x = 0 | 1 => x ≠ 0 | 2 => x.msb | _ => !x.msb

/-- SEL (14 R316). -/
def execSel (d a b : BitVec 5) (e f : BitVec 1) (c : BitVec 2) (s : State) : Out :=
  issue { ops3 (Instr.sel d a b e f c).encodeNat (gr d) (gr a) (gr b) e f true with
          sources := [(gr d, false), (gr a, eb e), (gr b, eb f)] }
    (fun s => putG d.toNat (if selects c.toNat (s.me.gRead d.toNat) then s.me.gRead a.toNat else s.me.gRead b.toNat) 0 s) s

/-- MAC (14 R316). -/
def execMac (d a b : BitVec 5) (e f : BitVec 1) (t : BitVec 4) (v : BitVec 1) (s : State) : Out :=
  issue { ops3 (Instr.mac d a b e f t v).encodeNat (gr d) (gr a) (gr b) e f (isInt t.toNat) with
          sources := [(gr d, false), (gr a, eb e), (gr b, eb f)] }
    (fun s => intOp t.toNat d.toNat a.toNat b.toNat (fun x y =>
      intResult t.toNat (v = 1) (intVal t.toNat (s.me.gRead d.toNat).toNat + intVal t.toNat x * intVal t.toNat y)) s) s

/-- ABS (14 R316). -/
def execAbs (d a : BitVec 5) (e : BitVec 1) (t : BitVec 4) (v : BitVec 1) (s : State) : Out :=
  issue (ops2 (Instr.abs d a e t v).encodeNat (gr d) (gr a) e (isSigned t.toNat))
    (fun s => intOp t.toNat d.toNat a.toNat 0 (fun x _ =>
      intResult t.toNat (v = 1) ((intVal t.toNat x).natAbs : Int)) s) s

/-- CVTW (14 R316). -/
def execCvtw (d a : BitVec 5) (e : BitVec 1) (t : BitVec 4) (u : BitVec 3) (s : State) : Out :=
  issue (ops2 (Instr.cvtw d a e t u).encodeNat (gr d) (gr a) e (isInt t.toNat))
    (fun s => intOp t.toNat d.toNat a.toNat 0 (fun x _ => cvtInt t.toNat u.toNat s.me.c.sat x) s) s

/-- One bit of the reflected CRC-32C polynomial. -/
def crcBit (c : Nat) : Nat := if c % 2 = 1 then c / 2 ^^^ 0x82F63B78 else c / 2

/-- CrcStep over `n` bytes of b (14 R316). -/
def crcStep (c b : Nat) : Nat → Nat
  | 0 => c
  | n + 1 =>
    crcStep (crcBit (crcBit (crcBit (crcBit (crcBit (crcBit (crcBit (crcBit (c ^^^ b % 256))))))))) (b / 256) n

/-- CRC (14 R316). -/
def execCrc (d a b : BitVec 5) (e f : BitVec 1) (t : BitVec 4) (s : State) : Out :=
  issue (ops3 (Instr.crc d a b e f t).encodeNat (gr d) (gr a) (gr b) e f (isInt t.toNat && !isSigned t.toNat))
    (fun s => putG d.toNat (BitVec.ofNat 64 (crcStep ((s.me.gRead a.toNat).toNat % 2 ^ 32) (s.me.gRead b.toNat).toNat
      (typeBits t.toNat / 8))) 0 s) s

/-- Mix64 (14 R316). -/
def mix64 (x : DWord) : DWord :=
  let x := (x ^^^ (x >>> 33)) * 0xFF51AFD7ED558CCD
  let x := (x ^^^ (x >>> 33)) * 0xC4CEB9FE1A85EC53
  x ^^^ (x >>> 33)

/-- HASH (14 R316). -/
def execHash (d a b : BitVec 5) (e f : BitVec 1) (s : State) : Out :=
  issue (ops3 (Instr.hash d a b e f).encodeNat (gr d) (gr a) (gr b) e f true)
    (wordOp d.toNat a.toNat b.toNat fun x y => mix64 (x ^^^ y.rotateRight 32)) s

/-! ## Floating point (R317, R318) -/

/-- The types 0xB to 0xE that scalar arithmetic accepts. -/
def isScalarFloat (t : Nat) : Bool := 11 ≤ t && t ≤ 14

/-- A floating result written to g[d] at once. -/
def floatOp (t v d a b : Nat) (f : Nat → RoundCtl → Nat → Nat → Nat × BitVec 6) (s : State) : Res Flow :=
  let q := s.me
  let m := 2 ^ typeBits t
  let r := f t (q.round (q.modeOf v) 0) ((q.gRead a).toNat % m) ((q.gRead b).toNat % m)
  putG d (BitVec.ofNat 64 r.1) r.2 s

/-- A floating result that comes from a long-latency unit (R305). -/
def lateFloatOp (t v d a b : Nat) (f : Nat → RoundCtl → Nat → Nat → Nat × BitVec 6) (s : State) : Res Flow :=
  let q := s.me
  let m := 2 ^ typeBits t
  let r := f t (q.round (q.modeOf v) 0) ((q.gRead a).toNat % m) ((q.gRead b).toNat % m)
  lateG d (BitVec.ofNat 64 r.1) r.2 s

/-- FADD (14 R317). -/
def execFadd (d a b : BitVec 5) (e f : BitVec 1) (t : BitVec 4) (v : BitVec 3) (s : State) : Out :=
  issue (ops3 (Instr.fadd d a b e f t v).encodeNat (gr d) (gr a) (gr b) e f (isScalarFloat t.toNat))
    (floatOp t.toNat v.toNat d.toNat a.toNat b.toNat fAdd) s

/-- FSUB (14 R317). -/
def execFsub (d a b : BitVec 5) (e f : BitVec 1) (t : BitVec 4) (v : BitVec 3) (s : State) : Out :=
  issue (ops3 (Instr.fsub d a b e f t v).encodeNat (gr d) (gr a) (gr b) e f (isScalarFloat t.toNat))
    (floatOp t.toNat v.toNat d.toNat a.toNat b.toNat fSub) s

/-- FMUL (14 R317). -/
def execFmul (d a b : BitVec 5) (e f : BitVec 1) (t : BitVec 4) (v : BitVec 3) (s : State) : Out :=
  issue (ops3 (Instr.fmul d a b e f t v).encodeNat (gr d) (gr a) (gr b) e f (isScalarFloat t.toNat))
    (floatOp t.toNat v.toNat d.toNat a.toNat b.toNat fMul) s

/-- FDIV (14 R317). -/
def execFdiv (d a b : BitVec 5) (e f : BitVec 1) (t : BitVec 4) (v : BitVec 3) (s : State) : Out :=
  issue (ops3 (Instr.fdiv d a b e f t v).encodeNat (gr d) (gr a) (gr b) e f (isScalarFloat t.toNat))
    (lateFloatOp t.toNat v.toNat d.toNat a.toNat b.toNat fDiv) s

/-- FSQRT (14 R317). -/
def execFsqrt (d a : BitVec 5) (e : BitVec 1) (t : BitVec 4) (v : BitVec 3) (s : State) : Out :=
  issue (ops2 (Instr.fsqrt d a e t v).encodeNat (gr d) (gr a) e (isScalarFloat t.toNat))
    (lateFloatOp t.toNat v.toNat d.toNat a.toNat 0 fun t c x _ => fSqrt t c x) s

/-- FMIN (14 R317). -/
def execFmin (d a b : BitVec 5) (e f : BitVec 1) (t : BitVec 4) (v : BitVec 3) (s : State) : Out :=
  issue (ops3 (Instr.fmin d a b e f t v).encodeNat (gr d) (gr a) (gr b) e f (isScalarFloat t.toNat))
    (floatOp t.toNat 0 d.toNat a.toNat b.toNat (fun t _ x y => fMinMax t false (v = 1) x y)) s

/-- FMAX (14 R317). -/
def execFmax (d a b : BitVec 5) (e f : BitVec 1) (t : BitVec 4) (v : BitVec 3) (s : State) : Out :=
  issue (ops3 (Instr.fmax d a b e f t v).encodeNat (gr d) (gr a) (gr b) e f (isScalarFloat t.toNat))
    (floatOp t.toNat 0 d.toNat a.toNat b.toNat (fun t _ x y => fMinMax t true (v = 1) x y)) s

/-- FMA (14 R318). -/
def execFma (d a b c : BitVec 5) (e : BitVec 1) (t : BitVec 3) (s : State) : Out :=
  issue { word := (Instr.fma d a b c e t).encodeNat, regs := [gr d, gr a, gr b, gr c], typeOk := t.toNat ≤ 3,
          sources := [(gr a, eb e), (gr b, eb e), (gr c, eb e)], dests := [gr d] }
    (fun s => floatOp (t.toNat + 11) 0 d.toNat a.toNat b.toNat (fun ty k x y =>
      fFma ty k false x y ((s.me.gRead c.toNat).toNat % 2 ^ typeBits ty)) s) s

/-- FNMA (14 R318). -/
def execFnma (d a b c : BitVec 5) (e : BitVec 1) (t : BitVec 3) (s : State) : Out :=
  issue { word := (Instr.fnma d a b c e t).encodeNat, regs := [gr d, gr a, gr b, gr c], typeOk := t.toNat ≤ 3,
          sources := [(gr a, eb e), (gr b, eb e), (gr c, eb e)], dests := [gr d] }
    (fun s => floatOp (t.toNat + 11) 0 d.toNat a.toNat b.toNat (fun ty k x y =>
      fFma ty k true x y ((s.me.gRead c.toNat).toNat % 2 ^ typeBits ty)) s) s

/-- FCMP (14 R317). -/
def execFcmp (d a b : BitVec 5) (e f : BitVec 1) (t : BitVec 4) (v : BitVec 3) (s : State) : Out :=
  issue (ops3 (Instr.fcmp d a b e f t v).encodeNat (gr d) (gr a) (gr b) e f (isScalarFloat t.toNat))
    (floatOp t.toNat 0 d.toNat a.toNat b.toNat fun ty _ x y =>
      let r := fCompare ty v.toNat x y
      (if r.1 then 1 else 0, r.2)) s

/-- FCVT (14 R317). -/
def execFcvt (d a : BitVec 5) (u : BitVec 4) (e : BitVec 1) (t : BitVec 4) (v : BitVec 3) (s : State) : Out :=
  issue (ops2 (Instr.fcvt d a u e t v).encodeNat (gr d) (gr a) e (isFloat t.toNat && isFloat u.toNat))
    (fun s =>
      let q := s.me
      let r := cvtFloat t.toNat u.toNat (q.round (q.modeOf v.toNat) 0) ((q.gRead a.toNat).toNat % 2 ^ typeBits u.toNat)
      putG d.toNat (BitVec.ofNat 64 r.1) r.2 s) s

/-- FCVTI (14 R317). -/
def execFcvti (d a : BitVec 5) (u : BitVec 4) (e : BitVec 1) (t : BitVec 4) (v : BitVec 3) (s : State) : Out :=
  issue (ops2 (Instr.fcvti d a u e t v).encodeNat (gr d) (gr a) e (isInt t.toNat && isFloat u.toNat))
    (fun s =>
      let q := s.me
      let r := cvtFloatInt t.toNat u.toNat (q.round (q.modeOf v.toNat) 0) ((q.gRead a.toNat).toNat % 2 ^ typeBits u.toNat)
      putG d.toNat (scalarOf t.toNat r.1) r.2 s) s

/-- ICVTF (14 R317). -/
def execIcvtf (d a : BitVec 5) (u : BitVec 4) (e : BitVec 1) (t : BitVec 4) (v : BitVec 3) (s : State) : Out :=
  issue (ops2 (Instr.icvtf d a u e t v).encodeNat (gr d) (gr a) e (isFloat t.toNat && isInt u.toNat))
    (fun s =>
      let q := s.me
      let r := cvtIntFloat t.toNat u.toNat (q.round (q.modeOf v.toNat) 0) ((q.gRead a.toNat).toNat % 2 ^ typeBits u.toNat)
      putG d.toNat (BitVec.ofNat 64 r.1) r.2 s) s

/-- FCLASS (14 R317). -/
def execFclass (d a : BitVec 5) (e : BitVec 1) (t : BitVec 4) (s : State) : Out :=
  issue (ops2 (Instr.fclass d a e t).encodeNat (gr d) (gr a) e (isFloat t.toNat))
    (fun s => putG d.toNat (BitVec.ofNat 64 (fClass t.toNat ((s.me.gRead a.toNat).toNat % 2 ^ typeBits t.toNat))) 0 s) s

/-- FEXP2 (14 R317). -/
def execFexp2 (d a : BitVec 5) (e : BitVec 1) (t : BitVec 4) (v : BitVec 3) (s : State) : Out :=
  issue (ops2 (Instr.fexp2 d a e t v).encodeNat (gr d) (gr a) e (isScalarFloat t.toNat))
    (lateFloatOp t.toNat v.toNat d.toNat a.toNat 0 fun t c x _ => fExp2 t c x) s

/-- FLOG2 (14 R317). -/
def execFlog2 (d a : BitVec 5) (e : BitVec 1) (t : BitVec 4) (v : BitVec 3) (s : State) : Out :=
  issue (ops2 (Instr.flog2 d a e t v).encodeNat (gr d) (gr a) e (isScalarFloat t.toNat))
    (lateFloatOp t.toNat v.toNat d.toNat a.toNat 0 fun t c x _ => fLog2 t c x) s

end Sys2Proof.Machine
end

