-- ==== Sys2Proof/Machine/Branch.lean ====
section
/-!
DEFINITION. Branches, jumps and calls (spec/14_scalar.md R319 to R321) and the hardware loop stack (R322 to R325).
-/
namespace Sys2Proof.Machine

/-- PC + 4 × off18 (13 R292). -/
def branchTarget (pc : DWord) (o : BitVec 18) : DWord := pc + (o.signExtend 64 <<< 2)

/-- JMP (14 R319). -/
def execJmp (o : BitVec 18) (s : State) : Out :=
  issue { word := (Instr.jmp o).encodeNat } (fun s => .ok (.jump (branchTarget s.me.pc o)) s) s

/-- CALL (14 R319): lk is g30. -/
def execCall (o : BitVec 18) (s : State) : Out :=
  issue { word := (Instr.call o).encodeNat, dests := [.g 30] } (fun s =>
    let pc := s.me.pc
    .ok (.jump (branchTarget pc o)) (s.updMe fun q => q.gSet 30 (pc + 4))) s

/-- A conditional branch. -/
def branchIf (o : BitVec 18) (c : Bool) (s : State) : Res Flow :=
  .ok (if c then .jump (branchTarget s.me.pc o) else .next) s

/-- BEQZ (14 R319). -/
def execBeqz (a : BitVec 5) (e : BitVec 1) (o : BitVec 18) (s : State) : Out :=
  issue (ops1 (Instr.beqz a e o).encodeNat (gr a) e) (fun s =>
    let x := s.me.gRead a.toNat
    branchIf o (x = 0) s) s

/-- BNEZ (14 R319). -/
def execBnez (a : BitVec 5) (e : BitVec 1) (o : BitVec 18) (s : State) : Out :=
  issue (ops1 (Instr.bnez a e o).encodeNat (gr a) e) (fun s =>
    let x := s.me.gRead a.toNat
    branchIf o (x ≠ 0) s) s

/-- BLTZ (14 R319). -/
def execBltz (a : BitVec 5) (e : BitVec 1) (o : BitVec 18) (s : State) : Out :=
  issue (ops1 (Instr.bltz a e o).encodeNat (gr a) e) (fun s =>
    let x := s.me.gRead a.toNat
    branchIf o (x.slt 0) s) s

/-- BGEZ (14 R319). -/
def execBgez (a : BitVec 5) (e : BitVec 1) (o : BitVec 18) (s : State) : Out :=
  issue (ops1 (Instr.bgez a e o).encodeNat (gr a) e) (fun s =>
    let x := s.me.gRead a.toNat
    branchIf o (!x.slt 0) s) s

/-- BGTZ (14 R319). -/
def execBgtz (a : BitVec 5) (e : BitVec 1) (o : BitVec 18) (s : State) : Out :=
  issue (ops1 (Instr.bgtz a e o).encodeNat (gr a) e) (fun s =>
    let x := s.me.gRead a.toNat
    branchIf o (BitVec.slt 0 x) s) s

/-- BLEZ (14 R319). -/
def execBlez (a : BitVec 5) (e : BitVec 1) (o : BitVec 18) (s : State) : Out :=
  issue (ops1 (Instr.blez a e o).encodeNat (gr a) e) (fun s =>
    let x := s.me.gRead a.toNat
    branchIf o (!BitVec.slt 0 x) s) s

/-- BPANY (14 R319). -/
def execBpany (a : BitVec 5) (e : BitVec 1) (o : BitVec 18) (s : State) : Out :=
  issue (ops1 (Instr.bpany a e o).encodeNat (pr a) e) (fun s =>
    let q := s.me
    branchIf o (q.pRead a.toNat % 2 ^ q.c.vl ≠ 0) s) s

/-- BPNONE (14 R319). -/
def execBpnone (a : BitVec 5) (e : BitVec 1) (o : BitVec 18) (s : State) : Out :=
  issue (ops1 (Instr.bpnone a e o).encodeNat (pr a) e) (fun s =>
    let q := s.me
    branchIf o (q.pRead a.toNat % 2 ^ q.c.vl = 0) s) s

/-- The target of JR and CALLR, which must be a multiple of 4 (14 R320). -/
def jumpTarget (a : Nat) (i : BitVec 13) (s : State) : Res DWord :=
  let t := s.me.gRead a + i.signExtend 64
  if t.toNat % 4 ≠ 0 then .trap 0x0A t.toNat s else .ok t s

/-- JR (14 R320). -/
def execJr (a : BitVec 5) (e : BitVec 1) (i : BitVec 13) (s : State) : Out :=
  issue (ops1 (Instr.jr a e i).encodeNat (gr a) e)
    (fun s => (jumpTarget a.toNat i s).andThen fun t s => .ok (.jump t) s) s

/-- CALLR (14 R320): the target is formed before g[d] is written. -/
def execCallr (d a : BitVec 5) (e : BitVec 1) (i : BitVec 13) (s : State) : Out :=
  issue (ops2 (Instr.callr d a e i).encodeNat (gr d) (gr a) e true) (fun s =>
    (jumpTarget a.toNat i s).andThen fun t s =>
      (writeG d.toNat (s.me.pc + 4) s).andThen fun _ s => .ok (.jump t) s) s

/-! ## The loop stack -/

/-- The entries of the loop stack (14 R322). -/
def loopDepth : Nat := 6

/-- LOOP (14 R323). -/
def execLoop (a : BitVec 5) (e : BitVec 1) (o : BitVec 18) (s : State) : Out :=
  let w := (Instr.loop a e o).encodeNat
  issue (ops1 w (gr a) e) (fun s =>
    let q := s.me
    let n := (q.gRead a.toNat).toNat
    let off := o.toInt
    if off < 1 ∨ 65536 < off ∨ 16777215 < n then .trap 0x03 w s
    else if n = 0 then .ok (.jump (branchTarget q.pc o + 4)) s
    else if loopDepth ≤ q.loops.length then .trap 0x03 w s
    else .ok (.jump (q.pc + 4)) (s.updMe fun q => { q with
      loops := { start := q.pc + 4, len := off.toNat - 1, count := n, index := 0 } :: q.loops })) s

/-- LBRK (14 R325). -/
def execLbrk (k : BitVec 19) (s : State) : Out :=
  let w := (Instr.lbrk k).encodeNat
  issue { word := w } (fun s =>
    let q := s.me
    match q.loops.drop (k.toNat - 1) with
    | last :: rest =>
      if k = 0 then .trap 0x03 w s
      else .ok (.jump (last.stop + 4)) (s.updMe fun q => { q with loops := rest })
    | [] => .trap 0x03 w s) s

/-- LIDX (14 R325). -/
def execLidx (d : BitVec 5) (k : BitVec 19) (s : State) : Out :=
  let w := (Instr.lidx d k).encodeNat
  issue (opsD w (gr d)) (fun s =>
    match s.me.loops[k.toNat]? with
    | some x => putG d.toNat (BitVec.ofNat 64 x.index) 0 s
    | none => .trap 0x03 w s) s

/-- LCONT (14 R325): LoopStep at the END of the top entry, at once. -/
def execLcont (s : State) : Out :=
  let w := Instr.lcont.encodeNat
  issue { word := w } (fun s =>
    match s.me.loops with
    | top :: _ =>
      let r := loopStep top.stop s.me.loops
      .ok (.jump r.2) (s.updMe fun q => { q with loops := r.1 })
    | [] => .trap 0x03 w s) s

end Sys2Proof.Machine
end

