-- ==== Sys2Proof/Machine/Codec.lean ====
section
/-!
DEFINITION. The BDZ codec (spec/08_compression.md R176 to R181): the form a line takes, its sector image, and the decoder
with the cases in which it fails. A line and an image are little-endian numbers.
-/
namespace Sys2Proof.Machine.Bdz

/-- Element `k` of `b` bytes. -/
def elem (l b k : Nat) : Nat := l / 2 ^ (8 * b * k) % 2 ^ (8 * b)

/-- `v` of `b` bytes read as signed. -/
def signed (b v : Nat) : Int := if 2 ^ (8 * b - 1) ≤ v then (v : Int) - (2 ^ (8 * b) : Nat) else v

/-- `v` of `b` bytes fits in `d` bytes (R176). -/
def fits (b d v : Nat) : Bool :=
  let s := signed b v
  decide (-((2 ^ (8 * d - 1) : Nat) : Int) ≤ s) && decide (s < ((2 ^ (8 * d - 1) : Nat) : Int))

/-- The difference of two `b`-byte elements, modulo 2^(8b). -/
def diff (b x y : Nat) : Nat := (x + 2 ^ (8 * b) - y) % 2 ^ (8 * b)

/-- The base and delta sizes of codes 0x3 to 0x8 (R177). -/
def baseDelta (c : Nat) : Nat × Nat :=
  match c with
  | 3 => (8, 1) | 4 => (8, 2) | 5 => (8, 4) | 6 => (4, 1) | 7 => (4, 2) | _ => (2, 1)

/-- The mask of nonzero words (R178). -/
def nonzeroMask (l : Nat) : Nat :=
  (List.range 32).foldl (fun m k => if elem l 4 k = 0 then m else m + 2 ^ k) 0

/-- The number of set bits. -/
def popc (n w : Nat) : Nat := (List.range w).foldl (fun c k => c + n / 2 ^ k % 2) 0

/-- The words that do not fit in `d` bytes (R179). -/
def selector (l d : Nat) : Nat :=
  (List.range 32).foldl (fun m k => if fits 4 d (elem l 4 k) then m else m + 2 ^ k) 0

/-- The dual base: the lowest word that is not zero-fit, or 0 (R179). -/
def dualBase (l d : Nat) : Nat :=
  match (List.range 32).find? fun k => !fits 4 d (elem l 4 k) with
  | some k => elem l 4 k
  | none => 0

/-- Whether a form applies to a line (R177). -/
def applies (c l : Nat) : Bool :=
  match c with
  | 0 => decide (l = 0)
  | 1 => (List.range 16).all fun k => elem l 8 k = elem l 8 0
  | 2 => decide (popc (nonzeroMask l) 32 ≤ 31)
  | 3 | 4 | 5 | 6 | 7 | 8 =>
    let (b, d) := baseDelta c
    (List.range (128 / b)).all fun k => fits b d (diff b (elem l b k) (elem l b 0))
  | 9 | 10 =>
    let d := c - 8
    let s := selector l d
    let b := dualBase l d
    (List.range 32).all fun k => s / 2 ^ k % 2 = 0 || fits 4 d (diff 4 (elem l 4 k) b)
  | _ => decide (c = 11)

/-- The sectors a form takes (R177), with `nz` the nonzero words of ZRUN. -/
def sectors (c nz : Nat) : Nat :=
  match c with
  | 0 => 0 | 1 => 1 | 2 => (4 + 4 * nz + 31) / 32 | 3 => 1 | 4 => 2 | 5 => 3 | 6 => 2 | 7 => 3 | 8 => 3
  | 9 => 2 | 10 => 3 | 11 => 4 | _ => 0

/-- The code the encoder chooses: the fewest sectors, then the lowest code (R180). -/
def code (l : Nat) : Nat :=
  let nz := popc (nonzeroMask l) 32
  ((List.range 12).foldl (fun (best : Nat × Nat) c =>
    if applies c l && decide (sectors c nz < best.2) then (c, sectors c nz) else best) (11, 5)).1

/-- The number of sectors of a line under the encoder's code; code 0xF holds none. -/
def nsec (c l : Nat) : Nat := if c = 15 then 0 else sectors c (popc (nonzeroMask l) 32)

/-- The bytes of `v`s of `n` bytes each, packed upward. -/
def pack (n : Nat) : List Nat → Nat
  | [] => 0
  | v :: vs => v % 2 ^ (8 * n) + 2 ^ (8 * n) * pack n vs

/-- The payload of a form (R178); the image is the payload followed by zeros. -/
def payload (c l : Nat) : Nat :=
  match c with
  | 0 => 0
  | 1 => elem l 8 0
  | 2 =>
    let m := nonzeroMask l
    m + 2 ^ 32 * pack 4 (((List.range 32).filter fun k => m / 2 ^ k % 2 = 1).map (elem l 4))
  | 3 | 4 | 5 | 6 | 7 | 8 =>
    let (b, d) := baseDelta c
    elem l b 0 + 2 ^ (8 * b) * pack d ((List.range (128 / b)).map fun k => diff b (elem l b k) (elem l b 0))
  | 9 | 10 =>
    let d := c - 8
    let s := selector l d
    let b := dualBase l d
    s + 2 ^ 32 * b + 2 ^ 64 * pack d ((List.range 32).map fun k =>
      if s / 2 ^ k % 2 = 0 then elem l 4 k else diff 4 (elem l 4 k) b)
  | _ => l

/-- A delta of `d` bytes sign-extended to `b` bytes. -/
def sext (d b v : Nat) : Nat := if 2 ^ (8 * d - 1) ≤ v then v + 2 ^ (8 * b) - 2 ^ (8 * d) else v

/-- Word k of a ZRUN image: the next nonzero word where the mask bit is set. -/
def zrunLine (m : Nat) : List Nat → (k : Nat) → Nat → Nat
  | [], _, _ => 0
  | w :: ws, i, img =>
    if m / 2 ^ w % 2 = 1 then elem img 4 i * 2 ^ (32 * w) + zrunLine m ws (i + 1) img else zrunLine m ws i img

/-- The payload bytes of a form, from its image. -/
def payloadBytes (c img : Nat) : Nat :=
  match c with
  | 0 => 0 | 1 => 8 | 2 => 4 + 4 * popc (img % 2 ^ 32) 32 | 3 => 24 | 4 => 40 | 5 => 72 | 6 => 36 | 7 => 68 | 8 => 66
  | 9 => 40 | 10 => 72 | _ => 128

/-- The line an image holds, none where the decoder fails (R181). -/
def decode (c n img : Nat) : Option Nat :=
  if 12 ≤ c then none
  else if n ≠ sectors c (popc (img % 2 ^ 32) 32) then none
  else if c = 2 ∧ img % 2 ^ 32 = 2 ^ 32 - 1 then none
  else if img / 2 ^ (8 * payloadBytes c img) ≠ 0 then none
  else some (match c with
    | 0 => 0
    | 1 => pack 8 (List.replicate 16 img)
    | 2 => zrunLine (img % 2 ^ 32) (List.range 32) 1 img
    | 3 | 4 | 5 | 6 | 7 | 8 =>
      let (b, d) := baseDelta c
      pack b ((List.range (128 / b)).map fun k => img % 2 ^ (8 * b) + sext d b (elem (img / 2 ^ (8 * b)) d k))
    | 9 | 10 =>
      let d := c - 8
      pack 4 ((List.range 32).map fun k =>
        sext d 4 (elem (img / 2 ^ 64) d k) + (if img / 2 ^ k % 2 = 1 then img / 2 ^ 32 % 2 ^ 32 else 0))
    | _ => img)

end Sys2Proof.Machine.Bdz
end

