-- ==== Sys2Proof/Machine/LinkLayer.lean ====
section
/-!
DEFINITION. How messages leave the device (spec/02_links.md): the host physical address and the port of a host-window access
(R31, R33), and the Morrix Link's ports (R41 to R44): which port carries a line's messages, the flits sent and not
acknowledged, and what a flit says.
-/
namespace Sys2Proof.Machine

/-! ## The host window (R31, R33) -/

/-- The host port that carries an interface's traffic; the device's own goes by port 0, or by port 1 where only that one has
trained (log 102). -/
def hostPort (vi : Nat) (s : State) : Nat :=
  if vi < 64 then 0 else if vi < 128 then 1 else if s.ports.getD 0 .absent = .absent then 1 else 0

/-- The host physical address of a host-window line: HOSTBASE + offset. -/
def hostAddr (x : Nat) (s : State) : Nat := s.mgmt.hostbase.toNat + (128 * x - 0x40000000000)

/-- A write to the host window leaves on the port of an interface. -/
def sendHostWrite (vi x : Nat) (bytes : Line) (mask : LineMask) (s : State) : State :=
  { s with outbox := s.outbox ++ [.hostWrite (hostPort vi s) (hostAddr x s) bytes mask] }

/-! ## The ports of a peer (R41, R46) -/

def peerId (pa : Nat) : Nat := bitsAt pa 41 10

def State.link (s : State) (p : Nat) : LinkPort := s.links.toList.getD p {}
def State.updLink (s : State) (p : Nat) (f : LinkPort → LinkPort) : State :=
  if h : p < 12 then { s with links := s.links.set p (f s.links[p]) h } else s

/-- The ports that are up. -/
def portsUp (s : State) : BitVec 12 :=
  (List.range 12).foldl (fun m p => if (s.link p).up then m ||| BitVec.ofNat 12 (2 ^ p) else m) 0

/-- The ports of a peer's route set that are up, in rising number. -/
def routePorts (peer : Nat) (s : State) : List Nat :=
  (List.range 12).filter fun p => (s.mgmt.route.getD peer 0).getLsbD p && (s.link p).up

/-- A port of the peer's route set is up. -/
def reachable (pa : Nat) (s : State) : Bool := s.mgmt.route.getD (peerId pa) 0 &&& portsUp s ≠ 0

/-- The peer and the line a message concerns: its messages keep their order (R41). -/
def PeerMsg.key : PeerMsg → Nat × Nat
  | .read a _ _ | .write a _ _ _ | .atomic a _ _ _ _ _ => (peerId a, bitsAt a 0 41 / 128)
  | .reply src line _ _ _ => (src, line)

/-- The slots of 16 bytes that a message takes (R42). -/
def PeerMsg.slots : PeerMsg → Nat
  | .read .. | .atomic .. => 1
  | .write .. | .reply .. => 9

/-- The messages that a port has sent without an acknowledgement, or is to send, in order. -/
def LinkPort.pending (l : LinkPort) : List PeerMsg := l.unacked.map Prod.snd ++ l.queue

/-- The port of a message: the one that still holds a message of its line (R41, R44), else one of the peer's set by a hash
of the line address. -/
def choosePort (m : PeerMsg) (s : State) : Option Nat :=
  let ps := routePorts m.key.1 s
  match (List.range 12).find? fun p => (s.link p).up && ((s.link p).pending.any fun n => n.key = m.key) with
  | some p => some p
  | none => ps[Config.linkHash m.key.2 % max 1 ps.length]?

/-- A port sends what waits as long as fewer than 64 of its flits are not acknowledged (R43). -/
def pumpPort (p : Nat) : (fuel : Nat) → State → State
  | 0, s => s
  | fuel + 1, s =>
    let l := s.link p
    match l.queue with
    | [] => s
    | m :: ms =>
      if !l.up || 64 ≤ l.unacked.length then s
      else
        let s := s.updLink p fun l =>
          { l with queue := ms, unacked := l.unacked ++ [(l.txSeq, m)], txSeq := (l.txSeq + 1) % 4096 }
        pumpPort p fuel { s with outbox := s.outbox ++ [.flit p l.txSeq l.rxSeq m] }

/-- A message is sent to a peer: one that no port reaches goes nowhere (R43). -/
def sendPeer (m : PeerMsg) (s : State) : State :=
  match choosePort m s with
  | none => s
  | some p => pumpPort p 65 (s.updLink p fun l => { l with queue := l.queue ++ [m] })

/-! ## Flits (R42) -/

/-- The fields of a received flit: sequence, acknowledged sequence, credit return, type, the 15 payload slots, and whether
its CRC-64 is that of bytes 0 to 247. -/
structure FlitIn where
  seqNo : Nat
  ackNo : Nat
  credit : Nat
  type : Nat
  slots : List (BitVec 128)
  crcOk : Bool
  deriving DecidableEq, Repr

def readFlit (head : BitVec 64) (slots : BitVec 1920) (crc : BitVec 64) : FlitIn :=
  let h := head.toNat
  { seqNo := bitsAt h 52 12, ackNo := bitsAt h 40 12, credit := bitsAt h 24 16, type := bitsAt h 20 4
    slots := (List.range 15).map fun i => slots.extractLsb' (128 * i) 128
    crcOk := decide (Config.flitCrc (slots ++ head) = crc) }

/-- The flits up to and including the acknowledged one are done with (log 101). -/
def LinkPort.acknowledge (l : LinkPort) (ackNo : Nat) : LinkPort :=
  { l with ackSeq := ackNo, unacked := l.unacked.filter fun e => decide (2048 ≤ (ackNo + 4096 - e.1) % 4096) }

/-! ## Stores that are out to peers (R43, R45, R47) -/

/-- How many stores of a sequencer are out to peers. -/
def Seq.peersOut (q : Seq) : Nat := q.peerOut.length

/-- A posted store of a sequencer. -/
def postStore (k : Agent) (p : PeerStore) (s : State) : State :=
  sendPeer (.write p.addr p.bytes p.mask k) (s.upd k fun q => { q with peerOut := q.peerOut ++ [p] })

/-- The oldest store that is out to the line of an address. -/
def storeTo (addr : Nat) (ps : List PeerStore) : Option PeerStore := ps.find? fun p => p.addr / 128 = addr / 128

/-- The stores refused to sequencer `k`, or to one that sent them for its context before a save (log 48). -/
def refusedStores (k : Agent) (s : State) : List (PeerStore × Nat) :=
  let q := s.seq k
  let mine (e : PeerStore × Nat) : Bool := match q.bound with
    | some b => e.1.vi = b.vi && e.1.cid = b.cid
    | none => false
  (dedup (k :: q.came)).flatMap fun j => (s.seq j).peerBad.filter mine

/-- The refused stores of a sequencer's context are taken from those that sent them. -/
def takeRefused (k : Agent) (s : State) : State :=
  let q := s.seq k
  thread (fun j s => s.upd j fun r => { r with peerBad := r.peerBad.filter fun e => !(q.bound.any fun b => e.1.vi = b.vi && e.1.cid = b.cid) })
    (dedup (k :: q.came)) s

end Sys2Proof.Machine
end

