-- ==== Sys2Proof/Machine/Lines.lean ====
section
/-!
DEFINITION. Lines and where they are held: addresses and homes (spec/02_links.md R33, spec/07_coherence.md R148), logical times as
tags store them (07 R149, R150, R153, R167), copies by L1 slice (spec/06_clusters.md R131, R132), the sets and sectors of the
last-level cache (spec/08_compression.md R182, R183), what waits at a line or for room in a set (08 R185), and the newest data of a
line.
-/
namespace Sys2Proof.Machine

/-! ## Addresses (02 R33, 07 R148) -/

inductive Tier where
  | hbm | lpddr | host | peer | none
  deriving DecidableEq, Repr

def tierOf (pa : Nat) : Tier :=
  if pa < 0x8000000000 then .hbm
  else if 0x10000000000 ≤ pa ∧ pa < 0x20000000000 then .lpddr
  else if 0x40000000000 ≤ pa ∧ pa < 0x80000000000 then .host
  else if 0x8000000000000 ≤ pa ∧ pa < 0x10000000000000 then .peer
  else .none

/-- The detail code of a physical-address fault (04 R104). -/
def Tier.code : Tier → Nat
  | .hbm => 0 | .lpddr => 1 | .host => 2 | _ => 3

def isMemory (pa : Nat) : Bool := tierOf pa = .hbm || tierOf pa = .lpddr

/-- The line and the frame of an address; the frame of a line. -/
def lineOf (pa : Nat) : Nat := pa / 128
def frameOf (pa : Nat) : Nat := pa / 4096
def frameOfLine (x : Nat) : Nat := x / 32

/-- The home die of a line. -/
def homeDie (x : Nat) : Nat :=
  if tierOf (128 * x) = .hbm then bitsAt x 30 2 else bitsAt x 5 2

/-- The home slice of a line among all 256, by the fixed hash (log 6). -/
def homeSlice (x : Nat) : Nat := 64 * homeDie x + (Config.frameHash (frameOfLine x) + x % 32) % 64

def setIndex (x : Nat) : Nat := bitsAt x 0 11 ^^^ bitsAt x 11 11

/-- Whether two lines lie in one set. -/
def sameSet (x y : Nat) : Bool := homeDie x = homeDie y && setIndex x = setIndex y && homeSlice x = homeSlice y

/-- The number of a line's set among all of them. -/
def setKey (x : Nat) : Nat := 2048 * homeSlice x + setIndex x

/-! ## Stored times (07 R149, R153, R166, R167) -/

/-- The timebase's generation bit. -/
def State.tgen (s : State) : Bool := s.rebases % 2 = 1

/-- A stored offset as it is read: one of the other generation was stored against the timebase before (R167). -/
def fullTime (s : State) (off : BitVec 24) (gen : Bool) : Nat :=
  if gen = s.tgen then s.tbase + off.toNat else s.tbase + (off.toNat - 2 ^ 22)

/-- A full time as an offset: one below the timebase rises to it. -/
def offsetOf (s : State) (t : Nat) : BitVec 24 := BitVec.ofNat 24 (t - s.tbase)

def Stamp.read (g : Stamp) (s : State) : Nat := fullTime s g.off g.gen
def Stamp.make (t : Nat) (s : State) : Stamp := { off := offsetOf s t, gen := s.tgen }

/-- Times whose offsets lie below 2^23 are stored; any other makes the device rebase first (R166). -/
def State.storable (s : State) (t : Nat) : Bool := decide (t < s.tbase + 2 ^ 23)

def HomeLine.load (h : HomeLine (BitVec 24)) (s : State) : HomeLine Nat :=
  { h with wts := fullTime s h.wts h.gen, rts := fullTime s h.rts h.gen }
def HomeLine.store (h : HomeLine Nat) (s : State) : HomeLine (BitVec 24) :=
  { h with wts := offsetOf s h.wts, rts := offsetOf s h.rts, gen := s.tgen }

def Copy.load (p : Copy (BitVec 24)) (s : State) : Copy Nat :=
  { p with wts := fullTime s p.wts p.gen, rts := fullTime s p.rts p.gen }
def Copy.store (p : Copy Nat) (s : State) : Copy (BitVec 24) :=
  { p with wts := offsetOf s p.wts, rts := offsetOf s p.rts, gen := s.tgen }

/-! ## Small parts -/

def State.slice (s : State) (x : Nat) : Slice := s.slices.getD (homeSlice x) {}
def State.updSlice (s : State) (x : Nat) (f : Slice → Slice) : State :=
  { s with slices := s.slices.modify (homeSlice x) {} f }

/-- A line at its home, with full times; and put back. -/
def State.home (s : State) (x : Nat) : Option (HomeLine Nat) := (s.homes.find x).map fun h => h.load s
def State.setHome (s : State) (x : Nat) (h : HomeLine Nat) : State := { s with homes := s.homes.set x (h.store s) }

/-- A tag changed in what does not concern its times. -/
def State.updTag (s : State) (x : Nat) (f : HomeLine (BitVec 24) → HomeLine (BitVec 24)) : State :=
  match s.homes.find x with
  | some h => { s with homes := s.homes.set x (f h) }
  | none => s

/-- MTS of the slice that homes a line (07 R150). -/
def State.mts (s : State) (x : Nat) : Nat := (s.slice x).mts.read s
def raiseMts (x t : Nat) (s : State) : State :=
  s.updSlice x fun sl => { sl with mts := Stamp.make (max (s.mts x) t) s }

/-- The key of a copy held by L1 slice `sl`, by cluster `c`, or by engine `e` of die `d`. -/
def sliceKey (sl x : Nat) : Nat := sl * 2 ^ 45 + x
def copyKey (c x : Nat) : Nat := sliceKey (sliceOf c x) x
def engKey (d e x : Nat) : Nat := (8 * d + e) * 2 ^ 45 + x

def State.copy (s : State) (c x : Nat) : Option (Copy Nat) := (s.copies.find (copyKey c x)).map fun p => p.load s
def State.setCopy (s : State) (c x : Nat) (p : Copy Nat) : State := { s with copies := s.copies.set (copyKey c x) (p.store s) }
def State.dropCopy (s : State) (c x : Nat) : State := { s with copies := s.copies.erase (copyKey c x) }

/-- The copy an engine holds. -/
def State.engCopy (s : State) (d e x : Nat) : Option (Copy Nat) := (s.engCopies.find (engKey d e x)).map fun p => p.load s
def State.setEngCopy (s : State) (d e x : Nat) (p : Copy Nat) : State :=
  { s with engCopies := s.engCopies.set (engKey d e x) (p.store s) }
def State.dropEngCopy (s : State) (d e x : Nat) : State := { s with engCopies := s.engCopies.erase (engKey d e x) }

/-- The copy an owner holds. -/
def State.ownerCopy (s : State) (o : Owner) (x : Nat) : Option (Copy Nat) :=
  match o with
  | .l1 sl => (s.copies.find (sliceKey sl x)).map fun p => p.load s
  | .engine d e => s.engCopy d e x

def State.setOwnerCopy (s : State) (o : Owner) (x : Nat) (p : Copy Nat) : State :=
  match o with
  | .l1 sl => { s with copies := s.copies.set (sliceKey sl x) (p.store s) }
  | .engine d e => s.setEngCopy d e x p

/-- The interface that owns a frame (03 R52); 128 when none does. -/
def State.frameOwner (s : State) (f : Nat) : Nat :=
  let b := s.owners.getD f 0
  if 0x80 ≤ b ∧ b < 0x100 then b - 0x80 else 128

/-- An interface owns a frame of memory. -/
def ownFrame (vi f : Nat) (s : State) : Bool := isMemory (4096 * f) && decide (s.frameOwner f = vi)

/-- Every frame of `n` bytes lies in memory that the interface owns. -/
def ownBytes (vi a n : Nat) (s : State) : Bool :=
  (List.range ((a + n + 4095) / 4096 - a / 4096)).all fun i => ownFrame vi (a / 4096 + i) s

/-! ## The newest data of a line -/

/-- Bytes the device itself is to write to a line when it may (log 20), over data. -/
def State.overDevice (s : State) (x : Nat) (d : Line) : Line :=
  s.devWrites.foldl (fun d w => if w.1 = x then mergeLine d w.2.1 w.2.2 else d) d

/-- A line of memory behind the homes: nothing stands behind a host-window line here. -/
def State.memLine (s : State) (x : Nat) : Line := s.mem.line x

/-- The newest data of a line: its writing owner's, else its home's, else memory's. -/
def State.newest (s : State) (x : Nat) : Line :=
  s.overDevice x (match s.homes.find x with
    | none => if tierOf (128 * x) = .host then s.hostLines.getD x 0 else s.memLine x
    | some h =>
      match h.own with
      | some o => match s.ownerCopy o x with
        | some c => if c.forRead then h.data else c.data
        | none => h.data
      | none => h.data)

/-- `n` bytes of newest data from a physical address, little-endian. -/
def State.peekBytes (s : State) (pa : Nat) : Nat → Nat
  | 0 => 0
  | n + 1 => (lineByte (s.newest (lineOf pa)) (pa % 128)).toNat + 256 * State.peekBytes s (pa + 1) n

/-- Newest data of at most a line that does not cross one. -/
def State.peekField (s : State) (pa n : Nat) : Nat := lineField (s.newest (lineOf pa)) (pa % 128) n

/-! ## Waiting at a line or for room in a set, and answering what waits -/

def holdAt (x : Nat) (w : Waiting) (s : State) : State := { s with waiting := s.waiting.modify x [] (· ++ [w]) }

/-- Who is told when a line waits: the sequencer stops until then. -/
def park (w : Waiting) (s : State) : State :=
  match w with
  | .again k => s.upd k fun q => match q.wait with | .run => { q with wait := .line } | _ => q
  | .req _ | .eng _ => s

/-- One waiter is taken up again. -/
def reissue (w : Waiting) (s : State) : State :=
  match w with
  | .req d => if d ∈ s.due then s else { s with due := d :: s.due }
  | .again k => resume k s
  | .eng c => engGo c s

/-- A ticket in the queue of a set whose holder still waits. -/
def Waiting.live (s : State) : Waiting → Bool
  | .again k => match (s.seq k).wait with | .line | .commit => true | _ => false
  | .req _ => true
  | .eng c => (s.headCmd c).isSome

/-- The requests that wait for room in the set of x, in arrival order (08 R185). -/
def roomQueue (x : Nat) (s : State) : List Waiting := s.roomWait.getD (setKey x) []

/-- A request may be served: no other that reached the set before waits for room (08 R185). -/
def firstInSet (x : Nat) (w : Waiting) (s : State) : Bool :=
  match (roomQueue x s).find? fun v => v = w || v.live s with
  | none => true
  | some v => v = w

def setRoomQueue (x : Nat) (ws : List Waiting) (s : State) : State :=
  { s with roomWait := if ws = [] then s.roomWait.erase (setKey x) else s.roomWait.set (setKey x) ws }

/-- Room may have come free in the set of x: the first that waits for it is taken up again. -/
def roomFreed (x : Nat) (s : State) : State :=
  match (roomQueue x s).find? fun v => v.live s with
  | none => s
  | some v => reissue v s

/-- A request is done at the set: the next is taken up. -/
def leaveQueue (x : Nat) (w : Waiting) (s : State) : State :=
  if w ∈ roomQueue x s then roomFreed x (setRoomQueue x ((roomQueue x s).filter (· ≠ w)) s) else s

/-- What waits elsewhere, or no more, has no place in the queue of a set. -/
def dropTickets (w : Waiting) (s : State) : State :=
  if s.roomWait = [] then s
  else
    let mine := s.roomWait.filter fun e => e.2.contains w
    let s := { s with roomWait := (s.roomWait.map fun e => (e.1, e.2.filter (· ≠ w))).filter fun e => e.2 ≠ [] }
    thread (fun (e : Nat × List Waiting) s => match (s.roomWait.getD e.1 []).find? fun v => v.live s with
      | some v => reissue v s
      | none => s) mine s

/-- A request that others stand before takes its place in the queue of the set; one whose turn it is and that finds no room
keeps the first. -/
def joinQueue {α : Type} (x : Nat) (w : Waiting) (s : State) : Res α :=
  if w ∈ roomQueue x s then .wait (park w s)
  else
    let s := dropTickets w s
    .wait (park w (setRoomQueue x (roomQueue x s ++ [w]) s))
def keepFirst {α : Type} (x : Nat) (w : Waiting) (s : State) : Res α :=
  let s := if w ∈ roomQueue x s then s else dropTickets w s
  .wait (park w (setRoomQueue x (w :: (roomQueue x s).filter (· ≠ w)) s))

/-- A request waits at a line. -/
def holdFor {α : Type} (x : Nat) (w : Waiting) (s : State) : Res α := .wait (park w (holdAt x w (dropTickets w s)))

/-- The key under which requests wait for a rebase to end (07 R166). -/
def rebaseKey : Nat := 2 ^ 61

/-- A rebase is asked for, and what would have stored too large a time waits for its end. -/
def awaitRebase {α : Type} (w : Waiting) (s : State) : Res α :=
  holdFor rebaseKey w (if Due.rebase ∈ s.due then s else s.post .rebase)

/-- Goes on with a time that can be stored. -/
def storing {α : Type} (t : Nat) (w : Waiting) (s : State) (f : State → Res α) : Res α :=
  if s.storable t then f s else awaitRebase w s

/-! ## A write that has performed (07 R157, 18 R403, R407) -/

/-- The tags older than T are cleared and the parked waiters are woken. -/
def performed (x T : Nat) (s : State) : State :=
  match s.homes.find x with
  | none => s
  | some h =>
    let woken := h.waiters ++ ((s.slice x).overflow.filter fun e => e.2 = x).map Prod.fst
    let s := s.updTag x fun h => { h with tags := h.tags.filter fun g => decide (T ≤ g.t), waiters := [] }
    let s := if (s.slice x).overflow.any fun e => e.2 = x then
        s.updSlice x fun sl => { sl with overflow := sl.overflow.filter fun e => e.2 ≠ x }
      else s
    let s := { s with due := s.due ++ woken.map fun k => .waitWake k x T }
    if woken = [] then s else roomFreed x s

/-! ## Sets and sectors (08 R182, R183) -/

/-- The other lines of a line's set. -/
def setMates (s : State) (x : Nat) : AMap (HomeLine (BitVec 24)) := s.homes.filter fun e => e.1 ≠ x && sameSet e.1 x

/-- Sectors of a set that are neither retired nor held by the other lines, lowest first. -/
def freeSectors (s : State) (x : Nat) : List Nat :=
  let used := (setMates s x).flatMap fun e => e.2.sects
  let ret := (s.slice x).retired
  (List.range 32).filter fun i => !(used.contains i) && !(ret.contains (i / 2))

def freeWays (s : State) (x : Nat) : List Nat :=
  let used := (setMates s x).map fun e => e.2.way
  (List.range 16).filter fun w => !(used.contains w) && !((s.slice x).retired.contains w)

/-- The sectors that data of a code takes. -/
def sectorsOf (code : Nat) (d : Line) : Nat := if code = 15 then 0 else Bdz.nsec code d.toNat

/-- The sectors a line takes (R183). -/
def HomeLine.withSectors {T : Type} (h : HomeLine T) (x : Nat) (s : State) : HomeLine T :=
  { h with sects := (freeSectors s x).take (sectorsOf h.code h.data) }

/-- The form in which a line travels to an access unit (06 R133, 08 R186). -/
def HomeLine.form {T : Type} (h : HomeLine T) : Form :=
  { code := h.code, nsec := sectorsOf h.code h.data
    image := if h.code = 15 then 0 else Bdz.payload h.code h.data.toNat }

/-- The line an access unit expands from a form, none where it is poison or fails to decode (06 R134, 08 R181). -/
def expandForm (f : Form) : Option Line := (Bdz.decode f.code f.nsec f.image).map (BitVec.ofNat 1024)

/-- LRU rank 0 for a line that is served (R182, R185). -/
def touch (x : Nat) (s : State) : State :=
  match s.homes.find x with
  | none => s
  | some h =>
    { s with homes := s.homes.map fun e =>
        if e.1 = x then (e.1, { e.2 with lru := 0 })
        else if e.2.lru < h.lru && sameSet e.1 x then (e.1, { e.2 with lru := e.2.lru + 1 }) else e }

/-- A tag is free again: the ranks above its own close up. -/
def freeTag (y : Nat) (s : State) : State :=
  match s.homes.find y with
  | none => s
  | some h =>
    { s with homes := (s.homes.erase y).map fun e =>
        if h.lru < e.2.lru && sameSet e.1 y then (e.1, { e.2 with lru := e.2.lru - 1 }) else e }

/-- Whether a line may be evicted (R183): owned by nobody, no publish pending, not held for expansion, no waiter parked on it,
in its tag or in the slice's overflow list. -/
def evictable (e : Nat × HomeLine (BitVec 24)) (s : State) : Bool :=
  e.2.own.isNone && e.2.pubs.isEmpty && e.2.hx.isNone && e.2.waiters.isEmpty
    && !((s.slice e.1).overflow.any fun w => w.2 = e.1)

/-- Of some lines the one of highest LRU rank. -/
def highest (es : AMap (HomeLine (BitVec 24))) : Option Nat :=
  (es.foldl (fun (b : Option (Nat × Nat)) e => match b with
    | none => some (e.1, e.2.lru)
    | some (y, r) => if r < e.2.lru then some (e.1, e.2.lru) else some (y, r)) none).map Prod.fst

/-! ## Host bias (02 R34 to R36) -/

/-- The bias table has an effect in CXL mode only (R33). With two ports in different modes it has one for every request: R33 speaks
of one mode, and the model takes a device with a CXL port to be in CXL mode (log 108). -/
def State.hostBias (s : State) (x : Nat) : Bool :=
  s.ports.contains .cxl && isMemory (128 * x) && s.bias.contains (frameOfLine x)

/-- The host-tracking state of a line: none is I, `false` S, `true` A. -/
def State.dirState (s : State) (x : Nat) : Option Bool :=
  ((s.slice x).dir.find? fun e => e.1 = x).map Prod.snd

/-- The snoop a device request to a line needs first (R36). -/
def needSnoop (excl : Bool) (x : Nat) (s : State) : Option Bool :=
  if s.hostBias x then
    match s.dirState x with
    | some a => if excl then some true else if a then some false else none
    | none => none
  else none

/-- A snoop to the host, sent once. -/
def snoop (x : Nat) (inv : Bool) (s : State) : State :=
  if OutMsg.snoop x inv ∈ s.outbox then s else { s with outbox := s.outbox ++ [.snoop x inv] }

/-! ## Device writes without a clock

The records, completion words, tables and counters that director cores, homes and controllers write perform at once on
the newest data, at max(wts, rts) + 1 (log 20). One that must wait (for the host's copy, for a rebase, for room) is seen by every
access of the device meanwhile and performs when it may. -/

/-- A device write waits for its turn. -/
def deferWrite (x : Nat) (bytes : Line) (mask : LineMask) (s : State) : State :=
  let s := { s with devWrites := s.devWrites ++ [(x, bytes, mask)] }
  if Due.deviceWrite x ∈ s.due then s else s.post (.deviceWrite x)

/-- The time of a device write to a line at its home. -/
def deviceTime (x : Nat) (h : HomeLine Nat) (s : State) : Nat :=
  match h.own with
  | some o => match s.ownerCopy o x with
    | some c => max (max h.wts h.rts) (max c.wts c.rts) + 1
    | none => max h.wts h.rts + 1
  | none => max h.wts h.rts + 1

/-- A device write in the copy of a line's owner: a poisoned copy takes only all its bytes (08 R186). -/
def pokeOwned (x : Nat) (o : Owner) (c : Copy Nat) (h : HomeLine Nat) (T : Nat) (bytes : Line) (mask : LineMask) (s : State) :
    State :=
  if c.poison ∧ mask ≠ fullMask then s
  else
    let s := s.setOwnerCopy o x { c with data := mergeLine c.data bytes mask, mask := c.mask ||| mask, wts := T, rts := T
                                         poison := false }
    performed x T (s.setHome x { h with data := mergeLine h.data bytes mask })

/-- A device write to a line of memory that has no tag: its slice's MTS stands for its times (07 R150). -/
def pokeMemory (x : Nat) (bytes : Line) (mask : LineMask) (s : State) : State :=
  raiseMts x (s.mts x + 1)
    { s with mem := s.mem.setLine x (mergeLine (s.memLine x) bytes mask)
             poisoned := if mask = fullMask then s.poisoned.filter (· ≠ x) else s.poisoned }

/-- A device write installed at the home at T, where it has the sectors. -/
def pokeHome (x : Nat) (h : HomeLine Nat) (T : Nat) (bytes : Line) (mask : LineMask) (s : State) : State :=
  if h.code = 15 ∧ mask ≠ fullMask then s
  else
    let d := mergeLine h.data bytes mask
    performed x T (s.setHome x
      ({ h with data := d, code := Bdz.code d.toNat, wts := T, rts := T, dirty := true }.withSectors x s))

/-- A device write to a line of memory or to a cached line of the host window. -/
def pokeLine (x : Nat) (bytes : Line) (mask : LineMask) (s : State) : State :=
  if (needSnoop true x s).isSome || s.devWrites.any fun w => w.1 = x then deferWrite x bytes mask s
  else
    match s.home x with
    | none =>
      if tierOf (128 * x) = .host then s
      else if s.converted.find (frameOfLine x) ≠ none ∨ !s.storable (s.mts x + 1) then deferWrite x bytes mask s
      else pokeMemory x bytes mask s
    | some h =>
      let T := deviceTime x h s
      if !s.storable T then deferWrite x bytes mask s
      else match h.own.bind fun o => (s.ownerCopy o x).map fun c => (o, c) with
        | some (o, c) => pokeOwned x o c h T bytes mask s
        | none =>
          let d := mergeLine h.data bytes mask
          if sectorsOf (Bdz.code d.toNat) d ≤ (freeSectors s x).length ∧ h.hx = none then pokeHome x h T bytes mask s
          else deferWrite x bytes mask s

end Sys2Proof.Machine
end

