-- ==== Sys2Proof/Machine/Home.lean ====
section
/-!
DEFINITION. Home slices: writes of the device itself, statistics lines (spec/08_compression.md R189), the heat count of memory
traffic (spec/04_address_spaces.md R98 to R101), compressed-backing frames (08 R190 to R198), room in a set for tags and sectors
(R183 to R185), and opening a line at its home for a request: filling it, recalling its owner (spec/07_coherence.md R155, R157,
R476), and holding the request while that is not done.
-/
namespace Sys2Proof.Machine

/-! ## Heat (04 R98 to R101) -/

/-- `n` bytes of a number written at a physical address, a line at a time, each line by `f`. -/
def overLines (f : Nat → Line → LineMask → State → State) (pa v n : Nat) (s : State) : State :=
  thread (fun i s =>
    let a := max pa (128 * (lineOf pa + i))
    let b := min (pa + n) (128 * (lineOf pa + i + 1))
    if a < b then f (lineOf a) (lineWith (a % 128) (v >>> (8 * (a - pa)) % 2 ^ (8 * (b - a)))) (maskOf (a % 128) (b - a)) s
    else s) (List.range (n / 128 + 2)) s

/-- The counter index of an address, for the ranges that have counters. -/
def heatIndex (pa : Nat) : Option Nat :=
  match tierOf pa with
  | .hbm => some (pa / 65536)
  | .lpddr => some (8388608 + (pa - 0x10000000000) / 65536)
  | .host => some (25165824 + (pa - 0x40000000000) / 65536)
  | _ => none

/-- HEATEPOCH's low byte. -/
def heatEpoch (s : State) : Nat := s.cycle / 2 ^ 26 % 256

/-- The lazy halving of heat line k before it is touched (R101). -/
def heatSettle (k : Nat) (s : State) : State :=
  let base := s.mgmt.heatbase.toNat
  let ea := base + 184549376 + k
  let d := (heatEpoch s + 256 - s.peekField ea 1) % 256
  if d = 0 then s
  else
    let l := (s.newest (lineOf base + k)).toNat
    let halved := (List.range 64).foldr (fun i acc => acc * 2 ^ 16 + bitsAt l (16 * i) 16 >>> min d 16) 0
    overLines pokeLine ea (heatEpoch s) 1 (pokeLine (lineOf base + k) (BitVec.ofNat 1024 halved) fullMask s)

/-- A sampled access counts for its region, saturating (R100). -/
def heatAdd (n : Nat) (s : State) : State :=
  let s := heatSettle (n / 64) s
  let a := s.mgmt.heatbase.toNat + 2 * n
  overLines pokeLine a (min 0xFFFF (s.peekField a 2 + 1)) 2 s

/-- A line of the heat table or of compression metadata: accesses to it are not counted (R100). -/
def uncounted (x : Nat) (s : State) : Bool :=
  let within (base size : Nat) : Bool := decide (base ≤ 128 * x) && decide (128 * x < base + size)
  within s.mgmt.heatbase.toNat 185991168
    || (s.mgmt.mdbaseh.getLsbD 0 && within (s.mgmt.mdbaseh.toNat / 4096 * 4096) 0x100000000)
    || (s.mgmt.mdbasel.getLsbD 0 && within (s.mgmt.mdbasel.toNat / 4096 * 4096) 0x200000000)

/-- A home slice reads or writes a line of memory or of the host window (R100). -/
def heatCount (x : Nat) (s : State) : State :=
  if s.mgmt.heatEn && !uncounted x s then
    match heatIndex (128 * x) with
    | none => s
    | some n =>
      let c := ((s.slice x).samples + 1) % 2 ^ 32
      let s := s.updSlice x fun sl => { sl with samples := c }
      if c % 2 ^ s.mgmt.heatshift = 0 then heatAdd n s else s
  else s

/-! ## Writes of the device itself (log 20) -/

/-- A write to the host window leaves for the host as it is made (02 R33). -/
def hostStore (vi x : Nat) (bytes : Line) (mask : LineMask) (s : State) : State := sendHostWrite vi x bytes mask (heatCount x s)

/-- A write that the device makes for an interface (128: for itself). -/
def pokeFor (vi x : Nat) (bytes : Line) (mask : LineMask) (s : State) : State :=
  if tierOf (128 * x) = .host then pokeLine x bytes mask (hostStore vi x bytes mask s)
  else pokeLine x bytes mask (if (s.homes.find x).isNone then heatCount x s else s)

def poke (x : Nat) (bytes : Line) (mask : LineMask) (s : State) : State := pokeFor 128 x bytes mask s

/-- `n` bytes of a number written at a physical address by the device, a line at a time. -/
def pokeBytesFor (vi pa v n : Nat) (s : State) : State := overLines (pokeFor vi) pa v n s
def pokeBytes (pa v n : Nat) (s : State) : State := pokeBytesFor 128 pa v n s

/-! ## Statistics lines (08 R189) -/

/-- 1 added to the counter at an offset of an interface's statistics line. -/
def countStat (vi off : Nat) (s : State) : State :=
  if vi < 128 ∧ (s.vi vi).cstat ≠ 0 then
    let a := (s.vi vi).cstat.toNat + off
    pokeBytes a (s.peekField a 8 + 1) 8 s
  else s

/-! ## Compressed-backing frames (08 R190 to R198) -/

/-- The interface of a converted frame. -/
def State.cbOwner (s : State) (x : Nat) : Option Nat := s.converted.find (frameOfLine x)

/-- Where a line's metadata byte lies. -/
def mdAddr (s : State) (x : Nat) : Nat :=
  if tierOf (128 * x) = .hbm then s.mgmt.mdbaseh.toNat / 4096 * 4096 + x
  else s.mgmt.mdbasel.toNat / 4096 * 4096 + (x - 0x10000000000 / 128)

/-- The controller that serves a line: one for each of the eight HBM4E stacks of 64 GiB (00 R1, 01 R8), and one for the
LPDDR-6 channels of each I/O die, 512 GiB each (log 21). -/
def mdController (x : Nat) : Nat :=
  if tierOf (128 * x) = Tier.hbm then bitsAt x 29 3 else 8 + bitsAt (x - 0x10000000000 / 128) 32 1

/-- The controller's metadata cache: 256 KiB of lines, counted as hits and misses of the die that homes the line; the least
recently used line leaves (log 21). -/
def mdTouch (x : Nat) (s : State) : State :=
  let l := mdAddr s x / 128
  let c := s.mdCached.getD (mdController x) []
  let s := { s with mdCached := s.mdCached.set (mdController x) ((l :: c.filter (· ≠ l)).take 2048) }
  s.updDie (homeDie x) fun q => if l ∈ c then { q with mdhit := q.mdhit + 1 } else { q with mdmiss := q.mdmiss + 1 }

/-- A line's metadata: CODE, NSEC and SP. -/
def mdRead (s : State) (x : Nat) : Nat × Nat × Bool :=
  let b := (s.mem.byte (mdAddr s x)).toNat
  (b / 16, b / 2 % 8, b % 2 = 1)

def mdWrite (x code nsec : Nat) (sp : Bool) (s : State) : State :=
  { s with mem := s.mem.put (mdAddr s x) (BitVec.ofNat 8 (16 * code + 2 * nsec + (if sp then 1 else 0))) }

/-- The compact slot and the address of a granule (R192). -/
def cbSlot (x : Nat) : Nat := 4096 * frameOfLine x + 32 * (x % 32)
def granuleAddr (s : State) (vi g : Nat) : Nat :=
  4096 * (s.peekField ((s.vi vi).cptbase.toNat + 16 * (g / 32)) 8 % 2 ^ 40) + 128 * (g % 32)

/-- A granule that an interface may use: its entry and its frame lie in frames the interface owns (00 R7; log 103). -/
def granuleOk (vi g : Nat) (s : State) : Bool :=
  ownBytes vi ((s.vi vi).cptbase.toNat + 16 * (g / 32)) 16 s && ownBytes vi (granuleAddr s vi g) 128 s

/-- The image of a converted line in memory; a granule that is not the interface's gives none. -/
def cbImage (s : State) (vi x : Nat) : Option Nat :=
  let m := mdRead s x
  if m.2.2 then
    let g := s.mem.read (cbSlot x + 28) 4
    if granuleOk vi g s then some (s.mem.read (cbSlot x) 28 + 2 ^ 224 * s.mem.read (granuleAddr s vi g) (32 * m.2.1 - 28)) else none
  else some (s.mem.read (cbSlot x) (min 32 (32 * m.2.1)))

/-- The lowest set FREE bit of the lowest entry that has one, cleared (R194). An entry that breaks R193 offers nothing. -/
def popGranule (vi : Nat) (s : State) : Option (Nat × State) :=
  let v := s.vi vi
  let base := v.cptbase.toNat
  match (List.range v.cptsize).find? fun i =>
      bitsAt (s.peekField (base + 16 * i) 8) 40 1 = 1 && s.peekField (base + 16 * i + 8) 4 ≠ 0 && granuleOk vi (32 * i) s with
  | none => none
  | some i =>
    let free := s.peekField (base + 16 * i + 8) 4
    match (List.range 32).find? fun b => bitsAt free b 1 = 1 with
    | none => none
    | some b => some (32 * i + b, pokeBytes (base + 16 * i + 8) (free - 2 ^ b) 4 s)

def pushGranule (vi g : Nat) (s : State) : State :=
  let a := (s.vi vi).cptbase.toNat + 16 * (g / 32) + 8
  if granuleOk vi g s then pokeBytes a (s.peekField a 4 ||| 2 ^ (g % 32)) 4 s else s

/-- A batch of a home slice for an empty spill pool (R195). -/
def expansionBatch (vi x : Nat) (s : State) : State :=
  let e : FaultEntry := { page := frameOfLine x * 4096, access := 1, cause := 0x0B, first := 0xFFFF, count := 0, detail := 1 }
  let s := s.updVi vi fun v =>
    { v with ring := { v.ring with queue := v.ring.queue ++ [{ post := .batch (.home x) 0 0 0 [e] }] } }
  let s := s.updDie (homeDie x) fun d => { d with poolexp := d.poolexp + 1 }
  (countStat (s.frameOwner (frameOfLine x)) 0x78 s).post (.faultBatchPost vi)

/-- The write-back of a converted line (R195), and whether it has been done: not when the pool is empty. -/
def cbWriteBack (vi x : Nat) (h : HomeLine Nat) (s : State) : Bool × State :=
  let s := mdTouch x s
  let m := mdRead s x
  let code := h.code
  let n := sectorsOf code h.data
  let img := if code = 15 then 0 else Bdz.payload code h.data.toNat
  if n ≤ 1 then
    let s := if m.2.2 then pushGranule vi (s.mem.read (cbSlot x + 28) 4) s else s
    (true, mdWrite x code n false { s with mem := s.mem.write (cbSlot x) img 32 })
  else
    let s := if code = 11 then
        countStat (s.frameOwner (frameOfLine x)) 0x70 (s.updDie (homeDie x) fun d => { d with incomp := d.incomp + 1 })
      else s
    let got := if m.2.2 ∧ granuleOk vi (s.mem.read (cbSlot x + 28) 4) s then some (s.mem.read (cbSlot x + 28) 4, s)
      else popGranule vi s
    match got with
    | none => (false, s)
    | some (g, s) =>
      let mem := s.mem.write (cbSlot x) (img % 2 ^ 224) 28
      let mem := mem.write (cbSlot x + 28) g 4
      (true, mdWrite x code n true { s with mem := mem.write (granuleAddr s vi g) (img / 2 ^ 224) 128 })

/-- What memory holds of a line: its data and its code (08 R183, R197). -/
def memImage (x : Nat) (s : State) : Line × Nat :=
  match s.cbOwner x with
  | some o =>
    let m := mdRead s x
    match (cbImage s o x).bind fun i => Bdz.decode m.1 m.2.1 i with
    | some l => (BitVec.ofNat 1024 l, m.1)
    | none => (0, 15)
  | none =>
    let l := if tierOf (128 * x) = .host then s.hostLines.getD x 0 else s.memLine x
    if x ∈ s.poisoned then (l, 15) else (l, Bdz.code l.toNat)

/-- What a fill counts: the access of memory, the metadata cache, and an encoding for the interface whose agent asked
(R189). -/
def countFill (x vi code : Nat) (s : State) : State :=
  let s := heatCount x s
  if (s.cbOwner x).isSome then mdTouch x s else if code = 15 then s else countStat vi (8 * code) s

/-- A line's data wherever it lies, decoded where its frame is converted. -/
def lineNow (x : Nat) (s : State) : Line :=
  match s.homes.find x with
  | some _ => s.newest x
  | none => s.overDevice x (memImage x s).1

/-- A line is poisoned: its owner's copy, in the cache, or in memory. -/
def lineBad (x : Nat) (s : State) : Bool :=
  match s.homes.find x with
  | some h => match h.own with
    | some o => match s.ownerCopy o x with
      | some c => c.poison
      | none => h.code = 15
    | none => h.code = 15
  | none => (memImage x s).2 = 15

/-! ## Evictions and room (08 R183 to R185, R195) -/

/-- The line leaves the cache: written back when dirty, a host-window line's bytes having gone to the host as they were
written; with an empty spill pool it stays, held for expansion (R195). Its link tags are gone with its tag. -/
def evict (y : Nat) (s : State) : State :=
  match s.home y with
  | none => s
  | some h =>
    let gone (s : State) : State := raiseMts y h.rts (freeTag y s)
    if h.dirty then
      let s := heatCount y s
      match s.cbOwner y with
      | some o =>
        let r := cbWriteBack o y h s
        if r.1 then gone r.2 else expansionBatch o y (r.2.updTag y fun h => { h with hx := some 0 })
      | none =>
        if tierOf (128 * y) = .host then
          gone { s with hostLines := s.hostLines.erase y }
        else
          gone { s with mem := s.mem.setLine y h.data,
                        poisoned := if h.code = 15 then (if y ∈ s.poisoned then s.poisoned else y :: s.poisoned)
                                    else s.poisoned.filter (· ≠ y) }
    else gone { s with hostLines := s.hostLines.erase y }

/-- A recall by the home: the owner is asked once (07 R158). -/
def askOwner (x : Nat) (mode : RecallMode) (s : State) : State :=
  match s.homes.find x with
  | some h =>
    match h.own with
    | some o => if h.recalled then s else (s.updTag x fun h => { h with recalled := true, asked := s.cycle }).post (.rcl o x h.ver mode)
    | none => s
  | none => s

/-- Room in the set of x for a tag and `need` sectors: evictions in falling LRU rank; a write counts those that gave room
(R184, R185). With nothing left to evict, an owned line is recalled and the request waits, first of those that wait for room in
the set. -/
def makeRoom (x need vi : Nat) (write : Bool) (w : Waiting) : (fuel : Nat) → State → Res Unit
  | 0, s => keepFirst x w s
  | fuel + 1, s =>
    if (freeWays s x) ≠ [] ∧ need ≤ (freeSectors s x).length then .ok () s
    else
      let mates := setMates s x
      match highest (mates.filter fun e => evictable e s) with
      | some y =>
        let s := evict y s
        let s := if write && (s.homes.find y).isNone then
            countStat vi 0x68 (s.updDie (homeDie x) fun d => { d with expevict := d.expevict + 1 })
          else s
        makeRoom x need vi write w fuel s
      | none =>
        if mates = [] then .ok () s
        else match highest (mates.filter fun e => e.2.own.isSome && !e.2.recalled) with
          | some y =>
            let s := if write then s.updDie (homeDie x) fun d => { d with exprecall := d.exprecall + 1 } else s
            keepFirst x w (askOwner y .i s)
          | none => keepFirst x w s

/-- Evictions enough for every line of a set, and one more test. -/
def roomFuel : Nat := 17

/-- A line with no tag is filled (07 R150, 08 R183, R184). A host-window line comes from the host first. -/
def fill (x vi : Nat) (w : Waiting) (s : State) : Res (HomeLine Nat) :=
  if tierOf (128 * x) = .host ∧ s.hostLines.find x = none then
    let s := if x ∈ s.hostAsked then s
      else { s with hostAsked := x :: s.hostAsked, outbox := s.outbox ++ [.hostRead (hostPort vi s) (hostAddr x s)] }
    holdFor x w s
  else
    let f := memImage x s
    (makeRoom x (sectorsOf f.2 f.1) vi false w roomFuel s).andThen fun _ s =>
      let s := countFill x vi f.2 s
      let h : HomeLine Nat := { data := f.1, code := f.2, way := (freeWays s x).headD 0, lru := (setMates s x).length,
                                wts := s.mts x, rts := s.mts x }
      let h := h.withSectors x s
      .ok { h with lru := 0 } (touch x (s.setHome x h))

/-! ## Ownership-mode runs (07 R164) -/

/-- The sequencers of a cluster that hold a line for a commit or an ownership-mode run. -/
def holders (c x : Nat) (s : State) : List Agent :=
  (s.seqs.filter fun e => decide (clusterOfSeq e.1 = c) && e.2.holds.contains x).map Prod.fst

/-- In an ownership-mode run. -/
def Seq.inOwnMode (q : Seq) : Bool := match q.strip with | some st => st.ownMode | none => false

/-- The older of two ownership-mode runs (R164). -/
def olderRun (s : State) (k j : Agent) : Bool :=
  match (s.seq k).age, (s.seq j).age with
  | some a, some b => decide (a < b) || (a = b && decide (k < j))
  | _, _ => false

/-- A replay of a strip: it rolls back, counted, and two in a row make the next run an ownership-mode run (R164). -/
def replay (k : Agent) (s : State) : State :=
  let s := rollBack k s
  s.upd k fun q => { q with fails := q.fails + 1, wait := .run, n := { q.n with sreplay := q.n.sreplay + 1 } }

/-- A line that `k` wants is held in cluster `c`: a younger ownership-mode run gives way to an older one, and a commit
that holds other lines gives them up when what it waits for is held by an ownership-mode run (R163, R164; log 22). -/
def contend (k c x : Nat) (s : State) : State :=
  thread (fun j s =>
    if j = k then s
    else if (s.seq j).inOwnMode then
      if (s.seq k).inOwnMode && olderRun s k j then replay j s
      else if (s.seq k).commit.isSome && !(s.seq k).inOwnMode then letGo k s
      else s
    else s) (holders c x s) s

/-- The agent a request works for. -/
def Waiting.agent : Waiting → Option Agent
  | .again k => some k
  | .req (.rds k ..) | .req (.rnw k ..) | .req (.rdo k ..) | .req (.rdr k ..) => some k
  | .req _ | .eng _ => none

/-! ## Opening a line -/

/-- How a request uses a line: a lease (R155), ownership or a write (R157), or a read that leaves no copy (R476). -/
inductive Use where
  | lease | write | peek
  deriving DecidableEq, Repr

/-- Whether an owner must answer before the line can be used so, and in which mode. -/
def HomeLine.needRecall {T : Type} (h : HomeLine T) (u : Use) : Option RecallMode :=
  match h.own with
  | none => none
  | some _ => match u with
    | .lease => some .s
    | .write => some .i
    | .peek => if h.omode then none else some .s

/-- A request whose turn it is at a line: none before it waits for room in the set (08 R185), no write of the device does, its frame is not flipping (02
R37; `inside` is the flip's own access), the host has given up what the use needs (R36). -/
def admitted (u : Use) (x : Nat) (w : Waiting) (inside : Bool) (s : State) : Res Unit :=
  if !firstInSet x w s then joinQueue x w s
  else if w ≠ .req (.deviceWrite x) && s.devWrites.any fun e => e.1 = x then holdFor x w s
  else if !inside && (s.flipping.find (frameOfLine x)).isSome then holdFor x w s
  else match needSnoop (u = Use.write) x s with
    | some inv => holdFor x w (snoop x inv s)
    | none => .ok () s

/-- The line of a request, with its tag; filled where it has none. -/
def present (x vi : Nat) (w : Waiting) (s : State) : Res (HomeLine Nat) :=
  match s.home x with
  | some h => .ok h s
  | none => fill x vi w s

/-- A line at its home, ready for a use by a request `w` of interface `vi`: filled, snooped, its owner answered, no
publish pending where the use is a load (07 R174); else the request waits and is served again. -/
def openLine (u : Use) (x vi : Nat) (w : Waiting) (inside : Bool) (s : State) : Res (HomeLine Nat) :=
  (admitted u x w inside s).andThen fun _ s =>
    (present x vi w s).andThen fun h s =>
      match h.needRecall u with
      | some m =>
        let s := askOwner x m s
        let s := match w.agent, h.own with
          | some k, some (.l1 sl) => contend k (clusterOfSlice sl) x s
          | _, _ => s
        holdFor x w s
      | none =>
        if u ≠ Use.write && !h.pubs.isEmpty then holdFor x w s
        else .ok { h with lru := 0 } (leaveQueue x w (touch x s))

/-! ## Writing at the home -/

/-- A line held for expansion whose data now takes a sector or none is stored at once, and held no more (R196). -/
def settleHx (x : Nat) (s : State) : State :=
  match s.home x with
  | none => s
  | some h =>
    match h.hx, s.cbOwner x with
    | some _, some o =>
      if sectorsOf h.code h.data ≤ 1 then roomFreed x ((cbWriteBack o x h s).2.updTag x fun h => { h with hx := none, dirty := false })
      else s
    | _, _ => s

/-- Data and times installed at the home; the line is recoded and takes its sectors (08 R183, R185). -/
def install (x : Nat) (h : HomeLine Nat) (data : Line) (wts rts : Nat) (s : State) : State :=
  settleHx x (touch x (s.setHome x
    ({ h with data := data, code := Bdz.code data.toNat, dirty := true, wts := wts, rts := rts }.withSectors x s)))

/-- A write of masked bytes installed at the home at time T (08 R185, R186): a poisoned line takes only a write of all
its bytes, and counts a refused one for the interface. -/
def homeWrite (x vi T : Nat) (bytes : Line) (mask : LineMask) (w : Waiting) (s : State) : Res Unit :=
  (present x vi w s).andThen fun h s =>
    if h.code = 15 ∧ mask ≠ fullMask then .ok () (countStat vi 0x60 s)
    else
      let data := mergeLine h.data bytes mask
      let code := Bdz.code data.toNat
      storing T w s fun s =>
        (makeRoom x (Bdz.nsec code data.toNat) vi true w roomFuel s).andThen fun _ s =>
          let h := (s.home x).getD h
          let s := countStat vi (8 * code) (install x h data T T s)
          .ok () (performed x T (leaveQueue x w s))

/-- A write that belongs to an access already under way, at its time T: it waits for nothing, the lines it needs having been
opened before, and takes what sectors it finds. A line that made room for another of them meanwhile has it in memory. -/
def homePut (x vi T : Nat) (bytes : Line) (mask : LineMask) (s : State) : State :=
  match s.home x with
  | none => raiseMts x T (pokeFor vi x bytes mask s)
  | some h =>
    if h.code = 15 ∧ mask ≠ fullMask then countStat vi 0x60 s
    else
      let data := mergeLine h.data bytes mask
      let code := Bdz.code data.toNat
      let w := Waiting.req (.deviceWrite x)
      let s := match makeRoom x (Bdz.nsec code data.toNat) vi true w roomFuel s with
        | .ok _ s => s
        | .wait s | .trap _ _ s | .fault _ s => setRoomQueue x ((roomQueue x s).filter (· ≠ w)) s
      let h := (s.home x).getD h
      performed x T (countStat vi (8 * code) (install x h data (max h.wts T) (max h.rts T) s))

/-- A line read at its home with clock c by a reader that keeps no copy (04 R75): the time it is served. -/
def homePeek (x c vi : Nat) (w : Waiting) (s : State) : Res (Line × Nat) :=
  (openLine .peek x vi w false s).andThen fun h s =>
    let t := max c h.wts
    storing t w s fun s => .ok (h.data, t) (s.setHome x { h with rts := max h.rts t })

/-- A read and write of a line at its home in one step, at T = max(clock, rts + 1) (04 R75, R81, R86). `f` gives the
bytes written from the old data. -/
def homeAtomic (x c vi : Nat) (w : Waiting) (f : Line → Line × LineMask) (s : State) : Res (Line × Nat) :=
  (openLine .write x vi w false s).andThen fun h s =>
    let T := max c (h.rts + 1)
    let r := f h.data
    (homeWrite x vi T r.1 r.2 w s).andThen fun _ s => .ok (h.data, T) s

/-! ## Deferred writes of the device -/

/-- The device writes that wait for a line perform, in their order and at one time, when the line can be opened and has the
room. -/
def homeDevice (x : Nat) (s : State) : State :=
  let mine := s.devWrites.filter fun e => e.1 = x
  let w := Waiting.req (.deviceWrite x)
  if mine = [] then leaveQueue x w s
  else
    let mask := mine.foldl (fun m e => m ||| e.2.2) (0 : LineMask)
    let bytes := mine.foldl (fun d e => mergeLine d e.2.1 e.2.2) (0 : Line)
    let done (s : State) : State := { s with devWrites := s.devWrites.filter fun e => e.1 ≠ x }
    let r := (admitted .write x w false s).andThen fun _ s =>
      (present x 128 w s).andThen fun h s =>
        match h.own.bind fun o => (s.ownerCopy o x).map fun c => (o, c) with
        | some (o, c) =>
          let T := deviceTime x h s
          storing T w s fun s => .ok () (leaveQueue x w (pokeOwned x o c h T bytes mask s))
        | none => homeWrite x 128 (deviceTime x h s) bytes mask w s
    match r with
    | .ok _ s => serveWaiting x (done s)
    | .wait s | .trap _ _ s | .fault _ s => s

end Sys2Proof.Machine
end

