-- ==== Sys2Proof/Machine/Coherence.lean ====
section
/-!
DEFINITION. Coherence by logical time (spec/07_coherence.md): the messages between agents and homes as steps (R154 to
R160, R163, R174), a sequencer's loads and stores through its slice (R155 to R157), the progress rules (R161), rebase
(R166, R167), dead agents (R168, R169), the recalls a slice answers (R158, R160), and the space of an L1 slice (spec/
06_clusters.md R126, R131, R132).
-/
namespace Sys2Proof.Machine

/-! ## Message handling at homes -/

/-- A message a home drops is counted (R159, R169). -/
def dropStale (x : Nat) (s : State) : State := s.updDie (homeDie x) fun d => { d with stale := d.stale + 1 }

/-- A message from sequencer `k` of its current generation (R169). -/
def genuine (k gen : Nat) (s : State) : Bool := (s.seq k).gen = gen

/-- The number under which an owner's generation is kept, and its current generation. -/
def agentKey : Owner → Nat
  | .l1 sl => sl
  | .engine d e => 1024 + 8 * d + e
def ownerGen (o : Owner) (s : State) : Nat := s.engGen.getD (agentKey o) 0

/-- The home's part of a request of sequencer `k` of generation `gen`: dropped where the generation is an old one. -/
def atHome (k gen x : Nat) (d : Due) (f : State → Res Unit) (s : State) : State :=
  if !genuine k gen s then leaveQueue x (.req d) (dropStale x s)
  else match f s with
    | .ok _ s | .wait s | .trap _ _ s | .fault _ s => s

/-- RDS (R155): a shared copy leased to t + LEASE. -/
def homeRds (k gen x pts lease : Nat) (s : State) : State :=
  let d := Due.rds k gen x pts lease
  atHome k gen x d (fun s =>
    (openLine .lease x (s.seq k).vi (.req d) false s).andThen fun h s =>
      let t := max pts h.wts
      storing (t + lease) (.req d) s fun s =>
        .ok () ((s.setHome x { h with rts := max h.rts (t + lease) }).post (.data k x h.form h.wts (t + lease)))) s

/-- RNW (R155, R167): a renewal without data where the copy's write time still stands. -/
def homeRnw (k gen x pts lease wts epoch : Nat) (s : State) : State :=
  let d := Due.rnw k gen x pts lease wts epoch
  atHome k gen x d (fun s =>
    (openLine .lease x (s.seq k).vi (.req d) false s).andThen fun h s =>
      let t := max pts h.wts
      storing (t + lease) (.req d) s fun s =>
        let s := s.setHome x { h with rts := max h.rts (t + lease) }
        .ok () (if h.wts = wts ∧ epoch = s.rebases then
          (s.updDie (homeDie x) fun d => { d with renewd := d.renewd + 1 }).post (.rnok k x (t + lease))
        else
          (s.updDie (homeDie x) fun d => { d with renewf := d.renewf + 1 }).post (.data k x h.form h.wts (t + lease)))) s

/-- How the L1 slice of cluster `c` owns a line: none, or with OMODE. -/
def ownedBy (c x : Nat) (s : State) : Option Bool :=
  match s.homes.find x with
  | some h => if h.own = some (l1Of c x) then some h.omode else none
  | none => none

/-- Ownership granted (R157, R164): VER rises, OWN and OMODE are set. -/
def grantLine (k x : Nat) (forRead : Bool) (h : HomeLine Nat) (s : State) : State :=
  let ver := (h.ver + 1) % 256
  let s := s.setHome x
    { h with ver := ver, own := some (l1Of (clusterOfSeq k) x), omode := forRead, recalled := false, lru := 0
             gvi := (s.seq k).vi }
  s.post (.grant k x h.form h.wts h.rts ver forRead)

/-- RDO and RDR (R157, R164). A slice that owns the line only for reading and asks to write it need answer no recall; the host
gives up its copy as for any store (02 R36). -/
def homeOwn (k gen x pts : Nat) (forRead : Bool) (s : State) : State :=
  let d := if forRead then Due.rdr k gen x pts else Due.rdo k gen x pts
  let w := Waiting.req d
  atHome k gen x d (fun s =>
    match ownedBy (clusterOfSeq k) x s with
    | some omode =>
      if forRead || !omode then .ok () (leaveQueue x w (resume k s))
      else (admitted .write x w false s).andThen fun _ s =>
        match s.home x with
        | some h => .ok () (grantLine k x forRead h (leaveQueue x w (touch x s)))
        | none => .ok () s
    | none => (openLine .write x (s.seq k).vi w false s).andThen fun h s => .ok () (grantLine k x forRead h s)) s

/-- A line that another agent owns for writing and that it answers for only when a commit, an ownership-mode run or an engine's
work ends: a validation does not wait for it (log 23). -/
def heldForWriting (x : Nat) (h : HomeLine Nat) (s : State) : Bool :=
  !h.omode && match h.own with
    | some (.l1 sl) => holders (clusterOfSlice sl) x s ≠ []
    | some (.engine ..) => true
    | none => false

/-- VAL (R163): the write time unchanged, or a failure. A line that another agent owns for writing is recalled first, so that
its write time is known at the home; one that is held fails (log 23). -/
def homeVal (k gen x tc wts epoch : Nat) (s : State) : State :=
  let d := Due.val k gen x tc wts epoch
  let w := Waiting.req d
  atHome k gen x d (fun s =>
    if epoch ≠ s.rebases then .ok () (leaveQueue x w (s.post (.vfail k x)))
    else match s.home x with
      | none =>
        if s.mts x ≠ wts then .ok () (leaveQueue x w (s.post (.vfail k x)))
        else
          (openLine .peek x (s.seq k).vi w false s).andThen fun h s =>
            storing tc w s fun s => .ok () ((s.setHome x { h with rts := max h.rts tc }).post (.vok k x))
      | some h =>
        if h.wts ≠ wts || heldForWriting x h s then .ok () (leaveQueue x w (s.post (.vfail k x)))
        else
          (openLine .peek x (s.seq k).vi w false s).andThen fun h s =>
            if h.wts ≠ wts then .ok () (s.post (.vfail k x))
            else storing tc w s fun s => .ok () ((s.setHome x { h with rts := max h.rts tc }).post (.vok k x))) s

/-- What a home does with an answer to a recall or a release (R158, R159): accepted from the owner at the home's version. -/
inductive Answer where
  | accept (h : HomeLine Nat)
  | later
  | drop

def judgeAnswer (o : Owner) (gen x ver : Nat) (s : State) : Answer :=
  match s.home x with
  | none => .drop
  | some h =>
    if gen ≠ ownerGen o s then .drop
    else if h.own = some o ∧ h.ver = ver then .accept h
    else if h.own = none ∧ h.last = some o ∧ h.ver = ver then .later
    else .drop

/-- The owner's hold ends and what waited is served. -/
def endOwnership (x wts rts : Nat) (h : HomeLine Nat) (s : State) : State :=
  let s := s.setHome x
    { h with own := none, last := h.own, omode := false, recalled := false, wts := max h.wts wts, rts := max h.rts rts }
  roomFreed x (serveWaiting x s)

/-- The interface that an owner's write-back counts for (08 R189): the frame's owner, and for a line of the host window the one
for which the ownership was granted (log 24). -/
def ownerVi (x : Nat) (s : State) : Nat :=
  if tierOf (128 * x) = .host then (match s.homes.find x with | some h => h.gvi | none => 128) else s.frameOwner (frameOfLine x)

/-- WB (R158, R159): the masked bytes are merged into the home's line (08 R186), poison where the owner's data is. A line whose
new sectors find no room while others wait for room in its set goes to memory at once (08 R185). -/
def homeWb (o : Owner) (gen x ver wts rts : Nat) (bytes : Line) (mask : LineMask) (poison : Bool) (s : State) : State :=
  let w := Waiting.req (.wb o gen x ver wts rts bytes mask poison)
  match judgeAnswer o gen x ver s with
  | .later => leaveQueue x w s
  | .drop => leaveQueue x w (dropStale x s)
  | .accept h =>
    if poison then endOwnership x wts rts { h with code := 15, sects := [], dirty := true } (leaveQueue x w s)
    else if h.code = 15 ∧ mask ≠ fullMask then endOwnership x wts rts h (leaveQueue x w s)
    else
      let vi := ownerVi x s
      let data := mergeLine h.data bytes mask
      let code := Bdz.code data.toNat
      match makeRoom x (Bdz.nsec code data.toNat) vi true w roomFuel s with
      | .ok _ s =>
        let s := countStat vi (8 * code) (install x ((s.home x).getD h) data h.wts h.rts s)
        endOwnership x wts rts ((s.home x).getD h) (leaveQueue x w s)
      | .wait t | .trap _ _ t | .fault _ t =>
        if (roomQueue x s).any fun v => v ≠ w then
          let s := s.setHome x { h with data := data, code := code, sects := [], dirty := true }
          evict x (endOwnership x wts rts ((s.home x).getD h) (leaveQueue x w (countStat vi (8 * code) s)))
        else t

/-- REL (R158, R159). -/
def homeRel (o : Owner) (gen x ver wts rts : Nat) (s : State) : State :=
  match judgeAnswer o gen x ver s with
  | .later => s
  | .drop => dropStale x s
  | .accept h => endOwnership x wts rts h s

/-- NH (R159, R160). -/
def homeNh (o : Owner) (gen x ver : Nat) (s : State) : State :=
  match judgeAnswer o gen x ver s with
  | .later => s
  | .drop => dropStale x s
  | .accept h => endOwnership x h.wts h.rts h s

/-! ## Giving lines up (R158) -/

/-- A slice gives up a line it owns: WB when modified, else REL; it keeps a shared copy or drops the line (R158). -/
def giveUp (c x : Nat) (mode : RecallMode) (p : Copy Nat) (s : State) : State :=
  let o := l1Of c x
  let gen := ownerGen o s
  let s := match mode with
    | .s => s.setCopy c x { p with own := false, forRead := false, mask := 0 }
    | .i => s.dropCopy c x
  if p.mask = 0 then s.post (.rel o gen x p.ver p.wts p.rts)
  else s.post (.wb o gen x p.ver p.wts p.rts p.data p.mask p.poison)

/-! ## The space of an L1 slice (06 R126, R131, R132) -/

/-- The line by which a place is ordered and held: the line a store names. -/
def Loc.order : Loc → Nat
  | .line x => x
  | .matte _ _ plate => plate

/-- A sequencer's own unperformed bytes: its phase bytes, and its strip's (06 R132, 07 R173). -/
def Seq.buffers (q : Seq) : List BufEntry :=
  q.phase ++ (match q.strip with | some st => st.phbuf ++ st.buf | none => [])

/-- The bytes of a slice in use: its lines, and the buffered bytes of the cluster's sequencers for its lines. -/
def sliceUse (sl : Nat) (s : State) : Nat :=
  128 * (s.copies.filter fun e => e.1 / 2 ^ 45 = sl).length
    + (s.seqs.filter fun e => decide (clusterOfSeq e.1 = clusterOfSlice sl)).foldl (fun n e =>
        e.2.buffers.foldl (fun n b => if l1Slice b.loc.order = sl % 4 then n + Bdz.popc b.mask.toNat 128 else n) n) 0

/-- A sequencer of the cluster needs the line for the instruction it is in, or holds it. -/
def inUse (c x : Nat) (s : State) : Bool :=
  s.seqs.any fun e => decide (clusterOfSeq e.1 = c) && (e.2.wants.contains x || e.2.holds.contains x)

/-- The slice keeps to its 256 KiB: lines that no instruction in progress uses leave it, copies dropped and owned lines given up
(R160; log 109 for the order). -/
def trimSlice (sl : Nat) (s : State) : State :=
  if sliceUse sl s ≤ 262144 then s
  else
    let c := clusterOfSlice sl
    let lines := (s.copies.filter fun e => e.1 / 2 ^ 45 = sl).map fun e => (e.1 % 2 ^ 45, e.2.own)
    thread (fun (e : Nat × Bool) s =>
      if sliceUse sl s ≤ 262144 || inUse c e.1 s then s
      else match s.copy c e.1 with
        | some p => if p.own then giveUp c e.1 .i p s else s.dropCopy c e.1
        | none => s) ((lines.filter fun e => !e.2) ++ lines.filter fun e => e.2) s

/-! ## Messages at a slice -/

/-- A copy from the form in which a line travels, expanded by the access unit (06 R133, R134). -/
def copyOf (f : Form) (wts rts : Nat) : Copy Nat :=
  { data := (expandForm f).getD 0, wts := wts, rts := rts, poison := (expandForm f).isNone }

/-- A shared copy arrives (R155); an owned copy stands. -/
def sliceData (k x : Nat) (form : Form) (wts leaseEnd : Nat) (s : State) : State :=
  let c := clusterOfSeq k
  let own := match s.copy c x with | some p => p.own | none => false
  resume k (if own then s else trimSlice (sliceOf c x) (s.setCopy c x (copyOf form wts leaseEnd)))

def sliceRnok (k x leaseEnd : Nat) (s : State) : State :=
  let c := clusterOfSeq k
  let s := match s.copy c x with
    | some p => s.setCopy c x { p with rts := max p.rts leaseEnd }
    | none => s
  resume k s

/-- Ownership arrives (R157). -/
def sliceGrant (k x : Nat) (form : Form) (wts rts ver : Nat) (forRead : Bool) (s : State) : State :=
  let c := clusterOfSeq k
  let rts0 := match s.copy c x with | some p => if p.own then p.rts else 0 | none => 0
  let p := { copyOf form wts (max rts rts0) with own := true, forRead := forRead, ver := ver }
  resume k (trimSlice (sliceOf c x) (s.setCopy c x p))

/-- RCL at a slice (R158, R160): a line that a commit or an ownership-mode run holds is answered later. -/
def sliceRcl (sl x ver : Nat) (mode : RecallMode) (s : State) : State :=
  let c := clusterOfSlice sl
  let nh (s : State) : State := s.post (.nh (.l1 sl) (ownerGen (.l1 sl) s) x ver)
  match s.ownerCopy (.l1 sl) x with
  | some p =>
    if p.own ∧ p.ver = ver then
      match holders c x s with
      | j :: _ => s.upd j fun q => { q with deferred := q.deferred ++ [(x, ver, mode)] }
      | [] => giveUp c x mode p s
    else nh s
  | none => nh s

/-- A validation's answer (R163): the commit goes on when the last one is in. -/
def sliceVal (k x : Nat) (ok : Bool) (s : State) : State :=
  match (s.seq k).commit with
  | none => s
  | some c =>
    let c := { c with pending := c.pending.filter (· ≠ x), failed := c.failed || !ok }
    let s := s.upd k fun q => { q with commit := some c }
    if c.pending = [] then s.post (.stripCommit k) else s

/-! ## Loads through the slice (R155, R156) -/

/-- Another sequencer of the cluster is committing the line at a time already fixed. -/
def commitLocked (k x : Nat) (s : State) : Bool :=
  (holders (clusterOfSeq k) x s).any fun j =>
    j ≠ k && match (s.seq j).commit with | some c => c.tc.isSome | none => false

/-- The time at which sequencer `k` is served lines it has copies of: the maximum of pts and their write times. -/
def readTime (k : Agent) (xs : List Nat) (s : State) : Nat :=
  xs.foldl (fun t x => match s.copy (clusterOfSeq k) x with | some p => max t p.wts | none => t) (s.seq k).pts

/-- A line sequencer `k` must ask for before a read: one it has no copy of, or in an ownership-mode run one it does not
own and hold (R164). -/
def needsCopy (k : Agent) (e : Nat × Bool) (s : State) : Bool :=
  match s.copy (clusterOfSeq k) e.1 with
  | none => true
  | some p => (s.seq k).inOwnMode && !e.2 && !(p.own && (s.seq k).holds.contains e.1)

/-- A request for a line goes out and the sequencer waits. -/
def request (k : Agent) (d : Due) (s : State) : Res Nat :=
  .wait ((s.upd k fun q => match q.wait with | .run => { q with wait := .line } | _ => q).post d)

/-- A line read in an ownership-mode run (R164): it waits for one that an older run or a commit of the cluster holds, else takes
and holds it. A line the slice owns already is only held, and the instruction goes on at its next turn. -/
def acquireOwned (k x : Nat) (s : State) : Res Nat :=
  let c := clusterOfSeq k
  let s := contend k c x s
  if (holders c x s).any (· ≠ k) then holdFor x (.again k) s
  else
    let s := s.upd k fun q => { q with holds := if q.holds.contains x then q.holds else x :: q.holds }
    match s.copy c x with
    | some p => if p.own then .wait s else request k (.rdr k (s.seq k).gen x (s.seq k).pts) s
    | none => request k (.rdr k (s.seq k).gen x (s.seq k).pts) s

/-- All lines of a read at one time t (R155, R156): the missing are requested one by one, the expired renewed; a phase page's
copy does not expire (R173). Copies the slice owns take rts := max(rts, t). -/
def acquireRead (k : Agent) (xs : List (Nat × Bool)) (s : State) : Res Nat :=
  let q := s.seq k
  let c := clusterOfSeq k
  let wanting (s : State) : State :=
    let ws := xs.map Prod.fst
    if q.wants = ws then s else s.upd k fun q => { q with wants := ws }
  match xs.find? fun e => commitLocked k e.1 s with
  | some e => holdFor e.1 (.again k) s
  | none =>
    match xs.find? fun e => needsCopy k e s with
    | some e =>
      if q.inOwnMode && !e.2 then acquireOwned k e.1 (wanting s)
      else request k (.rds k q.gen e.1 q.pts q.c.lease) (wanting s)
    | none =>
      let t := readTime k (xs.map Prod.fst) s
      match xs.find? fun e => match s.copy c e.1 with
        | some p => !p.own && !e.2 && decide (p.rts < t)
        | none => false with
      | some e =>
        let w := match s.copy c e.1 with | some p => p.wts | none => 0
        request k (.rnw k q.gen e.1 t q.c.lease w s.rebases) (wanting s)
      | none =>
        storing t (.again k) s fun s =>
          let s := if q.wants = [] then s else s.upd k fun q => { q with wants := [] }
          .ok t (thread (fun e s => match s.copy c e.1 with
            | some p =>
              let p := if e.2 then { p with phase := true } else p
              s.setCopy c e.1 (if p.own then { p with rts := max p.rts t } else p)
            | none => s) xs s)

/-- One more load whose elements all lie in one line, or not (R161). -/
def countLoad (k : Agent) (xs : List Nat) (s : State) : State :=
  match xs with
  | [x] =>
    let q := s.seq k
    let n := if q.loadLine = x then q.loadRun + 1 else 1
    let s := s.upd k fun q => { q with loadRun := n, loadLine := x }
    if n = 64 then s.post (.repeatRule k) else s
  | _ => s.upd k fun q => { q with loadRun := 0 }

/-- The idle rule: one for each 1,024 cycles without a store. -/
def idleAdvance (k : Agent) (s : State) : State :=
  let q := s.seq k
  let n := (s.cycle - q.lastStore) / 1024
  if n = 0 then s else s.upd k fun q => { q with pts := q.pts + n, lastStore := q.lastStore + 1024 * n }

/-- A store has performed for the sequencer: the counts of R161 restart, the idle rule's due steps taken first. -/
def countStore (k : Agent) (s : State) : State :=
  (idleAdvance k s).upd k fun q => { q with lastStore := s.cycle, loadRun := 0 }

/-- The bytes of a line as sequencer `k`'s slice holds it. -/
def sliceLine (k : Agent) (x : Nat) (s : State) : Line :=
  match s.copy (clusterOfSeq k) x with | some p => p.data | none => 0

def slicePoison (k : Agent) (x : Nat) (s : State) : Bool :=
  match s.copy (clusterOfSeq k) x with | some p => p.poison | none => false

/-! ## Stores through the slice (R157) -/

/-- The slice owns the line for writing, and `k` holds it. -/
def holdsForWrite (k : Agent) (x : Nat) (s : State) : Bool :=
  (s.seq k).holds.contains x && match s.copy (clusterOfSeq k) x with
    | some p => p.own && !p.forRead
    | none => false

/-- Ownership for writing of lines in the order given (R163 step 1): held until the writes perform. -/
def acquireWrite (k : Agent) : List Nat → State → Res Unit
  | [], s => .ok () s
  | x :: xs, s =>
    if holdsForWrite k x s then acquireWrite k xs s
    else
      let c := clusterOfSeq k
      let s := contend k c x s
      if (holders c x s).any (· ≠ k) then holdFor x (.again k) s
      else
        let s := s.upd k fun q => { q with holds := if q.holds.contains x then q.holds else x :: q.holds }
        match s.copy c x with
        | some p =>
          if p.own && !p.forRead then acquireWrite k xs s
          else (request k (.rdo k (s.seq k).gen x (s.seq k).pts) s).andThen fun _ s => .ok () s
        | none => (request k (.rdo k (s.seq k).gen x (s.seq k).pts) s).andThen fun _ s => .ok () s

/-- The largest rts of copies the slice owns, plus 1: the least time of a write (R157). -/
def writeFloor (k : Agent) (xs : List Nat) (s : State) : Nat :=
  xs.foldl (fun t x => match s.copy (clusterOfSeq k) x with | some p => max t (p.rts + 1) | none => t) 0

/-- A write into an owned copy at T (R157); a poisoned line takes only all its bytes (08 R186). -/
def writeCopy (k : Agent) (x T : Nat) (bytes : Line) (mask : LineMask) (s : State) : State :=
  let c := clusterOfSeq k
  match s.copy c x with
  | none => s
  | some p =>
    if p.poison ∧ mask ≠ fullMask then countStat (s.seq k).vi 0x60 s
    else
      performed x T (s.setCopy c x { p with data := mergeLine p.data bytes mask, mask := p.mask ||| mask, wts := T, rts := T,
                                            poison := false })

/-! ## Phase publishes at the home (R174) -/

/-- A publish that reserves the line: it overlaps those pending, and each of them it. -/
def addPub (k : Agent) (pubs : List PhPub) : List PhPub :=
  let id := pubs.foldl (fun m p => max m (p.id + 1)) 0
  let pending := (pubs.filter fun p => p.tp.isNone).map PhPub.id
  (pubs.map fun p => if p.tp.isNone then { p with lapped := p.lapped ++ [id] } else p)
    ++ [{ id := id, k := k, tp := none, mask := 0, lapped := pending }]

/-- PPR: the publish is pending, loads and renewals are held, the home returns rts. -/
def homePpr (k gen x : Nat) (s : State) : State :=
  let d := Due.ppr k gen x
  let w := Waiting.req d
  atHome k gen x d (fun s =>
    (admitted .write x w false s).andThen fun _ s =>
      (present x (s.seq k).vi w s).andThen fun h s =>
        let s := leaveQueue x w (touch x (s.setHome x { h with pubs := addPub k h.pubs }))
        .ok () (s.post (.phaseReserveReply k x h.rts))) s

/-- The publish that agent `k` has pending on a line. -/
def pendingPub (k : Agent) (pubs : List PhPub) : Option PhPub := pubs.find? fun p => p.tp.isNone && p.k = k

/-- The bytes that publishes overlapping `p` have applied, of those that `f` takes. -/
def appliedBytes (p : PhPub) (f : PhPub → Bool) (pubs : List PhPub) : LineMask :=
  pubs.foldl (fun m q => if p.lapped.contains q.id && q.tp.isSome && f q then m ||| q.mask else m) 0

/-- The bytes kept of publishes that were pending at the same time with a higher pair (Tp, agent). -/
def keptBytes (p : PhPub) (tp : Nat) (pubs : List PhPub) : LineMask :=
  appliedBytes p (fun q => match q.tp with | some t => decide (tp < t) || (t = tp && decide (p.k < q.k)) | none => false) pubs

/-- Bytes that publishes of other agents pending at the same time have written (counted in PHOVL). -/
def overlapped (p : PhPub) (mask : LineMask) (pubs : List PhPub) : Nat :=
  Bdz.popc (appliedBytes p (fun q => q.k ≠ p.k) pubs &&& mask).toNat 128

/-- A publish has applied; those that no pending publish overlaps are forgotten. -/
def applyPub (p : PhPub) (tp : Nat) (mask : LineMask) (pubs : List PhPub) : List PhPub :=
  let pubs := pubs.map fun q => if q.id = p.id then { q with tp := some tp, mask := mask } else q
  pubs.filter fun q => q.tp.isNone || pubs.any fun r => r.tp.isNone && r.lapped.contains q.id

/-- One of a sequencer's applies has been done; after the last its ENDPH goes on (18 R412). -/
def phaseApplied (k x : Nat) (s : State) : State :=
  s.upd k fun q => match q.note, q.wait with
    | some n, .publish =>
      let left := n.lines.erase x
      if left = [] then { q with note := some { n with lines := [], step := 3 }, wait := .run }
      else { q with note := some { n with lines := left } }
    | _, _ => q

/-- PPA: the merge, and the end of the pending state when no publish remains. -/
def homePpa (k gen x tp : Nat) (bytes : Line) (mask : LineMask) (s : State) : State :=
  let d := Due.ppa k gen x tp bytes mask
  let w := Waiting.req d
  atHome k gen x d (fun s =>
    match s.home x, (s.home x).bind fun h => pendingPub k h.pubs with
    | some h, some p =>
      let write := mask &&& ~~~(keptBytes p tp h.pubs)
      let wts := max h.wts tp
      storing wts w s fun s =>
        (if write = 0 then Res.ok () s else homeWrite x (s.seq k).vi wts bytes write w s).andThen fun _ s =>
          let h1 := (s.home x).getD h
          let pubs := applyPub p tp mask h.pubs
          let both := overlapped p mask h.pubs
          let s := s.setHome x { h1 with wts := wts, rts := max h.rts wts, pubs := pubs }
          let s := phaseApplied k x (s.updDie (homeDie x) fun d => { d with phovl := d.phovl + both })
          .ok () (if pubs = [] then roomFreed x (serveWaiting x s) else s)
    | _, _ => .ok () (phaseApplied k x s)) s

/-! ## Progress (R161) -/

/-- The repeat rule. -/
def repeatAdvance (k : Agent) (s : State) : State :=
  let q := s.seq k
  if 64 ≤ q.loadRun then
    let rts := match s.copy (clusterOfSeq k) q.loadLine with | some p => p.rts | none => 0
    s.upd k fun q => { q with pts := max q.pts (rts + 1), loadRun := 0 }
  else s

/-! ## Rebase (R166, R167) -/

/-- The sweep that a rebase waits for: every stored time is rewritten against the timebase (R167). -/
def sweep (s : State) : State :=
  { s with
    homes := s.homes.map fun e => (e.1, (e.2.load s).store s)
    copies := s.copies.map fun e => (e.1, (e.2.load s).store s)
    engCopies := s.engCopies.map fun e => (e.1, (e.2.load s).store s)
    slices := s.slices.map fun e => (e.1, { e.2 with mts := Stamp.make (e.2.mts.read s) s }) }

/-- The rebase itself, with no message in flight (R166): the sweep of the one before has ended, the timebase rises and its
generation bit flips, clocks rise to it, shared copies are dropped, and what the homes held is released. -/
def rebaseAll (s : State) : State :=
  let s := sweep s
  let base := s.tbase + 2 ^ 22
  serveWaiting rebaseKey
    { s with
      tbase := base
      rebases := s.rebases + 1
      seqs := s.seqs.map fun e => (e.1, { e.2 with pts := max e.2.pts base })
      chains := s.chains.map fun e => (e.1, { e.2 with cmds := e.2.cmds.map fun c => { c with clock := max c.clock base } })
      copies := s.copies.filter fun e => e.2.own }

/-! ## Dead agents (R168, R169) -/

/-- A line whose owner is retired (R168): one owned for writing is poison from now on, which differs from memory. -/
def retireOwner (h : HomeLine Nat) : HomeLine Nat :=
  let t := max h.wts h.rts + 1
  let r := { h with ver := (h.ver + 1) % 256, own := none, last := none, recalled := false, wts := t, rts := t, omode := false }
  if h.omode then r else { r with code := 15, sects := [], dirty := true }

/-- The lines that an agent owns. -/
def linesOf (o : Owner) (s : State) : AMap (HomeLine (BitVec 24)) := s.homes.filter fun e => e.2.own = some o

/-- A cluster that takes no work any more: fenced itself, or with its die (01 R21, 05 R122). -/
def clusterOut (c : Nat) (s : State) : Bool := (s.die (c / 64)).fenced || (s.die (c / 64)).fencedClusters.contains c

/-- The director core may declare the agent dead (R168): an engine that has left a recall unanswered for 2^20 cycles, a slice of a
fenced cluster that has not answered one. -/
def unresponsive (o : Owner) (s : State) : Bool :=
  (linesOf o s).any fun e => e.2.recalled && match o with
    | .l1 sl => clusterOut (clusterOfSlice sl) s
    | .engine .. => decide (e.2.asked + 2 ^ 20 ≤ s.cycle)

/-- Every home retires the agent's ownerships; lines owned for writing are poisoned and logged, and what waited is served. -/
def retireAll (o : Owner) (s : State) : State :=
  let mine := linesOf o s
  let s := thread (fun (e : Nat × HomeLine (BitVec 24)) s => s.setHome e.1 (retireOwner (e.2.load s))) mine s
  let s := { s with
    mcLog := s.mcLog ++ (mine.filter fun e => !e.2.omode).map fun e => ({ kind := 1, detail := e.1 } : LogEntry)
    copies := match o with | .l1 sl => s.copies.filter fun e => decide (e.1 / 2 ^ 45 ≠ sl) | .engine .. => s.copies
    engCopies := match o with | .l1 _ => s.engCopies | .engine d e => s.engCopies.filter fun x => decide (x.1 / 2 ^ 45 ≠ 8 * d + e) }
  thread (fun e s => roomFreed e.1 (serveWaiting e.1 s)) mine s

/-- The requests of a dead engine that wait at a home carry its old generation: they are dropped and counted (R169), and the engine
begins the rest of its segment anew. -/
def dropEngine (d e : Nat) (s : State) : State :=
  let mine (w : Waiting) : Bool := match w with | .eng c => c.die = d && c.eng = e | _ => false
  let stale := s.waiting.filter fun x => x.2.any mine
  let s := { s with waiting := (s.waiting.map fun x => (x.1, x.2.filter fun w => !mine w)).filter fun x => x.2 ≠ [] }
  let s := thread (fun (x : Nat × List Waiting) s => dropStale x.1 s) stale s
  let cs := (s.chains.filter fun x => (chainOfKey x.1).die = d && (chainOfKey x.1).eng = e).map fun x => chainOfKey x.1
  thread engGo cs (thread (fun c s => s.updCmd c fun x => { x with owned := [], front := [] }) cs s)

/-- A cluster fails while its contexts are being saved: those not yet saved are LOST (01 R22), and their publishes are pending no
more. -/
def loseCluster (c : Nat) (s : State) : State :=
  let ks := (s.seqs.filter fun e => decide (clusterOfSeq e.1 = c)).map Prod.fst
  let s := thread (fun k s => match (s.seq k).bound with
    | some b => loseContext b.vi b.cid 0x02 0 0 s
    | none => s) ks s
  let held := s.homes.filter fun e => e.2.pubs.any fun p => p.tp.isNone && decide (clusterOfSeq p.k = c)
  thread (fun (e : Nat × HomeLine (BitVec 24)) s =>
    serveWaiting e.1 (s.updTag e.1 fun h =>
      let pubs := h.pubs.filter fun p => p.tp.isSome || decide (clusterOfSeq p.k ≠ c)
      { h with pubs := if pubs.any fun p => p.tp.isNone then pubs else [] })) held s

/-- An agent is re-admitted with its generation raised (R169; log 110), and with a slice the sequencers that send through it. -/
def readmit (o : Owner) (s : State) : State :=
  let s := { s with engGen := s.engGen.set (agentKey o) ((ownerGen o s + 1) % 16) }
  match o with
  | .l1 sl =>
    let raise (e : Nat × Seq) : Nat × Seq :=
      if clusterOfSeq e.1 = clusterOfSlice sl then (e.1, { e.2 with gen := (e.2.gen + 1) % 16 }) else e
    { s with seqs := s.seqs.map raise }
  | .engine .. => s

/-- DEAD_AGENT: with a time too large to store, after a rebase (R166). -/
def killAgent (o : Owner) (s : State) : State :=
  if !unresponsive o s then s
  else if (linesOf o s).any (fun e => !s.storable (max (e.2.load s).wts (e.2.load s).rts + 1)) then
    State.post (if Due.rebase ∈ s.due then s else s.post .rebase) (.deadAgent o)
  else
    let s := match o with
      | .l1 sl => loseCluster (clusterOfSlice sl) s
      | .engine d e => dropEngine d e s
    readmit o (retireAll o s)

/-! ## The steps -/

def execRds (k gen line pts lease : Nat) (s : State) : Out := .next (homeRds k gen line pts lease s)
def execRnw (k gen line pts lease wts epoch : Nat) (s : State) : Out := .next (homeRnw k gen line pts lease wts epoch s)
def execRdo (k gen line pts : Nat) (s : State) : Out := .next (homeOwn k gen line pts false s)
def execRdr (k gen line pts : Nat) (s : State) : Out := .next (homeOwn k gen line pts true s)
def execVal (k gen line tc wts epoch : Nat) (s : State) : Out := .next (homeVal k gen line tc wts epoch s)
def execWb (o : Owner) (gen line ver wts rts : Nat) (data : LineData) (mask : LineMask) (s : State) : Out :=
  .next (homeWb o gen line ver wts rts data.bytes mask data.poison s)
def execRel (o : Owner) (gen line ver wts rts : Nat) (s : State) : Out := .next (homeRel o gen line ver wts rts s)
def execNh (o : Owner) (gen line ver : Nat) (s : State) : Out := .next (homeNh o gen line ver s)
def execPpr (k gen line : Nat) (s : State) : Out := .next (homePpr k gen line s)
def execPpa (k gen line tp : Nat) (bytes : Line) (mask : LineMask) (s : State) : Out :=
  .next (homePpa k gen line tp bytes mask s)
def execData (k line code : Nat) (sectors : Sectors) (wts leaseEnd : Nat) (s : State) : Out :=
  .next (sliceData k line { sectors with code := code } wts leaseEnd s)
def execRnok (k line leaseEnd : Nat) (s : State) : Out := .next (sliceRnok k line leaseEnd s)
def execGrant (k line code : Nat) (sectors : Sectors) (wts rts ver : Nat) (forRead : Bool) (s : State) : Out :=
  .next (sliceGrant k line { sectors with code := code } wts rts ver forRead s)
def execVok (k line : Nat) (s : State) : Out := .next (sliceVal k line true s)
def execVfail (k line : Nat) (s : State) : Out := .next (sliceVal k line false s)
def execIdleRuleTick (k : Agent) (s : State) : Out := .next (idleAdvance k s)
def execRepeatRule (k : Agent) (s : State) : Out := .next (repeatAdvance k s)
def execRebase (s : State) : Out := .next (rebaseAll s)
def execDeadAgent (o : Owner) (s : State) : Out := .next (killAgent o s)

end Sys2Proof.Machine
end

