-- ==== Sys2Proof/Machine/Translate.lean ====
section
/-!
DEFINITION. Address translation (spec/04_address_spaces.md): the walk (R69 to R76), the frames an interface may map
(spec/03_host_interface.md R52, R53), plates and matte records as a walk checks them (R73, R79, R84), the A and D bits
(R75), the translation caches and pins (R93, R95), and the causes and details a fault is posted with (R104).
-/
namespace Sys2Proof.Machine

/-- Whose access is translated: interface, context, privilege, what waits, its core and die (1,024 and more: no core TLB),
and the interface whose statistics line counts it (08 R189; 128: none). -/
structure Accessor where
  vi : Nat
  cid : Nat
  priv : Bool
  w : Waiting
  core : Nat
  die : Nat
  pins : List TlbEntry
  stat : Nat

/-- Sequencer `k` as an accessor. -/
def seqAccessor (k : Agent) (s : State) : Accessor :=
  let q := s.seq k
  { vi := q.vi, cid := q.cid, priv := q.n.priv, w := .again k, core := coreOfSeq k, die := dieOfSeq k, pins := q.heldPins
    stat := q.vi }

inductive Access where
  | read | write | atomic | fetch
  deriving DecidableEq, Repr

def Access.code : Access → Nat
  | .read => 0 | .write => 1 | .atomic => 2 | .fetch => 3

def Access.writes : Access → Bool
  | .write | .atomic => true
  | _ => false

/-- A fault's cause and detail, or what was looked for. -/
abbrev Faulty (α : Type) := Except (Nat × Nat) α

/-! ## Leaves (R71, R72) -/

def Leaf.v (l : Leaf) : Bool := l.w0.getLsbD 0
def Leaf.wr (l : Leaf) : Bool := l.w0.getLsbD 2
def Leaf.x (l : Leaf) : Bool := l.w0.getLsbD 3
def Leaf.prv (l : Leaf) : Bool := l.w0.getLsbD 4
def Leaf.acc (l : Leaf) : Bool := l.w0.getLsbD 5
def Leaf.dirty (l : Leaf) : Bool := l.w0.getLsbD 6
def Leaf.ns (l : Leaf) : Bool := l.w0.getLsbD 7
def Leaf.lk (l : Leaf) : Bool := l.w0.getLsbD 8
def Leaf.ph (l : Leaf) : Bool := l.w0.getLsbD 9
def Leaf.cb (l : Leaf) : Bool := l.w0.getLsbD 10
def Leaf.sz64 (l : Leaf) : Bool := l.w0.getLsbD 11
def Leaf.frame (l : Leaf) : Nat := bitsAt l.w0.toNat 12 40
def Leaf.sh (l : Leaf) : Bool := l.w0.getLsbD 52
def Leaf.mid (l : Leaf) : Nat := bitsAt l.w1.toNat 0 24
def Leaf.mv (l : Leaf) : Bool := l.w1.getLsbD 24
def Leaf.fv (l : Leaf) : Bool := l.w1.getLsbD 25
def Leaf.ftype (l : Leaf) : Nat := bitsAt l.w1.toNat 26 4
def Leaf.fgeo (l : Leaf) : Nat := bitsAt l.w1.toNat 30 2
def Leaf.plix (l : Leaf) : Nat := bitsAt l.w1.toNat 40 24

/-- log2 of the page size. -/
def Leaf.log (l : Leaf) : Nat :=
  match l.level with
  | 2 => 30
  | 1 => 21
  | _ => if l.sz64 then 16 else 12

/-- The physical address of a virtual one. -/
def Leaf.pa (l : Leaf) (va : Nat) : Nat := l.base + va % 2 ^ l.log

/-- The combinations of a leaf's own fields that R73 refuses. -/
def Leaf.malformed (l : Leaf) : Bool :=
  (decide (2 < l.level))
  || (decide (0 < l.level) && (l.mv || l.sh || l.sz64))
  || (l.mv && l.sz64) || (l.mv && l.ph)
  || decide (4096 * l.frame % 2 ^ (if l.sz64 then 12 else l.log) ≠ 0)
  || decide (bitsAt l.w0.toNat 53 11 ≠ 0) || decide (bitsAt l.w1.toNat 32 8 ≠ 0)
  || (!l.sh && decide (l.plix ≠ 0))

/-! ## What an interface may map (03 R52, R53) -/

/-- The frame check of a walk; `locked` says the mapping has the locked attribute. The host-window ranges in force are those that
the registers hold, from their write on (03 R53; log 111). -/
def frameOk (vi pa : Nat) (locked : Bool) (s : State) : Bool :=
  match tierOf pa with
  | .hbm | .lpddr =>
    let b := s.owners.getD (frameOf pa) 0
    b = 0x80 + vi || (b = 1 && locked)
  | .host =>
    let v := s.vi vi
    let off := pa - 0x40000000000
    (List.range 8).any fun k =>
      let base := ((v.hrBase.getD k 0).toNat / 4096 * 4096) % 2 ^ 52
      let size := (v.hrSize.getD k 0).toNat
      decide (base ≤ off) && decide (off < base + size)
  | .peer => true
  | .none => false

/-- A frame that holds a table, an anchor's structure or a pool: the same check, and never a peer's (R75, R78). -/
def tableOk (vi pa : Nat) (s : State) : Bool := tierOf pa ≠ .peer && frameOk vi pa false s

/-- The root of a context's address space (03 R56). -/
def rootOf (vi cid : Nat) (s : State) : Nat := match (s.vi vi).ctxs.find cid with | some c => c.root | none => 0

/-! ## Plates and matte records -/

/-- A plate-table entry: frame, V, LK (R79); none at or above PLTSIZE. -/
def plateEntry (vi ix : Nat) (s : State) : Option Nat :=
  let v := s.vi vi
  if ix < v.pltsize then some (s.peekField (v.pltbase.toNat + 16 * ix) 8) else none

/-- The locked attribute of a mapping: its leaf's, or its plate-table entry's (R82). -/
def Leaf.locked (l : Leaf) (vi : Nat) (s : State) : Bool :=
  l.lk || (l.sh && match plateEntry vi l.plix s with | some e => bitsAt e 41 1 = 1 | none => false)

/-- The anchor's fields (R77). -/
def mrtBase (root : Nat) (s : State) : Nat := s.peekField (root + 0x2000) 8
def mrtCount (root : Nat) (s : State) : Nat := s.peekField (root + 0x2008) 4
def pftBase (root : Nat) (s : State) : Nat := s.peekField (root + 0x2010) 8

def recordAddr (root mid : Nat) (s : State) : Nat := mrtBase root s + 128 * mid

/-- A record's fields (R83). -/
def recMask (r : Line) : Nat := lineField r 0 4
def recValid (r : Line) : Bool := lineField r 4 4 % 2 = 1
def recFrame (r : Line) : Nat := lineField r 8 8 % 2 ^ 40
def recPtr (r : Line) (i : Nat) : Nat := lineField r (16 + 3 * i) 3

/-- A set mask bit without a slot pointer (R84). -/
def recBroken (r : Line) : Bool :=
  (List.range 32).any fun i => bitsAt (recMask r) i 1 = 1 && recPtr r i = 0

/-- The address of the pool frame table entry of a slot pointer (R85). -/
def pftEntry (root p : Nat) (s : State) : Nat := pftBase root s + 8 * (p / 32)

/-- The physical address of a matte slot (R85). -/
def slotAddr (root p : Nat) (s : State) : Nat := s.peekField (pftEntry root p s) 8 / 4096 * 4096 + 128 * (p % 32)

/-- A structure of mattes or plates lies in memory that the interface owns (R78). -/
def structOk (vi pa : Nat) (s : State) : Bool := isMemory pa && tableOk vi pa s

/-- The detail of the physical-address fault that a slot pointer raises: its table entry or its frame is not the interface's
(R78). -/
def slotFault (vi root p : Nat) (s : State) : Option Nat :=
  if !structOk vi (pftEntry root p s) s then some (tierOf (pftEntry root p s)).code
  else if !structOk vi (slotAddr root p s) s then some (tierOf (slotAddr root p s)).code
  else none

/-- What a mapping through a matte needs of its record, as it stands, for line i of the page (R73, R78, R84); the access meets
the poison of a record that has no data (08 R179). -/
def checkRecord (vi root i : Nat) (l : Leaf) (s : State) : Option (Nat × Nat) :=
  if mrtCount root s ≤ l.mid then some (0x09, 0)
  else
    let a := recordAddr root l.mid s
    if !structOk vi a s then some (0x05, (tierOf a).code)
    else
      let r := s.newest (lineOf a)
      if lineBad (lineOf a) s then none
      else if !recValid r || recBroken r then some (0x09, 0)
      else if recFrame r ≠ l.frame then some (0x06, 0)
      else if bitsAt (recMask r) i 1 = 1 then (slotFault vi root (recPtr r i) s).map fun d => (0x05, d)
      else none

/-! ## The checks of an access through a leaf (R73 to R75, R79, R82, R190) -/

/-- Why an access through a leaf faults, none where it may go on. -/
def checkLeaf (a : Accessor) (va : Nat) (kind : Access) (l : Leaf) (s : State) : Option (Nat × Nat) :=
  let pa := l.pa va
  let root := rootOf a.vi a.cid s
  let plateBad := l.sh && match plateEntry a.vi l.plix s with
    | none => true
    | some e => bitsAt e 40 1 = 0 || e % 2 ^ 40 ≠ l.frame
  let record := if l.mv then checkRecord a.vi root (va / 128 % 32) l s else none
  if l.malformed || plateBad then some (0x06, l.level)
  else match record with
    | some c => some c
    | none =>
      if !frameOk a.vi pa (l.locked a.vi s) s then some (0x05, (tierOf pa).code)
      else if l.cb && tierOf pa = .host then some (0x05, 2)
      else if l.cb && !((tierOf pa = .hbm && s.mgmt.mdbaseh.getLsbD 0) || (tierOf pa = .lpddr && s.mgmt.mdbasel.getLsbD 0)) then
        some (0x05, 3)
      else if l.prv && !a.priv then some (0x03, 0)
      else if kind.writes && !l.wr then some (0x02, 0)
      else if kind.writes && !l.mv && l.locked a.vi s then some (0x02, 2)
      else if kind = .fetch && !l.x then some (0x04, 0)
      else if kind = .atomic && l.ph then some (0x02, 3)
      else none

/-! ## Translation caches (R93) -/

/-- The mark of a cached level-0 table pointer. -/
def tableMark : Nat := 9

/-- log2 of the 16 MiB that 8 contiguous 2 MiB leaves cover (R93). -/
def groupLog : Nat := 24

/-- The leaf of an access from an entry that covers it: in a group, or in a 1 GiB leaf's pieces, the one at its place. -/
def TlbEntry.leafAt (e : TlbEntry) (va : Nat) : Leaf :=
  if e.log = groupLog ∧ e.leaf.level = 1 then
    let i := va / 2 ^ 21 % 8
    { e.leaf with entry := e.leaf.entry + 16 * i, base := e.leaf.base + 2 ^ 21 * i
                  w0 := e.leaf.w0 + BitVec.ofNat 64 (2 ^ 21 * i) }
  else e.leaf

/-- The translation that a pin holds for an access (R95). -/
def pinLookup (a : Accessor) (va : Nat) : Option Leaf := (a.pins.find? fun e => e.covers a.vi a.cid va).map fun e => e.leaf

def coreLookup (a : Accessor) (va : Nat) (s : State) : Option Leaf :=
  match (s.coreTlb.getD a.core []).find? fun e => e.covers a.vi a.cid va with
  | some e => some e.leaf
  | none => ((s.dieTlb.getD a.die []).find? fun e => e.covers a.vi a.cid va && e.leaf.level ≠ tableMark).map fun e => e.leafAt va

/-- A cached level-0 table of the access's 2 MiB region. -/
def tableLookup (a : Accessor) (va : Nat) (s : State) : Option Nat :=
  ((s.dieTlb.getD a.die []).find? fun e => e.covers a.vi a.cid va && e.leaf.level = tableMark).map fun e => e.leaf.base

/-- Entries are kept first in, first out (log 14). -/
def insertTlb (n : Nat) (e : TlbEntry) (es : List TlbEntry) : List TlbEntry :=
  ((e :: es.filter fun x => !(x.vi = e.vi && x.cid = e.cid && x.vpage = e.vpage && x.log = e.log
    && decide (x.leaf.level = tableMark) = decide (e.leaf.level = tableMark))).take n)

def TlbEntry.of (a : Accessor) (va : Nat) (l : Leaf) : TlbEntry :=
  { vi := a.vi, cid := a.cid, vpage := va / 2 ^ l.log, log := l.log, leaf := l }

/-- A 2 MiB leaf as the die's TLB takes it (R93): alone, or, with the other seven of its aligned 16 MiB held as single leaves of
the same attributes and contiguous frames, as one entry for the group. -/
def insertLeaf2M (a : Accessor) (va : Nat) (l : Leaf) (es : List TlbEntry) : List TlbEntry :=
  let es := insertTlb 16384 (TlbEntry.of a va l) es
  let g := va / 2 ^ groupLog
  let single (i : Nat) : Option TlbEntry :=
    es.find? fun e => e.vi = a.vi && e.cid = a.cid && e.log = 21 && e.leaf.level = 1 && e.vpage = 8 * g + i
  match single 0 with
  | none => es
  | some e0 =>
    let group : TlbEntry := { e0 with vpage := g, log := groupLog }
    if (List.range 8).all fun i => match single i with
        | some e => e.leaf = group.leafAt (2 ^ 21 * i)
        | none => false then
      insertTlb 16384 group (es.filter fun e => !(e.vi = a.vi && e.cid = a.cid && e.log = 21 && e.leaf.level = 1
        && e.vpage / 8 = g))
    else es

/-- A 1 GiB leaf as the die's TLB takes it: the group of 8 × 2 MiB that the access touches (R93). -/
def insertLeaf1G (a : Accessor) (va : Nat) (l : Leaf) (es : List TlbEntry) : List TlbEntry :=
  insertTlb 16384 { vi := a.vi, cid := a.cid, vpage := va / 2 ^ groupLog, log := groupLog, leaf := l } es

/-- A leaf that has translated an access is cached in the core's TLB, one of 2 MiB or more in the die's too (R93). -/
def cacheLeaf (a : Accessor) (va : Nat) (l : Leaf) (s : State) : State :=
  let s := if a.core < 1024 then { s with coreTlb := s.coreTlb.modify a.core [] (insertTlb 512 (TlbEntry.of a va l)) } else s
  match l.level with
  | 1 => { s with dieTlb := s.dieTlb.modify a.die [] (insertLeaf2M a va l) }
  | 2 => { s with dieTlb := s.dieTlb.modify a.die [] (insertLeaf1G a va l) }
  | _ => s

def cacheTable (a : Accessor) (va tbl : Nat) (s : State) : State :=
  { s with dieTlb := s.dieTlb.modify a.die [] (insertTlb 16384
      { vi := a.vi, cid := a.cid, vpage := va / 2 ^ 21, log := 21,
        leaf := { entry := 0, level := tableMark, base := tbl, w0 := 0, w1 := 0 } }) }

/-- An entry for a group of 2 MiB leaves, one of them that of a table entry. -/
def TlbEntry.groups (e : TlbEntry) (entry : Nat) : Bool :=
  e.log = groupLog && e.leaf.level = 1 && decide (e.leaf.entry ≤ entry) && decide (entry < e.leaf.entry + 128)

/-- The cached copies of an entry follow a change the hardware itself makes to it (R75, R94). A group whose leaves are alike no
more is not held as one (R93). -/
def retagTlb (entry : Nat) (f : Leaf → Leaf) (s : State) : State :=
  let g (e : TlbEntry) : TlbEntry := if e.leaf.entry = entry ∧ e.leaf.level ≠ tableMark then { e with leaf := f e.leaf } else e
  { s with coreTlb := s.coreTlb.map fun x => (x.1, x.2.map g), dieTlb := s.dieTlb.map fun x => (x.1, (x.2.filter fun e => !e.groups entry).map g)
           seqs := s.seqs.map fun x => if x.2.heldPins = [] then x
             else (x.1, { x.2 with pins := x.2.pins.map g, inflight := x.2.inflight.map fun e => (e.1, g e.2) })
           chains := s.chains.map fun x =>
             if x.2.cmds.all fun y => y.pins = [] then x
             else (x.1, { x.2 with cmds := x.2.cmds.map fun y => { y with pins := y.pins.map g } }) }

/-! ## The walk (R69, R70, R75) -/

/-- Reads the entry of a table for an address: both words, and the clock after the read. -/
def readEntry (a : Accessor) (ea clock : Nat) (s : State) : Res ((DWord × DWord) × Nat) :=
  (homePeek (lineOf ea) clock a.stat a.w s).andThen fun r s =>
    .ok ((BitVec.ofNat 64 (lineField r.1 (ea % 128) 8), BitVec.ofNat 64 (lineField r.1 (ea % 128 + 8) 8)), r.2) s

/-- The walk from a table of level `n` down: the leaf, or the fault. -/
def walkFrom (a : Accessor) (va : Nat) : (n tbl clock : Nat) → State → Res (Faulty Leaf × Nat)
  | n, tbl, clock, s =>
    if !tableOk a.vi tbl s then .ok (.error (0x05, (tierOf tbl).code), clock) s
    else
      let ea := tbl + 16 * bitsAt va (12 + 9 * n) 9
      (readEntry a ea clock s).andThen fun r s =>
        let w0 := r.1.1
        let w1 := r.1.2
        if lineBad (lineOf ea) s then .ok (.error (0x0E, 0), r.2) s
        else if !w0.getLsbD 0 then .ok (.error (0x01, n), r.2) s
        else if w0.getLsbD 1 then
          let l0 : Leaf := { entry := ea, level := n, base := 0, w0 := w0, w1 := w1 }
          let l := { l0 with base := if l0.sz64 then 4096 * l0.frame / 65536 * 65536 else 4096 * l0.frame }
          if l.malformed then .ok (.error (0x06, n), r.2) s else .ok (.ok l, r.2) s
        else
          let next := bitsAt w0.toNat 13 39 * 8192
          if w1 ≠ 0 ∨ bitsAt w0.toNat 52 12 ≠ 0 ∨ bitsAt w0.toNat 2 11 ≠ 0 then .ok (.error (0x06, n), r.2) s
          else match n with
            | 0 => .ok (.error (0x06, 0), r.2) s
            | n + 1 => walkFrom a va n next r.2 (if n = 0 then cacheTable a va next s else s)

/-- An atomic OR of bits into a leaf's word 0 at the entry's home (R75); the time it performs. -/
def orLeaf (a : Accessor) (l : Leaf) (bits : Nat) (clock : Nat) (s : State) : Res (Leaf × Nat) :=
  let off := l.entry % 128
  (homeAtomic (lineOf l.entry) clock a.stat a.w
    (fun d => (lineWith off (lineField d off 1 ||| bits), maskOf off 1)) s).andThen fun r s =>
      let l2 := { l with w0 := l.w0 ||| BitVec.ofNat 64 bits }
      .ok (l2, r.2) (retagTlb l.entry (fun x => { x with w0 := x.w0 ||| BitVec.ofNat 64 bits }) s)

/-- The lines that hold what the checks of a leaf read besides the leaf itself: its plate-table entry, and of a matte the anchor,
the record and the entry of the slot that the access would use (R73, R78, R79, R84). -/
def checkLines (a : Accessor) (va : Nat) (l : Leaf) (s : State) : List Nat :=
  let root := rootOf a.vi a.cid s
  let plate := if l.sh && decide (l.plix < (s.vi a.vi).pltsize) then [lineOf ((s.vi a.vi).pltbase.toNat + 16 * l.plix)] else []
  let rec_ := if !l.mv then []
    else if mrtCount root s ≤ l.mid ∨ !structOk a.vi (recordAddr root l.mid s) s then [lineOf (root + 0x2000)]
    else
      let x := lineOf (recordAddr root l.mid s)
      let p := recPtr (s.newest x) (va / 128 % 32)
      let slot := if bitsAt (recMask (s.newest x)) (va / 128 % 32) 1 = 1 ∧ structOk a.vi (pftEntry root p s) s
        then [lineOf (pftEntry root p s)] else []
      [lineOf (root + 0x2000), x] ++ slot
  plate ++ rec_

/-- The walker reads lines at their homes, one after the other; the clock follows (R75). -/
def peekAll (a : Accessor) : List Nat → (clock : Nat) → State → Res Nat
  | [], clock, s => .ok clock s
  | x :: xs, clock, s => (homePeek x clock a.stat a.w s).andThen fun r s => peekAll a xs r.2 s

/-- Translates an access: the leaf with its A bit set, and D too when `now` says the write performs at once; or the
cause and detail of its fault. The clock follows the walk's reads and writes. -/
def translate (a : Accessor) (va : Nat) (kind : Access) (now : Bool) (clock : Nat) (s : State) : Res (Faulty Leaf × Nat) :=
  if 2 ^ 57 ≤ va then .ok (.error (0x10, 0), clock) s
  else
    let found : Res (Faulty Leaf × Nat) :=
      match pinLookup a va <|> coreLookup a va s with
      | some l => .ok (.ok l, clock) s
      | none =>
        (match tableLookup a va s with
          | some t => walkFrom a va 0 t clock s
          | none => walkFrom a va 4 (rootOf a.vi a.cid s) clock s).andThen fun r s =>
          match r.1 with
          | .error e => .ok (.error e, r.2) s
          | .ok l => (peekAll a (checkLines a va l s) r.2 s).andThen fun c s => .ok (.ok l, c) s
    found.andThen fun r s =>
      match r.1 with
      | .error e => .ok (.error e, r.2) s
      | .ok l =>
        match checkLeaf a va kind l s with
        | some e => .ok (.error e, r.2) s
        | none =>
          -- an access through a pin brings nothing back into a cache that an invalidation has cleared (R96)
          let keep (l : Leaf) (s : State) : State := if (pinLookup a va).isSome then s else cacheLeaf a va l s
          let need := (if l.acc then 0 else 32) + (if kind.writes && now && !l.dirty then 64 else 0)
          if need = 0 then .ok (.ok l, r.2) (keep l s)
          else (orLeaf a l need r.2 s).andThen fun x s => .ok (.ok x.1, x.2) (keep x.1 s)

/-- A fault-batch entry for one page and a scalar access (R103). -/
def scalarFault (va : Nat) (kind : Access) (e : Nat × Nat) : FaultEntry :=
  { page := va / 4096 * 4096 % 2 ^ 57, access := kind.code, cause := e.1, first := 0, count := 1, detail := e.2 }

/-- In a strip, a page that a serviced batch named is pinned as it is translated again, until the commit (11 R253). -/
def pinNamed (k : Agent) (va : Nat) (l : Leaf) (s : State) : State :=
  let q := s.seq k
  if q.strip.isSome && q.named.contains (va / 4096) then
    let e := TlbEntry.of (seqAccessor k s) va l
    s.upd k fun q => { q with pins := if e ∈ q.pins then q.pins else q.pins ++ [e] }
  else s

/-- A page that the instruction in progress uses, `pinned` before its first element performs (R95). -/
def usePage (k : Agent) (pinned : Bool) (va : Nat) (l : Leaf) (s : State) : State :=
  let e := TlbEntry.of (seqAccessor k s) va l
  s.upd k fun q => q.uses pinned e

/-- A sequencer's scalar access translated: its pts follows, and a fault ends the instruction (11 R252). -/
def seqTranslate (k : Agent) (va : Nat) (kind : Access) (now : Bool) (s : State) : Res Leaf :=
  (translate (seqAccessor k s) va kind now (s.seq k).pts s).andThen fun r s =>
    let s := s.upd k fun q => { q with pts := max q.pts r.2 }
    match r.1 with
    | .ok l => .ok l (usePage k false va l (pinNamed k va l s))
    | .error e => .fault [scalarFault va kind e] s

/-! ## Invalidation (R96) -/

/-- No translation that `p` names stays in a cache. -/
def dropTlb (p : TlbEntry → Bool) (s : State) : State :=
  { s with coreTlb := s.coreTlb.map fun x => (x.1, x.2.filter fun e => !p e)
           dieTlb := s.dieTlb.map fun x => (x.1, x.2.filter fun e => !p e) }

/-- A translation that faulted stays in no cache (R93; 03 R67): the pages that a batch names. -/
def uncache (vi cid : Nat) (pages : List Nat) (s : State) : State :=
  dropTlb (fun e => pages.any fun p => e.covers vi cid (4096 * p)) s

end Sys2Proof.Machine
end

