-- ==== Sys2Proof/Machine/Stage.lean ====
section
/-!
DEFINITION. Stage memory (spec/06_clusters.md R139 to R143): banks and their clocks (spec/09_consistency.md R204), the
operations of a bank's ALU (spec/18_sync.md R399), barrier objects (R409, R410), a sequencer's offsets (R140), and the
round trip of a Stage operation.
-/
namespace Sys2Proof.Machine

/-! ## Operations of R399 -/

/-- An operation is listed and accepts the type: AMO and VAMO take f64 as well, .CAS is AMO's and SAMO's. -/
def atomicTypeOk (op t : Nat) (f64 : Bool) : Bool :=
  if op ≤ 7 then isInt t else decide (11 ≤ t) && decide (t ≤ if f64 then 14 else 13)

/-- The new value of R399 and its flags; floating adds round as `c` says. -/
def atomicNew (op t : Nat) (c : RoundCtl) (o x x2 : Nat) : Nat × BitVec 6 :=
  let n := 2 ^ typeBits t
  let o := o % n
  let x := x % n
  match op with
  | 0 => (x, 0)
  | 1 => ((o + x) % n, 0)
  | 2 => (o &&& x, 0)
  | 3 => (o ||| x, 0)
  | 4 => (o ^^^ x, 0)
  | 5 => (if intVal t x < intVal t o then x else o, 0)
  | 6 => (if intVal t o < intVal t x then x else o, 0)
  | 7 => (if o = x then x2 % n else o, 0)
  | 8 => fAdd t c o x
  | 9 => fMinMax t false false o x
  | _ => fMinMax t true false o x

/-- The bank ALU rounds RNE (06 R141). -/
def bankRound : RoundCtl := { rm := 0 }

/-! ## Banks -/

/-- The place of a Stage offset of a die in Stage memory. -/
def stageAt (die off : Nat) : Nat := die * 2 ^ 26 + off

/-- The bank and the bank word of a place. -/
def bankOf (a : Nat) : Nat := a / 2 ^ 26 * 256 + a / 32 % 256
def bankWord (a : Nat) : Nat := a / 32

/-- BT of the bank of a place: a rebase raises every bank's to the new base (09 R204). -/
def bankTime (a : Nat) (s : State) : Nat := max s.tbase (s.bt.getD (bankOf a) 0)

/-- A bank performs an operation for an agent with clock c: its clock rises, and is carried back (09 R204). -/
def bankTick (a c : Nat) (s : State) : Nat × State :=
  let t := max (bankTime a s) c
  (t, { s with bt := s.bt.set (bankOf a) t })

/-- Those parked at a bank word are woken by a write that reaches it (18 R411). -/
def wakeBank (a : Nat) (s : State) : State :=
  match s.stageWait.find (bankWord a) with
  | none => s
  | some ks =>
    let s := { s with stageWait := s.stageWait.erase (bankWord a) }
    { s with due := s.due ++ ks.map fun k => .waitWake k (stageKey (bankWord a)) 0 }

/-- The old value may go to the register it is meant for (11 R270). -/
def opAllowed (o : StageOp) (old : Nat) : Bool :=
  match o.act with
  | .alu _ ty => decide (o.floor ≤ (scalarOf ty.toNat old).toNat)
  | _ => decide (o.floor ≤ old)

/-- One operation of a bank (06 R142): the old value, the bank clock, and the state after. -/
def bankOp (o : StageOp) (s : State) : Nat × Nat × State :=
  let a := stageAt o.die o.off
  let old := s.stage.read a o.size
  let r := bankTick a o.clock s
  let s := r.2
  match if opAllowed o old then o.act else .load with
  | .load => (old, r.1, s)
  | .store => (old, r.1, wakeBank a { s with stage := s.stage.write a o.s.toNat o.size })
  | .alu op ty =>
    let v := (atomicNew op.toNat ty.toNat bankRound old o.s.toNat o.s2.toNat).1
    (old, r.1, wakeBank a { s with stage := s.stage.write a v o.size })

/-- Bytes written to Stage memory by a sequencer or an engine, one bank word at a time, at clock c; the largest bank clock
they carry back. -/
def stageWrite (die off v n c : Nat) (s : State) : Nat × State :=
  let a := stageAt die off
  let s := { s with stage := s.stage.write a v n }
  (List.range (n / 32 + 2)).foldl (fun r i =>
    let w := a / 32 * 32 + 32 * i
    if w < a + n then
      let b := bankTick w c r.2
      (max r.1 b.1, wakeBank w b.2)
    else r) (c, s)

/-- Bytes read from Stage memory at clock c, with the largest bank clock they carry back. -/
def stageRead (die off n c : Nat) (s : State) : Nat × Nat × State :=
  let a := stageAt die off
  let v := s.stage.read a n
  let r := (List.range (n / 32 + 2)).foldl (fun r i =>
    let w := a / 32 * 32 + 32 * i
    if w < a + n then
      let b := bankTick w c r.2
      (max r.1 b.1, b.2)
    else r) (c, s)
  (v, r.1, r.2)

/-! ## A sequencer's offsets (06 R140) -/

/-- An offset relative to STGBASE lies within the slate's STAGE bytes. -/
def Seq.stageOk (q : Seq) (off n : Nat) : Bool := off + n ≤ q.n.stage

/-- The Stage offset of the die. -/
def Seq.stageOff (q : Seq) (off : Nat) : Nat := q.n.stgbase + off

/-! ## Round trips -/

/-- The least value that register g[d] takes (11 R270). -/
def Seq.leastG (q : Seq) (d : Nat) : Nat := if d = 31 then q.c.slim.toNat else 0

/-- A Stage operation goes to its bank and the instruction waits for the answer (06 R130, 09 R204); when it is back, its
value is `f`'s argument. One whose answer goes to g[d] is done only where g[d] takes it. -/
def stageTrip (off size : Nat) (act : StageAct) (x x2 : DWord) (d : Nat) (f : DWord → State → Res Flow) (s : State) : Res Flow :=
  let k := s.cur
  let q := s.me
  match q.note.bind Note.value with
  | some v => f v s
  | none =>
    let op : StageOp := { die := dieOfSeq k, off := q.stageOff off, size := size, act := act, s := x, s2 := x2,
                          clock := q.pts, k := k, dest := none, floor := q.leastG d }
    .wait ((s.upd k fun q => { q with note := some (q.note.getD {}), wait := .stage }).post (.stageBankOperation op))

/-- The answer of a bank to sequencer `k`: its clock follows BT, its value comes back (R204). -/
def stageAnswered (k bt : Nat) (result : Option DWord) (s : State) : State :=
  s.upd k fun q =>
    let q := { q with pts := max q.pts bt }
    match q.note, q.wait with
    | some n, .stage => { q with note := some { n with value := some (result.getD 0) }, wait := .run }
    | _, _ => q

/-- STAGE_BANK_OPERATION (06 R142): the bank performs it and answers. -/
def execStageBankOperation (op : StageOp) (s : State) : Out :=
  let r := bankOp op s
  .next (r.2.2.post (.stageAnswer op.k r.2.1 (some (BitVec.ofNat 64 r.1))))

/-- STAGE_ANSWER (09 R204). -/
def execStageAnswer (k bt : Nat) (result : Option DWord) (s : State) : Out := .next (stageAnswered k bt result s)

/-! ## Barrier objects (18 R409, R410) -/

/-- One arrival on COUNT, ARRIVED, GEN: the old GEN, and the object after. -/
def barrierStep (obj : Nat) : Nat × Nat :=
  let count := bitsAt obj 0 32
  let arrived := bitsAt obj 32 32
  let gen := bitsAt obj 64 32
  if count ≤ arrived + 1 then (gen, setBitsAt (setBitsAt obj 32 32 0) 64 32 (gen + 1))
  else (gen, setBitsAt obj 32 32 (arrived + 1))

/-- An arrival at a Stage object as one bank operation at clock c: GEN, and the bank clock. -/
def stageArrive (a c : Nat) (s : State) : Nat × Nat × State :=
  let r := barrierStep (s.stage.read a 16)
  let b := bankTick a c s
  (r.1, b.1, wakeBank a { b.2 with stage := b.2.stage.write a r.2 16 })

end Sys2Proof.Machine
end

