-- ==== Sys2Proof/Machine/Matte.lean ====
section
/-!
DEFINITION. Mattes at their homes (spec/04_address_spaces.md): pops and pushes of the slot pool and of the free plate list
(R81, R85, R86), the slot that line i of a record names (R87), and the allocation walk of an agent that writes at the home
(R88, R92).
-/
namespace Sys2Proof.Machine

/-- The anchor lines of a context's root (R77). -/
def poolLine (root : Nat) : Nat := lineOf (root + 0x2080)
def plateListLine (root : Nat) : Nat := lineOf (root + 0x2100)

/-- POOLHEAD (R77). -/
def poolHead (root : Nat) (s : State) : Nat := s.peekField (root + 0x2080) 3

/-- The three pool fields in one write. -/
def poolFields (head free used : Nat) : Line × LineMask :=
  (lineWith 0 (head % 2 ^ 24 + (free % 2 ^ 32) * 2 ^ 32 + (used % 2 ^ 32) * 2 ^ 64), maskOf 0 12)

/-- What a pop of the slot pool or of the free plate list answers: what was popped and its time, nothing to pop, or the detail of a
physical-address fault (R78); the last two change nothing. -/
inductive Popped where
  | got (p T : Nat)
  | empty
  | bad (tier : Nat)
  deriving DecidableEq, Repr

/-- One pop (R86). -/
def poolPop (root vi clock : Nat) (w : Waiting) (s : State) : Res Popped :=
  (openLine .write (poolLine root) vi w false s).andThen fun h s =>
    let p := lineField h.data 0 3
    if p = 0 then .ok .empty s
    else match slotFault vi root p s with
      | some d => .ok (.bad d) s
      | none =>
        let next := s.peekField (slotAddr root p s) 3
        let T := max clock (h.rts + 1)
        let r := poolFields next (lineField h.data 4 4 + (2 ^ 32 - 1)) (lineField h.data 8 4 + 1)
        (homeWrite (poolLine root) vi T r.1 r.2 w s).andThen fun _ s => .ok (.got p T) s

/-- One push (R86), all at its T: the slot's first word names the old head, and the head the slot. None for a slot whose frame is
not the interface's (R78): the detail of the fault. -/
def poolPush (root vi clock p : Nat) (w : Waiting) (s : State) : Res (Except Nat Nat) :=
  match slotFault vi root p s with
  | some d => .ok (.error d) s
  | none =>
    let x := lineOf (slotAddr root p s)
    (openLine .write x vi w false s).andThen fun _ s =>
      (openLine .write (poolLine root) vi w false s).andThen fun h s =>
        let T := max clock (h.rts + 1)
        let r := poolFields p (lineField h.data 4 4 + 1) (lineField h.data 8 4 + (2 ^ 32 - 1))
        (homeWrite (poolLine root) vi T r.1 r.2 w s).andThen fun _ s =>
          .ok (.ok T) (homePut x vi T (lineWith 0 (lineField h.data 0 3)) (maskOf 0 4) s)

/-- A pop of the free plate list (R81): the frame's address. -/
def platePop (root vi clock : Nat) (w : Waiting) (s : State) : Res Popped :=
  (openLine .write (plateListLine root) vi w false s).andThen fun h s =>
    let f := lineField h.data 0 8
    if f = 0 then .ok .empty s
    else if !structOk vi f s then .ok (.bad (tierOf f).code) s
    else
      let T := max clock (h.rts + 1)
      let v := s.peekField f 8 + (lineField h.data 8 4 + (2 ^ 32 - 1)) % 2 ^ 32 * 2 ^ 64
      (homeWrite (plateListLine root) vi T (lineWith 0 v) (maskOf 0 12) w s).andThen fun _ s => .ok (.got f T) s

/-- A push of a frame, all at its T. -/
def platePush (root vi clock frame : Nat) (w : Waiting) (s : State) : Res (Except Nat Nat) :=
  if !structOk vi frame s then .ok (.error (tierOf frame).code) s
  else
    (openLine .write (lineOf frame) vi w false s).andThen fun _ s =>
      (openLine .write (plateListLine root) vi w false s).andThen fun h s =>
        let T := max clock (h.rts + 1)
        let v := frame + (lineField h.data 8 4 + 1) % 2 ^ 32 * 2 ^ 64
        (homeWrite (plateListLine root) vi T (lineWith 0 v) (maskOf 0 12) w s).andThen fun _ s =>
          .ok (.ok T) (homePut (lineOf frame) vi T (lineWith 0 (lineField h.data 0 8)) (maskOf 0 8) s)

/-- A record with line i's pointer set and its mask bit too: the masked bytes of the change (R88). -/
def recordWith (r : Line) (i p : Nat) : Line × LineMask :=
  (lineWith 0 (recMask r ||| 2 ^ i) ||| lineWith (16 + 3 * i) p, maskOf 0 4 ||| maskOf (16 + 3 * i) 3)

/-- What an allocation walk answers: the time of the write, an empty pool, poison, or the detail of a physical-address fault; with
the clock of what it did before it failed. -/
inductive Walk where
  | done (T : Nat)
  | empty
  | poison (T : Nat)
  | bad (tier : Nat)
  deriving DecidableEq, Repr

/-- A new slot for line i (R88), the record, the plate line and the popped slot's line being open. -/
def allocateNew (root vi clock : Nat) (w : Waiting) (rec i plate : Nat) (r p : HomeLine Nat) (bytes : Line) (mask : LineMask)
    (s : State) : Res Walk :=
  (poolPop root vi clock w s).andThen fun q s =>
    match q with
    | .empty => .ok .empty s
    | .bad d => .ok (.bad d) s
    | .got slot t =>
      if p.code = 15 then
        (poolPush root vi t slot w s).andThen fun b s => .ok (match b with | .ok T => .poison T | .error d => .bad d) s
      else
        let x := lineOf (slotAddr root slot s)
        let rts := match s.home x with | some h => h.rts | none => s.mts x
        let T := max (max t (r.rts + 1)) (max (rts + 1) p.wts)
        let c := recordWith r.data i slot
        let s := s.setHome plate { ((s.home plate).getD p) with rts := max p.rts T }
        .ok (.done T) (homePut rec vi T c.1 c.2 (homePut x vi T (mergeLine p.data bytes mask) fullMask s))

/-- The allocation walk of a write made at the home (R88, R92): line i of the page whose record lies in line `rec` and
whose plate line is `plate`. -/
def homeAllocate (root vi clock : Nat) (w : Waiting) (rec i plate : Nat) (bytes : Line) (mask : LineMask) (s : State) :
    Res Walk :=
  (openLine .write rec vi w false s).andThen fun r s =>
    if r.code = 15 then .ok (.poison clock) s
    else if bitsAt (recMask r.data) i 1 = 1 then
      match slotFault vi root (recPtr r.data i) s with
      | some d => .ok (.bad d) s
      | none =>
        let x := lineOf (slotAddr root (recPtr r.data i) s)
        (openLine .write x vi w false s).andThen fun h s =>
          let T := max clock (h.rts + 1)
          (homeWrite x vi T bytes mask w s).andThen fun _ s => .ok (.done T) s
    else
      (openLine .peek plate vi w false s).andThen fun p s =>
        (openLine .write (poolLine root) vi w false s).andThen fun h s =>
          let head := lineField h.data 0 3
          let ready : Res Nat := if head = 0 || (slotFault vi root head s).isSome then .ok 0 s
            else (openLine .write (lineOf (slotAddr root head s)) vi w false s).andThen fun sl s => .ok (sl.rts + 1) s
          ready.andThen fun t s =>
            let T := max (max clock (h.rts + 1)) (max (r.rts + 1) (max t p.wts))
            storing T w s fun s => allocateNew root vi clock w rec i plate r p bytes mask s

end Sys2Proof.Machine
end

