-- ==== Sys2Proof/Machine/Strip.lean ====
section
/-!
DEFINITION. A sequencer's view of coherent memory and its write sets: reads of bytes through mattes, buffers and the read
log (spec/07_coherence.md R155, R156, R163, R165, R173; spec/04_address_spaces.md R87; spec/06_clusters.md R132), stores
buffered in a strip (spec/11_execution_state.md R250), stores performed at one time with their allocation walks (04 R88,
16 R360), and the strip commit (07 R163, R164; 04 R89).
-/
namespace Sys2Proof.Machine

/-! ## Places -/

/-- `n` bytes at a physical address within one line, reached through a leaf. -/
structure Piece where
  leaf : Leaf
  pa : Nat
  n : Nat

def Piece.line (p : Piece) : Nat := lineOf p.pa

def seqRoot (k : Agent) (s : State) : Nat := rootOf (s.seq k).vi (s.seq k).cid s

/-- The place of a piece: a line, or a line of a page with a matte. -/
def Piece.loc (root : Nat) (p : Piece) (s : State) : Loc :=
  if p.leaf.mv then .matte (lineOf (recordAddr root p.leaf.mid s)) (p.line % 32) p.line else .line p.line

/-- The record line of a place, if it has one. -/
def Loc.rec? : Loc → Option Nat
  | .line _ => none
  | .matte r _ _ => some r

/-- The line that supplies a place, by the record as the slice holds it (R87). -/
def sourceLine (k root : Nat) (l : Loc) (s : State) : Nat :=
  match l with
  | .line x => x
  | .matte r i plate =>
    let d := sliceLine k r s
    if bitsAt (recMask d) i 1 = 1 then lineOf (slotAddr root (recPtr d i) s) else plate

/-- The buffered bytes of a place over a line, later buffers over earlier ones. -/
def overlay (bufs : List BufEntry) (loc : Loc) (d : Line) : Line :=
  bufs.foldl (fun d b => if b.loc = loc then mergeLine d b.bytes b.mask else d) d

def bufMask (bufs : List BufEntry) (loc : Loc) : LineMask :=
  bufs.foldl (fun m b => if b.loc = loc then m ||| b.mask else m) 0

/-! ## Reading -/

/-- The read log takes the lines of a read (R163); none when it would hold more than 2,048 lines the slice does not own
(R165). A phase page's line is not in M and is not logged. -/
def logReads (k : Agent) (xs : List (Nat × Bool)) (s : State) : Option State :=
  let q := s.seq k
  match q.strip with
  | none => some s
  | some st =>
    let c := clusterOfSeq k
    let reads := xs.foldl (fun (m : AMap ReadEntry) e =>
      if e.2 then m
      else match m.find e.1, s.copy c e.1 with
        | none, some p => m.set e.1 { wts := p.wts, epoch := s.rebases }
        | _, _ => m) st.reads
    let outside := reads.filter fun e => match s.copy c e.1 with | some p => !p.own | none => true
    if 2048 < reads.length && 2048 < outside.length then none
    else some (s.upd k fun q => { q with strip := some { st with reads := reads } })

/-- Every piece readable at one time t (R155, R156): the record lines, then the lines they name, are in the slice; pts
follows; the read is logged, and counted by the lines its elements lie in (R161). The strip reruns in ownership mode when its log is full (R165). -/
def readPieces (k : Agent) (ps : List Piece) (s : State) : Res Nat :=
  let root := seqRoot k s
  let locs := dedup (ps.map fun p => (p.loc root s, p.leaf.ph))
  let recs := dedup ((locs.filterMap fun e => e.1.rec?).map fun r => (r, false))
  (acquireRead k recs s).andThen fun _ s =>
    let data := dedup (locs.map fun e => (sourceLine k root e.1 s, e.2))
    let lines := dedup (recs ++ data)
    (acquireRead k lines s).andThen fun t s =>
      match logReads k lines s with
      | none => .wait ((replay k s).upd k fun q => { q with fails := max q.fails 2 })
      | some s =>
        .ok t (countLoad k (data.map Prod.fst) (s.upd k fun q => { q with pts := max q.pts t }))

/-- The bytes of a piece as the sequencer sees them, once `readPieces` has answered. -/
def pieceValue (k : Agent) (p : Piece) (s : State) : Nat :=
  let root := seqRoot k s
  let loc := p.loc root s
  lineField (overlay (s.seq k).buffers loc (sliceLine k (sourceLine k root loc s) s)) (p.pa % 128) p.n

/-- The piece reads a poisoned line (08 R186, R198). -/
def piecePoison (k : Agent) (p : Piece) (s : State) : Bool :=
  let root := seqRoot k s
  let loc := p.loc root s
  slicePoison k (sourceLine k root loc s) s || (match loc.rec? with | some r => slicePoison k r s | none => false)

/-! ## Buffering in a strip (11 R250) -/

/-- Bytes that a sequencer's buffers hold. -/
def Seq.buffered (q : Seq) : Nat :=
  (q.buffers.foldl (fun n b => n + Bdz.popc b.mask.toNat 128) 0)
    + (match q.strip with | some st => (dedup (st.sst.map Prod.fst)).length | none => 0)

def stripCap : Nat := 131072

/-- An entry merged into a list of entries, one for each place: the last of them there takes it. -/
def bufMerge (e : BufEntry) : List BufEntry → List BufEntry
  | [] => [e]
  | b :: bs =>
    if b.loc = e.loc ∧ ∀ x ∈ bs, x.loc ≠ e.loc then
      { b with bytes := mergeLine b.bytes e.bytes e.mask, mask := b.mask ||| e.mask,
               leaf := if b.leaf = 0 then e.leaf else b.leaf, first := min b.first e.first,
               count := min 8192 (b.count + e.count) } :: bs
    else b :: bufMerge e bs

/-- One entry of a store: the bytes and the mask of a piece, for element `elem` of a page. -/
def storeEntry (root : Nat) (p : Piece) (va v elem : Nat) (s : State) : BufEntry :=
  { loc := p.loc root s, bytes := lineWith (p.pa % 128) (v % 2 ^ (8 * p.n)), mask := maskOf (p.pa % 128) p.n,
    leaf := if p.leaf.dirty then 0 else p.leaf.entry, page := va / 4096 * 4096, first := elem, count := 1 }

/-- Stores of one instruction merged place by place, in order; `true` marks a phase page. -/
def mergeEntries (es : List (BufEntry × Bool)) : List BufEntry × List BufEntry :=
  es.foldl (fun r e => if e.2 then (r.1, bufMerge e.1 r.2) else (bufMerge e.1 r.1, r.2)) ([], [])

/-- The strip's buffers after a store. -/
def Strip.with (st : Strip) (plain phase : List BufEntry) : Strip :=
  { st with buf := plain.foldl (fun b e => bufMerge e b) st.buf, phbuf := phase.foldl (fun b e => bufMerge e b) st.phbuf }

/-- The slices in whose lines bytes have been buffered keep to their space (06 R132). -/
def trimFor (k : Agent) (es : List BufEntry) (s : State) : State :=
  thread trimSlice (dedup (es.map fun e => sliceOf (clusterOfSeq k) e.loc.order)) s

/-- A store of an open strip, refused above STRIPCAP. -/
def bufferStore (k : Agent) (plain phase : List BufEntry) (s : State) : Res Unit :=
  let q := s.seq k
  match q.strip with
  | none => .ok () s
  | some st =>
    let q2 := { q with strip := some (st.with plain phase) }
    if stripCap < q2.buffered then .trap 0x07 q.buffered s
    else .ok () (trimFor k (plain ++ phase) (s.setSeq k q2))

/-! ## Write sets (04 R88, R89; 07 R163) -/

/-- A slot of a matte write: its place, pointer, and whether it was popped for this write set. -/
abbrev SlotPlan := Loc × Nat × Bool

def slotOf (plans : List SlotPlan) (l : Loc) : Option (Nat × Bool) := (plans.find? fun p => p.1 = l).map Prod.snd

/-- D bits set for the leaves the stores went through, at their homes (04 R75, R163). -/
def setDirty (k : Agent) : List Nat → State → Res Unit
  | [], s => .ok () s
  | 0 :: es, s => setDirty k es s
  | (n + 1) :: es, s =>
    let l : Leaf := { entry := n + 1, level := 0, base := 0, w0 := BitVec.ofNat 64 (s.peekField (n + 1) 8), w1 := 0 }
    if l.dirty then setDirty k es s
    else
      (orLeaf (seqAccessor k s) l 64 (s.seq k).pts s).andThen fun r s =>
        setDirty k es (s.upd k fun q => { q with pts := max q.pts r.2 })

/-- Why a write set cannot have its slots: the pool is empty, or a slot that a page needs is not the interface's (R78). -/
inductive NoSlot where
  | empty
  | bad (page tier : Nat)
  deriving DecidableEq, Repr

/-- The plan of matte writes, popping slots in the order of the entries; kept in `commit` while the pops wait. A poisoned record
takes none. -/
def planSlots (k root : Nat) : List BufEntry → State → Res (Option NoSlot)
  | [], s => .ok none s
  | e :: es, s =>
    match e.loc with
    | .line _ => planSlots k root es s
    | .matte r i _ =>
      let c := (s.seq k).commit.getD {}
      match slotOf c.slots e.loc with
      | some _ => planSlots k root es s
      | none =>
        let d := s.newest r
        if lineBad r s then planSlots k root es s
        else if bitsAt (recMask d) i 1 = 1 then
          match slotFault (s.seq k).vi root (recPtr d i) s with
          | some tier => .ok (some (.bad e.page tier)) s
          | none =>
            let c := { c with slots := c.slots ++ [(e.loc, recPtr d i, false)] }
            planSlots k root es (s.upd k fun q => { q with commit := some c })
        else
          (poolPop root (s.seq k).vi (s.seq k).pts (.again k) s).andThen fun r s =>
            match r with
            | .empty => .ok (some .empty) s
            | .bad tier => .ok (some (.bad e.page tier)) s
            | .got p T =>
              let c := { c with slots := c.slots ++ [(e.loc, p, true)] }
              planSlots k root es (s.upd k fun q => { q with commit := some c, pts := max q.pts T })

/-- The slots popped go back, in ascending line order (R89, R462), each leaving the plan as it goes. -/
def pushBack (k root : Nat) : List SlotPlan → State → Res Unit
  | [], s => .ok () s
  | p :: ps, s =>
    if p.2.2 then
      (poolPush root (s.seq k).vi (s.seq k).pts p.2.1 (.again k) s).andThen fun r s =>
        let T := match r with | .ok T => T | .error _ => 0
        pushBack k root ps (s.upd k fun q =>
          { q with pts := max q.pts T, commit := q.commit.map fun c => { c with slots := c.slots.filter (· ≠ p) } })
    else pushBack k root ps s

/-- The plan of a write set is dropped. -/
def unplan (k root : Nat) (s : State) : Res Unit :=
  (pushBack k root ((s.seq k).commit.getD {}).slots s).andThen fun _ s =>
    .ok () (s.upd k fun q => { q with commit := q.commit.map fun c => { c with slots := [] } })

/-- The fault entries of an empty pool (R89, R474): for each page its slots needed. -/
def emptyPool (es : List BufEntry) (s : State) : List FaultEntry :=
  let fresh := es.filter fun e => match e.loc with
    | .matte r i _ => bitsAt (recMask (s.newest r)) i 1 = 0 && !lineBad r s
    | .line _ => false
  let pages := dedup (fresh.map fun e => e.page)
  let all := pages.map fun pg =>
    let mine := fresh.filter fun e => e.page = pg
    let stores := es.filter fun e => e.page = pg
    ({ page := pg % 2 ^ 57, access := 1, cause := 0x08, first := stores.foldl (fun m e => min m e.first) 0xFFFF,
       count := min 8192 (stores.foldl (fun n e => n + e.count) 0), detail := mine.length } : FaultEntry)
  all.mergeSort fun a b => decide (a.first ≤ b.first)

/-- The fault of a slot that a page's stores need and may not have (R78). -/
def badSlot (es : List BufEntry) (page tier : Nat) : FaultEntry :=
  let mine := es.filter fun e => e.page = page
  { page := page % 2 ^ 57, access := 1, cause := 0x05, first := mine.foldl (fun m e => min m e.first) 0xFFFF,
    count := min 8192 (mine.foldl (fun n e => n + e.count) 0), detail := tier }

/-- The fault entries of a write set without its slots. -/
def NoSlot.faults (n : NoSlot) (es : List BufEntry) (s : State) : List FaultEntry :=
  match n with
  | .empty => emptyPool es s
  | .bad page tier => [badSlot es page tier]

/-- Entries in the physical line order of the lines their stores name. -/
def sortEntries (es : List BufEntry) : List BufEntry := es.mergeSort fun a b => decide (a.loc.order ≤ b.loc.order)

/-- A place in a peer's memory. -/
def Loc.isPeer : Loc → Bool
  | .line x => tierOf (128 * x) = .peer
  | .matte .. => false

/-- The lines a write set owns (R163): the lines stored to, and for a matte its record and slot, with the plate line whose
data a new slot takes (log 25). -/
def setLines (root : Nat) (plans : List SlotPlan) (es : List BufEntry) (s : State) : List Nat :=
  let all := es.flatMap fun e => match e.loc with
    | .line x => [x]
    | .matte r _ plate => match slotOf plans e.loc with
      | some (p, popped) => [r, lineOf (slotAddr root p s)] ++ (if popped then [plate] else [])
      | none => [r]
  (dedup all).mergeSort fun a b => decide (a ≤ b)

/-- The least time of the write set: above every lease of a line it writes, at least the write time of a plate line it
reads; a commit counts the record of a walk that finds its slot too, which is in its write set (R88, R163). -/
def setFloor (k root : Nat) (commit : Bool) (plans : List SlotPlan) (es : List BufEntry) (s : State) : Nat :=
  es.foldl (fun t e => match e.loc with
    | .line x => max t (writeFloor k [x] s)
    | .matte r _ plate => match slotOf plans e.loc with
      | some (p, true) =>
        let w := match s.copy (clusterOfSeq k) plate with | some c => c.wts | none => 0
        max (max t (writeFloor k [r, lineOf (slotAddr root p s)] s)) w
      | some (p, false) => max t (writeFloor k ((if commit then [r] else []) ++ [lineOf (slotAddr root p s)]) s)
      | none => t) 0

/-- The plan still agrees with the records the slice now owns: a slot used before is still named, a line planned new is
still clear (R90). -/
def planHolds (k : Agent) (plans : List SlotPlan) (s : State) : Bool :=
  plans.all fun p => match p.1 with
    | .line _ => true
    | .matte r i _ =>
      let d := sliceLine k r s
      if p.2.2 then bitsAt (recMask d) i 1 = 0 else bitsAt (recMask d) i 1 = 1 && recPtr d i = p.2.1

/-- A new slot would take a poisoned plate line (R88): the address of the first such store. -/
def poisonedPlate (k : Agent) (plans : List SlotPlan) (es : List BufEntry) (s : State) : Option Nat :=
  (es.find? fun e => match e.loc with
    | .matte r _ plate => slicePoison k r s || (match slotOf plans e.loc with
      | some (_, true) => slicePoison k plate s
      | _ => false)
    | .line _ => false).map fun e => match e.loc with
      | .matte _ i _ => e.page + 128 * i
      | .line _ => e.page

/-- What preparing a write set answers. -/
inductive Prep where
  | ready (plans : List SlotPlan) (lines : List Nat)
  | lacks (n : NoSlot)
  | poison (va : Nat)

/-- A write set made ready (R88, R89, R163 step 1): D bits, slots, ownership in ascending line order, all held. -/
def prepare (k : Agent) (es : List BufEntry) (s : State) : Res Prep :=
  let root := seqRoot k s
  (setDirty k (dedup (es.map fun e => e.leaf)) s).andThen fun _ s =>
    (planSlots k root es s).andThen fun bad s =>
      match bad with
      | some n => (unplan k root s).andThen fun _ s => .ok (.lacks n) s
      | none =>
        let plans := ((s.seq k).commit.getD {}).slots
        let lines := setLines root plans es s
        (acquireWrite k lines s).andThen fun _ s =>
          if !planHolds k plans s then (unplan k root s).andThen fun _ s => .wait s
          else match poisonedPlate k plans es s with
            | some va => (unplan k root s).andThen fun _ s => .ok (.poison va) s
            | none => .ok (.ready plans lines) s

/-- One entry of the set written at T. -/
def performEntry (k root : Nat) (plans : List SlotPlan) (T : Nat) (e : BufEntry) (s : State) : State :=
  match e.loc with
  | .line x =>
    let s := writeCopy k x T e.bytes e.mask s
    if tierOf (128 * x) = .host then
      let s := s.upd k fun q => { q with hostOut := q.hostOut + 1 }
      hostStore (s.seq k).vi x e.bytes e.mask s
    else s
  | .matte r i plate =>
    match slotOf plans e.loc with
    | some (p, popped) =>
      let x := lineOf (slotAddr root p s)
      if popped then
        let c := clusterOfSeq k
        let s := match s.copy c plate with
          | some pl => s.setCopy c plate { pl with rts := max pl.rts T }
          | none => s
        let ch := recordWith (sliceLine k r s) i p
        writeCopy k r T ch.1 ch.2 (writeCopy k x T (mergeLine (sliceLine k plate s) e.bytes e.mask) fullMask s)
      else writeCopy k x T e.bytes e.mask s
    | none => s

/-- A store to a peer is posted (02 R47). -/
def postPeerStore (k : Agent) (e : BufEntry) (s : State) : State :=
  let q := s.seq k
  postStore k { addr := 128 * e.loc.order, bytes := e.bytes, mask := e.mask, page := e.page, vi := q.vi, cid := q.cid } s

/-- Every entry written at T; the clock becomes T and the store counts (R157, R161). A set that writes nothing is no write (05
R110). -/
def performSet (k : Agent) (plans : List SlotPlan) (es : List BufEntry) (T : Nat) (s : State) : State :=
  let root := seqRoot k s
  let s := thread (performEntry k root plans T) es s
  countStore k (s.upd k fun q => { q with pts := max q.pts T, wmax := if es = [] then q.wmax else max q.wmax T })

/-- A store outside a strip (16 R360): phase bytes go to the phase buffer, peer stores are posted, the rest perform at one
T = max(pts, rts + 1 of every line). -/
def storeNow (k : Agent) (plain phase : List BufEntry) (s : State) : Res Unit :=
  let q := s.seq k
  let phase2 := phase.foldl (fun b e => bufMerge e b) q.phase
  let q2 : Seq := { q with phase := phase2 }
  if stripCap < q2.buffered then .trap 0x07 q.buffered s
  else
    let es := sortEntries (plain.filter fun e => !e.loc.isPeer)
    let peers := plain.filter fun e => e.loc.isPeer
    if es = [] then .ok () (countStore k (trimFor k phase (thread (postPeerStore k) peers (s.upd k fun q => { q with phase := phase2 }))))
    else
      (prepare k es s).andThen fun p s =>
        match p with
        | .lacks n => .fault (n.faults es s) (s.upd k fun q => { q with commit := none })
        | .poison va => .trap 0x0C va (s.upd k fun q => { q with commit := none })
        | .ready plans _ =>
          let T := max (s.seq k).pts (setFloor k (seqRoot k s) false plans es s)
          storing T (.again k) s fun s =>
            let s := performSet k plans es T s
            let s := s.upd k fun q => { q with commit := none, phase := phase2 }
            .ok () (trimFor k phase (thread (postPeerStore k) peers s))

/-- A store of one instruction, in a strip or outside (11 R250, 14 R327). -/
def storeEntries (k : Agent) (es : List (BufEntry × Bool)) (s : State) : Res Unit :=
  let m := mergeEntries es
  if (s.seq k).strip.isSome then bufferStore k m.1 m.2 s else storeNow k m.1 m.2 s

/-! ## The strip commit (R163, R164) -/

/-- A line of the read log that the slice owns is judged by its copy (R163 step 3). -/
def ownedRead (k x : Nat) (s : State) : Bool :=
  match s.copy (clusterOfSeq k) x with | some p => p.own | none => false

def localOk (k x : Nat) (r : ReadEntry) (s : State) : Bool :=
  match s.copy (clusterOfSeq k) x with
  | some p => p.wts = r.wts && r.epoch = s.rebases && !commitLocked k x s
  | none => false

/-- Validation (R163 step 3): owned lines here, the others asked at their homes. -/
def validate (k Tc : Nat) (s : State) : State :=
  let q := s.seq k
  let c := clusterOfSeq k
  match q.strip with
  | none => s
  | some st =>
    let here := st.reads.filter fun e => ownedRead k e.1 s
    let away := st.reads.filter fun e => !ownedRead k e.1 s
    let bad := here.any fun e => !localOk k e.1 e.2 s
    let s := thread (fun (e : Nat × ReadEntry) s => match s.copy c e.1 with
      | some p => if localOk k e.1 e.2 s then s.setCopy c e.1 { p with rts := max p.rts Tc } else s
      | none => s) here s
    let cm := q.commit.getD {}
    let cm := { cm with tc := some Tc, pending := away.map Prod.fst, failed := bad }
    let s := s.upd k fun q => { q with commit := some cm }
    let asks : List Due := away.map fun (e : Nat × ReadEntry) => .val k q.gen e.1 Tc e.2.wts e.2.epoch
    { s with due := s.due ++ asks }

/-- Ownership that was gained and not written is given up (R164). -/
def releaseUnwritten (k : Agent) (lines : List Nat) (s : State) : State :=
  let c := clusterOfSeq k
  thread (fun x s => match s.copy c x with
    | some p => if p.own ∧ p.mask = 0 ∧ (holders c x s) = [k] then giveUp c x .i p s else s
    | none => s) lines s

/-- Lines owned only for reading become shared copies (R164). -/
def shareReads (k : Agent) (s : State) : State :=
  let c := clusterOfSeq k
  thread (fun x s => match s.copy c x with
    | some p => if p.own ∧ p.forRead ∧ holders c x s = [k] then giveUp c x .s p s else s
    | none => s) (s.seq k).holds s

/-- A Stage store of the strip performs at Tc (06 R143, 09 R204). -/
def performStage (k Tc : Nat) (e : Nat × Byte) (s : State) : State :=
  let r := stageWrite (e.1 / 2 ^ 26) (e.1 % 2 ^ 26) e.2.toNat 1 Tc s
  r.2.upd k fun q => { q with pts := max q.pts r.1 }

/-- The coherent write set of a strip's commit: its stores, and the lines of mattes that its relaxed arrivals write, which
need their slots (04 R88). -/
def Strip.writeSet (st : Strip) : List BufEntry :=
  let own := st.buf.filter fun e => !e.loc.isPeer
  sortEntries (st.rlx.foldl (fun es r =>
    if r.stage || (r.loc.rec?).isNone || es.any fun e => e.loc = r.loc then es
    else es ++ [{ loc := r.loc, bytes := 0, mask := 0, leaf := r.leaf, page := r.page, first := 0, count := 1 }]) own)

/-- A relaxed arrival performs (09 R205, 18 R410): at its bank, or as an atomic write of the sequencer through its slice (R157). The
spec states no result where the place has become poison or lost its slot since the stores performed: a free value (log 5). -/
def performRlx (k : Agent) (r : RlxArrive) (s : State) : Res Unit :=
  if r.stage then
    let b := stageArrive r.addr (s.seq k).pts s
    .ok () (b.2.2.upd k fun q => ({ q with pts := max q.pts b.2.1 }).arrive (.g r.dest) b.1)
  else
    let e : BufEntry := { loc := r.loc, bytes := 0, mask := 0, leaf := r.leaf, page := r.page, first := 0, count := 1 }
    (prepare k [e] s).andThen fun p s =>
      let drop (s : State) : State := s.upd k fun q => { q with commit := q.commit.map fun c => { c with slots := [] } }
      match p with
      | .lacks _ | .poison _ =>
        .ok () ({ drop s with fresh := s.fresh + 1 }.upd k fun q => q.arrive (.g r.dest) (Config.freeBits s.fresh % 2 ^ 64))
      | .ready plans _ =>
        let root := seqRoot k s
        let old := match r.loc with
          | .line x => sliceLine k x s
          | .matte _ _ plate => match slotOf plans r.loc with
            | some (p, false) => sliceLine k (lineOf (slotAddr root p s)) s
            | _ => sliceLine k plate s
        let o := barrierStep (lineField old r.addr 16)
        let T := max (s.seq k).pts (setFloor k root false plans [e] s)
        storing T (.again k) s fun s =>
          let e := { e with bytes := lineWith r.addr o.2, mask := maskOf r.addr 16 }
          .ok () ((drop (performSet k plans [e] T s)).upd k fun q => q.arrive (.g r.dest) o.1)

/-- Relaxed arrivals of the strip, each once. -/
def performRlxAll (k : Agent) : List RlxArrive → State → Res Unit
  | [], s => .ok () s
  | r :: rs, s =>
    (performRlx k r s).andThen fun _ s =>
      performRlxAll k rs (s.upd k fun q => match q.strip with
        | some st => { q with strip := some { st with rlx := st.rlx.drop 1 } }
        | none => q)

/-- The end of a commit (R163; 10 R222; 11 R253): the strip is closed and the closing instruction goes on. -/
def endCommit (k : Agent) (s : State) : State :=
  let s := shareReads k s
  let s := s.upd k fun q =>
    { q with strip := none, commit := none, fails := 0, age := none, cut := none, forced := false, pins := [], named := [], wait := .run,
             n := { q.n with strips := q.n.strips + 1, sfault := 0 } }
  letGo k (unpinned k s)

/-- The writes of a commit at Tc: coherent lines, phase bytes, Stage bytes, peers. The lines it held are let go. -/
def commitWrites (k Tc : Nat) (plans : List SlotPlan) (s : State) : State :=
  match (s.seq k).strip with
  | none => s
  | some st =>
    let peers := st.buf.filter fun e => e.loc.isPeer
    let s := performSet k plans st.writeSet Tc s
    let s := s.upd k fun q => { q with phase := st.phbuf.foldl (fun b e => bufMerge e b) q.phase }
    let s := thread (performStage k Tc) st.sst s
    let s := thread (postPeerStore k) peers s
    let s := s.upd k fun q => match q.strip with
      | some st => { q with strip := some { st with buf := [], phbuf := [], sst := [], reads := [], ownMode := false }
                            commit := q.commit.map fun c => { c with slots := [], stored := true } }
      | none => q
    letGo k (shareReads k s)

/-- STRIP_COMMIT: one stretch of the commit of sequencer `k` (R163, R164, R89): the write set is made ready, Tc is fixed and
the reads are validated, and with every answer in the stores perform at Tc, or the strip replays. -/
def commitStep (k : Agent) (s : State) : State :=
  let q := s.seq k
  match q.strip with
  | none => s.upd k fun q => match q.wait with | .commit => { q with wait := .run, commit := none } | _ => q
  | some st =>
    let cm := q.commit.getD {}
    let s := s.upd k fun q => { q with wait := .commit, commit := some cm }
    let es := st.writeSet
    let tail (s : State) : State :=
      match performRlxAll k (match (s.seq k).strip with | some st => st.rlx | none => []) s with
      | .ok _ s => endCommit k s
      | .wait s => s
      | .trap _ _ s => s
      | .fault _ s => s
    match cm.tc with
    | none =>
      match prepare k es s with
      | .wait s => s
      | .trap c v s => trapSeq k c v s
      | .fault f s => postFaults k f s
      | .ok (.lacks n) s => postFaults k (n.faults es s) (s.upd k fun q => { q with commit := none })
      | .ok (.poison va) s => trapSeq k 0x0C va (s.upd k fun q => { q with commit := none })
      | .ok (.ready plans _) s =>
        let Tc := max (s.seq k).pts (setFloor k (seqRoot k s) true plans es s)
        match storing Tc (.again k) s fun s => Res.ok () (validate k Tc s) with
        | .ok _ s => match (s.seq k).commit with
          | some c => if c.pending = [] then s.post (.stripCommit k) else s
          | none => s
        | .wait s | .trap _ _ s | .fault _ s => s
    | some Tc =>
      if cm.pending ≠ [] then s
      else if cm.failed then
        match unplan k (seqRoot k s) s with
        | .ok _ s =>
          let lines := setLines (seqRoot k s) cm.slots es s
          replay k (releaseUnwritten k lines s)
        | .wait s => s
        | .trap _ _ s => s
        | .fault _ s => s
      else if cm.stored then tail s
      else tail (commitWrites k Tc cm.slots s)

/-- STRIP_COMMIT (07 R163). -/
def execStripCommit (k : Agent) (s : State) : Out := .next (commitStep k s)

end Sys2Proof.Machine
end

