-- ==== Sys2Proof/Machine/Access.lean ====
section
/-!
DEFINITION. What the memory instructions share: the waits of releases and what acquires add (spec/09_consistency.md R209
to R213), closing the strip for a page without speculation (spec/14_scalar.md R327), accesses to peers (spec/02_links.md
R45 to R48) and to the host by PCIe atomics (spec/18_sync.md R400), and a scalar location read or written (14 R326).
-/
namespace Sys2Proof.Machine

/-! ## Releases and acquires -/

/-- Stores of the context that runs on sequencer `k` are still out, those that another sequencer sent for it before a save
included (log 48). -/
def storesOut (count : Seq → Nat) (k : Agent) (s : State) : Bool :=
  (k :: (s.seq k).came).any fun j => count (s.seq j) ≠ 0

/-- What a release waits for, the strip being closed (09 R209, 02 R48, R49, 09 R213). -/
def release (scope : Nat) (s : State) : Res Unit :=
  let n := s.me.note.getD {}
  if scope = 5 ∧ storesOut Seq.peersOut s.cur s then .wait (s.waitFor s.cur .peer)
  else if 6 ≤ scope ∧ storesOut Seq.hostOut s.cur s then .wait (s.waitFor s.cur .host)
  else if scope = 7 ∧ !n.flushed then
    let s := s.updMe fun q => { q with note := some { n with flushed := true }, wait := .persist }
    .wait { s with outbox := s.outbox ++ [.flush (hostPort s.me.vi s)] }
  else .ok () s

/-- What an acquire adds once its access has returned (09 R209, R212). -/
def acquire (scope : Nat) (s : State) : State :=
  if scope = 5 then s.updMe fun q => { q with pts := max q.pts s.peerHorizon }
  else if 6 ≤ scope then s.updMe fun q => { q with pts := max q.pts s.hostHorizon }
  else s

/-! ## Pages without speculation -/

/-- A load from a page with NS = 1 closes the strip and is executed again without one (14 R327, 16 R363). -/
def closeFor (s : State) : Res Unit :=
  if s.me.allFull then .wait ((s.waitFor s.cur .commit).post (.stripCommit s.cur)) else .wait (s.waitFor s.cur .full)

/-! ## Peers (02 R43, R45, R47) -/

/-- A request to a peer that answers: sent once, and the instruction is executed again with the answer (R48). The fault's
cause and detail where the peer refuses or cannot be reached. -/
def askPeer (pa : Nat) (m : PeerMsg) (s : State) : Res (Faulty Nat) :=
  let n := s.me.note.getD {}
  if n.cause ≠ 0 then .ok (.error (n.cause, peerId pa)) s
  else match n.lines.find pa with
    | some v => .ok (.ok v) s
    | none =>
      if !reachable pa s then .ok (.error (0x0C, peerId pa)) s
      else
        .wait (sendPeer m (s.updMe fun q => { q with note := some { n with asked := pa + 1 }, wait := .peer }))

/-- The requests, of at most 8 bytes within one aligned dword, that read `n` bytes of a peer: address and size. -/
def peerParts (pa n : Nat) : List (Nat × Nat) :=
  (List.range (n / 8 + 2)).filterMap fun i =>
    let a := max pa (pa / 8 * 8 + 8 * i)
    let b := min (pa + n) (pa / 8 * 8 + 8 * i + 8)
    if a < b then some (a, b - a) else none

/-- Bytes put together from the answers to their requests. -/
def peerJoin (pa : Nat) (got : AMap Nat) (parts : List (Nat × Nat)) : Nat :=
  parts.foldl (fun v p => v + (got.getD p.1 0 % 2 ^ (8 * p.2)) <<< (8 * (p.1 - pa))) 0

/-- The bytes of a peer that the current instruction has read. -/
def peerBytes (pa n : Nat) (s : State) : Nat := peerJoin pa (s.me.note.getD {}).lines (peerParts pa n)

/-- Requests to a peer one after the other. -/
def askParts : List (Nat × Nat) → State → Res (Faulty Unit)
  | [], s => .ok (.ok ()) s
  | p :: ps, s => (askPeer p.1 (.read p.1 p.2 s.cur) s).andThen fun r s =>
    match r with
    | .ok _ => askParts ps s
    | .error e => .ok (.error e) s

/-- Bytes of a peer's memory read. -/
def readPeer (pa n : Nat) (s : State) : Res (Faulty Nat) :=
  (askParts (peerParts pa n) s).andThen fun r s =>
    match r with
    | .ok _ => .ok (.ok (peerBytes pa n s)) s
    | .error e => .ok (.error e) s

/-- An atomic sent to the host as a PCIe AtomicOp (18 R400). -/
def askHost (pa : Nat) (m : OutMsg) (s : State) : Res Nat :=
  let n := s.me.note.getD {}
  match n.lines.find pa with
  | some v => .ok v s
  | none =>
    let s := s.updMe fun q => { q with note := some { n with asked := pa + 1 }, wait := .host }
    .wait { s with outbox := s.outbox ++ [m] }

/-- The answer to a sequencer's request. -/
def answered (value cause : Nat) (q : Seq) : Seq :=
  let n := q.note.getD {}
  let n := if cause ≠ 0 then { n with cause := cause }
    else if n.asked = 0 then n else { n with lines := n.lines.set (n.asked - 1) value }
  { q with note := some n, wait := .run }

/-- The bytes of a peer's memory under the sequencer's own buffered ones. -/
def peerView (p : Piece) (v : Nat) (s : State) : Nat :=
  let o := p.pa % 128
  lineField (overlay s.me.buffers (.line p.line) (lineWith o v)) o p.n

/-! ## Scalar locations (14 R326, R327) -/

/-- `n` bytes at a virtual address, aligned, that one load of the sequencer reads. -/
def loadAt (va n : Nat) (s : State) : Res Nat :=
  let k := s.cur
  if va % n ≠ 0 then .trap 0x0A va s
  else
    (seqTranslate k va .read false s).andThen fun l s =>
      let p : Piece := { leaf := l, pa := l.pa va, n := n }
      if l.ns ∧ s.me.strip.isSome then (closeFor s).andThen fun _ s => .ok 0 s
      else if tierOf p.pa = .peer then
        (readPeer p.pa n s).andThen fun r s => match r with
          | .ok v => .ok (peerView p v s) s
          | .error e => .fault [scalarFault va .read e] s
      else
        (readPieces k [p] s).andThen fun _ s =>
          if piecePoison k p s then .trap 0x0C va s else .ok (pieceValue k p s) s

/-- A page that a store in a strip pins until its commit (04 R95). -/
def pinLeaf (va : Nat) (l : Leaf) (s : State) : State :=
  if s.me.strip.isNone then s
  else
    let e := TlbEntry.of (seqAccessor s.cur s) va l
    s.updMe fun q => { q with pins := if e ∈ q.pins then q.pins else q.pins ++ [e] }

/-- `n` bytes stored at a virtual address, aligned. -/
def storeAt (va n v : Nat) (s : State) : Res Unit :=
  let k := s.cur
  if va % n ≠ 0 then .trap 0x0A va s
  else
    (seqTranslate k va .write s.me.strip.isNone s).andThen fun l s =>
      let p : Piece := { leaf := l, pa := l.pa va, n := n }
      if tierOf p.pa = .peer ∧ !reachable p.pa s then .fault [scalarFault va .write (0x0C, peerId p.pa)] s
      else
        (storeEntries k [(storeEntry (seqRoot k s) p va v 0 s, l.ph)] s).andThen fun _ s => .ok () (pinLeaf va l s)

end Sys2Proof.Machine
end

