-- ==== Sys2Proof/Machine/ScalarMem.lean ====
section
/-!
DEFINITION. Scalar loads and stores (spec/14_scalar.md R326, R327), the ordered forms (R328), scalar Stage accesses (R329)
and the prefetch (R330).
-/
namespace Sys2Proof.Machine

/-- g[a] + SignExtend(imm13), modulo 2^64. -/
def immAddr (a : Nat) (i : BitVec 13) (s : State) : Nat := (s.me.gRead a + i.signExtend 64).toNat

/-- The `n` bytes read, extended. -/
def extended (n : Nat) (signed : Bool) (v : Nat) : DWord :=
  if signed ∧ 2 ^ (8 * n - 1) ≤ v then BitVec.ofNat 64 (v + (2 ^ 64 - 2 ^ (8 * n))) else BitVec.ofNat 64 v

/-- A load of `n` bytes into g[d], empty until it arrives. -/
def loadInto (d va n : Nat) (signed : Bool) (s : State) : Res Flow :=
  (loadAt va n s).andThen fun v s =>
    (produceG d (extended n signed v) s).andThen fun _ s => .ok .next s

/-- A store of the low `n` bytes of g[d]. -/
def storeFrom (d va n : Nat) (s : State) : Res Flow :=
  (storeAt va n (s.me.gRead d).toNat s).andThen fun _ s => .ok .next s

/-- The operands of a load and of a store, whose data source always waits (13 R293). -/
def loadOps (w : Nat) (d a : BitVec 5) (e : BitVec 1) : Operands := ops2 w (gr d) (gr a) e true
def storeOps (w : Nat) (d a : BitVec 5) (e : BitVec 1) : Operands :=
  { word := w, regs := [gr d, gr a], sources := [(gr d, false), (gr a, eb e)] }

/-- LDB (14 R326). -/
def execLdb (d a : BitVec 5) (e : BitVec 1) (i : BitVec 13) (s : State) : Out :=
  issue (loadOps (Instr.ldb d a e i).encodeNat d a e)
    (fun s => loadInto d.toNat (immAddr a.toNat i s) 1 true s) s

/-- LDBN (14 R326). -/
def execLdbn (d a : BitVec 5) (e : BitVec 1) (i : BitVec 13) (s : State) : Out :=
  issue (loadOps (Instr.ldbn d a e i).encodeNat d a e)
    (fun s => loadInto d.toNat (immAddr a.toNat i s) 1 false s) s

/-- LDH (14 R326). -/
def execLdh (d a : BitVec 5) (e : BitVec 1) (i : BitVec 13) (s : State) : Out :=
  issue (loadOps (Instr.ldh d a e i).encodeNat d a e)
    (fun s => loadInto d.toNat (immAddr a.toNat i s) 2 true s) s

/-- LDHN (14 R326). -/
def execLdhn (d a : BitVec 5) (e : BitVec 1) (i : BitVec 13) (s : State) : Out :=
  issue (loadOps (Instr.ldhn d a e i).encodeNat d a e)
    (fun s => loadInto d.toNat (immAddr a.toNat i s) 2 false s) s

/-- LDW (14 R326). -/
def execLdw (d a : BitVec 5) (e : BitVec 1) (i : BitVec 13) (s : State) : Out :=
  issue (loadOps (Instr.ldw d a e i).encodeNat d a e)
    (fun s => loadInto d.toNat (immAddr a.toNat i s) 4 true s) s

/-- LDWN (14 R326). -/
def execLdwn (d a : BitVec 5) (e : BitVec 1) (i : BitVec 13) (s : State) : Out :=
  issue (loadOps (Instr.ldwn d a e i).encodeNat d a e)
    (fun s => loadInto d.toNat (immAddr a.toNat i s) 4 false s) s

/-- LDD (14 R326). -/
def execLdd (d a : BitVec 5) (e : BitVec 1) (i : BitVec 13) (s : State) : Out :=
  issue (loadOps (Instr.ldd d a e i).encodeNat d a e)
    (fun s => loadInto d.toNat (immAddr a.toNat i s) 8 false s) s

/-- STB (14 R326). -/
def execStb (d a : BitVec 5) (e : BitVec 1) (i : BitVec 13) (s : State) : Out :=
  issue (storeOps (Instr.stb d a e i).encodeNat d a e)
    (fun s => storeFrom d.toNat (immAddr a.toNat i s) 1 s) s

/-- STH (14 R326). -/
def execSth (d a : BitVec 5) (e : BitVec 1) (i : BitVec 13) (s : State) : Out :=
  issue (storeOps (Instr.sth d a e i).encodeNat d a e)
    (fun s => storeFrom d.toNat (immAddr a.toNat i s) 2 s) s

/-- STW (14 R326). -/
def execStw (d a : BitVec 5) (e : BitVec 1) (i : BitVec 13) (s : State) : Out :=
  issue (storeOps (Instr.stw d a e i).encodeNat d a e)
    (fun s => storeFrom d.toNat (immAddr a.toNat i s) 4 s) s

/-- STD (14 R326). -/
def execStd (d a : BitVec 5) (e : BitVec 1) (i : BitVec 13) (s : State) : Out :=
  issue (storeOps (Instr.std d a e i).encodeNat d a e)
    (fun s => storeFrom d.toNat (immAddr a.toNat i s) 8 s) s

/-- LDO (14 R328): the load, then an acquire at its scope. -/
def execLdo (d a : BitVec 5) (e : BitVec 1) (c : BitVec 3) (z : BitVec 1) (z2 : BitVec 2) (s : State) : Out :=
  issue (loadOps (Instr.ldo d a e c z z2).encodeNat d a e)
    (fun s =>
      (loadInto d.toNat (s.me.gRead a.toNat).toNat (2 ^ z2.toNat) (z = 0) s).andThen fun f s =>
        .ok f (acquire c.toNat s)) s

/-- STO (14 R328): a release at its scope, closing the strip, then the store. -/
def execSto (d a : BitVec 5) (e : BitVec 1) (c : BitVec 3) (z2 : BitVec 2) (s : State) : Out :=
  issue (storeOps (Instr.sto d a e c z2).encodeNat d a e).closing
    (fun s =>
      let va := (s.me.gRead a.toNat).toNat
      if va % 2 ^ z2.toNat ≠ 0 then .trap 0x0A va s
      else (release c.toNat s).andThen fun _ s => storeFrom d.toNat va (2 ^ z2.toNat) s) s

/-! ## Stage memory (R329) -/

/-- The dword offset of SLD and SST: a multiple of 8 within the slate's bytes. -/
def stageOffset (a : Nat) (i : BitVec 13) (s : State) : Res Nat :=
  let o := immAddr a i s
  if o % 8 ≠ 0 then .trap 0x0A o s else if !s.me.stageOk o 8 then .trap 0x09 o s else .ok o s

/-- The sequencer's own buffered Stage bytes over a value read (06 R143). -/
def stageOverlay (at_ n v : Nat) (q : Seq) : Nat :=
  match q.strip with
  | none => v
  | some st => (List.range n).foldl (fun v i => match (st.sst.reverse.find? fun e => e.1 = at_ + i) with
      | some e => setBitsAt v (8 * i) 8 e.2.toNat
      | none => v) v

/-- The bytes of a number, lowest first, each with its place. -/
def placed (at_ n v : Nat) : List (Nat × Byte) := (List.range n).map fun i => (at_ + i, BitVec.ofNat 8 (v >>> (8 * i)))

/-- Stage bytes buffered in the open strip, refused above STRIPCAP (11 R250). -/
def stageBuffer (bs : List (Nat × Byte)) (s : State) : Res Unit :=
  let q := s.me
  match q.strip with
  | none => .ok () s
  | some st =>
    let q2 := { q with strip := some { st with sst := st.sst ++ bs } }
    if stripCap < q2.buffered then .trap 0x07 q.buffered s else .ok () (s.setSeq s.cur q2)

/-- SLD (14 R329): its destination is written when the bank has answered, and is never empty (06 R130). -/
def execSld (d a : BitVec 5) (e : BitVec 1) (i : BitVec 13) (s : State) : Out :=
  issue (loadOps (Instr.sld d a e i).encodeNat d a e)
    (fun s =>
      (stageOffset a.toNat i s).andThen fun o s =>
        stageTrip o 8 .load 0 0 0 (fun v s =>
          let x := stageOverlay (stageAt (dieOfSeq s.cur) (s.me.stageOff o)) 8 v.toNat s.me
          putG d.toNat (BitVec.ofNat 64 x) 0 s) s) s

/-- SST (14 R329): buffered in a strip, else one operation at its bank. -/
def execSst (d a : BitVec 5) (e : BitVec 1) (i : BitVec 13) (s : State) : Out :=
  issue (storeOps (Instr.sst d a e i).encodeNat d a e)
    (fun s =>
      (stageOffset a.toNat i s).andThen fun o s =>
        let x := s.me.gRead d.toNat
        if s.me.strip.isSome then
          (stageBuffer (placed (stageAt (dieOfSeq s.cur) (s.me.stageOff o)) 8 x.toNat) s).andThen fun _ s => .ok .next s
        else stageTrip o 8 .store x 0 0 (fun _ s => .ok .next s) s) s

/-! ## Prefetch (R330) -/

/-- One line brought nearer: 0 a shared copy, 1 ownership, 2 the last-level cache only. -/
def bringNearer (k : Agent) (kind x : Nat) (s : State) : State :=
  let q := s.seq k
  match kind with
  | 0 => if (s.copy (clusterOfSeq k) x).isSome then s else s.post (.rds k q.gen x q.pts q.c.lease)
  | 1 => if (match s.copy (clusterOfSeq k) x with | some p => p.own && !p.forRead | none => false) then s
         else s.post (.rdo k q.gen x q.pts)
  | _ => match present x q.vi (.again k) s with
    | .ok _ s2 => s2
    | _ => s

/-- The line of an address brought nearer, on a page with a matte the record line and the line it names (04 R87); a phase page's is
shared, since its stores own nothing (07 R173). A translation that would fault, a page with NS = 1, a peer and the host window make it
do nothing, and so does anything that would have to wait here; pts stays (log 27). -/
def prefetch (va kind : Nat) (s : State) : State :=
  let k := s.cur
  match translate (seqAccessor k s) va (if kind = 1 then .write else .read) false s.me.pts s with
  | .ok (.ok l, _) s1 =>
    if l.ns ∨ !isMemory (l.pa va) then s
    else
      let x := lineOf (l.pa va)
      let xs := if l.mv then
          let root := seqRoot k s1
          let r := lineOf (recordAddr root l.mid s1)
          let d := s1.newest r
          [r, if bitsAt (recMask d) (x % 32) 1 = 1 then lineOf (slotAddr root (recPtr d (x % 32)) s1) else x]
        else [x]
      thread (bringNearer k (if l.ph ∧ kind = 1 then 0 else kind)) xs s1
  | _ => s

/-- PREF (14 R330): field d is the kind. -/
def execPref (kd a : BitVec 5) (e : BitVec 1) (i : BitVec 13) (s : State) : Out :=
  issue (ops1 (Instr.pref kd a e i).encodeNat (gr a) e)
    (fun s => .ok .next (prefetch (immAddr a.toNat i s) kd.toNat s)) s

end Sys2Proof.Machine
end

