-- ==== Sys2Proof/Machine/VecOps.lean ====
section
/-!
DEFINITION. How vector compute instructions execute (spec/15_vector_compute.md R332 to R336; spec/11_execution_state.md
R255, R266): active elements, groups from VSTART, results and their flags, predicate results, cross-element instructions,
reductions (spec/10_numbers.md R235), and block scales in registers (R228 to R232).
-/
namespace Sys2Proof.Machine

/-! ## Elements -/

/-- Elements below VL that are active, as bits (R333). -/
def Seq.active (q : Seq) (masked : Bool) : Nat :=
  let all := 2 ^ q.c.vl - 1
  if masked && q.c.vmask.getLsbD 3 then q.pRead (q.c.vmask.toNat % 8) &&& all else all

/-- The mask predicate, which a masked instruction reads and waits for (log 28). -/
def Seq.maskSrc (q : Seq) : List (RegRef × Bool) :=
  if q.c.vmask.getLsbD 3 then [(.p (q.c.vmask.toNat % 8), false)] else []

/-- Element `e` of `w` bits of v[n] (R332). -/
def Seq.elem (q : Seq) (n w e : Nat) : Nat := bitsAt (q.vRead n) (w * e) w

/-- The b operand of element `e`: a vector element, or the low bits of a g register in the .VS form (R335). -/
def Seq.elemB (q : Seq) (vs : Bool) (n w e : Nat) : Nat := if vs then (q.gRead n).toNat % 2 ^ w else q.elem n w e

/-- The b field's register. -/
def vsReg (vs : Bool) (b : BitVec 5) : RegRef := if vs then gr b else vr b

/-- Groups from VSTART that hold an active element (R255, R334). -/
def Seq.groups (q : Seq) (act : Nat) : List Nat :=
  (List.range ((q.c.vl + 31) / 32)).filter fun g => decide (q.c.vstart ≤ g) && decide (bitsAt act (32 * g) 32 ≠ 0)

/-- One group of elements of `w` bits over the group's old bits; elements without a result keep theirs. -/
def groupOf (w g old : Nat) (f : Nat → Option (Nat × BitVec 6)) : Nat × BitVec 6 :=
  (List.range 32).foldl (fun r i => match f (32 * g + i) with
    | some x => (setBitsAt r.1 (w * i) w x.1, r.2 ||| x.2)
    | none => r) (old, 0)

/-- A register with group `g` replaced. -/
def withGroup (w g reg : Nat) (f : Nat → Option (Nat × BitVec 6)) : Nat × BitVec 6 :=
  let x := groupOf w g (bitsAt reg (32 * w * g) (32 * w)) f
  (setBitsAt reg (32 * w * g) (32 * w) x.1, x.2)

/-- Several groups in order. -/
def overGroups (gs : List Nat) (reg : Nat) (step : Nat → Nat → Nat × BitVec 6) : Nat × BitVec 6 :=
  gs.foldl (fun r g =>
    let x := step g r.1
    (x.1, r.2 ||| x.2)) (reg, 0)

/-- Which groups run now, where VSTART stands after, and how the instruction goes on: all groups, or one under element
stepping (R266). -/
def Seq.schedule (q : Seq) (gs : List Nat) : List Nat × Nat × Flow :=
  match gs with
  | [] => ([], 0, .group 0 true)
  | g :: rest =>
    if q.grouped then
      if rest = [] then ([g], 0, .group (32 * g) true) else ([g], g + 1, .group (32 * g) false)
    else (gs, 0, .group (32 * g) true)

/-- No operand is wider than SEW (R332). -/
def narrowEnough (word : Nat) (widths : List Nat) (s : State) : Res Unit :=
  if widths.any fun w => decide (s.me.c.sewBits < w) then .trap 0x03 word s else .ok () s

/-- v[d] written, at once or when the long-latency unit answers (R336). -/
def putV (d : Nat) (late : Bool) (x : Nat) (s : State) : State :=
  if late then (s.updMe fun q => q.setFull (.v d) false).post (.longLatencyResult s.cur (.v d) x)
  else s.updMe fun q => q.vSet d x

/-- VectorExec with a step for each group (R334). -/
def vecGroups (word : Nat) (widths : List Nat) (masked late : Bool) (d : Nat)
    (step : Seq → Nat → Nat → Nat × BitVec 6) (s : State) : Res Flow :=
  (narrowEnough word widths s).andThen fun _ s =>
    let q := s.me
    let p := q.schedule (q.groups (q.active masked))
    let r := overGroups p.1 (q.vRead d) (step q)
    let s := s.updMe fun q => { q.raise r.2 with c := { (q.raise r.2).c with vstart := p.2.1 } }
    .ok p.2.2 (putV d late r.1 s)

/-- VectorExec with a result of `w` bits for each active element. -/
def vecElems (word : Nat) (widths : List Nat) (masked late : Bool) (d w : Nat)
    (f : Seq → Nat → Nat × BitVec 6) : State → Res Flow :=
  vecGroups word widths masked late d fun q g reg =>
    let act := q.active masked
    withGroup w g reg fun e => if act.testBit e then some (f q e) else none

/-- A predicate writer (R333): groups before VSTART keep their bits, inactive elements and those at or above VL are
cleared. -/
def predElems (word : Nat) (widths : List Nat) (masked : Bool) (d : Nat)
    (f : Seq → Nat → Bool × BitVec 6) (s : State) : Res Flow :=
  (narrowEnough word widths s).andThen fun _ s =>
    let q := s.me
    let act := q.active masked
    let p := q.schedule (q.groups act)
    let r := overGroups p.1 0 fun g reg =>
      withGroup 1 g reg fun e => if act.testBit e then
        let x := f q e
        some (if x.1 then 1 else 0, x.2) else none
    let low := q.pRead d % 2 ^ (32 * q.c.vstart)
    let bits := if p.2.1 = 0 then low + r.1 else low + r.1 + q.pRead d >>> (32 * p.2.1) <<< (32 * p.2.1)
    let s := s.updMe fun q => { q.raise r.2 with c := { (q.raise r.2).c with vstart := p.2.1 } }
    .ok p.2.2 (s.updMe fun q => q.pSet d (bits % 2 ^ q.c.vl))

/-! ## Cross-element instructions: one group, VSTART set to 0 (R334) -/

/-- VSTART back to 0. -/
def restart (s : State) : State := s.updMe fun q => { q with c := { q.c with vstart := 0 } }

/-- A vector result: elements without one keep their bits. -/
def vecWhole (word : Nat) (widths : List Nat) (d w : Nat) (f : Seq → Nat → Option (Nat × BitVec 6)) (s : State) :
    Res Flow :=
  (narrowEnough word widths s).andThen fun _ s =>
    let q := s.me
    let r := overGroups (List.range ((q.c.vl + 31) / 32)) (q.vRead d) fun g reg =>
      withGroup w g reg fun e => if e < q.c.vl then f q e else none
    .ok .next (restart (s.updMe fun q => (q.raise r.2).vSet d r.1))

/-- A scalar result of g[d]. -/
def vecScalar (word : Nat) (widths : List Nat) (d : Nat) (f : Seq → DWord × BitVec 6) (s : State) : Res Flow :=
  (narrowEnough word widths s).andThen fun _ s =>
    let r := f s.me
    (putG d r.1 r.2 s).andThen fun fl s => .ok fl (restart s)

/-- The indices of set bits below `n`, ascending. -/
def setBits (x n : Nat) : List Nat := (List.range n).filter fun e => x.testBit e

/-- For each e below `n` the number of set bits below it. -/
def ranks (x n : Nat) : List Nat :=
  ((List.range n).foldl (fun (r : Nat × List Nat) e => (if x.testBit e then r.1 + 1 else r.1, r.1 :: r.2)) (0, [])).2.reverse

/-! ## Reductions (10 R235, 15 R347) -/

/-- A combining operation and its flags. -/
abbrev Combiner := Nat → Nat → Nat × BitVec 6

def combine (op : Combiner) : Option Nat → Option Nat → Option Nat × BitVec 6
  | none, y => (y, 0)
  | x, none => (x, 0)
  | some x, some y =>
    let r := op x y
    (some r.1, r.2)

/-- Neighbours combined; an odd last one passes up unchanged. -/
def pairUp (op : Combiner) : List (Option Nat) → List (Option Nat) × BitVec 6
  | x :: y :: rest =>
    let c := combine op x y
    let r := pairUp op rest
    (c.1 :: r.1, c.2 ||| r.2)
  | xs => (xs, 0)

/-- `n` rounds of pairing. -/
def pairRounds (op : Combiner) : Nat → List (Option Nat) → List (Option Nat) × BitVec 6
  | 0, xs => (xs, 0)
  | n + 1, xs =>
    let r := pairUp op xs
    let r2 := pairRounds op n r.1
    (r2.1, r.2 ||| r2.2)

/-- node<0> of a block of 32. -/
def blockNode (op : Combiner) (xs : List (Option Nat)) : Option Nat × BitVec 6 :=
  let r := pairRounds op 5 xs
  (r.1.headD none, r.2)

/-- The blocks of leaves of a reduction over active elements below VL. -/
def leafBlocks (q : Seq) (leaf : Nat → Nat) : List (List (Option Nat)) :=
  let act := q.active true
  (List.range ((q.c.vl + 31) / 32)).map fun j => (List.range 32).map fun i =>
    if act.testBit (32 * j + i) then some (leaf (32 * j + i)) else none

/-- ReduceLA (10 R235). -/
def reduceLA (op : Combiner) (z : Nat) (bs : List (List (Option Nat))) : Nat × BitVec 6 :=
  let r := bs.foldl (fun (r : Option Nat × BitVec 6) b =>
    let n := blockNode op b
    let c := combine op r.1 n.1
    (c.1, r.2 ||| n.2 ||| c.2)) (some z, 0)
  (r.1.getD z, r.2)

/-- ReduceDev (R347): the block sums are paired up before the start value joins. -/
def reduceDev (op : Combiner) (z : Nat) (bs : List (List (Option Nat))) : Nat × BitVec 6 :=
  let ns := bs.map (blockNode op)
  let fl := ns.foldl (fun f n => f ||| n.2) 0
  let r := pairRounds op 9 (ns.map Prod.fst)
  let c := combine op (some z) (r.1.headD none)
  (c.1.getD z, fl ||| r.2 ||| c.2)

/-- The reduction FCTL.LA selects. -/
def reduceBy (q : Seq) (op : Combiner) (z : Nat) (leaf : Nat → Nat) : Nat × BitVec 6 :=
  let bs := leafBlocks q leaf
  if q.c.la then reduceLA op z bs else reduceDev op z bs

/-- The integer operations of VRED and VSCAN: 0 .ADD, 1 .MIN, 2 .MAX, 3 .AND, 4 .OR, 5 .XOR. -/
def intCombine (t op : Nat) : Combiner := fun x y =>
  match op with
  | 0 => arith (fun a b => a + b) t false x y
  | 1 => pick t false x y
  | 2 => pick t true x y
  | 3 => (x &&& y, 0)
  | 4 => (x ||| y, 0)
  | _ => (x ^^^ y, 0)

/-- The float operations of VFRED and VFSCAN: 0 .ADD, 1 .MIN, 2 .MAX. -/
def floatCombine (t op : Nat) (c : RoundCtl) : Combiner := fun x y =>
  match op with
  | 0 => fAdd t c x y
  | 1 => fMinMax t false false x y
  | _ => fMinMax t true false x y

/-- A scan: the running values of the active elements below VL, and the flags (R347). -/
def scanRun (q : Seq) (t n : Nat) (op : Nat → Combiner) (z : Nat) : List (Option Nat) × BitVec 6 :=
  let act := q.active true
  let w := typeBits t
  let r := (List.range q.c.vl).foldl (fun (r : Nat × List (Option Nat) × BitVec 6) e =>
    if act.testBit e then
      let x := op e r.1 (q.elem n w e)
      (x.1, some x.1 :: r.2.1, r.2.2 ||| x.2)
    else (r.1, none :: r.2.1, r.2.2)) (z, [], 0)
  (r.2.1.reverse, r.2.2)

/-- The body of VSCAN and VFSCAN. -/
def scanBody (word t d n z : Nat) (op : Seq → Nat → Combiner) (s : State) : Res Flow :=
  (narrowEnough word [typeBits t] s).andThen fun _ s =>
    let q := s.me
    let r := scanRun q t n (op q) z
    let arr := r.1.toArray
    vecWhole word [typeBits t] d (typeBits t) (fun _ e => (arr.getD e none).map fun x => (x, 0)) (s.updMe fun q => q.raise r.2)

/-! ## Block scales in registers (10 R228 to R232, 15 R349) -/

/-- The scale of R232 for the magnitudes of some values, NaNs left out, and the narrow type's largest finite value. -/
def blockScale (qt : Nat) (xs : List Num) : Nat :=
  let big := xs.foldl (fun (m : Num) x => match x with
    | .nan _ => m
    | x => if numLt m (absNum x) then absNum x else m) (.fin false 0 0)
  match big, decodeFloat qt (maxFinite qt) with
  | .fin _ m e, .fin _ mx ex => scaleFor m e mx ex
  | .inf _, _ => 0xFFF
  | _, _ => 0

/-- A NaN as a conversion into the narrow type encodes it (R224). -/
def nanInto (qt : Nat) (sig : Bool) : Nat × BitVec 6 := roundNum qt { rm := 0, conv := true } (.nan sig)

/-- A value over a scale, rounded once into the narrow type (R232); a container with a nonzero top encodes as a NaN. -/
def encodeScaled (qt : Nat) (c : RoundCtl) (container : Nat) (x : Num) : Nat × BitVec 6 :=
  if container / 4096 ≠ 0 then
    let r := nanInto qt false
    (r.1, r.2 ||| flNV)
  else match x, scaleNum container with
    | .nan sig, _ => nanInto qt sig
    | x, .fin _ sm se =>
      if sm = 0 then (zeroOf qt (isNeg x), 0)
      else match x with
        | .inf n => infOf qt { c with conv := true } n
        | .fin n m e => if m = 0 then (zeroOf qt n, 0) else roundExact qt { c with conv := true } (exactQuot n m e sm se)
        | .nan sig => nanInto qt sig
    | _, _ => (0, 0)

/-- q × S as an f32 encoding, exact (R231). -/
def decodeScaled (qt container bits : Nat) : Nat × BitVec 6 :=
  if container / 4096 ≠ 0 then (canonicalNaN 13, flNV)
  else finishNum 13 { rm := 0 } (mulNum (decodeFloat qt bits) (scaleNum container))

/-- Rounded to an integral value (R348 VFRND). -/
def fIntegral (t : Nat) (c : RoundCtl) (a : Nat) : Nat × BitVec 6 :=
  match decodeFloat t a with
  | .nan s => nanOf t (nvIf s)
  | .inf _ => (a, 0)
  | .fin n m e =>
    if m = 0 then (a, 0)
    else
      let r := roundInt c n m e
      if r.1 = 0 then (zeroOf t n, flNX)
      else ((roundNum t { rm := 1 } (.fin n r.1.natAbs 0)).1, if r.2 then flNX else 0)

end Sys2Proof.Machine
end

