-- ==== Sys2Proof/Machine/VecMem.lean ====
section
/-!
DEFINITION. Vector memory accesses (spec/16_vector_memory.md R353 to R363): the effective format, the addresses of elements,
translation of every page with the batch of its faults, loads with decode and stores with encode and block scales
(spec/10_numbers.md R229 to R232), poison (R362), pages without speculation (R363), and fault-only-first loads (R365).
-/
namespace Sys2Proof.Machine

/-! ## Formats (R353, 10 R230) -/

/-- An effective format: type and block geometry; raw t is type t unscaled. -/
structure Fmt where
  ty : Nat
  geo : Nat
  deriving DecidableEq, Repr

def Leaf.fmt (l : Leaf) (q : Seq) (t : Nat) : Fmt :=
  if l.fv then ⟨l.ftype, l.fgeo⟩
  else if q.c.mfmt.getLsbD 0 then ⟨bitsAt q.c.mfmt.toNat 1 4, bitsAt q.c.mfmt.toNat 5 2⟩
  else ⟨t, 0⟩

/-- A legal format of the class of t (04 R74, R353). -/
def Fmt.fits (f : Fmt) (t : Nat) : Bool :=
  decide (f.ty ≠ 15) && (f.geo = 0 || (decide (8 ≤ f.ty) && decide (f.ty ≤ 10))) && isFloat f.ty == isFloat t

/-- A format fault's detail (04 R104). -/
def Fmt.detail (f : Fmt) : Nat := f.ty + 16 * f.geo

/-- Elements of a block, and its bytes (10 R229). -/
def Fmt.blockElems (f : Fmt) : Nat := 4 * 2 ^ f.geo
def Fmt.blockBytes (f : Fmt) : Nat := f.blockElems * typeBits f.ty / 8

/-- ScaleAddr (10 R229). -/
def Fmt.scaleAddr (f : Fmt) (q : Seq) (va : Nat) : Nat := (q.c.splane.toNat + 2 * (va / f.blockBytes)) % 2 ^ 57

/-- The bytes an element takes, at least one. -/
def elemBytes (ms : Nat) : Nat := max 1 (ms / 8)

/-! ## Addresses (R354) -/

inductive VShape where
  | unit
  | indexed (window : Option Nat)
  | segment (k : Nat)
  | broadcast
  deriving DecidableEq, Repr

/-- What a vector memory instruction names: its word, data register, base and index registers, type and shape. -/
structure VAcc where
  word : Nat
  v : Nat
  a : Nat
  b : Nat
  t : Nat
  shape : VShape := .unit
  ff : Bool := false

/-- One element field in memory: element, field, address, and the nibble of a 4-bit format. -/
structure Item where
  e : Nat
  f : Nat
  va : Nat
  nib : Option Nat

def wrap64 (x : Int) : Nat := (x % (2 ^ 64 : Nat)).toNat

/-- The place of position `n`. -/
def placeOf (base ms e f : Nat) (n : Int) : Item :=
  if ms = 4 then { e := e, f := f, va := wrap64 (base + n / 2), nib := some (n % 2).toNat }
  else { e := e, f := f, va := wrap64 (base + n * (ms / 8 : Nat)), nib := none }

/-- Element e of the index vector, read signed at SEW, or unsigned for VGTHW. -/
def indexOf (q : Seq) (b e : Nat) (signed : Bool) : Int :=
  let w := q.c.sewBits
  let x := q.elem b w e
  if signed ∧ 2 ^ (w - 1) ≤ x then (x : Int) - (2 ^ w : Nat) else x

/-- The fields of one element; none for an index outside the window (R367). -/
def itemsOf (o : VAcc) (q : Seq) (ms e : Nat) : List Item :=
  let base := (q.gRead o.a).toNat
  let stride := q.c.vstride.toInt
  match o.shape with
  | .broadcast => [placeOf base ms e 0 0]
  | .indexed none => [placeOf base ms e 0 (indexOf q o.b e true)]
  | .indexed (some w) =>
    let n := indexOf q o.b e false
    if n < w then [placeOf base ms e 0 n] else []
  | .unit => if stride = 0 then [placeOf base ms e 0 e] else [placeOf (wrap64 (base + e * stride)) ms e 0 0]
  | .segment k => (List.range k).map fun f =>
    if stride = 0 then placeOf base ms e f (k * e + f : Nat) else placeOf (wrap64 (base + e * stride)) ms e f f

/-- A strided access with a 4-bit format is refused (R354); indexed accesses do not read VSTRIDE (log 31). -/
def VAcc.strideTrap (o : VAcc) (q : Seq) (ms : Nat) : Bool :=
  ms = 4 && q.c.vstride ≠ 0 && (match o.shape with | .indexed _ => false | _ => true)

/-- The elements this execution reaches: active, from VSTART, one group under element stepping (R356, 11 R266), and how
it goes on. -/
def Seq.chosen (q : Seq) : List Nat × Nat × Flow :=
  let act := q.active true
  let p := q.schedule (q.groups act)
  (p.1.flatMap fun g => ((List.range 32).map fun i => 32 * g + i).filter fun e => act.testBit e, p.2)

/-! ## Translation and pins (R358, R361) -/

/-- One place an instruction touches: the element, the address, the access, whether it is an element (else a container). -/
structure Touch where
  e : Nat
  va : Nat
  kind : Access
  elem : Bool

/-- A page translated for a vector access, and pinned until the instruction ends (04 R95). -/
def vecTranslate (k : Agent) (va : Nat) (kind : Access) (s : State) : Res (Faulty Leaf) :=
  (translate (seqAccessor k s) va kind (s.seq k).strip.isNone (s.seq k).pts s).andThen fun r s =>
    let s := s.upd k fun q => { q with pts := max q.pts r.2 }
    match r.1 with
    | .error e => .ok (.error e) s
    | .ok l =>
      let pa := l.pa va
      if tierOf pa = .peer ∧ !reachable pa s then .ok (.error (0x0C, peerId pa)) s else .ok (.ok l) (usePage k true va l (pinNamed k va l s))

abbrev Pages := List ((Nat × Access) × Faulty Leaf)

/-- Every page touched, translated in order of first touch. -/
def translatePages (k : Agent) : List (Nat × Access) → State → Res Pages
  | [], s => .ok [] s
  | p :: ps, s =>
    (vecTranslate k (4096 * p.1) p.2 s).andThen fun r s =>
      (translatePages k ps s).andThen fun rs s => .ok ((p, r) :: rs) s

def leafFor (ps : Pages) (va : Nat) (kind : Access) : Faulty Leaf :=
  match ps.find? fun p => p.1 = (va / 4096, kind) with
  | some p => p.2
  | none => .error (0x01, 0)

/-- Why a touch faults: its page, or an element page whose format is not the base page's (R353). -/
def Touch.fault (x : Touch) (ps : Pages) (q : Seq) (t : Nat) (f : Option Fmt) : Option (Nat × Nat) :=
  match leafFor ps x.va x.kind with
  | .error e => some e
  | .ok l => match f with
    | some f => if x.elem && decide (l.fmt q t ≠ f) then some (0x07, (l.fmt q t).detail) else none
    | none => none

/-- A mask of elements. -/
def maskOfElems (es : List Nat) : Nat := es.foldl (fun m e => m ||| 2 ^ e) 0

/-- The entries of a batch: one for each page, in the order of first faulting elements, an element page before a container
page, at most 8,192 (R361, 04 R103). -/
def batchEntries (bad : List (Touch × (Nat × Nat))) : List FaultEntry :=
  let key (x : Touch × (Nat × Nat)) : Nat := 2 * x.1.e + (if x.1.elem then 0 else 1)
  let bad := bad.mergeSort fun a b => decide (key a ≤ key b)
  let pages := dedup (bad.map fun x => x.1.va / 4096)
  (pages.filterMap fun p =>
    let mine := bad.filter fun x => x.1.va / 4096 = p
    mine.head?.map fun x =>
      ({ page := 4096 * p % 2 ^ 57, access := x.1.kind.code, cause := x.2.1, first := x.1.e,
         count := min 8192 (dedup (mine.map fun y => y.1.e)).length, detail := x.2.2 } : FaultEntry)).take 8192

/-- The faulted-element mask. -/
def setFmask (es : List Nat) (s : State) : State :=
  s.updMe fun q => { q with n := { q.n with fmask := maskOfElems es } }

/-- A batch of this instruction, executed again from VSTART 0 (R361). -/
def vecFault {α : Type} (es : List Nat) (entries : List FaultEntry) (s : State) : Res α :=
  .fault entries (restart (setFmask es s))

/-- Pages that a store in a strip pins until its commit (04 R95). -/
def pinPages (ps : Pages) (s : State) : State :=
  thread (fun (p : (Nat × Access) × Faulty Leaf) s => match p.2 with
    | .ok l => pinLeaf (4096 * p.1.1) l s
    | .error _ => s) ps s

/-- The base page and the format (R353, R358 step 1): translated first, its fault names every active element. -/
def baseFormat (o : VAcc) (kind : Access) (es : List Nat) (s : State) : Res Fmt :=
  let base := (s.me.gRead o.a).toNat
  let entry (c : Nat × Nat) : FaultEntry :=
    { page := base / 4096 * 4096 % 2 ^ 57, access := kind.code, cause := c.1, first := es.headD 0,
      count := es.length, detail := c.2 }
  (vecTranslate s.cur base kind s).andThen fun r s =>
    match r with
    | .error c => vecFault es [entry c] s
    | .ok l =>
      let f := l.fmt s.me o.t
      if !f.fits o.t then vecFault es [entry (0x07, f.detail)] s
      else if o.strideTrap s.me (typeBits f.ty) then .trap 0x04 s.me.c.vstride.toNat s
      else .ok f s

/-- Whether an item lies at a multiple of its bytes (R355). -/
def Item.aligned (i : Item) (ms : Nat) : Bool := ms = 4 || i.va % (ms / 8) = 0

/-! ## Peers -/

/-- Every element in a peer's memory asked for, one after the other; the first that is refused. -/
def askPeers : List (Item × Piece) → State → Res (Option (Item × (Nat × Nat)))
  | [], s => .ok none s
  | x :: xs, s =>
    if tierOf x.2.pa ≠ .peer then askPeers xs s
    else (readPeer x.2.pa x.2.n s).andThen fun r s => match r with
      | .ok _ => askPeers xs s
      | .error e => .ok (some (x.1, e)) s

/-- The bytes of a piece, of this device or of a peer. -/
def bytesOf (p : Piece) (s : State) : Nat :=
  if tierOf p.pa = .peer then peerView p (peerBytes p.pa p.n s) s else pieceValue s.cur p s

/-! ## Loads -/

/-- A memory element as a register element of type t (R357). -/
def decodeElem (q : Seq) (t : Nat) (f : Fmt) (e raw container : Nat) : Nat × BitVec 6 :=
  let c := q.round q.c.rm e
  if f.geo = 0 then convert t f.ty c raw
  else
    let x := decodeScaled f.ty container raw
    let y := convert t 13 c x.1
    (y.1, x.2 ||| y.2)

/-- The raw bits of an item. -/
def Item.bits (i : Item) (x : Nat) : Nat := match i.nib with | some n => bitsAt x (4 * n) 4 | none => x

/-- An item with its piece and its container's piece. -/
structure Cell where
  item : Item
  piece : Piece
  scale : Option Piece

/-- The pieces of items whose pages are resident. -/
def cellsOf (ps : Pages) (q : Seq) (f : Fmt) (kind scaleKind : Access) (is : List Item) : List Cell :=
  is.filterMap fun i =>
    match leafFor ps i.va kind with
    | .error _ => none
    | .ok l =>
      let p : Piece := { leaf := l, pa := l.pa i.va, n := elemBytes (typeBits f.ty) }
      if f.geo = 0 then some ⟨i, p, none⟩
      else
        let a := f.scaleAddr q i.va
        match leafFor ps a scaleKind with
        | .error _ => none
        | .ok l2 => some ⟨i, p, some { leaf := l2, pa := l2.pa a, n := 2 }⟩

def Cell.pieces (c : Cell) : List Piece := c.piece :: c.scale.toList

def Cell.poisoned (c : Cell) (s : State) : Bool := c.pieces.any fun p => tierOf p.pa ≠ .peer && piecePoison s.cur p s

/-- A container with a nonzero top (04 R74). -/
def Cell.badScale (c : Cell) (s : State) : Bool :=
  match c.scale with | some p => decide (bytesOf p s / 4096 ≠ 0) | none => false

/-- Writes of a load: register offset (field), element and value. -/
abbrev Writes := List (Nat × Nat × Nat)

/-- Field `f`'s register with the elements loaded into it. -/
def loadedReg (q : Seq) (v f w : Nat) (ws : Writes) : Nat :=
  ws.foldl (fun x y => if y.1 = f then setBitsAt x (w * y.2.1) w y.2.2 else x) (q.vRead (v + f))

/-- The registers of a load written: at once when the instruction faults, else empty until they arrive (R358). -/
def writeLoaded (v k w : Nat) (ws : Writes) (late : Bool) (s : State) : State :=
  (List.range k).foldl (fun s f =>
    s.updMe fun q =>
      let x := loadedReg q v f w ws
      if late then q.produce (.v (v + f)) x else q.vSet (v + f) x) s

/-- The number of registers a shape loads. -/
def VAcc.fields (o : VAcc) : Nat := match o.shape with | .segment k => k | _ => 1

/-- The values of the cells read, with flags; each converts as its own element, those of a broadcast too (10 R222). -/
def decodeCells (o : VAcc) (f : Fmt) (cs : List Cell) (s : State) : Writes × BitVec 6 :=
  let q := s.me
  cs.foldr (fun c r =>
    let sc := match c.scale with | some p => bytesOf p s | none => 0
    let x := decodeElem q o.t f c.item.e (c.item.bits (bytesOf c.piece s)) sc
    ((c.item.f, c.item.e, x.1) :: r.1, r.2 ||| x.2)) ([], 0)

/-- The touches of a load: elements, then their containers. -/
def loadTouches (q : Seq) (f : Fmt) (is : List Item) : List Touch :=
  is.flatMap fun i => { e := i.e, va := i.va, kind := .read, elem := true } ::
    (if f.geo = 0 then [] else [{ e := i.e, va := f.scaleAddr q i.va, kind := .read, elem := false }])

/-- The pages of touches, in order of first touch. -/
def pagesOf (xs : List Touch) : List (Nat × Access) := dedup (xs.map fun x => (x.va / 4096, x.kind))

/-- What VLDFF stops at before it reads anything: the lowest element that faults, is misaligned or lies on a page without
speculation (R365). -/
def firstStop (ps : Pages) (f : Fmt) (is : List Item) (ts : List Touch) (bad : List Nat) : Option Nat :=
  let mis := (is.filter fun i => !i.aligned (typeBits f.ty)).map Item.e
  let ns := (ts.filter fun x => x.elem && match leafFor ps x.va x.kind with | .ok l => l.ns | .error _ => false).map Touch.e
  ((bad ++ mis ++ ns).foldl (fun m e => match m with | none => some e | some x => some (min x e)) none)

/-- The elements of a load that can be read, read at one t, with poison, containers and peers judged (R359, R362). -/
def loadCells (o : VAcc) (f : Fmt) (zero : List Nat) (p : Nat × Flow) (is : List Item) (ps : Pages)
    (bad0 : List (Touch × (Nat × Nat))) (s : State) : Res Flow :=
  let q := s.me
  let w := typeBits o.t
  let badEs := dedup (bad0.map fun x => x.1.e)
  let cs := (cellsOf ps q f .read .read is).filter fun c => !badEs.contains c.item.e
  (askPeers (cs.flatMap fun c => c.pieces.map fun x => (c.item, x)) s).andThen fun r s =>
    match r with
    | some (i, c) =>
      let mine := (is.filter fun j => j.va / 4096 = i.va / 4096).map fun j =>
        (({ e := j.e, va := j.va, kind := .read, elem := true } : Touch), c)
      vecFault (badEs ++ mine.map fun x => x.1.e) (batchEntries (bad0 ++ mine)) s
    | none =>
      (if cs.isEmpty then .ok 0 s
       else readPieces s.cur ((cs.flatMap Cell.pieces).filter fun x => tierOf x.pa ≠ .peer) s).andThen fun _ s =>
        let poi := cs.filter fun c => c.poisoned s
        let wrong := (cs.filter fun c => c.badScale s && !c.poisoned s).map fun c =>
          (({ e := c.item.e, va := c.item.va, kind := .read, elem := true } : Touch), (0x07, f.detail))
        let bad := bad0 ++ wrong
        match poi, bad with
        | c :: _, [] => .trap 0x0C c.item.va (setFmask (dedup (poi.map fun c => c.item.e)) s)
        | _, _ =>
          let allBad := dedup (bad.map fun x => x.1.e)
          let good := cs.filter fun c => !allBad.contains c.item.e && !c.poisoned s
          let d := decodeCells o f good s
          let ws := d.1 ++ zero.map fun e => (0, e, 0)
          let s := s.updMe fun q => q.raise d.2
          if bad = [] then
            let s := writeLoaded o.v o.fields w ws true s
            .ok p.2 (s.updMe fun q => { q with c := { q.c with vstart := p.1 } })
          else
            vecFault allBad (batchEntries bad) (writeLoaded o.v o.fields w ws false s)

/-- VLDFF (R365): the lowest element that cannot be loaded, beyond the first, shortens VL; what the first meets is as for
VLD of that element alone (log 33). -/
def loadFirst (o : VAcc) (f : Fmt) (es : List Nat) (p : Nat × Flow) (is : List Item) (ps : Pages)
    (bad : List (Touch × (Nat × Nat))) (s : State) : Res Flow :=
  let q := s.me
  let e0 := es.headD 0
  let ms := typeBits f.ty
  let ts := loadTouches q f is
  let ns0 := ts.any fun x => x.e = e0 && x.elem && match leafFor ps x.va x.kind with | .ok l => l.ns | .error _ => false
  let bad1 := dedup (bad.map fun x => x.1.e)
  let alone (s : State) : Res Flow :=
    match is.find? fun i => i.e = e0 && !i.aligned ms with
    | some i => .trap 0x0A i.va s
    | none => loadCells o f [] p (is.filter fun i => i.e = e0) ps (bad.filter fun x => x.1.e = e0) s
  if bad1.contains e0 || is.any fun i => i.e = e0 && !i.aligned ms then alone s
  else if ns0 && q.strip.isSome then (closeFor s).andThen fun _ s => .ok .stay s
  else
    let rest := is.filter fun i => i.e ≠ e0
    let stop1 := firstStop ps f rest (ts.filter fun x => x.e ≠ e0) bad1
    let below (m : Option Nat) (i : Item) : Bool := match m with | none => true | some x => decide (i.e < x)
    let cs := cellsOf ps q f .read .read (is.filter (below stop1))
    (askPeers (cs.flatMap fun c => c.pieces.map fun x => (c.item, x)) s).andThen fun r s =>
      match r with
      | some (i, c) =>
        if i.e = e0 then
          let x : Touch := { e := e0, va := i.va, kind := .read, elem := true }
          vecFault [e0] (batchEntries [(x, c)]) s
        else
          let s := s.updMe fun q => { q with c := { q.c with vl := i.e } }
          loadCells o f [] (0, .group (32 * (e0 / 32)) true) (is.filter fun j => decide (j.e < i.e)) ps [] s
      | none =>
        (readPieces s.cur ((cs.flatMap Cell.pieces).filter fun x => tierOf x.pa ≠ .peer) s).andThen fun _ s =>
          let late := (cs.filter fun c => c.poisoned s || c.badScale s).map fun c => c.item.e
          let stop := (late ++ stop1.toList).foldl (fun (m : Option Nat) e => match m with
            | none => some e
            | some x => some (min x e)) none
          match stop with
          | none => loadCells o f [] p is ps [] s
          | some m =>
            if m = e0 then alone s
            else
              let s := s.updMe fun q => { q with c := { q.c with vl := m } }
              loadCells o f [] (0, .group (32 * (e0 / 32)) true) (is.filter fun i => decide (i.e < m)) ps [] s

/-- A load (R358 to R368). -/
def vecLoad (o : VAcc) (s : State) : Res Flow :=
  (narrowEnough o.word [typeBits o.t] s).andThen fun _ s =>
    let ch := s.me.chosen
    let es := ch.1
    if es = [] then .ok ch.2.2 (restart s)
    else
      (baseFormat o .read es s).andThen fun f s =>
        let q := s.me
        let ms := typeBits f.ty
        let is := es.flatMap (itemsOf o q ms)
        let zero := es.filter fun e => (itemsOf o q ms e).isEmpty
        match (if o.ff then none else is.find? fun i => !i.aligned ms) with
        | some i => .trap 0x0A i.va s
        | none =>
          let ts := loadTouches q f is
          (translatePages s.cur (pagesOf ts) s).andThen fun ps s =>
            let bad := ts.filterMap fun x => (x.fault ps q o.t (some f)).map fun c => (x, c)
            if o.ff then loadFirst o f es ch.2 is ps bad s
            else if s.me.strip.isSome && ts.any fun x => x.elem && match leafFor ps x.va x.kind with
                | .ok l => l.ns
                | .error _ => false then
              (closeFor s).andThen fun _ s => .ok .stay s
            else loadCells o f zero ch.2 is ps bad s

/-! ## Stores -/

/-- The blocks a store writes: container address, positions written and the lowest element of each (R232). -/
def blocksOf (q : Seq) (f : Fmt) (is : List Item) : List (Nat × List Item) :=
  if f.geo = 0 then []
  else (dedup (is.map fun i => f.scaleAddr q i.va)).map fun a => (a, is.filter fun i => f.scaleAddr q i.va = a)

/-- The items that stand at the end where two name one place: the later in order (R360). -/
def winners (is : List Item) : List Item :=
  (is.foldl (fun (acc : List Item) i => i :: acc.filter fun j => !(j.va = i.va && j.nib = i.nib)) []).reverse

def wholeBlock (f : Fmt) (b : Nat × List Item) : Bool :=
  decide ((dedup (b.2.map fun i => (i.va, i.nib))).length = f.blockElems)

/-- A register element as the format stores it (R357). -/
def encodeElem (q : Seq) (t : Nat) (f : Fmt) (e raw container : Nat) : Nat × BitVec 6 :=
  let c := q.round q.c.rm e
  if f.geo = 0 then convert f.ty t c raw
  else encodeScaled f.ty c container (decodeFloat t raw)

/-- The bytes of a store: address, bytes, value and element. -/
abbrev Bytes := List (Nat × Nat × Nat × Nat)

/-- 4-bit results gathered into bytes over the bytes there were. -/
def nibbleBytes (old : Nat → Nat) (xs : List (Item × Nat)) : Bytes :=
  (dedup (xs.map fun x => x.1.va)).map fun va =>
    let mine := xs.filter fun x => x.1.va = va
    let v := mine.foldl (fun b x => setBitsAt b (4 * x.1.nib.getD 0) 4 x.2) (old va)
    (va, 1, v, match mine.head? with | some x => x.1.e | none => 0)

/-- The entries of a store's bytes. -/
def bytesEntries (ps : Pages) (k : Agent) (bs : Bytes) (s : State) : List (BufEntry × Bool) :=
  bs.filterMap fun b => match leafFor ps b.1 .write with
    | .error _ => none
    | .ok l =>
      let p : Piece := { leaf := l, pa := l.pa b.1, n := b.2.1 }
      some (storeEntry (seqRoot k s) p b.1 b.2.2.1 b.2.2.2 s, l.ph)

/-- What a store does with page faults: the faulted elements and the batch's entries. -/
abbrev OnFault := List Nat → List FaultEntry → State → Res Unit

/-- The touches of a store, element by element: the elements, then the containers they are the first of. -/
def storeTouches (q : Seq) (f : Fmt) (is : List Item) : List Touch :=
  let blocks := blocksOf q f is
  let scaleTouch (b : Nat × List Item) : Touch :=
    { e := (b.2.map Item.e).foldl min 65535, va := b.1, kind := if wholeBlock f b then .write else .read, elem := false }
  let sts := blocks.map scaleTouch
  (dedup (is.map Item.e)).flatMap fun e =>
    ((is.filter fun i => i.e = e).map fun i => ({ e := e, va := i.va, kind := .write, elem := true } : Touch))
      ++ sts.filter fun x => x.e = e

/-- Elements stored in a format (R358 step 4, R360, R361): every page translated, containers of partial blocks and bytes
half written read as a load, whole blocks given the scale of R232, all bytes stored as one store. `raw` gives each item's
bits of type t; pages are judged for register type tf. -/
def storeItems (t tf : Nat) (f : Fmt) (is : List Item) (raw : Item → Nat) (onFault : OnFault) (s : State) : Res Unit :=
  let k := s.cur
  let q := s.me
  let ms := typeBits f.ty
  let blocks := blocksOf q f is
  let ts := storeTouches q f is
  (translatePages k (pagesOf ts) s).andThen fun ps s =>
    let bad := ts.filterMap fun x => (x.fault ps q tf (some f)).map fun c => (x, c)
    if bad ≠ [] then
      onFault (dedup ((bad.filter fun x => x.1.elem).map (fun x => x.1.e)
        ++ (blocks.filter fun b => bad.any fun x => !x.1.elem && decide (x.1.va = b.1)).flatMap fun b => b.2.map Item.e))
        (batchEntries bad) s
    else
      let kept := (blocks.filter fun b => !wholeBlock f b).filterMap fun b => match leafFor ps b.1 .read with
        | .ok l => some (b.1, ({ leaf := l, pa := l.pa b.1, n := 2 } : Piece))
        | .error _ => none
      let half := if ms = 4 then
          ((dedup (is.map Item.va)).filter fun va => (dedup ((is.filter fun i => i.va = va).map Item.nib)).length < 2).filterMap
            fun va => match leafFor ps va .write with
              | .ok l => some (va, ({ leaf := l, pa := l.pa va, n := 1 } : Piece))
              | .error _ => none
        else []
      let reads := (kept ++ half).map Prod.snd
      (askPeers (reads.flatMap fun p => (is.head?.map fun i => (i, p)).toList) s).andThen fun r s =>
        match r with
        | some (i, c) => onFault [i.e] (batchEntries [({ e := i.e, va := i.va, kind := .read, elem := true }, c)]) s
        | none =>
        let mine := reads.filter fun p => tierOf p.pa ≠ .peer
        (if mine = [] then .ok 0 s else readPieces k mine s).andThen fun _ s =>
          let keptVal (a : Nat) : Nat := match kept.find? fun x => x.1 = a with
            | some x => bytesOf x.2 s
            | none => 0
          let badBlocks := (blocks.filter fun b => !wholeBlock f b && decide (keptVal b.1 / 4096 ≠ 0)).flatMap Prod.snd
          if badBlocks ≠ [] then
            let x := badBlocks.map fun i => (({ e := i.e, va := i.va, kind := .write, elem := true } : Touch), (0x07, f.detail))
            onFault (dedup (badBlocks.map Item.e)) (batchEntries x) s
          else
            let q := s.me
            let scales := blocks.map fun b => (b.1,
              if wholeBlock f b then blockScale f.ty ((winners b.2).map fun i => decodeFloat t (raw i)) else keptVal b.1)
            let scaleOf (va : Nat) : Nat := match scales.find? fun x => x.1 = f.scaleAddr q va with
              | some x => x.2
              | none => 0
            let enc := is.map fun i =>
              let r := encodeElem q t f i.e (raw i) (if f.geo = 0 then 0 else scaleOf i.va)
              (i, r.1, r.2)
            let fl := enc.foldl (fun x y => x ||| y.2.2) (0 : BitVec 6)
            let old (va : Nat) : Nat := match half.find? fun x => x.1 = va with
              | some x => bytesOf x.2 s
              | none => 0
            let data : Bytes := if ms = 4 then nibbleBytes old (enc.map fun x => (x.1, x.2.1))
              else enc.map fun x => (x.1.va, ms / 8, x.2.1, x.1.e)
            let conts : Bytes := (blocks.filter (wholeBlock f)).map fun b =>
              (b.1, 2, scaleOf (match b.2.head? with | some i => i.va | none => 0), (b.2.map Item.e).foldl min 65535)
            (storeEntries k (bytesEntries ps k (data ++ conts) s) s).andThen fun _ s =>
              .ok () ((pinPages ps s).updMe fun q => q.raise fl)

/-- A batch that a store of its own posts (an empty slot pool) restarts the instruction too (R361). -/
def Res.fromStart {α : Type} : Res α → Res α
  | .fault es s => .fault es (restart s)
  | r => r

/-- A store (R358 to R361, R364, R366, R369). -/
def vecStore (o : VAcc) (s : State) : Res Flow :=
  (narrowEnough o.word [typeBits o.t] s).andThen fun _ s =>
    let ch := s.me.chosen
    let es := ch.1
    if es = [] then .ok ch.2.2 (restart s)
    else
      (baseFormat o .write es s).andThen fun f s =>
        let q := s.me
        let w := typeBits o.t
        let ms := typeBits f.ty
        let is := es.flatMap (itemsOf o q ms)
        match is.find? fun i => !i.aligned ms with
        | some i => .trap 0x0A i.va s
        | none =>
          (storeItems o.t o.t f is (fun i => q.elem (o.v + i.f) w i.e) vecFault s).fromStart.andThen fun _ s =>
            .ok ch.2.2 (s.updMe fun q => { q with c := { q.c with vstart := ch.2.1 } })

end Sys2Proof.Machine
end

