-- ==== Sys2Proof/Machine/MatrixOps.lean ====
section
/-!
DEFINITION. The matrix unit (spec/17_matrix.md): the queue of a cluster (spec/06_clusters.md R135), the operand latch
(R378), the checks, operands and chunks of a MOP (R381 to R384; spec/10_numbers.md R233, R236), pairs (R386, R387), whole
tiles (R390), and rows and images in memory (R392, R393).
-/
namespace Sys2Proof.Machine

/-! ## The queue -/

/-- A matrix instruction's place in its cluster's queue: it waits at issue while the queue is full or a follow-on on the
latch is outstanding (R376), then for its turn; when it ends, however it ends, it leaves. -/
def matrixIssue (follow : Bool) (body : State → Res Flow) (s : State) : Res Flow :=
  let k := s.cur
  let c := clusterOfSeq k
  let leave (r : Res Flow) : Res Flow := match r with
    | .ok f s => .ok f (matrixDrop k s)
    | .wait s => .wait s
    | .trap x v s => .trap x v (matrixDrop k s)
    | .fault es s => .fault es (matrixDrop k s)
  if follow && decide (s.me.follow ≠ 0) then .wait (s.waitFor k .matrix)
  else
    let jobs := s.matrix.getD c []
    let inside := decide (MatrixJob.seq k ∈ jobs)
    if !inside && decide (16 ≤ jobs.length) then .wait (s.waitFor k .matrix)
    else
      let s := if inside then s else { s with matrix := s.matrix.set c (jobs ++ [.seq k]) }
      if matrixTurn c s = some (.seq k) then leave (body s) else .wait (s.waitFor k .matrix)

/-! ## The latch (R378) -/

/-- The bytes of `n` elements of a type, rounded up. -/
def bytesFor (t n : Nat) : Nat := (n * typeBits t + 7) / 8

/-- Whether `n` elements exceed `b` bytes. -/
def tooWide (t n b : Nat) : Bool := decide (8 * b < n * typeBits t)

/-- Element `e` of row `i`. -/
def Latch.elem (l : Latch) (i e : Nat) : Nat := bitsAt (l.rows.getD i 0) (typeBits l.ltype * e) (typeBits l.ltype)

/-- The type of a latch operand (R378). -/
def latchType (t : Nat) : Bool := 8 ≤ t && t ≤ 12

/-- The stride S of MLATCH for a descriptor (R379). -/
def latchStride (t k s : Nat) : Nat := if s = 0 then (k * typeBits t + 255) / 256 * 32 else s

/-- Rows read from Stage memory in order, each at the clock given (09 R204); none is a row of zeros. The latest bank clock returned
comes with them. -/
def latchRows (die stg t k clock : Nat) : List (Option Nat) → State → List Bits × Nat × State
  | [], s => ([], clock, s)
  | none :: rs, s =>
    let r := latchRows die stg t k clock rs s
    (0 :: r.1, r.2)
  | some off :: rs, s =>
    let x := stageRead die (stg + off) (bytesFor t k) clock s
    let r := latchRows die stg t k clock rs x.2.2
    (x.1 % 2 ^ (k * typeBits t) :: r.1, max x.2.1 r.2.1, r.2.2)

/-! ## MOP: descriptors and checks (R381, R382) -/

def Mop.k (m : Mop) : Nat := bitsAt m.gb.toNat 0 10 + 1
def Mop.sa (m : Mop) : Nat := 256 * bitsAt m.gb.toNat 10 18
def Mop.sb (m : Mop) : Nat := 256 * bitsAt m.gb.toNat 28 18
def Mop.sband (m : Mop) : Nat := 4096 * bitsAt m.gb.toNat 46 14
def Mop.spField (m : Mop) : Nat := bitsAt m.gb.toNat 60 2
def Mop.md (m : Mop) : Nat := 1024 * bitsAt m.ga.toNat 48 16
def Mop.boff (m : Mop) : Nat := bitsAt m.ga.toNat 0 26

/-- B's row stride. -/
def Mop.bstr (m : Mop) : Nat :=
  let b := bitsAt m.ga.toNat 32 16
  if b = 0 then 16 * typeBits m.t else b

/-- Sparse A and sparse B. -/
def Mop.spA (m : Mop) : Bool := m.form = 1 && m.spField % 2 = 1
def Mop.spB (m : Mop) : Bool := m.form = 1 && decide (2 ≤ m.spField)

/-- The block size. -/
def Mop.bs (m : Mop) : Nat := 4 * 2 ^ m.geo

/-- Stored rows of B. -/
def Mop.rows (m : Mop) : Nat := if m.spB then m.k / 2 else m.k

/-- The bit of Stage memory where the positions of B begin (R384; log 35). -/
def Mop.mdb (m : Mop) : Nat := 8 * m.md + (if m.spA then 128 * m.k else 0)

/-- Step 1 of R382. -/
def Mop.illegal (m : Mop) (vstart : Nat) : Bool :=
  decide (bitsAt m.ga.toNat 26 6 ≠ 0) || decide (bitsAt m.gb.toNat 62 2 ≠ 0)
  || (m.form ≠ 1 && (decide (m.md ≠ 0) || decide (m.spField ≠ 0)))
  || (m.form = 1 && decide (m.spField = 0))
  || (m.geo ≠ 0 && (m.t = 11 || m.t = 12 || decide (m.k % m.bs ≠ 0)))
  || (m.form = 1 && decide (m.k % 4 ≠ 0))
  || tooWide m.t m.k (if m.spA then 1024 else 512)
  || decide (vstart % 32 ≠ 0) || decide (m.k ≤ vstart)

/-- Step 3 of R382, against a latch. -/
def Mop.refuses (m : Mop) (l : Latch) : Bool :=
  let same := l.ltype = m.t || ((l.ltype = 9 || l.ltype = 10) && (m.t = 9 || m.t = 10))
  !same || decide (l.lk ≠ if m.spA then m.k / 2 else m.k)

/-- Step 4 of R382: the offending value. -/
def Mop.misaligned (m : Mop) : Option Nat :=
  if m.boff % 32 ≠ 0 then some m.boff else if m.bstr % 32 ≠ 0 then some m.bstr else none

/-- The Stage ranges a MOP reads, as offset and length: the B rows, the planes of both scales for all 128 rows and
columns, the band scales and the metadata (log 36). -/
def Mop.ranges (m : Mop) : List (Nat × Nat) :=
  ((List.range m.rows).map fun r => (m.boff + r * m.bstr, 16 * typeBits m.t))
  ++ (if m.geo = 0 then [] else [(m.sa, 256 * (m.k / m.bs)), (m.sb, 256 * (m.k / m.bs))])
  ++ (if m.band then [(m.sband, 4)] else [])
  ++ (if m.spA then [(m.md, 16 * m.k)] else [])
  ++ (if m.spB then [(m.mdb / 8, 16 * m.k)] else [])

/-- Step 5 of R382: the lowest offset at or above STAGE. -/
def Mop.outside (m : Mop) (stage : Nat) : Option Nat :=
  (m.ranges.filter fun r => decide (stage < r.1 + r.2)).foldl (fun b r =>
    let x := max r.1 stage
    match b with | none => some x | some y => some (min x y)) none

/-- Steps 4 and 5. -/
def Mop.place (m : Mop) (stage : Nat) : Option (Nat × Nat) :=
  match m.misaligned with
  | some v => some (0x0A, v)
  | none => (m.outside stage).map fun v => (0x09, v)

/-! ## One chunk (R383, R384, 10 R236) -/

/-- A product and whether it is invalid. -/
abbrev Product := Num × Bool

/-- The exact product of two factors. -/
def mulProduct (x y : Product) : Product :=
  let r := mulNum x.1 y.1
  (r.1, r.2 || x.2 || y.2)

/-- The sum of a chunk's products: NaN with NV for an invalid product or infinities of both signs. -/
def exactSum (rm : Nat) (ps : List Product) : Product :=
  let inv := ps.any Prod.snd || (ps.any (fun p => p.1 = .inf false) && ps.any fun p => p.1 = .inf true)
  if inv || ps.any fun p => isNaN p.1 then (.nan false, inv)
  else match ps with
    | [] => (.fin false 0 0, false)
    | p :: rest => (rest.foldl (fun a b => (addNum rm a b.1).1) p.1, false)

/-- A scale container as a factor; one with a nonzero top makes its products NaN (R381). -/
def scaleFactor (container : Nat) : Product :=
  if container / 4096 ≠ 0 then (.nan false, true) else (scaleNum container, false)

/-- What a chunk reads of Stage memory, each byte once. -/
def Mop.chunkRanges (m : Mop) (c : Nat) : List (Nat × Nat) :=
  let lo := 32 * c
  let hi := min (lo + 32) m.k
  let d := if m.spB then 2 else 1
  ((List.range (hi / d - lo / d)).map fun i => (m.boff + (lo / d + i) * m.bstr, 16 * typeBits m.t))
  ++ (if m.geo = 0 then []
      else
        let n := 256 * (hi / m.bs - lo / m.bs)
        [(m.sa + 256 * (lo / m.bs), n), (m.sb + 256 * (lo / m.bs), n)])
  ++ (if m.band && m.bands.isNone then [(m.sband, 4)] else [])
  ++ (if m.spA then (List.range 128).map fun i => (m.md + (m.k * i + lo) / 8, (hi - lo + 7) / 8) else [])
  ++ (if m.spB then [((m.mdb / 8) + 32 * (lo / 2), 32 * ((hi - lo) / 2))] else [])

/-- The chunk's reads, each at the clock given; the latest bank clock they return (09 R204). -/
def chunkReads (die stg : Nat) (m : Mop) (c clock : Nat) (s : State) : Nat × State :=
  (m.chunkRanges c).foldl (fun r x =>
    let y := stageRead die (stg + x.1) x.2 clock r.2
    (max r.1 y.2.1, y.2.2)) (clock, s)

/-- The factors of row i of A within a chunk: its logical k, the value with scale and band. -/
def Mop.rowA (m : Mop) (l : Latch) (rd : Nat → Nat → Nat) (c i : Nat) : List (Nat × Product) :=
  let lo := 32 * c
  let hi := min (lo + 32) m.k
  let d := if m.spA then 2 else 1
  let band : List Product := match m.bands with
    | some b => [(decodeFloat 12 (bitsAt b (if i < 64 then 0 else 16) 16), false)]
    | none => []
  (List.range (hi / d - lo / d)).map fun n =>
    let v := lo / d + n
    let k := if m.spA then 4 * (v / 2) + rd (8 * m.md + m.k * i + 2 * v) 2 else v
    let x : Product := (decodeFloat l.ltype (l.elem i v), false)
    let x := if m.geo = 0 then x else mulProduct x (scaleFactor (rd (8 * (m.sa + 2 * (128 * (k / m.bs) + i))) 16))
    (k, band.foldl mulProduct x)

/-- The factors of column j of B at logical k of a chunk. -/
def Mop.colB (m : Mop) (rd : Nat → Nat → Nat) (c j : Nat) : List (Nat × Product) :=
  let lo := 32 * c
  let hi := min (lo + 32) m.k
  let d := if m.spB then 2 else 1
  let w := typeBits m.t
  (List.range (hi / d - lo / d)).map fun n =>
    let v := lo / d + n
    let k := if m.spB then 4 * (v / 2) + rd (m.mdb + 8 * 32 * v + 2 * j) 2 else v
    let x : Product := (decodeFloat m.t (rd (8 * (m.boff + v * m.bstr) + w * j) w), false)
    (k, if m.geo = 0 then x else mulProduct x (scaleFactor (rd (8 * (m.sb + 2 * (128 * (k / m.bs) + j))) 16)))

/-- One element of the tile after a chunk. -/
def chunkElem (rc : RoundCtl) (acc : Nat) (as bs : List (Nat × Product)) : Nat × BitVec 6 :=
  let ps := as.flatMap fun a => (bs.filter fun b => b.1 = a.1).map fun b => mulProduct a.2 b.2
  if ps = [] then (acc, 0)
  else
    let sum := exactSum rc.rm ps
    let r := addNum rc.rm (decodeFloat 13 acc) sum.1
    finishNum 13 rc (r.1, r.2 || sum.2)

/-- The 128 elements of a row, lowest first. -/
def packRow (xs : List Nat) : Nat := xs.foldr (fun v acc => acc * 2 ^ 32 + v % 2 ^ 32) 0

/-- Row i of a tile. -/
def tileRow (x : Bits) (i : Nat) : Nat := bitsAt x (4096 * i) 4096
def tileElem (x : Bits) (i j : Nat) : Nat := bitsAt x (4096 * i + 32 * j) 32

/-- A tile with every row a function of its index and its old row. -/
def overRows (f : Nat → Nat → Nat × BitVec 6) (x : Bits) : Bits × BitVec 6 :=
  (List.range 128).foldr (fun i r =>
    let y := f i (tileRow x i)
    (r.1 * 2 ^ 4096 + y.1 % 2 ^ 4096, r.2 ||| y.2)) (0, 0)

/-- A row with every element a function of its column and its old bits. -/
def overRow (f : Nat → Nat → Nat × BitVec 6) (row : Nat) : Nat × BitVec 6 :=
  let xs := (List.range 128).map fun j => f j (bitsAt row (32 * j) 32)
  (packRow (xs.map Prod.fst), xs.foldl (fun a x => a ||| x.2) 0)

/-- Every element of a tile, by row and column. -/
def overTile (f : Nat → Nat → Nat → Nat × BitVec 6) : Bits → Bits × BitVec 6 := overRows fun i => overRow (f i)

/-- Chunk c of a MOP over a tile: rows LM and above keep their bits. `rd` reads bits of Stage memory at a bit offset from
STGBASE, `rc` is the rounding of an element index. -/
def mopChunk (m : Mop) (l : Latch) (c : Nat) (rc : Nat → RoundCtl) (rd : Nat → Nat → Nat) (tile : Bits) : Bits × BitVec 6 :=
  let cols := ((List.range 128).map fun j => m.colB rd c j).toArray
  overRows (fun i row =>
    if l.lm ≤ i then (row, 0)
    else
      let as := m.rowA l rd c i
      overRow (fun j old => chunkElem (rc (128 * i + j)) old as (cols.getD j [])) row) tile

/-- The number of chunks. -/
def Mop.chunks (m : Mop) : Nat := (m.k + 31) / 32

/-- Bits of Stage memory from a bit offset relative to a base. -/
def stageBits (s : State) (die stg bit n : Nat) : Nat :=
  let a := stageAt die (stg + bit / 8)
  bitsAt (s.stage.read a ((bit % 8 + n + 7) / 8)) (bit % 8) n

/-- The chunk that VSTART names, for sequencer `k` with the A operand of latch `l`: bank clocks, tile, flags, VSTART. -/
def seqChunk (k : Agent) (m : Mop) (l : Latch) (s : State) : State :=
  let q := s.seq k
  let die := dieOfSeq k
  let c := q.c.vstart / 32
  let r := chunkReads die q.n.stgbase m c q.pts s
  let s := r.2
  let rd := stageBits s die q.n.stgbase
  let m := if m.band && m.bands.isNone then { m with bands := some (rd (8 * m.sband) 32) } else m
  let t := mopChunk m l c (fun e => q.round q.c.rm e) rd (q.aRead m.d)
  s.upd k fun q =>
    let q := (q.aSet m.d t.1).raise t.2
    { q with mop := some { m with bt := max m.bt r.1 }, c := { q.c with vstart := 32 * (c + 1) } }

/-- The sequencer's clock follows the banks when its matrix instruction ends, or is interrupted (09 R204). -/
def Seq.mopClock (q : Seq) : Seq := match q.mop with | some m => { q with pts := max q.pts m.bt } | none => q

/-- All chunks are done. -/
def mopDone (m : Mop) (s : State) (k : Agent) : Bool := decide (m.chunks ≤ (s.seq k).c.vstart / 32)

/-- A pair's end other than DONE (R387): status and STEPS recorded, latches cleared. -/
def pairEnd (k : Agent) (pst : Nat) (s : State) : State :=
  clearPairLatch k (clearLatch k ((undefineV k s).upd k fun q =>
    { q.mopClock with pair := { pst := pst, steps := q.c.vstart }, mop := none }))

/-- A MOP ends outside its own instruction's execution: it leaves the queue and retires. -/
def mopRetire (k : Agent) (s : State) : State :=
  let s := (matrixDrop k s).wake k
  settle k (s.seq k) (.ok .next s)

/-! ## Rows and images in memory (R392, R393) -/

/-- Bytes of a raw store: address, count, value, first element and how many. -/
structure RawChunk where
  va : Nat
  n : Nat
  v : Nat
  e : Nat
  count : Nat

/-- A page fault of a raw store or load. -/
def rawBad (ps : Pages) (q : Seq) (ts : List Touch) : List (Touch × (Nat × Nat)) :=
  ts.filterMap fun x => (x.fault ps q 0 none).map fun c => (x, c)

/-- Raw bytes stored as one store; a page fault posts the batch and stores nothing. -/
def rawStore (ts : List Touch) (cs : List RawChunk) (s : State) : Res Unit :=
  let k := s.cur
  (translatePages k (pagesOf ts) s).andThen fun ps s =>
    let bad := rawBad ps s.me ts
    if bad ≠ [] then .fault (batchEntries bad) s
    else
      let root := seqRoot k s
      let es := cs.filterMap fun c => match leafFor ps c.va .write with
        | .ok l =>
          let p : Piece := { leaf := l, pa := l.pa c.va, n := c.n }
          some ({ storeEntry root p c.va c.v c.e s with count := c.count }, l.ph)
        | .error _ => none
      storeEntries k es s

/-- Raw bytes read as one load: the values of the pieces. -/
def rawLoad (ts : List Touch) (cs : List (Nat × Nat)) (s : State) : Res (List Nat) :=
  let k := s.cur
  (translatePages k (pagesOf ts) s).andThen fun ps s =>
    let bad := rawBad ps s.me ts
    if bad ≠ [] then .fault (batchEntries bad) s
    else
      let pieces := cs.filterMap fun c => match leafFor ps c.1 .read with
        | .ok l => some (c.1, ({ leaf := l, pa := l.pa c.1, n := c.2 } : Piece))
        | .error _ => none
      let asks : List (Item × Piece) := pieces.map fun p => ({ e := 0, f := 0, va := p.1, nib := none }, p.2)
      (askPeers asks s).andThen fun r s => match r with
        | some (i, c) =>
          let here := ts.filter fun x => x.va / 4096 = i.va / 4096
          .fault (batchEntries (here.map fun x => (x, c))) s
        | none =>
          let mine := pieces.filter fun p => tierOf p.2.pa ≠ .peer
          (if mine = [] then .ok 0 s else readPieces k (mine.map Prod.snd) s).andThen fun _ s =>
            match mine.find? fun p => piecePoison k p.2 s with
            | some p => .trap 0x0C p.1 s
            | none => .ok (pieces.map fun p => bytesOf p.2 s) s

/-- The touches of row r of a tile image of 4-byte elements at `va`. -/
def rowTouches (va r : Nat) (kind : Access) : List Touch :=
  (List.range 128).map fun j => { e := 128 * r + j, va := wrap64 (va + 4 * j : Nat), kind := kind, elem := true }

/-- One row of TSAVE: eight pieces of 64 bytes. -/
def saveRow (va r row : Nat) (s : State) : Res Unit :=
  rawStore (rowTouches va r .write)
    ((List.range 8).map fun (i : Nat) =>
      { va := wrap64 (va + 64 * i : Nat), n := 64, v := bitsAt row (512 * i) 512, e := 128 * r + 16 * i, count := 16 }) s

/-- One row of TLOAD. -/
def loadRow (va r : Nat) (s : State) : Res Nat :=
  (rawLoad (rowTouches va r .read) ((List.range 8).map fun (i : Nat) => (wrap64 (va + 64 * i : Nat), 64)) s).andThen
    fun xs s => .ok (xs.foldr (fun v acc => acc * 2 ^ 512 + v) 0) s

/-- A matrix instruction that goes on after a row keeps its place: `mark` tells what it has done (40: its tile is empty). -/
def rowNote (mark : Nat) : Option Note := if mark = 0 then none else some { step := mark }

/-- Rows from VSTART to R − 1, each a step of its own; pre-emption takes effect between rows. -/
def overRowsFrom (mark R : Nat) (step : Nat → State → Res Unit) : (fuel : Nat) → State → Res Flow
  | 0, s => .ok .next s
  | fuel + 1, s =>
    let r := s.me.c.vstart
    if R ≤ r then .ok .next (restart s)
    else
      (step r s).andThen fun _ s =>
        let s := s.updMe fun q => { q with note := rowNote mark, c := { q.c with vstart := r + 1 } }
        if R ≤ r + 1 then .ok .next (restart s)
        else if s.me.preempt.isSome then .wait (s.post (.contextSave s.cur))
        else overRowsFrom mark R step fuel s

/-- The bytes of a latch image (R393): the header, then 128 rows. -/
def latchImage (l : Latch) : Nat :=
  l.lk + l.lm * 2 ^ 16 + l.ltype * 2 ^ 32 + 2 ^ 40
    + 2 ^ 512 * (List.range 128).foldr (fun i acc => acc * 2 ^ 4096 + (if i < l.lm then l.rows.getD i 0 else 0)) 0

/-- The latch of an image, when the image is sound. -/
def latchFrom (x : Nat) : Option Latch :=
  let lk := bitsAt x 0 16
  let lm := bitsAt x 16 16
  let t := bitsAt x 32 8
  if bitsAt x 40 8 ≠ 1 ∨ !latchType t ∨ lm = 0 ∨ 128 < lm ∨ lk = 0 ∨ tooWide t lk 512 ∨ bitsAt x 48 464 ≠ 0 then none
  else some { lv := true, ltype := t, lk := lk, lm := lm
              rows := (List.range lm).map fun i => bitsAt x (512 + 4096 * i) (lk * typeBits t) }

/-- The 64-byte pieces of a latch image, and one touch for each page (log 34). -/
def imageChunks (va : Nat) : List Nat := (List.range 1025).map fun (i : Nat) => wrap64 (va + 64 * i : Nat)

def imageTouches (va : Nat) (kind : Access) : List Touch :=
  (dedup ((imageChunks va).map (· / 4096))).map fun p =>
    { e := 0, va := max (4096 * p) (if va / 4096 = p then va else 0), kind := kind, elem := true }

end Sys2Proof.Machine
end

