-- ==== Sys2Proof/Machine/Matrix.lean ====
section
/-!
DEFINITION. The matrix and tile instructions (spec/17_matrix.md R379 to R393), and the steps of the array: a chunk, the start
of a pair, and a wait for a partner that runs out (R383, R386, R387).
-/
namespace Sys2Proof.Machine

/-! ## Filling the latch (R379, R380) -/

/-- The gather of MLATCH. -/
def mlatch (word t d a b : Nat) (s : State) : Res Flow :=
  let k := s.cur
  let q := s.me
  let gd := (q.gRead d).toNat
  let base := (q.gRead a).toNat
  let n := bitsAt gd 0 10 + 1
  let stride := latchStride t n (bitsAt gd 16 16)
  let vl := q.c.vl
  if bitsAt gd 10 6 ≠ 0 ∨ bitsAt gd 32 32 ≠ 0 ∨ tooWide t n 512 ∨ vl = 0 ∨ 128 < vl then .trap 0x03 word s
  else if base % 32 ≠ 0 ∨ stride % 32 ≠ 0 then .trap 0x0A (if base % 32 ≠ 0 then base else stride) s
  else
    let act := q.active true
    let offs := (List.range vl).map fun e =>
      if act.testBit e then some (base + q.elem b q.c.sewBits e * stride) else none
    match (offs.filterMap id).filter (fun o => !q.stageOk o (bytesFor t n)) |>.foldl (fun (m : Option Nat) o => match m with
        | none => some o
        | some x => some (min x o)) none with
    | some o => .trap 0x09 o s
    | none =>
      let r := latchRows (dieOfSeq k) q.n.stgbase t n q.pts offs s
      let s := r.2.2.updMe fun q => { q with pts := max q.pts r.2.1 }
      .ok .next (undefineV k (setLatch k { lv := true, ltype := t, lk := n, lm := vl, rows := r.1 } s))

/-- MLATCH (17 R379). -/
def execMlatch (d a b : BitVec 5) (e f : BitVec 1) (t : BitVec 4) (s : State) : Out :=
  let w := (Instr.mlatch d a b e f t).encodeNat
  issue { word := w, regs := [gr d, gr a, vr b], typeOk := latchType t.toNat, closes := true
          sources := [(gr d, false), (gr a, eb e), (vr b, eb f)] ++ s.me.maskSrc }
    (matrixIssue true (mlatch w t.toNat d.toNat a.toNat b.toNat)) s

/-- One latch row from a vector register. -/
def mlatchv (word t a b : Nat) (s : State) : Res Flow :=
  let k := s.cur
  let q := s.me
  let r := (q.gRead a).toNat
  let vl := q.c.vl
  let l := s.latch k
  let row := q.vRead b % 2 ^ (vl * typeBits t)
  if q.c.sewBits < typeBits t ∨ 127 < r ∨ vl = 0 ∨ tooWide t vl 512 then .trap 0x03 word s
  else if r = 0 then
    .ok .next (undefineV k (setLatch k { lv := true, ltype := t, lk := vl, lm := 1, rows := [row] } s))
  else if !l.lv then .trap 0x11 q.c.vstart s
  else if t ≠ l.ltype ∨ vl ≠ l.lk ∨ l.lm < r then .trap 0x03 word s
  else
    let rows := if r < l.lm then l.rows.set r row else l.rows ++ [row]
    .ok .next (undefineV k (setLatch k { l with lm := max l.lm (r + 1), rows := rows } s))

/-- MLATCHV (17 R380). -/
def execMlatchv (a b : BitVec 5) (e f : BitVec 1) (t : BitVec 4) (s : State) : Out :=
  let w := (Instr.mlatchv a b e f t).encodeNat
  issue { word := w, regs := [gr a, vr b], typeOk := latchType t.toNat, closes := true
          sources := [(gr a, eb e), (vr b, eb f)] }
    (matrixIssue true (mlatchv w t.toNat a.toNat b.toNat)) s

/-! ## MOP and MOP.SP (R381 to R385) -/

/-- A MOP stops at a chunk boundary for a save (R385). -/
def mopPause (k : Agent) (s : State) : State :=
  ((matrixDrop k ((undefineV k s).upd k Seq.mopClock)).wake k).post (.contextSave k)

/-- All chunks done: VSTART 0, vector registers undefined (R375, R383). -/
def mopFinish (k : Agent) (s : State) : State :=
  (undefineV k s).upd k fun q => { q.mopClock with mop := none, c := { q.c with vstart := 0 } }

/-- MOP or MOP.SP at the array: the checks of R382, then the first chunk; MATRIX_CHUNK steps do the others. -/
def mopBody (word : Nat) (m : Mop) (s : State) : Res Flow :=
  let k := s.cur
  let q := s.me
  if q.mop.isSome then .wait (s.waitFor k .matrix)
  else if m.illegal q.c.vstart then .trap 0x03 word s
  else if !(s.latch k).lv then .trap 0x11 q.c.vstart s
  else if m.refuses (s.latch k) then .trap 0x03 word s
  else match m.place q.n.stage with
    | some x => .trap x.1 x.2 s
    | none =>
      let s := seqChunk k m (s.latch k) s
      if mopDone m s k then .ok .next (mopFinish k s)
      else if s.me.preempt.isSome then .wait (mopPause k s)
      else .wait ((s.waitFor k .matrix).post (.matrixChunk k))

/-- The operands of a MOP form. -/
def mopOps (w : Nat) (d a b : BitVec 5) (e f : BitVec 1) (t : BitVec 4) : Operands :=
  { word := w, regs := [ar d, gr a, gr b], typeOk := latchType t.toNat, closes := true
    sources := [(gr a, eb e), (gr b, eb f)], dests := [ar d] }

/-- What a MOP form names. -/
def mopOf (form : Nat) (d a b : BitVec 5) (t : BitVec 4) (k : BitVec 1) (g : BitVec 2) (s : State) : Mop :=
  { form := form, d := d.toNat, t := t.toNat, geo := g.toNat, band := k = 1, ga := s.me.gRead a.toNat,
    gb := s.me.gRead b.toNat }

/-- MOP (17 R383). -/
def execMop (d a b : BitVec 5) (e f : BitVec 1) (t : BitVec 4) (k : BitVec 1) (g : BitVec 2) (s : State) : Out :=
  let w := (Instr.mop d a b e f t k g).encodeNat
  issue (mopOps w d a b e f t) (matrixIssue true (fun s => mopBody w (mopOf 0 d a b t k g s) s)) s

/-- MOP.SP (17 R384). -/
def execMopSp (d a b : BitVec 5) (e f : BitVec 1) (t : BitVec 4) (k : BitVec 1) (g : BitVec 2) (s : State) : Out :=
  let w := (Instr.mopSp d a b e f t k g).encodeNat
  issue (mopOps w d a b e f t) (matrixIssue true (fun s => mopBody w (mopOf 1 d a b t k g s) s)) s

/-! ## MOP.PAIR (R386, R387) -/

/-- The deposit of one side, when its turn at the array has come (06 R135): the checks, then a copy of its latch for the partner; it
parks until the partner's is there, and holds the array meanwhile. -/
def pairBody (word : Nat) (m : Mop) (s : State) : Res Flow :=
  let k := s.cur
  let q := s.me
  if q.mop.isSome then .wait (s.waitFor k (.pair s.cycle))
  else if m.illegal q.c.vstart then .trap 0x03 word s
  else match m.place q.n.stage with
    | some x => .trap x.1 x.2 s
    | none =>
      if !(s.latch k).lv then .trap 0x11 q.c.vstart s
      else
        let j := partner k
        let s := setPairLatch j (s.latch k) s
        let s := s.updMe fun q => { q with mop := some m, wait := .pair s.cycle }
        match (s.seq j).wait with
        | .pair _ => .wait (s.post (.pairStart k))
        | _ => .wait s

/-- MOP.PAIR (17 R386). -/
def execMopPair (d a b : BitVec 5) (e f : BitVec 1) (t : BitVec 4) (k : BitVec 1) (g : BitVec 2) (s : State) : Out :=
  let w := (Instr.mopPair d a b e f t k g).encodeNat
  issue (mopOps w d a b e f t) (matrixIssue true (fun s => pairBody w (mopOf 2 d a b t k g s) s)) s

/-- One side ends with a status other than DONE. -/
def pairStop (pst : Nat) (k : Agent) (s : State) : State := mopRetire k (pairEnd k pst s)

/-- Both sides end so. -/
def pairStopBoth (pst : Nat) (k j : Agent) (s : State) : State :=
  pairStop pst j (pairStop pst k s)

/-- PAIR_START (17 R386): both deposits are present, and both sides are at their arrays. Each side's latch is checked; then the
chunks run. -/
def pairStart (k : Agent) (s : State) : State :=
  let j := partner k
  match (s.seq k).wait, (s.seq k).mop, (s.seq j).wait, (s.seq j).mop with
  | .pair _, some m, .pair _, some n =>
    if m.refuses ((s.pairLatch k).getD {}) || n.refuses ((s.pairLatch j).getD {}) then pairStopBoth 4 k j s
    else ((s.waitFor k .matrix).waitFor j .matrix).post (.matrixChunk k)
  | _, _, _, _ => s

/-- PAIR_START (17 R386). -/
def execPairStart (k : Agent) (s : State) : Out := .next (pairStart k s)

/-- A parked side whose partner has not deposited in time withdraws its deposit (R387). -/
def pairLate (k : Agent) (s : State) : State :=
  match (s.seq k).wait with
  | .pair since =>
    match (s.seq (partner k)).wait with
    | .pair _ => s
    | _ =>
      if since + (s.seq k).c.pairwait.toNat ≤ s.cycle then
        pairStop 3 k (clearPairLatch (partner k) s)
      else s
  | _ => s

/-- PAIRWAIT_EXPIRY (17 R387). -/
def execPairwaitExpiry (k : Agent) (s : State) : Out := .next (pairLate k s)

/-- A pair ends DONE on one side. -/
def pairDone (k : Agent) (s : State) : State :=
  let steps := match (s.seq k).mop with | some m => m.k | none => 0
  mopRetire k (clearPairLatch k ((mopFinish k s).upd k fun q => { q with pair := { pst := 1, steps := steps } }))

/-- A cluster is fenced (05 R122, 06 R137). -/
def clusterFenced (k : Agent) (s : State) : Bool := (s.die (dieOfSeq k)).fencedClusters.contains (clusterOfSeq k)

/-- One side's chunk, unless it has finished. -/
def pairChunk (k : Agent) (s : State) : State :=
  match (s.seq k).mop with
  | some m => if mopDone m s k then s else seqChunk k m ((s.pairLatch k).getD {}) s
  | none => s

def pairSideDone (k : Agent) (s : State) : Bool :=
  match (s.seq k).mop with | some m => mopDone m s k | none => true

/-- Both sides of a pair meet a chunk boundary at which one is asked to save or its cluster is fenced: both end, then the requested
side saves (R387). -/
def pairBreak (k j : Agent) (s : State) : State :=
  let saves := [k, j].filter fun x => (s.seq x).preempt.isSome
  thread (fun x s => s.post (.contextSave x)) saves (pairStopBoth 2 k j s)

/-- One chunk of a pair in lockstep, and what ends it. A side whose partner has gone, with its fenced cluster or with its work, ends
at this boundary alone. -/
def pairStep (k : Agent) (s : State) : State :=
  let j := partner k
  let stopped (s : State) : Bool :=
    [k, j].any fun x => (s.seq x).preempt.isSome || clusterFenced x s
  if !pairRuns j s then pairStop 2 k s
  else if stopped s then pairBreak k j s
  else
    let s := pairChunk j (pairChunk k s)
    if pairSideDone k s && pairSideDone j s then pairDone j (pairDone k s)
    else s.post (.matrixChunk k)

/-- One chunk of a MOP that has begun. -/
def chunkStep (k : Agent) (s : State) : State :=
  match (s.seq k).wait, (s.seq k).mop with
  | .matrix, some m =>
    if m.form = 2 then pairStep k s
    else if matrixTurn (clusterOfSeq k) s ≠ some (.seq k) then s
    else
      let s := seqChunk k m (s.latch k) s
      if mopDone m s k then mopRetire k (mopFinish k s)
      else if (s.seq k).preempt.isSome then mopPause k s
      else s.post (.matrixChunk k)
  | _, _ => s

/-- MATRIX_CHUNK (17 R383). -/
def execMatrixChunk (k : Agent) (s : State) : Out := .next (chunkStep k s)

/-! ## Status (R389) -/

/-- The status word of a sequencer whose latch holds `l`. -/
def matrixStatus (q : Seq) (l : Latch) : Nat :=
  q.pair.pst + q.pair.steps * 2 ^ 48
    + (if l.lv then 2 ^ 26 + l.ltype * 2 ^ 27 + (l.lk - 1) * 2 ^ 31 + (l.lm - 1) * 2 ^ 41 else 0)

/-- MPSTAT (17 R389). -/
def execMpstat (d : BitVec 5) (s : State) : Out :=
  issue (opsD (Instr.mpstat d).encodeNat (gr d)).closing
    (matrixIssue false (fun s => putG d.toNat (BitVec.ofNat 64 (matrixStatus s.me (s.latch s.cur))) 0 s)) s

/-! ## Whole tiles (R390) -/

/-- Tile d takes a new content, with flags. -/
def putTile (d : Nat) (r : Bits × BitVec 6) (s : State) : Res Flow :=
  .ok .next (s.updMe fun q => (q.aSet d r.1).raise r.2)

/-- TZERO (17 R390). -/
def execTzero (d : BitVec 5) (s : State) : Out :=
  issue (opsD (Instr.tzero d).encodeNat (ar d)).closing
    (matrixIssue false (putTile d.toNat (0, 0))) s

/-- TMOV (17 R390). -/
def execTmov (d a : BitVec 5) (e : BitVec 1) (s : State) : Out :=
  issue (ops2 (Instr.tmov d a e).encodeNat (ar d) (ar a) e true).closing
    (matrixIssue false (fun s => putTile d.toNat (s.me.aRead a.toNat, 0) s)) s

/-- TADD (17 R390). -/
def execTadd (d a : BitVec 5) (e : BitVec 1) (t : BitVec 4) (s : State) : Out :=
  issue (ops2 (Instr.tadd d a e t).encodeNat (ar d) (ar a) e (decide (t.toNat = 13))).closing
    (matrixIssue false (fun s =>
      let q := s.me
      let y := q.aRead a.toNat
      putTile d.toNat (overTile (fun i j x => fAdd 13 (q.round q.c.rm (128 * i + j)) x (tileElem y i j)) (q.aRead d.toNat)) s)) s

/-- One element under TACT: .RELU, .SCALE, .CLAMP, .TANH; `g` is the scalar operand's f32. -/
def tactElem (v g : Nat) (c : RoundCtl) (x : Nat) : Nat × BitVec 6 :=
  let n := decodeFloat 13 x
  if isNaN n then (canonicalNaN 13, nvIf (isSig n || (v = 1 && isSig (decodeFloat 13 g)) || (v = 2 && isNaN (decodeFloat 13 g))))
  else match v with
    | 0 => (if isNeg n then 0 else x, 0)
    | 1 => fMul 13 c x g
    | 2 =>
      let lim := g % 2 ^ 31
      if isNaN (decodeFloat 13 lim) then (canonicalNaN 13, flNV)
      else
        let y := (fMinMax 13 true false x (lim + 2 ^ 31)).1
        ((fMinMax 13 false false y lim).1, 0)
    | _ => fTanh 13 c x

/-- TACT (17 R390). -/
def execTact (d a : BitVec 5) (e : BitVec 1) (v : BitVec 2) (t : BitVec 4) (s : State) : Out :=
  let uses := v = 1 || v = 2
  issue { word := (Instr.tact d a e v t).encodeNat, regs := if uses then [ar d, gr a] else [ar d]
          typeOk := decide (t.toNat = 13), sources := if uses then [(gr a, eb e)] else [], dests := [ar d], closes := true }
    (matrixIssue false (fun s =>
      let q := s.me
      let g := (q.gRead a.toNat).toNat % 2 ^ 32
      putTile d.toNat (overTile (fun i j x => tactElem v.toNat g (q.round q.c.rm (128 * i + j)) x) (q.aRead d.toNat)) s)) s

/-- A value converted between a float type and f32 as the tile instructions do it: a conversion under R221 also where both are f32,
so a NaN becomes the canonical one and a signalling one sets NV (10 R218, R224). -/
def tileConvert (to_ from_ : Nat) (c : RoundCtl) (x : Nat) : Nat × BitVec 6 :=
  let n := decodeFloat from_ x
  if to_ = from_ && isNaN n then (canonicalNaN to_, nvIf (isSig n)) else convert to_ from_ c x

/-- TFILL (17 R390). -/
def execTfill (d a : BitVec 5) (e : BitVec 1) (t : BitVec 4) (s : State) : Out :=
  issue (ops2 (Instr.tfill d a e t).encodeNat (ar d) (gr a) e (isFloat t.toNat)).closing
    (matrixIssue false (fun s =>
      let q := s.me
      let g := (q.gRead a.toNat).toNat % 2 ^ typeBits t.toNat
      putTile d.toNat (overTile (fun i j _ => tileConvert 13 t.toNat (q.round q.c.rm (128 * i + j)) g) (q.aRead d.toNat)) s)) s

/-! ## Rows and columns in vector registers (R391) -/

/-- The place of element e: row g[b], or column g[b] for .COL. -/
def rowCol (col : Bool) (r e : Nat) : Nat × Nat := if col then (e, r) else (r, e)

/-- What TRDV and TWRV refuse. -/
def rowIllegal (q : Seq) (t r : Nat) : Bool :=
  decide (q.c.sewBits < typeBits t) || decide (128 < q.c.vl) || decide (127 < r)

/-- TRDV (17 R391). -/
def execTrdv (d a b : BitVec 5) (e f : BitVec 1) (t : BitVec 4) (v : BitVec 1) (s : State) : Out :=
  let w := (Instr.trdv d a b e f t v).encodeNat
  issue { word := w, regs := [vr d, ar a, gr b], typeOk := isFloat t.toNat, dests := [vr d], closes := true
          sources := [(ar a, eb e), (gr b, eb f)] ++ s.me.maskSrc }
    (matrixIssue false (fun s =>
      let q := s.me
      let r := (q.gRead b.toNat).toNat
      let n := typeBits t.toNat
      if rowIllegal q t.toNat r then .trap 0x03 w s
      else
        let act := q.active true
        let y := (setBits act q.c.vl).foldl (fun (y : Nat × BitVec 6) i =>
          let p := rowCol (v = 1) r i
          let x := tileConvert t.toNat 13 (q.round q.c.rm i) (tileElem (q.aRead a.toNat) p.1 p.2)
          (setBitsAt y.1 (n * i) n x.1, y.2 ||| x.2)) (q.vRead d.toNat, 0)
        .ok .next (s.updMe fun q => (q.vSet d.toNat y.1).raise y.2))) s

/-- TWRV (17 R391). -/
def execTwrv (d a b : BitVec 5) (e f : BitVec 1) (t : BitVec 4) (v : BitVec 1) (s : State) : Out :=
  let w := (Instr.twrv d a b e f t v).encodeNat
  issue { word := w, regs := [ar d, vr a, gr b], typeOk := isFloat t.toNat, dests := [ar d], closes := true
          sources := [(vr a, eb e), (gr b, eb f), (ar d, false)] ++ s.me.maskSrc }
    (matrixIssue false (fun s =>
      let q := s.me
      let r := (q.gRead b.toNat).toNat
      let n := typeBits t.toNat
      if rowIllegal q t.toNat r then .trap 0x03 w s
      else
        let act := q.active true
        let y := (setBits act q.c.vl).foldl (fun (y : Nat × BitVec 6) i =>
          let p := rowCol (v = 1) r i
          let x := tileConvert 13 t.toNat (q.round q.c.rm (128 * p.1 + p.2)) (q.elem a.toNat n i)
          (setBitsAt y.1 (4096 * p.1 + 32 * p.2) 32 x.1, y.2 ||| x.2)) (q.aRead d.toNat, 0)
        putTile d.toNat y s)) s

/-! ## Tiles and memory (R392, R393) -/

/-- The format of TSTORE, fixed by the page of g[a]: a float type, or the row that VSTART names faults. -/
def tstoreFormat (base t : Nat) (s : State) : Res Fmt :=
  let entry (c : Nat × Nat) : FaultEntry :=
    { page := base / 4096 * 4096 % 2 ^ 57, access := Access.write.code, cause := c.1, first := 128 * s.me.c.vstart,
      count := 128, detail := c.2 }
  (vecTranslate s.cur base .write s).andThen fun r s =>
    match r with
    | .error c => .fault [entry c] s
    | .ok l =>
      let f := l.fmt s.me t
      if f.fits t then .ok f s else .fault [entry (0x07, f.detail)] s

/-- The lowest row address that is not a multiple of what the format asks (R392). -/
def tstoreOdd (base P R : Nat) (f : Fmt) : Option Nat :=
  let unit := if f.geo = 0 then elemBytes (typeBits f.ty) else f.blockBytes
  let odd := ((List.range R).map fun (r : Nat) => wrap64 (base + r * P : Nat)).filter fun a => decide (a % unit ≠ 0)
  match odd with
  | x :: xs => some (xs.foldl min x)
  | [] => if P % unit ≠ 0 then some base else none

/-- TSTORE: rows from VSTART, each one store. -/
def tstore (word t d a b : Nat) (relu : Bool) (s : State) : Res Flow :=
  let q := s.me
  let g := (q.gRead b).toNat
  let base := (q.gRead a).toNat
  let R := bitsAt g 32 7 + 1
  if bitsAt g 39 25 ≠ 0 then .trap 0x03 word s
  else
    (tstoreFormat base t s).andThen fun f s =>
      let ms := typeBits f.ty
      let P := if bitsAt g 0 32 = 0 then 16 * ms else bitsAt g 0 32
      match tstoreOdd base P R f with
      | some x => .trap 0x0A x s
      | none =>
        overRowsFrom 0 R (fun r s =>
          let row := tileRow (s.me.aRead d) r
          let is := (List.range 128).map fun j => placeOf (wrap64 (base + r * P : Nat)) ms (128 * r + j) 0 j
          let val (i : Item) : Nat :=
            let x := bitsAt row (32 * (i.e % 128)) 32
            if relu && !isNaN (decodeFloat 13 x) && isNeg (decodeFloat 13 x) then 0 else x
          storeItems 13 t f is val (fun _ es s => .fault es s) s) 128 s

/-- TSTORE (17 R392). -/
def execTstore (d a b : BitVec 5) (e f : BitVec 1) (t : BitVec 4) (v : BitVec 1) (s : State) : Out :=
  let w := (Instr.tstore d a b e f t v).encodeNat
  issue { word := w, regs := [ar d, gr a, gr b], typeOk := isFloat t.toNat, closes := true
          sources := [(ar d, false), (gr a, eb e), (gr b, eb f)] }
    (matrixIssue false (tstore w t.toNat d.toNat a.toNat b.toNat (v = 1))) s

/-- A slot address of an image: a multiple of 64. -/
def imageAt (a : Nat) (body : Nat → State → Res Flow) (s : State) : Res Flow :=
  let base := (s.me.gRead a).toNat
  if base % 64 ≠ 0 then .trap 0x0A base s else body base s

/-- The bytes of a latch image stored as one store. -/
def saveLatch (base : Nat) (s : State) : Res Flow :=
  let l := s.latch s.cur
  if !l.lv then .trap 0x11 s.me.c.vstart s
  else
    let x := latchImage l
    (rawStore (imageTouches base .write)
      (((imageChunks base).zipIdx).map fun (va, i) => { va := va, n := 64, v := bitsAt x (512 * i) 512, e := 0, count := 1 })
      s).andThen fun _ s => .ok .next s

/-- TSAVE (17 R393): a tile row by row, or the latch (.L). -/
def execTsave (d a : BitVec 5) (e k : BitVec 1) (s : State) : Out :=
  let w := (Instr.tsave d a e k).encodeNat
  let o : Operands := if k = 1 then { word := w, regs := [gr a], sources := [(gr a, eb e)], closes := true }
    else { word := w, regs := [ar d, gr a], sources := [(ar d, false), (gr a, eb e)], closes := true }
  issue o (matrixIssue (k = 1) (imageAt a.toNat (fun base s =>
    if k = 1 then saveLatch base s
    else overRowsFrom 0 128 (fun r s =>
      saveRow (wrap64 (base + 512 * r : Nat)) r (tileRow (s.me.aRead d.toNat) r) s) 128 s))) s

/-- The latch read from its image as one load. -/
def loadLatch (word base : Nat) (s : State) : Res Flow :=
  (rawLoad (imageTouches base .read) ((imageChunks base).map fun va => (va, 64)) s).andThen fun xs s =>
    match latchFrom (xs.foldr (fun v acc => acc * 2 ^ 512 + v) 0) with
    | none => .trap 0x03 word s
    | some l => .ok .next (setLatch s.cur l s)

/-- TLOAD's tile is empty from its issue until its last row has arrived (11 R239, R376); a trap, a fault or a save between rows finds
the rows that have arrived in a full tile. -/
def loadTile (d base : Nat) (s : State) : Res Flow :=
  let fill (s : State) : State := s.updMe fun q => q.setFull (.a d) true
  let s := s.updMe fun q => { q.setFull (.a d) false with note := some { (q.note.getD {}) with step := 40 } }
  let r := overRowsFrom 40 128 (fun r s =>
    (loadRow (wrap64 (base + 512 * r : Nat)) r s).andThen fun row s =>
      .ok () (s.updMe fun q => q.aSet d (setBitsAt (q.aRead d) (4096 * r) 4096 row))) 128 s
  match r with
  | .ok fl s => .ok fl (s.updMe fun q => q.produce (.a d) (q.aRead d))
  | .wait s => .wait (if s.me.preempt.isSome && Due.contextSave s.cur ∈ s.due then fill s else s)
  | .trap c v s => .trap c v (fill s)
  | .fault es s => .fault es (fill s)

/-- TLOAD (17 R393): a tile row by row, or the latch (.L). -/
def execTload (d a : BitVec 5) (e k : BitVec 1) (s : State) : Out :=
  let w := (Instr.tload d a e k).encodeNat
  let going := (s.me.note.getD {}).step = 40
  let o : Operands := if k = 1 then { word := w, regs := [gr a], sources := [(gr a, eb e)], closes := true }
    else { word := w, regs := [ar d, gr a], sources := [(gr a, eb e)], dests := if going then [] else [ar d], closes := true }
  issue o (matrixIssue (k = 1) (imageAt a.toNat (fun base s =>
    if k = 1 then loadLatch w base s else loadTile d.toNat base s))) s

end Sys2Proof.Machine
end

