-- ==== Sys2Proof/Machine/SyncOps.lean ====
section
/-!
DEFINITION. What atomics, waits and matte control share (spec/18_sync.md): reads and writes of locations as one step (R400,
R402), faults of several elements (R398), reads served by homes and parking (R406, R407), the level forms (R409), opening
several lines at their homes, invalidation of translations (spec/04_address_spaces.md R96), and walks to level-0 entries
(R417, R418).
-/
namespace Sys2Proof.Machine

/-! ## Read-modify-write through the slice (07 R157) -/

/-- A location that an instruction reads and writes at one time: its bytes, virtual address and element. -/
structure Target where
  p : Piece
  va : Nat
  e : Nat

def Target.entry (t : Target) (k v : Nat) (s : State) : BufEntry := storeEntry (seqRoot k s) t.p t.va v t.e s

/-- The data of a place once its write set is prepared: a slot popped for the set still takes the plate's line. -/
def placeData (k : Agent) (plans : List SlotPlan) (loc : Loc) (s : State) : Line :=
  match loc with
  | .line x => sliceLine k x s
  | .matte _ _ plate => match slotOf plans loc with
    | some (_, true) => sliceLine k plate s
    | some (p, false) => sliceLine k (lineOf (slotAddr (seqRoot k s) p s)) s
    | none => 0

/-- The line that a prepared place reads. -/
def placeSource (k : Agent) (plans : List SlotPlan) (loc : Loc) (s : State) : Nat :=
  match loc with
  | .line x => x
  | .matte _ _ plate => match slotOf plans loc with
    | some (p, false) => lineOf (slotAddr (seqRoot k s) p s)
    | _ => plate

/-- A target's old value. -/
def Target.old (t : Target) (k : Agent) (plans : List SlotPlan) (s : State) : Nat :=
  lineField (placeData k plans (t.p.loc (seqRoot k s) s) s) (t.p.pa % 128) t.p.n

def Target.poisoned (t : Target) (k : Agent) (plans : List SlotPlan) (s : State) : Bool :=
  slicePoison k (placeSource k plans (t.p.loc (seqRoot k s) s) s) s

/-- The access code of an atomic in its batches (R398). -/
def asAtomic (es : List FaultEntry) : List FaultEntry := es.map fun e => { e with access := 2 }

/-- Targets made ready together, as a commit does (R163, R360): owned, their slots popped. -/
def prepareTargets (ts : List Target) (s : State) : Res (List SlotPlan) :=
  let k := s.cur
  let es := sortEntries (mergeEntries (ts.map fun t => (t.entry k 0 s, false))).1
  (prepare k es s).andThen fun p s =>
    match p with
    | .lacks n => .fault (asAtomic (n.faults es s)) (s.updMe fun q => { q with commit := none })
    | .poison va => .trap 0x0C va (s.updMe fun q => { q with commit := none })
    | .ready plans _ =>
      storing (max (s.seq k).pts (setFloor k (seqRoot k s) false plans es s) + ts.length) (.again k) s fun s => .ok plans s

/-- One target written at its own T = max(pts, rts + 1); the plan after it. -/
def writeTarget (plans : List SlotPlan) (t : Target) (v floor : Nat) (s : State) : List SlotPlan × State :=
  let k := s.cur
  let root := seqRoot k s
  let e := t.entry k v s
  let T := max (max (s.seq k).pts floor) (setFloor k root false plans [e] s)
  (plans.map fun p => if p.1 = e.loc then (p.1, p.2.1, false) else p, performSet k plans [e] T s)

/-- Targets read and written one after the other, in order: the old values with what `f` raised. -/
def rmwAll (f : Target → Nat → Nat × BitVec 6) : List Target → List SlotPlan → State → List (Target × Nat) × BitVec 6 × State
  | [], _, s => ([], 0, s.updMe fun q => { q with commit := none })
  | t :: ts, plans, s =>
    let old := t.old s.cur plans s
    let x := f t old
    let r := writeTarget plans t x.1 0 s
    let rest := rmwAll f ts r.1 r.2
    ((t, old) :: rest.1, x.2 ||| rest.2.1, rest.2.2)

/-- An address in CXL mode's reach of the host, or memory: performed here. -/
def performsHere (pa : Nat) (s : State) : Bool := tierOf pa ≠ .host || s.ports.contains .cxl

/-! ## Elements (R398) -/

/-- A batch of this chapter: no element performs. -/
def syncFault {α : Type} (bad : List (Touch × (Nat × Nat))) (s : State) : Res α :=
  .fault (batchEntries bad) (setFmask (dedup (bad.map fun x => x.1.e)) s)

/-- The lowest of some addresses. -/
def lowest : List Nat → Option Nat
  | [] => none
  | x :: xs => some (xs.foldl min x)

/-- Indexed elements of `n` bytes: address g[a] + index × n of each active element below VL (R402). -/
def syncItems (q : Seq) (a b n : Nat) : List Item :=
  (setBits (q.active true) q.c.vl).map fun e => placeOf (q.gRead a).toNat (8 * n) e 0 (indexOf q b e true)

/-- Pages of some items translated for an access; `judge` adds what an instruction refuses. -/
def syncPages (is : List Item) (kind : Access) (judge : Leaf → Nat → Option (Nat × Nat)) (s : State) : Res Pages :=
  let ts := is.map fun i => ({ e := i.e, va := i.va, kind := kind, elem := true } : Touch)
  (translatePages s.cur (pagesOf ts) s).andThen fun ps s =>
    let bad := ts.filterMap fun x => match leafFor ps x.va kind with
      | .error (0x0C, d) => some (x, (judge { entry := 0, level := 0, base := 2 ^ 51, w0 := 0, w1 := 0 } (2 ^ 51)).getD (0x0C, d))
      | .error c => some (x, c)
      | .ok l => (judge l (l.pa x.va)).map fun c => (x, c)
    if bad ≠ [] then syncFault bad s else .ok ps s

/-- The targets of items whose pages are resident. -/
def targetsOf (ps : Pages) (is : List Item) (kind : Access) (n : Nat) : List Target :=
  is.filterMap fun i => match leafFor ps i.va kind with
    | .ok l => some { p := { leaf := l, pa := l.pa i.va, n := n }, va := i.va, e := i.e }
    | .error _ => none

/-! ## Reads served by the home (R406) -/

/-- Every line ready at its home for a lease. -/
def openLeases (k : Agent) : List Nat → State → Res Unit
  | [], s => .ok () s
  | x :: xs, s => (openLine .lease x (s.seq k).vi (.again k) false s).andThen fun _ s => openLeases k xs s

/-- Lines read at one t by their homes: leases to t + LEASE, and the slice's shared copies replaced. -/
def homeLease (xs : List Nat) (s : State) : Res Nat :=
  let k := s.cur
  (openLeases k xs s).andThen fun _ s =>
    if xs.any fun x => (s.homes.find x).isNone then .wait s
    else
      let t := xs.foldl (fun t x => match s.home x with | some h => max t h.wts | none => t) s.me.pts
      let c := clusterOfSeq k
      let last := t + s.me.c.lease
      storing last (.again k) s fun s =>
        let s := thread (fun x s => match s.home x with
          | some h =>
            let s := s.setHome x { h with rts := max h.rts last }
            let mine := match s.copy c x with | some p => p.own | none => false
            if mine then s else trimSlice (sliceOf c x) (s.setCopy c x (copyOf h.form h.wts last))
          | none => s) xs s
        .ok t (s.updMe fun q => { q with pts := max q.pts t })

/-- Locations read at their homes at one t through the records as they stand: each value, and the lines it came from. -/
def readAtHomes (ps : List Piece) (s : State) : Res (List (Nat × List Nat)) :=
  let k := s.cur
  let root := seqRoot k s
  let locs := ps.map fun p => p.loc root s
  let recs := dedup (locs.filterMap Loc.rec?)
  (openLeases k recs s).andThen fun _ s =>
    let src (l : Loc) : Nat := match l with
      | .line x => x
      | .matte r i plate =>
        let d := match s.homes.find r with | some h => h.data | none => 0
        if bitsAt (recMask d) i 1 = 1 then lineOf (slotAddr root (recPtr d i) s) else plate
    (homeLease (dedup (recs ++ locs.map src)) s).andThen fun _ s =>
      .ok (ps.map fun p =>
        let loc := p.loc root s
        let x := src loc
        let d := match s.homes.find x with | some h => h.data | none => 0
        (lineField (overlay s.me.buffers loc d) (p.pa % 128) p.n, loc.rec?.toList ++ [x])) s

/-- A line whose home holds poison. -/
def homePoison (x : Nat) (s : State) : Bool := match s.homes.find x with | some h => h.code = 15 | none => false

/-- A host-window line is read anew by its poll; what the device wrote to it has gone to the host. -/
def forgetHost (x : Nat) (s : State) : State :=
  match s.homes.find x with
  | some h =>
    if tierOf (128 * x) = .host ∧ h.own.isNone ∧ h.waiters = [] then
      let s := freeTag x s
      { s with hostLines := s.hostLines.erase x }
    else s
  | none => s

/-- Locations watched: their values and the lines they came from (R406); a peer's are asked for (R407). Where one refuses,
`refused` tells what the wait does. -/
def readWatched (ts : List Target) (refused : Target → Nat × Nat → State → Res (List (Nat × List Nat))) (s : State) :
    Res (List (Nat × List Nat)) :=
  let asks : List (Item × Piece) := ts.map fun t => ({ e := t.e, f := 0, va := t.va, nib := none }, t.p)
  (askPeers asks s).andThen fun r s =>
    match r with
    | some (i, c) => match ts.find? fun t => t.e = i.e with
      | some t => refused t c s
      | none => .ok [] s
    | none =>
      let mine := (ts.filter fun t => tierOf t.p.pa ≠ .peer).map Target.p
      (if mine = [] then .ok [] s else readAtHomes mine s).andThen fun xs s =>
        let byPa := (mine.map fun p => p.pa).zip xs
        .ok (ts.map fun t =>
          if tierOf t.p.pa = .peer then (peerView t.p (peerBytes t.p.pa t.p.n s) s, [])
          else match byPa.find? fun y => y.1 = t.p.pa with
            | some y => y.2
            | none => (0, [])) s

/-- At a deadline or a reread, peers and the host are asked anew (R406, R407). -/
def askAnew (ts : List Target) (s : State) : State :=
  let n := s.me.note.getD {}
  if n.step = 3 ∨ n.step = 4 then
    let s := thread (fun t s => if tierOf t.p.pa = .host then forgetHost t.p.line s else s) ts s
    s.updMe fun q => { q with note := some { n with step := n.step + 2, lines := n.lines.filter fun e => tierOf e.1 ≠ .peer } }
  else s

/-! ## Parking (R407) -/

/-- Waiters a line or a bank word parks, with the slice's overflow list. -/
def parkLine (k : Agent) (x : Nat) (s : State) : Option State :=
  match s.homes.find x with
  | none => none
  | some h =>
    if h.waiters.length < 64 then some (s.updTag x fun h => { h with waiters := h.waiters ++ [k] })
    else if (s.slice x).overflow.length < 1024 then
      some (s.updSlice x fun sl => { sl with overflow := sl.overflow ++ [(k, x)] })
    else none

/-- Sequencer `k` parks on lines; where a list is full, or a line lies outside, it rereads by itself. -/
def parkOn (xs : List Nat) (poll : Bool) (deadline : Nat) (s : State) : State :=
  let k := s.cur
  let r := xs.foldl (fun (r : State × Bool × List Nat) x =>
    if tierOf (128 * x) = .host then (r.1, true, r.2.2)
    else match parkLine k x r.1 with
      | some s => (s, r.2.1, r.2.2 ++ [x])
      | none => (r.1, true, r.2.2)) (s, poll, [])
  r.1.upd k fun q =>
    let n := q.note.getD {}
    { q with note := some { n with step := 1, parked := n.parked ++ r.2.2, woke := [] }
             wait := .park { lines := n.parked ++ r.2.2, poll := r.2.1, since := s.cycle
                             deadline := if deadline = 0 then none else some deadline } }

/-- Sequencer `k` parks at a Stage bank word (R411). -/
def parkStage (a : Nat) (s : State) : State :=
  let k := s.cur
  let w := bankWord a
  let ks := s.stageWait.getD w []
  let room := decide (ks.length < 64 + 1024)
  let s := if room then { s with stageWait := s.stageWait.set w (ks ++ [k]) } else s
  s.upd k fun q =>
    let n := q.note.getD {}
    { q with note := some { n with step := 1, parked := [stageKey w], woke := [] }
             wait := .park { lines := [stageKey w], poll := !room, since := s.cycle } }

/-- WAIT_WAKE (R407): a write at T has reached a line the sequencer is parked on; its instruction goes on. -/
def waitWake (k x T : Nat) (s : State) : State :=
  s.upd k fun q =>
    match q.note with
    | none => q
    | some n =>
      let n2 := { n with woke := n.woke ++ [(x, T)], parked := n.parked.filter (· ≠ x) }
      match q.wait with
      | .park p => if x ∈ p.lines then { q with note := some { n2 with step := 1 }, wait := .run } else q
      | .run => if n.woke = [] then q else { q with note := some n2 }
      | _ => q

/-- A reread saw nothing new: it is parked where it was, and rereads again. -/
def keepPolling (deadline : Nat) (s : State) : State :=
  s.updMe fun q =>
    let n := q.note.getD {}
    { q with note := some { n with step := 1, woke := [] }
             wait := .park { lines := n.parked, poll := true, since := s.cycle
                             deadline := if deadline = 0 then none else some deadline } }

/-- The instruction is executed again for a deadline (3) or a reread (4). -/
def waitStep (k step : Nat) (s : State) : State :=
  s.upd k fun q => { q with note := some { (q.note.getD {}) with step := step }, wait := .run }

/-- WAIT_DEADLINE (R406). -/
def waitDeadline (k : Agent) (s : State) : State :=
  match (s.seq k).wait with
  | .park p => match p.deadline with
    | some d => if d ≤ s.cycle then waitStep k 3 s else s
    | none => s
  | _ => s

/-- WAIT_POLL (R407): every 1,024 cycles. -/
def waitPoll (k : Agent) (s : State) : State :=
  match (s.seq k).wait with
  | .park p => if p.poll && decide (p.since + 1024 ≤ s.cycle) then waitStep k 4 s else s
  | _ => s

/-- The latest write that woke the waiter. -/
def wokeAt (s : State) : Nat := ((s.me.note.getD {}).woke).foldl (fun t x => max t x.2) 0

/-- A reread after a wake or a poll sees nothing older than the write that woke it, and asks peers and the host anew. -/
def beforeReread (s : State) : State :=
  let n := s.me.note.getD {}
  if n.step = 0 then s else s.updMe fun q => { q with pts := max q.pts (wokeAt s) }

/-- A wait ends: it is parked nowhere. -/
def endWait (s : State) : State := unpark s.cur s

/-! ## Levels (R409, 05 R107) -/

/-- The scope a level form names, none above the slate's NLEV. -/
def levelScope (l n scope : Nat) (s : State) : Option Nat :=
  if l = 0 then some scope
  else match s.me.bound with
    | none => none
    | some b => match s.slates.find b.slot with
      | none => none
      | some sl => (sl.levels[n]?).map Level.scope

/-! ## Several lines open at their homes -/

/-- Every line open for its use, in order. -/
def openAll (k : Agent) : List (Use × Nat) → State → Res Unit
  | [], s => .ok () s
  | u :: us, s => (openLine u.1 u.2 (s.seq k).vi (.again k) false s).andThen fun _ s => openAll k us s

/-- The lease end of a line at its home. -/
def homeRts (x : Nat) (s : State) : Nat := match s.home x with | some h => h.rts | none => s.mts x

/-! ## Invalidation (04 R96) -/

/-- Posted stores that went through what an invalidation names, each with its sender. One through any page of the context counts
where a single page is named (log 14). -/
def storesNamed (i : Inval) (s : State) : List (Nat × PeerStore) :=
  let mine (p : PeerStore) : Bool := p.vi = i.vi && (i.kind = 2 || p.cid = i.cid)
  (s.seqs.flatMap fun e => (e.2.peerOut.filter mine).map fun p => (e.1, p))
    ++ s.engPeerOut.flatMap fun e => (e.2.filter mine).map fun p => (2 ^ 20 + e.1, p)

/-- An invalidation begins: no TLB holds what it names, and it waits for those that hold pins on it, for accesses in flight through
it and for posted stores that have not performed. -/
def startInval (k kind vi cid va : Nat) (s : State) : State :=
  let i0 : Inval := { kind := kind, vi := vi, cid := cid, va := va, since := s.cycle, holders := [] }
  let s := dropTlb i0.names s
  let hs := (s.seqs.filter fun e => decide (e.1 ≠ k) && e.2.heldPins.any i0.names).map Prod.fst
  let cs := (s.chains.filter fun e => e.2.cmds.any fun x => x.pins.any i0.names).map fun e => chainHolder (chainOfKey e.1)
  let i := { i0 with holders := hs ++ cs, stores := storesNamed i0 s }
  let s := s.upd k fun q => { q with inval := some i, wait := .inv }
  if i.holders = [] ∧ i.stores = [] then s.post (.tlbinvDone k) else s

/-- Nothing that an invalidation waits for is left. -/
def Inval.settled (i : Inval) : Bool := i.holders.isEmpty && i.stores.isEmpty

/-- TLBINV_DONE (04 R96): nothing that it names is in use, and none of it stays in a TLB; the instruction completes. -/
def invalDone (k : Agent) (s : State) : State :=
  match (s.seq k).wait, (s.seq k).inval with
  | .inv, some i =>
    if i.settled then
      (dropTlb i.names s).upd k fun q => { q with inval := none, wait := .run, note := some { (q.note.getD {}) with step := 7 } }
    else s
  | _, _ => s

/-! ## Level-0 entries (R418) -/

/-- An entry of a level-0 table as it stands: its address and words. -/
structure Pte where
  entry : Nat
  w0 : DWord
  w1 : DWord

/-- The level-0 entry of an address, by a walk that reads the tables at their homes: none where no level-0 table covers
it. -/
def walkPte (a : Accessor) (va : Nat) : (n tbl clock : Nat) → State → Res (Faulty (Option Pte) × Nat)
  | n, tbl, clock, s =>
    if !tableOk a.vi tbl s then .ok (.error (0x05, (tierOf tbl).code), clock) s
    else
      let ea := tbl + 16 * bitsAt va (12 + 9 * n) 9
      (readEntry a ea clock s).andThen fun r s =>
        match n with
        | 0 => .ok (.ok (some { entry := ea, w0 := r.1.1, w1 := r.1.2 }), r.2) s
        | n + 1 =>
          if !r.1.1.getLsbD 0 || r.1.1.getLsbD 1 then .ok (.ok none, r.2) s
          else walkPte a va n (bitsAt r.1.1.toNat 13 39 * 8192) r.2 s

/-- The level-0 entry of an address of a context of the current interface. -/
def pteOf (cid va : Nat) (s : State) : Res (Faulty (Option Pte)) :=
  let k := s.cur
  let a := { seqAccessor k s with cid := cid }
  if 2 ^ 57 ≤ va then .ok (.ok none) s
  else
    (walkPte a va 4 (rootOf a.vi cid s) s.me.pts s).andThen fun r s =>
      .ok r.1 (s.updMe fun q => { q with pts := max q.pts r.2 })

def Pte.leaf (p : Pte) : Leaf := { entry := p.entry, level := 0, base := 4096 * bitsAt p.w0.toNat 12 40, w0 := p.w0, w1 := p.w1 }

/-- A valid level-0 leaf of a shared plate. -/
def Pte.shared (p : Pte) : Bool := p.w0.getLsbD 0 && p.w0.getLsbD 1 && p.leaf.sh

end Sys2Proof.Machine
end

