-- ==== Sys2Proof/Machine/Sync.lean ====
section
/-!
DEFINITION. Atomics, linked pairs, Stage reductions, waits, barriers, phases and fences (spec/18_sync.md R395 to R413), with
the steps of parked waits and of a phase publish (R406, R407; spec/07_coherence.md R174).
-/
namespace Sys2Proof.Machine

/-! ## Orders and scopes (R396) -/

/-- A release waits before its instruction performs. -/
def released (scope order : Nat) (s : State) : Res Unit := if 2 ≤ order then release scope s else .ok () s

/-- An instruction with its order: what it does, then what an acquire adds. -/
def ordered (scope order : Nat) (body : State → Res Flow) (s : State) : Res Flow :=
  (released scope order s).andThen fun _ s =>
    (body s).andThen fun f s => .ok f (if order % 2 = 1 then acquire scope s else s)

/-- The register after a field's, a source without an E bit (R395). -/
def afterG (n : BitVec 5) : RegRef := .g (n.toNat + 1)
def afterV (n : BitVec 5) : RegRef := .v (n.toNat + 1)

/-! ## Scalar atomics (R400, R401) -/

/-- A value that arrives in g[d] would fall below the stack limit (11 R270). -/
def belowLimit (d : Nat) (v : DWord) (q : Seq) : Bool := d = 31 && q.c.slim ≠ 0 && decide (v.toNat < q.c.slim.toNat)

/-- The plan given up, then a trap: memory stays (R419). -/
def abandonPlan (cause val : Nat) (s : State) : Res Flow :=
  (unplan s.cur (seqRoot s.cur s) s).andThen fun _ s => .trap cause val (s.updMe fun q => { q with commit := none })

/-- What an AMO's operation gives for an old value: the new one and its flags. -/
def amoNew (op t d : Nat) (q : Seq) (e old : Nat) : Nat × BitVec 6 :=
  let n := typeBits t
  atomicNew op t (q.round q.c.rm e) old ((q.gRead d).toNat % 2 ^ n) ((q.gRead (d + 1)).toNat % 2 ^ n)

/-- AMO's old value arrives in g[d], its flags are set. -/
def amoResult (op t d old : Nat) (s : State) : Res Flow :=
  let fl := (amoNew op t d s.me 0 old).2
  (produceG d (scalarOf t old) s).andThen fun _ s => .ok .next (s.updMe fun q => q.raise fl)

/-- AMO on a location of this device's homes (07 R157). -/
def amoHere (op t d : Nat) (tg : Target) (s : State) : Res Flow :=
  (prepareTargets [tg] s).andThen fun plans s =>
    let old := tg.old s.cur plans s
    if tg.poisoned s.cur plans s then abandonPlan 0x0C tg.va s
    else if belowLimit d (scalarOf t old) s.me then abandonPlan 0x08 (scalarOf t old).toNat s
    else
      let q := s.me
      let r := rmwAll (fun _ old => amoNew op t d q 0 old) [tg] plans s
      amoResult op t d old r.2.2

/-- AMO: here, at a peer's home, or by a PCIe AtomicOp at the host. -/
def amo (op t : BitVec 4) (d a : Nat) (s : State) : Res Flow :=
  let k := s.cur
  let n := typeBits t.toNat / 8
  let va := (s.me.gRead a).toNat
  (seqTranslate k va .atomic true s).andThen fun l s =>
    let p : Piece := { leaf := l, pa := l.pa va, n := n }
    let x := s.me.gRead d
    let x2 := s.me.gRead (d + 1)
    if tierOf p.pa = .peer then
      (askPeer p.pa (.atomic p.pa op t x x2 k) s).andThen fun r s => match r with
        | .ok v => amoResult op.toNat t.toNat d v s
        | .error e => .fault [scalarFault va .atomic e] s
    else if !performsHere p.pa s then
      if (op.toNat ≤ 1 ∨ op.toNat = 7) ∧ 4 ≤ n then
        (askHost p.pa (.hostAtomic (hostPort s.me.vi s) (hostAddr p.line s + p.pa % 128) op t x x2) s).andThen fun v s => amoResult op.toNat t.toNat d v s
      else .fault [scalarFault va .atomic (0x05, 2)] s
    else amoHere op.toNat t.toNat d { p := p, va := va, e := 0 } s

/-- AMO (R400). -/
def execAmo (d a : BitVec 5) (e : BitVec 1) (sc : BitVec 3) (o : BitVec 2) (p t : BitVec 4) (s : State) : Out :=
  let cas := p.toNat = 7
  issue { word := (Instr.amo d a e sc o p t).encodeNat, closes := true, dests := [gr d]
          regs := [gr d, gr a] ++ (if cas then [afterG d] else []), typeOk := atomicTypeOk p.toNat t.toNat true
          sources := [(gr d, false), (gr a, eb e)] ++ (if cas then [(afterG d, false)] else []) }
    (fun s =>
      let va := (s.me.gRead a.toNat).toNat
      if va % (typeBits t.toNat / 8) ≠ 0 then .trap 0x0A va s
      else ordered sc.toNat o.toNat (amo p t d.toNat a.toNat) s) s

/-- SAMO (R401): one operation at its bank. -/
def execSamo (d a : BitVec 5) (e : BitVec 1) (p t : BitVec 4) (s : State) : Out :=
  let cas := p.toNat = 7
  let n := typeBits t.toNat / 8
  issue { word := (Instr.samo d a e p t).encodeNat, closes := true, dests := [gr d]
          regs := [gr d, gr a] ++ (if cas then [afterG d] else []), typeOk := atomicTypeOk p.toNat t.toNat false
          sources := [(gr d, false), (gr a, eb e)] ++ (if cas then [(afterG d, false)] else []) }
    (fun s =>
      let o := (s.me.gRead a.toNat).toNat
      if o % n ≠ 0 then .trap 0x0A o s
      else if !s.me.stageOk o n then .trap 0x09 o s
      else
        stageTrip o n (.alu p t) (s.me.gRead d.toNat) (s.me.gRead (d.toNat + 1)) d.toNat (fun v s =>
          (produceG d.toNat (scalarOf t.toNat (v.toNat % 2 ^ (8 * n))) s).andThen fun _ s => .ok .next s) s) s

/-! ## Vector atomics (R402) -/

/-- Elements on the host or a peer are refused (R402). -/
def notHere (_ : Leaf) (pa : Nat) : Option (Nat × Nat) :=
  match tierOf pa with
  | .host => some (0x05, 2)
  | .peer => some (0x05, 3)
  | _ => none

/-- The lowest address that is not a multiple of the width (R398). -/
def oddest (is : List Item) (n : Nat) : Option Nat := lowest ((is.filter fun i => decide (i.va % n ≠ 0)).map Item.va)

/-- VAMO's elements performed in ascending order, each at its own T: the old values arrive in v[d]. -/
def vamoPerform (op t d : Nat) (ts : List Target) (s : State) : Res Flow :=
  let w := typeBits t
  (prepareTargets ts s).andThen fun plans s =>
    let poi := ts.filter fun t => t.poisoned s.cur plans s
    match poi with
    | x :: _ => abandonPlan 0x0C x.va (setFmask (poi.map Target.e) s)
    | [] =>
      let q := s.me
      let r := rmwAll (fun x old => atomicNew op t (q.round q.c.rm x.e) old (q.elem d w x.e) 0) ts plans s
      let v := r.1.foldl (fun v x => setBitsAt v (w * x.1.e) w x.2) (q.vRead d)
      .ok .next (restart (r.2.2.updMe fun q => (q.produce (.v d) v).raise r.2.1))

/-- VAMO after its order's release. -/
def vamo (word op t d a : Nat) (s : State) : Res Flow :=
  let n := typeBits t / 8
  (narrowEnough word [8 * n] s).andThen fun _ s =>
    let is := syncItems s.me a (d + 1) n
    match oddest is n with
    | some x => .trap 0x0A x s
    | none =>
      (syncPages is .atomic notHere s).andThen fun ps s =>
        if is = [] then .ok .next (restart s) else vamoPerform op t d (targetsOf ps is .atomic n) s

/-- The operands of the vector forms: v[d], its neighbour's indices, and the base. -/
def linkOps (w : Nat) (d a : BitVec 5) (e : BitVec 1) (ok : Bool) (s : State) : Operands :=
  { word := w, regs := [vr d, gr a, afterV d], typeOk := ok, closes := true
    sources := [(vr d, false), (gr a, eb e), (afterV d, false)] ++ s.me.maskSrc }

/-- VAMO (R402). -/
def execVamo (d a : BitVec 5) (e : BitVec 1) (sc : BitVec 3) (o : BitVec 2) (p t : BitVec 4) (s : State) : Out :=
  let w := (Instr.vamo d a e sc o p t).encodeNat
  issue { linkOps w d a e (atomicTypeOk p.toNat t.toNat true) s with dests := [vr d] }
    (ordered sc.toNat o.toNat (vamo w p.toNat t.toNat d.toNat a.toNat)) s

/-! ## Linked pairs (R403) -/

/-- The batch of a page fault names an atomic (R398). -/
def Res.asAtomic {α : Type} : Res α → Res α
  | .fault es s => .fault (Machine.asAtomic es) s
  | r => r

/-- The newest write time of a line, at its home or its owner. -/
def newestWts (x : Nat) (s : State) : Nat :=
  match s.home x with
  | none => s.mts x
  | some h => match h.own.bind fun o => s.ownerCopy o x with
    | some c => c.wts
    | none => h.wts

/-- Each line present at its home, where a tag can stand. -/
def presentAll (k : Agent) : List Nat → State → Res Unit
  | [], s => .ok () s
  | x :: xs, s =>
    match s.homes.find x with
    | some _ => presentAll k xs s
    | none => (openLine .peek x (s.seq k).vi (.again k) false s).andThen fun _ s => presentAll k xs s

/-- A link tag recorded at a line read at t, unless a later write has cleared it; a ninth displaces the oldest. -/
def leaveTag (k : Agent) (t x : Nat) (s : State) : State :=
  match s.homes.find x with
  | some h =>
    if t < newestWts x s then s
    else
      let tags := h.tags ++ [{ k := k, gen := (s.seq k).gen, epoch := (s.seq k).linkEpoch, t := t }]
      s.updTag x fun h => { h with tags := tags.drop (tags.length - 8) }
  | none => s

/-- The link epoch rises, once for an execution. -/
def raiseEpoch (s : State) : State :=
  let n := s.me.note.getD {}
  if n.step = 0 then
    s.updMe fun q => { q with linkEpoch := (q.linkEpoch + 1) % 65536, note := some { n with step := 1 } }
  else s

/-- VGLL: a gather at one t that leaves tags on the lines it read. -/
def vgll (word t d a : Nat) (s : State) : Res Flow :=
  let k := s.cur
  let n := typeBits t / 8
  (narrowEnough word [8 * n] s).andThen fun _ s =>
    let is := syncItems s.me a (d + 1) n
    match oddest is n with
    | some x => .trap 0x0A x s
    | none =>
      (syncPages is .read (fun _ _ => none) s).asAtomic.andThen fun ps s =>
        let s := raiseEpoch s
        let ts := targetsOf ps is .read n
        (askPeers (ts.map fun t => ({ e := t.e, f := 0, va := t.va, nib := none }, t.p)) s).andThen fun r s =>
          match r with
          | some (i, c) => (syncFault [({ e := i.e, va := i.va, kind := .read, elem := true }, c)] s : Res Flow).asAtomic
          | none =>
            let mine := ts.filter fun t => tierOf t.p.pa ≠ .peer
            let root := seqRoot k s
            let lineOfT (t : Target) (s : State) : Nat := sourceLine k root (t.p.loc root s) s
            (if mine = [] then .ok s.me.pts s else readPieces k (mine.map Target.p) s).andThen fun at_ s =>
              let lines := dedup (mine.map fun t => lineOfT t s)
              (presentAll k lines s).andThen fun _ s =>
                let poi := mine.filter fun t => piecePoison k t.p s
                match poi with
                | x :: _ => .trap 0x0C x.va (setFmask (poi.map Target.e) s)
                | [] =>
                  let s := thread (leaveTag k at_) lines s
                  let v := ts.foldl (fun v t => setBitsAt v (8 * n * t.e) (8 * n) (bytesOf t.p s)) (s.me.vRead d)
                  .ok .next (restart (if ts = [] then s else s.updMe fun q => q.produce (.v d) v))

/-- The types of a linked pair. -/
def linkType (t : Nat) : Bool := decide (t ≤ 14) && t ≠ 8

/-- VGLL (R403). -/
def execVgll (d a : BitVec 5) (e : BitVec 1) (sc : BitVec 3) (o : BitVec 2) (t : BitVec 4) (s : State) : Out :=
  let w := (Instr.vgll d a e sc o t).encodeNat
  issue { word := w, regs := [vr d, gr a, afterV d], typeOk := linkType t.toNat, closes := true, dests := [vr d]
          sources := [(gr a, eb e), (afterV d, false)] ++ s.me.maskSrc }
    (ordered sc.toNat o.toNat (vgll w t.toNat d.toNat a.toNat)) s

/-- The line carries the sequencer's tag. -/
def tagged (k : Agent) (x : Nat) (s : State) : Bool :=
  match s.homes.find x with
  | some h => h.tags.any fun g => g.k = k && g.gen = (s.seq k).gen && g.epoch = (s.seq k).linkEpoch
  | none => false

/-- VSCC ends: its bits, a new epoch, and a clock above every line it owned. -/
def vsccDone (p T : Nat) (acc : List Nat) (s : State) : Res Flow :=
  .ok .next ((restart s).updMe fun q =>
    ({ q with linkEpoch := (q.linkEpoch + 1) % 65536, pts := max q.pts T, commit := none }).produce (.p p) (maskOfElems acc))

/-- VSCC: every line of an active element is owned, elements whose line carries the tag are stored at one T. -/
def vscc (word t p d a : Nat) (s : State) : Res Flow :=
  let k := s.cur
  let n := typeBits t / 8
  (narrowEnough word [8 * n] s).andThen fun _ s =>
    let is := syncItems s.me a (d + 1) n
    match oddest is n with
    | some x => .trap 0x0A x s
    | none =>
      (syncPages is .atomic (fun _ _ => none) s).andThen fun ps s =>
        let root := seqRoot k s
        let ts := (targetsOf ps is .atomic n).filter fun t => tierOf t.p.pa ≠ .peer
        let recs := ts.filterMap fun t => (t.p.loc root s).rec?
        (acquireWrite k ((dedup recs).mergeSort fun a b => decide (a ≤ b)) s).andThen fun _ s =>
          let named (t : Target) : Nat := sourceLine k root (t.p.loc root s) s
          let lines := (dedup (recs ++ ts.map named)).mergeSort fun a b => decide (a ≤ b)
          (acquireWrite k lines s).andThen fun _ s =>
            let floor := writeFloor k lines s
            let ok := ts.filter fun t => tagged k (named t) s
            let es := sortEntries (mergeEntries (ok.map fun t =>
              (t.entry k (s.me.elem d (8 * n) t.e) s, false))).1
            if es = [] then vsccDone p floor [] s
            else
              (prepare k es s).andThen fun r s =>
                match r with
                | .lacks n => .fault (asAtomic (n.faults es s)) (s.updMe fun q => { q with commit := none })
                | .poison va => .trap 0x0C va (s.updMe fun q => { q with commit := none })
                | .ready plans _ =>
                  let T := max (max s.me.pts floor) (setFloor k root false plans es s)
                  storing T (.again k) s fun s => vsccDone p T (ok.map Target.e) (performSet k plans es T s)

/-- VSCC (R403). -/
def execVscc (d a : BitVec 5) (e : BitVec 1) (sc : BitVec 3) (o : BitVec 2) (p : BitVec 3) (t : BitVec 4) (s : State) :
    Out :=
  let w := (Instr.vscc d a e sc o p t).encodeNat
  issue { linkOps w d a e (linkType t.toNat) s with
          regs := [vr d, gr a, afterV d, .p p.toNat], dests := [.p p.toNat] }
    (ordered sc.toNat o.toNat (vscc w t.toNat p.toNat d.toNat a.toNat)) s

/-! ## Stage reductions and the hash table (R404, R405) -/

/-- Elements sent to their banks in ascending order. -/
def sredAll (op t : BitVec 4) (d n : Nat) : List Item → State → State
  | [], s => s
  | i :: is, s =>
    let k := s.cur
    let r := bankOp { die := dieOfSeq k, off := s.me.stageOff i.va, size := n, act := .alu op t
                      s := BitVec.ofNat 64 (s.me.elem d (8 * n) i.e), s2 := 0, clock := s.me.pts, k := k, dest := none } s
    sredAll op t d n is (r.2.2.updMe fun q => { q with pts := max q.pts r.2.1 })

/-- SRED's checks, then its operations. -/
def sred (word : Nat) (op t : BitVec 4) (d a : Nat) (s : State) : Res Flow :=
  let n := typeBits t.toNat / 8
  (narrowEnough word [8 * n] s).andThen fun _ s =>
    let is := syncItems s.me a (d + 1) n
    match oddest is n with
    | some x => .trap 0x0A x s
    | none => match lowest ((is.filter fun i => !s.me.stageOk i.va n).map Item.va) with
      | some x => .trap 0x09 x s
      | none => .ok .next (restart (sredAll op t d n is s))

/-- SRED (R404). -/
def execSred (d a : BitVec 5) (e : BitVec 1) (p t : BitVec 4) (s : State) : Out :=
  let w := (Instr.sred d a e p t).encodeNat
  issue (linkOps w d a e (atomicTypeOk p.toNat t.toNat false) s) (sred w p t d.toNat a.toNat) s

/-- The value a key's slot takes: Op, or Op0 for an empty slot. -/
def haccValue (op : Nat) (empty : Bool) (old x : Nat) : Nat :=
  if empty then (if op = 4 then 1 else x)
  else match op with
    | 0 => (old + x) % 2 ^ 32
    | 1 => (fAdd 13 bankRound old x).1
    | 2 => (fMinMax 13 true false old x).1
    | 3 => (fMinMax 13 false false old x).1
    | _ => (old + 1) % 2 ^ 32

/-- One probe, one operation at the slot's bank: whether it placed the key. -/
def haccProbe (op a key x : Nat) (s : State) : Bool × State :=
  let old := s.stage.read a 8
  let b := bankTick a s.me.pts s
  let s := b.2.updMe fun q => { q with pts := max q.pts b.1 }
  let tag := old % 2 ^ 32
  if tag = key + 1 ∨ tag = 0 then
    let v := haccValue op (tag = 0) (old / 2 ^ 32) x
    (true, wakeBank a { s with stage := s.stage.write a (key + 1 + v * 2 ^ 32) 8 })
  else (false, s)

/-- The probes of one key, from probe `j`. -/
def haccKey (op base L key x : Nat) : (probes : List Nat) → State → Bool × State
  | [], s => (false, s)
  | j :: js, s =>
    let r := haccProbe op (base + 8 * ((key + j) % 2 ^ L)) key x s
    if r.1 then r else haccKey op base L key x js r.2

/-- Keys in element order: the first that finds no place ends it. -/
def haccFrom (op base L d : Nat) (act : Nat) : List Nat → State → Nat × State
  | [], s => (s.me.c.vl, s)
  | e :: es, s =>
    let key := s.me.elem d 32 e
    if !act.testBit e || key = 2 ^ 32 - 1 then haccFrom op base L d act es s
    else
      let r := haccKey op base L key (s.me.elem (d + 1) 32 e) (List.range 16) s
      if r.1 then haccFrom op base L d act es r.2 else (e, r.2)

/-- HACC's checks, then its keys. -/
def hacc (word op d a r : Nat) (s : State) : Res Flow :=
  let q := s.me
  let g := (q.gRead a).toNat
  let off := bitsAt g 0 26
  let L := bitsAt g 32 5
  if q.c.sew ≠ 2 ∨ bitsAt g 26 6 ≠ 0 ∨ bitsAt g 37 27 ≠ 0 ∨ L < 4 ∨ 20 < L then .trap 0x03 word s
  else if off % 8 ≠ 0 then .trap 0x0A off s
  else if q.n.stage < off + 8 * 2 ^ L then .trap 0x09 (max off q.n.stage) s
  else
    let base := stageAt (dieOfSeq s.cur) (q.stageOff off)
    let es := (List.range q.c.vl).filter fun e => decide (q.c.vstart ≤ e)
    let x := haccFrom op base L d (q.active true) es s
    (produceG r (BitVec.ofNat 64 x.1) x.2).andThen fun _ s => .ok .next (restart s)

/-- HACC (R405). -/
def execHacc (d a : BitVec 5) (e : BitVec 1) (r : BitVec 5) (o : BitVec 3) (s : State) : Out :=
  let w := (Instr.hacc d a e r o).encodeNat
  let vals := if o.toNat = 4 then [] else [afterV d]
  issue { word := w, regs := [vr d, gr a] ++ vals ++ [gr r], closes := true, dests := [gr r]
          sources := [(vr d, false), (gr a, eb e)] ++ (vals.map fun v => (v, false)) ++ s.me.maskSrc }
    (hacc w o.toNat d.toNat a.toNat r.toNat) s

/-! ## Waits on memory (R406 to R408, R411) -/

/-- A wait that traps or faults is parked nowhere. -/
def Res.leaving {α : Type} : Res α → Res α
  | .trap c v s => .trap c v (endWait s)
  | .fault es s => .fault es (endWait s)
  | r => r

/-- Conditions of WAITA on n-byte values. -/
def waitHolds (cc n x c : Nat) : Bool :=
  let sg (v : Nat) : Int := if 2 ^ (8 * n - 1) ≤ v then (v : Int) - 2 ^ (8 * n) else v
  match cc with
  | 0 => x = c
  | 1 => x ≠ c
  | 2 => decide (sg x < sg c)
  | 3 => decide (sg c ≤ sg x)
  | 4 => decide (x < c)
  | 5 => decide (c ≤ x)
  | 6 => (x &&& c) ≠ 0
  | _ => (x &&& c) = 0

def deadlinePassed (deadline : Nat) (s : State) : Bool := deadline ≠ 0 && decide (deadline ≤ s.cycle)

/-- The one location a wait reads, as a batch of R398 reports it. -/
def waitRead (tg : Target) (s : State) : Res (Nat × List Nat) :=
  (readWatched [tg] (fun t c s => .fault [scalarFault t.va .read c] s) (askAnew [tg] (beforeReread s))).andThen fun xs s =>
    let x := xs.headD (0, [])
    if x.2.any fun l => homePoison l s then .trap 0x0C tg.va s else .ok x s

/-- The location of a wait. -/
def waitTarget (va at_ n : Nat) (s : State) : Res Target :=
  (seqTranslate s.cur va .read false s).andThen fun l s =>
    .ok { p := { leaf := l, pa := l.pa at_, n := n }, va := at_, e := 0 } s

/-- WAITA: it returns when the condition holds, on any write, at the deadline, or when a reread differs. -/
def waita (cc n d a : Nat) (s : State) : Res Flow :=
  let q := s.me
  let va := (q.gRead a).toNat
  let c := (q.gRead d).toNat % 2 ^ (8 * n)
  let deadline := (q.gRead (d + 1)).toNat
  if va % n ≠ 0 then .trap 0x0A va s
  else
    ((waitTarget va va n s).andThen fun tg s =>
      (waitRead tg s).andThen fun x s =>
        let note := s.me.note.getD {}
        let stop := waitHolds cc n x.1 c || deadlinePassed deadline s || note.step = 1 || note.step = 5
          || (note.step = 6 && note.value ≠ some (BitVec.ofNat 64 x.1))
        if stop then (produceG d (BitVec.ofNat 64 x.1) (endWait s)).andThen fun _ s => .ok .next s
        else if note.step = 6 then .wait (keepPolling deadline s)
        else
          let s := s.updMe fun q => { q with note := some { note with value := some (BitVec.ofNat 64 x.1) } }
          .wait (parkOn x.2 (tierOf tg.p.pa = .peer) deadline s)).leaving

/-- WAITA (R406). -/
def execWaita (d a : BitVec 5) (e : BitVec 1) (sc : BitVec 3) (o : BitVec 2) (c : BitVec 4) (z : BitVec 2) (s : State) :
    Out :=
  issue { word := (Instr.waita d a e sc o c z).encodeNat, regs := [gr d, gr a, afterG d], closes := true, dests := [gr d]
          sources := [(gr d, false), (gr a, eb e), (afterG d, false)] }
    (ordered sc.toNat o.toNat (waita c.toNat (2 ^ z.toNat) d.toNat a.toNat)) s

/-- Conditions of VWAIT on dwords. -/
def vwaitHolds (cc x c : Nat) : Bool :=
  waitHolds (match cc with | 0 => 0 | 1 => 1 | 2 => 3 | 3 => 5 | _ => 6) 8 x c

/-- VWAIT ends: the unsatisfied elements. -/
def vwaitDone (p : Nat) (left : List Nat) (s : State) : Res Flow :=
  .ok .next ((restart (endWait s)).updMe fun q => q.produce (.p p) (maskOfElems left))

/-- The lines that an element of a wait watches, as its record stands now (R406). -/
def watchedLines (t : Target) (s : State) : List Nat :=
  let root := seqRoot s.cur s
  match t.p.loc root s with
  | .line x => [x]
  | .matte r i plate =>
    let d := s.newest r
    [r, if bitsAt (recMask d) i 1 = 1 then lineOf (slotAddr root (recPtr d i) s) else plate]

/-- The elements of a VWAIT that a read covers now: all at first; on a wake those on the lines written; at a reread those
that lie outside the parked lines. -/
def vwaitReads (ts : List Target) (s : State) : List Target :=
  let n := s.me.note.getD {}
  if n.step = 0 then ts
  else if n.step = 1 then ts.filter fun t => (watchedLines t s).any fun x => (n.woke.map Prod.fst).contains x
  else ts.filter fun t => tierOf t.p.pa = .peer || !(watchedLines t s).all fun x => n.parked.contains x

/-- The elements a VWAIT has found satisfied. -/
def satisfied (s : State) : List Nat := ((s.me.note.getD {}).lines.filter fun e => 2 ^ 60 ≤ e.1).map fun e => e.1 - 2 ^ 60

/-- An element stays satisfied. -/
def satisfy (es : List Nat) (s : State) : State :=
  s.updMe fun q =>
    let n := q.note.getD {}
    { q with note := some { n with lines := es.foldl (fun m e => m.set (2 ^ 60 + e) 1) n.lines } }

/-- An unsatisfied element that is not parked at each of its lines rereads every 1,024 cycles, whatever woke the others (R407): one of a
peer or of the host window, or one whose lists were full. -/
def pollRest (left : List Target) (s : State) : State :=
  s.updMe fun q => match q.wait with
    | .park p =>
      let out (t : Target) : Bool := tierOf t.p.pa = .peer || !(watchedLines t s).all fun x => p.lines.contains x
      { q with wait := .park { p with poll := p.poll || left.any out } }
    | _ => q

/-- VWAIT: every element read at one t, the unsatisfied parked until all are satisfied or the deadline. -/
def vwait (word cc p d a : Nat) (s : State) : Res Flow :=
  let q := s.me
  let c := (q.gRead a).toNat
  let deadline := (q.gRead (a + 1)).toNat
  if q.c.sew ≠ 3 then .trap 0x03 word s
  else
    let act := setBits (q.active true) q.c.vl
    let is : List Item := act.map fun e => { e := e, f := 0, va := q.elem d 64 e, nib := none }
    match oddest is 8 with
    | some x => .trap 0x0A x s
    | none =>
      ((syncPages is .read (fun _ _ => none) s).andThen fun ps s =>
        let ts := targetsOf ps is .read 8
        let todo := ts.filter fun t => !(satisfied s).contains t.e
        let note := s.me.note.getD {}
        if note.step ≠ 0 ∧ deadlinePassed deadline s then vwaitDone p (todo.map Target.e) s
        else
          let now := vwaitReads todo s
          let s := askAnew now (beforeReread s)
          (readWatched now (fun t c s => syncFault [({ e := t.e, va := t.va, kind := .read, elem := true }, c)] s) s).andThen
            fun xs s =>
              let seen := now.zip xs
              let poi := seen.filter fun y => y.2.2.any fun l => homePoison l s
              match poi with
              | y :: _ => .trap 0x0C y.1.va (setFmask (poi.map fun y => y.1.e) s)
              | [] =>
                let s := satisfy ((seen.filter fun y => vwaitHolds cc y.2.1 c).map fun y => y.1.e) s
                let left := (ts.filter fun t => !(satisfied s).contains t.e)
                if left = [] ∨ deadlinePassed deadline s then vwaitDone p (left.map Target.e) s
                else
                  let again := seen.filter fun y => !(satisfied s).contains y.1.e
                  let fresh := (dedup (again.flatMap fun y => y.2.2)).filter fun x => !(s.me.note.getD {}).parked.contains x
                  .wait (pollRest left (parkOn fresh false deadline s))).leaving

/-- VWAIT (R408). -/
def execVwait (d a : BitVec 5) (e : BitVec 1) (sc : BitVec 3) (o : BitVec 2) (p c : BitVec 3) (s : State) : Out :=
  let w := (Instr.vwait d a e sc o p c).encodeNat
  issue { word := w, regs := [vr d, gr a, afterG a, .p p.toNat], closes := true, dests := [.p p.toNat]
          sources := [(vr d, false), (gr a, eb e), (afterG a, false)] ++ s.me.maskSrc }
    (ordered sc.toNat o.toNat (vwait w c.toNat p.toNat d.toNat a.toNat)) s

/-! ## Barriers (R409 to R411) -/

/-- The address of a barrier object: a virtual address, or a Stage offset within the slate's bytes. -/
def barrierAt (a : Nat) (stage : Bool) (s : State) : Res Nat :=
  let x := (s.me.gRead a).toNat
  if x % 16 ≠ 0 then .trap 0x0A x s
  else if stage && !s.me.stageOk x 16 then .trap 0x09 x s
  else .ok x s

/-- The scope of an instruction with a level form; none above NLEV. -/
def atLevel (word : Nat) (sc : BitVec 3) (l : BitVec 1) (n : BitVec 3) (body : Nat → State → Res Flow) (s : State) :
    Res Flow :=
  match levelScope l.toNat n.toNat sc.toNat s with
  | none => .trap 0x03 word s
  | some scope => body scope s

/-- An arrival performs now: GEN arrives in g[d]. -/
def arriveNow (d va : Nat) (stage : Bool) (s : State) : Res Flow :=
  let k := s.cur
  let give (gen : Nat) (s : State) : Res Flow :=
    (produceG d (BitVec.ofNat 64 gen) s).andThen fun _ s => .ok .next s
  if stage then
    let r := stageArrive (stageAt (dieOfSeq k) (s.me.stageOff va)) s.me.pts s
    give r.1 (r.2.2.updMe fun q => { q with pts := max q.pts r.2.1 })
  else
    (seqTranslate k va .atomic true s).andThen fun l s =>
      let p : Piece := { leaf := l, pa := l.pa va, n := 16 }
      if tierOf p.pa = .peer then
        (askPeer p.pa (.atomic p.pa 0xF 0 0 0 k) s).andThen fun r s => match r with
          | .ok v => give (v % 2 ^ 32) s
          | .error e => .fault [scalarFault va .atomic e] s
      else if !performsHere p.pa s then .fault [scalarFault va .atomic (0x05, 2)] s
      else
        let tg : Target := { p := p, va := va, e := 0 }
        (prepareTargets [tg] s).andThen fun plans s =>
          let old := tg.old s.cur plans s
          if tg.poisoned s.cur plans s then abandonPlan 0x0C va s
          else if belowLimit d (BitVec.ofNat 64 (barrierStep old).1) s.me then abandonPlan 0x08 (barrierStep old).1 s
          else
            let r := rmwAll (fun _ old => ((barrierStep old).2, 0)) [tg] plans s
            give ((r.1.head?.map fun x => (barrierStep x.2).1).getD 0) r.2.2

/-- An ARRIVE.RLX inside a strip: held to the commit, g[d] empty until then (R205, R410). One that a peer would perform
closes the strip first. -/
def arriveLater (d va : Nat) (stage : Bool) (s : State) : Res Flow :=
  let k := s.cur
  let hold (r : RlxArrive) (s : State) : Res Flow :=
    .ok .next (s.updMe fun q =>
      { q.setFull (.g d) false with strip := q.strip.map fun st => { st with rlx := st.rlx ++ [r] } })
  if stage then
    hold { stage := true, addr := stageAt (dieOfSeq k) (s.me.stageOff va), loc := .line 0, leaf := 0, page := 0, dest := d } s
  else
    (seqTranslate k va .atomic false s).andThen fun l s =>
      let p : Piece := { leaf := l, pa := l.pa va, n := 16 }
      if tierOf p.pa = .peer then (closeFor s).andThen fun _ s => .ok .stay s
      else if !performsHere p.pa s then .fault [scalarFault va .atomic (0x05, 2)] s
      else
        hold { stage := false, addr := p.pa % 128, loc := p.loc (seqRoot k s) s, leaf := if l.dirty then 0 else l.entry,
               page := va / 4096 * 4096, dest := d } (pinLeaf va l s)

/-- ARRIVE (R410). -/
def execArrive (d a : BitVec 5) (e : BitVec 1) (sc : BitVec 3) (o : BitVec 2) (x l : BitVec 1) (n : BitVec 3)
    (g : BitVec 1) (s : State) : Out :=
  let w := (Instr.arrive d a e sc o x l n g).encodeNat
  let held := x = 1 && s.me.strip.isSome
  issue { word := w, regs := [gr d, gr a], sources := [(gr a, eb e)], dests := [gr d], closes := !held }
    (atLevel w sc l n (fun scope s =>
      (barrierAt a.toNat (g = 1) s).andThen fun va s =>
        if held then arriveLater d.toNat va (g = 1) s
        else (released scope o.toNat s).andThen fun _ s => arriveNow d.toNat va (g = 1) s)) s

/-- AWAIT at an object in coherent memory. -/
def awaitCoherent (d va : Nat) (s : State) : Res Flow :=
  let want := (s.me.gRead d).toNat % 2 ^ 32
  ((waitTarget va (va + 8) 4 s).andThen fun tg s =>
    (waitRead tg s).andThen fun x s =>
      if x.1 ≠ want then (produceG d (BitVec.ofNat 64 x.1) (endWait s)).andThen fun _ s => .ok .next s
      else if (s.me.note.getD {}).step = 6 then .wait (keepPolling 0 s)
      else .wait (parkOn x.2 (tierOf tg.p.pa = .peer) 0 (endWait s))).leaving

/-- AWAIT at an object in Stage memory: GEN read at its bank, where the waiter parks. -/
def awaitStage (d off : Nat) (s : State) : Res Flow :=
  let want := (s.me.gRead d).toNat % 2 ^ 32
  stageTrip (off + 8) 4 .load 0 0 0 (fun v s =>
    let gen := v.toNat % 2 ^ 32
    if gen ≠ want then (produceG d (BitVec.ofNat 64 gen) (endWait s)).andThen fun _ s => .ok .next s
    else
      let a := stageAt (dieOfSeq s.cur) (s.me.stageOff (off + 8))
      let s := (endWait s).updMe fun q => { q with note := q.note.map fun n => { n with value := none } }
      if s.stage.read a 4 ≠ want then .wait s else .wait (parkStage a s)) s

/-- AWAIT (R411). -/
def execAwait (d a : BitVec 5) (e : BitVec 1) (sc : BitVec 3) (l : BitVec 1) (n : BitVec 3) (g : BitVec 1) (s : State) :
    Out :=
  let w := (Instr.await d a e sc l n g).encodeNat
  issue { word := w, regs := [gr d, gr a], sources := [(gr d, false), (gr a, eb e)], dests := [gr d], closes := true }
    (atLevel w sc l n (fun scope s =>
      (barrierAt a.toNat (g = 1) s).andThen fun x s =>
        ordered scope 1 (if g = 1 then awaitStage d.toNat x else awaitCoherent d.toNat x) s)) s

/-! ## Phases and fences (R412, R413; 07 R173, R174) -/

/-- The clusters whose slices a scope covers. -/
def inScope (scope : Nat) (k : Agent) (c : Nat) : Bool :=
  if scope ≤ 2 then c = clusterOfSeq k else if scope = 3 then c / 64 = dieOfSeq k else true

/-- Published lines leave the slices in scope. -/
def dropPublished (scope : Nat) (k : Agent) (xs : List Nat) (s : State) : State :=
  { s with copies := s.copies.filter fun e =>
      !(xs.contains (e.1 % 2 ^ 45) && inScope scope k (clusterOfSlice (e.1 / 2 ^ 45)) && !e.2.own) }

/-- The phase lines of a sequencer in this device. -/
def Seq.phaseLines (q : Seq) : List Nat := dedup ((q.phase.filter fun e => !e.loc.isPeer).map fun e => e.loc.order)

/-- ENDPH: the lines are reserved, applied and dropped, then it is a release. -/
def endph (scope : Nat) (s : State) : Res Flow :=
  let k := s.cur
  let q := s.me
  let n := q.note.getD {}
  if q.phase = [] then (release scope s).andThen fun _ s => .ok .next s
  else if n.step = 3 then
    let s := (dropPublished scope k q.phaseLines s).updMe fun q => { q with phase := [] }
    (release scope s).andThen fun _ s => .ok .next s
  else
    (setDirty k (dedup (q.phase.map fun e => e.leaf)) s).andThen fun _ s =>
      let xs := q.phaseLines
      let s := thread (postPeerStore k) (q.phase.filter fun e => e.loc.isPeer) s
      if xs = [] then .wait (s.updMe fun q => { q with note := some { n with step := 3 } })
      else
        let s := s.updMe fun q => { q with note := some { n with step := 1, lines := [] }, wait := .publish }
        .wait (thread (fun x s => s.post (.ppr k q.gen x)) xs s)

/-- ENDPH (R412). -/
def execEndph (sc : BitVec 3) (l : BitVec 1) (n : BitVec 3) (s : State) : Out :=
  let w := (Instr.endph sc l n).encodeNat
  issue { word := w, closes := true } (atLevel w sc l n endph) s

/-- A reply to a reserve: with all in, Tp is above every lease, and the applies go out (07 R174). -/
def phaseReply (k x rts : Nat) (s : State) : State :=
  let q := s.seq k
  match q.wait, q.note with
  | .publish, some n =>
    let lines := n.lines.set x rts
    let xs := q.phaseLines
    if n.step ≠ 1 then s
    else if xs.all fun y => (lines.find y).isSome then
      let Tp := lines.foldl (fun t e => max t (e.2 + 1)) q.pts
      let s := countStore k (s.upd k fun q => { q with pts := Tp, wmax := max q.wmax Tp, note := some { n with step := 2, lines := lines } })
      thread (fun y s =>
        let es := q.phase.filter fun e => e.loc = .line y
        s.post (.ppa k q.gen y Tp (overlay es (.line y) 0) (bufMask es (.line y)))) xs s
    else s.upd k fun q => { q with note := some { n with lines := lines } }
  | _, _ => s

/-- PHASE_RESERVE_REPLY (07 R174). -/
def execPhaseReserveReply (k line rts : Nat) (s : State) : Out := .next (phaseReply k line rts s)

/-- FENCE (R413). -/
def execFence (sc : BitVec 3) (s : State) : Out :=
  issue { word := (Instr.fence sc).encodeNat, closes := true }
    (ordered sc.toNat 3 (fun s => .ok .next s)) s

/-! ## Steps of parked waits -/

def execWaitWake (k line t : Nat) (s : State) : Out := .next (waitWake k line t s)
def execWaitDeadline (k : Agent) (s : State) : Out := .next (waitDeadline k s)
def execWaitPoll (k : Agent) (s : State) : Out := .next (waitPoll k s)
def execTlbinvDone (k : Agent) (s : State) : Out := .next (invalDone k s)

end Sys2Proof.Machine
end

