-- ==== Sys2Proof/Machine/SyncMatte.lean ====
section
/-!
DEFINITION. Matte and plate control (spec/18_sync.md R414 to R418): MPRINT, MPRINT.FORK and MSTRIKE at one timestamp
(spec/04_address_spaces.md R90, R91), MQUERY, MGRANT, PLSHARE and PLDEC (R80, R85). What one of them has done is kept in its
note, so that a wait in its midst repeats nothing: step 20 has popped a frame, 21 pushes slots, 7 follows an invalidation, 24
pushes a frame, 26 is done.
-/
namespace Sys2Proof.Machine

/-! ## Parts -/

/-- Line `x` written into line `y` at T, poison with it; `y` is open. -/
def copyLine (vi T : Nat) (yx : Nat × Nat) (s : State) : State :=
  let bad := lineBad yx.2 s
  let s := homePut yx.1 vi T (lineNow yx.2 s) fullMask s
  if bad then s.updTag yx.1 fun h => { h with code := 15, sects := [], dirty := true } else s

/-- A line read at T. -/
def readAt (T x : Nat) (s : State) : State :=
  match s.home x with
  | some h => s.setHome x { h with rts := max h.rts T }
  | none => s

/-- The note of the current instruction changed. -/
def noteStep (f : Note → Note) (s : State) : State := s.updMe fun q => { q with note := some (f (q.note.getD {})) }

/-- A status arrives in g[d] and the instruction is over. -/
def status (d st : Nat) (s : State) : Res Flow := (produceG d (BitVec.ofNat 64 st) s).andThen fun _ s => .ok .next s

/-- An instruction of this group ends in a fault of its own (R415). -/
def refuse {α : Type} (va cause detail : Nat) (s : State) : Res α := .fault [scalarFault va .atomic (cause, detail)] s

/-- The clock of an instruction that has written at T (07 R157, 05 R110). -/
def wroteAt (T : Nat) (s : State) : State := s.updMe fun q => { q with pts := max q.pts T, wmax := max q.wmax T }

/-- Slots pushed one after the other, in line order (R462). One whose frame is the interface's no more goes nowhere (R78). -/
def pushSlots (root : Nat) : List (Nat × Nat) → State → Res Unit
  | [], s => .ok () s
  | x :: xs, s =>
    (poolPush root s.me.vi s.me.pts x.2 (.again s.cur) s).andThen fun r s =>
      let s := match r with | .ok T => wroteAt T s | .error _ => s
      pushSlots root xs (noteStep (fun n => { n with lines := n.lines.erase x.1 }) s)

/-- The reference count of a plate falls; at zero its entry is invalid (R80). The frame to free, plus 1, or 0. -/
def dropPlate (ix : Nat) (s : State) : Res Nat :=
  let k := s.cur
  let a := (s.vi s.me.vi).pltbase.toNat + 16 * ix
  (homeAtomic (lineOf a) s.me.pts s.me.vi (.again k) (fun d =>
    let n := lineField d (a % 128 + 8) 2
    let v := lineField d (a % 128 + 5) 1
    if n = 1 then (lineWith (a % 128 + 8) 0 ||| lineWith (a % 128 + 5) (v / 2 * 2), maskOf (a % 128 + 8) 2 ||| maskOf (a % 128 + 5) 1)
    else (lineWith (a % 128 + 8) (n - 1), maskOf (a % 128 + 8) 2)) s).andThen fun r s =>
      let s := wroteAt r.2 s
      let n := lineField r.1 (a % 128 + 8) 2
      .ok (if n = 1 then lineField r.1 (a % 128) 8 % 2 ^ 40 + 1 else 0) s

/-- What follows an invalidation: the old plate's count falls (`time` holds its index plus 1), at zero its frame goes onto
the list of the space with root `root`, and the status is 0. -/
def plateLeft (root d : Nat) (s : State) : Res Flow :=
  let n := s.me.note.getD {}
  (if n.step = 7 then
    if n.time = 0 then .ok () (noteStep (fun n => { n with step := 26 }) s)
    else (dropPlate (n.time - 1) s).andThen fun f s =>
      .ok () (noteStep (fun n => { n with time := f, step := if f = 0 then 26 else 24 }) s)
   else .ok () s).andThen fun _ s =>
    let n := s.me.note.getD {}
    (if n.step = 24 then
      (platePush root s.me.vi s.me.pts (4096 * (n.time - 1)) (.again s.cur) s).andThen fun r s =>
        .ok () (noteStep (fun n => { n with step := 26 }) (match r with | .ok T => wroteAt T s | .error _ => s))
     else .ok () s).andThen fun _ s => status d 0 s

/-! ## Folds (R91, R415) -/

inductive Fold where
  | print | fork | strike
  deriving DecidableEq, Repr

/-- The owner of the plate under a leaf: its entry's, or the context that maps it (04 R79). -/
def plateOwner (l : Leaf) (s : State) : Nat :=
  if l.sh then s.peekField ((s.vi s.me.vi).pltbase.toNat + 16 * l.plix + 10) 1 else s.me.cid

/-- Masked lines with their slot pointers. -/
def maskedLines (r : Line) : List (Nat × Nat) :=
  ((List.range 32).filter fun i => bitsAt (recMask r) i 1 = 1).map fun i => (i, recPtr r i)

/-- The cleared mask and pointers, and for a fork the plate frame. -/
def clearedRecord (r : Line) (frame : Option Nat) : Line × LineMask :=
  let m : LineMask := maskOf 0 4 ||| maskOf 16 96
  match frame with
  | none => (0, m)
  | some f => (lineWith 8 (setBitsAt (lineField r 8 8) 0 40 f), m ||| maskOf 8 8)

/-- The leaf of a fork's page: the new frame, not shared, not locked, no plate index. -/
def forkLeaf (l : Leaf) (frame : Nat) : DWord × DWord :=
  (BitVec.ofNat 64 (setBitsAt (setBitsAt (setBitsAt l.w0.toNat 12 40 frame) 52 1 0) 8 1 0),
   BitVec.ofNat 64 (l.w1.toNat % 2 ^ 40))

/-- The fold at T = max(pts, rts of the record + 1, rts of every plate line written + 1): data, record, and the leaf of a
fork; slots are left to push. -/
def foldPerform (f : Fold) (va : Nat) (l : Leaf) (frame : Nat) (s : State) : Res Unit :=
  let k := s.cur
  let root := seqRoot k s
  let rec_ := lineOf (recordAddr root l.mid s)
  let r := s.newest rec_
  let ms := maskedLines r
  let plate := lineOf l.base
  let slot (p : Nat) : Nat := lineOf (slotAddr root p s)
  let moves : List (Nat × Nat) := match f with
    | .strike => []
    | .print => ms.map fun m => (plate + m.1, slot m.2)
    | .fork => (List.range 32).map fun i => (32 * frame + i, match ms.find? fun m => m.1 = i with
      | some m => slot m.2
      | none => plate + i)
  let opens : List (Use × Nat) := [(.write, rec_)] ++ moves.map (fun m => (Use.write, m.1))
    ++ (moves.filter fun m => m.2 ≠ m.1).map (fun m => (Use.peek, m.2))
    ++ (if f = .fork then [(Use.write, lineOf l.entry)] else [])
  match ms.findSome? fun m => slotFault s.me.vi root m.2 s with
  | some d => refuse va 0x05 d s
  | none =>
    (openAll k opens s).andThen fun _ s =>
      let T := moves.foldl (fun t m => max t (homeRts m.1 s + 1)) (max s.me.pts (homeRts rec_ s + 1))
      storing T (.again k) s fun s =>
        let vi := s.me.vi
        let s := thread (copyLine vi T) moves s
        let c := clearedRecord r (if f = .fork then some frame else none)
        let s := thread (readAt T) (moves.map Prod.snd) (homePut rec_ vi T c.1 c.2 s)
        let s := if f = .fork then
            let w := forkLeaf l frame
            homePut (lineOf l.entry) vi T (lineWith (l.entry % 128) (w.1.toNat + w.2.toNat * 2 ^ 64)) (maskOf (l.entry % 128) 16) s
          else s
        let left := match f with
          | .print => if l.dirty then 0 else l.entry
          | .fork => if l.sh then l.plix + 1 else 0
          | .strike => 0
        .ok () (noteStep (fun n => { n with step := 21, lines := ms, time := left }) (wroteAt T s))

/-- The judgements of R415 in order; what is left is done by `foldPerform`, a fork's frame popped first. Status 0 that may not go to
g[d] traps before anything is done (11 R270). -/
def foldJudge (f : Fold) (d va : Nat) (s : State) : Res (Option Flow) :=
  let k := s.cur
  let stop (r : Res Flow) : Res (Option Flow) := r.andThen fun f s => .ok (some f) s
  (seqTranslate k va .write false s).asAtomic.andThen fun l s =>
    if !l.mv then stop (status d 1 s)
    else if tierOf l.base = .peer then refuse va 0x05 3 s
    else if f = .print ∧ plateOwner l s ≠ s.me.cid then refuse va 0x02 1 s
    else if f = .print ∧ l.locked s.me.vi s ∧ !s.me.n.priv then refuse va 0x02 2 s
    else
      let root := seqRoot k s
      let rec_ := lineOf (recordAddr root l.mid s)
      (openAll k [(.write, rec_)] s).andThen fun _ s =>
        if lineBad rec_ s then .trap 0x0C va s
        else if recMask (s.newest rec_) = 0 ∧ (s.me.note.getD {}).step ≠ 20 then stop (status d 2 s)
        else if belowLimit d 0 s.me then .trap 0x08 0 s
        else if f = .fork then
          let n := s.me.note.getD {}
          if n.step = 20 then (foldPerform f va l (n.time) s).andThen fun _ s => .ok none s
          else
            (platePop root s.me.vi s.me.pts (.again k) s).andThen fun p s =>
              match p with
              | .empty => refuse va 0x0A 0 s
              | .bad tier => refuse va 0x05 tier s
              | .got a T =>
                let s := noteStep (fun n => { n with step := 20, time := frameOf a }) (s.updMe fun q => { q with pts := max q.pts T })
                (foldPerform f va l (frameOf a) s).andThen fun _ s => .ok none s
        else (foldPerform f va l 0 s).andThen fun _ s => .ok none s

/-- The rest of a fold: pushes, then the D bit of a print, or a fork's invalidation and its old plate. -/
def foldRest (f : Fold) (d va : Nat) (s : State) : Res Flow :=
  let k := s.cur
  let root := seqRoot k s
  let n := s.me.note.getD {}
  if n.step = 21 then
    (pushSlots root n.lines s).andThen fun _ s => match f with
      | .strike => status d 0 s
      | .print => (setDirty k [n.time] s).andThen fun _ s => status d 0 s
      | .fork => .wait (startInval k 0 s.me.vi s.me.cid va (noteStep (fun n => { n with step := 22 }) s))
  else plateLeft root d s

def fold (f : Fold) (d a : Nat) (s : State) : Res Flow :=
  let va := (s.me.gRead a).toNat
  let n := s.me.note.getD {}
  if n.step = 0 ∨ n.step = 20 then
    (foldJudge f d va s).andThen fun r s => match r with
      | some fl => .ok fl s
      | none => foldRest f d va s
  else foldRest f d va s

/-- The operands of a fold. -/
def foldOps (w : Nat) (d a : BitVec 5) (e : BitVec 1) : Operands := (ops2 w (gr d) (gr a) e true).closing

/-- MPRINT (R415). -/
def execMprint (d a : BitVec 5) (e : BitVec 1) (s : State) : Out :=
  issue (foldOps (Instr.mprint d a e).encodeNat d a e) (fold .print d.toNat a.toNat) s

/-- MPRINT.FORK (R415). -/
def execMprintFork (d a : BitVec 5) (e : BitVec 1) (s : State) : Out :=
  issue (foldOps (Instr.mprintFork d a e).encodeNat d a e) (fold .fork d.toNat a.toNat) s

/-- MSTRIKE (R415). -/
def execMstrike (d a : BitVec 5) (e : BitVec 1) (s : State) : Out :=
  issue (foldOps (Instr.mstrike d a e).encodeNat d a e) (fold .strike d.toNat a.toNat) s

/-! ## MQUERY (R416) -/

/-- The word that MQUERY writes for a leaf and the mask of its record. -/
def queryWord (l : Leaf) (mask : Nat) : Nat :=
  (if l.mv then 2 ^ 63 else 0) + (if l.sh then 2 ^ 62 else 0) + (if l.lk then 2 ^ 61 else 0) + l.mid * 2 ^ 32
    + (if l.mv then mask else 0)

/-- The leaf's entry and the record read as one load. -/
def mquery (d a : Nat) (s : State) : Res Flow :=
  let k := s.cur
  let va := (s.me.gRead a).toNat
  (translate (seqAccessor k s) va .read false s.me.pts s).andThen fun r s =>
    let s := s.updMe fun q => { q with pts := max q.pts r.2 }
    match r.1 with
    | .error (0x01, _) => status d 0 s
    | .error e => .fault [scalarFault va .read e] s
    | .ok l =>
      let plain : Leaf := { entry := 0, level := 0, base := 0, w0 := 0, w1 := 0 }
      let pe : Piece := { leaf := plain, pa := l.entry, n := 16 }
      let pr : Piece := { leaf := plain, pa := recordAddr (seqRoot k s) l.mid s, n := 128 }
      (readPieces k (pe :: if l.mv then [pr] else []) s).andThen fun _ s =>
        if piecePoison k pe s || (l.mv && piecePoison k pr s) then .trap 0x0C va s
        else
          let x := pieceValue k pe s
          let l2 := { l with w0 := BitVec.ofNat 64 x, w1 := BitVec.ofNat 64 (x / 2 ^ 64) }
          status d (queryWord l2 (if l.mv then pieceValue k pr s % 2 ^ 32 else 0)) s

/-- MQUERY (R416). -/
def execMquery (d a : BitVec 5) (e : BitVec 1) (s : State) : Out :=
  issue (ops2 (Instr.mquery d a e).encodeNat (gr d) (gr a) e true) (mquery d.toNat a.toNat) s

/-! ## MGRANT (R417) -/

/-- The context an operand names: 0 the issuer's own. -/
def namedContext (v : DWord) (s : State) : Option Nat :=
  let c := if v = 0 then s.me.cid else v.toNat
  if ((s.vi s.me.vi).ctxs.find c).isSome then some c else none

/-- The slots of pool frame `n` that go onto the free list (R85). -/
def grantedSlots (n : Nat) : List Nat := (List.range 32).filter fun j => !(n = 0 && j = 0)

/-- The slots of pool frame `n` linked at T, the last to `next`. -/
def linkSlots (vi T frame n next : Nat) (s : State) : State :=
  thread (fun j s => homePut (lineOf frame + j) vi T (lineWith 0 (if j = 31 then next else 32 * n + j + 1)) (maskOf 0 4) s)
    (grantedSlots n) s

/-- One frame into a context's pool, in one step at the home of its anchor line, at one T above the leases of the lines it writes. A
pool frame table that is not the interface's is refused (R78; log 59). -/
def mgrant (d a : Nat) (s : State) : Res Flow :=
  let k := s.cur
  let q := s.me
  let frame := (q.gRead a).toNat / 4096 * 4096
  match namedContext (q.gRead d) s with
  | none => status d 3 s
  | some cid =>
    let root := rootOf q.vi cid s
    let n := s.peekField (root + 0x2018) 4
    let pft := pftBase root s + 8 * n
    if !isMemory frame ∨ s.frameOwner (frameOf frame) ≠ q.vi then status d 1 s
    else if 2 ^ 19 ≤ n then status d 2 s
    else if !structOk q.vi pft s then refuse frame 0x05 (tierOf pft).code s
    else
      let slots := (grantedSlots n).map fun j => lineOf frame + j
      let lines := [poolLine root, lineOf (root + 0x2018), lineOf pft] ++ slots
      (openAll k (lines.map fun x => (Use.write, x)) s).andThen fun _ s =>
        let line := s.newest (poolLine root)
        let T := lines.foldl (fun t x => max t (homeRts x s + 1)) s.me.pts
        let first := if n = 0 then 1 else 0
        let r := poolFields (32 * n + first) (lineField line 4 4 + 32 - first) (lineField line 8 4)
        storing T (.again k) s fun s =>
          let s := linkSlots q.vi T frame n (lineField line 0 3) (homePut (poolLine root) q.vi T r.1 r.2 s)
          let s := homePut (lineOf pft) q.vi T (lineWith (pft % 128) frame) (maskOf (pft % 128) 8) s
          let s := homePut (lineOf (root + 0x2018)) q.vi T (lineWith ((root + 0x2018) % 128) (n + 1)) (maskOf ((root + 0x2018) % 128) 4) s
          status d 0 (wroteAt T s)

/-- MGRANT (R417). -/
def execMgrant (d a : BitVec 5) (e : BitVec 1) (s : State) : Out :=
  issue { word := (Instr.mgrant d a e).encodeNat, priv := true, regs := [gr d, gr a], closes := true
          sources := [(gr d, false), (gr a, eb e)], dests := [gr d] }
    (mgrant d.toNat a.toNat) s

/-! ## PLSHARE and PLDEC (R418) -/

/-- The plate-table entry of an index: V and REFCNT; invalid at or above PLTSIZE (04 R79). -/
def plateState (ix : Nat) (s : State) : Bool × Nat :=
  match plateEntry s.me.vi ix s with
  | none => (false, 0)
  | some e => (bitsAt e 40 1 = 1, s.peekField ((s.vi s.me.vi).pltbase.toNat + 16 * ix + 8) 2)

/-- The leaf that PLSHARE writes: the source's plate and format, the destination's rights and matte. -/
def sharedLeaf (src dst : Pte) : Nat :=
  let c0 := 2 ^ 52 + (2 ^ 40 - 1) * 2 ^ 12 + 0xF80
  let c1 := (2 ^ 24 - 1) * 2 ^ 40 + 0x7F * 2 ^ 25
  ((src.w0.toNat &&& c0) ||| (dst.w0.toNat &&& 0x1C) ||| 3)
    + ((src.w1.toNat &&& c1) ||| (dst.w1.toNat % 2 ^ 25)) * 2 ^ 64

/-- PLSHARE. -/
def plshare (d a r : Nat) (s : State) : Res Flow :=
  let k := s.cur
  let q := s.me
  let from_ := (q.gRead a).toNat
  let to_ := (q.gRead d).toNat
  match namedContext (q.gRead r) s with
  | none => status r 4 s
  | some cid =>
    (pteOf q.cid from_ s).andThen fun x s => (pteOf cid to_ s).andThen fun y s =>
      match x, y with
      | .error e, _ => refuse from_ e.1 e.2 s
      | _, .error e => refuse to_ e.1 e.2 s
      | .ok (some x), .ok (some y) =>
        if !x.shared || y.w0.getLsbD 0 then status r 3 s
        else
          let ix := x.leaf.plix
          let p := plateState ix s
          if !p.1 ∨ p.2 = 0 ∨ p.2 = 65535 then status r 1 s
          else
            let ea := (s.vi q.vi).pltbase.toNat + 16 * ix
            (openAll k [(.write, lineOf ea), (.write, lineOf y.entry)] s).andThen fun _ s =>
              let T := max s.me.pts (max (homeRts (lineOf ea) s) (homeRts (lineOf y.entry) s) + 1)
              storing T (.again k) s fun s =>
                let s := homePut (lineOf ea) q.vi T (lineWith (ea % 128 + 8) (p.2 + 1)) (maskOf (ea % 128 + 8) 2) s
                let s := homePut (lineOf y.entry) q.vi T (lineWith (y.entry % 128) (sharedLeaf x y)) (maskOf (y.entry % 128) 16) s
                status r 0 (wroteAt T s)
      | _, _ => status r 3 s

/-- PLSHARE (R418). -/
def execPlshare (d a : BitVec 5) (e : BitVec 1) (r : BitVec 5) (s : State) : Out :=
  issue { word := (Instr.plshare d a e r).encodeNat, regs := [gr d, gr a, gr r], closes := true, dests := [gr r]
          sources := [(gr d, false), (gr a, eb e), (gr r, false)] }
    (plshare d.toNat a.toNat r.toNat) s

/-- The matte mask of a mapping, 0 without a matte. -/
def mappedMask (cid : Nat) (p : Pte) (s : State) : Nat :=
  if p.leaf.mv then recMask (s.newest (lineOf (recordAddr (rootOf s.me.vi cid s) p.leaf.mid s))) else 0

/-- PLDEC: the mapping goes, its translations are invalidated, then the count falls. -/
def pldec (a r : Nat) (s : State) : Res Flow :=
  let k := s.cur
  let q := s.me
  let va := (q.gRead a).toNat
  match namedContext (q.gRead r) s with
  | none => status r 4 s
  | some cid =>
    if (q.note.getD {}).step ≠ 0 then plateLeft (rootOf q.vi cid s) r s
    else
      (pteOf cid va s).andThen fun x s =>
        match x with
        | .error e => refuse va e.1 e.2 s
        | .ok none => status r 3 s
        | .ok (some x) =>
          let ix := x.leaf.plix
          let p := plateState ix s
          if !x.shared then status r 3 s
          else if !p.1 ∨ p.2 = 0 then status r 1 s
          else if mappedMask cid x s ≠ 0 then status r 2 s
          else if belowLimit r 0 q then .trap 0x08 0 s
          else
            (homeAtomic (lineOf x.entry) s.me.pts q.vi (.again k)
              (fun l => (lineWith (x.entry % 128) (lineField l (x.entry % 128) 1 / 2 * 2), maskOf (x.entry % 128) 1)) s).andThen
              fun t s =>
                let s := wroteAt t.2 s
                .wait (startInval k 0 q.vi cid va (noteStep (fun n => { n with step := 6, time := ix + 1 }) s))

/-- PLDEC (R418). -/
def execPldec (a : BitVec 5) (e : BitVec 1) (r : BitVec 5) (s : State) : Out :=
  issue { word := (Instr.pldec a e r).encodeNat, regs := [gr a, gr r], closes := true, dests := [gr r]
          sources := [(gr a, eb e), (gr r, false)] }
    (pldec a.toNat r.toNat) s

end Sys2Proof.Machine
end

