-- ==== Sys2Proof/Machine/EngineOps.lean ====
section
/-!
DEFINITION. What engine commands share (spec/06_clusters.md R144 to R147, spec/19_engines_system.md): the fields of an entry
and its address fields (R422, R423), reads and writes of an engine as an agent with a logical clock (spec/07_coherence.md
R155, R157; spec/04_address_spaces.md R92), ownership of a segment's lines and their release, and segments themselves (R145).
-/
namespace Sys2Proof.Machine

/-! ## Commands -/

/-- `n` bytes of a command's entry from byte `off`. -/
def Cmd.field (x : Cmd) (off n : Nat) : Nat := bitsAt x.entry (8 * off) (8 * n)

/-- FLAGS (R422): 0 PERS, 1 WAIT, 2 ORD, 3 SSTG, 4 DSTG. -/
def Cmd.flag (x : Cmd) (i : Nat) : Bool := bitsAt x.entry (72 + i) 1 = 1

/-- The agent number of an engine. -/
def engAgent (die eng : Nat) : Agent := 8192 + 8 * die + eng

/-- An engine as the owner of lines. -/
def engOwner (c : ChainId) : Owner := .engine c.die c.eng

/-- The lease of an engine's reads (07 R152; log 39). -/
def engLease : Nat := 16

/-- The bytes of one element of a reduction or of a combined row. -/
def Cmd.width (x : Cmd) (off : Nat) : Nat := typeBits (x.field off 1) / 8

/-- The answer of an engine's access: a value, or the fault that stops its stream. -/
abbrev Eng (α : Type) := Res (Except EngFault α)

/-- Sequencing of engine accesses. -/
def Eng.bind {α β : Type} (r : Eng α) (f : α → State → Eng β) : Eng β :=
  r.andThen fun x s => match x with
    | .ok a => f a s
    | .error e => .ok (.error e) s

def engOk {α : Type} (a : α) (s : State) : Eng α := .ok (.ok a) s
def engFail {α : Type} (cause va access detail : Nat) (s : State) : Eng α :=
  .ok (.error { cause := cause, va := va % 2 ^ 57 / 4096 * 4096, access := access, detail := detail }) s

/-- The clock of the command that runs follows an access. -/
def engTick (c : ChainId) (t : Nat) (s : State) : State := s.updCmd c fun x => { x with clock := max x.clock t }

/-- A write of the command at T: its clock becomes T. -/
def engWrote (c : ChainId) (T : Nat) (s : State) : State :=
  s.updCmd c fun x => { x with clock := max x.clock T, wmax := max x.wmax T }

def engClock (c : ChainId) (s : State) : Nat := match s.headCmd c with | some x => x.clock | none => 0

/-! ## Addresses (R423) -/

/-- Where an address of a command lies: behind a leaf, in a peer, in Stage memory of a die. -/
inductive EngPlace where
  | mem (l : Leaf) (va : Nat)
  | peer (pa va : Nat)
  | stage (die off : Nat)

/-- The engine as an accessor of the issuing context (R422; 04 R71). -/
def engAccessor (c : ChainId) (s : State) : Accessor :=
  let x := s.headCmd c
  { vi := c.vi, cid := c.cid, priv := match x with | some x => x.priv | none => false, w := .eng c, core := 2048,
    die := c.die, pins := match x with | some x => x.pins | none => []
    stat := c.vi }

/-- Interface `vi` may name peer addresses (R424). -/
def peerEnabled (vi : Nat) (s : State) : Bool :=
  if vi < 64 then s.mgmt.peeren0.getLsbD vi else s.mgmt.peeren1.getLsbD (vi - 64)

/-- The place of a peer field. -/
def peerField (vi a : Nat) (kind : Access) (s : State) : Eng EngPlace :=
  let pa := 2 ^ 51 + a % 2 ^ 51
  if !peerEnabled vi s then engFail 0x0D a kind.code (peerId pa) s
  else if !reachable pa s then engFail 0x0C a kind.code (peerId pa) s
  else engOk (.peer pa a) s

/-- The place of a virtual address, its page pinned until its bytes have performed (04 R95). -/
def engVirtual (c : ChainId) (a : Nat) (kind : Access) (s : State) : Eng EngPlace :=
  (translate (engAccessor c s) a kind kind.writes (engClock c s) s).andThen fun r s =>
    let s := engTick c r.2 s
    match r.1 with
    | .error e => engFail e.1 a kind.code e.2 s
    | .ok l =>
      let pa := l.pa a
      let e := TlbEntry.of (engAccessor c s) a l
      let s := s.updCmd c fun x => { x with pins := if e ∈ x.pins then x.pins else x.pins ++ [e] }
      if tierOf pa = .peer then
        if reachable pa s then engOk (.peer pa a) s else engFail 0x0C a kind.code (peerId pa) s
      else engOk (.mem l a) s

/-- The place of `n` bytes of Stage memory: an offset in the slate's reservation on a die (R423). -/
def engStage (c : ChainId) (die off n : Nat) (kind : Access) (s : State) : Eng EngPlace :=
  let sl := (s.headCmd c).bind fun x => s.slates.find x.slot
  match sl with
  | none => engFail 0x05 off kind.code 3 s
  | some sl => match sl.resv.find die with
    | none => engFail 0x05 off kind.code 3 s
    | some base => if off + n ≤ sl.stage then engOk (.stage die (base + off)) s else engFail 0x05 off kind.code 3 s

/-- The place of an address of a command's field: Stage memory of a die, a peer (bit 63), or a virtual address. -/
def engPlace (c : ChainId) (stage : Option Nat) (a n : Nat) (kind : Access) (s : State) : Eng EngPlace :=
  match stage with
  | some d => engStage c d a n kind s
  | none => if 2 ^ 63 ≤ a then peerField c.vi a kind s else engVirtual c a kind s

/-! ## Peers -/

/-- One request of an engine to a peer; an engine has one outstanding (log 40). -/
def engAsk (c : ChainId) (pa n va : Nat) (s : State) : Eng Unit :=
  match s.headCmd c with
  | none => .wait s
  | some x =>
    if (x.got.find pa).isSome then engOk () s
    else if x.refused ≠ 0 then
      engFail x.refused va 0 (peerId pa) (s.updCmd c fun x => { x with refused := 0, asked := 0 })
    else if x.asked ≠ 0 then .wait s
    else if s.chains.any fun e => e.1 % 32 = chainKey c % 32 && e.2.cmds.any fun y => y.asked ≠ 0 then .wait s
    else if !reachable pa s then engFail 0x0C va 0 (peerId pa) s
    else
      let s := s.updCmd c fun x => { x with asked := pa + 1 }
      .wait (sendPeer (.read pa n (engAgent c.die c.eng)) s)

def engAskAll (c : ChainId) (va : Nat) : List (Nat × Nat) → State → Eng Unit
  | [], s => engOk () s
  | p :: ps, s => Eng.bind (engAsk c p.1 p.2 va s) fun _ s => engAskAll c va ps s

/-- A posted store of an engine (02 R47). -/
def engPost (c : ChainId) (p : PeerStore) (s : State) : State :=
  sendPeer (.write p.addr p.bytes p.mask (engAgent c.die c.eng))
    { s with engPeerOut := s.engPeerOut.modify (8 * c.die + c.eng) [] (· ++ [p]) }

def PeerStore.ofChain (p : PeerStore) (c : ChainId) : Bool := p.vi = c.vi && p.cid = c.cid

/-- The stores of a chain that are out to peers, and those that were refused to it. -/
def engStoresOut (c : ChainId) (s : State) : List PeerStore :=
  (s.engPeerOut.getD (8 * c.die + c.eng) []).filter fun p => p.ofChain c
def engRefused (c : ChainId) (s : State) : List (PeerStore × Nat) :=
  (s.engPeerBad.getD (8 * c.die + c.eng) []).filter fun p => p.1.ofChain c

/-- The refused stores of a chain are kept no more. -/
def engDropRefused (c : ChainId) (s : State) : State :=
  { s with engPeerBad := s.engPeerBad.modify (8 * c.die + c.eng) [] fun ps => ps.filter fun p => !p.1.ofChain c }

/-! ## Reading (R155, 04 R87) -/

/-- A line as the engine reads it: data, write time, poison; its own copy, or at the home. -/
def engOpen (c : ChainId) (x : Nat) (s : State) : Res (Line × Nat × Bool) :=
  match s.engCopy c.die c.eng x with
  | some p => .ok (p.data, p.wts, p.poison) s
  | none => (openLine .lease x c.vi (.eng c) false s).andThen fun h s => .ok (h.data, h.wts, h.code = 15) s

/-- The read takes place at t: in the engine's own copy, or with a lease at the home. -/
def engReadAt (c : ChainId) (x t : Nat) (s : State) : State :=
  match s.engCopy c.die c.eng x, s.home x with
  | some p, _ => s.setEngCopy c.die c.eng x { p with rts := max p.rts t }
  | none, some h => s.setHome x { h with rts := max h.rts (t + engLease) }
  | none, none => s

/-- The line that supplies an address behind a leaf: its own, or through a matte the slot of line i where the record, which has
been opened, names one, and the plate line where it names none (04 R87). -/
def engSource (c : ChainId) (l : Leaf) (va : Nat) (s : State) : Res Nat :=
  let x := lineOf (l.pa va)
  if l.mv then
    let root := rootOf c.vi c.cid s
    (engOpen c (lineOf (recordAddr root l.mid s)) s).andThen fun rec s =>
      .ok (if bitsAt (recMask rec.1) (x % 32) 1 = 1 then lineOf (slotAddr root (recPtr rec.1 (x % 32)) s) else x) s
  else .ok x s

/-- `n` bytes of a place, within one line. -/
def engRead (c : ChainId) (p : EngPlace) (n : Nat) (s : State) : Eng Nat :=
  match p with
  | .stage d off =>
    let r := stageRead d off n (engClock c s) s
    engOk r.1 (engTick c r.2.1 r.2.2)
  | .peer pa va =>
    Eng.bind (engAskAll c va (peerParts pa n) s) fun _ s =>
      engOk (peerJoin pa (match s.headCmd c with | some x => x.got | none => []) (peerParts pa n)) s
  | .mem l va =>
    (engSource c l va s).andThen fun x s =>
      let recs := if l.mv then [lineOf (recordAddr (rootOf c.vi c.cid s) l.mid s)] else []
      let rec_ : Res (Nat × Bool) := match recs with
        | [] => .ok (0, false) s
        | r :: _ => (engOpen c r s).andThen fun d s => .ok (d.2.1, d.2.2) s
      rec_.andThen fun r s =>
        (engOpen c x s).andThen fun d s =>
          let t := max (engClock c s) (max r.1 d.2.1)
          if r.2 || d.2.2 then engFail 0x0E va 0 0 s
          else storing (t + engLease) (.eng c) s fun s =>
            engOk (lineField d.1 (l.pa va % 128) n) (engTick c t (thread (fun y s => engReadAt c y t s) (recs ++ [x]) s))

/-- `n` bytes of a field's address, across lines. -/
def engBytes (c : ChainId) (stage : Option Nat) : (lines a n : Nat) → State → Eng Nat
  | 0, _, _, s => engOk 0 s
  | lines + 1, a, n, s =>
    if n = 0 then engOk 0 s
    else
      let m := min n (128 - a % 128)
      Eng.bind (engPlace c stage a m .read s) fun p s =>
        Eng.bind (engRead c p m s) fun v s =>
          Eng.bind (engBytes c stage lines ((a + m) % 2 ^ 64) (n - m) s) fun w s => engOk (v + w <<< (8 * m)) s

/-! ## Ownership (R145, R146) -/

/-- The engine takes a line for writing. -/
def engOwn (c : ChainId) (x : Nat) (s : State) : Res Unit :=
  if (s.engCopy c.die c.eng x).isSome then .ok () s
  else
    (openLine .write x c.vi (.eng c) false s).andThen fun h s =>
      let ver := (h.ver + 1) % 256
      let s := s.setHome x { h with ver := ver, own := some (engOwner c), omode := false, recalled := false, lru := 0, gvi := c.vi }
      let s := s.setEngCopy c.die c.eng x
        { data := h.data, wts := h.wts, rts := h.rts, own := true, ver := ver, poison := h.code = 15 }
      .ok () (s.updCmd c fun y => { y with owned := y.owned ++ [x] })

/-- The engine no longer holds a line. -/
def engForget (c : ChainId) (x : Nat) (s : State) : State :=
  (s.dropEngCopy c.die c.eng x).updCmd c fun y => { y with owned := y.owned.filter (· ≠ x) }

/-- A line the engine will not write goes back as it was (R146). -/
def engRelease (c : ChainId) (x : Nat) (s : State) : State :=
  match s.engCopy c.die c.eng x with
  | none => s
  | some p =>
    let o := engOwner c
    (engForget c x s).post (.rel o (ownerGen o s) x p.ver p.wts p.rts)

/-! ## Writing (R157, 04 R88, R92) -/

/-- Bytes of an owned line written at T = max(clock, rts + 1), and the line given back with its data; a poisoned one takes only all
its bytes (08 R186). -/
def engWriteOwned (c : ChainId) (x : Nat) (bytes : Line) (mask : LineMask) (s : State) : Res Unit :=
  match s.engCopy c.die c.eng x with
  | none => .ok () s
  | some p =>
    if p.poison ∧ mask ≠ fullMask then .ok () (engRelease c x (countStat c.vi 0x60 s))
    else
      let T := max (engClock c s) (p.rts + 1)
      storing T (.eng c) s fun s =>
        let o := engOwner c
        let s := engWrote c T (performed x T s)
        let s := if tierOf (128 * x) = .host then hostStore c.vi x bytes mask s else s
        .ok () ((engForget c x s).post
          (.wb o (ownerGen o s) x p.ver T T (mergeLine p.data bytes mask) (p.mask ||| mask) false))

/-- A line written by an engine, taken first where it does not own it. -/
def engPut (c : ChainId) (x : Nat) (bytes : Line) (mask : LineMask) (s : State) : Res Unit :=
  (engOwn c x s).andThen fun _ s => engWriteOwned c x bytes mask s

/-- A line of a phase page, which has no owner (07 R173), written at its home. -/
def engPutPhase (c : ChainId) (x : Nat) (bytes : Line) (mask : LineMask) (s : State) : Res Unit :=
  (openLine .write x c.vi (.eng c) false s).andThen fun h s =>
    let T := max (engClock c s) (h.rts + 1)
    (homeWrite x c.vi T bytes mask (.eng c) s).andThen fun _ s =>
      .ok () (engWrote c T (if tierOf (128 * x) = .host then hostStore c.vi x bytes mask s else s))

/-- A line of a page with a matte written: into its slot, or with an allocation, the plate line going back first (04 R88, R92). -/
def engPutMatte (c : ChainId) (l : Leaf) (va access : Nat) (bytes : Line) (mask : LineMask) (s : State) : Eng Unit :=
  let root := rootOf c.vi c.cid s
  let rec_ := lineOf (recordAddr root l.mid s)
  let plate := lineOf (l.pa va)
  (openLine .write rec_ c.vi (.eng c) false s).andThen fun r s =>
    if r.code = 15 then engFail 0x0E va access 0 s
    else if bitsAt (recMask r.data) (plate % 32) 1 = 1 then
      let p := recPtr r.data (plate % 32)
      match slotFault c.vi root p s with
      | some d => engFail 0x05 va access d s
      | none => (engPut c (lineOf (slotAddr root p s)) bytes mask s).andThen fun _ s => engOk () s
    else
      let s := engRelease c plate s
      (homeAllocate root c.vi (engClock c s) (.eng c) rec_ (plate % 32) plate bytes mask s).andThen fun w s =>
        match w with
        | .done T => engOk () (engWrote c T s)
        | .empty => engFail 0x08 va access 1 s
        | .poison T => engFail 0x0E va access 0 (engWrote c T s)
        | .bad tier => engFail 0x05 va access tier s

/-- Masked bytes of the line of a place written at one time; `unit` of the command's units lie before them. -/
def engWriteLine (c : ChainId) (p : EngPlace) (access unit : Nat) (bytes : Line) (mask : LineMask) (s : State) : Eng Unit :=
  match p with
  | .stage _ _ => engOk () s
  | .peer pa va =>
    engOk () (engPost c { addr := pa / 128 * 128, bytes := bytes, mask := mask, page := va, vi := c.vi, cid := c.cid, unit := unit } s)
  | .mem l va =>
    if l.mv then engPutMatte c l va access bytes mask s
    else ((if l.ph then engPutPhase else engPut) c (lineOf (l.pa va)) bytes mask s).andThen fun _ s => engOk () s

/-- `n` bytes of a field's address written, a line at a time. -/
def engStore (c : ChainId) (kind : Access) (unit : Nat) : (lines a n v : Nat) → State → Eng Unit
  | 0, _, _, _, s => engOk () s
  | lines + 1, a, n, v, s =>
    if n = 0 then engOk () s
    else
      let m := min n (128 - a % 128)
      Eng.bind (engPlace c none a m kind s) fun p s =>
        Eng.bind (engWriteLine c p kind.code unit (lineWith (a % 128) (v % 2 ^ (8 * m))) (maskOf (a % 128) m) s) fun _ s =>
          engStore c kind unit lines ((a + m) % 2 ^ 64) (n - m) (v >>> (8 * m)) s

/-- What an atomic finds at a place of this device, ready to be written: the line owned, or of a matte its source open. -/
def engAtomicOld (c : ChainId) (l : Leaf) (va n : Nat) (s : State) : Eng Nat :=
  let field (d : Line) (bad : Bool) (s : State) : Eng Nat :=
    if bad then engFail 0x0E va 2 0 s else engOk (lineField d (l.pa va % 128) n) s
  (engSource c l va s).andThen fun x s =>
    if l.mv then (openLine .write x c.vi (.eng c) false s).andThen fun h s => field h.data (h.code = 15) s
    else (engOwn c x s).andThen fun _ s => match s.engCopy c.die c.eng x with
      | some p => field p.data p.poison s
      | none => .wait s

/-- An atomic of `n` bytes at a virtual address of this device: the old value, read and written at one T = max(clock, rts + 1) (R157).
A peer's frame cannot take it (log 41). -/
def engAtomic (c : ChainId) (a n : Nat) (f : Nat → Nat) (s : State) : Eng Nat :=
  Eng.bind (engVirtual c a .atomic s) fun p s =>
    match p with
    | .mem l va =>
      if 128 < a % 128 + n then
        Eng.bind (engBytes c none 2 a n s) fun old s => Eng.bind (engStore c .atomic 0 2 a n (f old) s) fun _ s => engOk old s
      else
        Eng.bind (engAtomicOld c l va n s) fun old s =>
          Eng.bind (engWriteLine c p 2 0 (lineWith (a % 128) (f old % 2 ^ (8 * n))) (maskOf (a % 128) n) s) fun _ s => engOk old s
    | .peer pa _ => engFail 0x0D a 2 (peerId pa) s
    | .stage .. => engFail 0x05 a 2 3 s

/-! ## Runs of bytes -/

/-- Rows of bytes a command moves (R428): the rows, their length, where they start and step, and the dies of Stage sides. -/
structure Run where
  rows : Nat := 1
  len : Nat
  dst : Nat
  src : Option Nat := none
  dpitch : Nat := 0
  spitch : Nat := 0
  dstStage : Option Nat := none
  srcStage : Option Nat := none

def Run.total (r : Run) : Nat := r.rows * r.len

/-- The bytes of a dailies record (R435). -/
def recordBytes : Nat := 65552

/-- The run a command is at: the copy, the fill, the row dispatched or combined, the reduction, the dailies record. -/
def Cmd.run (x : Cmd) (c : ChainId) : Option Run :=
  match c.eng, x.op with
  | 0, 2 => some { len := x.field 12 4, dst := x.field 24 4, src := some (x.field 16 8), dstStage := some c.die }
  | 0, op => some
      { rows := x.field 12 4, len := x.field 32 4, dst := x.field 24 8, src := if op = 1 then none else some (x.field 16 8)
        spitch := x.field 40 8, dpitch := x.field 48 8
        srcStage := if x.flag 3 then some (x.field 10 1 % 4) else none
        dstStage := if x.flag 4 then some (x.field 10 1 / 4 % 4) else none }
  | 1, _ => x.row.map fun r => { len := x.field 24 4, dst := r.2, src := some (x.field 16 8 + x.unit * x.field 24 4) }
  | 2, _ => if x.unit < x.field 12 4 then some { len := x.field 24 4, dst := x.field 16 8 + x.unit * x.field 24 4 } else none
  | 3, 0 => some { len := x.field 12 4, dst := x.field 24 8, src := some (x.field 16 8) }
  | 3, 1 => some { len := x.field 12 4 * x.width 10, dst := x.field 24 8, src := some (x.field 16 8) }
  | 4, _ => x.data.map fun _ => { len := recordBytes, dst := x.field 32 8 + x.aux * recordBytes }
  | _, _ => none

/-- A piece of a run: bytes `o` to `o + n` of its stream, in one line at either end. -/
structure EngPiece where
  o : Nat
  n : Nat
  d : Nat
  s : Nat

/-- The piece at byte `o`; elements of `w` bytes are not cut, so one that crosses a line is a piece by itself. -/
def Run.piece (r : Run) (w o : Nat) : EngPiece :=
  let row := o / r.len
  let b := o % r.len
  let d := (r.dst + row * r.dpitch + b) % 2 ^ 64
  let s := (r.src.getD 0 + row * r.spitch + b) % 2 ^ 64
  let n := min (r.len - b) (128 - d % 128)
  let n := if r.src.isSome then min n (128 - s % 128) else n
  { o := o, n := if w ≤ 1 then n else if n / w = 0 then w else n / w * w, d := d, s := s }

/-- Pieces of a run from byte `o` up to byte `stop`, at most `fuel` of them. -/
def Run.pieces (r : Run) (w : Nat) : (fuel o stop : Nat) → List EngPiece
  | 0, _, _ => []
  | fuel + 1, o, stop =>
    if stop ≤ o then []
    else
      let p := r.piece w o
      p :: Run.pieces r w fuel (o + p.n) stop

/-- The most pieces of one segment: each lies in one destination line, or ends in the next one's, so they lie in at most 512
(R145). -/
def segmentPieces : Nat := 511

/-- The width of the elements that are not cut. -/
def Cmd.grain (x : Cmd) (c : ChainId) : Nat := if c.eng = 3 ∧ x.op = 1 then x.width 10 else 1

/-- The pieces of the segment that starts where the command is. -/
def Cmd.segment (x : Cmd) (c : ChainId) (stop : Nat) : List EngPiece :=
  match x.run c with
  | none => []
  | some r => r.pieces (x.grain c) segmentPieces x.pos (min stop r.total)

/-- The virtual lines a piece writes: one, or two for an element of a reduction that crosses a line. -/
def EngPiece.key (p : EngPiece) : Nat := p.d / 128
def EngPiece.last (p : EngPiece) : Nat := (p.d + p.n - 1) / 128
def EngPiece.keys (p : EngPiece) : List Nat := if p.last = p.key then [p.key] else [p.key, p.last]

/-- The units of a command before byte `o` of its run (R428 to R435). -/
def Cmd.unitsAt (x : Cmd) (c : ChainId) (o : Nat) : Nat :=
  match c.eng, x.op with
  | 0, _ | 3, 0 => o
  | 3, 1 => o / x.width 10
  | _, _ => x.unit

/-! ## The issue of a segment (R145) -/

/-- The line that an engine owns to write at a place (R145): in ordinary memory the line that supplies it now; none in a phase page
(07 R173; log 42). -/
def ownedLine (c : ChainId) (p : EngPlace) (s : State) : Res (Option Nat) :=
  match p with
  | .mem l va => if l.ph || !isMemory (l.pa va) then .ok none s else (engSource c l va s).andThen fun x s => .ok (some x) s
  | _ => .ok none s

/-- Places of the destination lines of a piece; the lines to own are added, each with the virtual line that writes it. -/
def planKeys (c : ChainId) : List Nat → List (Nat × Nat) → State → Eng (List (Nat × Nat))
  | [], lines, s => engOk lines s
  | k :: ks, lines, s =>
    Eng.bind (engPlace c none (128 * k % 2 ^ 64) 128 .write s) fun p s =>
      (ownedLine c p s).andThen fun y s => planKeys c ks (match y with
        | some y => if lines.any fun z => z.1 = y then lines else lines ++ [(y, k)]
        | none => lines) s

/-- Places of a segment's pieces, in stream order, up to the first that faults: the byte where the segment ends and the
fault, and the lines to own. -/
def planPieces (c : ChainId) (r : Run) : List EngPiece → (lines : List (Nat × Nat)) → State →
    Res (Option (Nat × EngFault) × List (Nat × Nat))
  | [], lines, s => .ok (none, lines) s
  | p :: ps, lines, s =>
    let dst : Eng (List (Nat × Nat)) := match r.dstStage with
      | some d => Eng.bind (engStage c d p.d p.n .write s) fun _ s => engOk lines s
      | none => planKeys c p.keys lines s
    (Eng.bind dst fun lines s => match r.src with
      | none => engOk lines s
      | some _ => Eng.bind (engPlace c r.srcStage p.s p.n .read s) fun _ s => engOk lines s).andThen fun d s =>
      match d with
      | .error e => .ok (some (p.o, e), lines) s
      | .ok lines => planPieces c r ps lines s

/-- Ownership of a segment's lines, in the order of the stream. -/
def engOwnAll (c : ChainId) : List Nat → State → Res Unit
  | [], s => .ok () s
  | x :: xs, s => (engOwn c x s).andThen fun _ s => engOwnAll c xs s

/-! ## Writing a line of a segment -/

/-- The product of an element and its weight, as MIX and the reductions need numbers. -/
def f32Num (v : Nat) : Product := (decodeFloat 13 v, isSig (decodeFloat 13 v))

/-- The operation code of R399 that ROP and TYPE name (R434). -/
def reduceOp (t rop : Nat) : Nat :=
  match isFloat t, rop with
  | true, 0 => 8 | true, 1 => 9 | true, _ => 10
  | false, 0 => 1 | false, 1 => 5 | false, _ => 6

/-- Elements of `w` bytes reduced one by one. -/
def reduceBytes (t rop w n old new : Nat) : Nat :=
  (List.range (n / w)).foldl (fun v i =>
    v + ((atomicNew (reduceOp t rop) t bankRound (bitsAt old (8 * w * i) (8 * w)) (bitsAt new (8 * w * i) (8 * w)) 0).1
      % 2 ^ (8 * w)) <<< (8 * w * i)) 0

/-- What combines into row `t` (R433): for each pair not dropped its weight, and `n` bytes from byte `o` of its row. -/
def mixRows (c : ChainId) (x : Cmd) (o n : Nat) : List Nat → State → Eng (List (Nat × Nat))
  | [], s => engOk [] s
  | k :: ks, s =>
    let i := x.field 10 1 * x.unit + k
    Eng.bind (engBytes c none 2 ((x.field 32 8 + 2 * i) % 2 ^ 64) 2 s) fun e s =>
    Eng.bind (engBytes c none 2 ((x.field 48 8 + 4 * i) % 2 ^ 64) 4 s) fun slot s =>
      if e = 0xFFFF ∨ x.field 28 2 ≤ e ∨ slot = 0xFFFFFFFF then mixRows c x o n ks s
      else
        Eng.bind (engBytes c none 2 ((x.field 56 8 + 4 * i) % 2 ^ 64) 4 s) fun w s =>
        Eng.bind (engBytes c none 2 ((x.field 40 8 + 16 * e) % 2 ^ 64) 8 s) fun dest s =>
        Eng.bind (engBytes c none (n / 128 + 2) ((dest + slot * x.field 24 4 + o) % 2 ^ 64) n s) fun v s =>
          Eng.bind (mixRows c x o n ks s) fun rest s => engOk ((w, v) :: rest) s

/-- The element at index `j` of some rows' bytes, summed exactly and rounded once. -/
def mixElem (t w j : Nat) (rows : List (Nat × Nat)) : Nat :=
  let ps := rows.map fun r =>
    let y := decodeFloat t (bitsAt r.2 (8 * w * j) (8 * w))
    mulProduct (f32Num r.1) (y, isSig y)
  (roundNum t { rm := 0 } (exactSum 0 ps).1).1 % 2 ^ (8 * w)

/-- The bytes a piece writes (R428, R431 to R435). -/
def pieceBytes (c : ChainId) (x : Cmd) (r : Run) (p : EngPiece) (s : State) : Eng Nat :=
  match c.eng, x.op with
  | 0, 1 =>
    let b := p.o % r.len
    engOk ((List.range p.n).foldl (fun v i => v + bitsAt (x.field 16 8) (8 * ((b + i) % 8)) 8 <<< (8 * i)) 0) s
  | 2, _ =>
    let t := x.field 11 1
    let w := typeBits t / 8
    let j := p.o / w
    let n := (p.o + p.n + w - 1) / w * w - j * w
    Eng.bind (mixRows c x (j * w) n (List.range (x.field 10 1)) s) fun rows s =>
      let v := (List.range (n / w)).foldl (fun v i => v + mixElem t w i rows <<< (8 * w * i)) 0
      engOk ((v >>> (8 * (p.o - j * w))) % 2 ^ (8 * p.n)) s
  | 3, 1 =>
    Eng.bind (engBytes c none 2 p.s p.n s) fun new s =>
      Eng.bind (engBytes c none 2 p.d p.n s) fun old s =>
        engOk (reduceBytes (x.field 10 1) (x.field 11 1) (x.width 10) p.n old new) s
  | 4, _ => engOk (bitsAt (x.data.getD 0) (8 * p.o) (8 * p.n)) s
  | _, _ => engBytes c r.srcStage 2 p.s p.n s

/-- The bytes of a piece; an element that crosses a line keeps what it is first found to be until it has gone out whole. -/
def keptBytesOf (c : ChainId) (x : Cmd) (r : Run) (p : EngPiece) (s : State) : Eng Nat :=
  if p.last = p.key then pieceBytes c x r p s
  else match (s.headCmd c).bind fun x => x.kept.find p.o with
    | some v => engOk v s
    | none => Eng.bind (pieceBytes c x r p s) fun v s => engOk v (s.updCmd c fun x => { x with kept := x.kept.set p.o v })

/-- The bytes of some pieces in stream order; where one faults, its byte of the stream and the fault. -/
def piecesBytes (c : ChainId) (x : Cmd) (r : Run) : List EngPiece → State → Res (Except (Nat × EngFault) (List (EngPiece × Nat)))
  | [], s => .ok (.ok []) s
  | p :: ps, s =>
    (keptBytesOf c x r p s).andThen fun v s =>
      match v with
      | .error e => .ok (.error (p.o, e)) s
      | .ok v => (piecesBytes c x r ps s).andThen fun vs s =>
        match vs with
        | .error e => .ok (.error e) s
        | .ok vs => .ok (.ok ((p, v) :: vs)) s

/-- Pieces with their bytes as bytes and mask of a line: those of the line `key`. -/
def lineOfPieces (key : Nat) (vs : List (EngPiece × Nat)) : Line × LineMask :=
  vs.foldl (fun r e =>
    let lo := max e.1.d (128 * key)
    let hi := min (e.1.d + e.1.n) (128 * key + 128)
    if lo < hi then
      let m := maskOf (lo % 128) (hi - lo)
      (mergeLine r.1 (lineWith (lo % 128) ((e.2 >>> (8 * (lo - e.1.d))) % 2 ^ (8 * (hi - lo)))) m, r.2 ||| m)
    else r) (0, 0)

/-- The segment ends before byte `o` of its run, at a fault. -/
def engCutAt (c : ChainId) (o : Nat) (e : EngFault) (s : State) : State :=
  s.updCmd c fun x => { x with segEnd := min x.segEnd o, fault := some e, got := [] }

/-- The next bytes of a Stage destination: those of one bank word, in stream order (R147). -/
def stagePiece (c : ChainId) (die : Nat) (x : Cmd) (r : Run) (s : State) : Res Unit :=
  match (r.pieces 1 1 x.pos x.segEnd).head? with
  | none => .ok () s
  | some p =>
    let p := { p with n := min p.n (min (x.segEnd - x.pos) (32 - p.d % 32)) }
    let w : Eng Unit := Eng.bind (pieceBytes c x r p s) fun v s =>
      Eng.bind (engStage c die p.d p.n .write s) fun q s => match q with
        | .stage d off =>
          let b := stageWrite d off v p.n (engClock c s) s
          engOk () (engTick c b.1 b.2)
        | _ => engOk () s
    w.andThen fun w s => match w with
      | .error e => .ok () (engCutAt c p.o e s)
      | .ok _ => .ok () (s.updCmd c fun x => { x with pos := x.pos + p.n, got := [] })

/-- A line of the segment is written: what its pieces hold is read, and goes out at one time (R145). A fault ends the segment before
its byte. -/
def engWriteKey (c : ChainId) (key : Nat) (s : State) : Res Unit :=
  match s.headCmd c with
  | none => .ok () s
  | some x =>
    let done (s : State) : State := s.updCmd c fun x => { x with wrote := key :: x.wrote, got := [] }
    match x.run c, (x.segment c x.segEnd).filter fun p => p.keys.contains key with
    | some r, p :: ps =>
      (piecesBytes c x r (p :: ps) s).andThen fun vs s =>
        match vs with
        | .error e => .ok () (engCutAt c e.1 e.2 s)
        | .ok vs =>
          let b := lineOfPieces key vs
          (Eng.bind (engPlace c none (128 * key % 2 ^ 64) 128 .write s) fun q s =>
            engWriteLine c q 1 (x.unitsAt c p.o) b.1 b.2 s).andThen fun w s =>
            match w with
            | .error e => .ok () (engCutAt c p.o e s)
            | .ok _ => .ok () (done s)
    | _, _ => .ok () (done s)

end Sys2Proof.Machine
end

