-- ==== Sys2Proof/Machine/Engine.lean ====
section
/-!
DEFINITION. The steps of the engines (spec/19_engines_system.md R425 to R435; spec/06_clusters.md R145 to R147): issuing a
segment, the operations of the dolly, casting, mixing, collective and dailies engines, the follow-on matrix command (R430),
faults (R426), completion (R425, R427), and the recalls an agent answers (spec/07_coherence.md R158, R160).
-/
namespace Sys2Proof.Machine

/-! ## Ends (R425, R426) -/

/-- The unit in which COUNT counts, so far (R428 to R435). -/
def Cmd.count (x : Cmd) (c : ChainId) : Nat := x.unitsAt c x.pos

/-- A COPYM of sequencer `k` has ended with its follow-on: the tile is full, what waits for it goes on (17 R376). -/
def followEnds (c : ChainId) (x : Cmd) (s : State) : State :=
  if c.eng = 0 ∧ x.op = 2 ∧ (s.seq x.k).follow ≠ 0 then
    s.upd x.k fun q =>
      let q := ({ q with follow := q.follow - 1 }).setFull (.a (x.field 11 1 % 8)) true
      match q.wait with
      | .full | .matrix => if q.mop.isSome then q else { q with wait := .run }
      | _ => q
  else s

/-- The command's stream has ended with a status: its record is next. -/
def engFinish (c : ChainId) (status : Nat) (s : State) : State :=
  match s.headCmd c with
  | none => s
  | some x =>
    let s := thread (engRelease c) x.owned s
    let s := engUnpin c (s.updCmd c fun x => { x with status := some status, phase := .record, fault := none, front := [] })
    engGo c (followEnds c x s)

/-- A fault is to be posted (R426); what the faulting access had pinned is released, and lines that will not be written go back
(R146). -/
def engFaulted (c : ChainId) (e : EngFault) (s : State) : State :=
  let mine := match s.headCmd c with | some x => x.owned | none => []
  let s := engUnpin c ((thread (engRelease c) mine s).updCmd c fun x => { x with phase := .batch, fault := some e, got := [] })
  s.post (.engineFault c e.cause e.va e.access e.detail)

/-- The answer of an operation's step: it goes on, or waits, or has met a fault. -/
def engAfter (c : ChainId) (r : Eng Unit) : State :=
  match r with
  | .ok (.ok _) s => engGo c (engUnpin c s)
  | .ok (.error e) s => engFaulted c e s
  | .wait s => s
  | .trap _ _ s => s
  | .fault _ s => s

/-- Whether the chain's first command is at a phase. -/
def inPhase (c : ChainId) (p : CmdPhase) (s : State) : Bool :=
  match s.headCmd c with | some x => x.phase = p | none => false

def setPhase (c : ChainId) (p : CmdPhase) (s : State) : State := s.updCmd c fun x => { x with phase := p }

/-! ## Segments (R145) -/

/-- Lines recalled while their sources were not at hand come first (R146); none when there is none. -/
def frontStep (c : ChainId) (s : State) : Option State :=
  match s.headCmd c with
  | none => none
  | some x => match x.front with
    | [] => none
    | (k, y) :: rest =>
      let drop (s : State) : State := engGo c ((engRelease c y s).updCmd c fun x => { x with front := rest })
      if x.wrote.contains k then some (drop s)
      else match engWriteKey c k s with
        | .ok _ s => some (drop s)
        | .wait s => some s
        | .trap _ _ s => some s
        | .fault _ s => some s

/-- ENGINE_SEGMENT_ISSUE: places, then ownership of every destination line; a stopped command ends at the boundary
(R440). -/
def segmentIssue (c : ChainId) (s : State) : State :=
  match s.headCmd c with
  | none => s
  | some x =>
    if x.phase ≠ .segment then s
    else if x.stop && x.owned = [] && x.wrote = [] then engFinish c 2 s
    else match frontStep c s, x.run c with
      | some s, _ => s
      | none, none => engGo c (setPhase c .operate s)
      | none, some r =>
        let s := s.updCmd c fun x => { x with started := true }
        let ps := x.segment c r.total
        match planPieces c r ps [] s with
        | .ok (bad, lines) s =>
          let stop := match bad, ps.getLast? with
            | some b, _ => b.1
            | none, some p => p.o + p.n
            | none, none => x.pos
          let s := s.updCmd c fun x => { x with segEnd := stop, fault := bad.map Prod.snd }
          let todo := if c.eng = 4 then [] else lines.filter fun y => !x.wrote.contains y.2
          match engOwnAll c (todo.map Prod.fst) s with
          | .ok _ s => engGo c (setPhase c .operate s)
          | .wait s => s
          | .trap _ _ s => s
          | .fault _ s => s
        | .wait s => s
        | .trap _ _ s => s
        | .fault _ s => s

def execEngineSegmentIssue (c : ChainId) (s : State) : Out := .next (segmentIssue c s)

/-- The segment has no line left to write: lines that will not be written go back (R146), pins are released (04 R95), a
fault is posted, or the next segment is issued. An element cut off half written is kept for the next attempt. -/
def segmentDone (c : ChainId) (s : State) : State :=
  match s.headCmd c with
  | none => s
  | some x =>
    let s := thread (engRelease c) x.owned s
    let s := engUnpin c (s.updCmd c fun x =>
      { x with pos := x.segEnd, wrote := [], fault := none, front := [], got := [], kept := x.kept.filter fun e => decide (x.segEnd ≤ e.1) })
    match x.fault with
    | some e => engFaulted c e s
    | none => engGo c (setPhase c .segment s)

/-- One line of the segment written, the recalled ones first (R146); `after` when the run is at its end. -/
def segmentStep (c : ChainId) (after : State → State) (s : State) : State :=
  match s.headCmd c with
  | none => s
  | some x =>
    match frontStep c s, x.run c with
    | some s, _ => s
    | none, none => after s
    | none, some r =>
      let goOn (w : Res Unit) : State := match w with
        | .ok _ s => engGo c s
        | .wait s | .trap _ _ s | .fault _ s => s
      if r.total ≤ x.pos then after s
      else match r.dstStage with
        | some d => if x.segEnd ≤ x.pos then segmentDone c s else goOn (stagePiece c d x r s)
        | none =>
          let keys := (x.segment c x.segEnd).flatMap EngPiece.keys
          match keys.find? fun k => !x.wrote.contains k with
          | none => segmentDone c s
          | some k => goOn (engWriteKey c k s)

/-! ## The dolly engine (R428, R429) -/

def dollyStep (c : ChainId) (op : Nat) (after : State → State) (s : State) : State :=
  match s.headCmd c with
  | some x => if x.phase = .operate ∧ c.eng = 0 ∧ x.op = op then segmentStep c after s else s
  | none => s

def execDollyCopy (c : ChainId) (s : State) : Out := .next (dollyStep c 0 (engFinish c 0) s)
def execDollyFill (c : ChainId) (s : State) : Out := .next (dollyStep c 1 (engFinish c 0) s)

/-- DOLLY_COPYM: with its last byte at its bank, the follow-on goes to the cluster's queue; none for a copy that is to stop
(R430, R440). -/
def execDollyCopym (c : ChainId) (s : State) : Out :=
  .next (dollyStep c 2 (fun s => match s.headCmd c with
    | some x => if x.stop then engFinish c 2 s else engGo c (setPhase c .follow s)
    | none => s) s)

/-! ## The follow-on (R430) -/

/-- The latch a follow-on fills as MLATCH would: the trap's cause where a check of R379 fails. What its reads return of the banks'
clocks changes no clock (09 R204). -/
def followLatch (x : Cmd) (c : ChainId) (s : State) : Except Nat State :=
  let q := s.seq x.k
  let d := x.field 32 8
  let t := x.field 28 1 / 8
  let n := bitsAt d 32 10 + 1
  let base := bitsAt d 0 26
  let stride := latchStride t n (bitsAt d 48 16)
  let offs := (List.range (x.field 30 1 + 1)).map fun r => base + r * stride
  if !latchType t || tooWide t n 512 then .error 0x03
  else if base % 32 ≠ 0 ∨ stride % 32 ≠ 0 then .error 0x0A
  else if offs.any fun o => !q.stageOk o (bytesFor t n) then .error 0x09
  else
    let r := latchRows c.die q.n.stgbase t n x.clock (offs.map some) s
    .ok (setLatch x.k { lv := true, ltype := t, lk := n, lm := x.field 30 1 + 1, rows := r.1 } r.2.2)

/-- The MOP of a follow-on. -/
def followMop (x : Cmd) : Mop :=
  { form := if x.field 29 1 = 0xD3 then 1 else 0, d := x.field 11 1 % 8, t := x.field 28 1 / 8, geo := x.field 28 1 % 4,
    band := x.field 28 1 / 4 % 2 = 1, ga := BitVec.ofNat 64 (x.field 40 8), gb := BitVec.ofNat 64 (x.field 48 8) }

/-- The cause for which R382 refuses it. -/
def followRefused (m : Mop) (q : Seq) (l : Latch) : Option Nat :=
  if m.illegal 0 then some 0x03
  else if !l.lv then some 0x11
  else if m.refuses l then some 0x03
  else (m.place q.n.stage).map Prod.fst

/-- One chunk of a follow-on MOP, with the FCTL held at ECMD; its flags go to AUX. -/
def followChunk (c : ChainId) (x : Cmd) (m : Mop) (s : State) : State :=
  let q := s.seq x.k
  let s := (chunkReads c.die q.n.stgbase m x.chunk x.clock s).2
  let rd := stageBits s c.die q.n.stgbase
  let m := if m.band && m.bands.isNone then { m with bands := some (rd (8 * m.sband) 32) } else m
  let qc : Seq := { q with c := { q.c with fctl := x.fctl } }
  let t := mopChunk m (s.latch x.k) x.chunk (fun e => qc.round qc.c.rm e) rd (q.aRead m.d)
  (s.upd x.k fun q => q.aSet m.d t.1).updCmd c fun x =>
    { x with mop := some m, chunk := x.chunk + 1, aux := x.aux ||| t.2.toNat }

/-- The follow-on leaves the array with a status. -/
def followDone (c : ChainId) (cl status : Nat) (s : State) : State :=
  engFinish c status (matrixLeave cl (.follow c) s)

/-- FOLLOW_ON_MATRIX: a place in the cluster's queue; with its turn the latch, then the MOP chunk by chunk. -/
def followStep (c : ChainId) (s : State) : State :=
  match s.headCmd c with
  | none => s
  | some x =>
    if x.phase ≠ .follow then s
    else
      let cl := clusterOfSeq x.k
      let j := MatrixJob.follow c
      let jobs := s.matrix.getD cl []
      if (s.seq x.k).follow = 0 then followDone c cl 2 s
      else if j ∉ jobs then
        if 16 ≤ jobs.length then s
        else
          let s := { s with matrix := s.matrix.set cl (jobs ++ [j]) }
          if matrixTurn cl s = some j then engGo c s else s
      else if matrixTurn cl s ≠ some j then s
      else match x.mop with
        | some m =>
          if m.chunks ≤ x.chunk then followDone c cl 0 s else engGo c (followChunk c x m s)
        | none =>
          let refuse (cause : Nat) (s : State) : State :=
            followDone c cl 5 (s.updCmd c fun x => { x with aux := cause })
          match followLatch x c s with
          | .error cause => refuse cause s
          | .ok s =>
            let m := followMop x
            match followRefused m (s.seq x.k) (s.latch x.k) with
            | some cause => refuse cause s
            | none => engGo c (s.updCmd c fun x => { x with mop := some m })

def execFollowOnMatrix (c : ChainId) (s : State) : Out := .next (followStep c s)

/-! ## The casting engine (R431, R432) -/

/-- The slot that stands for a dropped pair. -/
def droppedSlot : Nat := 0xFFFFFFFF

/-- The expert of the next pair, and its slot by a fetch-add that a full expert leaves as it was. -/
def castPair (c : ChainId) (x : Cmd) (s : State) : Eng Unit :=
  let i := x.field 10 1 * x.unit + x.sub
  let drop (s : State) : Eng Unit :=
    engOk () (s.updCmd c fun x => { x with row := some (droppedSlot, 0), pos := x.field 24 4, got := [] })
  Eng.bind (engBytes c none 2 ((x.field 32 8 + 2 * i) % 2 ^ 64) 2 s) fun e s =>
    if e = 0xFFFF ∨ x.field 28 2 ≤ e then drop s
    else
      let entry := x.field 40 8 + 16 * e
      Eng.bind (engBytes c none 2 (entry % 2 ^ 64) 8 s) fun dest s =>
      Eng.bind (engBytes c none 2 ((entry + 12) % 2 ^ 64) 4 s) fun cap s =>
      Eng.bind (engAtomic c ((entry + 8) % 2 ^ 64) 4 (fun old => if old < cap then (old + 1) % 2 ^ 32 else old) s) fun slot s =>
        if cap ≤ slot then drop s
        else
          engOk () (s.updCmd c fun x =>
            { x with row := some (slot, (dest + slot * x.field 24 4) % 2 ^ 64), pos := 0, phase := .segment, got := [] })

/-- MAPOUT of a pair whose row has gone out; the next pair. -/
def castMap (c : ChainId) (x : Cmd) (slot : Nat) (s : State) : Eng Unit :=
  let i := x.field 10 1 * x.unit + x.sub
  Eng.bind (engStore c .write x.unit 2 ((x.field 48 8 + 4 * i) % 2 ^ 64) 4 slot s) fun _ s =>
    engOk () (s.updCmd c fun x =>
      let last := x.field 10 1 ≤ x.sub + 1
      { x with row := none, pos := 0, got := [], aux := if slot = droppedSlot then x.aux + 1 else x.aux
               unit := if last then x.unit + 1 else x.unit, sub := if last then 0 else x.sub + 1 })

/-- CAST_DISPATCH. -/
def castStep (c : ChainId) (s : State) : State :=
  match s.headCmd c with
  | none => s
  | some x =>
    if x.phase ≠ .operate ∨ c.eng ≠ 1 then s
    else match x.row with
      | none =>
        if x.field 12 4 ≤ x.unit then engFinish c 0 s
        else if x.stop then engFinish c 2 s
        else engAfter c (castPair c x (s.updCmd c fun x => { x with started := true }))
      | some r =>
        if x.field 24 4 ≤ x.pos then engAfter c (castMap c x r.1 s) else segmentStep c id s

def execCastDispatch (c : ChainId) (s : State) : Out := .next (castStep c s)

/-! ## The mixing engine (R433) -/

/-- MIX_COMBINE: row by row. -/
def execMixCombine (c : ChainId) (s : State) : Out :=
  .next (match s.headCmd c with
    | some x =>
      if x.phase = .operate ∧ c.eng = 2 then
        if x.field 12 4 ≤ x.unit then engFinish c 0 s
        else segmentStep c (fun s =>
          engGo c (s.updCmd c fun x => { x with unit := x.unit + 1, pos := 0, phase := .segment })) s
      else s
    | none => s)

/-! ## The collective engine (R434) -/

def collStep (c : ChainId) (op : Nat) (s : State) : State :=
  match s.headCmd c with
  | some x => if x.phase = .operate ∧ c.eng = 3 ∧ x.op = op then segmentStep c (engFinish c 0) s else s
  | none => s

def execCollPut (c : ChainId) (s : State) : Out := .next (collStep c 0 s)
def execCollReduce (c : ChainId) (s : State) : Out := .next (collStep c 1 s)

/-- COLL_SIGNAL: every earlier command has completed, and with it its peer stores (log 40); the dword goes out. -/
def signalStep (c : ChainId) (s : State) : State :=
  match s.headCmd c with
  | some x =>
    if x.phase ≠ .operate ∨ c.eng ≠ 3 ∨ x.op ≠ 2 then s
    else if x.stop && !x.started then engFinish c 2 s
    else
      let s := s.updCmd c fun x => { x with started := true }
      match engStore c .write 0 1 (x.field 24 8) 8 (x.field 32 8) s with
      | .ok (.ok _) s => engFinish c 0 (s.updCmd c fun x => { x with unit := 1 })
      | .ok (.error e) s => engFaulted c e s
      | .wait s => s
      | .trap _ _ s => s
      | .fault _ s => s
  | none => s

def execCollSignal (c : ChainId) (s : State) : Out := .next (signalStep c s)

/-! ## The dailies engine (R435) -/

/-- `n` lines from an address, as one number. -/
def gatherLines (c : ChainId) (a : Nat) : (n : Nat) → State → Eng Nat
  | 0, s => engOk 0 s
  | n + 1, s =>
    Eng.bind (engPlace c none (a % 2 ^ 64) 128 .read s) fun p s =>
      Eng.bind (engRead c p 128 s) fun v s =>
        Eng.bind (gatherLines c (a + 128) n s) fun w s => engOk (v + w <<< 1024) s

/-- The next block: read whole at one t (the second pass leaves every line leased beyond it), hashed and judged. -/
def deltaBlock (c : ChainId) (x : Cmd) (s : State) : Eng Unit :=
  let a := x.field 16 8 + x.unit * 65536
  let ha := (x.field 24 8 + 16 * x.unit) % 2 ^ 64
  Eng.bind (gatherLines c a 512 s) fun _ s =>
  Eng.bind (gatherLines c a 512 s) fun block s =>
  Eng.bind (engBytes c none 2 ha 16 s) fun old s =>
    let h := Shake.blockHash block
    if h = old ∧ old ≠ 0 then engOk () (s.updCmd c fun x => { x with unit := x.unit + 1, got := [] })
    else if x.field 40 8 < (x.aux + 1) * recordBytes then engOk () (engFinish c 4 s)
    else
      engOk () (s.updCmd c fun x =>
        { x with data := some (x.unit + block * 2 ^ 128), row := some (h, 0), pos := 0, phase := .segment, got := [] })

/-- The hash of a block whose record has gone out. -/
def deltaHash (c : ChainId) (x : Cmd) (s : State) : Eng Unit :=
  let h := match x.row with | some r => r.1 | none => 0
  Eng.bind (engStore c .write x.unit 2 ((x.field 24 8 + 16 * x.unit) % 2 ^ 64) 16 h s) fun _ s =>
    engOk () (s.updCmd c fun x =>
      { x with data := none, row := none, pos := 0, aux := x.aux + 1, unit := x.unit + 1, got := [] })

/-- DAILIES_DELTA. -/
def deltaStep (c : ChainId) (s : State) : State :=
  match s.headCmd c with
  | none => s
  | some x =>
    if x.phase ≠ .operate ∨ c.eng ≠ 4 then s
    else match x.data with
      | none =>
        if x.field 12 4 ≤ x.unit then engFinish c 0 s
        else if x.stop then engFinish c 2 s
        else engAfter c (deltaBlock c x (s.updCmd c fun x => { x with started := true }))
      | some _ => if recordBytes ≤ x.pos then engAfter c (deltaHash c x s) else segmentStep c id s

def execDailiesDelta (c : ChainId) (s : State) : Out := .next (deltaStep c s)

/-! ## Completion (R425, R427, R439) -/

/-- Those that wait for chains of a die try again. -/
def wakeChains (die : Nat) (s : State) : State :=
  { s with seqs := s.seqs.map fun e =>
      if dieOfSeq e.1 = die then
        match e.2.wait with
        | .chain _ | .sleepto .. => (e.1, { e.2 with wait := .run })
        | _ => e
      else e }

/-- A command leaves its chain completed; the next one goes on; its slate may complete (05 R115). -/
def engComplete (c : ChainId) (s : State) : State :=
  match s.headCmd c with
  | none => s
  | some x =>
    let s := (engUnpin c (thread (engRelease c) x.owned s)).updChain c fun ch =>
      { ch with cmds := ch.cmds.drop 1, done := x.n, doneStatus := x.status.getD 0, doneT := max ch.doneT x.clock }
    let s := match s.slates.find x.slot with
      | none => s
      | some sl =>
        let sl := { sl with commands := sl.commands - 1, doneT := max sl.doneT x.wmax }
        let s := { s with slates := s.slates.set x.slot sl }
        if sl.commands = 0 then s.post (.slateComplete x.slot) else s
    let s := wakeChains c.die s
    let s := if (s.vi c.vi).ctxs.any fun e => e.1 = c.cid && e.2.dying then s.post (.ctxcmdDone c.vi) else s
    engGo c s

/-- The context of a chain is being destroyed. -/
def chainDying (c : ChainId) (s : State) : Bool := (s.vi c.vi).ctxs.any fun e => e.1 = c.cid && e.2.dying

/-- COUNT and AUX fill their fields; a count that does not fit takes a free value (log 43). -/
def recordWord (x : Cmd) (c : ChainId) (s : State) : Nat × State :=
  let n := x.count c
  let r := if n < 2 ^ 32 then (n, s) else (Config.freeBits s.fresh % 2 ^ 32, { s with fresh := s.fresh + 1 })
  (r.1 * 2 ^ 32 + x.aux % 2 ^ 24 * 256 + x.status.getD 0 % 256, r.2)

/-- The first of the stores refused to a command: with status SHORT, its count ends before them (R426). -/
def engRefusal (c : ChainId) (s : State) : Option (PeerStore × Nat) :=
  (engRefused c s).foldl (fun b p => match b with
    | none => some p
    | some q => if p.1.unit < q.1.unit then some p else some q) none

/-- The units of a command that lie before its first refused store. -/
def engShort (c : ChainId) (s : State) : State :=
  match engRefusal c s with
  | none => s
  | some p => s.updCmd c fun x => match c.eng with
    | 0 | 3 => { x with pos := min x.pos p.1.unit }
    | _ => { x with unit := min x.unit p.1.unit }

/-- COMMAND_COMPLETE: the completions of its peer stores (log 40), with a fault where one was refused (02 R45); the flush that PERS
asks for, then the record above every access, then the end. -/
def commandComplete (c : ChainId) (s : State) : State :=
  match s.headCmd c with
  | none => s
  | some x =>
    if x.phase ≠ .record then s
    else if engStoresOut c s ≠ [] then s
    else match engRefusal c s with
    | some p =>
      if chainDying c s then engGo c (engDropRefused c s)
      else engFaulted c { cause := p.2, va := p.1.page % 2 ^ 57 / 4096 * 4096, access := 1, detail := peerId p.1.addr } s
    | none =>
    if x.flag 0 ∧ x.flushed = none then
      { s.updCmd c (fun x => { x with flushed := some false }) with outbox := s.outbox ++ [.flush (hostPort c.vi s)] }
    else if x.flushed = some false then s
    else if x.field 0 8 = 0 then engComplete c s
    else
      let w := recordWord x c s
      match engStore c .write 0 1 (x.field 0 8) 16 (x.n % 2 ^ 64 + w.1 * 2 ^ 64) (engTick c (x.clock + 1) w.2) with
      | .ok (.ok _) s => engComplete c s
      | .ok (.error e) s => engFaulted c e s
      | .wait s => s
      | .trap _ _ s => s
      | .fault _ s => s

def execCommandComplete (c : ChainId) (s : State) : Out := .next (commandComplete c s)

/-! ## Faults (R426) -/

/-- A command of a context that is being destroyed ends without a batch (03 R477; 19 R440): a record that cannot be written
is not. -/
def engCut (c : ChainId) (s : State) : State :=
  match s.headCmd c with
  | none => s
  | some x =>
    let s := engDropRefused c (s.updCmd c fun x => { x with waiting := none, fault := none })
    if x.status.isSome then engComplete c (s.updCmd c fun x => { x with status := some 3 }) else engFinish c 2 s

/-- ENGINE_FAULT: a batch of one entry joins what is to be posted. -/
def engineFault (c : ChainId) (e : EngFault) (s : State) : State :=
  match s.headCmd c with
  | none => s
  | some x =>
    if chainDying c s then engCut c s else
    let f : FaultEntry := { page := e.va, access := e.access, cause := e.cause, first := 0xFFFF, count := 0,
                            detail := e.detail }
    let s := s.updCmd c fun x => { x with phase := .batch, fault := some e }
    let s := s.updVi c.vi fun v =>
      { v with ring := { v.ring with queue := v.ring.queue ++ [{ post := .batch (.engine c) c.cid x.va x.n [f] }] } }
    s.post (.faultBatchPost c.vi)

def execEngineFault (c : ChainId) (cause vaPage access detail : Nat) (s : State) : Out :=
  .next (engineFault c { cause := cause, va := vaPage, access := access, detail := detail } s)

/-- The batch has been posted: fault-only-first completes the command at once, else it is held; a record's write always
waits, and a peer field that the interface may not name ends in ERROR (R423, R425, R426). -/
def engPosted (c : ChainId) (tag : Nat) (s : State) : State :=
  match s.headCmd c with
  | none => s
  | some x =>
    let wait (s : State) : State := s.updCmd c fun x => { x with waiting := some tag }
    if x.phase ≠ .batch then s
    else if (engRefusal c s).isSome then
      if x.flag 1 && !x.stop then wait s
      else engGo c (setPhase c .record (engDropRefused c ((engShort c s).updCmd c fun x =>
        { x with status := if x.status = some 0 then some 1 else x.status, fault := none })))
    else if x.status.isSome then wait s
    else if x.stop then engFinish c 2 s
    else if x.fault.any fun e => e.cause = 0x0D && !peerEnabled c.vi s then engFinish c 3 s
    else if x.flag 1 then wait s
    else engFinish c 1 s

/-- The answer to a batch of the command that waits for it: it resumes at the first unperformed unit, or ends with ERROR;
an abandoned record is not written (R425, R426). Refused stores are sent again, or given up. -/
def engAnswered (c : ChainId) (tag : Nat) (retry : Bool) (s : State) : State :=
  match s.headCmd c with
  | none => s
  | some x =>
    if x.waiting ≠ some tag then s
    else
      let s := s.updCmd c fun x => { x with waiting := none, fault := none }
      let bad := engRefused c s
      if bad ≠ [] then
        if retry then engGo c (setPhase c .record (thread (fun p s => engPost c p.1 s) bad (engDropRefused c s)))
        else engGo c (setPhase c .record (engDropRefused c ((engShort c s).updCmd c fun x => { x with status := some 3 })))
      else if retry then
        let p := if x.status.isSome then CmdPhase.record else if (x.run c).isSome then .segment else .operate
        engGo c (setPhase c p s)
      else if x.status.isSome then engComplete c (s.updCmd c fun x => { x with status := some 3 })
      else engFinish c 3 s

/-! ## Stopping (R440) -/

/-- A command that can be stopped: its stream has not ended, and its follow-on is not under way. -/
def Cmd.stoppable (x : Cmd) : Bool := x.status.isNone && x.phase ≠ .follow

/-- Commands of a chain from a number on are to stop: how many. A held one ends at once. -/
def engAbort (c : ChainId) (n : Nat) (s : State) : Nat × State :=
  let ch := s.chain c
  let hit (x : Cmd) : Bool := decide (n ≤ x.n) && x.stoppable && !x.stop
  let count := (ch.cmds.filter hit).length
  let s := s.updChain c fun ch => { ch with cmds := ch.cmds.map fun x => if hit x then { x with stop := true } else x }
  let s := match s.headCmd c with
    | some x => if x.stop && x.status.isNone && x.waiting.isSome then
        engFinish c 2 (s.updCmd c fun x => { x with waiting := none })
      else engGo c s
    | none => s
  (count, s)

/-! ## Recalls (07 R158, R160; 06 R146) -/

/-- The chain whose command owns a line. -/
def lineChain (d e x : Nat) (s : State) : Option ChainId :=
  (s.chains.find? fun en => en.1 / 8 % 4 = d && en.1 % 8 = e && match en.2.cmds with
    | y :: _ => y.owned.contains x
    | [] => false).map fun en => chainOfKey en.1

/-- The virtual line of the segment that writes an owned line: as the pins of its pages translate it, through the records as they
stand. -/
def lineKey (c : ChainId) (y : Cmd) (x : Nat) (s : State) : Option Nat :=
  let supplies (l : Leaf) (va : Nat) : Nat :=
    let p := lineOf (l.pa va)
    if l.mv then
      let root := rootOf c.vi c.cid s
      let rec_ := s.newest (lineOf (recordAddr root l.mid s))
      if bitsAt (recMask rec_) (p % 32) 1 = 1 then lineOf (slotAddr root (recPtr rec_ (p % 32)) s) else p
    else p
  ((y.segment c y.segEnd).flatMap EngPiece.keys).find? fun k =>
    !y.wrote.contains k && match pinLookup (engAccessor c s) (128 * k) with
      | some l => supplies l (128 * k) = x
      | none => false

/-- A recall at an engine: the line goes to the front of its work, is written and answered; a line that will not be written
goes back as it was, one not held is answered so. -/
def engRecall (d e x ver : Nat) (s : State) : State :=
  let o := Owner.engine d e
  let nh := s.post (.nh o (ownerGen o s) x ver)
  match s.engCopy d e x with
  | none => nh
  | some p =>
    if p.ver ≠ ver then nh
    else match lineChain d e x s with
      | none => (s.dropEngCopy d e x).post (.rel o (ownerGen o s) x p.ver p.wts p.rts)
      | some c =>
        match s.headCmd c with
        | none => nh
        | some y => match lineKey c y x s with
          | none => engRelease c x s
          | some k => match engWriteKey c k s with
            | .ok _ s => engGo c (engRelease c x s)
            | .wait s => s.updCmd c fun y => { y with front := y.front ++ [(k, x)] }
            | .trap _ _ s => s
            | .fault _ s => s

/-- RCL (07 R158). -/
def execRcl (o : Owner) (line ver : Nat) (mode : RecallMode) (s : State) : Out :=
  .next (match o with
    | .l1 sl => sliceRcl sl line ver mode s
    | .engine d e => engRecall d e line ver s)

end Sys2Proof.Machine
end

