-- ==== Sys2Proof/Machine/Ring.lean ====
section
/-!
DEFINITION. Fault rings (spec/03_host_interface.md R64 to R67, R477) and their records: fault batches (spec/
04_address_spaces.md R102, R103), events (R65), what a posted batch does to its agent (spec/11_execution_state.md R252), and
postings that wait or are held.
-/
namespace Sys2Proof.Machine

/-- `n` bytes of a number at byte `off` of another. -/
def withBytes (off n v x : Nat) : Nat := setBitsAt x (8 * off) (8 * n) v

/-! ## Records -/

/-- An entry of a batch (04 R103). -/
def FaultEntry.bytes (e : FaultEntry) : Nat :=
  e.page / 4096 * 4096 + e.access % 4 * 32 + e.cause % 32 + e.first % 65536 * 2 ^ 64 + e.count % 65536 * 2 ^ 80
    + e.detail % 65536 * 2 ^ 96

/-- The source word and flag bits of a batch (04 R102, 08 R195). -/
def PostSrc.word (s : State) : PostSrc → Nat
  | .seq k => k * 2 ^ 19
  | .engine c => c.die * 2 ^ 30 + 2 ^ 18 + c.eng * 2 ^ 15
  | .queueFetch q | .queueDone q => s.mgmt.master * 2 ^ 30 + q
  | .home x => homeDie x * 2 ^ 30 + homeSlice x % 64 * 2 ^ 24 + 2 ^ 18 + 7 * 2 ^ 15

def PostSrc.flags : PostSrc → Nat
  | .seq _ => 0
  | .engine _ | .home _ => 4
  | .queueFetch _ | .queueDone _ => 8

/-- Record `i` of `n` of a batch, 512 bytes. -/
def batchRecord (src : PostSrc) (cid pc number tag i n : Nat) (es : List FaultEntry) (s : State) : Nat :=
  let flags := (if i = 0 then 0 else 1) + (if i + 1 = n then 2 else 0) + src.flags
  let hdr := 0x01 + flags * 2 ^ 8 + i * 2 ^ 16 + n * 2 ^ 32 + es.length * 2 ^ 48 + cid % 256 * 2 ^ 64 + tag * 2 ^ 96
    + s.cycle % 2 ^ 64 * 2 ^ 128 + src.word s * 2 ^ 192 + pc % 2 ^ 64 * 2 ^ 256 + number % 2 ^ 64 * 2 ^ 320
  (es.zipIdx).foldl (fun x e => withBytes (64 + 14 * e.2) 14 e.1.bytes x) hdr

/-- An event record (03 R65): the PC where the event names one. -/
def eventRecord (kind cid detail pc : Nat) (s : State) : Nat :=
  kind + cid % 256 * 2 ^ 64 + s.cycle % 2 ^ 64 * 2 ^ 128 + detail % 2 ^ 64 * 2 ^ 192 + pc % 2 ^ 64 * 2 ^ 256

/-- Entries in records of 32. -/
def inRecords (es : List FaultEntry) : List (List FaultEntry) :=
  (List.range (max 1 ((es.length + 31) / 32))).map fun i => (es.drop (32 * i)).take 32

/-- The slots of a posting. -/
def Posting.slots : Posting → Nat
  | .batch _ _ _ _ es => (inRecords es).length
  | .event .. => 1

/-! ## The ring (R64) -/

def Ring.slotCount (r : Ring) : Nat := 2 ^ (8 + r.size)

/-- Slots filled and not consumed. -/
def Ring.used (r : Ring) : Nat := (r.tail - r.head).toNat

def Ring.room (r : Ring) : Nat := r.slotCount - r.used

def State.updRing (s : State) (vi : Nat) (f : Ring → Ring) : State := s.updVi vi fun v => { v with ring := f v.ring }

/-- The address of the slot of a count. -/
def Ring.slotAt (r : Ring) (c : Nat) : Nat := r.base.toNat + 512 * (c % r.slotCount)

/-- One slot written, then FQTAIL passes it; the first record of an empty ring raises MSI-X vector 0. A slot that does not lie
in frames the interface owns, which breaks R64, is not written (00 R7; log 103). -/
def putRecord (vi x : Nat) (s : State) : State :=
  let r := (s.vi vi).ring
  let a := r.slotAt r.tail.toNat
  let s := if r.used = 0 then { s with outbox := s.outbox ++ [.msix vi 0] } else s
  let s := if ownBytes vi a 512 s then pokeBytesFor vi a x 512 s else s
  s.updRing vi fun r => { r with tail := r.tail + 1 }

/-- The lines of the next `n` slots that the host must give up before they are written (02 R36). -/
def slotSnoops (vi n : Nat) (s : State) : List Nat :=
  let r := (s.vi vi).ring
  ((List.range n).flatMap fun i => (List.range 4).map fun j => lineOf (r.slotAt (r.tail.toNat + i)) + j).filter
    fun x => (needSnoop true x s).isSome

/-- The next tag, rising modulo 2^32, past 0 and those that are unanswered (04 R102). -/
def nextTag (batches : List Batch) : (fuel tag : Nat) → Nat
  | 0, t => t
  | fuel + 1, t => if t = 0 ∨ (batches.any fun b => b.tag = t) then nextTag batches fuel ((t + 1) % 2 ^ 32) else t

/-- The agent of a posted batch waits for its answer; an open strip has rolled back (11 R252). -/
def awaitAnswer (tag : Nat) (src : PostSrc) (s : State) : State :=
  match src with
  | .seq k =>
    let s := if (s.seq k).strip.isSome then rollBack k (countFault k s) else s
    s.waitFor k (.batch tag)
  | .engine c => engPosted c tag s
  | .queueFetch _ | .queueDone _ => s
  | .home x => s.updTag x fun h => { h with hx := some tag }

/-- A batch whose agent no longer waits to post it is gone. -/
def Posting.stale (s : State) : Posting → Bool
  | .batch (.seq k) .. => (s.seq k).wait ≠ .posting
  | .batch (.engine c) _ _ n _ => match s.headCmd c with | some x => x.phase ≠ .batch || x.n ≠ n || x.waiting.isSome | none => true
  | .batch (.home x) .. => match s.homes.find x with | some h => h.hx ≠ some 0 | none => true
  | _ => false

/-- The pages of a batch whose translation faulted and is not cached (R67); a format fault's entry stays cached (04 R74). -/
def faultedPages (es : List FaultEntry) : List Nat := (es.filter fun e => e.cause ≠ 0x07).map fun e => e.page / 4096

/-- A posting goes into the ring, all its slots in a row (R66). -/
def postOne (vi : Nat) (p : Posting) (s : State) : State :=
  match p with
  | .event kind cid detail pc => putRecord vi (eventRecord kind cid detail pc s) s
  | .batch src cid pc number es =>
    let r := (s.vi vi).ring
    let tag := nextTag r.batches (r.batches.length + 2) r.nextTag
    let rs := inRecords es
    let s := thread (fun (e : List FaultEntry × Nat) s =>
      putRecord vi (batchRecord src cid pc number tag e.2 rs.length e.1 s) s) rs.zipIdx s
    let rolled := match src with | .seq k => (s.seq k).strip.isSome | _ => false
    let b : Batch := { tag := tag, src := src, cid := cid, rolled := rolled, pages := es.map fun e => e.page / 4096
                       uncached := faultedPages es }
    awaitAnswer tag src (uncache vi cid b.uncached (s.updRing vi fun r =>
      { r with nextTag := (tag + 1) % 2 ^ 32, batches := r.batches ++ [b] }))

/-- Postings that wait for room: each counts its wait once (R64, R66). -/
def Ring.waiting (ps : List Queued) (r : Ring) : Ring :=
  { r with queue := ps.map fun p => { p with waited := true }
           waits := (r.waits + (ps.filter fun p => !p.waited).length) % 2 ^ 32 }

/-- Postings enter the ring in the order they arose, as long as the interface is enabled, its ring has been set (R477) and
there is room; where the first finds too little, it and those behind it wait. Slots of lines the host holds wait for it. -/
def drain (vi : Nat) : List Queued → State → State
  | [], s => s.updRing vi fun r => { r with queue := [] }
  | p :: ps, s =>
    let v := s.vi vi
    let r := v.ring
    if p.post.stale s then drain vi ps s
    else if !v.en || !r.ready then s.updRing vi fun r => { r with queue := p :: ps }
    else if r.room < p.post.slots then s.updRing vi (Ring.waiting ((p :: ps).filter fun q => !q.post.stale s))
    else match slotSnoops vi p.post.slots s with
      | x :: _ => holdAt x (.req (.faultBatchPost vi)) (snoop x true (s.updRing vi fun r => { r with queue := p :: ps }))
      | [] => drain vi ps (postOne vi p.post s)

/-- The postings of an interface, as far as they go. -/
def drainRing (vi : Nat) (s : State) : State := drain vi (s.vi vi).ring.queue s

/-- FAULT_BATCH_POST (R66, 04 R102). -/
def execFaultBatchPost (vi : Nat) (s : State) : Out := .next (drainRing vi s)

/-- An event joins what is to be posted; the physical function's records go into its list as they are posted (log 37). -/
def postEvent (ring : RingId) (kind cid detail pc : Nat) (s : State) : State :=
  match ring with
  | .pf => { s with mgmt := { s.mgmt with events := s.mgmt.events ++ [eventRecord kind cid detail pc s] } }
  | .vi n => drainRing n (s.updRing n fun r => { r with queue := r.queue ++ [{ post := .event kind cid detail pc }] })

/-- EVENT_POST (R65). -/
def execEventPost (ring : RingId) (kind cid detail pc : Nat) (s : State) : Out := .next (postEvent ring kind cid detail pc s)

end Sys2Proof.Machine
end

