-- ==== Sys2Proof/Machine/Chains.lean ====
section
/-!
DEFINITION. The chain instructions (spec/19_engines_system.md R420 to R423, R428 to R441, R450): ECMD with its checks and the
slate append (spec/05_scheduling.md R118, R436), ECPOLL, ECFENCE, ECABORT, ECSTAT, PRCHK and SLEEPTO.
-/
namespace Sys2Proof.Machine

/-! ## Valid entries (R422, R423, R428 to R436) -/

/-- `n` bytes of an entry from byte `off`. -/
def entryField (ent off n : Nat) : Nat := bitsAt ent (8 * off) (8 * n)

/-- A virtual address of the issuing context. -/
def isVa (a : Nat) : Bool := decide (a < 2 ^ 57)

/-- A virtual address or a peer field. -/
def isAddress (a : Nat) : Bool := isVa a || (decide (2 ^ 63 ≤ a) && decide (bitsAt a 52 11 = 0) && decide (bitsAt a 51 1 = 1))

def between (lo x hi : Nat) : Bool := decide (lo ≤ x) && decide (x ≤ hi)

/-- The fields that every entry with a chain has; `stage` where SSTG and DSTG are legal. -/
def validCommon (ent : Nat) (stage : Bool) : Bool :=
  let done := entryField ent 0 8
  let fl := entryField ent 9 1
  decide (done % 16 = 0) && isVa done && decide (fl / 32 = 0) && (stage || decide (fl / 8 = 0))

def validDolly (die ent : Nat) : Bool :=
  let f := entryField ent
  let op := f 8 1
  if op ≤ 1 then
    validCommon ent true && decide (f 10 1 / 16 = 0) && decide (f 11 1 = 0) && between 1 (f 12 4) (2 ^ 20) && decide (1 ≤ f 32 4)
    && decide (f 36 4 = 0) && decide (f 56 8 = 0)
    && (op = 1 || decide (bitsAt (f 9 1) 3 1 = 1) || isAddress (f 16 8)) && (decide (bitsAt (f 9 1) 4 1 = 1) || isAddress (f 24 8))
  else
    op = 2 && validCommon ent false && decide (f 10 1 = 4 * die) && decide (f 11 1 < 8) && between 1 (f 12 4) (2 ^ 26)
    && isVa (f 16 8) && decide (f 28 1 < 128) && (f 29 1 = 0xD2 || f 29 1 = 0xD3) && decide (f 30 1 < 128) && decide (f 31 1 = 0)
    && decide (bitsAt (f 32 8) 42 6 = 0) && decide (bitsAt (f 32 8) 26 6 = 0) && decide (f 56 8 = 0)

/-- The fields that the casting and mixing engines share. -/
def validRows (ent : Nat) : Bool :=
  let f := entryField ent
  validCommon ent false && decide (f 8 1 = 0) && between 1 (f 10 1) 8 && between 1 (f 12 4) (2 ^ 24 - 1) && isVa (f 16 8)
  && between 1 (f 24 4) 65536 && between 1 (f 28 2) 65535 && decide (f 30 2 = 0) && isVa (f 32 8) && isVa (f 40 8) && isVa (f 48 8)

def validCast (ent : Nat) : Bool := validRows ent && decide (entryField ent 11 1 = 0) && decide (entryField ent 56 8 = 0)

def validMix (ent : Nat) : Bool :=
  let t := entryField ent 11 1
  validRows ent && between 0xB t 0xD && decide (entryField ent 24 4 % (typeBits t / 8) = 0) && isVa (entryField ent 56 8)

def validColl (ent : Nat) : Bool :=
  let f := entryField ent
  validCommon ent false && decide (f 40 8 = 0) && decide (f 48 8 = 0) && decide (f 56 8 = 0)
  && match f 8 1 with
    | 0 => decide (1 ≤ f 12 4) && isVa (f 16 8) && isAddress (f 24 8)
    | 1 => [2, 3, 6, 7, 0xB, 0xC, 0xD].contains (f 10 1) && decide (f 11 1 ≤ 2) && decide (1 ≤ f 12 4) && isAddress (f 16 8)
      && isVa (f 24 8)
    | 2 => isAddress (f 24 8) && decide (f 24 8 % 8 = 0)
    | _ => false

def validDaily (ent : Nat) : Bool :=
  let f := entryField ent
  validCommon ent false && decide (f 8 1 = 0) && decide (f 10 2 = 0) && between 1 (f 12 4) (2 ^ 24 - 1)
  && decide (f 16 8 % 65536 = 0) && isVa (f 16 8) && isVa (f 24 8) && decide (f 32 8 % 16 = 0) && isVa (f 32 8)
  && decide (f 48 8 = 0) && decide (f 56 8 = 0)

def validSlate (ent : Nat) : Bool :=
  let f := entryField ent
  decide (f 0 8 = 0) && decide (f 8 1 = 0) && decide (f 9 1 / 8 = 0) && decide (f 10 1 < 64) && decide (f 11 5 = 0)
  && decide (f 16 8 % 256 = 0) && isVa (f 16 8) && decide (entryField ent 24 40 = 0)

/-- Valid(eng, ent) of R437. -/
def validEntry (die eng ent : Nat) : Bool :=
  match eng with
  | 0 => validDolly die ent
  | 1 => validCast ent
  | 2 => validMix ent
  | 3 => validColl ent
  | 4 => validDaily ent
  | _ => validSlate ent

/-! ## Chains of the issuing context -/

/-- The chain of the current sequencer's context at an engine of its die. -/
def myChain (eng : Nat) (s : State) : ChainId := { vi := s.me.vi, cid := s.me.cid, die := dieOfSeq s.cur, eng := eng }

/-- The chain or the engines of the die are full (R420). -/
def chainFull (c : ChainId) (s : State) : Bool :=
  decide (256 ≤ (s.chain c).cmds.length)
  || decide (4096 ≤ (s.chains.filter fun e => e.1 / 8 % 4 = c.die).foldl (fun n e => n + e.2.cmds.length) 0)

/-- An instruction that observes completion (R439). -/
def observe (c : ChainId) (s : State) : State := s.updMe fun q => { q with pts := max q.pts (s.chain c).doneT }

/-- g[d] takes a value, unless sp may not, and then the completions are observed. -/
def report (d v : Nat) (seen : State → State) (s : State) : Res Flow :=
  (putG d (BitVec.ofNat 64 v) 0 s).andThen fun f s => .ok f (seen s)

/-! ## ECMD (R437) -/

/-- APPEND of a slate (R118, R436): the number of the new slate, 0 where the queue does not take it. -/
def appendSlate (d ent : Nat) (s : State) : Res Flow :=
  let k := s.cur
  let q := s.me
  let n := entryField ent 10 1
  let addr := entryField ent 16 8
  let Q := (s.vi q.vi).queues.getD n {}
  let finish (v : Nat) (s : State) : Res Flow :=
    (produceG d (BitVec.ofNat 64 v) s).andThen fun _ s =>
      .ok .next (s.updMe fun q => { q with n := { q.n with promise := BitVec.ofNat 64 s.cycle } })
  if Q.ctx = 0 ∨ Q.ctx ≠ q.cid ∨ Q.halt then finish 0 s
  else
    let num := Q.qtail.toNat + 1
    let added (s : State) : State :=
      let s := s.updVi q.vi fun v => { v with queues := v.queues.modify n {} fun Q =>
        { Q with qtail := BitVec.ofNat 64 num, addrs := Q.addrs.set num addr, launchT := Q.launchT.set num (s.seq k).pts } }
      s.post (.slateFetch q.vi n)
    if belowLimit d (BitVec.ofNat 64 num) q then .trap 0x08 num s
    else if Q.qtail.toNat ≤ Q.qdone then
      finish num (added (s.updVi q.vi fun v => { v with queues := v.queues.modify n {} fun Q =>
        { Q with qhead := BitVec.ofNat 64 addr, headN := num, next := num, linkOf := none } }))
    else match Q.addrs.find Q.qtail.toNat with
      | none => .wait (s.waitFor k .append)
      | some last => (storeAt last 8 addr s).andThen fun _ s => finish num (added s)

/-- A command joins its chain. -/
def enqueue (c : ChainId) (va ent : Nat) (s : State) : State :=
  let k := s.cur
  let q := s.me
  let ch := s.chain c
  let slot := match q.bound with | some b => b.slot | none => 1024
  let promise := max s.cycle ch.lastPromise + Config.promiseCost c.eng ent
  let op := entryField ent 8 1
  let x : Cmd :=
    { n := ch.last + 1, va := va, entry := ent, k := k, slot := slot, priv := q.n.priv, fctl := q.c.fctl, clock := q.pts,
      promise := promise
      phase := if c.eng = 1 ∨ c.eng = 4 ∨ (c.eng = 3 ∧ op = 2) then .operate else .segment }
  let s := s.updChain c fun ch => { ch with last := ch.last + 1, cmds := ch.cmds ++ [x], lastPromise := promise }
  let s := { s with slates := match s.slates.find slot with
    | some sl => s.slates.set slot { sl with commands := sl.commands + 1 }
    | none => s.slates }
  let s := s.updMe fun q => { q with n := { q.n with promise := BitVec.ofNat 64 promise } }
  let s := if c.eng = 0 ∧ op = 2 then
      s.updMe fun q => ({ q with follow := q.follow + 1 }).setFull (.a (entryField ent 11 1 % 8)) false
    else s
  if ch.cmds = [] then engGo c s else s

def ecmd (word eng d a : Nat) (s : State) : Res Flow :=
  let E := (s.me.gRead a).toNat
  (loadAt E 64 s).andThen fun ent s =>
    let die := dieOfSeq s.cur
    let ft := entryField ent 11 1 % 8
    let c := myChain eng s
    if !validEntry die eng ent then .trap 0x03 word s
    else if eng = 0 ∧ entryField ent 8 1 = 2 ∧ !s.me.n.claim.getLsbD ft then .trap 0x02 (0x300 + ft) s
    else if eng = 5 then appendSlate d ent s
    else if chainFull c s then .wait (s.waitFor s.cur (.chain (some eng)))
    else
      let n := BitVec.ofNat 64 ((s.chain c).last + 1)
      if belowLimit d n s.me then .trap 0x08 n.toNat s
      else (produceG d n (enqueue c E ent s)).andThen fun _ s => .ok .next s

/-- ECMD (R437). -/
def execEcmd (d a : BitVec 5) (e : BitVec 1) (f : BitVec 3) (s : State) : Out :=
  let w := (Instr.ecmd d a e f).encodeNat
  issue (ops2 w (gr d) (gr a) e true).closing (ecmd w f.toNat d.toNat a.toNat) s

/-! ## Observing and stopping (R439, R440) -/

/-- ECPOLL. -/
def execEcpoll (d : BitVec 5) (f : BitVec 3) (s : State) : Out :=
  issue (opsD (Instr.ecpoll d f).encodeNat (gr d)) (fun s =>
    let c := myChain f.toNat s
    report d.toNat (s.chain c).done (observe c) s) s

/-- ECFENCE: one chain, or .ALL of engines 0 to 4. -/
def execEcfence (d : BitVec 5) (f : BitVec 4) (s : State) : Out :=
  issue (opsD (Instr.ecfence d f).encodeNat (gr d)).closing (fun s =>
    let engs := if f.toNat = 8 then [0, 1, 2, 3, 4] else [f.toNat]
    if engs.all fun e => (s.chain (myChain e s)).cmds = [] then
      let v := if f.toNat = 8 then 0 else (s.chain (myChain f.toNat s)).done
      report d.toNat v (fun s => thread (fun e s => observe (myChain e s) s) engs s) s
    else .wait (s.waitFor s.cur (.chain (if f.toNat = 8 then none else some f.toNat)))) s

/-- ECABORT: commands from a number on are stopped, and it waits until they have completed. -/
def execEcabort (d a : BitVec 5) (e : BitVec 1) (f : BitVec 3) (s : State) : Out :=
  issue (ops2 (Instr.ecabort d a e f).encodeNat (gr d) (gr a) e true).closing (fun s =>
    let c := myChain f.toNat s
    let n := (s.me.gRead a.toNat).toNat
    let stops := BitVec.ofNat 64 (engAbort c n s).1
    if s.me.note.isNone ∧ belowLimit d.toNat stops s.me then .trap 0x08 stops.toNat s else
    let s := match s.me.note with
      | some _ => s
      | none => (engAbort c n s).2.updMe fun q => { q with note := some { value := some stops } }
    if (s.chain c).cmds.any fun x => x.stop && decide (n ≤ x.n) then .wait (s.waitFor s.cur (.chain (some f.toNat)))
    else report d.toNat ((s.me.note.bind Note.value).getD 0).toNat (observe c) s) s

/-- ECSTAT. -/
def execEcstat (d : BitVec 5) (f : BitVec 3) (s : State) : Out :=
  issue (opsD (Instr.ecstat d f).encodeNat (gr d)) (fun s =>
    let ch := s.chain (myChain f.toNat s)
    report d.toNat (ch.last % 2 ^ 32 * 2 ^ 32 + ch.cmds.length % 2 ^ 16 * 2 ^ 16 + ch.doneStatus % 256 * 2 ^ 8)
      (observe (myChain f.toNat s)) s) s

/-- PRCHK. -/
def execPrchk (d a : BitVec 5) (e : BitVec 1) (f : BitVec 3) (s : State) : Out :=
  let w := encSY 0xFD d.toNat a.toNat e.toNat 0 0 f.toNat
  issue (ops2 w (gr d) (gr a) e true) (fun s =>
    let c := myChain f.toNat s
    let ch := s.chain c
    let n := (s.me.gRead a.toNat).toNat
    if n = 0 ∨ ch.last < n then .trap 0x03 w s
    else if n ≤ ch.done then report d.toNat 0 (observe c) s
    else
      let promise := match ch.cmds.find? fun x => x.n = n with | some x => x.promise | none => 0
      putG d.toNat (if s.cycle ≤ promise then 1 else 2) 0 s) s

/-! ## SLEEPTO (R441) -/

/-- SLEEPTO: g[d] names a command, g[a] a time. -/
def execSleepto (d a : BitVec 5) (e : BitVec 1) (f : BitVec 3) (s : State) : Out :=
  let w := (Instr.sleepto d a e f).encodeNat
  issue { word := w, regs := [gr d, gr a], sources := [(gr d, false), (gr a, eb e)], closes := true } (fun s =>
    let c := myChain f.toNat s
    let ch := s.chain c
    let n := (s.me.gRead d.toNat).toNat
    let t := (s.me.gRead a.toNat).toNat
    if n = 0 ∨ ch.last < n then .trap 0x03 w s
    else if n ≤ ch.done then .ok .next (observe c s)
    else if t ≤ s.cycle then .trap 0x0D n s
    else .wait (s.waitFor s.cur (.sleepto f.toNat n t))) s

/-- SLEEPTO_WAKE: the instruction judges again. -/
def execSleeptoWake (k : Agent) (s : State) : Out :=
  .next (match (s.seq k).wait with
    | .sleepto .. => s.wake k
    | _ => s)

end Sys2Proof.Machine
end

