-- ==== Sys2Proof/Machine/Slates.lean ====
section
/-!
DEFINITION. Slates (spec/05_scheduling.md): the fetch and the checks (R106 to R109; spec/03_host_interface.md R61), admission
with its timestamp (R110, R111; spec/01_package.md R15), placement and Stage reservations (R112), completion and the
completion word (R115; spec/03_host_interface.md R62).
-/
namespace Sys2Proof.Machine

/-! ## The slate in memory (R106 to R108) -/

/-- `n` bytes of a slate from byte `off`. -/
def slateField (b off n : Nat) : Nat := bitsAt b (8 * off) (8 * n)

/-- Level descriptor `i`, counted from 0. -/
def slateLevel (b i : Nat) : Level :=
  { extent := slateField b (128 + 16 * i) 4, chunk := slateField b (132 + 16 * i) 4
    domain := slateField b (136 + 16 * i) 1, scope := slateField b (137 + 16 * i) 1 }

def slateLevels (b : Nat) : List Level := (List.range (slateField b 10 1)).map (slateLevel b)

/-- Dependence entry `i`: V, queue and number. -/
def slateDep (b i : Nat) : Bool × Nat × Nat :=
  let x := slateField b (64 + 8 * i) 8
  (x / 2 ^ 63 = 1, bitsAt x 57 6, bitsAt x 0 57)

def product (xs : List Nat) : Nat := xs.foldl (· * ·) 1

/-- The checks of R109 on levels: domains never widen inwards, the innermost is a sequencer's and has a CHUNK. -/
def levelsOk : (outer : Nat) → List Level → Bool
  | _, [] => true
  | outer, l :: ls =>
    decide (l.domain ≤ 4) && decide (outer ≤ l.domain) && decide (l.scope ≤ 7) && decide (4 - l.domain ≤ l.scope)
    && decide (1 ≤ l.extent)
    && (if ls = [] then decide (l.domain = 4) && decide (1 ≤ l.chunk) && decide (l.chunk ≤ l.extent) else decide (l.chunk = 0))
    && levelsOk l.domain ls

/-- Completion bits: one for each CHUNK of innermost indices (R115). -/
def completionBits (ls : List Level) : Nat :=
  match ls.getLast? with
  | some l => product ((ls.dropLast).map Level.extent) * ((l.extent + l.chunk - 1) / max l.chunk 1)
  | none => 0

/-- The checks of R109 on slate `n` of queue `q` of a context that may claim `maxTiles` tiles. -/
def slateOk (b q n maxTiles : Nat) : Bool :=
  let f := slateField b
  let nlev := f 10 1
  let ls := slateLevels b
  decide (f 8 2 = 1) && decide (1 ≤ nlev) && decide (nlev ≤ 8)
  && decide (f 11 1 / 4 = 0) && decide (f 12 4 = 0) && decide (f 46 2 = 0) && decide (f 52 4 = 0)
  && ((List.range 8).all fun i =>
    if i < nlev then decide (f (138 + 16 * i) 6 = 0) else decide (f (128 + 16 * i) 16 = 0))
  && ((List.range 8).all fun i =>
    let d := slateDep b i
    if d.1 then decide (¬(d.2.1 = q ∧ n ≤ d.2.2)) else decide (f (64 + 8 * i) 8 = 0))
  && levelsOk 0 ls
  && decide (product (ls.map Level.extent) ≤ 2 ^ 48) && decide (completionBits ls ≤ 2 ^ 27)
  && decide (f 44 1 ≤ 5) && decide (f 45 1 ≤ maxTiles)
  && decide (f 48 4 % 4096 = 0) && decide (f 48 4 ≤ 56 * 2 ^ 20)
  && decide (f 16 8 % 4 = 0)
  && (decide (f 40 4 = 0) || decide (f 32 8 % 4096 = 0)) && decide (f 40 4 % 4096 = 0)
  && decide (f 32 8 + 8192 * f 40 4 ≤ 2 ^ 57)

/-! ## Queues -/

def State.queue (s : State) (vi q : Nat) : Queue := (s.vi vi).queues.getD q {}
def State.updQueue (s : State) (vi q : Nat) (f : Queue → Queue) : State :=
  s.updVi vi fun v => { v with queues := v.queues.modify q {} f }

/-- The queue halts with an error (03 R60). -/
def haltQueue (vi q err : Nat) (s : State) : State := s.updQueue vi q fun Q => { Q with halt := true, err := err }

/-- Every queue with a fetched slate tries its admission again. -/
def kickAdmit (s : State) : State :=
  thread (fun (v : Nat × Vi) s =>
    thread (fun (Q : Nat × Queue) s => if Q.2.ready = [] then s else s.post (.slateAdmit v.1 Q.1)) v.2.queues s) s.vis s

/-! ## What the director core reads and writes -/

/-- The admitting director core as an accessor of a context (05 R110): no clock of its own and no core TLB. -/
def directorAccessor (vi cid : Nat) (w : Waiting) (s : State) : Accessor :=
  { vi := vi, cid := cid, priv := match (s.vi vi).ctxs.find cid with | some c => c.priv | none => false
    w := w, core := 4096, die := s.mgmt.master, pins := [], stat := 128 }

/-- Lines open at their homes for a read that leaves no copy. -/
def openPeeks (vi : Nat) (w : Waiting) : List Nat → State → Res (List (Nat × HomeLine Nat))
  | [], s => .ok [] s
  | x :: xs, s =>
    (openLine .peek x vi w false s).andThen fun h s =>
      (openPeeks 128 w xs s).andThen fun hs s => .ok ((x, h) :: hs) s

/-- A line read at t (R110). -/
def raiseRts (t x : Nat) (s : State) : State :=
  match s.home x with
  | some h => s.setHome x { h with rts := max h.rts t }
  | none => raiseMts x t s

/-- `n` bytes of one page of a context's memory, with the largest write time of their lines (R110), through a matte where
the page has one (04 R87). -/
def directorRead (vi cid va n : Nat) (w : Waiting) (s : State) : Res (Faulty (Nat × Nat)) :=
  (translate (directorAccessor vi cid w s) va .read false 0 s).andThen fun r s =>
    match r.1 with
    | .error e => .ok (.error e) s
    | .ok l =>
      let pa := l.pa va
      if tierOf pa = .peer then .ok (.error (0x0D, peerId pa)) s
      else
        let root := rootOf vi cid s
        let recs := if l.mv then [lineOf (recordAddr root l.mid s)] else []
        (openPeeks 128 w recs s).andThen fun rs s =>
          let src (x : Nat) : Nat := match rs with
            | e :: _ => if bitsAt (recMask e.2.data) (x % 32) 1 = 1 then lineOf (slotAddr root (recPtr e.2.data (x % 32)) s) else x
            | [] => x
          let xs := (List.range ((pa % 128 + n + 127) / 128)).map fun j => src (lineOf pa + j)
          (openPeeks 128 w xs s).andThen fun hs s =>
            let t := (rs ++ hs).foldl (fun t e => max t e.2.wts) 0
            let v := hs.foldr (fun e v => v * 2 ^ 1024 + e.2.data.toNat) 0
            if (rs ++ hs).any fun e => e.2.code = 15 then .ok (.error (0x0E, 0)) s
            else storing t w s fun s =>
              .ok (.ok (bitsAt v (8 * (pa % 128)) (8 * n), t)) (thread (fun e s => raiseRts t e.1 s) (rs ++ hs) s)

/-- A queue-source batch joins the interface's postings (03 R61, R62; 04 R102). -/
def queueBatch (vi q : Nat) (src : PostSrc) (va number : Nat) (write : Bool) (e : Nat × Nat) (s : State) : State :=
  let f : FaultEntry :=
    { page := va / 4096 * 4096 % 2 ^ 57, access := if write then 1 else 0, cause := e.1, first := 0, count := 1, detail := e.2 }
  let s := s.updVi vi fun v =>
    { v with ring := { v.ring with queue := v.ring.queue ++ [{ post := .batch src (s.queue vi q).ctx va number [f] }] } }
  s.post (.faultBatchPost vi)

/-! ## SLATE_FETCH (03 R61, 05 R109) -/

/-- The address of slate `n` is known: QHEAD has it where the slate is the one after QDONE (03 R59). -/
def learnAddr (vi q n va : Nat) (s : State) : State :=
  s.updQueue vi q fun Q =>
    let first := n = Q.qdone + 1
    { Q with addrs := Q.addrs.set n va, qhead := if first then BitVec.ofNat 64 va else Q.qhead, headN := if first then n else Q.headN }

/-- A slate has been fetched: it waits for admission, appends that waited go on, and the next is fetched. -/
def slateFetched (vi q va b t : Nat) (s : State) : State :=
  let Q := s.queue vi q
  let n := Q.next
  let t := max t (max s.hostHorizon (Q.launchT.getD n 0))
  let s := s.updQueue vi q fun Q =>
    { Q with
      ready := Q.ready ++ [{ n := n, addr := va, bytes := b, t := t }], inflight := Q.inflight ++ [n]
      next := n + 1, linkOf := some va, launchT := Q.launchT.erase n }
  let ks := (s.seqs.filter fun e => e.2.wait = .append).map Prod.fst
  ((thread (fun k s => s.wake k) ks s).post (.slateFetch vi q)).post (.slateAdmit vi q)

/-- Fetching is under way for nothing: the next slate of the queue is due (R61, R63). -/
def fetchOpen (v : Vi) (Q : Queue) : Bool :=
  v.en && Q.en && !Q.halt && !Q.fetchWait && decide (Q.next ≤ Q.qtail.toNat)
  && match v.ctxs.find Q.ctx with | some c => !c.lost && !c.dying | none => false

/-- A fetch meets a fault: a batch, and the fetch waits for its answer. -/
def fetchFault (vi q va : Nat) (e : Nat × Nat) (s : State) : State :=
  queueBatch vi q (.queueFetch q) va (s.queue vi q).next false e (s.updQueue vi q fun Q => { Q with fetchWait := true })

/-- The slate at an address is read and checked; one that is not 256-byte aligned is bad (log 45). -/
def fetchAt (vi q va : Nat) (s : State) : State :=
  let Q := s.queue vi q
  let w := Waiting.req (.slateFetch vi q)
  let s := learnAddr vi q Q.next va s
  let maxTiles := match (s.vi vi).ctxs.find Q.ctx with | some c => c.maxTiles | none => 0
  if va % 256 ≠ 0 then haltQueue vi q 3 s
  else match directorRead vi Q.ctx va 256 w s with
    | .ok (.ok r) s => if slateOk r.1 q Q.next maxTiles then slateFetched vi q va r.1 r.2 s else haltQueue vi q 3 s
    | .ok (.error e) s => fetchFault vi q va e s
    | .wait s => s
    | .trap _ _ s => s
    | .fault _ s => s

/-- QHEAD of a queue that fetches nothing: with every slate fetched complete and one more appended, the last link is read for it
(03 R59, R61). -/
def readHead (vi q : Nat) (s : State) : State :=
  let Q := s.queue vi q
  if Q.next ≠ Q.qdone + 1 ∨ Q.qtail.toNat < Q.next ∨ Q.headN = Q.next then s
  else match Q.linkOf with
    | none => s
    | some a => match directorRead vi Q.ctx a 8 (.req (.slateFetch vi q)) s with
      | .ok (.ok r) s => if r.1 = 0 then s else (learnAddr vi q Q.next r.1 s).updQueue vi q fun Q => { Q with linkOf := none }
      | .ok (.error _) s | .wait s | .trap _ _ s | .fault _ s => s

/-- SLATE_FETCH: through QHEAD or the link of the slate before; a link of 0 halts the queue with BADCHAIN. -/
def slateFetch (vi q : Nat) (s : State) : State :=
  let Q := s.queue vi q
  if !fetchOpen (s.vi vi) Q then readHead vi q s
  else match Q.linkOf with
    | none => fetchAt vi q Q.qhead.toNat s
    | some a =>
      match directorRead vi Q.ctx a 8 (.req (.slateFetch vi q)) s with
      | .ok (.ok r) s => if r.1 = 0 then haltQueue vi q 1 s else fetchAt vi q r.1 s
      | .ok (.error e) s => fetchFault vi q a e s
      | .wait s => s
      | .trap _ _ s => s
      | .fault _ s => s

def execSlateFetch (vi q : Nat) (s : State) : Out := .next (slateFetch vi q s)

/-! ## Placement (R112) -/

def Slate.extents (sl : Slate) : List Nat := sl.levels.map Level.extent
def Slate.inner (sl : Slate) : Level := sl.levels.getLastD { extent := 1, chunk := 1, domain := 4, scope := 0 }

/-- The outermost level whose DOMAIN is 1 or above, counted from 0. -/
def placeLevel (ls : List Level) : Nat := ls.findIdx fun l => 1 ≤ l.domain

/-- The number of placement prefixes. -/
def Slate.prefixes (sl : Slate) : Nat := product (sl.extents.take (placeLevel sl.levels + 1))

/-- The innermost level is the placement level: each innermost index is a prefix (log 44). -/
def Slate.dealsInner (sl : Slate) : Bool := placeLevel sl.levels + 1 = sl.levels.length

/-- Flattened outer indices. -/
def Slate.outers (sl : Slate) : Nat := product sl.extents.dropLast

/-- The prefix of a work item: flattened outer index and innermost index. -/
def Slate.prefixOf (sl : Slate) (f i : Nat) : Nat :=
  if sl.dealsInner then f * sl.inner.extent + i else f / product (sl.extents.dropLast.drop (placeLevel sl.levels + 1))

/-- The die of a prefix: dealt round robin, or dealt again. -/
def Slate.dieOf (sl : Slate) (p : Nat) : Nat := sl.moved.getD p (sl.dies.getD (p % max sl.dies.length 1) 0)

/-- The index of level `j` in a flattened outer index. -/
def Slate.indexAt (sl : Slate) (f j : Nat) : Nat :=
  f / product (sl.extents.dropLast.drop (j + 1)) % max 1 (sl.extents.getD j 1)

/-- The dies that hold prefixes of a slate. -/
def Slate.homeDies (sl : Slate) : List Nat := dedup (sl.dies.take (min sl.prefixes sl.dies.length) ++ sl.moved.map Prod.snd)

/-- The live dies, in ascending number. -/
def liveDies (s : State) : List Nat := (List.range 4).filter fun d => !(s.die d).fenced

/-! ## Stage reservations (R112; 06 R140) -/

/-- Stage blocks of a die that are retired (01 R21). -/
def stageRetired (die : Nat) (s : State) : List Nat :=
  s.retiredLog.filterMap fun r => match r with | .stageBlock d b => if d = die then some (4096 * b) else none | _ => none

/-- The lowest place of `n` bytes that no reservation and no retired block of the die touches (log 46). -/
def stageFit (taken : List (Nat × Nat)) (n : Nat) : (fuel base : Nat) → Option Nat
  | 0, _ => none
  | fuel + 1, base =>
    if 2 ^ 26 < base + n then none
    else match taken.find? fun t => t.1 < base + n && base < t.1 + t.2 with
      | some t => stageFit taken n fuel (t.1 + t.2)
      | none => some base

/-- What is taken of a die's Stage memory. -/
def stageTaken (die : Nat) (s : State) : List (Nat × Nat) :=
  (s.slates.filterMap fun e => (e.2.resv.find die).map fun b => (b, e.2.stage)) ++ (stageRetired die s).map fun b => (b, 4096)

/-- Stage bytes of a die set to zero. -/
def stageZero (die base n : Nat) (s : State) : State :=
  { s with stage := s.stage.filter fun c => !(stageAt die base ≤ c.1 && c.1 < stageAt die base + n) }

/-- The die reserves and zeroes STAGE bytes for the slate, where enough is free. -/
def reserveStage (die slot : Nat) (s : State) : State :=
  match s.slates.find slot with
  | none => s
  | some sl =>
    let taken := stageTaken die s
    match stageFit taken sl.stage (taken.length + 1) 0 with
    | none => s
    | some b => stageZero die b sl.stage { s with slates := s.slates.set slot { sl with resv := sl.resv.set die b } }

/-- STAGE_RESERVE: on a die that holds prefixes of the slate and has not reserved for it. -/
def stageReserve (die slot : Nat) (s : State) : State :=
  match s.slates.find slot with
  | none => s
  | some sl =>
    if (sl.resv.find die).isSome ∨ sl.abandoned ∨ (s.die die).fenced ∨ die ∉ sl.homeDies then s
    else reserveStage die slot s

def execStageReserve (die slot : Nat) (s : State) : Out := .next (stageReserve die slot s)

/-- Dies that hold prefixes of a slate and have made no reservation for it try again. -/
def kickReserve (s : State) : State :=
  thread (fun (e : Nat × Slate) s =>
    if e.2.stage = 0 then s
    else thread (fun d s => s.post (.stageReserve d e.1)) (e.2.homeDies.filter fun d => (e.2.resv.find d).isNone) s) s.slates s

/-! ## SLATE_ADMIT (R110, R111; 01 R15) -/

/-- An energy fits the window's budget: microjoules against watts over 2^24 cycles of 1 ns. -/
def energyFits (watts e : Nat) : Bool := decide (1000 * e ≤ watts * 2 ^ 24)

/-- Energy admission (01 R15). -/
def energyAdmits (est : Nat) (s : State) : Bool :=
  energyFits s.budget (s.committed + est) || (s.committed = 0 && !energyFits s.budget est)

/-- The completion times of slates up to a number of a queue. -/
def doneTimes (vi q n : Nat) (s : State) : Nat :=
  (s.queue vi q).doneT.foldl (fun t e => if e.1 ≤ n then max t e.2 else t) 0

/-- The dependences of a fetched slate that count. -/
def slateDeps (b : Nat) : List (Nat × Nat) := ((List.range 8).map (slateDep b)).filterMap fun d => if d.1 then some d.2 else none

/-- A fetched slate as it is admitted. -/
def admittedSlate (vi q : Nat) (f : Fetched) (admitT : Nat) (s : State) : Slate :=
  let b := f.bytes
  { vi := vi, cid := (s.queue vi q).ctx, q := q, number := f.n, flags := slateField b 11 1
    pc := BitVec.ofNat 64 (slateField b 16 8), arg := BitVec.ofNat 64 (slateField b 24 8)
    stackBase := slateField b 32 8, stackSize := slateField b 40 4, nvlog := slateField b 44 1, tiles := slateField b 45 1
    stage := slateField b 48 4, energy := slateField b 56 8, levels := slateLevels b, admitT := admitT, doneT := admitT
    dies := liveDies s }

/-- SLATE_ADMIT: the first fetched slate of the queue, when it may. -/
def slateAdmit (vi q : Nat) (s : State) : State :=
  let Q := s.queue vi q
  match Q.ready with
  | [] => s
  | f :: rest =>
    let ordered := bitsAt (slateField f.bytes 11 1) 1 1 = 1
    let deps := slateDeps f.bytes
    let met := deps.all (fun d => decide (d.2 ≤ (s.queue vi d.1).qdone)) && (!ordered || decide (f.n ≤ Q.qdone + 1))
    let own := slateField f.bytes 56 8
    let guess := if own = 0 then Q.est.toNat else own
    let est := guess + Q.excess
    let lost := match (s.vi vi).ctxs.find Q.ctx with | some c => c.lost || c.dying | none => true
    let room := decide (s.slates.length < 1024) && decide ((s.slates.filter fun e => e.2.vi = vi).length < 64)
    if !met || lost || !room || s.mgmt.elect || !energyAdmits est s || liveDies s = [] then s
    else
      let t := deps.foldl (fun t d => max t (doneTimes vi d.1 d.2 s)) f.t
      let t := if ordered then max t (doneTimes vi q (f.n - 1) s) else t
      match (List.range 1024).find? fun n => (s.slates.find n).isNone with
      | none => s
      | some slot =>
        let sl := admittedSlate vi q f t s
        let s := { s with slates := s.slates.set slot { sl with energy := guess }, committed := s.committed + est }
        kickReserve ((s.updQueue vi q fun Q => { Q with ready := rest, excess := 0 }).post (.slateAdmit vi q))

def execSlateAdmit (vi q : Nat) (s : State) : Out := .next (slateAdmit vi q s)

/-! ## SLATE_COMPLETE (R115; 03 R62) -/

/-- QDONE rises as far as every slate has completed; QHEAD follows (03 R59). -/
def raiseDone : (fuel : Nat) → Queue → Queue
  | 0, Q => Q
  | fuel + 1, Q =>
    if Q.doneSet.contains (Q.qdone + 1) then
      let n := Q.qdone + 1
      let Q := { Q with qdone := n, doneSet := Q.doneSet.filter (· ≠ n), addrs := if Q.next = n + 1 then Q.addrs else Q.addrs.erase n }
      raiseDone fuel (match Q.addrs.find (n + 1) with
        | some a => { Q with qhead := BitVec.ofNat 64 a, headN := n + 1 }
        | none => Q)
    else Q

/-- The key under which the completion word of a queue is written again. -/
def wordKey (vi q : Nat) : Nat := 1024 + 64 * vi + q

/-- The completion word: QDONE through the bound context's translation, after every effect of its slates, a release to the
host: their stores to the host window have been observed (R62; 09 R209). A fault posts a batch and the queue waits for the answer. -/
def writeWord (vi q : Nat) (s : State) : State :=
  let Q := s.queue vi q
  let va := Q.doneAddr.toNat
  let w := Waiting.req (.slateComplete (wordKey vi q))
  let clock := doneTimes vi q Q.qdone s
  let fail (e : Nat × Nat) (s : State) : State :=
    queueBatch vi q (.queueDone q) va Q.qdone true e (s.updQueue vi q fun Q => { Q with wordWait := true })
  if Q.wordWait || Q.wordHalt || Q.hostFrom ≠ [] || ((s.vi vi).ctxs.find Q.ctx).isNone then s
  else
    let a := directorAccessor vi Q.ctx w s
    match translate a va .write true clock s with
    | .ok (.error e, _) s => fail e s
    | .ok (.ok l, t) s =>
      let pa := l.pa va
      let o := pa % 128
      let f (_ : Line) : Line × LineMask := (lineWith o (Q.qdone % 2 ^ 64), maskOf o 8)
      if tierOf pa = .peer then fail (0x0D, peerId pa) s
      else if l.mv then
        let root := rootOf vi Q.ctx s
        let x := lineOf pa
        let b := f 0
        match homeAllocate root 128 t w (lineOf (recordAddr root l.mid s)) (x % 32) x b.1 b.2 s with
        | .ok .empty s => fail (0x08, 1) s
        | .ok (.poison _) s => fail (0x0E, 0) s
        | .ok (.bad tier) s => fail (0x05, tier) s
        | .ok (.done _) s | .wait s | .trap _ _ s | .fault _ s => s
      else
        match homeAtomic (lineOf pa) t 128 w f s with
        | .ok _ s => if tierOf pa = .host then hostStore vi (lineOf pa) (f 0).1 (f 0).2 s else s
        | .wait s | .trap _ _ s | .fault _ s => s
    | .wait s | .trap _ _ s | .fault _ s => s

/-- The stores to the host window that the sequencers of a slate still have out. -/
def Slate.hostStores (sl : Slate) (s : State) : AMap Nat :=
  sl.workers.foldl (fun m k => if (s.seq k).hostOut = 0 then m else m.set k (s.seq k).hostOut) []

/-- One store of a sequencer has been observed by the host: completion words that waited for it are written. -/
def wordsObserved (k : Agent) (s : State) : State :=
  let less (m : AMap Nat) : AMap Nat := (m.map fun e => if e.1 = k then (k, e.2 - 1) else e).filter fun e => e.2 ≠ 0
  let due : List Due := s.vis.flatMap fun v => v.2.queues.filterMap fun Q =>
    if Q.2.hostFrom ≠ [] ∧ less Q.2.hostFrom = [] then some (.slateComplete (wordKey v.1 Q.1)) else none
  if s.vis.any fun v => v.2.queues.any fun Q => (Q.2.hostFrom.find k).isSome then
    { s with vis := s.vis.map fun v => (v.1, { v.2 with queues := v.2.queues.map fun Q => (Q.1, { Q.2 with hostFrom := less Q.2.hostFrom }) })
             due := s.due ++ due }
  else s

/-- Every index of the slate has ended and no engine command is out (R115). -/
def Slate.ended (sl : Slate) : Bool := decide (product sl.extents ≤ sl.doneCount) && decide (sl.commands = 0)

/-- The slate leaves its slot with its reservations. -/
def releaseSlate (slot : Nat) (s : State) : State := kickAdmit (kickReserve { s with slates := s.slates.erase slot })

/-- SLATE_COMPLETE. A number from 1,024 up stands for a queue whose completion word is written (again). -/
def slateComplete (slot : Nat) (s : State) : State :=
  if 1024 ≤ slot then writeWord ((slot - 1024) / 64) ((slot - 1024) % 64) s
  else match s.slates.find slot with
    | none => s
    | some sl =>
      if sl.abandoned then (if sl.commands = 0 then releaseSlate slot s else s)
      else if !sl.ended then s
      else
        let before := (s.queue sl.vi sl.q).qdone
        let s := s.updQueue sl.vi sl.q fun Q =>
          raiseDone (Q.doneSet.length + 1)
            { Q with inflight := Q.inflight.filter (· ≠ sl.number), doneSet := sl.number :: Q.doneSet
                     doneT := Q.doneT.set sl.number sl.doneT, excess := Q.excess + (sl.used - sl.energy)
                     hostFrom := (sl.hostStores s).foldl (fun m e => m.set e.1 (max (m.getD e.1 0) e.2)) Q.hostFrom }
        let s := if bitsAt sl.flags 0 1 = 1 then { s with outbox := s.outbox ++ [.msix sl.vi 1] } else s
        let s := if (s.queue sl.vi sl.q).qdone ≠ before then
            (s.post (.slateComplete (wordKey sl.vi sl.q))).post (.slateFetch sl.vi sl.q)
          else s
        releaseSlate slot s

def execSlateComplete (slot : Nat) (s : State) : Out := .next (slateComplete slot s)

end Sys2Proof.Machine
end

