-- ==== Sys2Proof/Machine/Sched.lean ====
section
/-!
DEFINITION. From admitted slates to running sequencers (spec/05_scheduling.md): stride scheduling and call entries (R113,
R116), the start of an entry (R114), the end of its work (R115), pre-emption (R119, R120), context saves and resumes
(spec/11_execution_state.md R254, R261 to R264), fences, election and reissue (R122 to R124).
-/
namespace Sys2Proof.Machine

/-! ## Unbound work of a slate (R113, R115) -/

/-- The end of a range that covers index `i`. -/
def coveredTo (rs : List (Nat × Nat)) (i : Nat) : Option Nat :=
  (rs.find? fun r => r.1 ≤ i ∧ i < r.1 + r.2).map fun r => r.1 + r.2

/-- The lowest unbound innermost index under outer index `f` that is placed on a die. -/
def Slate.nextIndex (sl : Slate) (f die : Nat) : (fuel i : Nat) → Option Nat
  | 0, _ => none
  | fuel + 1, i =>
    if sl.inner.extent ≤ i then none
    else match coveredTo (sl.bound.getD f []) i with
      | some j => sl.nextIndex f die fuel j
      | none =>
        if sl.dieOf (sl.prefixOf f i) = die then some i
        else if sl.dealsInner then sl.nextIndex f die fuel (i + 1) else none

def Slate.open_ (sl : Slate) (f die : Nat) : Option Nat :=
  sl.nextIndex f die (8 * ((sl.bound.getD f []).length + sl.moved.length + 8)) 0

/-- How many indices from `i` on are unbound and on the die, at most `n`. -/
def Slate.runFrom (sl : Slate) (f die : Nat) : (n i : Nat) → Nat
  | 0, _ => 0
  | n + 1, i =>
    if i < sl.inner.extent ∧ coveredTo (sl.bound.getD f []) i = none ∧ sl.dieOf (sl.prefixOf f i) = die
    then 1 + sl.runFrom f die n (i + 1) else 0

/-- COUNT of an entry (R113): a multiple of CHUNK, but where the range ends at EXTENT, and where fewer indices in a row than a
CHUNK lie on the die (log 44). -/
def Slate.countFrom (sl : Slate) (f die i count : Nat) : Nat :=
  let c := max 1 sl.inner.chunk
  let n := sl.runFrom f die (min (max 1 (count / c) * c) (sl.inner.extent - i)) i
  if i + n = sl.inner.extent ∨ n < c then n else n / c * c

/-! ## Instances (R107) -/

/-- The instance of a DOMAIN that contains a sequencer. -/
def instanceOf (domain k : Nat) : Nat :=
  match domain with
  | 0 => 0
  | 1 => dieOfSeq k
  | 2 => clusterOfSeq k
  | 3 => coreOfSeq k
  | _ => k

/-- The outer indices above a work item, as level and flattened index. -/
def Slate.above (sl : Slate) (f : Nat) : List (Nat × Nat) :=
  (List.range (sl.levels.length - 1)).map fun j => (j, f / product (sl.extents.dropLast.drop (j + 1)))

/-- A sequencer lies in the instances that the outer indices have taken. -/
def Slate.instOk (sl : Slate) (f k : Nat) : Bool :=
  (sl.above f).all fun a => match sl.insts.find? fun x => x.1 = a with
    | some x => x.2 = instanceOf (sl.levels.getD a.1 sl.inner).domain k
    | none => true

/-- The outer indices take the instances of a sequencer. -/
def Slate.settle (sl : Slate) (f k : Nat) : Slate :=
  let new := (sl.above f).filter fun a => !(sl.insts.any fun x => x.1 = a)
  { sl with insts := sl.insts ++ new.map fun a => (a, instanceOf (sl.levels.getD a.1 sl.inner).domain k) }

/-! ## The call sheet (R113) -/

/-- The ring of a sequencer's row. -/
def rowOf (k : Agent) (s : State) : List CallEntry := (s.die (dieOfSeq k)).rows.getD (k % 2048) []

/-- Every call entry of the device. -/
def allEntries (s : State) : List (Agent × CallEntry) :=
  (s.dies.toList.zipIdx).flatMap fun d => d.1.rows.flatMap fun r => r.2.map fun e => (2048 * d.2 + r.1, e)

/-- Accumulator tiles of a cluster that entries of its rows use. -/
def tilesUsed (c : Nat) (s : State) : Nat :=
  (allEntries s).foldl (fun n e => if clusterOfSeq e.1 = c then n + (match s.slates.find e.2.work.slot with
    | some sl => sl.tiles
    | none => 0) else n) 0

/-- Save slots of a context that entries and saved contexts use (03 R57). -/
def slotsUsed (vi cid : Nat) (s : State) : List Nat :=
  ((allEntries s).filterMap fun e => if e.2.work.vi = vi ∧ e.2.work.cid = cid then some e.2.work.saveSlot else none)
  ++ (match (s.vi vi).ctxs.find cid with | some c => c.saved.map fun x => x.work.saveSlot | none => [])

/-- The lowest free save slot. -/
def freeSlot (vi cid : Nat) (s : State) : Option Nat :=
  let used := slotsUsed vi cid s
  let n := match (s.vi vi).ctxs.find cid with | some c => c.slots | none => 0
  (List.range n).find? fun i => !used.contains i

/-- A sequencer that takes work: its die and cluster are not fenced. -/
def takesWork (k : Agent) (s : State) : Bool :=
  let d := s.die (dieOfSeq k)
  decide (k < 8192) && !d.fenced && !d.fencedClusters.contains (clusterOfSeq k)

/-- The die holds a reservation for the slate, or needs none (R112). -/
def stageReady (die : Nat) (sl : Slate) : Bool := sl.stage = 0 || (sl.resv.find die).isSome

/-- The die could reserve for the slate now. -/
def stageFits (die : Nat) (sl : Slate) (s : State) : Bool :=
  let taken := stageTaken die s
  (stageFit taken sl.stage (taken.length + 1) 0).isSome

/-- The cluster of a sequencer has the slate's tiles free (R113). -/
def tilesFit (k : Agent) (sl : Slate) (s : State) : Bool := decide (tilesUsed (clusterOfSeq k) s + sl.tiles ≤ 32)

/-- A saved context waits to resume on a die (R116, R119): on the die that saved it, or on any when its slate reserved no Stage
memory; one of a fenced die once that die's work has been dealt again (R124). -/
def waitsOn (x : SavedCtx) (d : Nat) (sl : Slate) (s : State) : Bool :=
  (if (s.die x.die).fenced then (s.die x.die).reissued else x.die = d || sl.stage = 0)
  && !(allEntries s).any fun e => e.2.resume && e.2.work = x.work

/-- The saved contexts of a queue that wait to resume on a die, each with its slate. -/
def resumable (vi q d : Nat) (s : State) : List (SavedCtx × Slate) :=
  match (s.vi vi).ctxs.find (s.queue vi q).ctx with
  | some c =>
    if c.lost || c.dying then []
    else c.saved.filterMap fun x =>
      if x.work.vi = vi ∧ x.work.q = q then
        match s.slates.find x.work.slot with
        | some sl => if waitsOn x d sl s then some (x, sl) else none
        | none => none
      else none
  | none => []

/-- A saved context fits a sequencer: Stage, which the die reserves first where it holds none, and tiles; its outer indices have
taken their instances, given up where a die or a cluster was fenced. -/
def resumeFits (k : Agent) (x : SavedCtx) (sl : Slate) (s : State) : Bool :=
  let d := dieOfSeq k
  (stageReady d sl || stageFits d sl s) && tilesFit k sl s && (x.die ≠ d || sl.instOk x.work.outer k)

/-- The outer index that a slate binds next to a sequencer: the one asked for where it has unbound work, else the first that
has. -/
def Slate.outerFor (sl : Slate) (k outer : Nat) : Option Nat :=
  let ok (f : Nat) : Bool := decide (f < sl.outers) && (sl.open_ f (dieOfSeq k)).isSome && sl.instOk f k
  if sl.abandoned then none else if ok outer then some outer else (List.range sl.outers).find? ok

/-- Fresh work of a slate for a sequencer, from an outer index that has some. -/
def freshOf (slot : Nat) (sl : Slate) (k f count : Nat) (s : State) : Option Binding :=
  let d := dieOfSeq k
  if !tilesFit k sl s then none
  else
    match freeSlot sl.vi sl.cid s, sl.open_ f d with
    | some save, some i => some
        { slot := slot, vi := sl.vi, cid := sl.cid, q := sl.q, number := sl.number, outer := f, first := i
          count := sl.countFrom f d i count, saveSlot := save }
    | _, _ => none

/-- The slates of a queue in the order of their numbers. -/
def slatesOf (vi q : Nat) (s : State) : List (Nat × Slate) :=
  (s.slates.filter fun e => e.2.vi = vi && e.2.q = q).mergeSort fun a b => decide (a.2.number ≤ b.2.number)

/-- A die binds nothing of a queue meanwhile: it has not reserved Stage for a slate of the queue whose unbound work it holds
(R112). -/
def passedOver (d : Nat) (xs : List (Nat × Slate)) : Bool :=
  xs.any fun e => !e.2.abandoned && !stageReady d e.2 && (List.range e.2.outers).any fun f => (e.2.open_ f d).isSome

/-- What a queue would bind to a sequencer next: a saved context, or fresh work of its lowest slate that has some for the
sequencer, as the director core's firmware asks where it has both (log 2). None where that does not fit: the queue is then passed
over for this slot (R116). -/
def nextBind (vi q k outer count saved : Nat) (s : State) : Option CallEntry :=
  let xs := slatesOf vi q s
  if passedOver (dieOfSeq k) xs then none
  else
    let rs := resumable vi q (dieOfSeq k) s
    let old := (if 0 < saved then rs[saved - 1]? else none).or rs.head?
    let fresh := xs.findSome? fun e => (e.2.outerFor k outer).map fun f => (e, f)
    let resume (x : SavedCtx × Slate) : Option CallEntry :=
      if resumeFits k x.1 x.2 s then some { valid := true, resume := true, work := x.1.work } else none
    let start (x : (Nat × Slate) × Nat) : Option CallEntry :=
      (freshOf x.1.1 x.1.2 k x.2 count s).map fun b => { valid := true, work := b }
    match old, fresh with
    | some x, some y => if saved = 0 then start y else resume x
    | some x, none => resume x
    | none, some y => start y
    | none, none => none

/-! ## Stride scheduling (R116) -/

def stride (tickets : Nat) : Nat := 2 ^ 20 / max 1 tickets

/-- The key of a queue on a die. -/
def queueKey (vi q : Nat) : Nat := 64 * vi + q

/-- The pass of an entity at a selection: one that becomes active joins at VTIME. -/
def joined (passes : AMap Nat) (active : List Nat) (vtime key : Nat) : Nat :=
  if active.contains key then passes.getD key 0 else max (passes.getD key 0) vtime

/-- The lowest pass, ties to the lower number. -/
def lowestPass (xs : List (Nat × Nat)) : Option (Nat × Nat) :=
  xs.foldl (fun b x => match b with
    | none => some x
    | some y => if x.2 < y.2 ∨ (x.2 = y.2 ∧ x.1 < y.1) then some x else b) none

/-- One selection among the queues that fit: the die's arbiter after it, and the queue. Each entry written is one bind
quantum. -/
def selectQueue (fits : List (Nat × Nat)) (die : Nat) (s : State) : Option ((Nat × Nat) × Die) :=
  let d := s.die die
  let vis := (dedup (fits.map Prod.fst)).map fun v => (v, joined d.passVi d.activeVi d.vtimeVi v)
  match lowestPass vis with
  | none => none
  | some (v, pv) =>
    let qs := fits.map fun x => (queueKey x.1 x.2, joined d.passQ d.activeQ (d.vtimeQ.getD x.1 0) (queueKey x.1 x.2))
    match lowestPass (qs.filter fun x => x.1 / 64 = v) with
    | none => none
    | some (kq, pq) =>
      let set (m : AMap Nat) (xs : List (Nat × Nat)) : AMap Nat := xs.foldl (fun m x => m.set x.1 x.2) m
      some ((v, kq % 64),
        { d with passVi := (set d.passVi vis).set v (pv + stride (s.vi v).tickets)
                 passQ := (set d.passQ qs).set kq (pq + stride (s.queue v (kq % 64)).tickets)
                 activeVi := vis.map Prod.fst, activeQ := qs.map Prod.fst, vtimeVi := pv, vtimeQ := d.vtimeQ.set v pq })

/-- A ticket change (R116): passes above VTIME are scaled. -/
def rescale (pass vtime old new : Nat) : Nat :=
  if vtime < pass then vtime + (pass - vtime) * stride new / stride old else pass

/-- BIND: the die's director core selects a queue for the row and writes its call entry, with Stage reserved first for a context
that resumes on a die without (R119). The slate's range is bound, and its outer indices take their instances. -/
def bindEntry (die row outer count saved : Nat) (s : State) : State :=
  let k := 2048 * die + row
  if 4 ≤ die ∨ 2048 ≤ row ∨ !takesWork k s ∨ 4 ≤ (rowOf k s).length then s
  else
    let fits := s.vis.flatMap fun v => v.2.queues.filterMap fun Q =>
      (nextBind v.1 Q.1 k outer count saved s).map fun e => ((v.1, Q.1), e)
    match selectQueue (fits.map Prod.fst) die s with
    | none => s
    | some (x, d) =>
      match fits.find? fun f => f.1 = x with
      | none => s
      | some (_, e) =>
        let s := s.updDie die fun _ => { d with rows := d.rows.modify row [] (· ++ [e]) }
        let s := match s.slates.find e.work.slot with
          | some sl => if stageReady die sl then s else reserveStage die e.work.slot s
          | none => s
        let s := { s with slates := match s.slates.find e.work.slot with
          | some sl =>
            let sl := if e.resume then sl
              else { sl with bound := sl.bound.modify e.work.outer [] (· ++ [(e.work.first, e.work.count)]) }
            s.slates.set e.work.slot (sl.settle e.work.outer k)
          | none => s.slates }
        s.post (.dispatchStart k)

def execBind (die row outer count saved : Nat) (s : State) : Out := .next (bindEntry die row outer count saved s)

/-! ## DISPATCH_START (R113, R114) -/

/-- The lowest `n` of a cluster's 32 tiles that no sequencer has (06 R126). -/
def physTiles (c n : Nat) (s : State) : List Nat :=
  let taken := s.seqs.flatMap fun e => if clusterOfSeq e.1 = c then e.2.phys else []
  ((List.range 32).filter fun t => !taken.contains t).take n

/-- The interface that had a tile of a cluster last; 128 for none. -/
def tileVi (c t : Nat) (s : State) : Nat := (s.tileVis.getD c []).getD t 128

/-- Tiles of a cluster pass to an interface. -/
def takeTiles (c vi : Nat) (ts : List Nat) (s : State) : State :=
  { s with tileVis := s.tileVis.set c ((List.range 32).map fun t => if t ∈ ts then vi else tileVi c t s) }

/-- A sequencer has worked for a slate. -/
def worksFor (slot : Nat) (k : Agent) (s : State) : State :=
  { s with slates := match s.slates.find slot with
    | some sl => s.slates.set slot { sl with workers := dedup (k :: sl.workers) }
    | none => s.slates }

/-- The state in which a sequencer starts on fresh work (R114): nothing is left of what an earlier entry did on it but its
clock and its stores still out, LV is 0, and the vector registers hold free values (log 5); so do tiles, but one that another
interface had last is zero (06 R138). -/
def startSeq (k : Agent) (b : Binding) (sl : Slate) (priv : Bool) (s : State) : State :=
  let q := s.seq k
  let n := 2048 * dieOfSeq k + k % 2048
  let base := (sl.resv.find (dieOfSeq k)).getD 0
  let g := ((Vector.replicate 32 (0 : DWord)).set 1 sl.arg).set 2 (BitVec.ofNat 64 sl.number)
  let g := g.set 31 (if sl.stackSize = 0 then 0 else BitVec.ofNat 64 (sl.stackBase + (n + 1) * sl.stackSize))
  let slim : DWord := if sl.stackSize = 0 then 0 else BitVec.ofNat 64 (sl.stackBase + n * sl.stackSize)
  let outer := (List.range (sl.levels.length - 1)).map fun j => BitVec.ofNat 64 (sl.indexAt b.outer j)
  let lidx := (outer ++ [BitVec.ofNat 64 b.first] ++ List.replicate 8 0).take 8
  let c := clusterOfSeq k
  let phys := physTiles c sl.tiles s
  let tiles := Vector.ofFn fun (i : Fin 8) => match phys[i.val]? with
    | some t => if tileVi c t s = sl.vi ∨ tileVi c t s = 128 then Config.freeBits (s.fresh + 32 + i.val) % 2 ^ 524288 else 0
    | none => 0
  let q2 : Seq :=
    { bound := some b, gen := q.gen, pc := sl.pc, g := g, a := tiles, pts := max q.pts sl.admitT
      c := { slim := slim, nvlog := sl.nvlog }
      n := { stage := sl.stage, stgbase := base, lcnt := BitVec.ofNat 64 b.count, lidx := lidx, priv := priv
             claim := BitVec.ofNat 8 (2 ^ sl.tiles - 1) }
      phys := phys, lastStore := q.lastStore, peerOut := q.peerOut, peerBad := q.peerBad, hostOut := q.hostOut }
  let s := clearLatch k (undefineV k (worksFor b.slot k (takeTiles c sl.vi phys (s.setSeq k q2))))
  { s with fresh := s.fresh + 8 }

/-- The entry next in the row's ring starts when the sequencer has none; one whose slate is gone is dropped. -/
def dispatchStart (k : Agent) (s : State) : State :=
  if (s.seq k).bound.isSome ∨ !takesWork k s then s
  else match rowOf k s with
    | [] => s
    | e :: _ =>
      match s.slates.find e.work.slot with
      | none => unbind k s
      | some sl =>
        if sl.abandoned ∨ !e.valid then unbind k s
        else if e.resume then s.post (.contextResume k)
        else
          let priv := match (s.vi sl.vi).ctxs.find sl.cid with | some c => c.priv | none => false
          startSeq k e.work sl priv s

def execDispatchStart (k : Agent) (s : State) : Out := .next (dispatchStart k s)

/-! ## The end of an entry's work (R114, R115; 19 R444) -/

/-- The distributor sets the bits of the range, the slate's completion time follows the sequencer's writes, and dispatch
clears the entry. -/
def workEnds (k : Agent) (s : State) : State :=
  let q := s.seq k
  let s := match q.bound with
    | none => s
    | some b =>
      match s.slates.find b.slot with
      | none => s
      | some sl =>
        let sl := { sl with doneIdx := sl.doneIdx.modify b.outer [] (· ++ [(b.first, b.count)])
                            doneCount := sl.doneCount + b.count, doneT := max sl.doneT q.wmax }
        let s := { s with slates := s.slates.set b.slot sl }
        if sl.ended then s.post (.slateComplete b.slot) else s
  unbind k s

/-! ## Images of a context (11 R262, R263) -/

/-- A loop-stack entry as the header holds it (14 R322). -/
def LoopEntry.bits (e : LoopEntry) : Nat :=
  2 ^ 127 + bitsAt e.start.toNat 2 55 * 2 ^ 66 + e.len % 65536 * 2 ^ 48 + e.count % 2 ^ 24 * 2 ^ 24 + e.index % 2 ^ 24

def LoopEntry.ofBits (x : Nat) : Option LoopEntry :=
  if bitsAt x 127 1 = 1 then
    some { start := BitVec.ofNat 64 (4 * bitsAt x 66 55), len := bitsAt x 48 16, count := bitsAt x 24 24, index := bitsAt x 0 24 }
  else none

/-- Header of a save with STATE 0; the pair status in the place of control register 0x3F (17 R389). -/
def headerImage (k : Agent) (s : State) : Nat :=
  let q := s.seq k
  let h := ({ q.c with sew := 2 } : CRegs).maxvl * 2 ^ 32 + (if q.halted ∨ q.stepReq ≠ 0 then 2 ^ 48 else 0) + q.pc.toNat * 2 ^ 64
    + q.pts % 2 ^ 64 * 2 ^ 128 + (q.full.g.toNat + q.full.v.toNat * 2 ^ 32) * 2 ^ 192
    + (q.full.p.toNat + q.full.a.toNat * 2 ^ 8) * 2 ^ 256
  let g := (List.range 31).foldl (fun x i => x + (q.gRead (i + 1)).toNat * 2 ^ (8 * (0x28 + 8 * i))) 0
  let loops := (q.loops.reverse.zipIdx).foldl (fun x e => x + e.1.bits * 2 ^ (8 * (0x120 + 16 * e.2))) 0
  let ctl := (List.range 0x3F).foldl (fun x n => x + (if ctlExists n then (ctlRead k n s).toNat else 0) * 2 ^ (8 * (0x200 + 8 * n))) 0
  let pair := (q.pair.pst + q.pair.steps * 2 ^ 48) * 2 ^ (8 * 0x3F8)
  h + g + loops + ctl + pair

/-- The frames of a save slot and what they receive: header, vector file, predicates, the unanswered batch, claimed
tiles. -/
def contextImage (k : Agent) (tag : Nat) (s : State) : List (Nat × Nat) :=
  let q := s.seq k
  let vec := (List.range q.c.nv).foldl (fun x i => x + (q.vRead i % 2 ^ (8 * q.c.rlen)) <<< (8 * q.c.rlen * i)) 0
  let pred := (List.range 8).foldl (fun x i => x + (q.pRead i % 2 ^ 8192) <<< (8192 * i)) 0
  let batch := tag + q.pc.toNat * 2 ^ 64
  let tiles := (List.range 8).flatMap fun t =>
    if q.n.claim.getLsbD t then (List.range 16).map fun j => (12 + 16 * t + j, bitsAt (q.aRead t) (32768 * j) 32768) else []
  [(0, headerImage k s)] ++ ((List.range 8).map fun j => (1 + j, bitsAt vec (32768 * j) 32768))
    ++ ((List.range 2).map fun j => (9 + j, bitsAt pred (32768 * j) 32768)) ++ [(11, batch)] ++ tiles

/-- The physical address of frame `i` of a save slot (03 R57). -/
def slotFrame (c : Ctx) (slot i : Nat) : Nat := c.frames.getD (slot * (12 + 16 * c.maxTiles) + i) 0

/-- Every frame of a save slot is still the interface's (03 R58). -/
def slotOwned (vi : Nat) (c : Ctx) (slot : Nat) (s : State) : Bool :=
  (List.range (12 + 16 * c.maxTiles)).all fun i => s.frameOwner (frameOf (slotFrame c slot i)) = vi

/-! ## CONTEXT_SAVE (R119; 11 R254, R261, R262) -/

/-- The pre-emption points outside a strip (R119): an instruction boundary and the parked waits; BFLIP, PAUSE, an ECABORT and
the invalidations of MPRINT and PLSHARE go on. -/
def Seq.atPoint (q : Seq) : Bool :=
  q.bound.isSome && q.strip.isNone && q.commit.isNone && match q.wait with
    | .run => q.note.isNone
    | .park _ | .sleep _ | .sleepto .. | .posting | .batch _ | .append | .pair _ => true
    | .chain _ => q.note.isNone
    | .inv => match q.note with | some n => n.step = 0 | none => true
    | _ => false

/-- A save waits for every register to fill and for the follow-on commands (R240; 17 R376). -/
def Seq.saveReady (q : Seq) : Bool :=
  q.atPoint && q.arrivals.isEmpty && q.full.g ||| 1 = BitVec.allOnes 32 && q.full.v = BitVec.allOnes 32
  && q.full.p = BitVec.allOnes 8 && q.full.a = BitVec.allOnes 8 && q.follow = 0

/-- The context of sequencer `k` is saved and the sequencer is free. One whose slot has lost a frame is LOST (03 R58); one that is
being destroyed is written to its slot too, and never resumes (03 R56). -/
def saveContext (k : Agent) (s : State) : State :=
  match (s.seq k).bound with
  | none => s
  | some b =>
    let s := withdrawPair k (unpark k (withdraw k s))
    let s := s.upd k fun q => { q with linkEpoch := (q.linkEpoch + 1) % 65536 }
    let q := s.seq k
    let s := { s with slates := match s.slates.find b.slot with
      | some sl => s.slates.set b.slot { sl with doneT := max sl.doneT q.wmax }
      | none => s.slates }
    match (s.vi b.vi).ctxs.find b.cid with
    | none => unbind k s
    | some c =>
      if !slotOwned b.vi c b.saveSlot s then loseContext b.vi b.cid 0x02 0 0 s
      else
        let tag := match q.wait with | .batch t => some t | _ => none
        let s := thread (fun (x : Nat × Nat) s => pokeBytes (slotFrame c b.saveSlot x.1) x.2 4096 s)
          (contextImage k (tag.getD 0) s) s
        let s := pokeBytes (slotFrame c b.saveSlot 0) 1 4 s
        let x : SavedCtx :=
          { die := dieOfSeq k, work := b, tag := tag, answer := none, fails := q.fails, named := []
            rolled := (s.vi b.vi).ring.batches.any fun y => tag = some y.tag && y.rolled
            age := q.age, forced := q.forced, cut := q.cut, phase := q.phase, came := dedup (k :: q.came), stores := q.peerRetry
            halted := q.halted, stepReq := q.stepReq }
        if c.dying then unbind k s
        else unbind k (s.updVi b.vi fun v => { v with ctxs := v.ctxs.modify b.cid c fun c => { c with saved := c.saved ++ [x] } })

/-- CONTEXT_SAVE: a requested save at a pre-emption point. -/
def contextSave (k : Agent) (s : State) : State :=
  let s := s.upd k Seq.land
  if (s.seq k).preempt.isSome && (s.seq k).saveReady then saveContext k s else s

def execContextSave (k : Agent) (s : State) : Out := .next (contextSave k s)

/-! ## CONTEXT_RESUME (11 R263, R264) -/

/-- A control register as the header holds it. -/
def headerCtl (h n : Nat) : DWord := BitVec.ofNat 64 (bitsAt h (8 * (0x200 + 8 * n)) 64)

/-- The control registers of a header (R244, R245); FMASK above bit 63 has no place in a save and takes a free value
(log 49). -/
def headerRegs (h : Nat) (base stage : Nat) (priv : Bool) (fmaskHigh : Nat) : CRegs × NRegs :=
  let c := headerCtl h
  let vs := (c 0x02).toNat
  let ts := c 0x24
  ({ vl := min 8192 (c 0x00).toNat, sew := vs % 4, nvlog := min 5 (bitsAt vs 8 3), vstart := (c 0x03).toNat % 65536
     vmask := (c 0x04).setWidth 4, vstride := c 0x05, fctl := (c 0x08).setWidth 5, fflags := (c 0x09).setWidth 6
     mfmt := (c 0x0A).setWidth 7, splane := c 0x0B, seed := c 0x0C, lease := max 1 (min 4096 (c 0x0F).toNat), slim := c 0x10
     pairwait := c 0x1C },
   { fmask := (c 0x07).toNat + fmaskHigh * 2 ^ 64, strips := c 0x0D, stgbase := base, stage := stage, lcnt := c 0x12
     lidx := (List.range 8).map fun j => c (0x13 + j), promise := c 0x1B, sreplay := c 0x1D, sfault := (c 0x1E).toNat % 4
     tvec := c 0x20, epc := c 0x21, cause := c 0x22, tval := c 0x23, estep := ts.getLsbD 3, rbk := ts.getLsbD 2, priv := priv
     intrap := ts.getLsbD 0, escr0 := c 0x25, escr1 := c 0x26, claim := BitVec.ofNat 8 ((c 0x27).toNat / 256) })

/-- A saved context on sequencer `k`: every item of R238 from its frames but the latches; pts the larger of both; STGBASE and
PRIV of here and now. An unanswered batch is waited for again; where it was answered with a retry meanwhile, the stores that a peer
refused are sent again. A step that was asked for and had not ended goes on (11 R266). -/
def resumeSeq (k : Agent) (x : SavedCtx) (c : Ctx) (sl : Slate) (s : State) : State :=
  let q := s.seq k
  let phys := physTiles (clusterOfSeq k) sl.tiles s
  let frame (i : Nat) : Nat := s.peekBytes (slotFrame c x.work.saveSlot i) 4096
  let h := frame 0
  let r := headerRegs h ((sl.resv.find (dieOfSeq k)).getD 0) sl.stage c.priv (Config.freeBits s.fresh % 2 ^ 8128)
  let vec := (List.range 8).foldl (fun v i => v + frame (1 + i) <<< (32768 * i)) 0
  let pred := (List.range 2).foldl (fun v i => v + frame (9 + i) <<< (32768 * i)) 0
  let tile (t : Nat) : Nat := if r.2.claim.getLsbD t then
    (List.range 16).foldl (fun v j => v + frame (12 + 16 * t + j) <<< (32768 * j)) 0 else 0
  let loops := ((List.range 6).filterMap fun i => LoopEntry.ofBits (bitsAt h (8 * (0x120 + 16 * i)) 128)).reverse
  let full : FullBits :=
    { g := BitVec.ofNat 32 (bitsAt h 192 32), v := BitVec.ofNat 32 (bitsAt h 224 32), p := BitVec.ofNat 8 (bitsAt h 256 8)
      a := BitVec.ofNat 8 (bitsAt h 264 8) }
  let q2 : Seq :=
    { bound := some x.work, gen := q.gen, pc := aligned (BitVec.ofNat 64 (bitsAt h 64 64))
      g := Vector.ofFn fun (i : Fin 32) => if i.val = 0 then 0 else BitVec.ofNat 64 (bitsAt h (8 * (0x20 + 8 * i.val)) 64)
      full := full
      v := Vector.ofFn fun (i : Fin 32) => if i.val < r.1.nv then bitsAt vec (8 * r.1.rlen * i.val) (8 * r.1.rlen) else 0
      p := Vector.ofFn fun (i : Fin 8) => bitsAt pred (8192 * i.val) 8192
      a := Vector.ofFn fun (i : Fin 8) => tile i.val
      loops := loops, pts := max q.pts (bitsAt h 128 64), c := r.1, n := r.2
      pair := { pst := bitsAt h (8 * 0x3F8) 8, steps := bitsAt h (8 * 0x3F8 + 48) 16 }
      linkEpoch := q.linkEpoch, fails := x.fails, age := x.age, forced := x.forced, cut := x.cut, phase := x.phase
      named := x.named, phys := phys, lastStore := q.lastStore, peerOut := q.peerOut, peerBad := q.peerBad, hostOut := q.hostOut
      peerRetry := if x.answer = none then x.stores else []
      halted := bitsAt h 48 1 = 1 && x.stepReq = 0, stepReq := x.stepReq, came := x.came.filter (· ≠ k)
      wait := match x.tag, x.answer with | some t, none => .batch t | _, _ => .run }
  let s := clearLatch k (worksFor x.work.slot k (takeTiles (clusterOfSeq k) sl.vi phys { s.setSeq k q2 with fresh := s.fresh + 1 }))
  if x.answer = some true then thread (postStore k) x.stores s else s

/-- A batch of a saved context is now sequencer `k`'s. -/
def reclaim (k : Agent) (tag : Option Nat) (b : Batch) : Batch := if tag = some b.tag then { b with src := .seq k } else b

/-- CONTEXT_RESUME: the RESUME entry next in the row. -/
def contextResume (k : Agent) (s : State) : State :=
  match (s.seq k).bound, rowOf k s with
  | none, e :: _ =>
    if !e.resume || !takesWork k s then s
    else match (s.vi e.work.vi).ctxs.find e.work.cid, s.slates.find e.work.slot with
      | some c, some sl =>
        match c.saved.find? fun x => x.work = e.work with
        | none => unbind k s
        | some x =>
          let s := resumeSeq k x c sl s
          let s := s.updVi x.work.vi fun v =>
            { v with ctxs := v.ctxs.modify x.work.cid c fun c => { c with saved := c.saved.filter (· ≠ x) }
                     ring := { v.ring with batches := v.ring.batches.map (reclaim k x.tag) } }
          match x.tag, x.answer with
          | some t, some false => (trapSeq k 0x0B t s).upd k fun q => if x.rolled then { q with n := { q.n with rbk := true } } else q
          | _, _ => s
      | _, _ => unbind k s
  | _, _ => s

def execContextResume (k : Agent) (s : State) : Out := .next (contextResume k s)

/-! ## Pre-emption (R119, R120) -/

/-- Strip work of a sequencer is discarded without a count: a forced rollback (R120), and one of a halted sequencer or of one
that waits for room in its ring (R119; 11 R266). -/
def discardStrip (k : Agent) (s : State) : State :=
  let s := withdraw k s
  (rollBack k s).upd k fun q => { q with wait := .run, note := none }

/-- A pre-emption asked for takes effect at once where the sequencer is halted in a strip, or waits for room in its ring there
(R119; 11 R266). -/
def preemptNow (k : Agent) (s : State) : State :=
  let q := s.seq k
  if q.preempt.isSome && q.strip.isSome && q.commit.isNone && (q.halted || q.wait = .posting) then
    (discardStrip k s).post (.contextSave k)
  else s

/-- A request for pre-emption of a bound sequencer: at once where it is parked or halted. -/
def requestPreempt (k : Agent) (s : State) : State :=
  if (s.seq k).bound.isNone then s
  else (preemptNow k (s.upd k fun q => { q with preempt := some (q.preempt.getD s.cycle) })).post (.contextSave k)

def execPreemptRequest (k : Agent) (s : State) : Out := .next (requestPreempt k s)

/-- The deadline of a request has passed, or a pin held too long forces it at once (R120; 04 R96). -/
def Seq.forceDue (q : Seq) (s : State) : Bool :=
  match q.preempt with
  | some c => (q.pinLate || (!q.forced && decide (c + s.mgmt.preemptdl ≤ s.cycle)))
  | none => false

/-- FORCED_PREEMPT: the strip's stores are discarded, its checkpoint is restored, and the context is saved; a commit that has
begun completes first. -/
def forcePreempt (k : Agent) (s : State) : State :=
  let q := s.seq k
  if !q.forceDue s then s
  else if q.strip.isSome then
    if q.commit.isSome then s
    else ((discardStrip k s).upd k fun q => { q with forced := true }).post (.contextSave k)
  else s.post (.contextSave k)

def execForcedPreempt (k : Agent) (s : State) : Out := .next (forcePreempt k s)

/-- A sequencer pins a page that an invalidation names, which an access in flight alone does not (04 R95). -/
def Seq.pinsNamed (q : Seq) (i : Inval) : Bool := q.pins.any i.names || q.inflight.any fun e => e.1 && i.names e.2

/-- TLBPINWAIT_EXPIRY (04 R96): the invalidation of `k` has waited so long for a sequencer's pins that its pre-emption is
forced. Engines let their pins go by themselves. -/
def pinExpiry (k holder : Agent) (s : State) : State :=
  match (s.seq k).inval with
  | some i =>
    if (i.holders.contains holder && (s.seq holder).pinsNamed i && decide (i.since + s.mgmt.tlbpinwait ≤ s.cycle)
        && (s.seq holder).bound.isSome) = true then
      (s.upd holder fun q => { q with preempt := some (q.preempt.getD s.cycle), pinLate := true }).post (.forcedPreempt holder)
    else s
  | none => s

def execTlbpinwaitExpiry (k holder : Agent) (s : State) : Out := .next (pinExpiry k holder s)

/-! ## Fences, election, reissue (R122 to R124; 01 R21, R22) -/

/-- Ranges of a slate that are done, or that an entry or a saved context holds. -/
def heldRanges (slot : Nat) (sl : Slate) (s : State) : AMap (List (Nat × Nat)) :=
  let bs := ((allEntries s).map fun e => e.2.work) ++ (match (s.vi sl.vi).ctxs.find sl.cid with
    | some c => c.saved.map fun x => x.work
    | none => [])
  (bs.filter fun b => b.slot = slot).foldl (fun m b => m.modify b.outer [] (· ++ [(b.first, b.count)])) sl.doneIdx

/-- Everything that is neither done nor held is unbound again. -/
def unboundAgain (s : State) : State :=
  { s with slates := s.slates.map fun e => (e.1, { e.2 with bound := heldRanges e.1 e.2 s }) }

/-- The rows of some sequencers keep only the entry that runs. -/
def dropWaiting (p : Agent → Bool) (s : State) : State :=
  let keep (d : Nat) (r : Nat × List CallEntry) : Nat × List CallEntry :=
    let k := 2048 * d + r.1
    if p k then (r.1, if (s.seq k).bound.isSome then r.2.take 1 else []) else r
  (List.range 4).foldl (fun s d => s.updDie d fun x => { x with rows := x.rows.map (keep d) }) s

/-- Instances of outer indices that lie in a place are given up. -/
def dropInstances (gone : (domain inst : Nat) → Bool) (s : State) : State :=
  { s with slates := s.slates.map fun e =>
    (e.1, { e.2 with insts := e.2.insts.filter fun x => !gone (e.2.levels.getD x.1.1 e.2.inner).domain x.2 }) }

/-- Bound sequencers that meet a test. -/
def boundSeqs (p : Agent → Bool) (s : State) : List Agent := (s.seqs.filter fun e => p e.1 && e.2.bound.isSome).map Prod.fst

/-- A die is fenced (R122): the event, the election of the lowest live die, admission paused, its sequencers pre-empted. -/
def fenceDie (d : Nat) (s : State) : State :=
  if 4 ≤ d ∨ (s.die d).fenced then s
  else
    let s := s.updDie d fun x => { x with fenced := true }
    let s := { s with mgmt := { s.mgmt with elect := true, master := (liveDies s).headD s.mgmt.master } }
    let s := dropWaiting (fun k => dieOfSeq k = d) s
    (thread requestPreempt (boundSeqs (fun k => dieOfSeq k = d) s) s).post (.eventPost .pf 0x07 0 d 0)

/-- HEARTBEAT_MISS: four heartbeats of a director core are missing (R122). -/
def execHeartbeatMiss (die : Nat) (s : State) : Out := .next (fenceDie die s)

/-- A cluster of the device is fenced (01 R21): its sequencers are pre-empted and nothing more is bound to it; with its last
cluster the die is fenced. -/
def fenceCluster (c : Nat) (s : State) : State :=
  let d := c / 64
  if (s.die d).fencedClusters.contains c then s
  else
    let s := s.updDie d fun x => { x with fencedClusters := x.fencedClusters ++ [c] }
    let s := unboundAgain (dropWaiting (fun k => clusterOfSeq k = c) s)
    let s := dropInstances (fun dom i => match dom with
      | 2 => i = c
      | 3 => i / 4 = c
      | 4 => clusterOfSeq i = c
      | _ => false) s
    let s := thread requestPreempt (boundSeqs (fun k => clusterOfSeq k = c) s) s
    if 64 ≤ (s.die d).fencedClusters.length then fenceDie d s else s

/-- The prefixes of a slate on a die that hold an unbound index, in ascending order. -/
def Slate.openPrefixes (sl : Slate) (d : Nat) : List Nat :=
  if sl.dealsInner then
    (List.range sl.prefixes).filter fun p =>
      sl.dieOf p = d && (coveredTo (sl.bound.getD (p / sl.inner.extent) []) (p % sl.inner.extent)).isNone
  else
    let n := product (sl.extents.dropLast.drop (placeLevel sl.levels + 1))
    (List.range sl.prefixes).filter fun p => sl.dieOf p = d && (List.range n).any fun j => (sl.open_ (p * n + j) d).isSome

/-- A slate's unfinished prefixes of a fenced die are dealt to the live dies (R124). -/
def Slate.dealAgain (sl : Slate) (d : Nat) (live : List Nat) : Slate :=
  { sl with moved := (sl.openPrefixes d).zipIdx.foldl (fun m p => m.set p.1 (live.getD (p.2 % max live.length 1) 0)) sl.moved }

/-- The saves of a die have ended: no sequencer of it works any more. -/
def savesOver (d : Nat) (s : State) : Bool := (boundSeqs (fun k => dieOfSeq k = d) s).isEmpty

/-- Every fenced die's work has been dealt again. -/
def allReissued (s : State) : Bool := (List.range 4).all fun d => !(s.die d).fenced || (s.die d).reissued

/-- FENCED_DIE_REISSUE: once no context of the die remains to be saved. ELECT returns to 0 with the last fenced die. -/
def dealDie (d : Nat) (s : State) : State :=
  if !(s.die d).fenced || (s.die d).reissued || !savesOver d s then s
  else
    let s := s.updDie d fun x => { x with reissued := true }
    let s := dropInstances (fun dom i => match dom with
      | 1 => i = d
      | 2 => i / 64 = d
      | 3 => i / 256 = d
      | 4 => dieOfSeq i = d
      | _ => false) (unboundAgain s)
    let live := liveDies s
    let s := { s with slates := s.slates.map fun e => (e.1, if e.2.abandoned then e.2 else e.2.dealAgain d live)
                      mgmt := { s.mgmt with elect := !allReissued s } }
    kickAdmit (kickReserve s)

def execFencedDieReissue (die : Nat) (s : State) : Out := .next (dealDie die s)

end Sys2Proof.Machine
end

