-- ==== Sys2Proof/Machine/System.lean ====
section
/-!
DEFINITION. The system instructions (spec/19_engines_system.md R442 to R449): time, slots and hints, traps, returns and the end
of work, invalidation of translations (spec/04_address_spaces.md R96), bias flips (spec/02_links.md R37 to R40), energy, fetch
and debug.
-/
namespace Sys2Proof.Machine

/-! ## Time, slots and hints (R442) -/

/-- SLEEP. -/
def execSleep (a : BitVec 5) (e : BitVec 1) (s : State) : Out :=
  issue (ops1 (encSY 0xF6 0 a.toNat e.toNat 0 0 0) (gr a) e).closing (fun s =>
    let t := (s.me.gRead a.toNat).toNat
    if t ≤ s.cycle then .ok .next s else .wait (s.waitFor s.cur (.sleep t))) s

/-- SLEEP_WAKE: the time has come and the instruction is executed again. -/
def execSleepWake (k : Agent) (s : State) : Out :=
  .next (match (s.seq k).wait with
    | .sleep t => if t ≤ s.cycle then s.wake k else s
    | _ => s)

/-- PAUSE: nothing issues for n reference cycles. -/
def execPause (n : BitVec 16) (s : State) : Out :=
  issue { word := encWI 0xF7 0 n.toNat } (fun s =>
    match s.me.note with
    | some x => if x.time ≤ s.cycle then .ok .next s else .wait (s.waitFor s.cur (.pause x.time))
    | none =>
      let t := s.cycle + n.toNat
      if n = 0 then .ok .next s
      else .wait (s.updMe fun q => { q with note := some { time := t }, wait := .pause t })) s

/-- PAUSE_END. -/
def execPauseEnd (k : Agent) (s : State) : Out :=
  .next (match (s.seq k).wait with
    | .pause t => if t ≤ s.cycle then s.wake k else s
    | _ => s)

/-- YIELD: a pending request takes effect at its boundary. -/
def execYield (s : State) : Out := issue { word := encWI 0xF8 0 0, closes := true } (fun s => .ok .next s) s

/-- HINT. -/
def execHint (i : BitVec 19) (s : State) : Out := issue { word := encWI 0xFC 0 i.toNat } (fun s => .ok .next s) s

/-- NOP. -/
def execNop (s : State) : Out := issue { word := encWI 0x0F 0 0 } (fun s => .ok .next s) s

/-! ## Traps, returns and the end of work (R443, R444; 13 R302) -/

/-- TRAPZ: the illegal-instruction trap. -/
def execTrapz (x : BitVec 24) (s : State) : Out := issue { word := x.toNat } (fun s => .trap 0x01 0 s) s

/-- SYSCALL. -/
def execSyscall (i : BitVec 19) (s : State) : Out :=
  issue { word := encWI 0x06 0 i.toNat, closes := true } (fun s => .trap 0x0E i.toNat s) s

/-- BRK. -/
def execBrk (i : BitVec 24) (s : State) : Out :=
  issue { word := encBK 0xFF i.toNat, closes := true } (fun s => .trap 0x0F i.toNat s) s

/-- BRKC: with g[a] = 0 it has no effect and closes no strip; its source must be full before that is known. -/
def execBrkc (a : BitVec 5) (e : BitVec 1) (i : BitVec 13) (s : State) : Out :=
  issue { ops1 (encRI 0xFE 0 a.toNat e.toNat i.toNat) (gr a) e with
          closes := s.me.isFull (gr a) && s.me.gRead a.toNat ≠ 0 } (fun s =>
    if s.me.gRead a.toNat = 0 then .ok .next s else .trap 0x0F (i.signExtend 64).toNat s) s

/-- ERET: the return from a trap (11 R260). -/
def execEret (s : State) : Out :=
  issue { word := encWI 0x07 0 0, closes := true } (fun s =>
    if s.me.n.intrap then .ok .stay (trapReturn s.cur s) else .trap 0x03 (encWI 0x07 0 0) s) s

/-- IDLE: the end of the entry's work, when every register is full and no follow-on command is out. -/
def execIdle (s : State) : Out :=
  issue { word := encWI 0x08 0 0, closes := true } (fun s =>
    let q := s.me
    if q.full.g ||| 1 ≠ BitVec.allOnes 32 ∨ q.full.v ≠ BitVec.allOnes 32 ∨ q.full.p ≠ BitVec.allOnes 8 then
      .wait (s.waitFor s.cur .full)
    else if q.follow ≠ 0 then .wait (s.waitFor s.cur .matrix)
    else if q.full.a ≠ BitVec.allOnes 8 then .wait (s.waitFor s.cur .full)
    else .wait (workEnds s.cur s)) s

/-! ## TLBINV (R445) -/

/-- TLBINV: 0 .VA, 1 .CTX, 2 .ALL. -/
def execTlbinv (d a : BitVec 5) (e : BitVec 1) (k : BitVec 2) (s : State) : Out :=
  issue { word := (Instr.tlbinv d a e k).encodeNat, priv := true, regs := [gr d, gr a], closes := true
          sources := [(gr d, false), (gr a, eb e)], dests := [gr d] } (fun s =>
    let q := s.me
    if (q.note.getD {}).step = 7 then putG d.toNat 0 0 s
    else match namedContext (q.gRead d.toNat) s with
      | none => putG d.toNat 1 0 s
      | some cid =>
        if belowLimit d.toNat 0 q then .trap 0x08 0 s else
        .wait (startInval s.cur k.toNat q.vi cid (q.gRead a.toNat).toNat s)) s

/-! ## BFLIP (R446; 02 R37 to R40) -/

/-- The lines of a frame. -/
def frameLines (f : Nat) : List Nat := (List.range 32).map fun i => 32 * f + i

/-- How the host port of an interface trained (02 R31). -/
def portOf (vi : Nat) (s : State) : PortMode := s.ports.getD (if vi < 64 then 0 else 1) .absent

/-- Lines whose flush or whose host copy a flip still waits for (02 R38, R39). -/
def flipLeft (toHost : Bool) (f : Nat) (s : State) : List Nat :=
  (frameLines f).filter fun x =>
    if toHost then (match s.homes.find x with | some h => h.own.isSome | none => false) else (s.dirState x).isSome

/-- A flip begins: every home is asked to flush, or the host is asked to give its lines back. -/
def startFlip (toHost : Bool) (f : Nat) (s : State) : State :=
  let k := s.cur
  let left := flipLeft toHost f s
  let s := { s with flipping := s.flipping.set f (if toHost then 1 else 0, left, [k]) }
  let s := (thread (fun x s =>
    if toHost then holdAt x (.req (.biasFlipDone f)) (askOwner x .s s)
    else snoop x true s) left s).waitFor k (.flip f)
  if left = [] then s.post (.biasFlipDone f) else s

/-- BFLIP: 0 .DEV, 1 .HOST. -/
def execBflip (d a : BitVec 5) (e k : BitVec 1) (s : State) : Out :=
  issue { word := (Instr.bflip d a e k).encodeNat, priv := true, regs := [gr d, gr a], closes := true
          sources := [(gr a, eb e)], dests := [gr d] } (fun s =>
    let q := s.me
    let pa := (q.gRead a.toNat).toNat
    let f := frameOf pa
    let toHost := k = 1
    if (q.note.getD {}).step = 30 then putG d.toNat 0 0 s
    else if pa % 4096 ≠ 0 then .trap 0x0A pa s
    else if !isMemory pa then putG d.toNat 2 0 s
    else if s.frameOwner f ≠ q.vi then putG d.toNat 4 0 s
    else if portOf q.vi s ≠ .cxl then putG d.toNat 3 0 s
    else match s.flipping.find f with
      | some (b, left, ks) =>
        .wait ({ s with flipping := s.flipping.set f (b, left, if ks.contains s.cur then ks else ks ++ [s.cur]) }.waitFor s.cur
          (.flip f))
      | none =>
        if s.bias.contains f = toHost then putG d.toNat 0 0 s
        else if toHost ∧ (s.converted.find f).isSome then putG d.toNat 1 0 s
        else if belowLimit d.toNat 0 q then .trap 0x08 0 s
        else .wait (startFlip toHost f s)) s

/-- BIAS_FLIP_DONE: every home has reported; the bias bit is written, the first BFLIP is done, the others judge again and what
was held is served under the new bias. -/
def biasFlipDone (f : Nat) (s : State) : State :=
  match s.flipping.find f with
  | none => s
  | some (b, _, ks) =>
    let toHost := b = 1
    if flipLeft toHost f s ≠ [] then s
    else
      let others := s.bias.filter (· ≠ f)
      let s := { s with flipping := s.flipping.erase f, bias := if toHost then f :: others else others }
      let go (k : Agent) (done : Bool) (s : State) : State := match (s.seq k).wait with
        | .flip g => if g = f then s.upd k fun q =>
            { q with wait := .run, note := if done then some { (q.note.getD {}) with step := 30 } else q.note } else s
        | _ => s
      let s := match ks with
        | [] => s
        | k :: rest => thread (fun j s => go j false s) rest (go k true s)
      thread serveWaiting (frameLines f) s

def execBiasFlipDone (frame : Nat) (s : State) : Out := .next (biasFlipDone frame s)

/-! ## Energy (R447; 01 R13) -/

/-- Keys of the energy counters: a queue, the module, idle, a die, an engine. -/
def queueEnergy (vi q : Nat) : Nat := 64 * vi + q
def moduleEnergy : Nat := 8192
def idleEnergy : Nat := 8193
def dieEnergy (d : Nat) : Nat := 8194 + d
def engineEnergy (d e : Nat) : Nat := 8200 + 8 * d + e

/-- An interface's counter is the sum of its queues' (01 R14). -/
def viEnergy (vi : Nat) (s : State) : Nat := (List.range 64).foldl (fun n q => n + s.energy.getD (queueEnergy vi q) 0) 0

/-- ENRD. -/
def execEnrd (d : BitVec 5) (sel : BitVec 13) (s : State) : Out :=
  let w := (Instr.enrd d sel).encodeNat
  issue (opsD w (gr d)) (fun s =>
    let n := sel.toNat
    let vi := s.me.vi
    if n = 0 then putG d.toNat (BitVec.ofNat 64 (viEnergy vi s)) 0 s
    else if 0x40 ≤ n ∧ n < 0x80 then putG d.toNat (BitVec.ofNat 64 (s.energy.getD (queueEnergy vi (n - 0x40)) 0)) 0 s
    else .trap 0x03 w s) s

/-! ## Fetch and debug (R448, R449) -/

/-- FENCEI: every earlier store of the sequencer has performed, and what it fetches is newer (13 R303). -/
def execFencei (s : State) : Out :=
  issue { word := encSY 0x0C 0 0 0 0 0 0, closes := true } (fun s =>
    if storesOut Seq.peersOut s.cur s then .wait (s.waitFor s.cur .peer)
    else .ok .next (s.updMe fun q => { q with fetched := [] })) s

/-- DHALT: halted as by DBGCMD 1; a run or step command continues at the next instruction. -/
def execDhalt (s : State) : Out :=
  issue { word := encWI 0x0D 0 0, closes := true } (fun s => .ok .next (s.updMe fun q => { q with halted := true })) s

/-- DMARK. -/
def execDmark (i : BitVec 19) (s : State) : Out :=
  issue { word := encWI 0x0E 0 i.toNat } (fun s => .ok .next (s.updMe fun q => { q with mark := i })) s

end Sys2Proof.Machine
end

