-- ==== Sys2Proof/Machine/Links.lean ====
section
/-!
DEFINITION. The host's and the peers' accesses to this device's memory, their answers to its own requests, and the link ports
(spec/02_links.md R34 to R49; spec/07_coherence.md R171, R172, R476; spec/09_consistency.md R212, R213).
-/
namespace Sys2Proof.Machine

/-! ## The host (02 R35 to R40, 07 R171) -/

/-- How a host port reaches device memory (R33): in CXL mode all of it, in PCIe mode the physical function's 64 GiB aperture, on
port 0, which is taken to lie over the lowest HBM4E (log 102); 2 stands for the answer to a snoop. Nothing is reached in recovery
(01 R25, R27). -/
def hostReaches (port x : Nat) (s : State) : Bool :=
  isMemory (128 * x) && !s.recovery && (decide (port = 2) || match s.ports.getD port .absent with
    | .cxl => true
    | .pcie => decide (port = 0) && decide (128 * x < 0x1000000000)
    | .absent => false)

/-- A line at its home for the host: filled, its owner answered where the use needs it (R476). A line whose flush a flip to host
bias waits for is held (R38). The dirty data of a snoop goes before all else (R36). -/
def hostOpen (u : Use) (port x : Nat) (w : Waiting) (s : State) : Res (HomeLine Nat) :=
  let flush := match s.flipping.find (frameOfLine x) with | some (b, _, _) => b = 1 | none => false
  if port ≠ 2 ∧ !firstInSet x w s then joinQueue x w s
  else if port ≠ 2 ∧ s.devWrites.any (fun e => e.1 = x) then holdFor x w s
  else
    (present x 128 w s).andThen fun h s =>
      if flush && h.own.isSome then holdFor x w s
      else match h.needRecall u with
        | some m => holdFor x w (askOwner x m s)
        | none =>
          if u ≠ Use.write && !h.pubs.isEmpty then holdFor x w s
          else .ok { h with lru := 0 } (leaveQueue x w (touch x s))

/-- The bias under which the host is served: a flipping frame's flushed lines as under host bias, and a frame on its way to
device bias as under that (02 R38, R39). -/
def hostServedBias (x : Nat) (s : State) : Bool :=
  match s.flipping.find (frameOfLine x) with
  | some (b, _, _) => b = 1
  | none => s.hostBias x

/-- The directory entry of a line set, most recently used last (R36). -/
def dirSet (x : Nat) (a : Bool) (s : State) : State :=
  s.updSlice x fun sl => { sl with dir := sl.dir.filter (fun e => e.1 ≠ x) ++ [(x, a)] }

def dirErase (x : Nat) (s : State) : State := s.updSlice x fun sl => { sl with dir := sl.dir.filter fun e => e.1 ≠ x }

/-- The entries of a line's directory set: 16 ways (R36). -/
def dirMates (x : Nat) (s : State) : List (Nat × Bool) := (s.slice x).dir.filter fun e => setIndex e.1 = setIndex x

/-- Room in the directory for a line's entry: the least recently used entry of a full set is taken back first. -/
def dirRoom (x : Nat) (w : Waiting) (s : State) : Res Unit :=
  let ms := dirMates x s
  if ms.any (fun e => e.1 = x) ∨ ms.length < 16 then .ok () s
  else match ms with
    | e :: _ => holdFor e.1 w (snoop e.1 true s)
    | [] => .ok () s

/-- A host access that the host's own copy does not stand behind: by a PCIe port, with another port in CXL mode (log 108). -/
def pastHost (port : Nat) (s : State) : Bool := s.ports.getD port .absent = .pcie

/-- HOST_MEMRD: the newest data at time wts, rts unchanged (R171). Under host bias the host may keep the line; else it is answered
with MetaValue Invalid (R35). -/
def hostRead (port x : Nat) (own : Bool) (s : State) : State :=
  let w := Waiting.req (.hostMemrd port x own)
  if !hostReaches port x s then s
  else
    let keeps := hostServedBias x s && !pastHost port s
    let first : Res Unit :=
      if keeps then dirRoom x w s
      else match if pastHost port s then needSnoop false x s else none with
        | some inv => holdFor x w (snoop x inv s)
        | none => .ok () s
    match first.andThen fun _ s => hostOpen .peek port x w s with
    | .ok h s =>
      let a := own || s.dirState x = some true
      let s := if keeps then dirSet x a s else s
      { s with outbox := s.outbox ++ [.hostData port x h.data !keeps] }
    | .wait s | .trap _ _ s | .fault _ s => s

def execHostMemrd (port line : Nat) (own : Bool) (s : State) : Out := .next (hostRead port line own s)

/-- Whether a leaf with LK = 1 below a table maps a frame (04 R71, R82). -/
def tableLocks (vi f : Nat) (s : State) : (level tbl : Nat) → Bool
  | level, tbl => tableOk vi tbl s && (List.range 512).any fun i =>
    let ea := tbl + 16 * i
    let w0 := BitVec.ofNat 64 (s.peekField ea 8)
    let l : Leaf := { entry := ea, level := level, base := 0, w0 := w0, w1 := BitVec.ofNat 64 (s.peekField (ea + 8) 8) }
    w0.getLsbD 0 && (if w0.getLsbD 1 then
        l.lk && !l.malformed && decide (4096 * f / 2 ^ l.log = 4096 * l.frame / 2 ^ l.log)
      else match level with
        | 0 => false
        | n + 1 => tableLocks vi f s n (bitsAt w0.toNat 13 39 * 8192))

/-- A frame of a locked plate (02 R40, 04 R82): shared-locked, named by a locked entry of a plate table, or mapped by a locked
leaf of a context. -/
def frameLocked (f : Nat) (s : State) : Bool :=
  s.owners.getD f 0 = 1 || s.vis.any fun v =>
    ((List.range v.2.pltsize).any fun i => match plateEntry v.1 i s with
      | some e => bitsAt e 40 1 = 1 && bitsAt e 41 1 = 1 && e % 2 ^ 40 = f
      | none => false)
    || v.2.ctxs.any fun c => tableLocks v.1 f s 4 c.2.root

/-- HOST_MEMWR: performed at T = max(wts, rts) + 1 (R171), for no interface's statistics (08 R189); on a locked plate it completes
on the link, is not performed, and an event goes to the physical function (02 R40). -/
def hostWrite (port x : Nat) (bytes : Line) (mask : LineMask) (s : State) : State :=
  let w := Waiting.req (.hostMemwr port x bytes mask)
  let done (s : State) : State := if port < 2 then { s with outbox := s.outbox ++ [.hostDone port x] } else s
  if !hostReaches port x s then s
  else if frameLocked (frameOfLine x) s then (done s).post (.eventPost .pf 0x06 0 (4096 * frameOfLine x) 0)
  else
    let first : Res Unit := match if pastHost port s then needSnoop true x s else none with
      | some inv => holdFor x w (snoop x inv s)
      | none => .ok () s
    match first.andThen fun _ s => hostOpen .write port x w s with
    | .ok h s =>
      let T := max h.wts h.rts + 1
      match homeWrite x 128 T bytes mask w s with
      | .ok _ s => done { s with hostHorizon := max s.hostHorizon T }
      | .wait s | .trap _ _ s | .fault _ s => s
    | .wait s | .trap _ _ s | .fault _ s => s

def execHostMemwr (port line : Nat) (bytes : Line) (mask : LineMask) (s : State) : Out :=
  .next (hostWrite port line bytes mask s)

/-- A host answer to a snoop has come. -/
def snoopDone (x : Nat) (inv : Bool) (s : State) : State :=
  { s with outbox := s.outbox.filter fun m => m ≠ .snoop x inv }

/-- BIRSPI: the host holds the line no more; what waited goes on (R36, R39). -/
def hostInvalid (x : Nat) (s : State) : State :=
  let s := serveWaiting x (snoopDone x true (dirErase x s))
  match s.flipping.find (frameOfLine x) with
  | some (0, _, _) => s.post (.biasFlipDone (frameOfLine x))
  | _ => s

def execBirspi (line : Nat) (s : State) : Out := .next (hostInvalid line s)

/-- BISNPDATABLK_ANSWER: dirty data is written as a host write before anything else is served; the host keeps a shared
copy. -/
def snoopAnswer (x : Nat) (dirty : Option (Line × LineMask)) (s : State) : State :=
  let s := if (s.dirState x).isSome then dirSet x false s else s
  let s := serveWaiting x (snoopDone x false s)
  match dirty with
  | some (b, m) => { s with due := .hostMemwr 2 x b m :: s.due }
  | none => s

def execBisnpdatablkAnswer (line : Nat) (dirty : Option (Line × LineMask)) (s : State) : Out :=
  .next (snoopAnswer line dirty s)

/-! ## Peers (02 R45, R47; 07 R172) -/

/-- An access of a peer lies in an export window that gives the right: bit 0 read, 1 write, 2 atomic. -/
def exportOk (src off n right : Nat) (s : State) : Bool :=
  isMemory off && decide (off % 128 + n ≤ 128) && s.mgmt.exports.any fun e =>
    let (base, size, who, rights) := e.2
    decide (size ≠ 0) && decide (base ≤ off) && decide (off + n ≤ base + size) && (who = 0xFFFF || who = src)
      && bitsAt rights right 1 = 1

/-- An answer to a peer leaves on the port of its line (R41). -/
def peerReply (src x tag : Nat) (value : Line) (ok : Bool) (s : State) : State := sendPeer (.reply src x tag value ok) s

/-- PEER_LOAD: the data of time wts. -/
def peerRead (src off size tag : Nat) (s : State) : State :=
  let w := Waiting.req (.peerLoad src off size tag)
  let x := lineOf off
  if !exportOk src off size 0 s then peerReply src x tag 0 false s
  else match openLine .peek x 128 w false s with
    | .ok h s => peerReply src x tag (lineWith 0 (lineField h.data (off % 128) size)) true s
    | .wait s | .trap _ _ s | .fault _ s => s

def execPeerLoad (src off size tag : Nat) (s : State) : Out := .next (peerRead src off size tag s)

/-- A peer's write of masked bytes at max(wts, rts) + 1, `f` giving them and the answer from the old data; the peer horizon
follows. A locked plate refuses it (04 R82). -/
def peerChange (src off tag : Nat) (w : Waiting) (f : Line → Line × LineMask × Line) (s : State) : State :=
  let x := lineOf off
  if frameLocked (frameOf off) s then peerReply src x tag 0 false s
  else match openLine .write x 128 w false s with
    | .ok h s =>
      let T := max h.wts h.rts + 1
      let r := f h.data
      match homeWrite x 128 T r.1 r.2.1 w s with
      | .ok _ s => peerReply src x tag r.2.2 true { s with peerHorizon := max s.peerHorizon T }
      | .wait s | .trap _ _ s | .fault _ s => s
    | .wait s | .trap _ _ s | .fault _ s => s

/-- PEER_STORE: the bytes of a line from the offset on. -/
def execPeerStore (src off size : Nat) (bytes : Line) (tag : Nat) (s : State) : Out :=
  .next (if !exportOk src off size 1 s then peerReply src (lineOf off) tag 0 false s
    else peerChange src off tag (.req (.peerStore src off size bytes tag)) (fun _ => (bytes, maskOf (off % 128) size, 0)) s)

/-- PEER_ATOMIC: an operation of R399 by code and type, 15 an arrival at a barrier object (18 R409). -/
def execPeerAtomic (src off : Nat) (op ty : BitVec 4) (x x2 : DWord) (tag : Nat) (s : State) : Out :=
  let arrive := op = 15
  let n := if arrive then 16 else typeBits ty.toNat / 8
  let o := off % 128
  .next (if !exportOk src off n 2 s || !(arrive || (decide (op.toNat ≤ 10) && atomicTypeOk op.toNat ty.toNat true))
      || off % max n 1 ≠ 0 then
      peerReply src (lineOf off) tag 0 false s
    else peerChange src off tag (.req (.peerAtomic src off op ty x x2 tag)) (fun d =>
      let old := lineField d o n
      if arrive then
        let r := barrierStep old
        (lineWith o r.2, maskOf o n, lineWith 0 r.1)
      else (lineWith o (atomicNew op.toNat ty.toNat bankRound old x.toNat x2.toNat).1, maskOf o n, lineWith 0 old)) s)

/-! ## Answers to this device's requests (02 R33, R47 to R49; 09 R213) -/

/-- An answer is still to come for the address last asked. -/
def Note.open_ (n : Note) : Bool := n.asked ≠ 0 && n.cause = 0 && (n.lines.find (n.asked - 1)).isNone

/-- Sequencers that wait for stores to complete judge again; those that wait for an answer do not. -/
def wakeReleases (w : Wait) (s : State) : State :=
  thread (fun k s => s.wake k)
    ((s.seqs.filter fun e => e.2.wait = w && !(e.2.note.getD {}).open_).map Prod.fst) s

/-- The chains of an engine given by its agent number. -/
def chainsOf (k : Agent) (s : State) : List ChainId :=
  (s.chains.filter fun e => e.1 % 32 = (k - 8192) % 32).map fun e => chainOfKey e.1

/-- A posted store of a sequencer has its completion: performed, or refused with a cause (R43, R45), which the sequencer posts at
its next turn. -/
def storeDone (k : Agent) (p : PeerStore) (cause : Nat) (s : State) : State :=
  let s := dropStore k p (s.upd k fun q =>
    { q with peerOut := q.peerOut.erase p, peerBad := if cause = 0 then q.peerBad else q.peerBad ++ [(p, cause)] })
  if (s.seq k).peerOut = [] then wakeReleases .peer s else s

/-- A posted store of engine `n` (8 × die + engine), which its command posts before it completes. -/
def engStoreDone (n : Nat) (p : PeerStore) (cause : Nat) (s : State) : State :=
  let s := dropStore (2 ^ 20 + n)  p { s with engPeerOut := s.engPeerOut.modify n [] (·.erase p) }
  let s := if cause = 0 then s else { s with engPeerBad := s.engPeerBad.modify n [] (· ++ [(p, cause)]) }
  thread engGo (chainsOf (8192 + n) s) s

/-- PEER_COMPLETION: the oldest store of the agent that is out to the line. -/
def peerCompleted (k : Agent) (addr cause : Nat) (s : State) : State :=
  if 8192 ≤ k then
    match storeTo addr (s.engPeerOut.getD (k - 8192) []) with
    | some p => engStoreDone (k - 8192) p cause s
    | none => s
  else match storeTo addr (s.seq k).peerOut with
    | some p => storeDone k p cause s
    | none => s

def execPeerCompletion (done : PeerDone) (s : State) : Out := .next (peerCompleted done.k done.addr done.cause s)

/-- PEER_DATA_RETURN: data, or the cause of a refusal; an engine's goes to the command that asked. -/
def peerAnswer (k : Agent) (value : DWord) (cause : Nat) (s : State) : State :=
  if 8192 ≤ k then
    let cs := chainsOf k s
    let s := match cs.find? fun c => match s.headCmd c with | some x => x.asked ≠ 0 | none => false with
      | some c => s.updCmd c fun x =>
        if cause ≠ 0 then { x with refused := cause } else { x with got := x.got.set (x.asked - 1) value.toNat, asked := 0 }
      | none => s
    thread engGo cs s
  else
    let q := s.seq k
    if q.wait = .peer && (q.note.getD {}).open_ then s.upd k (answered value.toNat cause) else s

def execPeerDataReturn (k : Agent) (value : DWord) (cause : Nat) (s : State) : Out := .next (peerAnswer k value cause s)

/-- HOST_GLOBAL_OBSERVATION: a store to the host window has been observed; releases and completion words wait for it (R49; 03
R62). -/
def hostObserved (k : Agent) (s : State) : State :=
  if (s.seq k).hostOut = 0 then s
  else
    let s := wordsObserved k (s.upd k fun q => { q with hostOut := q.hostOut - 1 })
    if (s.seq k).hostOut = 0 then wakeReleases .host s else s

def execHostGlobalObservation (k : Agent) (s : State) : Out := .next (hostObserved k s)

/-- PERSISTENCE_FLUSH_DONE. -/
def flushDone (k : Agent) (s : State) : State :=
  if 8192 ≤ k then
    match (chainsOf k s).find? fun c => match s.headCmd c with | some x => x.flushed = some false | none => false with
    | some c => engGo c (s.updCmd c fun x => { x with flushed := some true })
    | none => s
  else match (s.seq k).wait with
    | .persist => s.wake k
    | _ => s

def execPersistenceFlushDone (k : Agent) (s : State) : Out := .next (flushDone k s)

/-- HOST_READ_COMPLETION: a line of the host window that a home asked for, or the answer to a PCIe atomic. -/
def hostData (x : Nat) (bytes : Line) (s : State) : State :=
  if x ∈ s.hostAsked then
    serveWaiting x { s with hostLines := s.hostLines.set x bytes, hostAsked := s.hostAsked.filter (· ≠ x) }
  else
    match s.seqs.find? fun e =>
        let n := e.2.note.getD {}
        e.2.wait = .host && n.open_ && lineOf (n.asked - 1) = x with
    | some e => s.upd e.1 (answered (lineField bytes (((e.2.note.getD {}).asked - 1) % 128) 8) 0)
    | none => s

def execHostReadCompletion (line : Nat) (bytes : Line) (s : State) : Out := .next (hostData line bytes s)

/-! ## Ports (02 R42 to R44) -/

/-- Requests to a peer that no port reaches any more complete as unreachable, posted stores among them (R43). -/
def dropUnreachable (s : State) : State :=
  let gone (pa : Nat) : Bool := tierOf pa = .peer && !reachable pa s
  let lost (n : Nat) : Bool := n ≠ 0 && gone (n - 1)
  let ks := (s.seqs.filter fun e => e.2.wait = .peer && (e.2.note.getD {}).open_ && lost (e.2.note.getD {}).asked).map Prod.fst
  let cs := (s.chains.filter fun e => match e.2.cmds with | x :: _ => lost x.asked | [] => false).map fun e => chainOfKey e.1
  let stores := s.seqs.flatMap fun e => (e.2.peerOut.filter fun p => gone p.addr).map fun p => (e.1, p)
  let engs := s.engPeerOut.flatMap fun e => (e.2.filter fun p => gone p.addr).map fun p => (e.1, p)
  let s := thread (fun k s => s.upd k (answered 0 0x0C)) ks s
  let s := thread engGo cs (thread (fun c s => s.updCmd c fun x => { x with refused := 0x0C }) cs s)
  let s := thread (fun (e : Nat × PeerStore) s => storeDone e.1 e.2 0x0C s) stores s
  thread (fun (e : Nat × PeerStore) s => engStoreDone e.1 e.2 0x0C s) engs s

/-- A port goes down: it leaves every route set, the messages that it had not brought over are replayed in their order on the
remaining ports, and the event is posted. -/
def portFails (p : Nat) (s : State) : State :=
  if 12 ≤ p ∨ !(s.link p).up then s
  else
    let ms := (s.link p).pending
    let s := s.updLink p fun l => { l with up := false, retries := 0, fails := 0, unacked := [], queue := [] }
    (dropUnreachable (thread sendPeer ms s)).post (.eventPost .pf 0x09 0 p 0)

def execPortDown (port : Nat) (s : State) : Out := .next (portFails port s)

/-- What a port keeps of a good flit: what it acknowledges and the credits it returns, and of the next flit in sequence its type and
payload (R42; log 101). -/
def LinkPort.take (l : LinkPort) (f : FlitIn) : LinkPort :=
  let l := { l.acknowledge f.ackNo with credits := l.credits + f.credit }
  if f.seqNo = l.rxSeq then
    { l with rxSeq := (l.rxSeq + 1) % 4096, retries := 0, rxType := f.type, rxSlots := f.slots }
  else l

/-- FLIT_RECEIVE: a flit whose CRC fails is asked for again; with the eighth failed retry in a row the port goes down. A good one
acknowledges, which lets flits that wait go. -/
def flitIn (p : Nat) (f : FlitIn) (s : State) : State :=
  let l := s.link p
  if !l.up then s
  else if f.crcOk then pumpPort p 65 (s.updLink p fun l => l.take f)
  else if 8 ≤ l.retries then portFails p s
  else (fun s : State => { s with outbox := s.outbox ++ [.flitRetry p l.rxSeq] })
    (s.updLink p fun l => { l with retries := l.retries + 1 })

def execFlitReceive (port : Nat) (head : BitVec 64) (slots : BitVec 1920) (crc : BitVec 64) (s : State) : Out :=
  .next (flitIn port (readFlit head slots crc) s)

/-- A port is restored: it is in every route set that names it again. A line whose messages on its former port are not all
acknowledged stays there meanwhile (R44; `choosePort`). -/
def portRestored (p : Nat) (s : State) : State :=
  if 12 ≤ p ∨ (s.link p).up then s
  else (s.updLink p fun _ => {}).post (.eventPost .pf 0x0A 0 p 0)

def execRetrainSuccess (port : Nat) (s : State) : Out := .next (portRestored port s)

/-- RETRAIN_ATTEMPT: it succeeds with 1,024 flits in a row without a CRC failure; after 16 failures in a row a port makes none
until it is told to. -/
def retrain (p cleanFlits : Nat) (s : State) : State :=
  let l := s.link p
  if l.up ∨ (l.stopped ∧ !l.retrain) then s
  else if 1024 ≤ cleanFlits then portRestored p s
  else s.updLink p fun l => { l with retrain := false, fails := l.fails + 1, stopped := decide (16 ≤ l.fails + 1) }

def execRetrainAttempt (port cleanFlits : Nat) (s : State) : Out := .next (retrain port cleanFlits s)

/-- LINKCTL_RETRAIN: a retrain of each down port named. -/
def execLinkctlRetrain (ports : BitVec 12) (s : State) : Out :=
  .next (thread (fun p s => if ports.getLsbD p && !(s.link p).up then
      s.updLink p fun l => { l with retrain := true, stopped := false, fails := 0 } else s) (List.range 12) s)

end Sys2Proof.Machine
end

