-- ==== Sys2Proof/Machine/HostIf.lean ====
section
/-!
DEFINITION. What the host does through an interface's window and its configuration block (spec/03_host_interface.md): enable
and disable (R55), contexts (R56 to R58), queues (R59 to R63), the fault ring and the answers to batches (R64 to R67, R477),
compressed frames (spec/08_compression.md R189, R193, R196), tickets (spec/05_scheduling.md R116), privilege (spec/
11_execution_state.md R246) and debugging (R265, R266).
-/
namespace Sys2Proof.Machine

/-- A change made through the window of an interface: none while it is disabled (R55), and none while only the recovery mailbox
is presented (01 R27). -/
def inWindow (vi : Nat) (f : State → State) (s : State) : State :=
  if vi < 128 ∧ (s.vi vi).en ∧ !s.recovery then f s else s

/-- Host port 0 has trained: it carries the physical function (02 R31). -/
def State.pfPresent (s : State) : Bool := s.ports.getD 0 .absent ≠ .absent

/-- A change made through the management window: none while only the recovery mailbox is presented (01 R25), or where the port
of the physical function has not trained (02 R31). -/
def inManagement (f : State → State) (s : State) : State := if s.recovery || !s.pfPresent then s else f s

/-! ## Contexts (R56, R58, R477) -/

/-- Postings that a context's destruction discards: those of its agents, and its events where they are held. -/
def Posting.of (held : Bool) (cid : Nat) : Posting → Bool
  | .batch (.home _) .. => false
  | .batch _ c .. => c = cid
  | .event _ c _ _ => held && c = cid

/-- A batch that the end of a context settles: one of its agents, a home slice being none (R477). -/
def Batch.settles (cid : Nat) (b : Batch) : Bool := b.cid = cid && match b.src with | .home _ => false | _ => true

/-- Whether a settled source is the fetch, or the completion word, of queue `q`. -/
def PostSrc.fetches (q : Nat) : PostSrc → Bool
  | .queueFetch r => r = q
  | _ => false

def PostSrc.finishes (q : Nat) : PostSrc → Bool
  | .queueDone r => r = q
  | _ => false

/-- The agents whose postings and batches a context's end settles, each with what it waited for (R477). -/
def settledSources (vi cid : Nat) (s : State) : List PostSrc :=
  let v := s.vi vi
  let held := !v.en || !v.ring.ready
  (v.ring.queue.filterMap fun p => match p.post with
    | .batch src .. => if p.post.of held cid then some src else none
    | .event .. => none)
  ++ (v.ring.batches.filter fun b => b.settles cid).map Batch.src

/-- The postings and the batches of a context's agents are settled (R477): a queue whose fetch or completion word waited for
one waits no more, whatever context it names now. -/
def settlePostings (vi cid : Nat) (s : State) : State :=
  let v := s.vi vi
  let held := !v.en || !v.ring.ready
  let srcs := settledSources vi cid s
  let s := s.updVi vi fun v =>
    { v with
      ring := { v.ring with queue := v.ring.queue.filter fun p => !p.post.of held cid
                            batches := v.ring.batches.filter fun b => !b.settles cid }
      queues := v.queues.map fun e =>
        (e.1, { e.2 with fetchWait := e.2.fetchWait && !srcs.any (PostSrc.fetches e.1)
                         wordWait := e.2.wordWait && !srcs.any (PostSrc.finishes e.1) }) }
  thread (fun (e : Nat × Queue) s => if srcs.any (PostSrc.fetches e.1) then s.post (.slateFetch vi e.1) else s) v.queues s

/-- The chains of a context. -/
def contextChains (vi cid : Nat) (s : State) : List ChainId :=
  (s.chains.map fun e => chainOfKey e.1).filter fun c => c.vi = vi && c.cid = cid

/-- A command that had posted a batch, or was about to, waits for none any more. -/
def cutChain (c : ChainId) (s : State) : State :=
  match s.headCmd c with
  | some x => if x.phase = .batch || x.waiting.isSome then engCut c s else s
  | none => s

/-- A context is to be destroyed: its work is given up, its sequencers are pre-empted, its chains are aborted from number 1
(19 R440) and its postings are settled. -/
def destroyContext (vi cid : Nat) (s : State) : State :=
  let s := s.updVi vi fun v => { v with ctxs := v.ctxs.map fun e => if e.1 = cid then (e.1, { e.2 with dying := true }) else e }
  let s := dropWork vi cid s
  let s := thread requestPreempt (boundTo vi cid s) s
  let s := settlePostings vi cid s
  let s := thread (fun c s => cutChain c (engAbort c 1 s).2) (contextChains vi cid s) s
  s.post (.ctxcmdDone vi)

/-- A context that is being destroyed and has no sequencer and no command any more. -/
def contextOver (vi cid : Nat) (s : State) : Bool :=
  (boundTo vi cid s).isEmpty && (contextChains vi cid s).all fun c => (s.chain c).cmds.isEmpty

/-- Posted stores of a context to peers, out or refused, concern nobody any more. -/
def forgetStores (vi cid : Nat) (s : State) : State :=
  let other (p : PeerStore) : Bool := !(p.vi = vi && p.cid = cid)
  { s with
    seqs := s.seqs.map fun e => (e.1, { e.2 with peerOut := e.2.peerOut.filter other, peerBad := e.2.peerBad.filter fun p => other p.1 })
    engPeerOut := s.engPeerOut.map fun e => (e.1, e.2.filter other)
    engPeerBad := s.engPeerBad.map fun e => (e.1, e.2.filter fun p => other p.1) }

/-- The context is gone: with it its translations, its chains and what it had posted since. -/
def eraseContext (vi cid : Nat) (s : State) : State :=
  let s := forgetStores vi cid (dropTlb (fun e => e.vi = vi && e.cid = cid) (settlePostings vi cid s))
  let s := { s with chains := s.chains.filter fun e => let c := chainOfKey e.1; !(c.vi = vi && c.cid = cid) }
  s.updVi vi fun v => { v with ctxs := v.ctxs.erase cid }

/-- CTXCMD_DONE: destructions that have come to their end, and the command's result, which a create has at once; a disable
that waited for the last context goes on. -/
def contextDone (vi : Nat) (s : State) : State :=
  let ended := ((s.vi vi).ctxs.filter fun e => e.2.dying && contextOver vi e.1 s).map Prod.fst
  let s := thread (eraseContext vi) ended s
  let v := s.vi vi
  let (r, n, waits) := v.ctxPend
  let s := if v.ctxBusy && (v.ctxs.find waits).isNone then
      s.updVi vi fun v => { v with ctxBusy := false, ctxResult := r, ctxNew := n }
    else s
  if v.busy && v.ctxs.isEmpty then s.post (.victlDisableDone vi) else s

def execCtxcmdDone (vi : Nat) (s : State) : Out := .next (contextDone vi s)

/-- A CTXCMD write: ignored while one is in progress. -/
def contextCommand (vi : Nat) (f : State → (Nat × Nat × Nat) × State) (s : State) : State :=
  inWindow vi (fun s =>
    if (s.vi vi).ctxBusy then s.updVi vi fun v => { v with ctxOverrun := true }
    else
      let r := f s
      (r.2.updVi vi fun v => { v with ctxBusy := true, ctxPend := r.1 }).post (.ctxcmdDone vi)) s

/-- The frame list of a descriptor, slot by slot (R56). -/
def frameList (a n : Nat) (s : State) : List Nat :=
  let b := s.peekBytes a (8 * n)
  (List.range n).map fun i => bitsAt b (64 * i) 64 / 4096 * 4096

/-- A context from a descriptor: the result, the new ID and the context (R56, R57). A descriptor, root or frame list that does
not lie in owned frames of HBM4E or LPDDR-6, the interface's host-window ranges included, gives code 1 (log 104). -/
def readDescriptor (vi : Nat) (s : State) : Nat × Nat × Option Ctx :=
  let v := s.vi vi
  let a := v.ctxdesc.toNat
  if !ownBytes vi a 64 s then (1, 0, none)
  else
    let d := s.peekBytes a 64
    let f (off n : Nat) : Nat := bitsAt d (8 * off) (8 * n)
    let root := f 0 8
    let slots := f 8 2
    let tiles := f 10 1
    let n := slots * (12 + 16 * tiles)
    if f 11 5 ≠ 0 ∨ f 24 40 ≠ 0 ∨ slots = 0 ∨ 8192 < slots ∨ 8 < tiles ∨ root % 16384 ≠ 0 then (2, 0, none)
    else match (List.range 256).find? fun i => 1 ≤ i && (v.ctxs.find i).isNone with
      | none => (3, 0, none)
      | some id =>
        if !ownBytes vi root 16384 s || !ownBytes vi (f 16 8) (8 * n) s then (1, 0, none)
        else
          let frames := frameList (f 16 8) n s
          if frames.all fun p => ownFrame vi (frameOf p) s then
            (0, id, some { root := root, slots := slots, maxTiles := tiles, frames := frames })
          else (1, 0, none)

/-- A CTXCMD write of a value that names no command: ignored, and while a command is in progress it sets OVERRUN as any other
(R56; log 104). -/
def contextNone (vi : Nat) (s : State) : State :=
  inWindow vi (fun s => if (s.vi vi).ctxBusy then s.updVi vi fun v => { v with ctxOverrun := true } else s) s

/-- CTXCMD_CREATE. -/
def execCtxcmdCreate (vi : Nat) (s : State) : Out :=
  .next (contextCommand vi (fun s => match readDescriptor vi s with
    | (r, id, some c) => ((r, id, 0), s.updVi vi fun v => { v with ctxs := v.ctxs.set id c })
    | (r, _, none) => ((r, 0, 0), s)) s)

/-- CTXCMD_DESTROY. -/
def execCtxcmdDestroy (vi cid : Nat) (s : State) : Out :=
  .next (contextCommand vi (fun s =>
    let v := s.vi vi
    if (v.ctxs.find cid).isNone then ((5, 0, 0), s)
    else if v.queues.any fun q => q.2.ctx = cid then ((4, 0, 0), s)
    else ((0, 0, cid), destroyContext vi cid s)) s)

/-- CTXPRIV_WRITE (11 R246): it counts from the context's next call entry or resume. -/
def setPriv (value : DWord) (s : State) : State :=
  let vi := bitsAt value.toNat 16 7
  let cid := bitsAt value.toNat 8 8
  if ((s.vi vi).ctxs.find cid).isNone then s
  else s.updVi vi fun v =>
    { v with ctxs := v.ctxs.map fun e => if e.1 = cid then (e.1, { e.2 with priv := value.getLsbD 0 }) else e }

def execCtxprivWrite (value : DWord) (s : State) : Out := .next (inManagement (setPriv value) s)

/-! ## Enable and disable (R55, R477) -/

/-- VICTL_ENABLE: the ring is set afresh; an interface whose port did not train is absent (02 R31). EN = 1 written while a
disable is in progress is ignored (log 105). -/
def enableVi (vi : Nat) (s : State) : State :=
  let v := s.vi vi
  if 128 ≤ vi ∨ v.en ∨ v.busy ∨ portOf vi s = .absent then s
  else s.updVi vi fun v =>
    { v with en := true, ring := { v.ring with base := 0, size := 0, head := 0, tail := 0, ready := false } }

def execVictlEnable (vi : Nat) (s : State) : Out := .next (inManagement (enableVi vi) s)

/-- Writing EN = 0 of a queue (R63): the halt is cleared, and the completion word is written again at the next rise of QDONE
(R62). -/
def Queue.stopped (Q : Queue) : Queue := { Q with en := false, halt := false, err := 0, wordHalt := false }

/-- VICTL_DISABLE: every queue stops fetching, every context is destroyed. A context created while the disable is in progress is
kept, and BUSY with it, until software destroys it (log 105). -/
def disableVi (vi : Nat) (s : State) : State :=
  let v := s.vi vi
  if 128 ≤ vi ∨ !v.en ∨ v.busy then s
  else
    let s := s.updVi vi fun v => { v with busy := true, queues := v.queues.map fun e => (e.1, e.2.stopped) }
    (thread (fun e s => destroyContext vi e.1 s) v.ctxs s).post (.ctxcmdDone vi)

def execVictlDisable (vi : Nat) (s : State) : Out := .next (inManagement (disableVi vi) s)

/-- VICTL_DISABLE_DONE: with the last context gone, EN and BUSY become 0. -/
def disableDone (vi : Nat) (s : State) : State :=
  if (s.vi vi).busy && (s.vi vi).ctxs.isEmpty then s.updVi vi fun v => { v with en := false, busy := false } else s

def execVictlDisableDone (vi : Nat) (s : State) : Out := .next (disableDone vi s)

/-! ## Host ranges (R53, R55) and tickets (05 R116) -/

/-- A pinned translation that meets a test. -/
def pinned (p : TlbEntry → Bool) (s : State) : Bool :=
  (s.seqs.any fun e => e.2.heldPins.any p) || s.chains.any fun e => e.2.cmds.any fun x => x.pins.any p

/-- HOST_RANGE_WRITE: the interface's translations are invalidated, and BUSY lasts until none is pinned. -/
def writeRange (vi k : Nat) (isSize : Bool) (value : DWord) (s : State) : State :=
  if 128 ≤ vi ∨ 8 ≤ k then s
  else
    let x : DWord := if isSize then BitVec.ofNat 64 (value.toNat / 4096 * 4096)
      else BitVec.ofNat 64 (value.toNat % 2 ^ 52 / 4096 * 4096)
    let s := s.updVi vi fun v =>
      if isSize then { v with hrSize := v.hrSize.set k x, hrBusy := true } else { v with hrBase := v.hrBase.set k x, hrBusy := true }
    (dropTlb (fun e => e.vi = vi) s).post (.hostRangeInvalidateDone vi)

def execHostRangeWrite (vi k : Nat) (isSize : Bool) (value : DWord) (s : State) : Out :=
  .next (inManagement (writeRange vi k isSize value) s)

/-- HOST_RANGE_INVALIDATE_DONE. -/
def rangeDone (vi : Nat) (s : State) : State :=
  if (s.vi vi).hrBusy && !pinned (fun e => e.vi = vi) s then s.updVi vi fun v => { v with hrBusy := false } else s

def execHostRangeInvalidateDone (vi : Nat) (s : State) : Out := .next (rangeDone vi s)

/-- VITICKETS_WRITE: passes above VTIME are scaled on every die. -/
def setViTickets (vi : Nat) (value : DWord) (s : State) : State :=
  if 128 ≤ vi then s
  else
    let old := (s.vi vi).tickets
    let new := value.toNat % 65536
    let s := (List.range 4).foldl (fun s d => s.updDie d fun x =>
      { x with passVi := x.passVi.map fun e => if e.1 = vi then (e.1, rescale e.2 x.vtimeVi old new) else e }) s
    s.updVi vi fun v => { v with tickets := new }

def execViticketsWrite (vi : Nat) (value : DWord) (s : State) : Out := .next (inManagement (setViTickets vi value) s)

/-! ## Queues (R59 to R63) -/

/-- QUEUE_TICKETS_WRITE: 0 sets 1. -/
def setQueueTickets (vi q tickets : Nat) (s : State) : State :=
  if 64 ≤ q then s
  else
    let old := (s.queue vi q).tickets
    let new := max 1 (tickets % 65536)
    let s := (List.range 4).foldl (fun s d => s.updDie d fun x =>
      { x with passQ := x.passQ.map fun e =>
          if e.1 = queueKey vi q then (e.1, rescale e.2 (x.vtimeQ.getD vi 0) old new) else e }) s
    s.updQueue vi q fun Q => { Q with tickets := new }

def execQueueTicketsWrite (vi q tickets : Nat) (s : State) : Out := .next (inWindow vi (setQueueTickets vi q tickets) s)

/-- QUEUE_ENABLE: with no slate in flight the fetch goes on at QHEAD, which names slate QDONE + 1, or the last one complete
whose link leads there. -/
def enableQueue (vi q : Nat) (s : State) : State :=
  let Q := s.queue vi q
  if 64 ≤ q ∨ Q.en then s
  else
    let n := Q.qdone + 1
    let s := s.updQueue vi q fun Q =>
      if Q.inflight.isEmpty then
        { Q with en := true, next := n, linkOf := if Q.headN = n then none else Q.addrs.find Q.qdone
                 addrs := Q.addrs.filter fun e => e.1 < n }
      else { Q with en := true }
    s.post (.slateFetch vi q)

def execQueueEnable (vi q : Nat) (s : State) : Out := .next (inWindow vi (enableQueue vi q) s)

/-- QUEUE_DISABLE. -/
def disableQueue (vi q : Nat) (s : State) : State := if 64 ≤ q then s else s.updQueue vi q Queue.stopped

def execQueueDisable (vi q : Nat) (s : State) : Out := .next (inWindow vi (disableQueue vi q) s)

/-- QTAIL_WRITE. -/
def writeTail (vi q : Nat) (value : DWord) (s : State) : State :=
  if 64 ≤ q then s
  else if value.toNat < (s.queue vi q).qtail.toNat then s.updQueue vi q fun Q => { Q with tailerr := true }
  else (s.updQueue vi q fun Q => { Q with qtail := value }).post (.slateFetch vi q)

def execQtailWrite (vi q : Nat) (value : DWord) (s : State) : Out := .next (inWindow vi (writeTail vi q value) s)

/-! ## The fault ring (R64, R477) -/

/-- FQBASE_WRITE: both counts become 0 and held postings are released. -/
def writeBase (vi : Nat) (value : DWord) (s : State) : State :=
  drainRing vi (s.updRing vi fun r => { r with base := value, head := 0, tail := 0, ready := true })

def execFqbaseWrite (vi : Nat) (value : DWord) (s : State) : Out := .next (inWindow vi (writeBase vi value) s)

/-- FQSIZE_WRITE: codes 9 to 15 are refused. -/
def writeSize (vi : Nat) (value : DWord) (s : State) : State :=
  let n := value.toNat % 16
  if 8 < n then s.updRing vi fun r => { r with badcmd := true }
  else drainRing vi (s.updRing vi fun r => { r with size := n, head := 0, tail := 0 })

def execFqsizeWrite (vi : Nat) (value : DWord) (s : State) : Out := .next (inWindow vi (writeSize vi value) s)

/-- FQHEAD_WRITE: neither above FQTAIL nor below its value; consumed slots make room. -/
def writeHead (vi : Nat) (value : DWord) (s : State) : State :=
  let r := (s.vi vi).ring
  if (value - r.head).toNat ≤ (r.tail - r.head).toNat then drainRing vi (s.updRing vi fun r => { r with head := value })
  else s.updRing vi fun r => { r with badcmd := true }

def execFqheadWrite (vi : Nat) (value : DWord) (s : State) : Out := .next (inWindow vi (writeHead vi value) s)

/-! ## Answers to batches (R67; 11 R252; 08 R196; 03 R61, R62; 19 R426) -/

/-- The saved work of a context that waits for the answer to a tag. -/
def savedTag (vi cid tag : Nat) (s : State) : Option SavedCtx :=
  ((s.vi vi).ctxs.find cid).bind fun c => c.saved.find? fun x => x.tag = some tag

/-- An answer for a saved context applies when it resumes. -/
def answerSaved (vi cid : Nat) (x : SavedCtx) (retry : Bool) (pages : List Nat) (s : State) : State :=
  let y : SavedCtx := { x with answer := some retry, named := if x.rolled then x.named ++ pages else x.named }
  s.updVi vi fun v => { v with ctxs := v.ctxs.map fun e =>
    if e.1 = cid then (e.1, { e.2 with saved := e.2.saved.map fun z => if z = x then y else z }) else e }

/-- The answer for a sequencer that waits for it and still works for the context that posted it: it executes again, and stores
that a peer refused are sent again, or it takes the fault as a trap. -/
def answerSeq (vi : Nat) (k : Agent) (b : Batch) (retry : Bool) (s : State) : State :=
  let q := s.seq k
  if q.wait ≠ .batch b.tag ∨ q.vi ≠ vi ∨ q.cid ≠ b.cid then s
  else
    let s := s.upd k fun q => { q with peerRetry := [] }
    if retry then
      thread (postStore k) q.peerRetry
        (s.upd k fun q => { q with wait := .run, named := if b.rolled then q.named ++ b.pages else q.named })
    else (trapSeq k 0x0B b.tag s).upd k fun q => if b.rolled then { q with n := { q.n with rbk := true } } else q

/-- Abandon of a line held for expansion: it becomes poison, in memory and in the cache, and any granule is freed. -/
def abandonLine (o x : Nat) (s : State) : State :=
  let m := mdRead s x
  let s := if m.2.2 then pushGranule o (s.mem.read (cbSlot x + 28) 4) s else s
  let s := mdWrite x 15 0 false { s with mem := s.mem.write (cbSlot x) 0 32 }
  let s := countStat (s.frameOwner (frameOfLine x)) 0x60 { s with mcLog := s.mcLog ++ [{ kind := 3, detail := x }] }
  s.updTag x fun h => { h with hx := none, code := 15, sects := [], dirty := false }

/-- The answer for a home's line: none when a write has settled it. -/
def answerHome (x tag : Nat) (retry : Bool) (s : State) : State :=
  match s.home x, s.cbOwner x with
  | some h, some o =>
    if h.hx ≠ some tag then s
    else if retry then
      let r := cbWriteBack o x h s
      if r.1 then roomFreed x (serveWaiting x (r.2.updTag x fun h => { h with hx := none, dirty := false }))
      else expansionBatch o x (r.2.updTag x fun h => { h with hx := some 0 })
    else roomFreed x (serveWaiting x (abandonLine o x s))
  | _, _ => s

/-- FQREPLAY with a tag: an unknown one is ignored. -/
def answerBatch (vi tag : Nat) (retry : Bool) (s : State) : State :=
  match (s.vi vi).ring.batches.find? fun b => b.tag = tag with
  | none => s
  | some b =>
    let s := uncache vi b.cid b.uncached (s.updRing vi fun r => { r with batches := r.batches.filter fun b => b.tag ≠ tag })
    match b.src with
    | .seq k => match savedTag vi b.cid tag s with
      | some x => answerSaved vi b.cid x retry b.pages s
      | none => answerSeq vi k b retry s
    | .engine c => engAnswered c tag retry s
    | .queueFetch q =>
      let s := s.updQueue vi q fun Q => { Q with fetchWait := false }
      if retry then s.post (.slateFetch vi q) else haltQueue vi q 4 s
    | .queueDone q =>
      let s := s.updQueue vi q fun Q => { Q with wordWait := false, wordHalt := !retry }
      if retry then s.post (.slateComplete (wordKey vi q)) else haltQueue vi q 4 s
    | .home x => answerHome x tag retry s

def execFqreplayRetry (vi tag : Nat) (s : State) : Out := .next (inWindow vi (answerBatch vi tag true) s)

def execFqreplayAbandon (vi tag : Nat) (s : State) : Out := .next (inWindow vi (answerBatch vi tag false) s)

/-- FQREPLAY_RESERVED. -/
def badReplay (vi : Nat) (s : State) : State := s.updRing vi fun r => { r with badcmd := true }

def execFqreplayReserved (vi : Nat) (_value : DWord) (s : State) : Out := .next (inWindow vi (badReplay vi) s)

/-! ## Compressed-backing frames (08 R193) -/

/-- A line leaves every cache without a write-back; what was parked on it is woken. -/
def discardLine (x : Nat) (s : State) : State :=
  let s := match s.home x with
    | some h => freeTag x (raiseMts x h.rts (performed x (h.rts + 1) s))
    | none => s
  let s : State := { s with poisoned := s.poisoned.filter (· ≠ x)
                            copies := s.copies.filter fun e => e.1 % 2 ^ 45 ≠ x
                            engCopies := s.engCopies.filter fun e => e.1 % 2 ^ 45 ≠ x }
  roomFreed x (serveWaiting x s)

/-- The address of pool-table entry i. -/
def poolEntry (vi i : Nat) (s : State) : Nat := (s.vi vi).cptbase.toNat + 16 * i

/-- An entry that the device may read and write for the interface: it lies in frames the interface owns (00 R7; log 103). -/
def poolOk (vi i : Nat) (s : State) : Bool := ownBytes vi (poolEntry vi i s) 16 s

/-- V of an entry. -/
def poolValid (vi i : Nat) (s : State) : Bool := bitsAt (s.peekField (poolEntry vi i s) 8) 40 1 = 1

/-- An entry written: its frame, V, GRANT and FREE; entry 0 never offers granule 0. -/
def putPool (vi i frame free : Nat) (grant : Bool) (s : State) : State :=
  let free := if i = 0 then free / 2 * 2 else free
  pokeBytes (poolEntry vi i s) (frame % 2 ^ 40 + 2 ^ 40 + (if grant then 2 ^ 41 else 0) + free * 2 ^ 64) 12 s

/-- A tier has compressed backing (R190). -/
def tierEnabled (pa : Nat) (s : State) : Bool :=
  match tierOf pa with
  | .hbm => s.mgmt.mdbaseh.getLsbD 0
  | .lpddr => s.mgmt.mdbasel.getLsbD 0
  | _ => false

/-- A CBCMD write: ignored while one is in progress. -/
def compressedCommand (vi : Nat) (f : State → Nat × State) (s : State) : State :=
  inWindow vi (fun s =>
    if (s.vi vi).cbBusy then s.updVi vi fun v => { v with cbOverrun := true }
    else
      let r := f s
      (r.2.updVi vi fun v => { v with cbBusy := true, cbPend := r.1 }).post (.cbcmdDone vi)) s

/-- CBCMD_CONVERT. -/
def convertFrame (vi i : Nat) (s : State) : Nat × State :=
  let pa := (s.vi vi).cbframe.toNat / 4096 * 4096
  if (s.vi vi).cptsize ≤ i then (3, s)
  else if !poolOk vi i s then (1, s)
  else if poolValid vi i s then (3, s)
  else if !ownFrame vi (frameOf pa) s then (1, s)
  else if !tierEnabled pa s then (2, s)
  else
    let xs := frameLines (frameOf pa)
    let s := thread discardLine xs s
    let s := thread (fun x s => mdWrite x 0 0 false s) xs s
    (0, putPool vi i (frameOf pa) 0xFFFFFF00 false { s with converted := s.converted.set (frameOf pa) vi })

def execCbcmdConvert (vi index : Nat) (s : State) : Out := .next (compressedCommand vi (convertFrame vi index) s)

/-- CBCMD_GRANT: the frame is owned and plain, and in no other use of the pool. -/
def grantFrame (vi i : Nat) (s : State) : Nat × State :=
  let v := s.vi vi
  let pa := v.cbframe.toNat / 4096 * 4096
  let used := (List.range v.cptsize).any fun j => poolValid vi j s && s.peekField (poolEntry vi j s) 8 % 2 ^ 40 = frameOf pa
  if v.cptsize ≤ i then (3, s)
  else if !poolOk vi i s then (1, s)
  else if poolValid vi i s then (3, s)
  else if !ownFrame vi (frameOf pa) s || (s.converted.find (frameOf pa)).isSome || used then (1, s)
  else (0, putPool vi i (frameOf pa) 0xFFFFFFFF true (thread discardLine (frameLines (frameOf pa)) s))

def execCbcmdGrant (vi index : Nat) (s : State) : Out := .next (compressedCommand vi (grantFrame vi index) s)

/-- The plain bytes of a converted line: its cache's, or memory's decoded; none when it is poison. -/
def plainLine (vi x : Nat) (s : State) : Option Nat :=
  match s.homes.find x with
  | some h => if h.code = 15 then none else some h.data.toNat
  | none => let m := mdRead s x; (cbImage s vi x).bind fun i => Bdz.decode m.1 m.2.1 i

/-- What a line of a converted frame holds and the granule it has, read before any of its frame is written. -/
def releasedLine (vi x : Nat) (s : State) : Nat × Option Nat × Option Nat :=
  (x, plainLine vi x s, if (mdRead s x).2.2 then some (s.mem.read (cbSlot x + 28) 4) else none)

/-- One line of a frame that returns to plain use. -/
def writePlain (vi : Nat) (e : Nat × Option Nat × Option Nat) (s : State) : State :=
  let s := match e.2.2 with
    | some g => pushGranule vi g s
    | none => s
  match e.2.1 with
  | some d => { s with mem := s.mem.setLine e.1 (BitVec.ofNat 1024 d) }
  | none => { s with mem := s.mem.setLine e.1 0, poisoned := e.1 :: s.poisoned.filter (· ≠ e.1) }

/-- A converted frame returns to plain use: every line is decoded and its spill freed. -/
def releaseConverted (vi f : Nat) (s : State) : State :=
  let s := thread (writePlain vi) ((frameLines f).map fun x => releasedLine vi x s) s
  { s with converted := s.converted.erase f
           homes := s.homes.map fun e => if frameOfLine e.1 = f then (e.1, { e.2 with hx := none }) else e }

/-- A granted frame returns to plain use with free contents (log 5). -/
def releaseGranted (f : Nat) (s : State) : State :=
  let v := Config.freeBits s.fresh % 2 ^ 32768
  { thread discardLine (frameLines f) s with mem := s.mem.write (4096 * f) v 4096, fresh := s.fresh + 1 }

/-- CBCMD_RELEASE. An entry that names a frame which is not the interface's, or not one it converted, gives code 1 (00 R7;
log 103). -/
def releaseFrame (vi i : Nat) (s : State) : Nat × State :=
  if (s.vi vi).cptsize ≤ i then (3, s)
  else if !poolOk vi i s then (1, s)
  else if !poolValid vi i s then (3, s)
  else
    let a := poolEntry vi i s
    let w := s.peekField a 8
    let f := w % 2 ^ 40
    let grant := bitsAt w 41 1 = 1
    let all := if grant then 0xFFFFFFFF else 0xFFFFFF00
    if !ownFrame vi f s || (s.converted.find f).isSome ≠ !grant then (1, s)
    else if s.peekField (a + 8) 4 ≠ (if i = 0 then all / 2 * 2 else all) then (4, s)
    else (0, pokeBytes a (w - 2 ^ 40) 8 (if grant then releaseGranted f s else releaseConverted vi f s))

def execCbcmdRelease (vi index : Nat) (s : State) : Out := .next (compressedCommand vi (releaseFrame vi index) s)

/-- CBCMD_NONE: operation 0 sets OVERRUN. -/
def noCommand (vi : Nat) (s : State) : State := s.updVi vi fun v => { v with cbOverrun := true }

def execCbcmdNone (vi : Nat) (s : State) : Out := .next (inWindow vi (noCommand vi) s)

/-- CBCMD_DONE. -/
def compressedDone (vi : Nat) (s : State) : State :=
  if (s.vi vi).cbBusy then s.updVi vi fun v => { v with cbBusy := false, cbResult := v.cbPend } else s

def execCbcmdDone (vi : Nat) (s : State) : Out := .next (compressedDone vi s)

/-- CSTATADDR_WRITE (08 R189): 0 disables, a line of a frame the interface does not own is ignored. -/
def writeStat (vi : Nat) (value : DWord) (s : State) : State :=
  if value = 0 ∨ (value.toNat % 128 = 0 ∧ ownFrame vi (frameOf value.toNat) s) then s.updVi vi fun v => { v with cstat := value } else s

def execCstataddrWrite (vi : Nat) (value : DWord) (s : State) : Out := .next (inWindow vi (writeStat vi value) s)

/-! ## Debugging (11 R265, R266) -/

/-- The sequencer that DBGSEL selects. -/
def debugged (v : Vi) : Agent := bitsAt v.dbgsel.toNat 32 13

/-- A debug command on the selected sequencer while it works for the selected context: else 1 where the interface has no
such context, 2 where the sequencer is not bound to it. -/
def debugCommand (vi : Nat) (f : Agent → State → State) (s : State) : State :=
  inWindow vi (fun s =>
    let v := s.vi vi
    let k := debugged v
    let cid := bitsAt v.dbgsel.toNat 8 8
    let result (r : Nat) (s : State) : State := s.updVi vi fun v => { v with dbgResult := r }
    if (v.ctxs.find cid).isNone then result 1 s
    else if !((s.seq k).bound.any fun b => b.vi = vi && b.cid = cid) then result 2 s
    else result 0 (f k s)) s

/-- The sequencer halts; where its pre-emption has been asked for, an open strip rolls back at once (R266). -/
def debugHalt (k : Nat) (s : State) : State := preemptNow k (s.upd k fun q => { q with halted := true, stepReq := 0 })

def execDbgcmdHalt (vi : Nat) (s : State) : Out := .next (debugCommand vi debugHalt s)

def execDbgcmdRun (vi : Nat) (s : State) : Out :=
  .next (debugCommand vi (fun k s => s.upd k fun q => { q with halted := false, stepReq := 0 }) s)

/-- A halted sequencer runs for one instruction (1) or one element group (2). -/
def debugStep (n k : Nat) (s : State) : State := s.upd k fun q => if q.halted then { q with halted := false, stepReq := n } else q

def execDbgcmdStep (vi : Nat) (s : State) : Out := .next (debugCommand vi (debugStep 1) s)

def execDbgcmdStepGroup (vi : Nat) (s : State) : Out := .next (debugCommand vi (debugStep 2) s)

/-- DBGCMD_DUMP: frames 0 to 10 of a save, to frames the interface owns. -/
def debugDump (vi k : Nat) (s : State) : State :=
  let a := (s.vi vi).dbgbuf.toNat / 4096 * 4096
  if !ownBytes vi a (11 * 4096) s then s
  else
    let frames := (contextImage k 0 s).filter fun e => e.1 ≤ 10
    pokeBytes a 1 4 (thread (fun (e : Nat × Nat) s => pokeBytes (a + 4096 * e.1) e.2 4096 s) frames s)

def execDbgcmdDump (vi : Nat) (s : State) : Out := .next (debugCommand vi (debugDump vi) s)

end Sys2Proof.Machine
end

