-- ==== Sys2Proof/Machine/Package.lean ====
section
/-!
DEFINITION. The module as a whole (spec/01_package.md): reset (R10, R24, R25), energy and clocks (R11 to R17), faults that last
(R18 to R23; spec/08_compression.md R198), firmware and recovery (R25 to R27), attestation (R28 to R30), frame ownership
(spec/03_host_interface.md R54), and the physical function's plain limits (R12, R20; spec/04_address_spaces.md R97, R98,
R101; spec/05_scheduling.md R121).
-/
namespace Sys2Proof.Machine

/-- A register of the physical function changed. -/
def State.updMgmt (s : State) (f : Mgmt → Mgmt) : State := { s with mgmt := f s.mgmt }

/-! ## Retired regions over a reset (R23) -/

/-- Ways of a slice that are retired for good. -/
def retiredWays (slice : Nat) (log : List Region) : List Nat :=
  log.filterMap fun r => match r with | .llcWay d n w => if 64 * d + n = slice then some w else none | _ => none

/-- The slices that a retirement log masks ways of. -/
def retiredSlices (log : List Region) : AMap Slice :=
  let ns := dedup (log.filterMap fun r => match r with | .llcWay d n _ => some (64 * d + n) | _ => none)
  ns.foldl (fun m n => m.set n { retired := retiredWays n log }) []

/-- The clusters of a die that are retired for good. -/
def retiredClusters (die : Nat) (log : List Region) : List Nat :=
  log.filterMap fun r => match r with | .cluster c => if c / 64 = die then some c else none | _ => none

/-! ## MODULE_RESET -/

/-- The boot ROM's verification of an image (R24): its signature under the fused key hash, and its security version. -/
def imageVerifies (image : List Byte) : Bool := Config.imageSigned image && decide (Config.fuseCounter ≤ Config.imageVersion image)

/-- Everything is as after reset, but what outlives one: memory, the persistent logs and the image in flash. An image that
flash does not give back whole, or that fails either check of R24, never runs and leaves the recovery mailbox alone (R25). The
physical function's clearing of the retirement log comes with a reset (log 57): what it named counts afresh (R23). -/
def moduleReset (port0 port1 : PortMode) (imageOk clearLog : Bool) (s : State) : State :=
  let log := if clearLog then [] else s.retiredLog
  let image := s.nextImage.getD s.image
  let die (d : Nat) : Die :=
    let cs := retiredClusters d log
    { fencedClusters := cs, fenced := decide (64 ≤ cs.length) }
  { State.reset with
    ports := [port0, port1], recovery := !(imageOk && imageVerifies image), image := image
    mem := s.mem, poisoned := s.poisoned, retiredLog := log, mcLog := s.mcLog, slices := retiredSlices log
    dies := Vector.ofFn fun (i : Fin 4) => die i.val
    mgmt := { State.reset.mgmt with master := ((List.range 4).find? fun d => !(die d).fenced).getD 0 }
    agenda := s.agenda, fresh := s.fresh, outbox := s.outbox }

def execModuleReset (port0 port1 : PortMode) (boot : BootInput) (s : State) : Out :=
  .next (moduleReset port0 port1 boot.imageOk boot.clearLog s)

/-! ## Energy (R13, R14) -/

/-- Energy joins a counter, in units of 2^-32 µJ; the fraction is kept in the counter's residue. -/
def addEnergy (key x : Nat) (s : State) : State :=
  let r := s.residue.getD key 0 + x
  { s with energy := s.energy.modify key 0 fun e => (e + r / 2 ^ 32) % 2 ^ 64, residue := s.residue.set key (r % 2 ^ 32) }

/-- Energy of a queue counts for its admitted slate of the lowest number (log 58). -/
def useEnergy (vi q x : Nat) (s : State) : State :=
  match slatesOf vi q s with
  | [] => s
  | e :: _ => { s with slates := s.slates.set e.1 { e.2 with used := e.2.used + x } }

/-- A queue's share: its counter, and whole µJ for its slate. -/
def chargeQueue (vi q x : Nat) (s : State) : State :=
  let key := queueEnergy vi q
  let whole := (s.residue.getD key 0 + x) / 2 ^ 32
  useEnergy vi q whole (addEnergy key x s)

/-- The weight of an activity (R14). -/
def activityWeight (a : Nat × Nat × Nat × Nat × Nat × Nat) : Nat :=
  let (_, _, cycles, macs, stage, bytes) := a
  cycles * Config.energyWeight 0 + macs * Config.energyWeight 1 + stage * Config.energyWeight 2 + bytes * Config.energyWeight 3

/-- Energy split among queues by weight: each its share rounded down to 2^-32 µJ, the last what remains. -/
def splitEnergy (total weight : Nat) : List (Nat × Nat × Nat × Nat × Nat × Nat) → (left : Nat) → State → State
  | [], left, s => addEnergy idleEnergy left s
  | [a], left, s => chargeQueue a.1 a.2.1 left s
  | a :: as, left, s =>
    let x := min left (total * activityWeight a / max weight 1)
    splitEnergy total weight as (left - x) (chargeQueue a.1 a.2.1 x s)

/-- One meter's reading: its die, its engines and the module count it; engine energy goes to the queue that issued the
command, the rest is split, or idle where nothing was active. -/
def meterEnergy (m : MeterReading) (s : State) : State :=
  let unit := 2 ^ 32
  let s := addEnergy moduleEnergy (m.energy * unit) s
  let s := if m.die < 4 then addEnergy (dieEnergy m.die) (m.energy * unit) s else s
  let s := thread (fun (x : Nat × Nat × Nat × Nat) s =>
    let (e, vi, q, n) := x
    chargeQueue vi q (n * unit) (if m.die < 4 then addEnergy (engineEnergy m.die e) (n * unit) s else s)) m.engine s
  let rest := (m.energy - m.engine.foldl (fun n x => n + x.2.2.2) 0) * unit
  let active := m.activity.filter fun a => activityWeight a ≠ 0
  splitEnergy rest (active.foldl (fun n a => n + activityWeight a) 0) active rest s

/-- ACCOUNTING_INTERVAL. -/
def execAccountingInterval (meters : List MeterReading) (s : State) : Out := .next (thread meterEnergy meters s)

/-! ## The planning window and the clocks (R15 to R17) -/

/-- The µJ of one window. -/
def windowEnergy (watts : Nat) : Nat := watts * 2 ^ 24 / 1000

/-- The highest step, of 31.25 MHz, at which the predicted energy of admitted work fits the budget that remains once `carried`
µJ of it are committed: from 40 down to 20, and 20, the lowest there is, where none fits (log 54). -/
def fittingStep (predicted : List Nat) (carried watts : Nat) : Nat :=
  (((List.range 21).filter fun i => energyFits watts (carried + predicted.getD i 0)).getLast?.getD 0) + 20

/-- WINDOW_BOUNDARY: the new budget counts, an excess moves to the window that begins, the clocks are planned, and with every
sensor below 95 °C thermal protection ends. -/
def windowBoundary (predicted : List Nat) (cool : Bool) (s : State) : State :=
  let watts := s.mgmt.modbudget
  let carried := s.committed - windowEnergy s.budget
  let step := fittingStep predicted carried watts
  let thermal := s.thermal && !cool
  let s := { s with budget := watts, committed := carried, windowStart := s.cycle, thermal := thermal
                    dies := s.dies.map fun d => { d with planned := step, clock := if s.thermal && cool then step else d.clock } }
  kickAdmit s

def execWindowBoundary (predicted : List Nat) (cool : Bool) (s : State) : Out := .next (windowBoundary predicted cool s)

/-- CLOCK_CHANGE: the planned step of a die takes effect, unless thermal protection holds the clocks down. -/
def execClockChange (die step : Nat) (s : State) : Out :=
  .next (if s.thermal ∨ step ≠ (s.die die).planned then s else s.updDie die fun d => { d with clock := step })

/-- THERMAL_TRIP: every clock at 625 MHz, and an event for every interface. -/
def thermalTrip (s : State) : State :=
  let s := { s with thermal := true, dies := s.dies.map fun d => { d with clock := 20 } }
  thread (fun v s => (s.updVi v fun v => { v with therm := true }).post (.eventPost (.vi v) 0x03 0 0 0)) (List.range 128) s

def execThermalTrip (s : State) : Out := .next (thermalTrip s)

/-- THERMAL_SHUTDOWN: a machine-check record, and the power goes off. -/
def execThermalShutdown (s : State) : Out := .next { s with mcLog := s.mcLog ++ [{ kind := 2, detail := s.cycle }], off := true }

/-- MODBUDGET_WRITE: clamped; it counts from the next window on (R12). -/
def writeBudget (value : DWord) (s : State) : State :=
  s.updMgmt fun m => { m with modbudget := max 600 (min 2800 (value.toNat % 4096)) }

def execModbudgetWrite (value : DWord) (s : State) : Out := .next (inManagement (writeBudget value) s)

/-! ## Errors (R18 to R22) -/

/-- The key of a region. -/
def regionKey : Region → Nat
  | .llcWay d n w => 8 * ((d * 64 + n) * 16 + w)
  | .page f => 8 * f + 1
  | .stageBlock d b => 8 * (d * 16384 + b) + 2
  | .cluster c => 8 * c + 3

/-- The lines that a way of a slice holds by tag or sector. -/
def wayLines (slice way : Nat) (s : State) : List Nat :=
  (s.homes.filter fun e => decide (homeSlice e.1 = slice)
    && (e.2.way = way || e.2.sects.any fun i => i / 2 = way)).map Prod.fst

/-- A line that must stay in the cache takes another way and other sectors (08 R183). -/
def moveLine (x : Nat) (w : Waiting) (s : State) : State :=
  match s.homes.find x with
  | none => s
  | some h => match makeRoom x (sectorsOf h.code h.data) 128 false w roomFuel s with
    | .ok _ s => leaveQueue x w (s.updTag x fun h => { h with way := (freeWays s x).headD h.way }.withSectors x s)
    | .wait s | .trap _ _ s | .fault _ s => s

/-- A line leaves a way that is being retired: written back or dropped, or moved where it must stay; an owned line is recalled
first. -/
def leaveWay (x : Nat) (w : Waiting) (s : State) : State :=
  match s.homes.find x with
  | none => s
  | some h =>
    if evictable (x, h) s then moveLine x w (evict x s)
    else if h.own.isSome then holdAt x w (askOwner x .i s)
    else moveLine x w s

/-- The retirement of a slice's way goes on: done when no line is left in it; the next way follows (R22). -/
def retireWay (die n : Nat) (s : State) : State :=
  let slice := 64 * die + n
  let sl := s.slices.getD slice {}
  match sl.retiring with
  | none => s
  | some way =>
    let s := thread (fun x s => leaveWay x (.req (.wayRetireDone die n)) s) (wayLines slice way s) s
    if wayLines slice way s ≠ [] then s
    else
      let s := { s with slices := s.slices.modify slice {} fun sl =>
        { sl with retiring := sl.retireNext.head?, retireNext := sl.retireNext.drop 1
                  retired := sl.retired ++ sl.retireNext.take 1 } }
      if sl.retireNext = [] then s else s.post (.wayRetireDone die n)

def execWayRetireDone (die slice : Nat) (s : State) : Out := .next (retireWay die slice s)

/-- A region becomes lasting and is retired for good (R21). -/
def retireRegion (r : Region) (s : State) : State :=
  if r ∈ s.retiredLog then s
  else
    let s := { s with retiredLog := s.retiredLog ++ [r] }
    match r with
    | .llcWay d n w =>
      let slice := 64 * d + n
      if ((s.slices.getD slice {}).retiring).isSome then
        { s with slices := s.slices.modify slice {} fun sl => { sl with retireNext := sl.retireNext ++ [w] } }
      else
        ({ s with slices := s.slices.modify slice {} fun sl =>
            { sl with retiring := some w, retired := sl.retired ++ [w] } } : State).post (.wayRetireDone d n)
    | .page f => s.post (.eventPost .pf 0x04 0 (4096 * f) 0)
    | .stageBlock d b => s.post (.eventPost .pf 0x05 0 (d * 2 ^ 32 + 4096 * b) 0)
    | .cluster c => fenceCluster c s

/-- CORRECTED_ERROR (R19): lasting when the oldest of the THRESH − 1 errors before it is no more than WINDOW seconds back. -/
def correctedError (r : Region) (s : State) : State :=
  let n := s.mgmt.thresh
  let before := (s.errTimes.getD (regionKey r) []).take (n - 1)
  let lasting := decide (n - 1 ≤ before.length) && before.getLast?.any fun t => decide (s.cycle ≤ t + s.mgmt.window * 1000000000)
  let s := { s with errTimes := s.errTimes.set (regionKey r) ((s.cycle :: before).take n) }
  if lasting then retireRegion r s else s

def execCorrectedError (r : Region) (s : State) : Out := .next (correctedError r s)

/-- The metadata of eight lines is lost (08 R198). -/
def metadataError (x : Nat) (s : State) : State :=
  let xs := (List.range 8).map fun i => x / 8 * 8 + i
  let leaked := (xs.filter fun y => (mdRead s y).2.2).length
  let s := thread (fun y s => mdWrite y 15 0 false s) xs s
  let s := s.updDie (homeDie x) fun d => { d with mdue := d.mdue + 1, mdleak := d.mdleak + leaked }
  { s with mcLog := s.mcLog ++ [{ kind := 4, detail := x }] }

/-- Memory's copy of a line is lost. -/
def poisonLine (x : Nat) (s : State) : State :=
  match s.cbOwner x with
  | some _ => mdWrite x 15 0 (mdRead s x).2.2 s
  | none => { s with poisoned := x :: s.poisoned.filter (· ≠ x) }

/-- A cached line in a way is lost: it is poison, which differs from memory. -/
def losePlace (x : Nat) (s : State) : State := s.updTag x fun h => { h with code := 15, sects := [], dirty := true }

/-- The vector registers and the tiles of a sequencer are lost: a register carries no poison, so they take free values (logs 5,
66). -/
def loseRegisters (k : Agent) (s : State) : State :=
  let bits (i n : Nat) : Nat := Config.freeBits (s.fresh + i) % 2 ^ n
  let s := s.upd k fun q =>
    { q with v := Vector.ofFn fun (i : Fin 32) => if i.val < q.c.nv then bits i.val (8 * q.c.rlen) else 0
             a := Vector.ofFn fun (i : Fin 8) => if q.n.claim.getLsbD i.val then bits (32 + i.val) 524288 else 0 }
  { s with fresh := s.fresh + 40 }

/-- The rows of a latch unit are lost. -/
def LatchUnit.lost (u : LatchUnit) (fresh : Nat) : LatchUnit :=
  { u with latch := { u.latch with rows := u.latch.rows.zipIdx.map fun e => Config.freeBits (fresh + e.2) % 2 ^ 4096 } }

/-- The latches of a cluster are lost. -/
def loseLatches (c : Nat) (s : State) : State :=
  let lose (n : Nat) (m : AMap LatchUnit) : AMap LatchUnit :=
    m.map fun e => if e.1 = c then (e.1, e.2.lost (s.fresh + n)) else e
  { s with latches := lose 0 s.latches, pairLatches := lose 128 s.pairLatches, fresh := s.fresh + 256 }

/-- What an uncorrectable error takes of a region (R18, R19): cached lines, memory lines or the metadata of lines, a Stage block
(free values, log 66), or of a cluster the copies of lines, vector registers and tiles of sequencers, and the latches. -/
def loseData (r : Region) (lines : List Nat) (seqs : List Agent) (latches : Bool) (s : State) : State :=
  match r with
  | .llcWay d n w => thread losePlace (lines.filter (· ∈ wayLines (64 * d + n) w s)) s
  | .page f => thread (fun x s => if frameOfLine x ≠ f && frameOf (mdAddr s x) = f then metadataError x s else poisonLine x s) lines s
  | .stageBlock d b =>
    { s with stage := s.stage.write (stageAt d (4096 * b)) (Config.freeBits s.fresh % 2 ^ 32768) 4096, fresh := s.fresh + 1 }
  | .cluster c =>
    let s := thread (fun x s => match s.copy c x with
      | some p => s.setCopy c x { p with poison := true }
      | none => s) lines s
    let s := thread loseRegisters (seqs.filter fun k => clusterOfSeq k = c) s
    if latches then loseLatches c s else s

/-- A region with an error that cannot be corrected is lasting at once; a cluster that fails while its contexts are being saved
loses those not yet saved (R22). -/
def regionFails (r : Region) (s : State) : State :=
  match r with
  | .cluster c => if r ∈ s.retiredLog then loseCluster c s else retireRegion r s
  | _ => retireRegion r s

/-- UNCORRECTABLE_ERROR (R19). -/
def execUncorrectableError (r : Region) (lost : Damage) (s : State) : Out :=
  .next (regionFails r (loseData r lost.lines lost.seqs lost.latches s))

/-- ERROR_WINDOW_WRITE (R20). -/
def writeErrorWindow (value : DWord) (s : State) : State :=
  s.updMgmt fun m => { m with window := max 1 (bitsAt value.toNat 16 16), thresh := max 2 (value.toNat % 16) }

def execErrorWindowWrite (value : DWord) (s : State) : Out := .next (inManagement (writeErrorWindow value) s)

/-! ## Firmware (R24 to R27) -/

/-- Frames from an address that only the physical function may map (03 R52). -/
def unassigned (pa n : Nat) (p : Nat → Bool) (s : State) : Bool :=
  (List.range ((pa % 4096 + n + 4095) / 4096)).all fun i =>
    let f := pa / 4096 + i
    let b := s.owners.getD f 0
    p (4096 * f) && b ≠ 1 && decide (b < 0x80)

/-- Bytes of memory in order. -/
def bytesAt (pa n : Nat) (s : State) : List Byte := (List.range n).map fun i => BitVec.ofNat 8 (s.peekField (pa + i) 1)

/-- A length of an image: 1 to 64 MiB. -/
def imageLength (n : Nat) : Bool := decide (1 ≤ n) && decide (n ≤ 2 ^ 26)

/-- FWCMD_INSTALL: the staged image is copied and the update begins; any write while one is in progress sets OVERRUN. -/
def startUpdate (value : DWord) (s : State) : State :=
  if s.mgmt.fwBusy then s.updMgmt fun m => { m with fwOverrun := true }
  else if bitsAt value.toNat 60 4 ≠ 1 then s
  else
    let n := value.toNat % 2 ^ 32
    let base := s.mgmt.fwstage.toNat
    let ok := imageLength n && unassigned base n (fun a => tierOf a = .hbm) s
    s.updMgmt fun m => { m with fwOp := 1, fwLen := n, fwBusy := true, fwCopy := if ok then some (bytesAt base n s) else none }

def execFwcmdInstall (value : DWord) (s : State) : Out := .next (inManagement (startUpdate value) s)

/-- The code of a verification (R24, R26): 4 where the flash write failed. -/
def imageResult (image : List Byte) (flash : Nat) : Nat :=
  if !Config.imageSigned image then 1
  else if Config.imageVersion image < Config.fuseCounter then 2
  else if flash = 4 then 4 else 0

/-- FW_UPDATE_DONE: an image that passes is in flash and takes effect at the next reset. -/
def updateDone (flash : Nat) (s : State) : State :=
  if !s.mgmt.fwBusy then s
  else
    let copy := s.mgmt.fwCopy
    let r := match copy with | none => 3 | some i => imageResult i flash
    let s := s.updMgmt fun m => { m with fwBusy := false, fwCopy := none, fwResult := r }
    if r = 0 then { s with nextImage := copy.or s.nextImage } else s

def execFwUpdateDone (result : Nat) (s : State) : Out := .next (updateDone result s)

/-- RECCMD_RECOVERY: through the mailbox, which host port 0 presents; a write while a recovery is in progress is ignored
(log 106). -/
def startRecovery (value : DWord) (s : State) : State :=
  if s.recovery ∧ s.pfPresent ∧ value = 1 ∧ !s.mgmt.recBusy then s.updMgmt fun m => { m with recBusy := true } else s

def execReccmdRecovery (value : DWord) (s : State) : Out := .next (startRecovery value s)

/-- RECOVERY_DONE: the image read from host memory, whose bytes are free values here (log 5), is verified and written, and the
module resets. RECADDR and RECLEN count as they stand now (log 106). -/
def recoveryDone (flash : Nat) (s : State) : State :=
  if !s.mgmt.recBusy then s
  else
    let n := s.mgmt.reclen.toNat
    if !imageLength n ∨ s.mgmt.recaddr.toNat % 4096 ≠ 0 then s.updMgmt fun m => { m with recBusy := false, recResult := 3 }
    else
      let image := (List.range n).map fun i => BitVec.ofNat 8 (Config.freeBits (s.fresh + i))
      let r := imageResult image flash
      let s := { s with fresh := s.fresh + n }
      if r = 0 then moduleReset (s.ports.getD 0 .absent) (s.ports.getD 1 .absent) true false { s with nextImage := some image }
      else s.updMgmt fun m => { m with recBusy := false, recResult := r }

def execRecoveryDone (result : Nat) (s : State) : Out := .next (recoveryDone result s)

/-! ## Attestation (R28 to R30) -/

def State.attest (s : State) (who : RingId) : Attest := match who with | .pf => s.mgmt.att | .vi n => (s.vi n).att

def State.updAttest (s : State) (who : RingId) (f : Attest → Attest) : State :=
  match who with
  | .pf => s.updMgmt fun m => { m with att := f m.att }
  | .vi n => s.updVi n fun v => { v with att := f v.att }

/-- Frames of a tier that an interface owns, and of its host-window ranges (03 R55). -/
def ownedFrames (vi : Nat) (t : Tier) (s : State) : Nat :=
  (s.owners.filter fun e => e.2 = 0x80 + vi && tierOf (4096 * e.1) = t).length

def hostFrames (vi : Nat) (s : State) : Nat := (s.vi vi).hrSize.foldl (fun n x => n + x.toNat) 0 / 4096

/-- The bytes of a report. -/
def reportBytes : Nat := 29920

/-- ATTCMD_REQUEST: nonce and buffer are read as the request is queued; a bad buffer is refused, and any write while a request
is queued sets OVERRUN. -/
def requestReport (who : RingId) (value : DWord) (s : State) : State :=
  let a := s.attest who
  if a.busy then s.updAttest who fun a => { a with overrun := true }
  else if value ≠ 1 then s
  else
    let pa := a.buf.toNat
    let ok := decide (pa % 64 = 0) && match who with
      | .pf => unassigned pa reportBytes isMemory s
      | .vi n => ownBytes n pa reportBytes s
    if !ok then s.updAttest who fun a => { a with result := 1 }
    else
      let s := s.updAttest who fun a => { a with busy := true, qNonce := a.nonce, qBuf := pa }
      { s with attQueue := s.attQueue ++ [who] }

def execAttcmdRequest (who : RingId) (value : DWord) (s : State) : Out :=
  .next (match who with
    | .pf => inManagement (requestReport who value) s
    | .vi n => inWindow n (requestReport who value) s)

/-- A requester's number and frames by tier (03 R51), 128 for the physical function, summed up as the firmware does (log 11). -/
def interfaceSummary (who : RingId) (s : State) : Nat :=
  match who with
  | .pf => Config.interfaceSummary 128 0 0 0
  | .vi n => Config.interfaceSummary n (ownedFrames n .hbm s) (ownedFrames n .lpddr s) (hostFrames n s)

/-- What is retired, by kind (R23, R29), summed up as the firmware does (log 11). -/
def retirementSummary (s : State) : Nat :=
  let pick (f : Region → Option Nat) : List Nat := s.retiredLog.filterMap f
  Config.retirementSummary
    (pick fun r => match r with | .llcWay d n w => some ((d * 64 + n) * 16 + w) | _ => none)
    (pick fun r => match r with | .cluster c => some c | _ => none)
    (pick fun r => match r with | .page f => some f | _ => none)
    (pick fun r => match r with | .stageBlock d b => some (d * 16384 + b) | _ => none)

/-- The first 128 bytes of a report (R29): nonce, the SHAKE256 measurement of the image, its version, the cycle count, and the
two summaries. -/
def reportHead (who : RingId) (nonce : List DWord) (s : State) : Nat :=
  let n := (nonce.zipIdx).foldl (fun x e => x + e.1.toNat * 2 ^ (64 * e.2)) 0
  n % 2 ^ 256 + Shake.shakeBytes s.image 32 * 2 ^ 256 + Config.imageVersion s.image % 2 ^ 64 * 2 ^ 512
    + s.cycle % 2 ^ 64 * 2 ^ 576 + interfaceSummary who s % 2 ^ 128 * 2 ^ 640 + retirementSummary s % 2 ^ 256 * 2 ^ 768

/-- ATTESTATION_SIGNED: the first request's report is written whole, then its BUSY clears. -/
def reportSigned (s : State) : State :=
  match s.attQueue with
  | [] => s
  | who :: rest =>
    let a := s.attest who
    let head := reportHead who a.qNonce s
    let sig := Config.signature ((List.range 128).map fun i => BitVec.ofNat 8 (head >>> (8 * i)))
    let s := pokeBytes a.qBuf head 128 { s with attQueue := rest }
    let s := pokeBytes (a.qBuf + 128) ((sig.take 29792).foldr (fun b x => x * 256 + b.toNat) 0) 29792 s
    s.updAttest who fun a => { a with busy := false, result := 0 }

def execAttestationSigned (s : State) : Out := .next (reportSigned s)

/-! ## Frame ownership (03 R54) -/

/-- A translation maps a frame of a range. -/
def TlbEntry.maps (e : TlbEntry) (first count : Nat) : Bool :=
  let n := if e.leaf.level = tableMark then 2 else 2 ^ (max e.log e.leaf.log - 12)
  decide (frameOf e.leaf.base < first + count) && decide (first < frameOf e.leaf.base + n)

/-- The ownership table with a range of frames given one byte. -/
def setOwners (m : AMap Nat) (first count byte : Nat) : AMap Nat :=
  let mid := if byte = 0 then [] else (List.range count).map fun i => (first + i, byte)
  m.filter (fun e => e.1 < first) ++ mid ++ m.filter fun e => first + count ≤ e.1

/-- OWNCMD_WRITE: refused for a bad range; else the table is written and BUSY lasts until no translation of the frames is
held. -/
def writeOwners (value : DWord) (s : State) : State :=
  if s.mgmt.ownBusy then s.updMgmt fun m => { m with ownOverrun := true }
  else
    let count := value.toNat % 2 ^ 21
    let owner := bitsAt value.toNat 40 8
    let first := s.mgmt.ownset
    let last := first + count - 1
    let ok := decide (1 ≤ count) && decide (count ≤ 2 ^ 20) && isMemory (4096 * first)
      && tierOf (4096 * first) = tierOf (4096 * last)
    let s := s.updMgmt fun m => { m with ownOwner := owner, ownCount := count, ownBusy := ok, ownResult := if ok then 0 else 1 }
    if ok then
      (dropTlb (fun e => e.maps first count) { s with owners := setOwners s.owners first count owner }).post .owncmdDone
    else s

def execOwncmdWrite (value : DWord) (s : State) : Out := .next (inManagement (writeOwners value) s)

/-- OWNCMD_DONE. -/
def ownersDone (s : State) : State :=
  let m := s.mgmt
  if m.ownBusy && !pinned (fun e => e.maps m.ownset m.ownCount) s then s.updMgmt fun m => { m with ownBusy := false } else s

def execOwncmdDone (s : State) : Out := .next (ownersDone s)

/-! ## Limits and heat -/

/-- TLBPINWAIT_WRITE (04 R97) and PREEMPTDL_WRITE (05 R121). -/
def execTlbpinwaitWrite (value : DWord) (s : State) : Out :=
  .next (inManagement (fun s => s.updMgmt fun m => { m with tlbpinwait := max 1000 (value.toNat % 2 ^ 32) }) s)

def execPreemptdlWrite (value : DWord) (s : State) : Out :=
  .next (inManagement (fun s => s.updMgmt fun m => { m with preemptdl := max 1000 (value.toNat % 2 ^ 32) }) s)

/-- HEATCTL_WRITE (04 R98). -/
def writeHeat (value : DWord) (s : State) : State :=
  s.updMgmt fun m => { m with heatEn := value.getLsbD 31, heatshift := min 16 (value.toNat % 32) }

def execHeatctlWrite (value : DWord) (s : State) : Out := .next (inManagement (writeHeat value) s)

/-- HEAT_SWEEP: a heat line is halved as its age asks (04 R101). -/
def execHeatSweep (line : Nat) (s : State) : Out :=
  .next (if s.mgmt.heatEn ∧ line < 1441792 then heatSettle line s else s)

end Sys2Proof.Machine
end

