-- ==== Sys2Proof/Machine/Registers.lean ====
section
/-!
DEFINITION. The register windows (spec/03_host_interface.md R50 to R68 and the registers other files place there): what each
offset reads, the reads that clear a count, and a register write, which goes to the register's own behaviour where it has one
and else follows the access codes of its fields (spec/00_scope.md R5).
-/
namespace Sys2Proof.Machine

/-! ## What a register reads -/

/-- A field at a bit. -/
def fieldAt (b x : Nat) : Nat := x * 2 ^ b
def bitAt (b : Nat) (x : Bool) : Nat := if x then 2 ^ b else 0

/-- ATTSTAT (01 R30). -/
def attStatus (who : RingId) (s : State) : Nat :=
  let a := s.attest who
  bitAt 0 a.busy + bitAt 1 a.overrun + fieldAt 4 a.result + fieldAt 16 (if a.busy then s.attQueue.idxOf who else 0)

/-- The attestation block of a requester, by the offset in it; ATTCMD reads 0 (log 106). -/
def attRead (who : RingId) (o : Nat) (s : State) : Nat :=
  let a := s.attest who
  if o < 0x20 then (a.nonce.getD (o / 8) 0).toNat
  else if o = 0x20 then a.buf.toNat
  else if o = 0x30 then attStatus who s
  else 0

/-- QCTL (03 R60). -/
def Queue.ctl (Q : Queue) : Nat :=
  fieldAt 16 Q.tickets + fieldAt 4 Q.err + bitAt 3 Q.tailerr + bitAt 2 Q.inflight.isEmpty + bitAt 1 Q.halt + bitAt 0 Q.en

/-- A queue's block (03 R59). -/
def Queue.reg (Q : Queue) (o : Nat) : Nat :=
  match o with
  | 0x000 => Q.ctl
  | 0x008 => Q.qhead.toNat
  | 0x010 => Q.qtail.toNat
  | 0x018 => Q.doneAddr.toNat
  | 0x020 => Q.qdone
  | 0x028 => Q.ctx
  | 0x030 => Q.est.toNat
  | _ => 0

/-- DBGSTAT (11 R265; 19 R449). -/
def debugStatus (vi : Nat) (s : State) : Nat :=
  let v := s.vi vi
  let q := s.seq (debugged v)
  let mine := q.bound.any fun b => b.vi = vi && b.cid = bitsAt v.dbgsel.toNat 8 8
  fieldAt 4 v.dbgResult + (if mine then bitAt 0 q.halted + fieldAt 32 q.mark.toNat else 0)

/-- The value of a register of an interface's window (03 R50), which reads 0 while the interface is disabled (R55). -/
def viReg (vi o : Nat) (s : State) : Nat :=
  let v := s.vi vi
  let r := v.ring
  if !v.en then 0
  else if 0x10000 ≤ o ∧ o < 0x20000 then (s.queue vi ((o - 0x10000) / 0x400)).reg (o % 0x400)
  else if 0x2100 ≤ o ∧ o < 0x2300 ∧ o % 8 = 0 then s.energy.getD (queueEnergy vi ((o - 0x2100) / 8)) 0
  else if 0x3000 ≤ o ∧ o < 0x3038 ∧ o % 8 = 0 then attRead (.vi vi) (o - 0x3000) s
  else match o with
    | 0x00000 => fieldAt 16 v.ctxs.length + fieldAt 8 vi + bitAt 1 v.therm + bitAt 0 v.en
    | 0x00010 => ownedFrames vi .hbm s
    | 0x00018 => ownedFrames vi .lpddr s
    | 0x00020 => hostFrames vi s
    | 0x00028 => max 1 v.tickets
    | 0x01000 => r.base.toNat
    | 0x01008 => r.size
    | 0x01010 => r.head.toNat
    | 0x01018 => r.tail.toNat
    | 0x01028 => bitAt 0 r.badcmd + fieldAt 32 r.waits
    | 0x02000 => viEnergy vi s % 2 ^ 64
    | 0x20000 => v.ctxdesc.toNat
    | 0x20010 => bitAt 0 v.ctxBusy + bitAt 1 v.ctxOverrun + fieldAt 4 v.ctxResult + fieldAt 8 v.ctxNew
    | 0x20100 => v.pltbase.toNat
    | 0x20108 => v.pltsize
    | 0x20110 => v.cstat.toNat
    | 0x20120 => v.cbframe.toNat
    | 0x20130 => bitAt 0 v.cbBusy + bitAt 1 v.cbOverrun + fieldAt 4 v.cbResult
    | 0x20138 => v.cptbase.toNat
    | 0x20140 => v.cptsize
    | 0x20200 => v.dbgsel.toNat
    | 0x20210 => debugStatus vi s
    | 0x20218 => v.dbgbuf.toNat
    | _ => 0

/-- Ways of a die's slices that are retired. -/
def waysRetired (d : Nat) (s : State) : Nat :=
  s.slices.foldl (fun n e => if e.1 / 64 = d then n + e.2.retired.length else n) 0

/-- Valid tags of a die whose CODE meets a test. -/
def tagsOf (d : Nat) (p : Nat → Bool) (s : State) : List (HomeLine (BitVec 24)) :=
  (s.homes.filter fun e => homeDie e.1 = d && p e.2.code).map Prod.snd

/-- A die's compression counters by offset (08 R187, R188). -/
def cacheReg (d o : Nat) (s : State) : Nat :=
  let x := s.die d
  let sectors := (tagsOf d (· ≠ 15) s).foldl (fun n h => n + Bdz.nsec h.code h.data.toNat) 0
  let secAvail := 4194304 - waysRetired d s * 4096
  let tagAvail := 2097152 - waysRetired d s * 2048
  let valid := (tagsOf d (fun _ => true) s).length
  match o with
  | 0x60 => (tagsOf d (· = 15) s).length
  | 0x68 => sectors
  | 0x70 => secAvail
  | 0x78 => tagAvail
  | 0x80 => if sectors = 0 then 128 * tagAvail else min (128 * tagAvail) (128 * valid * secAvail / sectors)
  | 0x88 => x.expevict
  | 0x90 => x.exprecall
  | 0x98 => x.incomp
  | 0xA0 => x.poolexp
  | 0xA8 => x.mdhit
  | 0xB0 => x.mdmiss
  | 0xB8 => x.mdue
  | 0xC0 => x.mdleak
  | _ => if o < 0x60 ∧ o % 8 = 0 then (tagsOf d (· = o / 8) s).length else 0

/-- A die's coherence counters (07 R175). -/
def coherenceReg (d o : Nat) (s : State) : Nat :=
  let x := s.die d
  match o with
  | 0x00 => x.stale
  | 0x08 => x.phovl
  | 0x10 => x.renewd
  | 0x18 => x.renewf
  | _ => 0

/-- DISTSTAT (05 R125). -/
def distStatus (s : State) : Nat :=
  (List.range 4).foldl (fun n d => n + bitAt (8 + d) (s.die d).fenced) 0 + fieldAt 4 s.mgmt.master + bitAt 0 s.mgmt.elect

/-- LINKCTL (02 R46). -/
def linkStatus (s : State) : Nat :=
  (portsUp s).toNat * 2 ^ 32 + (List.range 12).foldl (fun n p => n + bitAt p (s.link p).retrain) 0

/-- A dword of an export entry (02 R45). -/
def exportRead (k o : Nat) (s : State) : Nat :=
  let (base, size, who, rights) := s.mgmt.exports.getD k (0, 0, 0, 0)
  match o with
  | 0 => base
  | 8 => size
  | 16 => who + fieldAt 16 rights
  | _ => 0

/-- A register of interface i's configuration block (03 R55). -/
def configReg (i o : Nat) (s : State) : Nat :=
  let v := s.vi i
  if o = 0x00 then bitAt 0 v.en + bitAt 1 (v.busy || v.hrBusy)
  else if o = 0x08 then v.tickets
  else if 0x40 ≤ o ∧ o < 0xC0 ∧ o % 8 = 0 then
    (if o % 16 = 0 then v.hrBase.getD ((o - 0x40) / 16) 0 else v.hrSize.getD ((o - 0x40) / 16) 0).toNat
  else 0

/-- The value of a register of the management window. -/
def pfReg (o : Nat) (s : State) : Nat :=
  let m := s.mgmt
  if 0x140 ≤ o ∧ o < 0x178 ∧ o % 8 = 0 then attRead .pf (o - 0x140) s
  else if 0x440 ≤ o ∧ o < 0x4C0 then coherenceReg ((o - 0x440) / 0x20) (o % 0x20) s
  else if 0x800 ≤ o ∧ o < 0xC00 then cacheReg ((o - 0x800) / 0x100) (o % 0x100) s
  else if 0x1010 ≤ o ∧ o < 0x1030 ∧ o % 8 = 0 then s.energy.getD (dieEnergy ((o - 0x1010) / 8)) 0
  else if 0x1040 ≤ o ∧ o < 0x1140 ∧ o % 8 = 0 ∧ o % 0x40 < 0x28 then
    s.energy.getD (engineEnergy ((o - 0x1040) / 0x40) (o % 0x40 / 8)) 0
  else if 0x4000 ≤ o ∧ o < 0x5000 ∧ o % 4 = 0 then (m.route.getD ((o - 0x4000) / 4) 0).toNat
  else if 0x5000 ≤ o ∧ o < 0x7000 ∧ o % 8 = 0 then exportRead ((o - 0x5000) / 32) (o % 32) s
  else if 0x8000 ≤ o ∧ o < 0x10000 then configReg ((o - 0x8000) / 0x100) (o % 0x100) s
  else match o with
    | 0x100 => fieldAt 16 m.window + m.thresh
    | 0x108 => m.modbudget
    | 0x110 => m.hostbase.toNat
    | 0x118 => m.peerid
    | 0x120 => m.fwstage.toNat
    | 0x128 => fieldAt 60 m.fwOp + m.fwLen
    | 0x130 => fieldAt 4 m.fwResult + bitAt 1 m.fwOverrun + bitAt 0 m.fwBusy
    | 0x180 => linkStatus s
    | 0x200 => m.ownset
    | 0x208 => bitAt 63 m.ownBusy + bitAt 62 m.ownOverrun + fieldAt 60 m.ownResult + fieldAt 40 m.ownOwner + m.ownCount
    | 0x300 => m.heatbase.toNat
    | 0x308 => bitAt 31 m.heatEn + m.heatshift
    | 0x310 => s.cycle / 2 ^ 26 % 2 ^ 64
    | 0x318 => m.tlbpinwait
    | 0x320 => m.preemptdl
    | 0x328 => distStatus s
    | 0x400 => s.tbase / 2 ^ 22 * 2 ^ 22 % 2 ^ 64 + s.rebases % 2
    | 0x408 => s.rebases % 2 ^ 64
    | 0x500 => m.mdbaseh.toNat
    | 0x508 => m.mdbasel.toNat
    | 0x700 => m.peeren0.toNat
    | 0x708 => m.peeren1.toNat
    | 0x1000 => s.energy.getD moduleEnergy 0
    | 0x1008 => s.energy.getD idleEnergy 0
    | _ => 0

/-- The mailbox (01 R27); RECCMD reads 0 (log 106). -/
def recoveryReg (o : Nat) (s : State) : Nat :=
  match o with
  | 0x000 => s.mgmt.recaddr.toNat
  | 0x008 => s.mgmt.reclen.toNat
  | 0x018 => bitAt 0 s.mgmt.recBusy + fieldAt 4 s.mgmt.recResult
  | _ => 0

/-- What a register reads. -/
def State.reg (s : State) (win : RingId) (o : Nat) : DWord :=
  BitVec.ofNat 64 (match win with
    | .pf => if !s.pfPresent then 0 else if s.recovery then recoveryReg o s else pfReg o s
    | .vi n => if s.recovery then 0 else viReg n o s)

/-! ## Reads that clear -/

/-- The value that a host's read has returned. -/
def returned (x : DWord) (s : State) : State := { s with hostVal := s.hostVal.set 0 x }

/-- A count of a die read and cleared. -/
def readCount (die o : Nat) (clear : Die → Die) (s : State) : Out :=
  .next (inManagement (fun s => (returned (s.reg .pf o) s).updDie die clear) s)

def coherenceOffset (die i : Nat) : Nat := 0x440 + 0x20 * die + 8 * i
def cacheOffset (die o : Nat) : Nat := 0x800 + 0x100 * die + o

def execStaledropRead (die : Nat) (s : State) : Out := readCount die (coherenceOffset die 0) (fun d => { d with stale := 0 }) s
def execPhovlRead (die : Nat) (s : State) : Out := readCount die (coherenceOffset die 1) (fun d => { d with phovl := 0 }) s
def execRenewdRead (die : Nat) (s : State) : Out := readCount die (coherenceOffset die 2) (fun d => { d with renewd := 0 }) s
def execRenewfRead (die : Nat) (s : State) : Out := readCount die (coherenceOffset die 3) (fun d => { d with renewf := 0 }) s
def execExpevictRead (die : Nat) (s : State) : Out := readCount die (cacheOffset die 0x88) (fun d => { d with expevict := 0 }) s
def execExprecallRead (die : Nat) (s : State) : Out := readCount die (cacheOffset die 0x90) (fun d => { d with exprecall := 0 }) s
def execIncompRead (die : Nat) (s : State) : Out := readCount die (cacheOffset die 0x98) (fun d => { d with incomp := 0 }) s
def execPoolexpRead (die : Nat) (s : State) : Out := readCount die (cacheOffset die 0xA0) (fun d => { d with poolexp := 0 }) s
def execMdhitRead (die : Nat) (s : State) : Out := readCount die (cacheOffset die 0xA8) (fun d => { d with mdhit := 0 }) s
def execMdmissRead (die : Nat) (s : State) : Out := readCount die (cacheOffset die 0xB0) (fun d => { d with mdmiss := 0 }) s
def execMdueRead (die : Nat) (s : State) : Out := readCount die (cacheOffset die 0xB8) (fun d => { d with mdue := 0 }) s
def execMdleakRead (die : Nat) (s : State) : Out := readCount die (cacheOffset die 0xC0) (fun d => { d with mdleak := 0 }) s

/-- FQSTAT_READ: WAITS is cleared. -/
def execFqstatRead (vi : Nat) (s : State) : Out :=
  .next (inWindow vi (fun s => (returned (s.reg (.vi vi) 0x1028) s).updRing vi fun r => { r with waits := 0 }) s)

/-- OWNCMD_READ: OVERRUN is cleared. -/
def execOwncmdRead (s : State) : Out :=
  .next (inManagement (fun s => (returned (s.reg .pf 0x208) s).updMgmt fun m => { m with ownOverrun := false }) s)

/-! ## REGISTER_WRITE -/

/-- The next state of a meaning. -/
def nextOf (s : State) : Out → State
  | .next t => t
  | _ => s

/-- A write-one-to-clear bit. -/
def w1c (old : Bool) (v : DWord) (b : Nat) : Bool := old && !v.getLsbD b

/-- An address field: bits 51 down to `lo`. -/
def baseField (v : DWord) (lo : Nat) : DWord := BitVec.ofNat 64 (v.toNat % 2 ^ 52 / 2 ^ lo * 2 ^ lo)

/-- The attestation block written. -/
def attWrite (who : RingId) (o : Nat) (v : DWord) (s : State) : State :=
  if o < 0x20 then s.updAttest who fun a => { a with nonce := a.nonce.set (o / 8) v }
  else match o with
    | 0x20 => s.updAttest who fun a => { a with buf := v }
    | 0x28 => requestReport who v s
    | 0x30 => s.updAttest who fun a => { a with overrun := w1c a.overrun v 1 }
    | _ => s

/-- A queue's block written (03 R59, R60, R63). -/
def queueWrite (vi q o : Nat) (v : DWord) (s : State) : State :=
  let Q := s.queue vi q
  let idle := !Q.en && Q.inflight.isEmpty
  match o with
  | 0x000 =>
    let s := setQueueTickets vi q (bitsAt v.toNat 16 16) s
    let s := s.updQueue vi q fun Q => { Q with tailerr := w1c Q.tailerr v 3 }
    if v.getLsbD 0 then enableQueue vi q s else disableQueue vi q s
  | 0x008 => if idle then s.updQueue vi q fun Q => { Q with qhead := v, headN := Q.qdone + 1 } else s
  | 0x010 => writeTail vi q v s
  | 0x018 => if idle then s.updQueue vi q fun Q => { Q with doneAddr := BitVec.ofNat 64 (v.toNat / 8 * 8) } else s
  | 0x028 => if idle then s.updQueue vi q fun Q => { Q with ctx := v.toNat % 256 } else s
  | 0x030 => s.updQueue vi q fun Q => { Q with est := v }
  | _ => s

/-- CTXCMD: 1 creates, 2 destroys the context of bits 15:8 (03 R56). -/
def contextWrite (vi : Nat) (v : DWord) (s : State) : State :=
  match v.toNat % 256 with
  | 1 => nextOf s (execCtxcmdCreate vi s)
  | 2 => nextOf s (execCtxcmdDestroy vi (bitsAt v.toNat 8 8) s)
  | _ => contextNone vi s

/-- FQREPLAY (03 R67). -/
def replayWrite (vi : Nat) (v : DWord) (s : State) : State :=
  match v.toNat % 4 with
  | 0 => answerBatch vi (v.toNat / 2 ^ 32) true s
  | 1 => answerBatch vi (v.toNat / 2 ^ 32) false s
  | _ => badReplay vi s

/-- CBCMD (08 R193). -/
def compressedWrite (vi : Nat) (v : DWord) (s : State) : State :=
  let i := v.toNat / 2 ^ 32
  match v.toNat % 4 with
  | 1 => compressedCommand vi (convertFrame vi i) s
  | 2 => compressedCommand vi (releaseFrame vi i) s
  | 3 => compressedCommand vi (grantFrame vi i) s
  | _ => noCommand vi s

/-- DBGCMD (11 R265). -/
def debugWrite (vi : Nat) (v : DWord) (s : State) : State :=
  match v.toNat with
  | 1 => nextOf s (execDbgcmdHalt vi s)
  | 2 => nextOf s (execDbgcmdRun vi s)
  | 3 => nextOf s (execDbgcmdStep vi s)
  | 4 => nextOf s (execDbgcmdStepGroup vi s)
  | 5 => nextOf s (execDbgcmdDump vi s)
  | _ => s

/-- A register of an interface's window written. -/
def viWrite (vi o : Nat) (v : DWord) (s : State) : State :=
  let set (f : Vi → Vi) : State := s.updVi vi f
  if 0x10000 ≤ o ∧ o < 0x20000 then queueWrite vi ((o - 0x10000) / 0x400) (o % 0x400) v s
  else if 0x3000 ≤ o ∧ o < 0x3038 ∧ o % 8 = 0 then attWrite (.vi vi) (o - 0x3000) v s
  else match o with
    | 0x00000 => set fun x => { x with therm := w1c x.therm v 1 }
    | 0x01000 => writeBase vi v s
    | 0x01008 => writeSize vi v s
    | 0x01010 => writeHead vi v s
    | 0x01020 => replayWrite vi v s
    | 0x01028 => s.updRing vi fun r => { r with badcmd := w1c r.badcmd v 0 }
    | 0x20000 => set fun x => { x with ctxdesc := v }
    | 0x20008 => contextWrite vi v s
    | 0x20010 => set fun x => { x with ctxOverrun := w1c x.ctxOverrun v 1 }
    | 0x20100 => set fun x => { x with pltbase := BitVec.ofNat 64 (v.toNat / 16 * 16) }
    | 0x20108 => set fun x => { x with pltsize := min (2 ^ 24) v.toNat }
    | 0x20110 => writeStat vi v s
    | 0x20120 => set fun x => { x with cbframe := v }
    | 0x20128 => compressedWrite vi v s
    | 0x20130 => set fun x => { x with cbOverrun := w1c x.cbOverrun v 1 }
    | 0x20138 => set fun x => { x with cptbase := BitVec.ofNat 64 (v.toNat / 16 * 16) }
    | 0x20140 => set fun x => { x with cptsize := min (2 ^ 27) v.toNat }
    | 0x20200 => set fun x => { x with dbgsel := v }  -- all 64 bits, those that 11 R265 does not name included (log 107)
    | 0x20208 => debugWrite vi v s
    | 0x20218 => set fun x => { x with dbgbuf := v }
    | _ => s

/-- A dword of an export entry written: bases and sizes are multiples of 4 KiB. -/
def exportWrite (k o : Nat) (v : DWord) (m : Mgmt) : Mgmt :=
  let (base, size, who, rights) := m.exports.getD k (0, 0, 0, 0)
  let page (v : DWord) : Nat := v.toNat / 4096 * 4096
  match o with
  | 0 => { m with exports := m.exports.set k (page v, size, who, rights) }
  | 8 => { m with exports := m.exports.set k (base, page v, who, rights) }
  | 16 => { m with exports := m.exports.set k (base, size, v.toNat % 65536, bitsAt v.toNat 16 3) }
  | _ => m

/-- Interface i's configuration block written. -/
def configWrite (i o : Nat) (v : DWord) (s : State) : State :=
  if o = 0x00 then (if v.getLsbD 0 then enableVi i s else disableVi i s)
  else if o = 0x08 then setViTickets i v s
  else if 0x40 ≤ o ∧ o < 0xC0 ∧ o % 8 = 0 then writeRange i ((o - 0x40) / 16) (o % 16 = 8) v s
  else s

/-- A register of the management window written. -/
def pfWrite (o : Nat) (v : DWord) (s : State) : State :=
  let set (f : Mgmt → Mgmt) : State := s.updMgmt f
  if 0x140 ≤ o ∧ o < 0x178 ∧ o % 8 = 0 then attWrite .pf (o - 0x140) v s
  else if 0x4000 ≤ o ∧ o < 0x5000 ∧ o % 4 = 0 then
    set fun m => { m with route := m.route.set ((o - 0x4000) / 4) (v.setWidth 12) }
  else if 0x5000 ≤ o ∧ o < 0x7000 ∧ o % 8 = 0 then set (exportWrite ((o - 0x5000) / 32) (o % 32) v)
  else if 0x8000 ≤ o ∧ o < 0x10000 then configWrite ((o - 0x8000) / 0x100) (o % 0x100) v s
  else match o with
    | 0x100 => writeErrorWindow v s
    | 0x108 => writeBudget v s
    | 0x110 => set fun m => { m with hostbase := baseField v 12 }
    | 0x118 => set fun m => { m with peerid := v.toNat % 1024 }
    | 0x120 => set fun m => { m with fwstage := baseField v 16 }
    | 0x128 => startUpdate v s
    | 0x130 => set fun m => { m with fwOverrun := w1c m.fwOverrun v 1 }
    | 0x180 => nextOf s (execLinkctlRetrain (v.setWidth 12) s)
    | 0x200 => set fun m => if m.ownBusy then { m with ownOverrun := true } else { m with ownset := v.toNat % 2 ^ 40 }
    | 0x208 => writeOwners v s
    | 0x300 => set fun m => { m with heatbase := baseField v 12 }
    | 0x308 => writeHeat v s
    | 0x318 => nextOf s (execTlbpinwaitWrite v s)
    | 0x320 => nextOf s (execPreemptdlWrite v s)
    | 0x500 => set fun m => { m with mdbaseh := baseField v 12 ||| (v &&& 1) }
    | 0x508 => set fun m => { m with mdbasel := baseField v 12 ||| (v &&& 1) }
    | 0x600 => setPriv v s
    | 0x700 => set fun m => { m with peeren0 := v }
    | 0x708 => set fun m => { m with peeren1 := v }
    | _ => s

/-- The mailbox written (01 R27). -/
def recoveryWrite (o : Nat) (v : DWord) (s : State) : State :=
  match o with
  | 0x000 => s.updMgmt fun m => { m with recaddr := v }
  | 0x008 => s.updMgmt fun m => { m with reclen := v }
  | 0x010 => startRecovery v s
  | _ => s

/-- REGISTER_WRITE. -/
def execRegisterWrite (win : RingId) (offset : Nat) (value : DWord) (s : State) : Out :=
  .next (match win with
    | .pf => if !s.pfPresent then s else if s.recovery then recoveryWrite offset value s else pfWrite offset value s
    | .vi n => inWindow n (viWrite n offset value) s)

end Sys2Proof.Machine
end

