-- ==== Sys2Proof/Machine/Vector.lean ====
section
/-!
DEFINITION. Vector configuration, strips and compute (spec/15_vector_compute.md R337 to R349).
-/
namespace Sys2Proof.Machine

/-! ## Configuration and strips (R337 to R340) -/

/-- VCFG (15 R337): every vector register takes a free value (log 5). -/
def execVcfg (n : BitVec 3) (s : State) : Out :=
  issue { word := (Instr.vcfg n).encodeNat, typeOk := decide (n.toNat ≤ 5), closes := true } (fun s =>
    let s := s.updMe fun q =>
      { q with p := Vector.replicate 8 0, full := { q.full with p := BitVec.allOnes 8 }
               c := { q.c with nvlog := n.toNat, vl := 0, vstart := 0 } }
    .ok .next (undefineV s.cur s)) s

/-- The grant of SETVL (15 R338): cut after three faulting runs (11 R253). -/
def grantVl (q : Seq) (count w : Nat) : Nat :=
  let mx := ({ q.c with sew := w } : CRegs).maxvl
  let lim := if q.n.sfault = 3 then match q.cut with | some v => min mx (max 32 (v / 2)) | none => mx else mx
  min count lim

/-- SetVL of R338, the strip being closed: a pre-emption point (05 R119), then the grant, the checkpoint and the strip; the
first ownership-mode run takes its age (07 R164). -/
def setVl (d count w : Nat) (s : State) : Res Flow :=
  let q := s.me
  if q.preempt.isSome then .wait (s.post (.contextSave s.cur))
  else
    let ck : Ckpt := { pc := q.pc, g := q.g, gfull := q.full.g, p := q.p, pfull := q.full.p, loops := q.loops, c := q.c }
    let vl := grantVl q count w
    let own := decide (2 ≤ q.fails)
    (writeG d (BitVec.ofNat 64 vl) s).andThen fun _ s =>
      .ok .next (s.updMe fun q =>
        { q with c := { q.c with sew := w, vl := vl, vstart := 0 }
                 age := if own ∧ 0 < vl then some (q.age.getD s.cycle) else q.age
                 strip := if 0 < vl then some { ckpt := ck, ownMode := own, granted := vl } else none })

/-- SETVL (15 R338). -/
def execSetvl (d a : BitVec 5) (e : BitVec 1) (w : BitVec 2) (s : State) : Out :=
  issue (ops2 (encRI 0x71 d.toNat a.toNat e.toNat w.toNat) (gr d) (gr a) e true).closing
    (fun s => setVl d.toNat (s.me.gRead a.toNat).toNat w.toNat s) s

/-- SETVLI (15 R338). -/
def execSetvli (d : BitVec 5) (n : BitVec 17) (w : BitVec 2) (s : State) : Out :=
  issue (opsD (encWI 0xF9 d.toNat (4 * n.toNat + w.toNat)) (gr d)).closing
    (fun s => setVl d.toNat n.toNat w.toNat s) s

/-- STREND (15 R339). -/
def execStrend (s : State) : Out :=
  issue { word := 0xFA000000, closes := true } (fun s => .ok .next s) s

/-- STRABT (15 R340): what the strip buffered is discarded, unwritten ownership is given up, and the destinations of the
relaxed arrivals it held keep their present values and are full again (log 29). -/
def execStrabt (s : State) : Out :=
  issue { word := 0xFB000000 } (fun s =>
    match s.me.strip with
    | none => .ok .next s
    | some st =>
      let k := s.cur
      let s := releaseUnwritten k s.me.holds s
      let s := s.updMe fun q => st.rlx.foldl (fun q r => q.setFull (.g r.dest) true)
        { q with strip := none, commit := none, forced := false, pins := [], named := [] }
      .ok .next (letGo k (unpinned k s))) s

/-! ## Integer arithmetic (R341) -/

/-- VADD (15 R341). -/
def execVadd (d a b : BitVec 5) (e f : BitVec 1) (t : BitVec 4) (v : BitVec 3) (s : State) : Out :=
  let w := (Instr.vadd d a b e f t v).encodeNat
  let vs := v.getLsbD 2
  issue { word := w, regs := [vr d, vr a, vsReg vs b], typeOk := (isInt t.toNat), dests := [vr d]
          sources := [(vr a, eb e), (vsReg vs b, eb f)] ++ s.me.maskSrc }
    (vecElems w [typeBits t.toNat] true false d.toNat (typeBits t.toNat) fun q i =>
      let n := typeBits t.toNat
      arith (fun x y => x + y) t.toNat (v.getLsbD 0) (q.elem a.toNat n i) (q.elemB vs b.toNat n i)) s

/-- VSUB (15 R341). -/
def execVsub (d a b : BitVec 5) (e f : BitVec 1) (t : BitVec 4) (v : BitVec 3) (s : State) : Out :=
  let w := (Instr.vsub d a b e f t v).encodeNat
  let vs := v.getLsbD 2
  issue { word := w, regs := [vr d, vr a, vsReg vs b], typeOk := (isInt t.toNat), dests := [vr d]
          sources := [(vr a, eb e), (vsReg vs b, eb f)] ++ s.me.maskSrc }
    (vecElems w [typeBits t.toNat] true false d.toNat (typeBits t.toNat) fun q i =>
      let n := typeBits t.toNat
      arith (fun x y => x - y) t.toNat (v.getLsbD 0) (q.elem a.toNat n i) (q.elemB vs b.toNat n i)) s

/-- VMUL (15 R341). -/
def execVmul (d a b : BitVec 5) (e f : BitVec 1) (t : BitVec 4) (v : BitVec 3) (s : State) : Out :=
  let w := (Instr.vmul d a b e f t v).encodeNat
  let vs := v.getLsbD 2
  issue { word := w, regs := [vr d, vr a, vsReg vs b], typeOk := (isInt t.toNat), dests := [vr d]
          sources := [(vr a, eb e), (vsReg vs b, eb f)] ++ s.me.maskSrc }
    (vecElems w [typeBits t.toNat] true false d.toNat (typeBits t.toNat) fun q i =>
      let n := typeBits t.toNat
      arith (fun x y => x * y) t.toNat (v.getLsbD 0) (q.elem a.toNat n i) (q.elemB vs b.toNat n i)) s

/-- VMULH (15 R341). -/
def execVmulh (d a b : BitVec 5) (e f : BitVec 1) (t : BitVec 4) (v : BitVec 3) (s : State) : Out :=
  let w := (Instr.vmulh d a b e f t v).encodeNat
  let vs := v.getLsbD 2
  issue { word := w, regs := [vr d, vr a, vsReg vs b], typeOk := (isInt t.toNat), dests := [vr d]
          sources := [(vr a, eb e), (vsReg vs b, eb f)] ++ s.me.maskSrc }
    (vecElems w [typeBits t.toNat] true false d.toNat (typeBits t.toNat) fun q i =>
      let n := typeBits t.toNat
      mulHigh t.toNat (q.elem a.toNat n i) (q.elemB vs b.toNat n i)) s

/-- VDIV (15 R341). -/
def execVdiv (d a b : BitVec 5) (e f : BitVec 1) (t : BitVec 4) (v : BitVec 3) (s : State) : Out :=
  let w := (Instr.vdiv d a b e f t v).encodeNat
  let vs := v.getLsbD 2
  issue { word := w, regs := [vr d, vr a, vsReg vs b], typeOk := (isInt t.toNat), dests := [vr d]
          sources := [(vr a, eb e), (vsReg vs b, eb f)] ++ s.me.maskSrc }
    (vecElems w [typeBits t.toNat] true true d.toNat (typeBits t.toNat) fun q i =>
      let n := typeBits t.toNat
      intDiv t.toNat (q.elem a.toNat n i) (q.elemB vs b.toNat n i)) s

/-- VREM (15 R341). -/
def execVrem (d a b : BitVec 5) (e f : BitVec 1) (t : BitVec 4) (v : BitVec 3) (s : State) : Out :=
  let w := (Instr.vrem d a b e f t v).encodeNat
  let vs := v.getLsbD 2
  issue { word := w, regs := [vr d, vr a, vsReg vs b], typeOk := (isInt t.toNat), dests := [vr d]
          sources := [(vr a, eb e), (vsReg vs b, eb f)] ++ s.me.maskSrc }
    (vecElems w [typeBits t.toNat] true true d.toNat (typeBits t.toNat) fun q i =>
      let n := typeBits t.toNat
      intRem t.toNat (q.elem a.toNat n i) (q.elemB vs b.toNat n i)) s

/-- VMIN (15 R341). -/
def execVmin (d a b : BitVec 5) (e f : BitVec 1) (t : BitVec 4) (v : BitVec 3) (s : State) : Out :=
  let w := (Instr.vmin d a b e f t v).encodeNat
  let vs := v.getLsbD 2
  issue { word := w, regs := [vr d, vr a, vsReg vs b], typeOk := (isInt t.toNat), dests := [vr d]
          sources := [(vr a, eb e), (vsReg vs b, eb f)] ++ s.me.maskSrc }
    (vecElems w [typeBits t.toNat] true false d.toNat (typeBits t.toNat) fun q i =>
      let n := typeBits t.toNat
      pick t.toNat false (q.elem a.toNat n i) (q.elemB vs b.toNat n i)) s

/-- VMAX (15 R341). -/
def execVmax (d a b : BitVec 5) (e f : BitVec 1) (t : BitVec 4) (v : BitVec 3) (s : State) : Out :=
  let w := (Instr.vmax d a b e f t v).encodeNat
  let vs := v.getLsbD 2
  issue { word := w, regs := [vr d, vr a, vsReg vs b], typeOk := (isInt t.toNat), dests := [vr d]
          sources := [(vr a, eb e), (vsReg vs b, eb f)] ++ s.me.maskSrc }
    (vecElems w [typeBits t.toNat] true false d.toNat (typeBits t.toNat) fun q i =>
      let n := typeBits t.toNat
      pick t.toNat true (q.elem a.toNat n i) (q.elemB vs b.toNat n i)) s

/-- VAND (15 R341). -/
def execVand (d a b : BitVec 5) (e f : BitVec 1) (t : BitVec 4) (v : BitVec 3) (s : State) : Out :=
  let w := (Instr.vand d a b e f t v).encodeNat
  let vs := v.getLsbD 2
  issue { word := w, regs := [vr d, vr a, vsReg vs b], typeOk := (decide (t.toNat ≤ 14)), dests := [vr d]
          sources := [(vr a, eb e), (vsReg vs b, eb f)] ++ s.me.maskSrc }
    (vecElems w [typeBits t.toNat] true false d.toNat (typeBits t.toNat) fun q i =>
      let n := typeBits t.toNat
      ((q.elem a.toNat n i) &&& (q.elemB vs b.toNat n i), 0)) s

/-- VOR (15 R341). -/
def execVor (d a b : BitVec 5) (e f : BitVec 1) (t : BitVec 4) (v : BitVec 3) (s : State) : Out :=
  let w := (Instr.vor d a b e f t v).encodeNat
  let vs := v.getLsbD 2
  issue { word := w, regs := [vr d, vr a, vsReg vs b], typeOk := (decide (t.toNat ≤ 14)), dests := [vr d]
          sources := [(vr a, eb e), (vsReg vs b, eb f)] ++ s.me.maskSrc }
    (vecElems w [typeBits t.toNat] true false d.toNat (typeBits t.toNat) fun q i =>
      let n := typeBits t.toNat
      ((q.elem a.toNat n i) ||| (q.elemB vs b.toNat n i), 0)) s

/-- VXOR (15 R341). -/
def execVxor (d a b : BitVec 5) (e f : BitVec 1) (t : BitVec 4) (v : BitVec 3) (s : State) : Out :=
  let w := (Instr.vxor d a b e f t v).encodeNat
  let vs := v.getLsbD 2
  issue { word := w, regs := [vr d, vr a, vsReg vs b], typeOk := (decide (t.toNat ≤ 14)), dests := [vr d]
          sources := [(vr a, eb e), (vsReg vs b, eb f)] ++ s.me.maskSrc }
    (vecElems w [typeBits t.toNat] true false d.toNat (typeBits t.toNat) fun q i =>
      let n := typeBits t.toNat
      ((q.elem a.toNat n i) ^^^ (q.elemB vs b.toNat n i), 0)) s

/-- VSHL (15 R341). -/
def execVshl (d a b : BitVec 5) (e f : BitVec 1) (t : BitVec 4) (v : BitVec 3) (s : State) : Out :=
  let w := (Instr.vshl d a b e f t v).encodeNat
  let vs := v.getLsbD 2
  issue { word := w, regs := [vr d, vr a, vsReg vs b], typeOk := (isInt t.toNat), dests := [vr d]
          sources := [(vr a, eb e), (vsReg vs b, eb f)] ++ s.me.maskSrc }
    (vecElems w [typeBits t.toNat] true false d.toNat (typeBits t.toNat) fun q i =>
      let n := typeBits t.toNat
      shiftLeft t.toNat (q.elem a.toNat n i) (q.elemB vs b.toNat n i)) s

/-- VSHR (15 R341). -/
def execVshr (d a b : BitVec 5) (e f : BitVec 1) (t : BitVec 4) (v : BitVec 3) (s : State) : Out :=
  let w := (Instr.vshr d a b e f t v).encodeNat
  let vs := v.getLsbD 2
  issue { word := w, regs := [vr d, vr a, vsReg vs b], typeOk := (isInt t.toNat), dests := [vr d]
          sources := [(vr a, eb e), (vsReg vs b, eb f)] ++ s.me.maskSrc }
    (vecElems w [typeBits t.toNat] true false d.toNat (typeBits t.toNat) fun q i =>
      let n := typeBits t.toNat
      shiftRight t.toNat (q.elem a.toNat n i) (q.elemB vs b.toNat n i)) s

/-- VROT (15 R341). -/
def execVrot (d a b : BitVec 5) (e f : BitVec 1) (t : BitVec 4) (v : BitVec 3) (s : State) : Out :=
  let w := (Instr.vrot d a b e f t v).encodeNat
  let vs := v.getLsbD 2
  issue { word := w, regs := [vr d, vr a, vsReg vs b], typeOk := (isInt t.toNat), dests := [vr d]
          sources := [(vr a, eb e), (vsReg vs b, eb f)] ++ s.me.maskSrc }
    (vecElems w [typeBits t.toNat] true false d.toNat (typeBits t.toNat) fun q i =>
      let n := typeBits t.toNat
      rotate t.toNat (v.getLsbD 0) (q.elem a.toNat n i) (q.elemB vs b.toNat n i)) s

/-! ## Floating-point arithmetic (R342, R343) -/

/-- VFADD (15 R342). -/
def execVfadd (d a b : BitVec 5) (e f : BitVec 1) (t : BitVec 4) (v : BitVec 3) (s : State) : Out :=
  let w := (Instr.vfadd d a b e f t v).encodeNat
  let vs := v.getLsbD 2
  issue { word := w, regs := [vr d, vr a, vsReg vs b], typeOk := (isScalarFloat t.toNat), dests := [vr d]
          sources := [(vr a, eb e), (vsReg vs b, eb f)] ++ s.me.maskSrc }
    (vecElems w [typeBits t.toNat] true false d.toNat (typeBits t.toNat) fun q i =>
      let n := typeBits t.toNat
      fAdd t.toNat (q.round q.c.rm i) (q.elem a.toNat n i) (q.elemB vs b.toNat n i)) s

/-- VFSUB (15 R342). -/
def execVfsub (d a b : BitVec 5) (e f : BitVec 1) (t : BitVec 4) (v : BitVec 3) (s : State) : Out :=
  let w := (Instr.vfsub d a b e f t v).encodeNat
  let vs := v.getLsbD 2
  issue { word := w, regs := [vr d, vr a, vsReg vs b], typeOk := (isScalarFloat t.toNat), dests := [vr d]
          sources := [(vr a, eb e), (vsReg vs b, eb f)] ++ s.me.maskSrc }
    (vecElems w [typeBits t.toNat] true false d.toNat (typeBits t.toNat) fun q i =>
      let n := typeBits t.toNat
      fSub t.toNat (q.round q.c.rm i) (q.elem a.toNat n i) (q.elemB vs b.toNat n i)) s

/-- VFMUL (15 R342). -/
def execVfmul (d a b : BitVec 5) (e f : BitVec 1) (t : BitVec 4) (v : BitVec 3) (s : State) : Out :=
  let w := (Instr.vfmul d a b e f t v).encodeNat
  let vs := v.getLsbD 2
  issue { word := w, regs := [vr d, vr a, vsReg vs b], typeOk := (isScalarFloat t.toNat), dests := [vr d]
          sources := [(vr a, eb e), (vsReg vs b, eb f)] ++ s.me.maskSrc }
    (vecElems w [typeBits t.toNat] true false d.toNat (typeBits t.toNat) fun q i =>
      let n := typeBits t.toNat
      fMul t.toNat (q.round q.c.rm i) (q.elem a.toNat n i) (q.elemB vs b.toNat n i)) s

/-- VFDIV (15 R342). -/
def execVfdiv (d a b : BitVec 5) (e f : BitVec 1) (t : BitVec 4) (v : BitVec 3) (s : State) : Out :=
  let w := (Instr.vfdiv d a b e f t v).encodeNat
  let vs := v.getLsbD 2
  issue { word := w, regs := [vr d, vr a, vsReg vs b], typeOk := (isScalarFloat t.toNat), dests := [vr d]
          sources := [(vr a, eb e), (vsReg vs b, eb f)] ++ s.me.maskSrc }
    (vecElems w [typeBits t.toNat] true true d.toNat (typeBits t.toNat) fun q i =>
      let n := typeBits t.toNat
      fDiv t.toNat (q.round q.c.rm i) (q.elem a.toNat n i) (q.elemB vs b.toNat n i)) s

/-- VFMIN (15 R342). -/
def execVfmin (d a b : BitVec 5) (e f : BitVec 1) (t : BitVec 4) (v : BitVec 3) (s : State) : Out :=
  let w := (Instr.vfmin d a b e f t v).encodeNat
  let vs := v.getLsbD 2
  issue { word := w, regs := [vr d, vr a, vsReg vs b], typeOk := (isScalarFloat t.toNat), dests := [vr d]
          sources := [(vr a, eb e), (vsReg vs b, eb f)] ++ s.me.maskSrc }
    (vecElems w [typeBits t.toNat] true false d.toNat (typeBits t.toNat) fun q i =>
      let n := typeBits t.toNat
      fMinMax t.toNat false (v.getLsbD 0) (q.elem a.toNat n i) (q.elemB vs b.toNat n i)) s

/-- VFMAX (15 R342). -/
def execVfmax (d a b : BitVec 5) (e f : BitVec 1) (t : BitVec 4) (v : BitVec 3) (s : State) : Out :=
  let w := (Instr.vfmax d a b e f t v).encodeNat
  let vs := v.getLsbD 2
  issue { word := w, regs := [vr d, vr a, vsReg vs b], typeOk := (isScalarFloat t.toNat), dests := [vr d]
          sources := [(vr a, eb e), (vsReg vs b, eb f)] ++ s.me.maskSrc }
    (vecElems w [typeBits t.toNat] true false d.toNat (typeBits t.toNat) fun q i =>
      let n := typeBits t.toNat
      fMinMax t.toNat true (v.getLsbD 0) (q.elem a.toNat n i) (q.elemB vs b.toNat n i)) s

/-- VFSQRT (15 R342). -/
def execVfsqrt (d a : BitVec 5) (e : BitVec 1) (t : BitVec 4) (s : State) : Out :=
  let w := (Instr.vfsqrt d a e t).encodeNat
  issue { word := w, regs := [vr d, vr a], typeOk := (isScalarFloat t.toNat), dests := [vr d], sources := [(vr a, eb e)] ++ s.me.maskSrc }
    (vecElems w [typeBits t.toNat] true true d.toNat (typeBits t.toNat) fun q i =>
      fSqrt t.toNat (q.round q.c.rm i) (q.elem a.toNat (typeBits t.toNat) i)) s

/-- VFEXP2 (15 R342). -/
def execVfexp2 (d a : BitVec 5) (e : BitVec 1) (t : BitVec 4) (s : State) : Out :=
  let w := (Instr.vfexp2 d a e t).encodeNat
  issue { word := w, regs := [vr d, vr a], typeOk := (isScalarFloat t.toNat), dests := [vr d], sources := [(vr a, eb e)] ++ s.me.maskSrc }
    (vecElems w [typeBits t.toNat] true true d.toNat (typeBits t.toNat) fun q i =>
      fExp2 t.toNat (q.round q.c.rm i) (q.elem a.toNat (typeBits t.toNat) i)) s

/-- VFLOG2 (15 R342). -/
def execVflog2 (d a : BitVec 5) (e : BitVec 1) (t : BitVec 4) (s : State) : Out :=
  let w := (Instr.vflog2 d a e t).encodeNat
  issue { word := w, regs := [vr d, vr a], typeOk := (isScalarFloat t.toNat), dests := [vr d], sources := [(vr a, eb e)] ++ s.me.maskSrc }
    (vecElems w [typeBits t.toNat] true true d.toNat (typeBits t.toNat) fun q i =>
      fLog2 t.toNat (q.round q.c.rm i) (q.elem a.toNat (typeBits t.toNat) i)) s

/-- VFRCP (15 R342). -/
def execVfrcp (d a : BitVec 5) (e : BitVec 1) (t : BitVec 4) (s : State) : Out :=
  let w := (Instr.vfrcp d a e t).encodeNat
  issue { word := w, regs := [vr d, vr a], typeOk := (isScalarFloat t.toNat), dests := [vr d], sources := [(vr a, eb e)] ++ s.me.maskSrc }
    (vecElems w [typeBits t.toNat] true true d.toNat (typeBits t.toNat) fun q i =>
      fRcp t.toNat (q.round q.c.rm i) (q.elem a.toNat (typeBits t.toNat) i)) s

/-- VFRSQ (15 R342). -/
def execVfrsq (d a : BitVec 5) (e : BitVec 1) (t : BitVec 4) (s : State) : Out :=
  let w := (Instr.vfrsq d a e t).encodeNat
  issue { word := w, regs := [vr d, vr a], typeOk := (isScalarFloat t.toNat), dests := [vr d], sources := [(vr a, eb e)] ++ s.me.maskSrc }
    (vecElems w [typeBits t.toNat] true true d.toNat (typeBits t.toNat) fun q i =>
      fRsq t.toNat (q.round q.c.rm i) (q.elem a.toNat (typeBits t.toNat) i)) s

/-- VFTANH (15 R342). -/
def execVftanh (d a : BitVec 5) (e : BitVec 1) (t : BitVec 4) (s : State) : Out :=
  let w := (Instr.vftanh d a e t).encodeNat
  issue { word := w, regs := [vr d, vr a], typeOk := (isScalarFloat t.toNat), dests := [vr d], sources := [(vr a, eb e)] ++ s.me.maskSrc }
    (vecElems w [typeBits t.toNat] true true d.toNat (typeBits t.toNat) fun q i =>
      fTanh t.toNat (q.round q.c.rm i) (q.elem a.toNat (typeBits t.toNat) i)) s

/-- VABS (15 R342). -/
def execVabs (d a : BitVec 5) (e : BitVec 1) (t : BitVec 4) (v : BitVec 3) (s : State) : Out :=
  let w := (Instr.vabs d a e t v).encodeNat
  issue { word := w, regs := [vr d, vr a], typeOk := ((isSigned t.toNat) || (v = 0 && decide (8 ≤ t.toNat) && decide (t.toNat ≤ 14))), dests := [vr d], sources := [(vr a, eb e)] ++ s.me.maskSrc }
    (vecElems w [typeBits t.toNat] true false d.toNat (typeBits t.toNat) fun q i =>
      let x := q.elem a.toNat (typeBits t.toNat) i
      if isInt t.toNat then intResult t.toNat (v = 1) ((intVal t.toNat x).natAbs : Int) else (x % signBit t.toNat, 0)) s

/-- VNEG (15 R342). -/
def execVneg (d a : BitVec 5) (e : BitVec 1) (t : BitVec 4) (v : BitVec 3) (s : State) : Out :=
  let w := (Instr.vneg d a e t v).encodeNat
  issue { word := w, regs := [vr d, vr a], typeOk := ((isSigned t.toNat) || (v = 0 && decide (8 ≤ t.toNat) && decide (t.toNat ≤ 14))), dests := [vr d], sources := [(vr a, eb e)] ++ s.me.maskSrc }
    (vecElems w [typeBits t.toNat] true false d.toNat (typeBits t.toNat) fun q i =>
      let x := q.elem a.toNat (typeBits t.toNat) i
      if isInt t.toNat then intResult t.toNat (v = 1) (-(intVal t.toNat x)) else (x ^^^ signBit t.toNat, 0)) s

/-- VFMA (15 R343): the four types are those of ftype 0 to 3 (13 R294). -/
def execVfma (d a b c : BitVec 5) (e : BitVec 1) (t : BitVec 3) (s : State) : Out :=
  let w := (Instr.vfma d a b c e t).encodeNat
  let ty := 11 + t.toNat
  issue { word := w, regs := [vr d, vr a, vr b, vr c], typeOk := decide (t.toNat ≤ 3), dests := [vr d]
          sources := [(vr a, eb e), (vr b, eb e), (vr c, eb e)] ++ s.me.maskSrc }
    (vecElems w [typeBits ty] true false d.toNat (typeBits ty) fun q i =>
      let n := typeBits ty
      fFma ty (q.round q.c.rm i) false (q.elem a.toNat n i) (q.elem b.toNat n i) (q.elem c.toNat n i)) s

/-- VFNMA (15 R343): the four types are those of ftype 0 to 3 (13 R294). -/
def execVfnma (d a b c : BitVec 5) (e : BitVec 1) (t : BitVec 3) (s : State) : Out :=
  let w := (Instr.vfnma d a b c e t).encodeNat
  let ty := 11 + t.toNat
  issue { word := w, regs := [vr d, vr a, vr b, vr c], typeOk := decide (t.toNat ≤ 3), dests := [vr d]
          sources := [(vr a, eb e), (vr b, eb e), (vr c, eb e)] ++ s.me.maskSrc }
    (vecElems w [typeBits ty] true false d.toNat (typeBits ty) fun q i =>
      let n := typeBits ty
      fFma ty (q.round q.c.rm i) true (q.elem a.toNat n i) (q.elem b.toNat n i) (q.elem c.toNat n i)) s

/-! ## Compares and predicates (R344, R345) -/

/-- VCMP (15 R344). -/
def execVcmp (d a b : BitVec 5) (e f : BitVec 1) (t : BitVec 4) (v : BitVec 3) (s : State) : Out :=
  let w := (Instr.vcmp d a b e f t v).encodeNat
  issue { word := w, regs := [pr d, vr a, vr b], typeOk := (isInt t.toNat), dests := [pr d]
          sources := [(vr a, eb e), (vr b, eb f)] ++ s.me.maskSrc }
    (predElems w [typeBits t.toNat] true d.toNat fun q i =>
      let n := typeBits t.toNat
      (relation v.toNat (intVal t.toNat (q.elem a.toNat n i)) (intVal t.toNat (q.elemB false b.toNat n i)), 0)) s

/-- VCMPS (15 R344). -/
def execVcmps (d a b : BitVec 5) (e f : BitVec 1) (t : BitVec 4) (v : BitVec 3) (s : State) : Out :=
  let w := (Instr.vcmps d a b e f t v).encodeNat
  issue { word := w, regs := [pr d, vr a, gr b], typeOk := (isInt t.toNat), dests := [pr d]
          sources := [(vr a, eb e), (gr b, eb f)] ++ s.me.maskSrc }
    (predElems w [typeBits t.toNat] true d.toNat fun q i =>
      let n := typeBits t.toNat
      (relation v.toNat (intVal t.toNat (q.elem a.toNat n i)) (intVal t.toNat (q.elemB true b.toNat n i)), 0)) s

/-- VFCMP (15 R344). -/
def execVfcmp (d a b : BitVec 5) (e f : BitVec 1) (t : BitVec 4) (v : BitVec 3) (s : State) : Out :=
  let w := (Instr.vfcmp d a b e f t v).encodeNat
  issue { word := w, regs := [pr d, vr a, vr b], typeOk := (decide (8 ≤ t.toNat) && decide (t.toNat ≤ 14)), dests := [pr d]
          sources := [(vr a, eb e), (vr b, eb f)] ++ s.me.maskSrc }
    (predElems w [typeBits t.toNat] true d.toNat fun q i =>
      let n := typeBits t.toNat
      fCompare t.toNat v.toNat (q.elem a.toNat n i) (q.elemB false b.toNat n i)) s

/-- VFCMPS (15 R344). -/
def execVfcmps (d a b : BitVec 5) (e f : BitVec 1) (t : BitVec 4) (v : BitVec 3) (s : State) : Out :=
  let w := (Instr.vfcmps d a b e f t v).encodeNat
  issue { word := w, regs := [pr d, vr a, gr b], typeOk := (decide (8 ≤ t.toNat) && decide (t.toNat ≤ 14)), dests := [pr d]
          sources := [(vr a, eb e), (gr b, eb f)] ++ s.me.maskSrc }
    (predElems w [typeBits t.toNat] true d.toNat fun q i =>
      let n := typeBits t.toNat
      fCompare t.toNat v.toNat (q.elem a.toNat n i) (q.elemB true b.toNat n i)) s

/-- PAND (15 R345). -/
def execPand (d a b : BitVec 5) (e f : BitVec 1) (s : State) : Out :=
  let w := (Instr.pand d a b e f).encodeNat
  issue (ops3 w (pr d) (pr a) (pr b) e f true)
    (predElems w [] false d.toNat fun q i =>
      let x := (q.pRead a.toNat).testBit i
      let y := (q.pRead b.toNat).testBit i
      (x && y, 0)) s

/-- POR (15 R345). -/
def execPor (d a b : BitVec 5) (e f : BitVec 1) (s : State) : Out :=
  let w := (Instr.por d a b e f).encodeNat
  issue (ops3 w (pr d) (pr a) (pr b) e f true)
    (predElems w [] false d.toNat fun q i =>
      let x := (q.pRead a.toNat).testBit i
      let y := (q.pRead b.toNat).testBit i
      (x || y, 0)) s

/-- PXOR (15 R345). -/
def execPxor (d a b : BitVec 5) (e f : BitVec 1) (s : State) : Out :=
  let w := (Instr.pxor d a b e f).encodeNat
  issue (ops3 w (pr d) (pr a) (pr b) e f true)
    (predElems w [] false d.toNat fun q i =>
      let x := (q.pRead a.toNat).testBit i
      let y := (q.pRead b.toNat).testBit i
      (x != y, 0)) s

/-- PANDN (15 R345). -/
def execPandn (d a b : BitVec 5) (e f : BitVec 1) (s : State) : Out :=
  let w := (Instr.pandn d a b e f).encodeNat
  issue (ops3 w (pr d) (pr a) (pr b) e f true)
    (predElems w [] false d.toNat fun q i =>
      let x := (q.pRead a.toNat).testBit i
      let y := (q.pRead b.toNat).testBit i
      (x && !y, 0)) s

/-- PNOT (15 R345). -/
def execPnot (d a : BitVec 5) (e : BitVec 1) (s : State) : Out :=
  let w := (Instr.pnot d a e).encodeNat
  issue (ops2 w (pr d) (pr a) e true)
    (predElems w [] false d.toNat fun q i => (!(q.pRead a.toNat).testBit i, 0)) s

/-- PCNT (15 R345). -/
def execPcnt (d a : BitVec 5) (e : BitVec 1) (s : State) : Out :=
  let w := (Instr.pcnt d a e).encodeNat
  issue (ops2 w (gr d) (pr a) e true)
    (vecScalar w [] d.toNat fun q => (BitVec.ofNat 64 (setBits (q.pRead a.toNat) q.c.vl).length, 0)) s

/-- PFIRST (15 R345). -/
def execPfirst (d a : BitVec 5) (e : BitVec 1) (s : State) : Out :=
  let w := (Instr.pfirst d a e).encodeNat
  issue (ops2 w (gr d) (pr a) e true)
    (vecScalar w [] d.toNat fun q => match (List.range q.c.vl).find? fun i => (q.pRead a.toNat).testBit i with
      | some i => (BitVec.ofNat 64 i, 0)
      | none => (BitVec.allOnes 64, 0)) s

/-- PSET (15 R345): 0 .ALL, 1 .NONE, 2 .LT. -/
def execPset (d a : BitVec 5) (e : BitVec 1) (k : BitVec 2) (s : State) : Out :=
  let w := (Instr.pset d a e k).encodeNat
  issue { word := w, regs := [pr d, gr a], dests := [pr d], sources := if k = 2 then [(gr a, eb e)] else [] }
    (predElems w [] false d.toNat fun q i =>
      (match k.toNat with | 0 => true | 1 => false | _ => decide (i < (q.gRead a.toNat).toNat), 0)) s

/-- PPACK (15 R345): p0 to p7 from bit PLEN × i onward, the bytes above them 0 (11 R269). -/
def execPpack (d : BitVec 5) (s : State) : Out :=
  issue { word := (Instr.ppack d).encodeNat, regs := [vr d], dests := [vr d],
          sources := (List.range 8).map fun i => (.p i, false) }
    (fun s =>
      let q := s.me
      let x := (List.range 8).foldr (fun i acc => acc <<< q.c.plen + q.pRead i) 0
      .ok .next (restart (s.updMe fun q => q.vSet d.toNat x))) s

/-- PUNPK (15 R345). -/
def execPunpk (a : BitVec 5) (e : BitVec 1) (s : State) : Out :=
  issue { word := (Instr.punpk a e).encodeNat, regs := [vr a], sources := [(vr a, eb e)],
          dests := (List.range 8).map .p }
    (fun s =>
      let x := s.me.vRead a.toNat
      .ok .next (restart (s.updMe fun q =>
        (List.range 8).foldl (fun q i => q.pSet i (bitsAt x (q.c.plen * i) q.c.plen)) q))) s

/-- PMOV (15 R345): 0 PMOV, 1 PMOV.G, 2 PMOV.TOG; all PLEN bits. -/
def execPmov (d a : BitVec 5) (e : BitVec 1) (k : BitVec 2) (s : State) : Out :=
  let rd := if k = 2 then gr d else pr d
  let ra := if k = 1 then gr a else pr a
  issue (ops2 (Instr.pmov d a e k).encodeNat rd ra e true)
    (fun s =>
      let q := s.me
      match k.toNat with
      | 0 => .ok .next (restart (s.updMe fun q => q.pSet d.toNat (q.pRead a.toNat)))
      | 1 => .ok .next (restart (s.updMe fun q => q.pSet d.toNat (q.gRead a.toNat).toNat))
      | _ => (putG d.toNat (BitVec.ofNat 64 (q.pRead a.toNat)) 0 s).andThen fun f s => .ok f (restart s)) s

/-- FMASKP (15 R345): reads the faulted-element mask into p[d], or writes it from p[a] (.W); all PLEN bits. -/
def execFmaskp (d a : BitVec 5) (e k : BitVec 1) (s : State) : Out :=
  let w := (Instr.fmaskp d a e k).encodeNat
  issue (if k = 1 then { word := w, regs := [pr a], sources := [(pr a, eb e)] } else opsD w (pr d))
    (fun s =>
      .ok .next (restart (s.updMe fun q =>
        if k = 1 then { q with n := { q.n with fmask := q.pRead a.toNat } }
        else q.pSet d.toNat (q.n.fmask % 2 ^ q.c.plen)))) s

/-! ## Moving elements (R346) -/

/-- VMOV (15 R346). -/
def execVmov (d a : BitVec 5) (e : BitVec 1) (t : BitVec 4) (s : State) : Out :=
  let w := (Instr.vmov d a e t).encodeNat
  let n := typeBits t.toNat
  issue { word := w, regs := [vr d, vr a], typeOk := decide (t.toNat ≤ 14), dests := [vr d]
          sources := [(vr a, eb e)] ++ s.me.maskSrc }
    (vecWhole w [n] d.toNat n fun q i => if (q.active true).testBit i then some (q.elem a.toNat n i, 0) else none) s

/-- VBCST (15 R346). -/
def execVbcst (d a : BitVec 5) (e : BitVec 1) (t : BitVec 4) (s : State) : Out :=
  let w := (Instr.vbcst d a e t).encodeNat
  let n := typeBits t.toNat
  issue { word := w, regs := [vr d, gr a], typeOk := decide (t.toNat ≤ 14), dests := [vr d]
          sources := [(gr a, eb e)] ++ s.me.maskSrc }
    (vecWhole w [n] d.toNat n fun q i =>
      if (q.active true).testBit i then some ((q.gRead a.toNat).toNat % 2 ^ n, 0) else none) s

/-- VEXT (15 R346). -/
def execVext (d a b : BitVec 5) (e f : BitVec 1) (t : BitVec 4) (s : State) : Out :=
  let w := (Instr.vext d a b e f t).encodeNat
  let n := typeBits t.toNat
  issue (ops3 w (gr d) (vr a) (gr b) e f (decide (t.toNat ≤ 14)))
    (vecScalar w [n] d.toNat fun q =>
      let i := (q.gRead b.toNat).toNat % 2 ^ n
      (if i < q.c.vl then scalarOf t.toNat (q.elem a.toNat n i) else 0, 0)) s

/-- VINS (15 R346): d is a source that always waits. -/
def execVins (d a b : BitVec 5) (e f : BitVec 1) (t : BitVec 4) (s : State) : Out :=
  let w := (Instr.vins d a b e f t).encodeNat
  let n := typeBits t.toNat
  issue { word := w, regs := [vr d, gr a, gr b], typeOk := decide (t.toNat ≤ 14), dests := [vr d]
          sources := [(vr d, false), (gr a, eb e), (gr b, eb f)] }
    (vecWhole w [n] d.toNat n fun q i =>
      if i = (q.gRead b.toNat).toNat % 2 ^ n then some ((q.gRead a.toNat).toNat % 2 ^ n, 0) else none) s

/-- VSLUP (15 R346). -/
def execVslup (d a b : BitVec 5) (e f : BitVec 1) (t : BitVec 4) (s : State) : Out :=
  let w := (Instr.vslup d a b e f t).encodeNat
  let n := typeBits t.toNat
  issue { word := w, regs := [vr d, vr a, gr b], typeOk := decide (t.toNat ≤ 14), dests := [vr d]
          sources := [(vr a, eb e), (gr b, eb f)] ++ s.me.maskSrc }
    (vecWhole w [n] d.toNat n fun q i =>
      let sh := (q.gRead b.toNat).toNat % 2 ^ n
      if (q.active true).testBit i && decide (sh ≤ i) then some (q.elem a.toNat n (i - sh), 0) else none) s

/-- VSLDN (15 R346). -/
def execVsldn (d a b : BitVec 5) (e f : BitVec 1) (t : BitVec 4) (s : State) : Out :=
  let w := (Instr.vsldn d a b e f t).encodeNat
  let n := typeBits t.toNat
  issue { word := w, regs := [vr d, vr a, gr b], typeOk := decide (t.toNat ≤ 14), dests := [vr d]
          sources := [(vr a, eb e), (gr b, eb f)] ++ s.me.maskSrc }
    (vecWhole w [n] d.toNat n fun q i =>
      let sh := (q.gRead b.toNat).toNat % 2 ^ n
      if (q.active true).testBit i then some (if i + sh < q.c.vl then q.elem a.toNat n (i + sh) else 0, 0) else none) s

/-- VCPRS (15 R346). -/
def execVcprs (d a b : BitVec 5) (e f : BitVec 1) (t : BitVec 4) (s : State) : Out :=
  let w := (Instr.vcprs d a b e f t).encodeNat
  let n := typeBits t.toNat
  issue (ops3 w (vr d) (vr a) (pr b) e f (decide (t.toNat ≤ 14)))
    (fun s =>
      let from_ := (setBits (s.me.pRead b.toNat) s.me.c.vl).toArray
      vecWhole w [n] d.toNat n (fun q i => (from_[i]?).map fun j => (q.elem a.toNat n j, 0)) s) s

/-- VEXPD (15 R346). -/
def execVexpd (d a b : BitVec 5) (e f : BitVec 1) (t : BitVec 4) (s : State) : Out :=
  let w := (Instr.vexpd d a b e f t).encodeNat
  let n := typeBits t.toNat
  issue (ops3 w (vr d) (vr a) (pr b) e f (decide (t.toNat ≤ 14)))
    (fun s =>
      let rk := (ranks (s.me.pRead b.toNat) s.me.c.vl).toArray
      vecWhole w [n] d.toNat n (fun q i =>
        if (q.pRead b.toNat).testBit i then (rk[i]?).map fun j => (q.elem a.toNat n j, 0) else none) s) s

/-- VPERM (15 R346). -/
def execVperm (d a b : BitVec 5) (e f : BitVec 1) (t : BitVec 4) (s : State) : Out :=
  let w := (Instr.vperm d a b e f t).encodeNat
  let n := typeBits t.toNat
  issue { word := w, regs := [vr d, vr a, vr b], typeOk := decide (t.toNat ≤ 14), dests := [vr d]
          sources := [(vr a, eb e), (vr b, eb f)] ++ s.me.maskSrc }
    (vecWhole w [n] d.toNat n fun q i =>
      let j := q.elem b.toNat n i
      if (q.active true).testBit i then some (if j < q.c.vl then q.elem a.toNat n j else 0, 0) else none) s

/-- VIOTA (15 R346): .P counts the predicate's bits below each element, .ID its index. -/
def execViota (d a : BitVec 5) (e : BitVec 1) (t : BitVec 4) (v : BitVec 3) (s : State) : Out :=
  let w := (Instr.viota d a e t v).encodeNat
  let n := typeBits t.toNat
  let src := if v = 0 then [(pr a, eb e)] else []
  issue { word := w, regs := [vr d] ++ (if v = 0 then [pr a] else []), typeOk := isInt t.toNat, dests := [vr d]
          sources := src ++ s.me.maskSrc }
    (fun s =>
      let rk := (ranks (s.me.pRead a.toNat) s.me.c.vl).toArray
      vecWhole w [n] d.toNat n (fun q i =>
        if (q.active true).testBit i then some ((if v = 0 then rk.getD i 0 else i) % 2 ^ n, 0) else none) s) s

/-- VSEL (15 R346): the mask selects, and every element below VL is written (log 30). -/
def execVsel (d a b : BitVec 5) (e f : BitVec 1) (t : BitVec 4) (s : State) : Out :=
  let w := (Instr.vsel d a b e f t).encodeNat
  let n := typeBits t.toNat
  issue { word := w, regs := [vr d, vr a, vr b], typeOk := decide (t.toNat ≤ 14), dests := [vr d]
          sources := [(vr a, eb e), (vr b, eb f)] ++ s.me.maskSrc }
    (vecWhole w [n] d.toNat n fun q i =>
      some (if (q.active true).testBit i then q.elem a.toNat n i else q.elem b.toNat n i, 0)) s

/-! ## Reductions, scans and dot products (R347) -/

/-- VRED (15 R347). -/
def execVred (d a b : BitVec 5) (e f : BitVec 1) (t : BitVec 4) (v : BitVec 3) (s : State) : Out :=
  let w := (Instr.vred d a b e f t v).encodeNat
  let n := typeBits t.toNat
  issue { word := w, regs := [gr d, vr a, gr b], typeOk := isInt t.toNat, dests := [gr d]
          sources := [(vr a, eb e), (gr b, eb f)] ++ s.me.maskSrc }
    (vecScalar w [n] d.toNat fun q =>
      let r := reduceBy q (intCombine t.toNat v.toNat) ((q.gRead b.toNat).toNat % 2 ^ n) (q.elem a.toNat n)
      (scalarOf t.toNat r.1, 0)) s

/-- VFRED (15 R347). -/
def execVfred (d a b : BitVec 5) (e f : BitVec 1) (t : BitVec 4) (v : BitVec 3) (s : State) : Out :=
  let w := (Instr.vfred d a b e f t v).encodeNat
  let n := typeBits t.toNat
  issue { word := w, regs := [gr d, vr a, gr b], typeOk := isScalarFloat t.toNat, dests := [gr d]
          sources := [(vr a, eb e), (gr b, eb f)] ++ s.me.maskSrc }
    (vecScalar w [n] d.toNat fun q =>
      let r := reduceBy q (floatCombine t.toNat v.toNat (q.round q.c.rm 0)) ((q.gRead b.toNat).toNat % 2 ^ n) (q.elem a.toNat n)
      (scalarOf t.toNat r.1, r.2)) s

/-- VSCAN (15 R347). -/
def execVscan (d a b : BitVec 5) (e f : BitVec 1) (t : BitVec 4) (v : BitVec 3) (s : State) : Out :=
  let w := (Instr.vscan d a b e f t v).encodeNat
  issue { word := w, regs := [vr d, vr a, gr b], typeOk := isInt t.toNat, dests := [vr d]
          sources := [(vr a, eb e), (gr b, eb f)] ++ s.me.maskSrc }
    (fun s => scanBody w t.toNat d.toNat a.toNat ((s.me.gRead b.toNat).toNat % 2 ^ typeBits t.toNat)
      (fun _ _ => intCombine t.toNat v.toNat) s) s

/-- VFSCAN (15 R347): each step rounds with the element's index. -/
def execVfscan (d a b : BitVec 5) (e f : BitVec 1) (t : BitVec 4) (v : BitVec 3) (s : State) : Out :=
  let w := (Instr.vfscan d a b e f t v).encodeNat
  issue { word := w, regs := [vr d, vr a, gr b], typeOk := isScalarFloat t.toNat, dests := [vr d]
          sources := [(vr a, eb e), (gr b, eb f)] ++ s.me.maskSrc }
    (fun s => scanBody w t.toNat d.toNat a.toNat ((s.me.gRead b.toNat).toNat % 2 ^ typeBits t.toNat)
      (fun q i => floatCombine t.toNat v.toNat (q.round q.c.rm i)) s) s

/-- VDOT (15 R347): the start value is g[d], a source that always waits. -/
def execVdot (d a b : BitVec 5) (e f : BitVec 1) (t : BitVec 4) (s : State) : Out :=
  let w := (Instr.vdot d a b e f t).encodeNat
  let ty := t.toNat
  let n := typeBits ty
  issue { word := w, regs := [gr d, vr a, vr b], typeOk := isInt ty || isScalarFloat ty, dests := [gr d]
          sources := [(gr d, false), (vr a, eb e), (vr b, eb f)] ++ s.me.maskSrc }
    (vecScalar w [n] d.toNat fun q =>
      let z := (q.gRead d.toNat).toNat % 2 ^ n
      let leaf (i : Nat) : Nat × BitVec 6 :=
        if isInt ty then arith (fun x y => x * y) ty false (q.elem a.toNat n i) (q.elem b.toNat n i)
        else fMul ty (q.round q.c.rm i) (q.elem a.toNat n i) (q.elem b.toNat n i)
      let op := if isInt ty then intCombine ty 0 else floatCombine ty 0 (q.round q.c.rm 0)
      let fl := (setBits (q.active true) q.c.vl).foldl (fun x i => x ||| (leaf i).2) (0 : BitVec 6)
      let r := reduceBy q op z fun i => (leaf i).1
      (scalarOf ty r.1, r.2 ||| fl)) s

/-! ## Conversions and element transforms (R348, R349) -/

/-- VCVT (15 R348). -/
def execVcvt (d a : BitVec 5) (u : BitVec 4) (e : BitVec 1) (t : BitVec 4) (v : BitVec 3) (s : State) : Out :=
  let w := (Instr.vcvt d a u e t v).encodeNat
  issue { word := w, regs := [vr d, vr a], typeOk := (isFloat t.toNat && isFloat u.toNat), dests := [vr d], sources := [(vr a, eb e)] ++ s.me.maskSrc }
    (vecElems w [typeBits t.toNat, typeBits u.toNat] true false d.toNat (typeBits t.toNat) fun q i =>
      cvtFloat t.toNat u.toNat (q.round (q.modeOf v.toNat) i) (q.elem a.toNat (typeBits u.toNat) i)) s

/-- VCVTI (15 R348). -/
def execVcvti (d a : BitVec 5) (u : BitVec 4) (e : BitVec 1) (t : BitVec 4) (v : BitVec 3) (s : State) : Out :=
  let w := (Instr.vcvti d a u e t v).encodeNat
  issue { word := w, regs := [vr d, vr a], typeOk := (isInt t.toNat && isFloat u.toNat), dests := [vr d], sources := [(vr a, eb e)] ++ s.me.maskSrc }
    (vecElems w [typeBits t.toNat, typeBits u.toNat] true false d.toNat (typeBits t.toNat) fun q i =>
      cvtFloatInt t.toNat u.toNat (q.round (q.modeOf v.toNat) i) (q.elem a.toNat (typeBits u.toNat) i)) s

/-- VICVT (15 R348). -/
def execVicvt (d a : BitVec 5) (u : BitVec 4) (e : BitVec 1) (t : BitVec 4) (v : BitVec 3) (s : State) : Out :=
  let w := (Instr.vicvt d a u e t v).encodeNat
  issue { word := w, regs := [vr d, vr a], typeOk := (isFloat t.toNat && isInt u.toNat), dests := [vr d], sources := [(vr a, eb e)] ++ s.me.maskSrc }
    (vecElems w [typeBits t.toNat, typeBits u.toNat] true false d.toNat (typeBits t.toNat) fun q i =>
      cvtIntFloat t.toNat u.toNat (q.round (q.modeOf v.toNat) i) (q.elem a.toNat (typeBits u.toNat) i)) s

/-- VNARW (15 R348). -/
def execVnarw (d a : BitVec 5) (u : BitVec 4) (e : BitVec 1) (t : BitVec 4) (s : State) : Out :=
  let w := (Instr.vnarw d a u e t).encodeNat
  issue { word := w, regs := [vr d, vr a], typeOk := (isInt t.toNat && isInt u.toNat && decide (typeBits t.toNat < typeBits u.toNat)), dests := [vr d], sources := [(vr a, eb e)] ++ s.me.maskSrc }
    (vecElems w [typeBits t.toNat, typeBits u.toNat] true false d.toNat (typeBits t.toNat) fun q i =>
      cvtInt t.toNat u.toNat q.c.sat (q.elem a.toNat (typeBits u.toNat) i)) s

/-- VWIDN (15 R348). -/
def execVwidn (d a : BitVec 5) (u : BitVec 4) (e : BitVec 1) (t : BitVec 4) (s : State) : Out :=
  let w := (Instr.vwidn d a u e t).encodeNat
  issue { word := w, regs := [vr d, vr a], typeOk := (isInt t.toNat && isInt u.toNat && decide (typeBits u.toNat < typeBits t.toNat)), dests := [vr d], sources := [(vr a, eb e)] ++ s.me.maskSrc }
    (vecElems w [typeBits t.toNat, typeBits u.toNat] true false d.toNat (typeBits t.toNat) fun q i =>
      cvtInt t.toNat u.toNat q.c.sat (q.elem a.toNat (typeBits u.toNat) i)) s

/-- VFRND (15 R348). -/
def execVfrnd (d a : BitVec 5) (e : BitVec 1) (t : BitVec 4) (v : BitVec 3) (s : State) : Out :=
  let w := (Instr.vfrnd d a e t v).encodeNat
  issue { word := w, regs := [vr d, vr a], typeOk := (isScalarFloat t.toNat), dests := [vr d], sources := [(vr a, eb e)] ++ s.me.maskSrc }
    (vecElems w [typeBits t.toNat] true false d.toNat (typeBits t.toNat) fun q i =>
      fIntegral t.toNat (q.round (q.modeOf v.toNat) i) (q.elem a.toNat (typeBits t.toNat) i)) s

/-- VFCLS (15 R348): an n16 result. -/
def execVfcls (d a : BitVec 5) (e : BitVec 1) (t : BitVec 4) (s : State) : Out :=
  let w := (Instr.vfcls d a e t).encodeNat
  issue { word := w, regs := [vr d, vr a], typeOk := isFloat t.toNat, dests := [vr d], sources := [(vr a, eb e)] ++ s.me.maskSrc }
    (vecElems w [16, typeBits t.toNat] true false d.toNat 16 fun q i =>
      (fClass t.toNat (q.elem a.toNat (typeBits t.toNat) i), 0)) s

/-- VPK (15 R348). -/
def execVpk (d a b : BitVec 5) (e f : BitVec 1) (t : BitVec 4) (s : State) : Out :=
  let w := (Instr.vpk d a b e f t).encodeNat
  issue { word := w, regs := [vr d, vr a, vr b], typeOk := decide (t.toNat ≤ 14), dests := [vr d]
          sources := [(vr a, eb e), (vr b, eb f)] ++ s.me.maskSrc }
    (vecElems w [typeBits t.toNat] true false d.toNat (typeBits t.toNat) fun q i =>
      let n := typeBits t.toNat
      (if i % 2 = 0 then q.elem a.toNat n (i / 2) else q.elem b.toNat n (i / 2), 0)) s

/-- VUPK (15 R348). -/
def execVupk (d a : BitVec 5) (e : BitVec 1) (t : BitVec 4) (v : BitVec 1) (s : State) : Out :=
  let w := (Instr.vupk d a e t v).encodeNat
  issue { word := w, regs := [vr d, vr a], typeOk := (decide (t.toNat ≤ 14)), dests := [vr d], sources := [(vr a, eb e)] ++ s.me.maskSrc }
    (vecElems w [typeBits t.toNat] true false d.toNat (typeBits t.toNat) fun q i =>
      (if 2 * i + v.toNat < q.c.vl then q.elem a.toNat (typeBits t.toNat) (2 * i + v.toNat) else 0, 0)) s

/-- VBSWP (15 R348). -/
def execVbswp (d a : BitVec 5) (e : BitVec 1) (t : BitVec 4) (s : State) : Out :=
  let w := (Instr.vbswp d a e t).encodeNat
  issue { word := w, regs := [vr d, vr a], typeOk := (isInt t.toNat && t.toNat % 4 ≠ 0), dests := [vr d], sources := [(vr a, eb e)] ++ s.me.maskSrc }
    (vecElems w [typeBits t.toNat] true false d.toNat (typeBits t.toNat) fun q i =>
      (reverseGroups 8 (q.elem a.toNat (typeBits t.toNat) i) ((typeBits t.toNat) / 8), 0)) s

/-- VCLZ (15 R348): variant 1 counts trailing zeros. -/
def execVclz (d a : BitVec 5) (e : BitVec 1) (t : BitVec 4) (v : BitVec 1) (s : State) : Out :=
  let w := (Instr.vclz d a e t v).encodeNat
  issue { word := w, regs := [vr d, vr a], typeOk := (isInt t.toNat), dests := [vr d], sources := [(vr a, eb e)] ++ s.me.maskSrc }
    (vecElems w [typeBits t.toNat] true false d.toNat (typeBits t.toNat) fun q i =>
      let x := q.elem a.toNat (typeBits t.toNat) i
      (if v = 1 then countTrail x (typeBits t.toNat) else countLead (typeBits t.toNat) x, 0)) s

/-- VPOPC (15 R348). -/
def execVpopc (d a : BitVec 5) (e : BitVec 1) (t : BitVec 4) (s : State) : Out :=
  let w := (Instr.vpopc d a e t).encodeNat
  issue { word := w, regs := [vr d, vr a], typeOk := (isInt t.toNat), dests := [vr d], sources := [(vr a, eb e)] ++ s.me.maskSrc }
    (vecElems w [typeBits t.toNat] true false d.toNat (typeBits t.toNat) fun q i =>
      (countOnes (q.elem a.toNat (typeBits t.toNat) i) (typeBits t.toNat), 0)) s

/-- VHASH (15 R348): SEW must be 64. -/
def execVhash (d a b : BitVec 5) (e f : BitVec 1) (s : State) : Out :=
  let w := (Instr.vhash d a b e f).encodeNat
  issue { word := w, regs := [vr d, vr a, vr b], dests := [vr d], sources := [(vr a, eb e), (vr b, eb f)] ++ s.me.maskSrc }
    (vecElems w [64] true false d.toNat 64 fun q i =>
      let x := BitVec.ofNat 64 (q.elem a.toNat 64 i)
      let y := BitVec.ofNat 64 (q.elem b.toNat 64 i)
      ((mix64 (x ^^^ y.rotateRight 32)).toNat, 0)) s

/-- VQNT (15 R349). -/
def execVqnt (d a b : BitVec 5) (e f : BitVec 1) (t : BitVec 4) (g : BitVec 2) (s : State) : Out :=
  let w := (Instr.vqnt d a b e f t g).encodeNat
  let n := typeBits t.toNat
  issue { word := w, regs := [vr d, vr a, vr b], typeOk := decide (8 ≤ t.toNat) && decide (t.toNat ≤ 10), dests := [vr d]
          sources := [(vr a, eb e), (vr b, eb f)] ++ s.me.maskSrc }
    (vecElems w [32] true false d.toNat n fun q i =>
      encodeScaled t.toNat (q.round q.c.rm i) (q.elem b.toNat 16 (i / (4 * 2 ^ g.toNat)))
        (decodeFloat 13 (q.elem a.toNat 32 i))) s

/-- VDQNT (15 R349). -/
def execVdqnt (d a b : BitVec 5) (e f : BitVec 1) (t : BitVec 4) (g : BitVec 2) (s : State) : Out :=
  let w := (Instr.vdqnt d a b e f t g).encodeNat
  let n := typeBits t.toNat
  issue { word := w, regs := [vr d, vr a, vr b], typeOk := decide (8 ≤ t.toNat) && decide (t.toNat ≤ 10), dests := [vr d]
          sources := [(vr a, eb e), (vr b, eb f)] ++ s.me.maskSrc }
    (vecElems w [32] true false d.toNat 32 fun q i =>
      decodeScaled t.toNat (q.elem b.toNat 16 (i / (4 * 2 ^ g.toNat))) (q.elem a.toNat n i)) s

/-- VBSCL (15 R349): group g of elements holds the blocks 32/B × g onward. -/
def execVbscl (d a : BitVec 5) (e : BitVec 1) (t : BitVec 4) (g : BitVec 2) (s : State) : Out :=
  let w := (Instr.vbscl d a e t g).encodeNat
  let bl := 4 * 2 ^ g.toNat
  issue { word := w, regs := [vr d, vr a], typeOk := decide (8 ≤ t.toNat) && decide (t.toNat ≤ 10), dests := [vr d]
          sources := [(vr a, eb e)] ++ s.me.maskSrc }
    (vecGroups w [32] true false d.toNat fun q grp reg =>
      let act := q.active true
      (List.range (32 / bl)).foldl (fun (r : Nat × BitVec 6) j =>
        let k := 32 / bl * grp + j
        let mine := ((List.range bl).map fun i => bl * k + i).filter fun i => act.testBit i
        if mine = [] then r
        else (setBitsAt r.1 (16 * k) 16 (blockScale t.toNat (mine.map fun i => decodeFloat 13 (q.elem a.toNat 32 i))), r.2))
        (reg, 0)) s

end Sys2Proof.Machine
end

