-- ==== Sys2Proof/Machine/VectorMem.lean ====
section
/-!
DEFINITION. The vector memory instructions (spec/16_vector_memory.md R351, R364 to R372): coherent loads and stores over the
shared access of `vecLoad` and `vecStore`, Stage memory (R370), spill and fill (R371), and the vector prefetch (R372).
-/
namespace Sys2Proof.Machine

/-! ## Operands (R351; data registers of stores always wait, 13 R293) -/

/-- The data registers from v, `k` of them. -/
def dataRegs (v : BitVec 5) (k : Nat) : List RegRef := (List.range k).map fun f => .v (v.toNat + f)

/-- The register fields: a, the index vector if there is one, v, and the last data register of a segment (R369). -/
def vmRegs (v a : BitVec 5) (b : Option (BitVec 5)) (k : Nat) : List RegRef :=
  [gr a] ++ (b.toList.map vr) ++ [vr v] ++ (if k = 1 then [] else [.v (v.toNat + k - 1)])

/-- A load's operands. -/
def vmLoad (w t : Nat) (v a : BitVec 5) (e : BitVec 1) (b : Option (BitVec 5)) (f : BitVec 1) (k : Nat) (s : State) :
    Operands :=
  { word := w, regs := vmRegs v a b k, typeOk := decide (t ≤ 14)
    sources := [(gr a, eb e)] ++ (b.toList.map fun b => (vr b, eb f)) ++ s.me.maskSrc, dests := dataRegs v k }

/-- A store's operands. -/
def vmStore (w t : Nat) (v a : BitVec 5) (e : BitVec 1) (b : Option (BitVec 5)) (f : BitVec 1) (k : Nat) (s : State) :
    Operands :=
  { word := w, regs := vmRegs v a b k, typeOk := decide (t ≤ 14)
    sources := [(gr a, eb e)] ++ (b.toList.map fun b => (vr b, eb f)) ++ ((dataRegs v k).map fun r => (r, false))
      ++ s.me.maskSrc }

/-! ## Coherent memory -/

/-- VLD (16 R364). -/
def execVld (v a : BitVec 5) (e : BitVec 1) (t : BitVec 4) (s : State) : Out :=
  let w := (Instr.vld v a e t).encodeNat
  issue (vmLoad w t.toNat v a e none 0 1 s) (vecLoad { word := w, v := v.toNat, a := a.toNat, b := 0, t := t.toNat }) s

/-- VST (16 R364). -/
def execVst (v a : BitVec 5) (e : BitVec 1) (t : BitVec 4) (s : State) : Out :=
  let w := (Instr.vst v a e t).encodeNat
  issue (vmStore w t.toNat v a e none 0 1 s) (vecStore { word := w, v := v.toNat, a := a.toNat, b := 0, t := t.toNat }) s

/-- VLDFF (16 R365). -/
def execVldff (v a : BitVec 5) (e : BitVec 1) (t : BitVec 4) (s : State) : Out :=
  let w := (Instr.vldff v a e t).encodeNat
  issue (vmLoad w t.toNat v a e none 0 1 s)
    (vecLoad { word := w, v := v.toNat, a := a.toNat, b := 0, t := t.toNat, ff := true }) s

/-- VGTH (16 R366). -/
def execVgth (v a : BitVec 5) (e : BitVec 1) (b : BitVec 5) (f : BitVec 1) (t : BitVec 4) (s : State) : Out :=
  let w := (Instr.vgth v a e b f t).encodeNat
  issue (vmLoad w t.toNat v a e (some b) f 1 s)
    (vecLoad { word := w, v := v.toNat, a := a.toNat, b := b.toNat, t := t.toNat, shape := .indexed none }) s

/-- VSCT (16 R366). -/
def execVsct (v a : BitVec 5) (e : BitVec 1) (b : BitVec 5) (f : BitVec 1) (t : BitVec 4) (s : State) : Out :=
  let w := (Instr.vsct v a e b f t).encodeNat
  issue (vmStore w t.toNat v a e (some b) f 1 s)
    (vecStore { word := w, v := v.toNat, a := a.toNat, b := b.toNat, t := t.toNat, shape := .indexed none }) s

/-- VGTHW (16 R367): a gather within a window of 2^(10 + variant) positions. -/
def execVgthw (v a : BitVec 5) (e : BitVec 1) (b : BitVec 5) (f : BitVec 1) (t : BitVec 4) (x : BitVec 3) (s : State) :
    Out :=
  let w := (Instr.vgthw v a e b f t x).encodeNat
  issue (vmLoad w t.toNat v a e (some b) f 1 s)
    (vecLoad { word := w, v := v.toNat, a := a.toNat, b := b.toNat, t := t.toNat
               shape := .indexed (some (2 ^ (10 + x.toNat))) }) s

/-- VLDBC (16 R368). -/
def execVldbc (v a : BitVec 5) (e : BitVec 1) (t : BitVec 4) (s : State) : Out :=
  let w := (Instr.vldbc v a e t).encodeNat
  issue (vmLoad w t.toNat v a e none 0 1 s)
    (vecLoad { word := w, v := v.toNat, a := a.toNat, b := 0, t := t.toNat, shape := .broadcast }) s

/-- VLDSG (16 R369): variant + 1 fields. -/
def execVldsg (v a : BitVec 5) (e : BitVec 1) (t : BitVec 4) (x : BitVec 3) (s : State) : Out :=
  let w := (Instr.vldsg v a e t x).encodeNat
  issue (vmLoad w t.toNat v a e none 0 (x.toNat + 1) s)
    (vecLoad { word := w, v := v.toNat, a := a.toNat, b := 0, t := t.toNat, shape := .segment (x.toNat + 1) }) s

/-- VSTSG (16 R369). -/
def execVstsg (v a : BitVec 5) (e : BitVec 1) (t : BitVec 4) (x : BitVec 3) (s : State) : Out :=
  let w := (Instr.vstsg v a e t x).encodeNat
  issue (vmStore w t.toNat v a e none 0 (x.toNat + 1) s)
    (vecStore { word := w, v := v.toNat, a := a.toNat, b := 0, t := t.toNat, shape := .segment (x.toNat + 1) }) s

/-! ## Stage memory (R370) -/

/-- Elements read from their banks, in order, with the sequencer's own buffered bytes over them (06 R143); pts follows
each bank (09 R204). -/
def stageElems (ms : Nat) : List Item → State → List (Nat × Nat) × State
  | [], s => ([], s)
  | i :: is, s =>
    let k := s.cur
    let n := elemBytes ms
    let off := s.me.stageOff i.va
    let r := stageRead (dieOfSeq k) off n s.me.pts s
    let v := stageOverlay (stageAt (dieOfSeq k) off) n r.1 s.me
    let s := r.2.2.updMe fun q => { q with pts := max q.pts r.2.1 }
    let rest := stageElems ms is s
    ((i.e, i.bits v) :: rest.1, rest.2)

/-- The bytes element `i` writes: a 4-bit element keeps the byte's other half. -/
def stageElemBytes (ms x : Nat) (i : Item) (s : State) : Nat :=
  match i.nib with
  | none => x
  | some n =>
    let at_ := stageAt (dieOfSeq s.cur) (s.me.stageOff i.va)
    setBitsAt (stageOverlay at_ 1 (s.stage.read at_ 1) s.me) (4 * n) ms x

/-- Elements written, in ascending order: buffered in a strip, else each one operation at its bank. -/
def stageStores (w ms v : Nat) : List Item → State → Res Unit
  | [], s => .ok () s
  | i :: is, s =>
    let k := s.cur
    let n := elemBytes ms
    let off := s.me.stageOff i.va
    let x := stageElemBytes ms (s.me.elem v w i.e) i s
    if s.me.strip.isSome then
      (stageBuffer (placed (stageAt (dieOfSeq k) off) n x) s).andThen fun _ s => stageStores w ms v is s
    else
      let r := stageWrite (dieOfSeq k) off x n s.me.pts s
      stageStores w ms v is (r.2.updMe fun q => { q with pts := max q.pts r.1 })

/-- The checks of a Stage access in order, then its body over the items of the active elements. -/
def stageAccess (o : VAcc) (body : List Item → State → Res Unit) (s : State) : Res Flow :=
  (narrowEnough o.word [typeBits o.t] s).andThen fun _ s =>
    let q := s.me
    let ch := q.chosen
    let ms := typeBits o.t
    let n := elemBytes ms
    if ch.1 = [] then .ok ch.2.2 (restart s)
    else if o.strideTrap q ms then .trap 0x04 q.c.vstride.toNat s
    else
      let is := ch.1.flatMap (itemsOf o q ms)
      match is.find? fun i => !i.aligned ms with
      | some i => .trap 0x0A i.va s
      | none => match is.find? fun i => !q.stageOk i.va n with
        | some i => .trap 0x09 i.va s
        | none =>
          (body is s).andThen fun _ s =>
            .ok ch.2.2 (s.updMe fun q => { q with c := { q.c with vstart := ch.2.1 } })

/-- A Stage load: the register is written when the banks have answered and is never marked empty (06 R130). -/
def stageLoad (o : VAcc) (s : State) : Res Flow :=
  let w := typeBits o.t
  stageAccess o (fun is s =>
    let r := stageElems w is s
    .ok () (r.2.updMe fun q => q.vSet o.v (r.1.foldl (fun x y => setBitsAt x (w * y.1) w y.2) (q.vRead o.v)))) s

def stageStore (o : VAcc) (s : State) : Res Flow :=
  let w := typeBits o.t
  stageAccess o (stageStores w w o.v) s

/-- VLDS (16 R370). -/
def execVlds (v a : BitVec 5) (e : BitVec 1) (t : BitVec 4) (s : State) : Out :=
  let w := (Instr.vlds v a e t).encodeNat
  issue (vmLoad w t.toNat v a e none 0 1 s) (stageLoad { word := w, v := v.toNat, a := a.toNat, b := 0, t := t.toNat }) s

/-- VSTS (16 R370). -/
def execVsts (v a : BitVec 5) (e : BitVec 1) (t : BitVec 4) (s : State) : Out :=
  let w := (Instr.vsts v a e t).encodeNat
  issue (vmStore w t.toNat v a e none 0 1 s) (stageStore { word := w, v := v.toNat, a := a.toNat, b := 0, t := t.toNat }) s

/-- VGTHS (16 R370). -/
def execVgths (v a : BitVec 5) (e : BitVec 1) (b : BitVec 5) (f : BitVec 1) (t : BitVec 4) (s : State) : Out :=
  let w := (Instr.vgths v a e b f t).encodeNat
  issue (vmLoad w t.toNat v a e (some b) f 1 s)
    (stageLoad { word := w, v := v.toNat, a := a.toNat, b := b.toNat, t := t.toNat, shape := .indexed none }) s

/-- VSCTS (16 R370). -/
def execVscts (v a : BitVec 5) (e : BitVec 1) (b : BitVec 5) (f : BitVec 1) (t : BitVec 4) (s : State) : Out :=
  let w := (Instr.vscts v a e b f t).encodeNat
  issue (vmStore w t.toNat v a e (some b) f 1 s)
    (stageStore { word := w, v := v.toNat, a := a.toNat, b := b.toNat, t := t.toNat, shape := .indexed none }) s

/-! ## Spill and fill (R371) -/

/-- The touches of a slot of `vl` elements of `n` bytes at `a`: its header counts as element 0 (log 34). -/
def slotTouches (a vl n : Nat) (kind : Access) : List Touch :=
  { e := 0, va := a, kind := kind, elem := true } ::
    (List.range vl).map fun (e : Nat) => { e := e, va := wrap64 (a + 16 + n * e), kind := kind, elem := true }

/-- A piece of a slot at byte `off` from its base. -/
def slotPiece (ps : Pages) (va n : Nat) (kind : Access) : Option Piece :=
  match leafFor ps va kind with
  | .ok l => some { leaf := l, pa := l.pa va, n := n }
  | .error _ => none

/-- Faulting touches with their causes. -/
def slotBad (ps : Pages) (q : Seq) (ts : List Touch) : List (Touch × (Nat × Nat)) :=
  ts.filterMap fun x => (x.fault ps q 0 none).map fun c => (x, c)

/-- The header of a slot. -/
def slotHeader (q : Seq) : Nat := q.c.vl + q.c.sew * 2 ^ 32 + q.c.nvlog * 2 ^ 40

/-- VSPILL: the header and the bytes of the elements below VL, as one store. -/
def spill (v a : Nat) (s : State) : Res Flow :=
  let k := s.cur
  let q := s.me
  let base := (q.gRead a).toNat
  let n : Nat := 2 ^ q.c.sew
  if base % 64 ≠ 0 then .trap 0x0A base s
  else
    let ts := slotTouches base q.c.vl n .write
    (translatePages k (pagesOf ts) s).andThen fun ps s =>
      let bad := slotBad ps s.me ts
      if bad ≠ [] then vecFault (dedup (bad.map fun x => x.1.e)) (batchEntries bad) s
      else
        let root := seqRoot k s
        let entry (va n v e : Nat) : Option (BufEntry × Bool) :=
          (slotPiece ps va n .write).map fun p => (storeEntry root p va v e s, p.leaf.ph)
        let es := (entry base 16 (slotHeader q) 0).toList ++ (List.range q.c.vl).filterMap fun (e : Nat) =>
          entry (wrap64 (base + 16 + n * e)) n (bitsAt (q.vRead v) (8 * n * e) (8 * n)) e
        (storeEntries k es s).andThen fun _ s => .ok .next (restart (pinPages ps s))

/-- VSPILL (16 R371). -/
def execVspill (v a : BitVec 5) (e : BitVec 1) (s : State) : Out :=
  issue { word := (Instr.vspill v a e).encodeNat, regs := vmRegs v a none 1, sources := [(gr a, eb e), (vr v, false)] }
    (spill v.toNat a.toNat) s

/-- The header of a slot read before its data: it must be resident and sound. -/
def fillHeader (base : Nat) (s : State) : Res Nat :=
  let k := s.cur
  let h : Touch := { e := 0, va := base, kind := .read, elem := true }
  (translatePages k (pagesOf [h]) s).andThen fun ps s =>
    match slotBad ps s.me [h], slotPiece ps base 16 .read with
    | [], some p =>
      if p.leaf.ns ∧ s.me.strip.isSome then (closeFor s).andThen fun _ s => .ok 0 s
      else if tierOf p.pa = .peer then
        (readPeer p.pa 16 s).andThen fun r s => match r with
          | .ok v => .ok (peerView p v s) s
          | .error c => vecFault [0] (batchEntries [(h, c)]) s
      else
        (readPieces k [p] s).andThen fun _ s =>
          if piecePoison k p s then .trap 0x0C base (setFmask [0] s) else .ok (pieceValue k p s) s
    | bad, _ => vecFault [0] (batchEntries bad) s

/-- The unsigned type of `2^c` bytes. -/
def rawType (c : Nat) : Nat := 4 + c

/-- VFILL: the header is judged, then header and data are read at one time as the elements of one load. -/
def fillSlot (word v a : Nat) (s : State) : Res Flow :=
  let base := (s.me.gRead a).toNat
  if base % 64 ≠ 0 then .trap 0x0A base s
  else
    (fillHeader base s).andThen fun h s =>
      let q := s.me
      let vl := bitsAt h 0 32
      let c := bitsAt h 32 8
      if bitsAt h 40 8 ≠ q.c.nvlog ∨ 3 < c ∨ q.c.rlen < vl * 2 ^ c then .trap 0x03 word s
      else
        let n : Nat := 2 ^ c
        let ts := slotTouches base vl n .read
        (translatePages s.cur (pagesOf ts) s).andThen fun ps s =>
          let ns := ts.any fun x => match leafFor ps x.va x.kind with | .ok l => l.ns | .error _ => false
          if ns && s.me.strip.isSome then (closeFor s).andThen fun _ s => .ok .stay s
          else
            -- the header is a field of element 0 that no register receives
            let is : List Item := { e := 0, f := 1, va := base, nib := none } ::
              (List.range vl).map fun (e : Nat) => { e := e, f := 0, va := wrap64 (base + 16 + n * e), nib := none }
            loadCells { word := word, v := v, a := a, b := 0, t := rawType c } { ty := rawType c, geo := 0 }
              [] (0, .next) is ps (slotBad ps s.me ts) s

/-- VFILL (16 R371). -/
def execVfill (v a : BitVec 5) (e : BitVec 1) (s : State) : Out :=
  let w := (Instr.vfill v a e).encodeNat
  issue { word := w, regs := vmRegs v a none 1, sources := [(gr a, eb e)], dests := [vr v] }
    (fillSlot w v.toNat a.toNat) s

/-! ## Prefetch (R372) -/

/-- The lines of the active elements, each prefetched once. -/
def vecPrefetch (a t kind : Nat) (s : State) : State :=
  let q := s.me
  let ms := typeBits t
  if ms = 4 ∧ q.c.vstride ≠ 0 then restart s
  else
    let o : VAcc := { word := 0, v := 0, a := a, b := 0, t := t }
    let is := (q.chosen.1.flatMap (itemsOf o q ms)).filter fun i => i.aligned ms
    let vas := dedup (is.map fun i => i.va / 128 * 128)
    restart (thread (fun va s => prefetch va kind s) vas s)

/-- VPREF (16 R372): no trap after decode, and no fault. -/
def execVpref (a : BitVec 5) (e : BitVec 1) (t : BitVec 4) (k : BitVec 2) (s : State) : Out :=
  issue { word := (Instr.vpref a e t k).encodeNat, regs := [gr a], typeOk := decide (t.toNat ≤ 14)
          sources := [(gr a, eb e)] ++ s.me.maskSrc }
    (fun s =>
      let ch := s.me.chosen
      .ok ch.2.2 ((vecPrefetch a.toNat t.toNat k.toNat s).updMe fun q => { q with c := { q.c with vstart := ch.2.1 } })) s

end Sys2Proof.Machine
end

