-- ==== Sys2Proof/Machine/Dispatch.lean ====
section
/-!
DEFINITION. The meaning of every step: one arm per row of the opcode table, each a call of that row's meaning.
-/
namespace Sys2Proof.Machine

def exec (i : Instr) (s : State) : Host.Outcome State Fault Refusal :=
  match i with
  | .trapz x => Sys2Proof.Machine.execTrapz x s
  | .ctlr d n => Sys2Proof.Machine.execCtlr d n s
  | .ctlw a e n => Sys2Proof.Machine.execCtlw a e n s
  | .ctls d a e n => Sys2Proof.Machine.execCtls d a e n s
  | .ctlc d a e n => Sys2Proof.Machine.execCtlc d a e n s
  | .ctlx d a e n => Sys2Proof.Machine.execCtlx d a e n s
  | .syscall im => Sys2Proof.Machine.execSyscall im s
  | .tlbinv d a e k => Sys2Proof.Machine.execTlbinv d a e k s
  | .bflip d a e k => Sys2Proof.Machine.execBflip d a e k s
  | .enrd d sc => Sys2Proof.Machine.execEnrd d sc s
  | .dmark im => Sys2Proof.Machine.execDmark im s
  | .add d a b e f t v => Sys2Proof.Machine.execAdd d a b e f t v s
  | .sub d a b e f t v => Sys2Proof.Machine.execSub d a b e f t v s
  | .mul d a b e f t v => Sys2Proof.Machine.execMul d a b e f t v s
  | .mulh d a b e f t v => Sys2Proof.Machine.execMulh d a b e f t v s
  | .div d a b e f t v => Sys2Proof.Machine.execDiv d a b e f t v s
  | .rem d a b e f t v => Sys2Proof.Machine.execRem d a b e f t v s
  | .min d a b e f t v => Sys2Proof.Machine.execMin d a b e f t v s
  | .max d a b e f t v => Sys2Proof.Machine.execMax d a b e f t v s
  | .and d a b e f => Sys2Proof.Machine.execAnd d a b e f s
  | .or d a b e f => Sys2Proof.Machine.execOr d a b e f s
  | .xor d a b e f => Sys2Proof.Machine.execXor d a b e f s
  | .andn d a b e f => Sys2Proof.Machine.execAndn d a b e f s
  | .shl d a b e f t v => Sys2Proof.Machine.execShl d a b e f t v s
  | .shr d a b e f t v => Sys2Proof.Machine.execShr d a b e f t v s
  | .rot d a b e f t v => Sys2Proof.Machine.execRot d a b e f t v s
  | .cmp d a b e f t v => Sys2Proof.Machine.execCmp d a b e f t v s
  | .addi d a e im => Sys2Proof.Machine.execAddi d a e im s
  | .muli d a e im => Sys2Proof.Machine.execMuli d a e im s
  | .andi d a e im => Sys2Proof.Machine.execAndi d a e im s
  | .ori d a e im => Sys2Proof.Machine.execOri d a e im s
  | .xori d a e im => Sys2Proof.Machine.execXori d a e im s
  | .shli d a e sc => Sys2Proof.Machine.execShli d a e sc s
  | .shri d a e k sc => Sys2Proof.Machine.execShri d a e k sc s
  | .roti d a e sc => Sys2Proof.Machine.execRoti d a e sc s
  | .slti d a e im => Sys2Proof.Machine.execSlti d a e im s
  | .sltni d a e im => Sys2Proof.Machine.execSltni d a e im s
  | .seqi d a e im => Sys2Proof.Machine.execSeqi d a e im s
  | .mini d a e im => Sys2Proof.Machine.execMini d a e im s
  | .maxi d a e im => Sys2Proof.Machine.execMaxi d a e im s
  | .divi d a e im => Sys2Proof.Machine.execDivi d a e im s
  | .remi d a e im => Sys2Proof.Machine.execRemi d a e im s
  | .subfi d a e im => Sys2Proof.Machine.execSubfi d a e im s
  | .movi d im => Sys2Proof.Machine.execMovi d im s
  | .ldhi d im => Sys2Proof.Machine.execLdhi d im s
  | .addpc d im => Sys2Proof.Machine.execAddpc d im s
  | .clz d a e t => Sys2Proof.Machine.execClz d a e t s
  | .ctz d a e t => Sys2Proof.Machine.execCtz d a e t s
  | .popc d a e t => Sys2Proof.Machine.execPopc d a e t s
  | .brev d a e t => Sys2Proof.Machine.execBrev d a e t s
  | .bswap d a e t => Sys2Proof.Machine.execBswap d a e t s
  | .ext d a e x l p => Sys2Proof.Machine.execExt d a e x l p s
  | .ins d a e l p => Sys2Proof.Machine.execIns d a e l p s
  | .sel d a b e f c => Sys2Proof.Machine.execSel d a b e f c s
  | .mac d a b e f t v => Sys2Proof.Machine.execMac d a b e f t v s
  | .abs d a e t v => Sys2Proof.Machine.execAbs d a e t v s
  | .cvtw d a e t u => Sys2Proof.Machine.execCvtw d a e t u s
  | .crc d a b e f t => Sys2Proof.Machine.execCrc d a b e f t s
  | .hash d a b e f => Sys2Proof.Machine.execHash d a b e f s
  | .fadd d a b e f t v => Sys2Proof.Machine.execFadd d a b e f t v s
  | .fsub d a b e f t v => Sys2Proof.Machine.execFsub d a b e f t v s
  | .fmul d a b e f t v => Sys2Proof.Machine.execFmul d a b e f t v s
  | .fdiv d a b e f t v => Sys2Proof.Machine.execFdiv d a b e f t v s
  | .fsqrt d a e t v => Sys2Proof.Machine.execFsqrt d a e t v s
  | .fmin d a b e f t v => Sys2Proof.Machine.execFmin d a b e f t v s
  | .fmax d a b e f t v => Sys2Proof.Machine.execFmax d a b e f t v s
  | .fma d a b c e t => Sys2Proof.Machine.execFma d a b c e t s
  | .fnma d a b c e t => Sys2Proof.Machine.execFnma d a b c e t s
  | .fcmp d a b e f t v => Sys2Proof.Machine.execFcmp d a b e f t v s
  | .fcvt d a u e t v => Sys2Proof.Machine.execFcvt d a u e t v s
  | .fcvti d a u e t v => Sys2Proof.Machine.execFcvti d a u e t v s
  | .icvtf d a u e t v => Sys2Proof.Machine.execIcvtf d a u e t v s
  | .fclass d a e t => Sys2Proof.Machine.execFclass d a e t s
  | .fexp2 d a e t v => Sys2Proof.Machine.execFexp2 d a e t v s
  | .flog2 d a e t v => Sys2Proof.Machine.execFlog2 d a e t v s
  | .jmp o => Sys2Proof.Machine.execJmp o s
  | .call o => Sys2Proof.Machine.execCall o s
  | .beqz a e o => Sys2Proof.Machine.execBeqz a e o s
  | .bnez a e o => Sys2Proof.Machine.execBnez a e o s
  | .bltz a e o => Sys2Proof.Machine.execBltz a e o s
  | .bgez a e o => Sys2Proof.Machine.execBgez a e o s
  | .bgtz a e o => Sys2Proof.Machine.execBgtz a e o s
  | .blez a e o => Sys2Proof.Machine.execBlez a e o s
  | .bpany a e o => Sys2Proof.Machine.execBpany a e o s
  | .bpnone a e o => Sys2Proof.Machine.execBpnone a e o s
  | .jr a e im => Sys2Proof.Machine.execJr a e im s
  | .callr d a e im => Sys2Proof.Machine.execCallr d a e im s
  | .loop a e o => Sys2Proof.Machine.execLoop a e o s
  | .lbrk k => Sys2Proof.Machine.execLbrk k s
  | .lidx d k => Sys2Proof.Machine.execLidx d k s
  | .ldb d a e im => Sys2Proof.Machine.execLdb d a e im s
  | .ldbn d a e im => Sys2Proof.Machine.execLdbn d a e im s
  | .ldh d a e im => Sys2Proof.Machine.execLdh d a e im s
  | .ldhn d a e im => Sys2Proof.Machine.execLdhn d a e im s
  | .ldw d a e im => Sys2Proof.Machine.execLdw d a e im s
  | .ldwn d a e im => Sys2Proof.Machine.execLdwn d a e im s
  | .ldd d a e im => Sys2Proof.Machine.execLdd d a e im s
  | .stb d a e im => Sys2Proof.Machine.execStb d a e im s
  | .sth d a e im => Sys2Proof.Machine.execSth d a e im s
  | .stw d a e im => Sys2Proof.Machine.execStw d a e im s
  | .std d a e im => Sys2Proof.Machine.execStd d a e im s
  | .ldo d a e c z sc => Sys2Proof.Machine.execLdo d a e c z sc s
  | .sto d a e c sc => Sys2Proof.Machine.execSto d a e c sc s
  | .sld d a e im => Sys2Proof.Machine.execSld d a e im s
  | .sst d a e im => Sys2Proof.Machine.execSst d a e im s
  | .pref k a e im => Sys2Proof.Machine.execPref k a e im s
  | .vcfg n => Sys2Proof.Machine.execVcfg n s
  | .setvl d a e w => Sys2Proof.Machine.execSetvl d a e w s
  | .vadd d a b e f t v => Sys2Proof.Machine.execVadd d a b e f t v s
  | .vsub d a b e f t v => Sys2Proof.Machine.execVsub d a b e f t v s
  | .vmul d a b e f t v => Sys2Proof.Machine.execVmul d a b e f t v s
  | .vmulh d a b e f t v => Sys2Proof.Machine.execVmulh d a b e f t v s
  | .vdiv d a b e f t v => Sys2Proof.Machine.execVdiv d a b e f t v s
  | .vrem d a b e f t v => Sys2Proof.Machine.execVrem d a b e f t v s
  | .vmin d a b e f t v => Sys2Proof.Machine.execVmin d a b e f t v s
  | .vmax d a b e f t v => Sys2Proof.Machine.execVmax d a b e f t v s
  | .vand d a b e f t v => Sys2Proof.Machine.execVand d a b e f t v s
  | .vor d a b e f t v => Sys2Proof.Machine.execVor d a b e f t v s
  | .vxor d a b e f t v => Sys2Proof.Machine.execVxor d a b e f t v s
  | .vshl d a b e f t v => Sys2Proof.Machine.execVshl d a b e f t v s
  | .vshr d a b e f t v => Sys2Proof.Machine.execVshr d a b e f t v s
  | .vrot d a b e f t v => Sys2Proof.Machine.execVrot d a b e f t v s
  | .vfadd d a b e f t v => Sys2Proof.Machine.execVfadd d a b e f t v s
  | .vfsub d a b e f t v => Sys2Proof.Machine.execVfsub d a b e f t v s
  | .vfmul d a b e f t v => Sys2Proof.Machine.execVfmul d a b e f t v s
  | .vfdiv d a b e f t v => Sys2Proof.Machine.execVfdiv d a b e f t v s
  | .vfsqrt d a e t => Sys2Proof.Machine.execVfsqrt d a e t s
  | .vfmin d a b e f t v => Sys2Proof.Machine.execVfmin d a b e f t v s
  | .vfmax d a b e f t v => Sys2Proof.Machine.execVfmax d a b e f t v s
  | .vfma d a b c e t => Sys2Proof.Machine.execVfma d a b c e t s
  | .vfnma d a b c e t => Sys2Proof.Machine.execVfnma d a b c e t s
  | .vfexp2 d a e t => Sys2Proof.Machine.execVfexp2 d a e t s
  | .vflog2 d a e t => Sys2Proof.Machine.execVflog2 d a e t s
  | .vfrcp d a e t => Sys2Proof.Machine.execVfrcp d a e t s
  | .vfrsq d a e t => Sys2Proof.Machine.execVfrsq d a e t s
  | .vftanh d a e t => Sys2Proof.Machine.execVftanh d a e t s
  | .vabs d a e t v => Sys2Proof.Machine.execVabs d a e t v s
  | .vneg d a e t v => Sys2Proof.Machine.execVneg d a e t v s
  | .vcmp d a b e f t v => Sys2Proof.Machine.execVcmp d a b e f t v s
  | .vcmps d a b e f t v => Sys2Proof.Machine.execVcmps d a b e f t v s
  | .vfcmp d a b e f t v => Sys2Proof.Machine.execVfcmp d a b e f t v s
  | .vfcmps d a b e f t v => Sys2Proof.Machine.execVfcmps d a b e f t v s
  | .pand d a b e f => Sys2Proof.Machine.execPand d a b e f s
  | .por d a b e f => Sys2Proof.Machine.execPor d a b e f s
  | .pxor d a b e f => Sys2Proof.Machine.execPxor d a b e f s
  | .pandn d a b e f => Sys2Proof.Machine.execPandn d a b e f s
  | .pnot d a e => Sys2Proof.Machine.execPnot d a e s
  | .pcnt d a e => Sys2Proof.Machine.execPcnt d a e s
  | .pfirst d a e => Sys2Proof.Machine.execPfirst d a e s
  | .pset d a e k => Sys2Proof.Machine.execPset d a e k s
  | .ppack d => Sys2Proof.Machine.execPpack d s
  | .punpk a e => Sys2Proof.Machine.execPunpk a e s
  | .pmov d a e k => Sys2Proof.Machine.execPmov d a e k s
  | .fmaskp d a e k => Sys2Proof.Machine.execFmaskp d a e k s
  | .vmov d a e t => Sys2Proof.Machine.execVmov d a e t s
  | .vbcst d a e t => Sys2Proof.Machine.execVbcst d a e t s
  | .vext d a b e f t => Sys2Proof.Machine.execVext d a b e f t s
  | .vins d a b e f t => Sys2Proof.Machine.execVins d a b e f t s
  | .vslup d a b e f t => Sys2Proof.Machine.execVslup d a b e f t s
  | .vsldn d a b e f t => Sys2Proof.Machine.execVsldn d a b e f t s
  | .vcprs d a b e f t => Sys2Proof.Machine.execVcprs d a b e f t s
  | .vexpd d a b e f t => Sys2Proof.Machine.execVexpd d a b e f t s
  | .vperm d a b e f t => Sys2Proof.Machine.execVperm d a b e f t s
  | .viota d a e t v => Sys2Proof.Machine.execViota d a e t v s
  | .vsel d a b e f t => Sys2Proof.Machine.execVsel d a b e f t s
  | .vred d a b e f t v => Sys2Proof.Machine.execVred d a b e f t v s
  | .vfred d a b e f t v => Sys2Proof.Machine.execVfred d a b e f t v s
  | .vscan d a b e f t v => Sys2Proof.Machine.execVscan d a b e f t v s
  | .vfscan d a b e f t v => Sys2Proof.Machine.execVfscan d a b e f t v s
  | .vdot d a b e f t => Sys2Proof.Machine.execVdot d a b e f t s
  | .vld v a e t => Sys2Proof.Machine.execVld v a e t s
  | .vst v a e t => Sys2Proof.Machine.execVst v a e t s
  | .vldff v a e t => Sys2Proof.Machine.execVldff v a e t s
  | .vgth v a e b f t => Sys2Proof.Machine.execVgth v a e b f t s
  | .vsct v a e b f t => Sys2Proof.Machine.execVsct v a e b f t s
  | .vgthw v a e b f t x => Sys2Proof.Machine.execVgthw v a e b f t x s
  | .vlds v a e t => Sys2Proof.Machine.execVlds v a e t s
  | .vsts v a e t => Sys2Proof.Machine.execVsts v a e t s
  | .vgths v a e b f t => Sys2Proof.Machine.execVgths v a e b f t s
  | .vscts v a e b f t => Sys2Proof.Machine.execVscts v a e b f t s
  | .vspill v a e => Sys2Proof.Machine.execVspill v a e s
  | .vfill v a e => Sys2Proof.Machine.execVfill v a e s
  | .vldbc v a e t => Sys2Proof.Machine.execVldbc v a e t s
  | .vpref a e t k => Sys2Proof.Machine.execVpref a e t k s
  | .vldsg v a e t x => Sys2Proof.Machine.execVldsg v a e t x s
  | .vstsg v a e t x => Sys2Proof.Machine.execVstsg v a e t x s
  | .vcvt d a u e t v => Sys2Proof.Machine.execVcvt d a u e t v s
  | .vcvti d a u e t v => Sys2Proof.Machine.execVcvti d a u e t v s
  | .vicvt d a u e t v => Sys2Proof.Machine.execVicvt d a u e t v s
  | .vnarw d a u e t => Sys2Proof.Machine.execVnarw d a u e t s
  | .vwidn d a u e t => Sys2Proof.Machine.execVwidn d a u e t s
  | .vqnt d a b e f q g => Sys2Proof.Machine.execVqnt d a b e f q g s
  | .vdqnt d a b e f q g => Sys2Proof.Machine.execVdqnt d a b e f q g s
  | .vbscl d a e q g => Sys2Proof.Machine.execVbscl d a e q g s
  | .vfrnd d a e t v => Sys2Proof.Machine.execVfrnd d a e t v s
  | .vfcls d a e t => Sys2Proof.Machine.execVfcls d a e t s
  | .vpk d a b e f t => Sys2Proof.Machine.execVpk d a b e f t s
  | .vupk d a e t v => Sys2Proof.Machine.execVupk d a e t v s
  | .vbswp d a e t => Sys2Proof.Machine.execVbswp d a e t s
  | .vclz d a e t v => Sys2Proof.Machine.execVclz d a e t v s
  | .vpopc d a e t => Sys2Proof.Machine.execVpopc d a e t s
  | .vhash d a b e f => Sys2Proof.Machine.execVhash d a b e f s
  | .mlatch d a b e f t => Sys2Proof.Machine.execMlatch d a b e f t s
  | .mlatchv a b e f t => Sys2Proof.Machine.execMlatchv a b e f t s
  | .mop d a b e f t k g => Sys2Proof.Machine.execMop d a b e f t k g s
  | .mopSp d a b e f t k g => Sys2Proof.Machine.execMopSp d a b e f t k g s
  | .mopPair d a b e f t k g => Sys2Proof.Machine.execMopPair d a b e f t k g s
  | .mpstat d => Sys2Proof.Machine.execMpstat d s
  | .tzero d => Sys2Proof.Machine.execTzero d s
  | .tmov d a e => Sys2Proof.Machine.execTmov d a e s
  | .tadd d a e t => Sys2Proof.Machine.execTadd d a e t s
  | .tact d a e v t => Sys2Proof.Machine.execTact d a e v t s
  | .tstore d a b e f t v => Sys2Proof.Machine.execTstore d a b e f t v s
  | .tsave d a e k => Sys2Proof.Machine.execTsave d a e k s
  | .tload d a e k => Sys2Proof.Machine.execTload d a e k s
  | .trdv d a b e f t v => Sys2Proof.Machine.execTrdv d a b e f t v s
  | .twrv d a b e f t v => Sys2Proof.Machine.execTwrv d a b e f t v s
  | .tfill d a e t => Sys2Proof.Machine.execTfill d a e t s
  | .amo d a e sc o p t => Sys2Proof.Machine.execAmo d a e sc o p t s
  | .vamo d a e sc o p t => Sys2Proof.Machine.execVamo d a e sc o p t s
  | .vgll d a e sc o t => Sys2Proof.Machine.execVgll d a e sc o t s
  | .vscc d a e sc o p t => Sys2Proof.Machine.execVscc d a e sc o p t s
  | .samo d a e p t => Sys2Proof.Machine.execSamo d a e p t s
  | .sred d a e p t => Sys2Proof.Machine.execSred d a e p t s
  | .hacc d a e r o => Sys2Proof.Machine.execHacc d a e r o s
  | .waita d a e sc o c z => Sys2Proof.Machine.execWaita d a e sc o c z s
  | .vwait d a e sc o p c => Sys2Proof.Machine.execVwait d a e sc o p c s
  | .arrive d a e sc o x l n g => Sys2Proof.Machine.execArrive d a e sc o x l n g s
  | .await d a e sc l n g => Sys2Proof.Machine.execAwait d a e sc l n g s
  | .endph sc l n => Sys2Proof.Machine.execEndph sc l n s
  | .fence sc => Sys2Proof.Machine.execFence sc s
  | .mprint d a e => Sys2Proof.Machine.execMprint d a e s
  | .mprintFork d a e => Sys2Proof.Machine.execMprintFork d a e s
  | .mstrike d a e => Sys2Proof.Machine.execMstrike d a e s
  | .mquery d a e => Sys2Proof.Machine.execMquery d a e s
  | .mgrant d a e => Sys2Proof.Machine.execMgrant d a e s
  | .plshare d a e sc => Sys2Proof.Machine.execPlshare d a e sc s
  | .pldec a e sc => Sys2Proof.Machine.execPldec a e sc s
  | .ecmd d a e f => Sys2Proof.Machine.execEcmd d a e f s
  | .ecpoll d f => Sys2Proof.Machine.execEcpoll d f s
  | .ecfence d f => Sys2Proof.Machine.execEcfence d f s
  | .ecabort d a e f => Sys2Proof.Machine.execEcabort d a e f s
  | .ecstat d f => Sys2Proof.Machine.execEcstat d f s
  | .sleepto d a e f => Sys2Proof.Machine.execSleepto d a e f s
  | .eret => Sys2Proof.Machine.execEret s
  | .idle => Sys2Proof.Machine.execIdle s
  | .fencei => Sys2Proof.Machine.execFencei s
  | .dhalt => Sys2Proof.Machine.execDhalt s
  | .nop => Sys2Proof.Machine.execNop s
  | .lcont => Sys2Proof.Machine.execLcont s
  | .yield => Sys2Proof.Machine.execYield s
  | .strend => Sys2Proof.Machine.execStrend s
  | .strabt => Sys2Proof.Machine.execStrabt s
  | .sleep a e => Sys2Proof.Machine.execSleep a e s
  | .pause n => Sys2Proof.Machine.execPause n s
  | .setvli d n w => Sys2Proof.Machine.execSetvli d n w s
  | .hint im => Sys2Proof.Machine.execHint im s
  | .prchk d a e f => Sys2Proof.Machine.execPrchk d a e f s
  | .brkc a e im => Sys2Proof.Machine.execBrkc a e im s
  | .brk im => Sys2Proof.Machine.execBrk im s
  | .stripCommit k => Sys2Proof.Machine.execStripCommit k s
  | .rds k gen line pts lease => Sys2Proof.Machine.execRds k gen line pts lease s
  | .rnw k gen line pts lease wts epoch => Sys2Proof.Machine.execRnw k gen line pts lease wts epoch s
  | .rdo k gen line pts => Sys2Proof.Machine.execRdo k gen line pts s
  | .rdr k gen line pts => Sys2Proof.Machine.execRdr k gen line pts s
  | .val k gen line tc wts epoch => Sys2Proof.Machine.execVal k gen line tc wts epoch s
  | .wb o gen line ver wts rts data mask => Sys2Proof.Machine.execWb o gen line ver wts rts data mask s
  | .rel o gen line ver wts rts => Sys2Proof.Machine.execRel o gen line ver wts rts s
  | .nh o gen line ver => Sys2Proof.Machine.execNh o gen line ver s
  | .ppr k gen line => Sys2Proof.Machine.execPpr k gen line s
  | .ppa k gen line tp bytes mask => Sys2Proof.Machine.execPpa k gen line tp bytes mask s
  | .data k line code sectors wts leaseEnd => Sys2Proof.Machine.execData k line code sectors wts leaseEnd s
  | .rnok k line leaseEnd => Sys2Proof.Machine.execRnok k line leaseEnd s
  | .grant k line code sectors wts rts ver forRead => Sys2Proof.Machine.execGrant k line code sectors wts rts ver forRead s
  | .vok k line => Sys2Proof.Machine.execVok k line s
  | .vfail k line => Sys2Proof.Machine.execVfail k line s
  | .rcl o line ver mode => Sys2Proof.Machine.execRcl o line ver mode s
  | .idleRuleTick k => Sys2Proof.Machine.execIdleRuleTick k s
  | .repeatRule k => Sys2Proof.Machine.execRepeatRule k s
  | .rebase => Sys2Proof.Machine.execRebase s
  | .deadAgent o => Sys2Proof.Machine.execDeadAgent o s
  | .heatSweep line => Sys2Proof.Machine.execHeatSweep line s
  | .hostMemrd port line own => Sys2Proof.Machine.execHostMemrd port line own s
  | .hostMemwr port line bytes mask => Sys2Proof.Machine.execHostMemwr port line bytes mask s
  | .birspi line => Sys2Proof.Machine.execBirspi line s
  | .biasFlipDone frame => Sys2Proof.Machine.execBiasFlipDone frame s
  | .peerLoad src off size tag => Sys2Proof.Machine.execPeerLoad src off size tag s
  | .peerStore src off size bytes tag => Sys2Proof.Machine.execPeerStore src off size bytes tag s
  | .peerAtomic src off op ty sc s2 tag => Sys2Proof.Machine.execPeerAtomic src off op ty sc s2 tag s
  | .peerCompletion done => Sys2Proof.Machine.execPeerCompletion done s
  | .hostGlobalObservation k => Sys2Proof.Machine.execHostGlobalObservation k s
  | .persistenceFlushDone k => Sys2Proof.Machine.execPersistenceFlushDone k s
  | .flitReceive port head slots crc => Sys2Proof.Machine.execFlitReceive port head slots crc s
  | .portDown port => Sys2Proof.Machine.execPortDown port s
  | .retrainAttempt port cleanFlits => Sys2Proof.Machine.execRetrainAttempt port cleanFlits s
  | .retrainSuccess port => Sys2Proof.Machine.execRetrainSuccess port s
  | .moduleReset port0 port1 boot => Sys2Proof.Machine.execModuleReset port0 port1 boot s
  | .accountingInterval meters => Sys2Proof.Machine.execAccountingInterval meters s
  | .windowBoundary predicted cool => Sys2Proof.Machine.execWindowBoundary predicted cool s
  | .clockChange die step => Sys2Proof.Machine.execClockChange die step s
  | .thermalTrip => Sys2Proof.Machine.execThermalTrip s
  | .thermalShutdown => Sys2Proof.Machine.execThermalShutdown s
  | .correctedError r => Sys2Proof.Machine.execCorrectedError r s
  | .uncorrectableError r lost => Sys2Proof.Machine.execUncorrectableError r lost s
  | .wayRetireDone die slice => Sys2Proof.Machine.execWayRetireDone die slice s
  | .heartbeatMiss die => Sys2Proof.Machine.execHeartbeatMiss die s
  | .fencedDieReissue die => Sys2Proof.Machine.execFencedDieReissue die s
  | .slateFetch vi q => Sys2Proof.Machine.execSlateFetch vi q s
  | .slateAdmit vi q => Sys2Proof.Machine.execSlateAdmit vi q s
  | .stageReserve die slot => Sys2Proof.Machine.execStageReserve die slot s
  | .bind die row outer count saved => Sys2Proof.Machine.execBind die row outer count saved s
  | .dispatchStart k => Sys2Proof.Machine.execDispatchStart k s
  | .contextResume k => Sys2Proof.Machine.execContextResume k s
  | .slateComplete slot => Sys2Proof.Machine.execSlateComplete slot s
  | .preemptRequest k => Sys2Proof.Machine.execPreemptRequest k s
  | .contextSave k => Sys2Proof.Machine.execContextSave k s
  | .forcedPreempt k => Sys2Proof.Machine.execForcedPreempt k s
  | .tlbpinwaitExpiry k holder => Sys2Proof.Machine.execTlbpinwaitExpiry k holder s
  | .tlbinvDone k => Sys2Proof.Machine.execTlbinvDone k s
  | .faultBatchPost vi => Sys2Proof.Machine.execFaultBatchPost vi s
  | .eventPost ring kind cid detail pc => Sys2Proof.Machine.execEventPost ring kind cid detail pc s
  | .waitWake k line t => Sys2Proof.Machine.execWaitWake k line t s
  | .waitDeadline k => Sys2Proof.Machine.execWaitDeadline k s
  | .waitPoll k => Sys2Proof.Machine.execWaitPoll k s
  | .sleepWake k => Sys2Proof.Machine.execSleepWake k s
  | .sleeptoWake k => Sys2Proof.Machine.execSleeptoWake k s
  | .pauseEnd k => Sys2Proof.Machine.execPauseEnd k s
  | .pairStart k => Sys2Proof.Machine.execPairStart k s
  | .pairwaitExpiry k => Sys2Proof.Machine.execPairwaitExpiry k s
  | .matrixChunk k => Sys2Proof.Machine.execMatrixChunk k s
  | .engineSegmentIssue c => Sys2Proof.Machine.execEngineSegmentIssue c s
  | .dollyCopy c => Sys2Proof.Machine.execDollyCopy c s
  | .dollyFill c => Sys2Proof.Machine.execDollyFill c s
  | .dollyCopym c => Sys2Proof.Machine.execDollyCopym c s
  | .followOnMatrix c => Sys2Proof.Machine.execFollowOnMatrix c s
  | .castDispatch c => Sys2Proof.Machine.execCastDispatch c s
  | .mixCombine c => Sys2Proof.Machine.execMixCombine c s
  | .collPut c => Sys2Proof.Machine.execCollPut c s
  | .collReduce c => Sys2Proof.Machine.execCollReduce c s
  | .collSignal c => Sys2Proof.Machine.execCollSignal c s
  | .dailiesDelta c => Sys2Proof.Machine.execDailiesDelta c s
  | .engineFault c cause vaPage access detail => Sys2Proof.Machine.execEngineFault c cause vaPage access detail s
  | .commandComplete c => Sys2Proof.Machine.execCommandComplete c s
  | .modbudgetWrite value => Sys2Proof.Machine.execModbudgetWrite value s
  | .errorWindowWrite value => Sys2Proof.Machine.execErrorWindowWrite value s
  | .fwcmdInstall value => Sys2Proof.Machine.execFwcmdInstall value s
  | .fwUpdateDone result => Sys2Proof.Machine.execFwUpdateDone result s
  | .reccmdRecovery value => Sys2Proof.Machine.execReccmdRecovery value s
  | .recoveryDone result => Sys2Proof.Machine.execRecoveryDone result s
  | .attcmdRequest who value => Sys2Proof.Machine.execAttcmdRequest who value s
  | .attestationSigned => Sys2Proof.Machine.execAttestationSigned s
  | .owncmdWrite value => Sys2Proof.Machine.execOwncmdWrite value s
  | .owncmdDone => Sys2Proof.Machine.execOwncmdDone s
  | .victlEnable vi => Sys2Proof.Machine.execVictlEnable vi s
  | .victlDisable vi => Sys2Proof.Machine.execVictlDisable vi s
  | .victlDisableDone vi => Sys2Proof.Machine.execVictlDisableDone vi s
  | .hostRangeWrite vi k isSize value => Sys2Proof.Machine.execHostRangeWrite vi k isSize value s
  | .viticketsWrite vi value => Sys2Proof.Machine.execViticketsWrite vi value s
  | .ctxcmdCreate vi => Sys2Proof.Machine.execCtxcmdCreate vi s
  | .ctxcmdDestroy vi cid => Sys2Proof.Machine.execCtxcmdDestroy vi cid s
  | .ctxprivWrite value => Sys2Proof.Machine.execCtxprivWrite value s
  | .queueEnable vi q => Sys2Proof.Machine.execQueueEnable vi q s
  | .queueDisable vi q => Sys2Proof.Machine.execQueueDisable vi q s
  | .queueTicketsWrite vi q tickets => Sys2Proof.Machine.execQueueTicketsWrite vi q tickets s
  | .qtailWrite vi q value => Sys2Proof.Machine.execQtailWrite vi q value s
  | .fqbaseWrite vi value => Sys2Proof.Machine.execFqbaseWrite vi value s
  | .fqsizeWrite vi value => Sys2Proof.Machine.execFqsizeWrite vi value s
  | .fqheadWrite vi value => Sys2Proof.Machine.execFqheadWrite vi value s
  | .fqreplayRetry vi tag => Sys2Proof.Machine.execFqreplayRetry vi tag s
  | .fqreplayAbandon vi tag => Sys2Proof.Machine.execFqreplayAbandon vi tag s
  | .fqreplayReserved vi value => Sys2Proof.Machine.execFqreplayReserved vi value s
  | .cbcmdConvert vi index => Sys2Proof.Machine.execCbcmdConvert vi index s
  | .cbcmdRelease vi index => Sys2Proof.Machine.execCbcmdRelease vi index s
  | .cbcmdGrant vi index => Sys2Proof.Machine.execCbcmdGrant vi index s
  | .cbcmdNone vi => Sys2Proof.Machine.execCbcmdNone vi s
  | .cstataddrWrite vi value => Sys2Proof.Machine.execCstataddrWrite vi value s
  | .dbgcmdHalt vi => Sys2Proof.Machine.execDbgcmdHalt vi s
  | .dbgcmdRun vi => Sys2Proof.Machine.execDbgcmdRun vi s
  | .dbgcmdStep vi => Sys2Proof.Machine.execDbgcmdStep vi s
  | .dbgcmdStepGroup vi => Sys2Proof.Machine.execDbgcmdStepGroup vi s
  | .dbgcmdDump vi => Sys2Proof.Machine.execDbgcmdDump vi s
  | .linkctlRetrain ports => Sys2Proof.Machine.execLinkctlRetrain ports s
  | .tlbpinwaitWrite value => Sys2Proof.Machine.execTlbpinwaitWrite value s
  | .preemptdlWrite value => Sys2Proof.Machine.execPreemptdlWrite value s
  | .heatctlWrite value => Sys2Proof.Machine.execHeatctlWrite value s
  | .staledropRead die => Sys2Proof.Machine.execStaledropRead die s
  | .phovlRead die => Sys2Proof.Machine.execPhovlRead die s
  | .renewdRead die => Sys2Proof.Machine.execRenewdRead die s
  | .renewfRead die => Sys2Proof.Machine.execRenewfRead die s
  | .expevictRead die => Sys2Proof.Machine.execExpevictRead die s
  | .exprecallRead die => Sys2Proof.Machine.execExprecallRead die s
  | .incompRead die => Sys2Proof.Machine.execIncompRead die s
  | .poolexpRead die => Sys2Proof.Machine.execPoolexpRead die s
  | .mdhitRead die => Sys2Proof.Machine.execMdhitRead die s
  | .mdmissRead die => Sys2Proof.Machine.execMdmissRead die s
  | .mdueRead die => Sys2Proof.Machine.execMdueRead die s
  | .mdleakRead die => Sys2Proof.Machine.execMdleakRead die s
  | .fqstatRead vi => Sys2Proof.Machine.execFqstatRead vi s
  | .owncmdRead => Sys2Proof.Machine.execOwncmdRead s
  | .registerWrite win offset value => Sys2Proof.Machine.execRegisterWrite win offset value s
  | .stageBankOperation op => Sys2Proof.Machine.execStageBankOperation op s
  | .stageAnswer k bt result => Sys2Proof.Machine.execStageAnswer k bt result s
  | .longLatencyResult k r value => Sys2Proof.Machine.execLongLatencyResult k r value s
  | .peerDataReturn k value cause => Sys2Proof.Machine.execPeerDataReturn k value cause s
  | .hostReadCompletion line bytes => Sys2Proof.Machine.execHostReadCompletion line bytes s
  | .phaseReserveReply k line rts => Sys2Proof.Machine.execPhaseReserveReply k line rts s
  | .bisnpdatablkAnswer line dirty => Sys2Proof.Machine.execBisnpdatablkAnswer line dirty s
  | .ctxcmdDone vi => Sys2Proof.Machine.execCtxcmdDone vi s
  | .cbcmdDone vi => Sys2Proof.Machine.execCbcmdDone vi s
  | .hostRangeInvalidateDone vi => Sys2Proof.Machine.execHostRangeInvalidateDone vi s

end Sys2Proof.Machine
end

