-- ==== Sys2Proof/WellFormed.lean ====
section
/-!
DEFINITION. When an instruction is well formed: its function code is one its entry assigns (spec/13_encoding.md R295,
R299, R300; spec/18_sync.md R399) and the fields its form does not use are zero (R293, R296), as Decode.lean judges
them. An element type the entry does not accept, a register that does not exist and an empty source are judged later,
when it executes (R301). For a step without an encoding: its agent, die, interface, line and version numbers lie in
their ranges (R4, R50, R69, R151).
-/
namespace Sys2Proof

/-- The numbers a step without an encoding carries name something that exists. -/
def Instr.inRange : Instr → Bool
  | .stripCommit k | .idleRuleTick k | .repeatRule k | .hostGlobalObservation k
  | .dispatchStart k | .contextResume k | .preemptRequest k | .contextSave k
  | .forcedPreempt k | .tlbinvDone k | .waitDeadline k | .waitPoll k | .sleepWake k | .sleeptoWake k | .pauseEnd k
  | .pairStart k | .pairwaitExpiry k | .matrixChunk k | .stageAnswer k _ _ | .longLatencyResult k _ _ =>
    decide (k < 8192)
  | .peerCompletion ⟨k, _, _⟩ | .persistenceFlushDone k | .peerDataReturn k _ _ =>
    decide (k < 8224)
  | .rds k gen line _ _ | .rnw k gen line _ _ _ _ | .rdo k gen line _ | .rdr k gen line _ | .val k gen line _ _ _
  | .ppr k gen line | .ppa k gen line _ _ _ =>
    decide (k < 8192 ∧ gen < 16 ∧ line < 2 ^ 45)
  | .wb _ gen line ver _ _ _ _ | .rel _ gen line ver _ _ | .nh _ gen line ver =>
    decide (gen < 16 ∧ line < 2 ^ 45 ∧ ver < 256)
  | .data k line _ _ _ _ | .rnok k line _ | .vok k line | .vfail k line | .waitWake k line _
  | .phaseReserveReply k line _ =>
    decide (k < 8192 ∧ line < 2 ^ 45)
  | .grant k line _ _ _ _ ver _ =>
    decide (k < 8192 ∧ line < 2 ^ 45 ∧ ver < 256)
  | .rcl _ line ver _ =>
    decide (line < 2 ^ 45 ∧ ver < 256)
  | .rebase | .deadAgent .. | .peerLoad .. | .peerStore .. | .peerAtomic .. | .moduleReset ..
  | .accountingInterval .. | .windowBoundary .. | .thermalTrip | .thermalShutdown | .correctedError ..
  | .uncorrectableError .. | .eventPost .. | .engineSegmentIssue .. | .dollyCopy .. | .dollyFill ..
  | .dollyCopym .. | .followOnMatrix .. | .castDispatch .. | .mixCombine .. | .collPut .. | .collReduce ..
  | .collSignal .. | .dailiesDelta .. | .engineFault .. | .commandComplete .. | .modbudgetWrite ..
  | .errorWindowWrite .. | .fwcmdInstall .. | .fwUpdateDone .. | .reccmdRecovery .. | .recoveryDone ..
  | .attcmdRequest .. | .attestationSigned | .owncmdWrite .. | .owncmdDone | .ctxprivWrite .. | .linkctlRetrain ..
  | .tlbpinwaitWrite .. | .preemptdlWrite .. | .heatctlWrite .. | .owncmdRead | .registerWrite ..
  | .stageBankOperation .. =>
    true
  | .heatSweep line | .birspi line | .hostReadCompletion line _ | .bisnpdatablkAnswer line _ =>
    decide (line < 2 ^ 45)
  | .hostMemrd port line _ | .hostMemwr port line _ _ =>
    decide (port < 12 ∧ line < 2 ^ 45)
  | .biasFlipDone frame =>
    decide (frame < 2 ^ 40)
  | .flitReceive port _ _ _ | .portDown port | .retrainAttempt port _ | .retrainSuccess port =>
    decide (port < 12)
  | .clockChange die _ | .heartbeatMiss die | .fencedDieReissue die | .staledropRead die | .phovlRead die
  | .renewdRead die | .renewfRead die | .expevictRead die | .exprecallRead die | .incompRead die | .poolexpRead die
  | .mdhitRead die | .mdmissRead die | .mdueRead die | .mdleakRead die =>
    decide (die < 4)
  | .wayRetireDone die slice =>
    decide (die < 4 ∧ slice < 64)
  | .slateFetch vi q | .slateAdmit vi q | .queueEnable vi q | .queueDisable vi q | .queueTicketsWrite vi q _
  | .qtailWrite vi q _ =>
    decide (vi < 128 ∧ q < 64)
  | .stageReserve die slot =>
    decide (die < 4 ∧ slot < 1024)
  | .bind die row _ _ _ =>
    decide (die < 4 ∧ row < 2048)
  | .slateComplete slot =>
    decide (slot < 1024)
  | .tlbpinwaitExpiry k holder =>
    decide (k < 8192 ∧ holder < 8192)
  | .faultBatchPost vi | .victlEnable vi | .victlDisable vi | .victlDisableDone vi | .hostRangeWrite vi _ _ _
  | .viticketsWrite vi _ | .ctxcmdCreate vi | .ctxcmdDestroy vi _ | .fqbaseWrite vi _ | .fqsizeWrite vi _
  | .fqheadWrite vi _ | .fqreplayRetry vi _ | .fqreplayAbandon vi _ | .fqreplayReserved vi _ | .cbcmdConvert vi _
  | .cbcmdRelease vi _ | .cbcmdGrant vi _ | .cbcmdNone vi | .cstataddrWrite vi _ | .dbgcmdHalt vi | .dbgcmdRun vi
  | .dbgcmdStep vi | .dbgcmdStepGroup vi | .dbgcmdDump vi | .fqstatRead vi | .ctxcmdDone vi | .cbcmdDone vi
  | .hostRangeInvalidateDone vi =>
    decide (vi < 128)
  | .trapz .. | .ctlr .. | .ctlw .. | .ctls .. | .ctlc .. | .ctlx .. | .syscall .. | .eret | .idle | .tlbinv ..
  | .bflip .. | .enrd .. | .fencei | .dhalt | .dmark .. | .nop | .add .. | .sub .. | .mul .. | .mulh .. | .div ..
  | .rem .. | .min .. | .max .. | .and .. | .or .. | .xor .. | .andn .. | .shl .. | .shr .. | .rot .. | .cmp ..
  | .addi .. | .muli .. | .andi .. | .ori .. | .xori .. | .shli .. | .shri .. | .roti .. | .slti .. | .sltni ..
  | .seqi .. | .mini .. | .maxi .. | .divi .. | .remi .. | .subfi .. | .movi .. | .ldhi .. | .addpc .. | .clz ..
  | .ctz .. | .popc .. | .brev .. | .bswap .. | .ext .. | .ins .. | .sel .. | .mac .. | .abs .. | .cvtw ..
  | .crc .. | .hash .. | .fadd .. | .fsub .. | .fmul .. | .fdiv .. | .fsqrt .. | .fmin .. | .fmax .. | .fma ..
  | .fnma .. | .fcmp .. | .fcvt .. | .fcvti .. | .icvtf .. | .fclass .. | .fexp2 .. | .flog2 .. | .jmp ..
  | .call .. | .beqz .. | .bnez .. | .bltz .. | .bgez .. | .bgtz .. | .blez .. | .bpany .. | .bpnone .. | .jr ..
  | .callr .. | .loop .. | .lbrk .. | .lidx .. | .lcont | .ldb .. | .ldbn .. | .ldh .. | .ldhn .. | .ldw ..
  | .ldwn .. | .ldd .. | .stb .. | .sth .. | .stw .. | .std .. | .ldo .. | .sto .. | .sld .. | .sst .. | .pref ..
  | .vcfg .. | .setvl .. | .vadd .. | .vsub .. | .vmul .. | .vmulh .. | .vdiv .. | .vrem .. | .vmin .. | .vmax ..
  | .vand .. | .vor .. | .vxor .. | .vshl .. | .vshr .. | .vrot .. | .vfadd .. | .vfsub .. | .vfmul .. | .vfdiv ..
  | .vfsqrt .. | .vfmin .. | .vfmax .. | .vfma .. | .vfnma .. | .vfexp2 .. | .vflog2 .. | .vfrcp .. | .vfrsq ..
  | .vftanh .. | .vabs .. | .vneg .. | .vcmp .. | .vcmps .. | .vfcmp .. | .vfcmps .. | .pand .. | .por ..
  | .pxor .. | .pandn .. | .pnot .. | .pcnt .. | .pfirst .. | .pset .. | .ppack .. | .punpk .. | .pmov ..
  | .fmaskp .. | .vmov .. | .vbcst .. | .vext .. | .vins .. | .vslup .. | .vsldn .. | .vcprs .. | .vexpd ..
  | .vperm .. | .viota .. | .vsel .. | .vred .. | .vfred .. | .vscan .. | .vfscan .. | .vdot .. | .vld .. | .vst ..
  | .vldff .. | .vgth .. | .vsct .. | .vgthw .. | .vlds .. | .vsts .. | .vgths .. | .vscts .. | .vspill ..
  | .vfill .. | .vldbc .. | .vpref .. | .vldsg .. | .vstsg .. | .vcvt .. | .vcvti .. | .vicvt .. | .vnarw ..
  | .vwidn .. | .vqnt .. | .vdqnt .. | .vbscl .. | .vfrnd .. | .vfcls .. | .vpk .. | .vupk .. | .vbswp ..
  | .vclz .. | .vpopc .. | .vhash .. | .mlatch .. | .mlatchv .. | .mop .. | .mopSp .. | .mopPair .. | .mpstat ..
  | .tzero .. | .tmov .. | .tadd .. | .tact .. | .tstore .. | .tsave .. | .tload .. | .trdv .. | .twrv ..
  | .tfill .. | .amo .. | .vamo .. | .vgll .. | .vscc .. | .samo .. | .sred .. | .hacc .. | .waita .. | .vwait ..
  | .arrive .. | .await .. | .endph .. | .fence .. | .mprint .. | .mprintFork .. | .mstrike .. | .mquery ..
  | .mgrant .. | .plshare .. | .pldec .. | .ecmd .. | .ecpoll .. | .ecfence .. | .ecabort .. | .ecstat ..
  | .sleepto .. | .sleep .. | .pause .. | .yield | .setvli .. | .strend | .strabt | .hint .. | .prchk .. | .brkc ..
  | .brk .. =>
    true

/-- Some word of the spec encodes it (R291). -/
def Instr.isEncoded : Instr → Bool
  | .trapz .. | .ctlr .. | .ctlw .. | .ctls .. | .ctlc .. | .ctlx .. | .syscall .. | .eret | .idle | .tlbinv ..
  | .bflip .. | .enrd .. | .fencei | .dhalt | .dmark .. | .nop | .add .. | .sub .. | .mul .. | .mulh .. | .div ..
  | .rem .. | .min .. | .max .. | .and .. | .or .. | .xor .. | .andn .. | .shl .. | .shr .. | .rot .. | .cmp ..
  | .addi .. | .muli .. | .andi .. | .ori .. | .xori .. | .shli .. | .shri .. | .roti .. | .slti .. | .sltni ..
  | .seqi .. | .mini .. | .maxi .. | .divi .. | .remi .. | .subfi .. | .movi .. | .ldhi .. | .addpc .. | .clz ..
  | .ctz .. | .popc .. | .brev .. | .bswap .. | .ext .. | .ins .. | .sel .. | .mac .. | .abs .. | .cvtw ..
  | .crc .. | .hash .. | .fadd .. | .fsub .. | .fmul .. | .fdiv .. | .fsqrt .. | .fmin .. | .fmax .. | .fma ..
  | .fnma .. | .fcmp .. | .fcvt .. | .fcvti .. | .icvtf .. | .fclass .. | .fexp2 .. | .flog2 .. | .jmp ..
  | .call .. | .beqz .. | .bnez .. | .bltz .. | .bgez .. | .bgtz .. | .blez .. | .bpany .. | .bpnone .. | .jr ..
  | .callr .. | .loop .. | .lbrk .. | .lidx .. | .lcont | .ldb .. | .ldbn .. | .ldh .. | .ldhn .. | .ldw ..
  | .ldwn .. | .ldd .. | .stb .. | .sth .. | .stw .. | .std .. | .ldo .. | .sto .. | .sld .. | .sst .. | .pref ..
  | .vcfg .. | .setvl .. | .vadd .. | .vsub .. | .vmul .. | .vmulh .. | .vdiv .. | .vrem .. | .vmin .. | .vmax ..
  | .vand .. | .vor .. | .vxor .. | .vshl .. | .vshr .. | .vrot .. | .vfadd .. | .vfsub .. | .vfmul .. | .vfdiv ..
  | .vfsqrt .. | .vfmin .. | .vfmax .. | .vfma .. | .vfnma .. | .vfexp2 .. | .vflog2 .. | .vfrcp .. | .vfrsq ..
  | .vftanh .. | .vabs .. | .vneg .. | .vcmp .. | .vcmps .. | .vfcmp .. | .vfcmps .. | .pand .. | .por ..
  | .pxor .. | .pandn .. | .pnot .. | .pcnt .. | .pfirst .. | .pset .. | .ppack .. | .punpk .. | .pmov ..
  | .fmaskp .. | .vmov .. | .vbcst .. | .vext .. | .vins .. | .vslup .. | .vsldn .. | .vcprs .. | .vexpd ..
  | .vperm .. | .viota .. | .vsel .. | .vred .. | .vfred .. | .vscan .. | .vfscan .. | .vdot .. | .vld .. | .vst ..
  | .vldff .. | .vgth .. | .vsct .. | .vgthw .. | .vlds .. | .vsts .. | .vgths .. | .vscts .. | .vspill ..
  | .vfill .. | .vldbc .. | .vpref .. | .vldsg .. | .vstsg .. | .vcvt .. | .vcvti .. | .vicvt .. | .vnarw ..
  | .vwidn .. | .vqnt .. | .vdqnt .. | .vbscl .. | .vfrnd .. | .vfcls .. | .vpk .. | .vupk .. | .vbswp ..
  | .vclz .. | .vpopc .. | .vhash .. | .mlatch .. | .mlatchv .. | .mop .. | .mopSp .. | .mopPair .. | .mpstat ..
  | .tzero .. | .tmov .. | .tadd .. | .tact .. | .tstore .. | .tsave .. | .tload .. | .trdv .. | .twrv ..
  | .tfill .. | .amo .. | .vamo .. | .vgll .. | .vscc .. | .samo .. | .sred .. | .hacc .. | .waita .. | .vwait ..
  | .arrive .. | .await .. | .endph .. | .fence .. | .mprint .. | .mprintFork .. | .mstrike .. | .mquery ..
  | .mgrant .. | .plshare .. | .pldec .. | .ecmd .. | .ecpoll .. | .ecfence .. | .ecabort .. | .ecstat ..
  | .sleepto .. | .sleep .. | .pause .. | .yield | .setvli .. | .strend | .strabt | .hint .. | .prchk .. | .brkc ..
  | .brk .. =>
    true
  | .stripCommit .. | .rds .. | .rnw .. | .rdo .. | .rdr .. | .val .. | .wb .. | .rel .. | .nh .. | .ppr ..
  | .ppa .. | .data .. | .rnok .. | .grant .. | .vok .. | .vfail .. | .rcl .. | .idleRuleTick .. | .repeatRule ..
  | .rebase | .deadAgent .. | .heatSweep .. | .hostMemrd .. | .hostMemwr .. | .birspi .. | .biasFlipDone ..
  | .peerLoad .. | .peerStore .. | .peerAtomic .. | .peerCompletion .. | .hostGlobalObservation ..
  | .persistenceFlushDone .. | .flitReceive .. | .portDown .. | .retrainAttempt .. | .retrainSuccess ..
  | .moduleReset .. | .accountingInterval .. | .windowBoundary .. | .clockChange .. | .thermalTrip
  | .thermalShutdown | .correctedError .. | .uncorrectableError .. | .wayRetireDone .. | .heartbeatMiss ..
  | .fencedDieReissue .. | .slateFetch .. | .slateAdmit .. | .stageReserve .. | .bind .. | .dispatchStart ..
  | .contextResume .. | .slateComplete .. | .preemptRequest .. | .contextSave .. | .forcedPreempt ..
  | .tlbpinwaitExpiry .. | .tlbinvDone .. | .faultBatchPost .. | .eventPost .. | .waitWake .. | .waitDeadline ..
  | .waitPoll .. | .sleepWake .. | .sleeptoWake .. | .pauseEnd .. | .pairStart .. | .pairwaitExpiry ..
  | .matrixChunk .. | .engineSegmentIssue .. | .dollyCopy .. | .dollyFill .. | .dollyCopym .. | .followOnMatrix ..
  | .castDispatch .. | .mixCombine .. | .collPut .. | .collReduce .. | .collSignal .. | .dailiesDelta ..
  | .engineFault .. | .commandComplete .. | .modbudgetWrite .. | .errorWindowWrite .. | .fwcmdInstall ..
  | .fwUpdateDone .. | .reccmdRecovery .. | .recoveryDone .. | .attcmdRequest .. | .attestationSigned
  | .owncmdWrite .. | .owncmdDone | .victlEnable .. | .victlDisable .. | .victlDisableDone .. | .hostRangeWrite ..
  | .viticketsWrite .. | .ctxcmdCreate .. | .ctxcmdDestroy .. | .ctxprivWrite .. | .queueEnable ..
  | .queueDisable .. | .queueTicketsWrite .. | .qtailWrite .. | .fqbaseWrite .. | .fqsizeWrite .. | .fqheadWrite ..
  | .fqreplayRetry .. | .fqreplayAbandon .. | .fqreplayReserved .. | .cbcmdConvert .. | .cbcmdRelease ..
  | .cbcmdGrant .. | .cbcmdNone .. | .cstataddrWrite .. | .dbgcmdHalt .. | .dbgcmdRun .. | .dbgcmdStep ..
  | .dbgcmdStepGroup .. | .dbgcmdDump .. | .linkctlRetrain .. | .tlbpinwaitWrite .. | .preemptdlWrite ..
  | .heatctlWrite .. | .staledropRead .. | .phovlRead .. | .renewdRead .. | .renewfRead .. | .expevictRead ..
  | .exprecallRead .. | .incompRead .. | .poolexpRead .. | .mdhitRead .. | .mdmissRead .. | .mdueRead ..
  | .mdleakRead .. | .fqstatRead .. | .owncmdRead | .registerWrite .. | .stageBankOperation .. | .stageAnswer ..
  | .longLatencyResult .. | .peerDataReturn .. | .hostReadCompletion .. | .phaseReserveReply ..
  | .bisnpdatablkAnswer .. | .ctxcmdDone .. | .cbcmdDone .. | .hostRangeInvalidateDone .. => false

/-- An instruction some word of the spec encodes, or a step whose numbers are in range. -/
abbrev Instr.WellFormed (i : Instr) : Prop :=
  i.fnAssigned = true ∧ i.reservedZero = true ∧ i.inRange = true

end Sys2Proof
end

