-- ==== Sys2Proof/Machine/Fetch.lean ====
section
/-!
DEFINITION. What the machine does next: messages on their way and steps already caused, a sequencer's turn with the fetch of
its word (spec/13_encoding.md R301 to R303), what time brings (spec/05_scheduling.md R119, R120; spec/18_sync.md R406), the
element-step trap (spec/11_execution_state.md R266), and the director cores' own work (spec/05_scheduling.md R113, R124).
-/
namespace Sys2Proof.Machine

/-- A message arrives, or a step that was caused happens: the meaning of its row. -/
def runDue : Due → State → Out
  | .stripCommit k, s => execStripCommit k s
  | .rds k gen line pts lease, s => execRds k gen line pts lease s
  | .rnw k gen line pts lease wts epoch, s => execRnw k gen line pts lease wts epoch s
  | .rdo k gen line pts, s => execRdo k gen line pts s
  | .rdr k gen line pts, s => execRdr k gen line pts s
  | .val k gen line tc wts epoch, s => execVal k gen line tc wts epoch s
  | .wb o gen line ver wts rts bytes mask poison, s => execWb o gen line ver wts rts { bytes := bytes, poison := poison } mask s
  | .rel o gen line ver wts rts, s => execRel o gen line ver wts rts s
  | .nh o gen line ver, s => execNh o gen line ver s
  | .ppr k gen line, s => execPpr k gen line s
  | .ppa k gen line tp bytes mask, s => execPpa k gen line tp bytes mask s
  | .deviceWrite line, s => .next (homeDevice line s)
  | .deadAgent o, s => execDeadAgent o s
  | .data k line form wts leaseEnd, s => execData k line form.code form.toSectors wts leaseEnd s
  | .rnok k line leaseEnd, s => execRnok k line leaseEnd s
  | .grant k line form wts rts ver forRead, s => execGrant k line form.code form.toSectors wts rts ver forRead s
  | .vok k line, s => execVok k line s
  | .vfail k line, s => execVfail k line s
  | .rcl o line ver mode, s => execRcl o line ver mode s
  | .rebase, s => execRebase s
  | .hostMemrd port line own, s => execHostMemrd port line own s
  | .hostMemwr port line bytes mask, s => execHostMemwr port line bytes mask s
  | .biasFlipDone frame, s => execBiasFlipDone frame s
  | .peerLoad src off size tag, s => execPeerLoad src off size tag s
  | .peerStore src off size bytes tag, s => execPeerStore src off size bytes tag s
  | .peerAtomic src off op ty sc s2 tag, s => execPeerAtomic src off op ty sc s2 tag s
  | .wayRetireDone die slice, s => execWayRetireDone die slice s
  | .slateFetch vi q, s => execSlateFetch vi q s
  | .slateAdmit vi q, s => execSlateAdmit vi q s
  | .stageReserve die slot, s => execStageReserve die slot s
  | .dispatchStart k, s => execDispatchStart k s
  | .contextResume k, s => execContextResume k s
  | .slateComplete slot, s => execSlateComplete slot s
  | .contextSave k, s => execContextSave k s
  | .forcedPreempt k, s => execForcedPreempt k s
  | .tlbinvDone k, s => execTlbinvDone k s
  | .faultBatchPost vi, s => execFaultBatchPost vi s
  | .eventPost ring kind cid detail pc, s => execEventPost ring kind cid detail pc s
  | .waitWake k line t, s => execWaitWake k line t s
  | .pairStart k, s => execPairStart k s
  | .matrixChunk k, s => execMatrixChunk k s
  | .engineSegmentIssue c, s => execEngineSegmentIssue c s
  | .dollyCopy c, s => execDollyCopy c s
  | .dollyFill c, s => execDollyFill c s
  | .dollyCopym c, s => execDollyCopym c s
  | .followOnMatrix c, s => execFollowOnMatrix c s
  | .castDispatch c, s => execCastDispatch c s
  | .mixCombine c, s => execMixCombine c s
  | .collPut c, s => execCollPut c s
  | .collReduce c, s => execCollReduce c s
  | .collSignal c, s => execCollSignal c s
  | .dailiesDelta c, s => execDailiesDelta c s
  | .engineFault c cause vaPage access detail, s => execEngineFault c cause vaPage access detail s
  | .commandComplete c, s => execCommandComplete c s
  | .owncmdDone, s => execOwncmdDone s
  | .victlDisableDone vi, s => execVictlDisableDone vi s
  | .ctxcmdDone vi, s => execCtxcmdDone vi s
  | .cbcmdDone vi, s => execCbcmdDone vi s
  | .hostRangeInvalidateDone vi, s => execHostRangeInvalidateDone vi s
  | .repeatRule k, s => execRepeatRule k s
  | .stageBankOperation op, s => execStageBankOperation op s
  | .stageAnswer k bt result, s => execStageAnswer k bt result s
  | .longLatencyResult k r value, s => execLongLatencyResult k r value s
  | .phaseReserveReply k line rts, s => execPhaseReserveReply k line rts s

/-- The rows of the last primaries. -/
def runLast : LastRow → State → Out
  | .sleep a e, s => execSleep a e s
  | .pause n, s => execPause n s
  | .setvli d n w, s => execSetvli d n w s
  | .hint i, s => execHint i s
  | .prchk d a e f, s => execPrchk d a e f s
  | .brkc a e i, s => execBrkc a e i s
  | .brk i, s => execBrk i s

/-! ## Fetch (13 R303) -/

/-- A line through which the fetch needs its home: the host's, one that is flipping, one the host may hold modified. -/
def fetchOpens (x : Nat) (s : State) : Bool :=
  tierOf (128 * x) = .host || (s.flipping.find (frameOfLine x)).isSome || (needSnoop false x s).isSome

/-- The line that supplies a fetch: through a matte, the slot's where its record has one (04 R87). -/
def fetchLine (k : Agent) (va : Nat) (l : Leaf) (s : State) : Nat :=
  let x := lineOf (l.pa va)
  if !l.mv then x
  else
    let root := seqRoot k s
    let r := s.newest (lineOf (recordAddr root l.mid s))
    if bitsAt (recMask r) (x % 32) 1 = 1 then lineOf (slotAddr root (recPtr r (x % 32)) s) else x

/-- The record that a fetch goes through is poisoned. -/
def recordBad (k : Agent) (l : Leaf) (s : State) : Bool := l.mv && lineBad (lineOf (recordAddr (seqRoot k s) l.mid s)) s

/-- The word at a translated address, as the stores that have performed left it. -/
def fetchFrom (k : Agent) (va : Nat) (l : Leaf) (s : State) : Res Word32 :=
  let pa := l.pa va
  let x := fetchLine k va l s
  if tierOf pa = .peer then
    (readPeer pa 4 s).andThen fun r s => match r with
      | .ok v => .ok (BitVec.ofNat 32 v) (s.upd k fun q => { q with note := none })
      | .error e => .fault [scalarFault va .fetch e] s
  else if recordBad k l s then .trap 0x0C va s
  else if fetchOpens x s then
    (openLine .peek x (s.seq k).vi (.again k) false s).andThen fun h s =>
      if h.code = 15 then .trap 0x0C va s else .ok (BitVec.ofNat 32 (lineField h.data (pa % 128) 4)) s
  else if lineBad x s then .trap 0x0C va s
  else .ok (BitVec.ofNat 32 (lineField (lineNow x s) (pa % 128) 4)) s

/-- The word at the pc: one fetched before, or from memory by the translation of a fetch (log 13). -/
def fetchWord (k : Agent) (s : State) : Res Word32 :=
  let va := (s.seq k).pc.toNat
  match (s.seq k).fetched.find va with
  | some w => .ok w s
  | none =>
    (seqTranslate k va .fetch false s).andThen fun l s =>
      (fetchFrom k va l s).andThen fun w s =>
        .ok w ((endAccess k s).upd k fun q => { q with fetched := q.fetched.set va w })

/-! ## A sequencer's turn -/

/-- A fetched word is judged and executed (13 R301). -/
def runWord (k : Agent) (w : Word32) (s : State) : Out :=
  match decodeWord w.toNat with
  | .instr i => exec i s
  | .last r => runLast r s
  | .operand => .next (trapSeq k 0x03 w.toNat s)
  | .reserved => .next (trapSeq k 0x01 2 s)
  | .unassigned | .short => .next (trapSeq k 0x01 1 s)

/-- The element-step trap that is due: the strip commits first, then the trap is taken (11 R266). -/
def stepTrap (k e : Nat) (s : State) : State :=
  let q := s.seq k
  if q.strip.isSome then
    if q.allFull then (s.waitFor k .commit).post (.stripCommit k) else s.waitFor k .full
  else trapSeq k 0x10 e (s.upd k fun q => { q with estepDue := none })

/-- The entries of 128 B that a sequencer's results in flight take of its load queue (06 R127). -/
def Seq.queued (q : Seq) : Nat :=
  q.arrivals.foldl (fun n a => n + match a.reg with | .v _ => (q.c.rlen + 127) / 128 | _ => 1) 0

/-- The batch for stores that peers refused (02 R43, R45): one entry for each, first element 0 and count 1 (log 72). An answer of
retry sends them again. -/
def postRefused (k : Agent) (s : State) : State :=
  let bad := refusedStores k s
  let es := bad.map fun x =>
    ({ page := x.1.page % 2 ^ 57 / 4096 * 4096, access := 1, cause := x.2, first := 0, count := 1, detail := peerId x.1.addr } : FaultEntry)
  (postFaults k es (takeRefused k s)).upd k fun q => { q with peerRetry := bad.map Prod.fst }

/-- Between instructions, outside a strip, the sequencer posts what peers have refused. -/
def refusalDue (k : Agent) (s : State) : Bool :=
  let q := s.seq k
  q.strip.isNone && q.commit.isNone && q.note.isNone && refusedStores k s ≠ []

/-- A turn of the current sequencer `k`: values in flight land, all of them where its load queue has no room for more (06 R127),
then the word at the pc is fetched and executed. -/
def turn (k : Agent) (hold : Bool) (s : State) : Out :=
  let s := idleAdvance k s
  let s := if hold && decide ((s.seq k).queued ≤ 32) then s else s.upd k Seq.land
  match (s.seq k).estepDue with
  | some e => .next (stepTrap k e s)
  | none =>
    if refusalDue k s then .next (postRefused k s)
    else match fetchWord k s with
      | .ok w s => runWord k w s
      | .wait s => .next s
      | .trap c v s => .next (trapSeq k c v (endAccess k s))
      | .fault es s => .next (postFaults k es (endAccess k s))

/-- A sequencer can take a turn: it waits for nothing, or for a register whose value is in flight; one that is halted
finishes the instruction it is in. -/
def Seq.canTurn (q : Seq) : Bool :=
  q.bound.isSome && (!q.halted || q.note.isSome) && match q.wait with
    | .run => true
    | .full => !q.arrivals.isEmpty
    | _ => false

/-! ## What time brings -/

/-- The end of a wait that has come, or the pre-emption that is asked for. -/
def timed (k : Agent) (s : State) : Option Out :=
  let q := s.seq k
  if q.bound.isNone then none
  else if q.preempt.isSome && q.halted && q.strip.isSome && q.commit.isNone then some (.next (preemptNow k s))
  else if q.forceDue s && q.strip.isSome && q.commit.isNone then some (execForcedPreempt k s)
  else if q.preempt.isSome && q.land.saveReady then some (execContextSave k s)
  else match q.wait with
    | .sleep t => if t ≤ s.cycle then some (execSleepWake k s) else none
    | .pause t => if t ≤ s.cycle then some (execPauseEnd k s) else none
    | .sleepto _ _ t => if t ≤ s.cycle then some (execSleeptoWake k s) else none
    | .pair since => if since + q.c.pairwait.toNat ≤ s.cycle then some (execPairwaitExpiry k s) else none
    | .park p =>
      if p.deadline.any fun d => d ≤ s.cycle then some (execWaitDeadline k s)
      else if p.poll && decide (p.since + 1024 ≤ s.cycle) then some (execWaitPoll k s)
      else none
    | .inv => match q.inval with
      | some i =>
        if i.settled then some (execTlbinvDone k s)
        else if s.cycle < i.since + s.mgmt.tlbpinwait then none
        else (i.holders.find? fun h => (s.seq h).bound.isSome && (s.seq h).pinsNamed i && !(s.seq h).pinLate).map fun h =>
          execTlbpinwaitExpiry k h s
      | none => none
    | _ => none

/-- Something for sequencer `k` to do now. -/
def takesTurn (k : Agent) (s : State) : Bool := (timed k s).isSome || (s.seq k).canTurn

/-- What sequencer `k` does now. -/
def act (k : Agent) (hold : Bool) (s : State) : Out :=
  let s := { s with cur := k }
  match timed k s with
  | some o => o
  | none => if (s.seq k).canTurn then turn k hold s else .next s

/-- The sequencer whose turn is next, in rising order of number after the one before. -/
def nextSeq (s : State) : Option Agent :=
  let ks := s.seqs.map Prod.fst
  ((ks.filter fun k => decide (s.cur < k)) ++ ks.filter fun k => decide (k ≤ s.cur)).find? fun k => takesTurn k s

/-! ## The director cores -/

/-- With every context of the fenced dies saved, their work is dealt again (05 R124). -/
def reissueDue (s : State) : Option Out :=
  ((List.range 4).find? fun d => (s.die d).fenced && !(s.die d).reissued && savesOver d s).map fun d => .next (dealDie d s)

/-- Innermost indices of a slate that are bound. -/
def Slate.boundCount (sl : Slate) : Nat :=
  sl.bound.foldl (fun n e => e.2.foldl (fun n r => n + r.2) n) 0

/-- There is work to bind: indices that no entry holds and a save slot for them, or a saved context. -/
def workLeft (s : State) : Bool :=
  (s.slates.any fun e => !e.2.abandoned && decide (e.2.boundCount < e.2.outers * e.2.inner.extent)
    && (freeSlot e.2.vi e.2.cid s).isSome)
  || s.vis.any fun v => v.2.ctxs.any fun c => !c.2.lost && !c.2.dying
      && c.2.saved.any fun x => !(allEntries s).any fun e => e.2.resume && e.2.work = x.work

/-- The first free row of a core of a die. -/
def freeRow (d c : Nat) (s : State) : Option Nat :=
  (List.range 8).findSome? fun i =>
    let k := 2048 * d + 8 * c + i
    if (rowOf k s).isEmpty && takesWork k s then some (8 * c + i) else none

/-- Work is bound as soon as a row can take it: the first free row of the lowest core of the lowest die that some work
fits, one CHUNK, fresh before saved (log 2). -/
def bindDue (s : State) : Option State :=
  if !workLeft s then none
  else (liveDies s).findSome? fun d => (List.range 256).findSome? fun c => (freeRow d c s).bind fun r =>
    let t := bindEntry d r 0 1 0 s
    if (rowOf (2048 * d + r) t).isEmpty then none else some t

/-- Time passes. -/
def tick (dt : Nat) (s : State) : State := { s with cycle := s.cycle + dt }

/-! ## Messages in order (07 R154, R166) -/

/-- The channel of a message between an agent and a home: the agent, a sequencer's messages being those of its L1 slice, the line,
and whether it goes to the home (log 112). -/
def Due.channel : Due → Option (Nat × Nat × Bool)
  | .rds k _ x _ _ | .rnw k _ x _ _ _ _ | .rdo k _ x _ | .rdr k _ x _ | .val k _ x _ _ _ | .ppr k _ x | .ppa k _ x _ _ _ =>
    some (agentKey (l1Of (clusterOfSeq k) x), x, true)
  | .wb o _ x _ _ _ _ _ _ | .rel o _ x _ _ _ | .nh o _ x _ => some (agentKey o, x, true)
  | .data k x _ _ _ | .rnok k x _ | .grant k x _ _ _ _ _ | .vok k x | .vfail k x | .phaseReserveReply k x _ =>
    some (agentKey (l1Of (clusterOfSeq k) x), x, false)
  | .rcl o x _ _ => some (agentKey o, x, false)
  | _ => none

/-- A request of an agent, which the homes hold while a rebase is to come. -/
def Due.isRequest : Due → Bool
  | .rds .. | .rnw .. | .rdo .. | .rdr .. | .val .. | .ppr .. | .ppa .. => true
  | _ => false

/-- Whether two messages go one way between one agent and one home for one line. -/
def Due.sameWay (d e : Due) : Bool := d.channel.isSome && d.channel = e.channel

/-- A message is held over the rebase due at `r`: a request that came after it, and what follows such a request on its way. -/
def heldOver (ds : List Due) (r n : Nat) : Bool :=
  match ds[n]? with
  | some d => decide (r < n) && (d.isRequest || ((ds.take n).drop (r + 1)).any fun e => e.isRequest && e.sameWay d)
  | none => false

/-- What is delivered where message `n` is next: those of its way that were sent before it go first; a rebase waits for every
message in flight that it does not hold. -/
def nextDelivery (n : Nat) (s : State) : Nat :=
  let ds := s.due
  let first (n : Nat) : Nat := match ds[n]? with | some d => (ds.findIdx? fun e => e.sameWay d).getD n | none => n
  match ds.findIdx? fun d => d = Due.rebase with
  | none => first n
  | some r =>
    if n = r ∨ heldOver ds r n then
      ((List.range ds.length).find? fun j =>
        (match ds[j]? with | some d => d.channel.isSome | none => false) && !heldOver ds r j).getD r
    else first n

/-- The due message of a place happens. -/
def deliver (n : Nat) (s : State) : Out :=
  match s.due[n]? with
  | some d => runDue d { s with due := s.due.eraseIdx n }
  | none => .next s

/-- What the agenda says comes next (log 2). An encoded instruction is no event. -/
def runAgenda (a : Agenda) (s : State) : Out :=
  match a with
  | .turn k dt hold => act k hold (tick dt s)
  | .deliver n dt =>
    let s := tick dt s
    deliver (nextDelivery n s) s
  | .event i dt => if i.isEncoded then .next (tick dt s) else exec i (tick dt s)

/-- What comes next by itself: a message, then work to deal again or to bind, then a sequencer's turn; else time passes. -/
def runNext (s : State) : Out :=
  match s.due with
  | .rebase :: _ => deliver (nextDelivery 0 s) s
  | d :: ds => runDue d { s with due := ds }
  | [] =>
    match reissueDue s with
    | some o => o
    | none =>
      match bindDue s with
      | some t => .next t
      | none =>
        let s := tick 1 s
        match nextSeq s with
        | some k => act k false s
        | none => .next s

end Sys2Proof.Machine
end

