-- ==== Sys2Proof/Machine/Step.lean ====
section
/-!
DEFINITION. One step of the machine, and a state whose next step runs a given word.
-/
namespace Sys2Proof.Machine

/-- The module comes up again (spec/01_package.md R10). -/
def Agenda.isReset : Agenda → Bool
  | .event (.moduleReset ..) _ => true
  | _ => false

/-- One step: what the agenda names first, else what comes next by itself; once the module has powered off, only a module
reset (spec/01_package.md R17). -/
def step (s : State) : Host.Outcome State Fault Refusal :=
  match s.agenda with
  | a :: rest => if s.off && !a.isReset then .fault .poweredOff else runAgenda a { s with agenda := rest }
  | [] => if s.off then .fault .poweredOff else runNext s

/-- The frame that `withFetchWord` uses for the page of the pc. -/
def fetchFrame : Nat := 1

/-- The leaf of that page: valid, a leaf, writable, executable, accessed and written. -/
def fetchLeaf : Leaf := { entry := 0, level := 0, base := 4096 * fetchFrame, w0 := 0x106F, w1 := 0 }

/-- Sequencer 0 works for interface 0 and context 1 unless it is bound, may go on, and its next word is `w`: in memory at the
page its pc lies in, with the page's translation in its core's TLB (log 2). Nothing else comes first. -/
def State.withFetchWord (s : State) (nbits w : Nat) : State :=
  let q0 := s.seq 0
  let b : Binding := { slot := 0, vi := 0, cid := 1, q := 0, number := 1, outer := 0, first := 0, count := 1, saveSlot := 0 }
  let q : Seq := { q0 with
    bound := some (q0.bound.getD b), wait := .run, note := none, halted := false, preempt := none, estepDue := none, inval := none
    peerBad := [], came := []
    fetched := q0.fetched.erase q0.pc.toNat }
  let pa := 4096 * fetchFrame + q.pc.toNat % 4096
  let e : TlbEntry := { vi := q.vi, cid := q.cid, vpage := q.pc.toNat / 4096, log := 12, leaf := fetchLeaf }
  { s with
    off := false, agenda := [], due := [], cur := 8192
    mgmt := { s.mgmt with elect := false }
    dies := s.dies.map fun x => { x with reissued := true }
    seqs := s.seqs.set 0 q
    coreTlb := s.coreTlb.modify 0 [] fun es => e :: es
    owners := s.owners.set fetchFrame (0x80 + q.vi)
    homes := s.homes.erase (lineOf pa)
    poisoned := s.poisoned.filter (· ≠ lineOf pa)
    mem := s.mem.writeBytes pa (bytesOfWord (w % 2 ^ nbits)) }

end Sys2Proof.Machine
end

