-- ==== Sys2Proof/Safety.lean ====
section
/-!
DEFINITION. The terms in which claims speak: what counts as a safe run, when an instruction of the current sequencer may
execute (spec/13_encoding.md R301; spec/11_execution_state.md R240, R248), and the state it completes in.
-/
namespace Sys2Proof.Machine

/-! ## Safe runs -/

/-- Both byte memories are in canonical form (log 4). -/
def State.Canonical (s : State) : Prop := s.mem.wf = true ∧ s.stage.wf = true

/-- The next `n` steps all answer a next state: nothing stops the machine. -/
def SafeFor : Nat → State → Prop
  | 0, _ => True
  | n + 1, s => ∃ t, step s = .next t ∧ SafeFor n t

/-! ## When an instruction may execute -/

/-- The registers exist and are full. -/
def Seq.Ready (q : Seq) (rs : List RegRef) : Prop := ∀ r ∈ rs, q.exists_ r = true ∧ q.isFull r = true

/-- No strip is open and all g and p registers are full: what an instruction that closes a strip waits for. -/
def Seq.Closed (q : Seq) : Prop := q.strip = none ∧ q.allFull = true

/-- A value may be written to g[d]: below the stack limit it may not be sp (11 R270). -/
def Seq.Writable (q : Seq) (d : Nat) (v : DWord) : Prop := d = 31 → q.c.slim = 0 ∨ q.c.slim.toNat ≤ v.toNat

/-- The instruction holds no lines and uses no pages from an earlier attempt (07 R158; 04 R96). -/
def State.Fresh (s : State) : Prop := (s.me.holds = [] ∨ s.me.strip.isSome = true) ∧ s.me.inflight = []

/-! ## The state in which it completes -/

/-- The instruction of `s` retires after its effect has given `t`. -/
def State.retired (s t : State) (f : Flow) : State := (tidy s.cur (endAccess s.cur t)).upd s.cur fun q => q.retire s.me f

/-- The instruction of `s` retires after changing the current sequencer alone. -/
def State.done (s : State) (f : Seq → Seq) (fl : Flow) : State := s.updMe fun q => (f q).retire s.me fl

end Sys2Proof.Machine
end

