-- ==== Sys2Proof/Certificates/Slice0/Obligations.lean ====
section
/-!
DEFINITION. The statements for the provers, by rules of spec/, with the plain words (expected results, premises, frames) they are said in.
-/
namespace Sys2Proof.Claims

open Sys2Proof.Machine

/-! ## Integers (14 R304, R310 to R316) -/

/-- N of a type code: 8, 16, 32 or 64 (10 R214). -/
def width (t : Nat) : Nat := 8 * 2 ^ (t % 4)

/-- A source read under a type: its low N bits, signed for codes 0 to 3 (14 R304, R310). -/
def operand (t : Nat) (x : DWord) : Int :=
  if t < 4 then (x.setWidth (width t)).toInt else ((x.setWidth (width t)).toNat : Int)

/-- The 64 bits that a result of a type gives a register: its low N bits, extended (14 R304). -/
def result (t : Nat) (r : Int) : DWord :=
  if t < 4 then (BitVec.ofInt (width t) r).signExtend 64 else (BitVec.ofInt (width t) r).setWidth 64

/-- The bounds of a type. -/
def least (t : Nat) : Int := if t < 4 then -(2 ^ (width t - 1)) else 0
def greatest (t : Nat) : Int := if t < 4 then 2 ^ (width t - 1) - 1 else 2 ^ width t - 1

/-- The nearest value of the type's range. -/
def clamp (t : Nat) (r : Int) : Int := max (least t) (min (greatest t) r)

/-- FFLAGS.SAT and FFLAGS.DZ (10 R226). -/
def flagSat : BitVec 6 := 32
def flagDz : BitVec 6 := 2

/-- The number whose bit i, below n, is `b i`. -/
def ofBits (n : Nat) (b : Nat → Bool) : Nat := ((List.range n).map fun i => if b i then 2 ^ i else 0).sum

/-- An instruction that writes one g register: the register, the registers it reads, whether its types are accepted and its
fields allowed, the value and the flags. -/
structure ScalarOp where
  d : Nat
  srcs : List RegRef
  ok : Bool
  value : Seq → DWord
  flags : Seq → BitVec 6 := fun _ => 0

/-- Two sources of one type, an exact result, wrapped or (sat) clamped (14 R310). -/
def binary (d a b : BitVec 5) (t : BitVec 4) (sat : Bool) (f : Int → Int → Int) : ScalarOp :=
  let r (q : Seq) : Int := f (operand t.toNat (q.gRead a.toNat)) (operand t.toNat (q.gRead b.toNat))
  { d := d.toNat, srcs := [.g a.toNat, .g b.toNat], ok := decide (t.toNat < 8)
    value := fun q => result t.toNat (if sat then clamp t.toNat (r q) else r q)
    flags := fun q => if sat ∧ clamp t.toNat (r q) ≠ r q then flagSat else 0 }

/-- Two whole registers. -/
def whole (d a b : BitVec 5) (f : DWord → DWord → DWord) : ScalarOp :=
  { d := d.toNat, srcs := [.g a.toNat, .g b.toNat], ok := true, value := fun q => f (q.gRead a.toNat) (q.gRead b.toNat) }

/-- A whole register and the sign-extended immediate (14 R312). -/
def immediate (d a : BitVec 5) (i : BitVec 13) (f : DWord → DWord → DWord) : ScalarOp :=
  { d := d.toNat, srcs := [.g a.toNat], ok := true, value := fun q => f (q.gRead a.toNat) (i.signExtend 64) }

/-- One source. -/
def unary (d a : BitVec 5) (ok : Bool) (f : Seq → DWord → DWord) : ScalarOp :=
  { d := d.toNat, srcs := [.g a.toNat], ok := ok, value := fun q => f q (q.gRead a.toNat) }

/-- CMP's relations (14 R310). -/
def holds (cc : Nat) (x y : Int) : Bool :=
  if cc = 0 then decide (x = y) else if cc = 1 then decide (x ≠ y) else if cc = 2 then decide (x < y)
  else if cc = 3 then decide (x ≤ y) else if cc = 4 then decide (x > y) else decide (x ≥ y)

/-- One step of the CRC over a byte's bit (14 R316). -/
def crcShift (c : BitVec 32) : BitVec 32 := if c.getLsbD 0 then (c >>> 1) ^^^ 0x82F63B78 else c >>> 1

/-- CrcStep over the first `n` bytes of b (14 R316). -/
def crcBytes (c : BitVec 32) (b : DWord) (n : Nat) : BitVec 32 :=
  (List.range n).foldl (fun c k => (List.range 8).foldl (fun c _ => crcShift c) (c ^^^ ((b >>> (8 * k)).setWidth 8).setWidth 32)) c

/-- The result of every instruction of 14 R310 to R316 that writes a register at once: its destination, its sources, when its
operands are legal, its value and its flags. -/
def scalarOp : Instr → Option ScalarOp
  | .add d a b _ _ t v => some (binary d a b t (v = 1) fun x y => x + y)
  | .sub d a b _ _ t v => some (binary d a b t (v = 1) fun x y => x - y)
  | .mul d a b _ _ t v => some (binary d a b t (v = 1) fun x y => x * y)
  | .mulh d a b _ _ t _ => some (binary d a b t false fun x y => x * y / 2 ^ width t.toNat)
  | .min d a b _ _ t _ => some (binary d a b t false fun x y => min x y)
  | .max d a b _ _ t _ => some (binary d a b t false fun x y => max x y)
  | .shl d a b _ _ t _ => some (binary d a b t false fun x y => x * 2 ^ (y % width t.toNat).toNat)
  | .shr d a b _ _ t _ => some (binary d a b t false fun x y => x / 2 ^ (y % width t.toNat).toNat)
  | .rot d a b _ _ t v => some { binary d a b t false (fun x _ => x) with
      value := fun q =>
        let x := (q.gRead a.toNat).setWidth (width t.toNat)
        let n := (q.gRead b.toNat).toNat % width t.toNat
        result t.toNat ((if v = 1 then x.rotateLeft n else x.rotateRight n).toNat : Int) }
  | .cmp d a b _ _ t v => some { binary d a b t false (fun x _ => x) with
      value := fun q => if holds v.toNat (operand t.toNat (q.gRead a.toNat)) (operand t.toNat (q.gRead b.toNat)) then 1 else 0 }
  | .and d a b _ _ => some (whole d a b fun x y => x &&& y)
  | .or d a b _ _ => some (whole d a b fun x y => x ||| y)
  | .xor d a b _ _ => some (whole d a b fun x y => x ^^^ y)
  | .andn d a b _ _ => some (whole d a b fun x y => x &&& ~~~y)
  | .addi d a _ i => some (immediate d a i fun x y => x + y)
  | .muli d a _ i => some (immediate d a i fun x y => x * y)
  | .andi d a _ i => some (immediate d a i fun x y => x &&& y)
  | .ori d a _ i => some (immediate d a i fun x y => x ||| y)
  | .xori d a _ i => some (immediate d a i fun x y => x ^^^ y)
  | .subfi d a _ i => some (immediate d a i fun x y => y - x)
  | .slti d a _ i => some (immediate d a i fun x y => if x.toInt < y.toInt then 1 else 0)
  | .sltni d a _ i => some (immediate d a i fun x y => if x.toNat < y.toNat then 1 else 0)
  | .seqi d a _ i => some (immediate d a i fun x y => if x = y then 1 else 0)
  | .mini d a _ i => some (immediate d a i fun x y => BitVec.ofInt 64 (min x.toInt y.toInt))
  | .maxi d a _ i => some (immediate d a i fun x y => BitVec.ofInt 64 (max x.toInt y.toInt))
  | .shli d a _ i => some (unary d a true fun _ x => x <<< i.toNat)
  | .shri d a _ k i => some (unary d a true fun _ x => if k = 1 then x.sshiftRight i.toNat else x >>> i.toNat)
  | .roti d a _ i => some (unary d a true fun _ x => x.rotateRight i.toNat)
  | .movi d i => some { d := d.toNat, srcs := [], ok := true, value := fun _ => i.signExtend 64 }
  | .ldhi d i => some { d := d.toNat, srcs := [], ok := true, value := fun _ => i.setWidth 64 <<< 13 }
  | .addpc d i => some { d := d.toNat, srcs := [], ok := true, value := fun q => q.pc + 4 * i.signExtend 64 }
  | .clz d a _ t => some (unary d a (t.toNat < 8) fun _ x => BitVec.ofNat 64
      ((List.range (width t.toNat)).takeWhile fun i => !x.getLsbD (width t.toNat - 1 - i)).length)
  | .ctz d a _ t => some (unary d a (t.toNat < 8) fun _ x => BitVec.ofNat 64
      ((List.range (width t.toNat)).takeWhile fun i => !x.getLsbD i).length)
  | .popc d a _ t => some (unary d a (t.toNat < 8) fun _ x => BitVec.ofNat 64
      ((List.range (width t.toNat)).filter fun i => x.getLsbD i).length)
  | .brev d a _ t => some (unary d a (t.toNat < 8) fun _ x =>
      result t.toNat (ofBits (width t.toNat) fun i => x.getLsbD (width t.toNat - 1 - i)))
  | .bswap d a _ t => some (unary d a (t.toNat < 8 && t.toNat % 4 ≠ 0) fun _ x =>
      result t.toNat (ofBits (width t.toNat) fun i => x.getLsbD (8 * (width t.toNat / 8 - 1 - i / 8) + i % 8)))
  | .ext d a _ sx l p => some (unary d a (p.toNat + (l.toNat + 1) ≤ 64) fun _ x =>
      let f := (x >>> p.toNat).setWidth (l.toNat + 1)
      if sx = 1 then f.signExtend 64 else f.setWidth 64)
  | .ins d a _ l p => some { unary d a (p.toNat + (l.toNat + 1) ≤ 64) (fun q x => BitVec.ofNat 64 (ofBits 64 fun i =>
      if p.toNat ≤ i ∧ i < p.toNat + (l.toNat + 1) then x.getLsbD (i - p.toNat) else (q.gRead d.toNat).getLsbD i)) with
      srcs := [.g d.toNat, .g a.toNat] }
  | .sel d a b _ _ c => some { whole d a b (fun x _ => x) with
      srcs := [.g d.toNat, .g a.toNat, .g b.toNat]
      value := fun q =>
        let x := (q.gRead d.toNat).toInt
        let meets : Bool := if c = 0 then decide (x = 0) else if c = 1 then decide (x ≠ 0) else if c = 2 then decide (x < 0)
          else decide (0 ≤ x)
        if meets then q.gRead a.toNat else q.gRead b.toNat }
  | .mac d a b _ _ t v =>
      let r (q : Seq) : Int := operand t.toNat (q.gRead d.toNat)
        + operand t.toNat (q.gRead a.toNat) * operand t.toNat (q.gRead b.toNat)
      some { binary d a b t false (fun x _ => x) with
        srcs := [.g d.toNat, .g a.toNat, .g b.toNat]
        value := fun q => result t.toNat (if v = 1 then clamp t.toNat (r q) else r q)
        flags := fun q => if v = 1 ∧ clamp t.toNat (r q) ≠ r q then flagSat else 0 }
  | .abs d a _ t v =>
      let r (q : Seq) : Int := ((operand t.toNat (q.gRead a.toNat)).natAbs : Int)
      some { unary d a (t.toNat < 4) (fun q _ => result t.toNat (if v = 1 then clamp t.toNat (r q) else r q)) with
        flags := fun q => if v = 1 ∧ clamp t.toNat (r q) ≠ r q then flagSat else 0 }
  | .cvtw d a _ t u =>
      let r (q : Seq) : Int := operand u.toNat (q.gRead a.toNat)
      some { unary d a (t.toNat < 8) (fun q _ => result t.toNat (if q.c.fctl.getLsbD 3 then clamp t.toNat (r q) else r q)) with
        flags := fun q => if q.c.fctl.getLsbD 3 ∧ clamp t.toNat (r q) ≠ r q then flagSat else 0 }
  | .crc d a b _ _ t => some { whole d a b (fun x y => (crcBytes (x.setWidth 32) y (width t.toNat / 8)).setWidth 64) with
      ok := decide (4 ≤ t.toNat ∧ t.toNat < 8) }
  | .hash d a b _ _ => some (whole d a b fun x y =>
      let m := x ^^^ y.rotateRight 32
      let m := (m ^^^ (m >>> 33)) * 0xFF51AFD7ED558CCD
      let m := (m ^^^ (m >>> 33)) * 0xC4CEB9FE1A85EC53
      m ^^^ (m >>> 33))
  | _ => none

/-! ## Division and floating point (14 R305, R311, R317, R318) -/

/-- The mode a variant selects: 0 FCTL.RM, 1 to 5 a fixed mode (14 R317), with FCTL.SAT and element index 0 (14 R306). -/
def rounding (q : Seq) (v : Nat) : RoundCtl := q.round (if v = 0 then q.c.fctl.toNat % 8 else v - 1) 0

/-- The low N bits of a register read as a floating-point encoding. -/
def lowBits (t : Nat) (x : DWord) : Nat := x.toNat % 2 ^ typeBits t

/-- A floating-point result of one or two sources of type t. -/
def float2 (d : BitVec 5) (t : BitVec 4) (srcs : List (BitVec 5)) (f : Seq → Nat × BitVec 6) : ScalarOp :=
  { d := d.toNat, srcs := srcs.map fun r => .g r.toNat, ok := decide (11 ≤ t.toNat ∧ t.toNat ≤ 14)
    value := fun q => BitVec.ofNat 64 (f q).1, flags := fun q => (f q).2 }

/-- The results of the floating-point instructions that write at once. -/
def floatResult : Instr → Option ScalarOp
  | .fadd d a b _ _ t v => some (float2 d t [a, b] fun q =>
      fAdd t.toNat (rounding q v.toNat) (lowBits t.toNat (q.gRead a.toNat)) (lowBits t.toNat (q.gRead b.toNat)))
  | .fsub d a b _ _ t v => some (float2 d t [a, b] fun q =>
      fSub t.toNat (rounding q v.toNat) (lowBits t.toNat (q.gRead a.toNat)) (lowBits t.toNat (q.gRead b.toNat)))
  | .fmul d a b _ _ t v => some (float2 d t [a, b] fun q =>
      fMul t.toNat (rounding q v.toNat) (lowBits t.toNat (q.gRead a.toNat)) (lowBits t.toNat (q.gRead b.toNat)))
  | .fmin d a b _ _ t v => some (float2 d t [a, b] fun q =>
      fMinMax t.toNat false (v = 1) (lowBits t.toNat (q.gRead a.toNat)) (lowBits t.toNat (q.gRead b.toNat)))
  | .fmax d a b _ _ t v => some (float2 d t [a, b] fun q =>
      fMinMax t.toNat true (v = 1) (lowBits t.toNat (q.gRead a.toNat)) (lowBits t.toNat (q.gRead b.toNat)))
  | .fcmp d a b _ _ t v => some (float2 d t [a, b] fun q =>
      let r := fCompare t.toNat v.toNat (lowBits t.toNat (q.gRead a.toNat)) (lowBits t.toNat (q.gRead b.toNat))
      (if r.1 then 1 else 0, r.2))
  | .fma d a b c _ t => some { float2 d 11 [a, b, c] (fun q =>
      fFma (11 + t.toNat) (rounding q 0) false (lowBits (11 + t.toNat) (q.gRead a.toNat))
        (lowBits (11 + t.toNat) (q.gRead b.toNat)) (lowBits (11 + t.toNat) (q.gRead c.toNat))) with ok := decide (t.toNat < 4) }
  | .fnma d a b c _ t => some { float2 d 11 [a, b, c] (fun q =>
      fFma (11 + t.toNat) (rounding q 0) true (lowBits (11 + t.toNat) (q.gRead a.toNat))
        (lowBits (11 + t.toNat) (q.gRead b.toNat)) (lowBits (11 + t.toNat) (q.gRead c.toNat))) with ok := decide (t.toNat < 4) }
  | .fcvt d a u _ t v => some { float2 d t [a] (fun q =>
      cvtFloat t.toNat u.toNat (rounding q v.toNat) (lowBits u.toNat (q.gRead a.toNat))) with
      ok := decide (8 ≤ t.toNat ∧ t.toNat ≤ 14 ∧ 8 ≤ u.toNat ∧ u.toNat ≤ 14) }
  | .fcvti d a u _ t v => some { float2 d t [a] (fun q =>
      cvtFloatInt t.toNat u.toNat (rounding q v.toNat) (lowBits u.toNat (q.gRead a.toNat))) with
      ok := decide (t.toNat < 8 ∧ 8 ≤ u.toNat ∧ u.toNat ≤ 14)
      value := fun q =>
        result t.toNat (cvtFloatInt t.toNat u.toNat (rounding q v.toNat) (lowBits u.toNat (q.gRead a.toNat))).1 }
  | .icvtf d a u _ t v => some { float2 d t [a] (fun q =>
      cvtIntFloat t.toNat u.toNat (rounding q v.toNat) (lowBits u.toNat (q.gRead a.toNat))) with
      ok := decide (8 ≤ t.toNat ∧ t.toNat ≤ 14 ∧ u.toNat < 8) }
  | .fclass d a _ t => some { float2 d t [a] (fun q => (fClass t.toNat (lowBits t.toNat (q.gRead a.toNat)), 0)) with
      ok := decide (8 ≤ t.toNat ∧ t.toNat ≤ 14) }
  | _ => none

/-- DIV at a type: all ones for a zero divisor, else truncated (14 R311). -/
def quotient (t : Nat) (x y : DWord) : DWord :=
  if operand t y = 0 then result t (2 ^ width t - 1) else result t ((operand t x).tdiv (operand t y))

/-- REM at a type: the dividend for a zero divisor (14 R311). -/
def remainder (t : Nat) (x y : DWord) : DWord :=
  if operand t y = 0 then result t (operand t x) else result t ((operand t x).tmod (operand t y))

def zeroDivide (t : Nat) (y : DWord) : BitVec 6 := if operand t y = 0 then flagDz else 0

/-- The results of the instructions that mark their destination empty at issue (14 R305). -/
def lateResult : Instr → Option ScalarOp
  | .div d a b _ _ t _ => some { binary d a b t false (fun x _ => x) with
      value := fun q => quotient t.toNat (q.gRead a.toNat) (q.gRead b.toNat)
      flags := fun q => zeroDivide t.toNat (q.gRead b.toNat) }
  | .rem d a b _ _ t _ => some { binary d a b t false (fun x _ => x) with
      value := fun q => remainder t.toNat (q.gRead a.toNat) (q.gRead b.toNat)
      flags := fun q => zeroDivide t.toNat (q.gRead b.toNat) }
  | .divi d a _ i => some { immediate d a i (quotient 3) with flags := fun _ => zeroDivide 3 (i.signExtend 64) }
  | .remi d a _ i => some { immediate d a i (remainder 3) with flags := fun _ => zeroDivide 3 (i.signExtend 64) }
  | .fdiv d a b _ _ t v => some (float2 d t [a, b] fun q =>
      fDiv t.toNat (rounding q v.toNat) (lowBits t.toNat (q.gRead a.toNat)) (lowBits t.toNat (q.gRead b.toNat)))
  | .fsqrt d a _ t v => some (float2 d t [a] fun q => fSqrt t.toNat (rounding q v.toNat) (lowBits t.toNat (q.gRead a.toNat)))
  | .fexp2 d a _ t v => some (float2 d t [a] fun q => fExp2 t.toNat (rounding q v.toNat) (lowBits t.toNat (q.gRead a.toNat)))
  | .flog2 d a _ t v => some (float2 d t [a] fun q => fLog2 t.toNat (rounding q v.toNat) (lowBits t.toNat (q.gRead a.toNat)))
  | _ => none

/-! ## Control registers (11 R244, R245; 14 R308) -/

/-- A control-register instruction: g[d], the number, g[a], and what is written from the old value and g[a]. -/
structure CtlMove where
  d : Option Nat
  n : Nat
  a : Option Nat
  write : Option (DWord → DWord → DWord)

def ctlMove : Instr → Option CtlMove
  | .ctlr d n => some { d := some d.toNat, n := n.toNat, a := none, write := none }
  | .ctlw a _ n => some { d := none, n := n.toNat, a := some a.toNat, write := some fun _ v => v }
  | .ctls d a _ n => some { d := some d.toNat, n := n.toNat, a := some a.toNat, write := some fun old v => old ||| v }
  | .ctlc d a _ n => some { d := some d.toNat, n := n.toNat, a := some a.toNat, write := some fun old v => old &&& ~~~v }
  | .ctlx d a _ n => some { d := some d.toNat, n := n.toNat, a := some a.toNat, write := some fun _ v => v }
  | _ => none

/-- CtlOp (14 R308): the old value to g[d], SREPLAY cleared by its read (11 R244), then the write. -/
def CtlMove.effect (m : CtlMove) (old v : DWord) (q : Seq) : Seq :=
  let q := match m.d with
    | some d =>
      let q := q.gSet d old
      if m.n = 0x1D then { q with n := { q.n with sreplay := 0 } } else q
    | none => q
  match m.write with
  | some f => ctlWrite m.n (f old v) q
  | none => q

/-- The registers of 11 R244 that a write changes, and what a register that was written reads as: its RW fields (11 R245;
10 R220, R226, R229, R230; 07 R152). -/
def ctlWritten (old v : DWord) : Nat → Option DWord
  | 0x03 => some (v &&& 0xFFFF)
  | 0x04 => some (v &&& 0xF)
  | 0x05 | 0x0C | 0x10 | 0x20 | 0x21 | 0x22 | 0x23 | 0x25 | 0x26 => some v
  | 0x07 => some v
  | 0x08 => some ((v &&& 0x18) ||| ((if v &&& 7 ≤ 4 then v else old) &&& 7))
  | 0x09 => some (v &&& 0x3F)
  | 0x0A => some (v &&& 0x7F)
  | 0x0B => some (v &&& 0x1FFFFFFFFFFFFFE)
  | 0x0F => some (if v = 0 then 1 else if v.toNat > 4096 then 4096 else v)
  | 0x1C => some (if v = 0 then 1 else v)
  | 0x24 => some ((old &&& 0x2) ||| (v &&& 0xD))
  | _ => none

/-- The registers of 11 R244 that no write changes: RO and RC, and the numbers that are not assigned. -/
def ctlReadOnly (n : Nat) : Bool :=
  n ∈ [0x00, 0x01, 0x02, 0x06, 0x0D, 0x0E, 0x11, 0x12, 0x13, 0x14, 0x15, 0x16, 0x17, 0x18, 0x19, 0x1A, 0x1B, 0x1D, 0x1E, 0x27,
    0x28, 0x29]

/-! ## Branches and loops (14 R319 to R325) -/

/-- A branch or jump: the registers it reads and writes, whether it may go on, its change of the sequencer, and where it goes. -/
structure BranchOp where
  regs : List RegRef
  ok : Seq → Bool := fun _ => true
  effect : Seq → Seq := id
  flow : Seq → Flow

/-- PC + 4 × off18. -/
def target (o : BitVec 18) (q : Seq) : DWord := q.pc + 4 * o.signExtend 64

def branchOn (a : BitVec 5) (o : BitVec 18) (c : Int → Bool) : BranchOp :=
  { regs := [.g a.toNat], flow := fun q => if c (q.gRead a.toNat).toInt then .jump (target o q) else .next }

/-- END of an entry: START + 4 × LEN (14 R322). -/
def endOf (e : LoopEntry) : DWord := e.start + 4 * BitVec.ofNat 64 e.len

def branchOp : Instr → Option BranchOp
  | .jmp o => some { regs := [], flow := fun q => .jump (target o q) }
  | .call o => some { regs := [.g 30], effect := fun q => q.gSet 30 (q.pc + 4), flow := fun q => .jump (target o q) }
  | .beqz a _ o => some (branchOn a o fun x => x = 0)
  | .bnez a _ o => some (branchOn a o fun x => x ≠ 0)
  | .bltz a _ o => some (branchOn a o fun x => x < 0)
  | .bgez a _ o => some (branchOn a o fun x => 0 ≤ x)
  | .bgtz a _ o => some (branchOn a o fun x => 0 < x)
  | .blez a _ o => some (branchOn a o fun x => x ≤ 0)
  | .bpany a _ o => some { regs := [.p a.toNat], flow := fun q =>
      if (List.range q.c.vl).any fun e => (q.pRead a.toNat).testBit e then .jump (target o q) else .next }
  | .bpnone a _ o => some { regs := [.p a.toNat], flow := fun q =>
      if (List.range q.c.vl).any fun e => (q.pRead a.toNat).testBit e then .next else .jump (target o q) }
  | .jr a _ i => some
      { regs := [.g a.toNat], ok := fun q => (q.gRead a.toNat + i.signExtend 64).toNat % 4 = 0
        flow := fun q => .jump (q.gRead a.toNat + i.signExtend 64) }
  | .callr d a _ i => some
      { regs := [.g d.toNat, .g a.toNat]
        ok := fun q => (q.gRead a.toNat + i.signExtend 64).toNat % 4 = 0
          && decide (d.toNat = 31 → q.c.slim = 0 ∨ q.c.slim.toNat ≤ (q.pc + 4).toNat)
        effect := fun q => q.gSet d.toNat (q.pc + 4), flow := fun q => .jump (q.gRead a.toNat + i.signExtend 64) }
  | .loop a _ o => some
      { regs := [.g a.toNat]
        ok := fun q =>
          let n := (q.gRead a.toNat).toNat
          decide (1 ≤ o.toInt ∧ o.toInt ≤ 65536 ∧ n ≤ 16777215) && (decide (n = 0) || decide (q.loops.length < 6))
        effect := fun q =>
          let n := (q.gRead a.toNat).toNat
          if n = 0 then q
          else { q with loops := { start := q.pc + 4, len := o.toNat - 1, count := n, index := 0 } :: q.loops }
        flow := fun q => if q.gRead a.toNat = 0 then .jump (target o q + 4) else .jump (q.pc + 4) }
  | .lbrk k => some
      { regs := [], ok := fun q => decide (0 < k.toNat ∧ k.toNat ≤ q.loops.length)
        effect := fun q => { q with loops := q.loops.drop k.toNat }
        flow := fun q => match q.loops[k.toNat - 1]? with
          | some e => .jump (endOf e + 4)
          | none => .next }
  | .lidx d k => some
      { regs := [.g d.toNat]
        ok := fun q => decide (k.toNat < q.loops.length) && decide (d.toNat = 31 → q.c.slim = 0 ∨
          q.c.slim.toNat ≤ (BitVec.ofNat 64 ((q.loops[k.toNat]?.map LoopEntry.index).getD 0)).toNat)
        effect := fun q => q.gSet d.toNat (BitVec.ofNat 64 ((q.loops[k.toNat]?.map LoopEntry.index).getD 0))
        flow := fun _ => .next }
  | .lcont => some
      { regs := [], ok := fun q => !q.loops.isEmpty
        effect := fun q => { q with loops := match q.loops with | e :: _ => (loopStep (endOf e) q.loops).1 | [] => [] }
        flow := fun q => match q.loops with | e :: _ => .jump (loopStep (endOf e) q.loops).2 | [] => .next }
  | _ => none

/-! ## Vector elements (15 R332 to R349) -/

/-- Element `e` of `w` bits of a register's bits (15 R332). -/
def element (x w e : Nat) : Nat := x / 2 ^ (w * e) % 2 ^ w

/-- Element e is active (15 R333). -/
def isActive (q : Seq) (e : Nat) : Bool := !q.c.vmask.getLsbD 3 || (q.pRead (q.c.vmask.toNat % 8)).testBit e

/-- The register that a masked instruction also reads. -/
def maskRegs (q : Seq) : List RegRef := if q.c.vmask.getLsbD 3 then [.p (q.c.vmask.toNat % 8)] else []

/-- The elements an element-wise instruction has still to do: below VL, active, from group VSTART (15 R334). -/
def pendingElems (q : Seq) (masked : Bool) : List Nat :=
  (List.range q.c.vl).filter fun e => decide (32 * q.c.vstart ≤ e) && (!masked || isActive q e)

/-- Those that it does now: all, or the first group of them under element stepping (11 R266). -/
def elemsNow (q : Seq) (masked : Bool) : List Nat :=
  match pendingElems q masked with
  | [] => []
  | e :: es => if q.grouped then (e :: es).filter fun i => i / 32 = e / 32 else e :: es

/-- Nothing is left to do after that. -/
def elemsDone (q : Seq) (masked : Bool) : Bool := decide ((elemsNow q masked).length = (pendingElems q masked).length)

/-- The group being done. -/
def groupNow (q : Seq) (masked : Bool) : Nat := (elemsNow q masked).headD 0 / 32

/-- VSTART afterwards: 0, or the next group. -/
def nextStart (q : Seq) (masked : Bool) : Nat := if elemsDone q masked then 0 else groupNow q masked + 1

/-- How the instruction goes on. -/
def elemFlow (q : Seq) (masked : Bool) : Flow := .group (32 * groupNow q masked) (elemsDone q masked)

/-- VSTART. -/
def startAt (n : Nat) (q : Seq) : Seq := { q with c := { q.c with vstart := n } }

/-- The flags of several results. -/
def allFlags (es : List Nat) (f : Nat → BitVec 6) : BitVec 6 := es.foldl (fun r e => r ||| f e) 0

/-- An instruction that writes elements of v[d]: the registers it reads, whether its types are accepted, the operand widths,
the width of a result, whether the long-latency unit answers, whether it is an instruction across elements (15 R334), how many
elements share one result (VBSCL's blocks, else 1), and each result with its flags. -/
structure VecOp where
  d : Nat
  srcs : List RegRef
  ok : Bool
  widths : List Nat
  w : Nat
  value : Seq → Nat → Nat × BitVec 6
  late : Bool := false
  block : Nat := 1

/-- The scalar counterpart's result on the elements' N-bit values (15 R341). -/
def intElem (t : Nat) (sat : Bool) (r : Int) : Nat × BitVec 6 :=
  ((result t (if sat then clamp t r else r)).toNat % 2 ^ width t, if sat ∧ clamp t r ≠ r then flagSat else 0)

/-- The b operand: an element, or the low bits of a g register in the .VS form (15 R335). -/
def elemB (q : Seq) (vs : Bool) (b : BitVec 5) (w e : Nat) : Nat :=
  if vs then (q.gRead b.toNat).toNat % 2 ^ w else element (q.vRead b.toNat) w e

def bReg (vs : Bool) (b : BitVec 5) : RegRef := if vs then .g b.toNat else .v b.toNat

/-- Two sources of one type. -/
def elems2 (d a b : BitVec 5) (vs : Bool) (t : BitVec 4) (ok : Bool) (f : Seq → Nat → Nat → Nat → Nat × BitVec 6) : VecOp :=
  let n := typeBits t.toNat
  { d := d.toNat, srcs := [.v a.toNat, bReg vs b], ok := ok, widths := [n], w := n
    value := fun q e => f q e (element (q.vRead a.toNat) n e) (elemB q vs b n e) }

/-- Two integer sources, as the scalar entry computes (15 R341). -/
def intElems (d a b : BitVec 5) (t : BitVec 4) (v : BitVec 3) (sat : Bool) (f : Int → Int → Int) : VecOp :=
  elems2 d a b (v.getLsbD 2) t (decide (t.toNat < 8)) fun _ _ x y =>
    intElem t.toNat (sat && v.getLsbD 0) (f (operand t.toNat (BitVec.ofNat 64 x)) (operand t.toNat (BitVec.ofNat 64 y)))

/-- Two floating-point sources. -/
def floatElems (d a b : BitVec 5) (t : BitVec 4) (v : BitVec 3) (f : RoundCtl → Nat → Nat → Nat × BitVec 6) : VecOp :=
  elems2 d a b (v.getLsbD 2) t (decide (11 ≤ t.toNat ∧ t.toNat ≤ 14)) fun q e x y =>
    f (q.round (q.c.fctl.toNat % 8) e) x y

/-- One source of type u and width, a result of another. -/
def elems1 (d a : BitVec 5) (t u : Nat) (ok : Bool) (f : Seq → Nat → Nat → Nat × BitVec 6) : VecOp :=
  { d := d.toNat, srcs := [.v a.toNat], ok := ok, widths := [typeBits t, typeBits u], w := typeBits t
    value := fun q e => f q e (element (q.vRead a.toNat) (typeBits u) e) }

/-- One floating-point source of the same type. -/
def floatElem (d a : BitVec 5) (t : BitVec 4) (f : RoundCtl → Nat → Nat × BitVec 6) : VecOp :=
  elems1 d a t.toNat t.toNat (decide (11 ≤ t.toNat ∧ t.toNat ≤ 14)) fun q e x => f (q.round (q.c.fctl.toNat % 8) e) x

/-- The rounding that a conversion's variant selects for element e (15 R348). -/
def roundingAt (q : Seq) (v e : Nat) : RoundCtl := q.round (if v = 0 then q.c.fctl.toNat % 8 else v - 1) e

/-- The masked element-wise instructions of 15 R341 to R343, R348 and R349. -/
def vecOp : Instr → Option VecOp
  | .vadd d a b _ _ t v => some (intElems d a b t v true fun x y => x + y)
  | .vsub d a b _ _ t v => some (intElems d a b t v true fun x y => x - y)
  | .vmul d a b _ _ t v => some (intElems d a b t v true fun x y => x * y)
  | .vmulh d a b _ _ t v => some (intElems d a b t v false fun x y => x * y / 2 ^ width t.toNat)
  | .vmin d a b _ _ t v => some (intElems d a b t v false fun x y => min x y)
  | .vmax d a b _ _ t v => some (intElems d a b t v false fun x y => max x y)
  | .vshl d a b _ _ t v => some (intElems d a b t v false fun x y => x * 2 ^ (y % width t.toNat).toNat)
  | .vshr d a b _ _ t v => some (intElems d a b t v false fun x y => x / 2 ^ (y % width t.toNat).toNat)
  | .vrot d a b _ _ t v => some (elems2 d a b (v.getLsbD 2) t (decide (t.toNat < 8)) fun _ _ x y =>
      let n := width t.toNat
      ((if v.getLsbD 0 then (BitVec.ofNat n x).rotateLeft (y % n) else (BitVec.ofNat n x).rotateRight (y % n)).toNat, 0))
  | .vdiv d a b _ _ t v => some { elems2 d a b (v.getLsbD 2) t (decide (t.toNat < 8)) (fun _ _ x y =>
      ((quotient t.toNat (BitVec.ofNat 64 x) (BitVec.ofNat 64 y)).toNat % 2 ^ width t.toNat,
        zeroDivide t.toNat (BitVec.ofNat 64 y))) with late := true }
  | .vrem d a b _ _ t v => some { elems2 d a b (v.getLsbD 2) t (decide (t.toNat < 8)) (fun _ _ x y =>
      ((remainder t.toNat (BitVec.ofNat 64 x) (BitVec.ofNat 64 y)).toNat % 2 ^ width t.toNat,
        zeroDivide t.toNat (BitVec.ofNat 64 y))) with late := true }
  | .vand d a b _ _ t v => some (elems2 d a b (v.getLsbD 2) t (decide (t.toNat < 15)) fun _ _ x y => (x &&& y, 0))
  | .vor d a b _ _ t v => some (elems2 d a b (v.getLsbD 2) t (decide (t.toNat < 15)) fun _ _ x y => (x ||| y, 0))
  | .vxor d a b _ _ t v => some (elems2 d a b (v.getLsbD 2) t (decide (t.toNat < 15)) fun _ _ x y => (x ^^^ y, 0))
  | .vfadd d a b _ _ t v => some (floatElems d a b t v fun c x y => fAdd t.toNat c x y)
  | .vfsub d a b _ _ t v => some (floatElems d a b t v fun c x y => fSub t.toNat c x y)
  | .vfmul d a b _ _ t v => some (floatElems d a b t v fun c x y => fMul t.toNat c x y)
  | .vfdiv d a b _ _ t v => some { floatElems d a b t v (fun c x y => fDiv t.toNat c x y) with late := true }
  | .vfmin d a b _ _ t v => some (floatElems d a b t v fun _ x y => fMinMax t.toNat false (v.getLsbD 0) x y)
  | .vfmax d a b _ _ t v => some (floatElems d a b t v fun _ x y => fMinMax t.toNat true (v.getLsbD 0) x y)
  | .vfsqrt d a _ t => some { floatElem d a t (fun c x => fSqrt t.toNat c x) with late := true }
  | .vfexp2 d a _ t => some { floatElem d a t (fun c x => fExp2 t.toNat c x) with late := true }
  | .vflog2 d a _ t => some { floatElem d a t (fun c x => fLog2 t.toNat c x) with late := true }
  | .vfrcp d a _ t => some { floatElem d a t (fun c x => fRcp t.toNat c x) with late := true }
  | .vfrsq d a _ t => some { floatElem d a t (fun c x => fRsq t.toNat c x) with late := true }
  | .vftanh d a _ t => some { floatElem d a t (fun c x => fTanh t.toNat c x) with late := true }
  | .vabs d a _ t v => some (elems1 d a t.toNat t.toNat
      (decide (t.toNat < 4) || (decide (v = 0) && decide (8 ≤ t.toNat ∧ t.toNat ≤ 14))) fun _ _ x =>
        if t.toNat < 4 then intElem t.toNat (v = 1) ((operand t.toNat (BitVec.ofNat 64 x)).natAbs : Int)
        else (x % 2 ^ (typeBits t.toNat - 1), 0))
  | .vneg d a _ t v => some (elems1 d a t.toNat t.toNat
      (decide (t.toNat < 4) || (decide (v = 0) && decide (8 ≤ t.toNat ∧ t.toNat ≤ 14))) fun _ _ x =>
        if t.toNat < 4 then intElem t.toNat (v = 1) (-operand t.toNat (BitVec.ofNat 64 x))
        else (x ^^^ 2 ^ (typeBits t.toNat - 1), 0))
  | .vfma d a b c _ t =>
      let n := typeBits (11 + t.toNat)
      some { d := d.toNat, srcs := [.v a.toNat, .v b.toNat, .v c.toNat], ok := decide (t.toNat < 4), widths := [n], w := n
             value := fun q e => fFma (11 + t.toNat) (q.round (q.c.fctl.toNat % 8) e) false (element (q.vRead a.toNat) n e)
               (element (q.vRead b.toNat) n e) (element (q.vRead c.toNat) n e) }
  | .vfnma d a b c _ t =>
      let n := typeBits (11 + t.toNat)
      some { d := d.toNat, srcs := [.v a.toNat, .v b.toNat, .v c.toNat], ok := decide (t.toNat < 4), widths := [n], w := n
             value := fun q e => fFma (11 + t.toNat) (q.round (q.c.fctl.toNat % 8) e) true (element (q.vRead a.toNat) n e)
               (element (q.vRead b.toNat) n e) (element (q.vRead c.toNat) n e) }
  | .vcvt d a u _ t v => some (elems1 d a t.toNat u.toNat (isFloat t.toNat && isFloat u.toNat) fun q e x =>
      cvtFloat t.toNat u.toNat (roundingAt q v.toNat e) x)
  | .vcvti d a u _ t v => some (elems1 d a t.toNat u.toNat (decide (t.toNat < 8) && isFloat u.toNat) fun q e x =>
      cvtFloatInt t.toNat u.toNat (roundingAt q v.toNat e) x)
  | .vicvt d a u _ t v => some (elems1 d a t.toNat u.toNat (isFloat t.toNat && decide (u.toNat < 8)) fun q e x =>
      cvtIntFloat t.toNat u.toNat (roundingAt q v.toNat e) x)
  | .vnarw d a u _ t => some (elems1 d a t.toNat u.toNat (decide (t.toNat < 8 ∧ u.toNat < 8 ∧ width t.toNat < width u.toNat))
      fun q _ x => intElem t.toNat (q.c.fctl.getLsbD 3) (operand u.toNat (BitVec.ofNat 64 x)))
  | .vwidn d a u _ t => some (elems1 d a t.toNat u.toNat (decide (t.toNat < 8 ∧ u.toNat < 8 ∧ width u.toNat < width t.toNat))
      fun q _ x => intElem t.toNat (q.c.fctl.getLsbD 3) (operand u.toNat (BitVec.ofNat 64 x)))
  | .vfrnd d a _ t v => some (elems1 d a t.toNat t.toNat (decide (11 ≤ t.toNat ∧ t.toNat ≤ 14)) fun q e x =>
      fIntegral t.toNat (roundingAt q v.toNat e) x)
  | .vfcls d a _ t => some { elems1 d a 5 t.toNat (isFloat t.toNat) (fun _ _ x => (fClass t.toNat x, 0)) with
      widths := [16, typeBits t.toNat] }
  | .vpk d a b _ _ t =>
      let n := typeBits t.toNat
      some { elems2 d a b false t (decide (t.toNat < 15)) (fun _ _ x _ => (x, 0)) with
        value := fun q e => (if e % 2 = 0 then element (q.vRead a.toNat) n (e / 2) else element (q.vRead b.toNat) n (e / 2), 0) }
  | .vupk d a _ t v =>
      let n := typeBits t.toNat
      some { elems1 d a t.toNat t.toNat (decide (t.toNat < 15)) (fun _ _ x => (x, 0)) with
        value := fun q e => (if 2 * e + v.toNat < q.c.vl then element (q.vRead a.toNat) n (2 * e + v.toNat) else 0, 0) }
  | .vbswp d a _ t => some (elems1 d a t.toNat t.toNat (decide (t.toNat < 8 ∧ t.toNat % 4 ≠ 0)) fun _ _ x =>
      (ofBits (width t.toNat) fun i => x.testBit (8 * (width t.toNat / 8 - 1 - i / 8) + i % 8), 0))
  | .vclz d a _ t v => some (elems1 d a t.toNat t.toNat (decide (t.toNat < 8)) fun _ _ x =>
      (((List.range (width t.toNat)).takeWhile fun i => !x.testBit (if v = 1 then i else width t.toNat - 1 - i)).length, 0))
  | .vpopc d a _ t => some (elems1 d a t.toNat t.toNat (decide (t.toNat < 8)) fun _ _ x =>
      (((List.range (width t.toNat)).filter fun i => x.testBit i).length, 0))
  | .vhash d a b _ _ => some
      { d := d.toNat, srcs := [.v a.toNat, .v b.toNat], ok := true, widths := [64], w := 64
        value := fun q e =>
          let y := BitVec.ofNat 64 (element (q.vRead b.toNat) 64 e)
          let m := BitVec.ofNat 64 (element (q.vRead a.toNat) 64 e) ^^^ y.rotateRight 32
          let m := (m ^^^ (m >>> 33)) * 0xFF51AFD7ED558CCD
          let m := (m ^^^ (m >>> 33)) * 0xC4CEB9FE1A85EC53
          ((m ^^^ (m >>> 33)).toNat, 0) }
  | .vqnt d a b _ _ t g =>
      some { d := d.toNat, srcs := [.v a.toNat, .v b.toNat], ok := decide (8 ≤ t.toNat ∧ t.toNat ≤ 10), widths := [32]
             w := typeBits t.toNat
             value := fun q e => encodeScaled t.toNat (q.round (q.c.fctl.toNat % 8) e)
               (element (q.vRead b.toNat) 16 (e / (4 * 2 ^ g.toNat))) (decodeFloat 13 (element (q.vRead a.toNat) 32 e)) }
  | .vdqnt d a b _ _ t g =>
      some { d := d.toNat, srcs := [.v a.toNat, .v b.toNat], ok := decide (8 ≤ t.toNat ∧ t.toNat ≤ 10), widths := [32], w := 32
             value := fun q e => decodeScaled t.toNat (element (q.vRead b.toNat) 16 (e / (4 * 2 ^ g.toNat)))
               (element (q.vRead a.toNat) (typeBits t.toNat) e) }
  | .vbscl d a _ t g =>
      let bl := 4 * 2 ^ g.toNat
      some { d := d.toNat, srcs := [.v a.toNat], ok := decide (8 ≤ t.toNat ∧ t.toNat ≤ 10 ∧ 1 ≤ g.toNat), widths := [32], w := 16
             block := bl
             value := fun q k => (blockScale t.toNat (((elemsNow q true).filter fun e => e / bl = k).map fun e =>
               decodeFloat 13 (element (q.vRead a.toNat) 32 e)), 0) }
  | _ => none

/-- The bits of v[d] afterwards. -/
def VecOp.Written (o : VecOp) (q : Seq) (x : Nat) : Prop :=
  ∀ k b, b < o.w → x.testBit (o.w * k + b) =
    if k ∈ (elemsNow q true).map (· / o.block) then ((o.value q k).1).testBit b else (q.vRead o.d).testBit (o.w * k + b)

/-- The flags that the results set. -/
def VecOp.flags (o : VecOp) (q : Seq) : BitVec 6 :=
  if o.block = 1 then allFlags (elemsNow q true) fun e => (o.value q e).2 else 0

/-- The state in which it completes with the bits x. -/
def VecOp.final (o : VecOp) (s : State) (x : Nat) : State :=
  let f (q : Seq) : Seq := startAt (nextStart s.me true) (q.raise (o.flags s.me))
  if o.late then (s.done (fun q => (f q).setFull (.v o.d) false) (elemFlow s.me true)).post
    (.longLatencyResult s.cur (.v o.d) x)
  else s.done (fun q => (f q).vSet o.d x) (elemFlow s.me true)

/-- An instruction that writes p[d] element by element. -/
structure PredOp where
  d : Nat
  srcs : List RegRef
  ok : Bool
  widths : List Nat
  masked : Bool
  value : Seq → Nat → Bool × BitVec 6

def comparing (d a b : BitVec 5) (vs : Bool) (t : BitVec 4) (ok : Bool) (f : Nat → Nat → Bool × BitVec 6) : PredOp :=
  let n := typeBits t.toNat
  { d := d.toNat, srcs := [.v a.toNat, bReg vs b], ok := ok, widths := [n], masked := true
    value := fun q e => f (element (q.vRead a.toNat) n e) (elemB q vs b n e) }

def predOf (d : BitVec 5) (srcs : List (BitVec 5)) (f : Seq → Nat → Bool) : PredOp :=
  { d := d.toNat, srcs := srcs.map fun r => .p r.toNat, ok := true, widths := [], masked := false, value := fun q e => (f q e, 0) }

/-- Compares and predicate logic (15 R344, R345). -/
def predOp : Instr → Option PredOp
  | .vcmp d a b _ _ t v => some (comparing d a b false t (decide (t.toNat < 8)) fun x y =>
      (holds v.toNat (operand t.toNat (BitVec.ofNat 64 x)) (operand t.toNat (BitVec.ofNat 64 y)), 0))
  | .vcmps d a b _ _ t v => some (comparing d a b true t (decide (t.toNat < 8)) fun x y =>
      (holds v.toNat (operand t.toNat (BitVec.ofNat 64 x)) (operand t.toNat (BitVec.ofNat 64 y)), 0))
  | .vfcmp d a b _ _ t v => some (comparing d a b false t (isFloat t.toNat) fun x y => fCompare t.toNat v.toNat x y)
  | .vfcmps d a b _ _ t v => some (comparing d a b true t (isFloat t.toNat) fun x y => fCompare t.toNat v.toNat x y)
  | .pand d a b _ _ => some (predOf d [a, b] fun q e => (q.pRead a.toNat).testBit e && (q.pRead b.toNat).testBit e)
  | .por d a b _ _ => some (predOf d [a, b] fun q e => (q.pRead a.toNat).testBit e || (q.pRead b.toNat).testBit e)
  | .pxor d a b _ _ => some (predOf d [a, b] fun q e => (q.pRead a.toNat).testBit e != (q.pRead b.toNat).testBit e)
  | .pandn d a b _ _ => some (predOf d [a, b] fun q e => (q.pRead a.toNat).testBit e && !(q.pRead b.toNat).testBit e)
  | .pnot d a _ => some (predOf d [a] fun q e => !(q.pRead a.toNat).testBit e)
  | .pset d a _ k => some { predOf d [] (fun q e =>
      if k = 0 then true else if k = 1 then false else decide (e < (q.gRead a.toNat).toNat)) with
      srcs := if k = 2 then [.g a.toNat] else [], ok := decide (k ≠ 3) }
  | _ => none

/-- The bits of p[d] afterwards: below VL, groups before VSTART and, under stepping, those still to come keep their bits; every other
bit is cleared unless its element is done now (15 R333). -/
def PredOp.Written (o : PredOp) (q : Seq) (x : Nat) : Prop :=
  ∀ e, x.testBit e =
    if e < q.c.vl ∧ (e < 32 * q.c.vstart ∨ (elemsDone q o.masked = false ∧ 32 * nextStart q o.masked ≤ e)) then
      (q.pRead o.d).testBit e
    else decide (e ∈ elemsNow q o.masked) && (o.value q e).1

def PredOp.final (o : PredOp) (s : State) (x : Nat) : State :=
  s.done (fun q => (startAt (nextStart s.me o.masked) (q.raise (allFlags (elemsNow s.me o.masked) fun e => (o.value s.me e).2))).pSet
    o.d x) (elemFlow s.me o.masked)

/-! ## Instructions across elements (15 R345 to R347) -/

/-- An instruction across elements that writes v[d]: its registers, types and widths, and the elements it writes. -/
structure CrossOp where
  d : Nat
  srcs : List RegRef
  ok : Bool
  w : Nat
  masked : Bool
  value : Seq → Nat → Option (Nat × BitVec 6)

/-- The elements below VL that take part. -/
def activeElems (q : Seq) : List Nat := (List.range q.c.vl).filter fun e => isActive q e

/-- The elements below VL whose bit of a predicate is set. -/
def chosen (q : Seq) (b : BitVec 5) : List Nat := (List.range q.c.vl).filter fun e => (q.pRead b.toNat).testBit e

def moving (d : BitVec 5) (srcs : List RegRef) (t : BitVec 4) (masked : Bool) (f : Seq → Nat → Nat → Option Nat) : CrossOp :=
  let n := typeBits t.toNat
  { d := d.toNat, srcs := srcs, ok := decide (t.toNat < 15), w := n, masked := masked
    value := fun q e => if masked && !isActive q e then none else (f q n e).map fun x => (x, 0) }

/-- The operations of VRED and VSCAN on N-bit values (15 R347). -/
def redOp (t v x y : Nat) : Nat :=
  let a := operand t (BitVec.ofNat 64 x)
  let b := operand t (BitVec.ofNat 64 y)
  if v = 0 then (intElem t false (a + b)).1 else if v = 1 then (intElem t false (min a b)).1
  else if v = 2 then (intElem t false (max a b)).1 else if v = 3 then x &&& y else if v = 4 then x ||| y else x ^^^ y

/-- The operations of VFRED and VFSCAN. -/
def redFloat (t v : Nat) (c : RoundCtl) (x y : Nat) : Nat × BitVec 6 :=
  if v = 0 then fAdd t c x y else fMinMax t (decide (v = 2)) false x y

/-- The running value of a scan after element e, and the flags of its last step (15 R347). -/
def scanned (q : Seq) (n a e z : Nat) (op : Nat → Nat → Nat → Nat × BitVec 6) : Nat × BitVec 6 :=
  ((activeElems q).filter fun i => i ≤ e).foldl (fun r i => op i r.1 (element (q.vRead a) n i)) (z, 0)

def scanning (d a b : BitVec 5) (t : BitVec 4) (ok : Bool) (op : Seq → Nat → Nat → Nat → Nat × BitVec 6) : CrossOp :=
  let n := typeBits t.toNat
  { d := d.toNat, srcs := [.v a.toNat, .g b.toNat], ok := ok, w := n, masked := true
    value := fun q e => if isActive q e then some (scanned q n a.toNat e ((q.gRead b.toNat).toNat % 2 ^ n) (op q)) else none }

def crossOp : Instr → Option CrossOp
  | .vmov d a _ t => some (moving d [.v a.toNat] t true fun q n e => some (element (q.vRead a.toNat) n e))
  | .vbcst d a _ t => some (moving d [.g a.toNat] t true fun q n _ => some ((q.gRead a.toNat).toNat % 2 ^ n))
  | .vins d a b _ _ t => some (moving d [.g a.toNat, .g b.toNat] t false fun q n e =>
      if e = (q.gRead b.toNat).toNat % 2 ^ n then some ((q.gRead a.toNat).toNat % 2 ^ n) else none)
  | .vslup d a b _ _ t => some (moving d [.v a.toNat, .g b.toNat] t true fun q n e =>
      let sh := (q.gRead b.toNat).toNat % 2 ^ n
      if sh ≤ e then some (element (q.vRead a.toNat) n (e - sh)) else none)
  | .vsldn d a b _ _ t => some (moving d [.v a.toNat, .g b.toNat] t true fun q n e =>
      let i := e + (q.gRead b.toNat).toNat % 2 ^ n
      some (if i < q.c.vl then element (q.vRead a.toNat) n i else 0))
  | .vcprs d a b _ _ t => some (moving d [.v a.toNat, .p b.toNat] t false fun q n e =>
      (chosen q b)[e]?.map fun i => element (q.vRead a.toNat) n i)
  | .vexpd d a b _ _ t => some (moving d [.v a.toNat, .p b.toNat] t false fun q n e =>
      if e ∈ chosen q b then some (element (q.vRead a.toNat) n ((chosen q b).filter fun i => i < e).length) else none)
  | .vperm d a b _ _ t => some (moving d [.v a.toNat, .v b.toNat] t true fun q n e =>
      let i := element (q.vRead b.toNat) n e
      some (if i < q.c.vl then element (q.vRead a.toNat) n i else 0))
  | .viota d a _ t v =>
      some { moving d (if v = 0 then [.p a.toNat] else []) t true (fun q n e =>
        some ((if v = 0 then ((chosen q a).filter fun i => i < e).length else e) % 2 ^ n)) with
        ok := decide (t.toNat < 8 ∧ v.toNat ≤ 1) }
  | .vsel d a b _ _ t => some { moving d [.v a.toNat, .v b.toNat] t true (fun _ _ _ => none) with
      value := fun q e => some (element (q.vRead (if isActive q e then a else b).toNat) (typeBits t.toNat) e, 0) }
  | .vscan d a b _ _ t v => some (scanning d a b t (decide (t.toNat < 8 ∧ v.toNat ≤ 2)) fun _ _ x y =>
      (redOp t.toNat v.toNat x y, 0))
  | .vfscan d a b _ _ t v => some (scanning d a b t (decide (11 ≤ t.toNat ∧ t.toNat ≤ 14 ∧ v.toNat ≤ 2)) fun q e x y =>
      redFloat t.toNat v.toNat (q.round (q.c.fctl.toNat % 8) e) x y)
  | _ => none

/-- The bits of v[d] afterwards. -/
def CrossOp.Written (o : CrossOp) (q : Seq) (x : Nat) : Prop :=
  ∀ k b, b < o.w → x.testBit (o.w * k + b) = match (if k < q.c.vl then o.value q k else none) with
    | some v => v.1.testBit b
    | none => (q.vRead o.d).testBit (o.w * k + b)

def CrossOp.final (o : CrossOp) (s : State) (x : Nat) : State :=
  s.done (fun q => startAt 0 ((q.raise (allFlags (List.range s.me.c.vl) fun e => ((o.value s.me e).map Prod.snd).getD 0)).vSet o.d x))
    .next

/-- The 64 bits of a register for a result of N bits (14 R304). -/
def extended (t r : Nat) : DWord := if t < 8 then result t (r : Int) else BitVec.ofNat 64 r

/-- An instruction across elements that writes g[d], with the widths of its vector operands. -/
structure GatherOp extends ScalarOp where
  widths : List Nat
  masked : Bool

/-- A reduction of a vector: the order does not matter for integers; for floating point it is that of FCTL.LA (15 R347). -/
def gatherOp : Instr → Option GatherOp
  | .pcnt d a _ => some
      { d := d.toNat, srcs := [.p a.toNat], ok := true, widths := [], masked := false
        value := fun q => BitVec.ofNat 64 (chosen q a).length }
  | .pfirst d a _ => some
      { d := d.toNat, srcs := [.p a.toNat], ok := true, widths := [], masked := false
        value := fun q => match chosen q a with | e :: _ => BitVec.ofNat 64 e | [] => BitVec.allOnes 64 }
  | .vext d a b _ _ t => some
      { d := d.toNat, srcs := [.v a.toNat, .g b.toNat], ok := decide (t.toNat < 15), widths := [typeBits t.toNat], masked := false
        value := fun q =>
          let i := (q.gRead b.toNat).toNat % 2 ^ typeBits t.toNat
          if i < q.c.vl then extended t.toNat (element (q.vRead a.toNat) (typeBits t.toNat) i) else 0 }
  | .vred d a b _ _ t v => some
      { d := d.toNat, srcs := [.v a.toNat, .g b.toNat], ok := decide (t.toNat < 8 ∧ v.toNat ≤ 5), widths := [width t.toNat]
        masked := true
        value := fun q => result t.toNat (((activeElems q).foldl (fun r e =>
          redOp t.toNat v.toNat r (element (q.vRead a.toNat) (width t.toNat) e))
          ((q.gRead b.toNat).toNat % 2 ^ width t.toNat) : Nat) : Int) }
  | .vfred d a b _ _ t v =>
      let n := typeBits t.toNat
      let r (q : Seq) : Nat × BitVec 6 := reduceBy q (redFloat t.toNat v.toNat (q.round (q.c.fctl.toNat % 8) 0))
        ((q.gRead b.toNat).toNat % 2 ^ n) (element (q.vRead a.toNat) n)
      some { d := d.toNat, srcs := [.v a.toNat, .g b.toNat], ok := decide (11 ≤ t.toNat ∧ t.toNat ≤ 14 ∧ v.toNat ≤ 2)
             widths := [n], masked := true, value := fun q => BitVec.ofNat 64 (r q).1, flags := fun q => (r q).2 }
  | .vdot d a b _ _ t =>
      let n := typeBits t.toNat
      let x (q : Seq) (e : Nat) : Nat := element (q.vRead a.toNat) n e
      let y (q : Seq) (e : Nat) : Nat := element (q.vRead b.toNat) n e
      let leaf (q : Seq) (e : Nat) : Nat × BitVec 6 := fMul t.toNat (q.round (q.c.fctl.toNat % 8) e) (x q e) (y q e)
      let r (q : Seq) : Nat × BitVec 6 := reduceBy q (fAdd t.toNat (q.round (q.c.fctl.toNat % 8) 0))
        ((q.gRead d.toNat).toNat % 2 ^ n) fun e => (leaf q e).1
      some { d := d.toNat, srcs := [.v a.toNat, .v b.toNat], ok := decide (t.toNat < 8 ∨ 11 ≤ t.toNat ∧ t.toNat ≤ 14)
             widths := [n], masked := true
             value := fun q =>
               if t.toNat < 8 then result t.toNat ((activeElems q).foldl
                 (fun r e => r + operand t.toNat (BitVec.ofNat 64 (x q e)) * operand t.toNat (BitVec.ofNat 64 (y q e)))
                 ((q.gRead d.toNat).toNat : Int))
               else BitVec.ofNat 64 (r q).1
             flags := fun q => if t.toNat < 8 then 0 else (r q).2 ||| allFlags (activeElems q) fun e => (leaf q e).2 }
  | _ => none

/-- An instruction that moves whole registers: what it reads and writes, and the sequencer after it (15 R345). -/
structure MoveOp where
  regs : List RegRef
  ok : Seq → Bool := fun _ => true
  effect : Seq → Seq

def moveOp : Instr → Option MoveOp
  | .ppack d => some
      { regs := .v d.toNat :: (List.range 8).map .p
        effect := fun q => q.vSet d.toNat ((List.range 8).map fun i => q.pRead i * 2 ^ (q.c.plen * i)).sum }
  | .punpk a _ => some
      { regs := .v a.toNat :: (List.range 8).map .p
        effect := fun q => { q with p := Vector.ofFn fun (i : Fin 8) => element (q.vRead a.toNat) q.c.plen i.val } }
  | .pmov d a _ k => some
      { regs := [if k = 2 then .g d.toNat else .p d.toNat, if k = 1 then .g a.toNat else .p a.toNat]
        ok := fun q => decide (k ≠ 3) && decide (k = 2 → d = 31 → q.c.slim = 0 ∨ q.c.slim.toNat ≤ (BitVec.ofNat 64 (q.pRead a.toNat)).toNat)
        effect := fun q =>
          if k = 0 then q.pSet d.toNat (q.pRead a.toNat) else if k = 1 then q.pSet d.toNat (q.gRead a.toNat).toNat
          else q.gSet d.toNat (BitVec.ofNat 64 (q.pRead a.toNat)) }
  | .fmaskp d a _ k => some
      { regs := [if k = 1 then .p a.toNat else .p d.toNat]
        effect := fun q => if k = 1 then { q with n := { q.n with fmask := q.pRead a.toNat } }
          else q.pSet d.toNat (q.n.fmask % 2 ^ q.c.plen) }
  | _ => none

/-! ## Traps and simple instructions (11 R258 to R260; 15 R337 to R339; 19 R442 to R449) -/

/-- A trap of the current sequencer with no strip open, a handler and no trap in progress (11 R258). -/
def trapped (s : State) (cause tval : Nat) : State :=
  s.updMe fun q => Seq.stepDone
    { q with
      n := { q.n with rbk := false, epc := q.pc, cause := BitVec.ofNat 64 cause, tval := BitVec.ofNat 64 tval, intrap := true }
      pc := aligned q.n.tvec, linkEpoch := (q.linkEpoch + 1) % 65536, note := none, wait := .run } .next

/-- A handler stands ready: no strip is open, TVEC is set and no trap is in progress. -/
def Handled (q : Seq) : Prop := q.strip = none ∧ q.n.tvec ≠ 0 ∧ q.n.intrap = false

/-- A simple instruction: the registers it reads or writes, whether it closes a strip first, when it completes at once, its
change of the sequencer and the flow. -/
structure SimpleOp where
  regs : List RegRef := []
  closes : Bool := false
  ok : State → Prop := fun _ => True
  effect : State → Seq → Seq := fun _ q => q

/-- The energy of a queue, as ENRD reads it; the sum over its queues is the interface's (01 R14). -/
def queueUsed (s : State) (vi q : Nat) : Nat := s.energy.getD (64 * vi + q) 0

/-- A result of g[d] that is not refused by the stack limit. -/
def allowed (s : State) (d : BitVec 5) (v : DWord) : Prop := s.me.Writable d.toNat v

def simpleOp : Instr → Option SimpleOp
  | .nop => some {}
  | .hint _ => some {}
  | .dmark i => some { effect := fun _ q => { q with mark := i } }
  | .dhalt => some { closes := true, effect := fun _ q => { q with halted := true } }
  | .fencei => some { closes := true, ok := fun s => ∀ k ∈ s.cur :: s.me.came, (s.seq k).peerOut = []
                      effect := fun _ q => { q with fetched := [] } }
  | .yield => some { closes := true }
  | .strend => some { closes := true }
  | .sleep a _ => some { regs := [.g a.toNat], closes := true, ok := fun s => (s.me.gRead a.toNat).toNat ≤ s.cycle }
  | .pause n => some { ok := fun s => (s.me.note = none ∧ n = 0) ∨ ∃ x, s.me.note = some x ∧ x.time ≤ s.cycle }
  | .brkc a _ _ => some { regs := [.g a.toNat], ok := fun s => s.me.gRead a.toNat = 0 }
  | .eret => some { closes := true, ok := fun _ => False }
  | .enrd d sel =>
      let v (s : State) : DWord :=
        if sel = 0 then BitVec.ofNat 64 ((List.range 64).map fun q => queueUsed s s.me.vi q).sum
        else BitVec.ofNat 64 (queueUsed s s.me.vi (sel.toNat - 0x40))
      some { regs := [.g d.toNat], ok := fun s => (sel = 0 ∨ 0x40 ≤ sel.toNat ∧ sel.toNat < 0x80) ∧ allowed s d (v s)
             effect := fun s q => q.gSet d.toNat (v s) }
  | _ => none

/-- The grant of SETVL (15 R338; 11 R253): at most MAXVL at the new width, and after three faulting runs at most half of the
length granted before, but 32. -/
def granted (q : Seq) (count : Nat) (w : BitVec 2) : Nat :=
  let most := min 8192 (32768 / 2 ^ q.c.nvlog * 8 / (8 * 2 ^ w.toNat))
  min count (match q.n.sfault, q.cut with
    | 3, some v => min most (max 32 (v / 2))
    | _, _ => most)

/-- SETVL and SETVLI with their requested counts. -/
def setvlOp (s : State) : Instr → Option (BitVec 5 × List RegRef × Nat × BitVec 2)
  | .setvl d a _ w => some (d, [.g d.toNat, .g a.toNat], (s.me.gRead a.toNat).toNat, w)
  | .setvli d n w => some (d, [.g d.toNat], n.toNat, w)
  | _ => none

/-- SETVL with a count, the strip being closed: VL and SEW, g[d], and an open strip with the checkpoint of the state before. -/
def stripOpened (s : State) (d : BitVec 5) (count : Nat) (w : BitVec 2) : Seq → Seq := fun q =>
  let vl := granted q count w
  let q1 := q.gSet d.toNat (BitVec.ofNat 64 vl)
  { q1 with
    c := { q1.c with sew := w.toNat, vl := vl, vstart := 0 }
    age := if 2 ≤ q.fails ∧ 0 < vl then some (q.age.getD s.cycle) else q.age
    strip := if 0 < vl then some
        { ckpt := { pc := q.pc, g := q.g, gfull := q.full.g, p := q.p, pfull := q.full.p, loops := q.loops, c := q.c }
          ownMode := decide (2 ≤ q.fails), granted := vl }
      else none }

/-! ## Scalar loads and stores (14 R326 to R330) -/

/-- A load: g[d], the register of the address, the address, its bytes, whether it extends the sign, and the scope at which it
acquires. -/
structure LoadOp where
  d : BitVec 5
  a : BitVec 5
  va : Seq → Nat
  n : Nat
  signed : Bool
  scope : Nat := 0

/-- A store; `rel` is the scope at which it first releases, the strip being closed. -/
structure StoreOp where
  d : BitVec 5
  a : BitVec 5
  va : Seq → Nat
  n : Nat
  rel : Option Nat := none

/-- g[a] + SignExtend(imm13). -/
def offsetOf (a : BitVec 5) (i : BitVec 13) (q : Seq) : Nat := (q.gRead a.toNat + i.signExtend 64).toNat

def loadOp : Instr → Option LoadOp
  | .ldb d a _ i => some { d := d, a := a, va := offsetOf a i, n := 1, signed := true }
  | .ldbn d a _ i => some { d := d, a := a, va := offsetOf a i, n := 1, signed := false }
  | .ldh d a _ i => some { d := d, a := a, va := offsetOf a i, n := 2, signed := true }
  | .ldhn d a _ i => some { d := d, a := a, va := offsetOf a i, n := 2, signed := false }
  | .ldw d a _ i => some { d := d, a := a, va := offsetOf a i, n := 4, signed := true }
  | .ldwn d a _ i => some { d := d, a := a, va := offsetOf a i, n := 4, signed := false }
  | .ldd d a _ i => some { d := d, a := a, va := offsetOf a i, n := 8, signed := false }
  | .ldo d a _ c z z2 => some
      { d := d, a := a, va := fun q => (q.gRead a.toNat).toNat, n := 2 ^ z2.toNat, signed := decide (z = 0), scope := c.toNat }
  | _ => none

def storeOp : Instr → Option StoreOp
  | .stb d a _ i => some { d := d, a := a, va := offsetOf a i, n := 1 }
  | .sth d a _ i => some { d := d, a := a, va := offsetOf a i, n := 2 }
  | .stw d a _ i => some { d := d, a := a, va := offsetOf a i, n := 4 }
  | .std d a _ i => some { d := d, a := a, va := offsetOf a i, n := 8 }
  | .sto d a _ c z2 => some
      { d := d, a := a, va := fun q => (q.gRead a.toNat).toNat, n := 2 ^ z2.toNat, rel := some c.toNat }
  | _ => none

/-- `n` bytes as a register takes them (14 R326). -/
def loaded (n : Nat) (signed : Bool) (v : Nat) : DWord :=
  if signed then (BitVec.ofNat (8 * n) v).signExtend 64 else BitVec.ofNat 64 v

/-- Every other sequencer is as it was, but that one that waited may go on, and that an invalidation it waits for may wait for the
current one no longer (07 R158; 04 R96). -/
def OthersKept (s u : State) : Prop :=
  ∀ k, k ≠ s.cur → ∃ w, (w = (s.seq k).wait ∨ w = .run) ∧ u.seq k = { s.seq k with wait := w, inval := (u.seq k).inval }

/-- A logical time that tags can hold: any other makes the device rebase first (07 R166). -/
def Storable (s : State) (t : Nat) : Prop := t < s.tbase + 2 ^ 23

/-- The steps of the idle rule that a store takes (07 R161). -/
def idleSteps (s : State) : Nat := (s.cycle - s.me.lastStore) / 1024

/-- Times from t on far enough below what can be stored for every element of an instruction (07 R166). -/
def StorableAfter (s : State) (t : Nat) : Prop := Storable s (t + idleSteps s + 65536)

/-- The slice that holds a line for the current sequencer's cluster has room for n more buffered bytes (06 R132). -/
def SliceRoom (s : State) (x n : Nat) : Prop := sliceUse (sliceOf (s.cur / 32) x) s + n ≤ 262144

/-- What an acquire adds to pts once its access has returned (09 R209, R212): peer horizon at scope 5, host horizon above. -/
def acquired (scope : Nat) (s : State) (q : Seq) : Seq :=
  if scope = 5 then { q with pts := max q.pts s.peerHorizon }
  else if 6 ≤ scope then { q with pts := max q.pts s.hostHorizon } else q

/-- A value on its way to g[d] (11 R239). -/
def arriving (d : Nat) (v : DWord) (q : Seq) : Seq :=
  if d = 0 then q else { q.setFull (.g d) false with arrivals := q.arrivals ++ [{ reg := .g d, value := v.toNat }] }

/-- Nothing that a release at a scope waits for is out (09 R209, 02 R48, R49, 09 R213). -/
def Released (scope : Nat) (s : State) : Prop :=
  (scope = 5 → ∀ k ∈ s.cur :: s.me.came, (s.seq k).peerOut = []) ∧ (6 ≤ scope → ∀ k ∈ s.cur :: s.me.came, (s.seq k).hostOut = 0) ∧
    (scope = 7 → (s.me.note.map Note.flushed).getD false = true)

/-- The translation of an access is cached and allows it, with its A bit set, and the D bit where the write performs at once
(04 R72 to R75, R93). -/
def Cached (s : State) (va : Nat) (kind : Access) (now : Bool) (l : Leaf) : Prop :=
  va < 2 ^ 57 ∧ coreLookup (seqAccessor s.cur s) va s = some l ∧ checkLeaf (seqAccessor s.cur s) va kind l s = none ∧
    l.acc = true ∧ (kind.writes = true → now = true → l.dirty = true)

/-- A plain page of memory: no matte, no phase page, not NS. -/
def Leaf.Plain (l : Leaf) : Prop := l.mv = false ∧ l.ph = false ∧ l.ns = false

/-- Byte j of a line after a store of the low n bytes of v at byte o. -/
def storedByte (d : Line) (o n v j : Nat) : Byte :=
  if o ≤ j ∧ j < o + n then BitVec.ofNat 8 (v / 2 ^ (8 * (j - o))) else lineByte d j

/-- The offset of SLD and SST, within the slate's bytes (14 R329, 06 R140). -/
def StageOk (q : Seq) (o n : Nat) : Prop := o % n = 0 ∧ o + n ≤ q.n.stage

/-- The place in Stage memory of an offset of the current sequencer's slate. -/
def stagePlace (s : State) (o : Nat) : Nat := dieOfSeq s.cur * 2 ^ 26 + (s.me.n.stgbase + o)

/-- A byte of Stage memory as the sequencer sees it: its own buffered byte, else what the bank answered (06 R143). -/
def ownStage (q : Seq) (a : Nat) (b : Byte) : Byte :=
  match q.strip with
  | some st => ((st.sst.filter fun e => e.1 = a).getLast?.map Prod.snd).getD b
  | none => b

/-! ## Vector memory (16 R351 to R372) -/

/-- A vector memory instruction: what it names, whether it stores, reaches Stage memory, or moves a spill slot, and the
registers it needs full. -/
structure VMemOp where
  acc : VAcc
  store : Bool := false
  stage : Bool := false
  slot : Bool := false
  regs : List RegRef

/-- The data registers, the base and the index vector. -/
def vmem (i : Instr) (v a : BitVec 5) (b : Option (BitVec 5)) (t : BitVec 4) (shape : VShape) (k : Nat) : VMemOp :=
  { acc := { word := i.encodeNat, v := v.toNat, a := a.toNat, b := (b.map BitVec.toNat).getD 0, t := t.toNat, shape := shape }
    regs := .g a.toNat :: (b.toList.map (fun r => RegRef.v r.toNat) ++ (List.range k).map fun f => RegRef.v (v.toNat + f)) }

def vmemOp (i : Instr) : Option VMemOp :=
  match i with
  | .vld v a _ t => some (vmem i v a none t .unit 1)
  | .vst v a _ t => some { vmem i v a none t .unit 1 with store := true }
  | .vldff v a _ t => some { vmem i v a none t .unit 1 with acc := { (vmem i v a none t .unit 1).acc with ff := true } }
  | .vgth v a _ b _ t => some (vmem i v a (some b) t (.indexed none) 1)
  | .vsct v a _ b _ t => some { vmem i v a (some b) t (.indexed none) 1 with store := true }
  | .vgthw v a _ b _ t x => some (vmem i v a (some b) t (.indexed (some (2 ^ (10 + x.toNat)))) 1)
  | .vldbc v a _ t => some (vmem i v a none t .broadcast 1)
  | .vldsg v a _ t x => some (vmem i v a none t (.segment (x.toNat + 1)) (x.toNat + 1))
  | .vstsg v a _ t x => some { vmem i v a none t (.segment (x.toNat + 1)) (x.toNat + 1) with store := true }
  | .vlds v a _ t => some { vmem i v a none t .unit 1 with stage := true }
  | .vsts v a _ t => some { vmem i v a none t .unit 1 with stage := true, store := true }
  | .vgths v a _ b _ t => some { vmem i v a (some b) t (.indexed none) 1 with stage := true }
  | .vscts v a _ b _ t => some { vmem i v a (some b) t (.indexed none) 1 with stage := true, store := true }
  | .vspill v a _ => some { vmem i v a none 0 .unit 1 with slot := true, store := true }
  | .vfill v a _ => some { vmem i v a none 0 .unit 1 with slot := true }
  | _ => none

/-- The shared access of an instruction. -/
def VMemOp.access (o : VMemOp) (s : State) : Res Flow :=
  if o.slot then (if o.store then spill o.acc.v o.acc.a s else fillSlot o.acc.word o.acc.v o.acc.a s)
  else if o.stage then (if o.store then stageStore o.acc s else stageLoad o.acc s)
  else if o.store then vecStore o.acc s else vecLoad o.acc s

/-- The registers it waits for, the mask among them where it is masked. -/
def VMemOp.needs (o : VMemOp) (q : Seq) : List RegRef := o.regs ++ if o.slot then [] else maskRegs q

/-- The byte address and the first bit of position n from a base (16 R354; 10 R219). -/
def position (base : Int) (w : Nat) (n : Int) : Nat × Nat :=
  if w = 4 then (((base + n / 2) % 2 ^ 64).toNat, 4 * (n % 2).toNat) else (((base + n * (w / 8 : Nat)) % 2 ^ 64).toNat, 0)

/-- The place of element e: at its unit or strided address, or at its index read signed at SEW (16 R354). -/
def elementPlace (o : VMemOp) (q : Seq) (e : Nat) : Nat × Nat :=
  let w := typeBits o.acc.t
  let base : Int := ((q.gRead o.acc.a).toNat : Int)
  match o.acc.shape with
  | .indexed _ => position base w (BitVec.ofNat q.c.sewBits (element (q.vRead o.acc.b) q.c.sewBits e)).toInt
  | _ => if q.c.vstride = 0 then position base w e else position (((base + e * q.c.vstride.toInt) % 2 ^ 64).toNat : Int) w 0

/-- A byte of Stage memory as the sequencer sees it. -/
def stageView (s : State) (b : Nat) : Byte := ownStage s.me b (s.stage.byte b)

/-- The bits that an element of Stage memory has there. -/
def stageBits (s : State) (o : VMemOp) (e b : Nat) : Bool :=
  let p := elementPlace o s.me e
  (stageView s (stagePlace s p.1 + (p.2 + b) / 8)).getLsbD ((p.2 + b) % 8)

/-- One element stored over bytes. -/
def storeElem (s : State) (o : VMemOp) (f : Nat → Byte) (e : Nat) : Nat → Byte := fun b =>
  let w := typeBits o.acc.t
  let p := elementPlace o s.me e
  let at_ := stagePlace s p.1
  let x := element (s.me.vRead o.acc.v) w e
  if w = 4 then
    if b = at_ then (if p.2 = 0 then (f b &&& 0xF0) ||| BitVec.ofNat 8 x else (f b &&& 0x0F) ||| BitVec.ofNat 8 (16 * x)) else f b
  else if at_ ≤ b ∧ b < at_ + w / 8 then BitVec.ofNat 8 (x / 2 ^ (8 * (b - at_))) else f b

/-- The checks of a Stage access pass for every element that it reaches (16 R370). -/
def StageReachable (o : VMemOp) (q : Seq) : Prop :=
  let w := typeBits o.acc.t
  w ≤ q.c.sewBits ∧ (w = 4 → q.c.vstride = 0 ∨ o.acc.shape = .indexed none) ∧
    ∀ e ∈ elemsNow q true, (elementPlace o q e).1 % max 1 (w / 8) = 0 ∧ (elementPlace o q e).1 + max 1 (w / 8) ≤ q.n.stage

/-! ## Matrix and tile instructions (17 R374 to R393) -/

/-- The array is free for the current sequencer: its cluster's queue is empty and it has no matrix work of its own. -/
def ArrayFree (s : State) : Prop := s.matrix.getD (s.cur / 32) [] = [] ∧ s.me.mop = none ∧ s.me.follow = 0 ∧ s.me.wait = .run

/-- What a matrix instruction leaves alone: memory, Stage memory, homes and copies, and every other sequencer but for its
wait. -/
def ArrayOnly (s t : State) : Prop :=
  t.mem = s.mem ∧ t.stage = s.stage ∧ t.homes = s.homes ∧ t.copies = s.copies ∧ t.matrix.getD (s.cur / 32) [] = [] ∧
    t.cur = s.cur ∧ OthersKept s t

/-- Row i, column j of a tile. -/
def tileAt (x i j : Nat) : Nat := x / 2 ^ (4096 * i + 32 * j) % 2 ^ 32

/-- An instruction that writes elements of a tile: what it needs, its f32 result for each row and column, none where the tile
keeps its bits. -/
structure TileOp where
  d : BitVec 5
  regs : List RegRef
  ok : Seq → Bool := fun _ => true
  masked : Bool := false
  elem : Seq → Nat → Nat → Option (Nat × BitVec 6)

/-- The rounding of the tile element (i, j). -/
def tileRound (q : Seq) (i j : Nat) : RoundCtl := q.round (q.c.fctl.toNat % 8) (128 * i + j)

/-- A NaN becomes the canonical NaN and sets NV when it is signalling (17 R390). -/
def quieted (x : Nat) (r : Nat × BitVec 6) : Nat × BitVec 6 :=
  let n := decodeFloat 13 x
  if isNaN n then (canonicalNaN 13, if isSig n then 1 else 0) else r

/-- A value of type t as f32, converted as R221 says: from f32 itself only a NaN changes (10 R218, R224; 17 R390, R391). -/
def toF32 (t : Nat) (c : RoundCtl) (x : Nat) : Nat × BitVec 6 :=
  if t = 13 then quieted x (convert 13 13 c x) else convert 13 t c x

/-- An f32 value as type t. -/
def fromF32 (t : Nat) (c : RoundCtl) (x : Nat) : Nat × BitVec 6 :=
  if t = 13 then quieted x (convert 13 13 c x) else convert t 13 c x

def tileOp : Instr → Option TileOp
  | .tzero d => some { d := d, regs := [.a d.toNat], elem := fun _ _ _ => some (0, 0) }
  | .tmov d a _ => some
      { d := d, regs := [.a d.toNat, .a a.toNat], elem := fun q i j => some (tileAt (q.aRead a.toNat) i j, 0) }
  | .tadd d a _ t => some
      { d := d, regs := [.a d.toNat, .a a.toNat], ok := fun _ => decide (t.toNat = 13)
        elem := fun q i j => some (fAdd 13 (tileRound q i j) (tileAt (q.aRead d.toNat) i j) (tileAt (q.aRead a.toNat) i j)) }
  | .tact d a _ v t => some
      { d := d, regs := .a d.toNat :: if v = 1 ∨ v = 2 then [.g a.toNat] else [], ok := fun _ => decide (t.toNat = 13)
        elem := fun q i j =>
          let x := tileAt (q.aRead d.toNat) i j
          let g := (q.gRead a.toNat).toNat % 2 ^ 32
          let lim := g % 2 ^ 31
          some (if v = 0 then quieted x (if 2 ^ 31 ≤ x then 0 else x, 0)
            else if v = 1 then quieted x (fMul 13 (tileRound q i j) x g)
            else if v = 2 then
              if isNaN (decodeFloat 13 lim) then (canonicalNaN 13, 1)
              else quieted x ((fMinMax 13 false false (fMinMax 13 true false x (lim + 2 ^ 31)).1 lim).1, 0)
            else quieted x (fTanh 13 (tileRound q i j) x)) }
  | .tfill d a _ t => some
      { d := d, regs := [.a d.toNat, .g a.toNat], ok := fun _ => decide (8 ≤ t.toNat ∧ t.toNat ≤ 14)
        elem := fun q i j => some (toF32 t.toNat (tileRound q i j) ((q.gRead a.toNat).toNat % 2 ^ typeBits t.toNat)) }
  | .twrv d a b _ _ t v => some
      { d := d, regs := [.a d.toNat, .v a.toNat, .g b.toNat], masked := true
        ok := fun q => decide (8 ≤ t.toNat ∧ t.toNat ≤ 14 ∧ typeBits t.toNat ≤ q.c.sewBits ∧ q.c.vl ≤ 128 ∧
          (q.gRead b.toNat).toNat ≤ 127)
        elem := fun q i j =>
          let r := (q.gRead b.toNat).toNat
          let e := if v = 1 then i else j
          if (if v = 1 then j else i) = r ∧ e < q.c.vl ∧ isActive q e = true then
            some (toF32 t.toNat (tileRound q i j) (element (q.vRead a.toNat) (typeBits t.toNat) e))
          else none }
  | _ => none

/-- The bits of the tile afterwards. -/
def TileOp.Written (o : TileOp) (q : Seq) (x : Nat) : Prop :=
  ∀ i j b, i < 128 → j < 128 → b < 32 → x.testBit (4096 * i + 32 * j + b) = match o.elem q i j with
    | some v => v.1.testBit b
    | none => (q.aRead o.d.toNat).testBit (4096 * i + 32 * j + b)

def TileOp.flags (o : TileOp) (q : Seq) : BitVec 6 :=
  allFlags (List.range 16384) fun n => ((o.elem q (n / 128) (n % 128)).map Prod.snd).getD 0

/-- The status word of R389, of the current sequencer: its cluster's latch as it filled it. -/
def statusWord (s : State) : DWord :=
  let q := s.me
  let l := s.latch s.cur
  (BitVec.ofNat 64 q.pair.steps <<< 48) ||| BitVec.ofNat 64 q.pair.pst |||
    if l.lv then (BitVec.ofNat 64 (l.lm - 1) <<< 41) ||| (BitVec.ofNat 64 (l.lk - 1) <<< 31) |||
      (BitVec.ofNat 64 l.ltype <<< 27) ||| (1 <<< 26)
    else 0

/-- The vector registers hold free values and are full (17 R375; log 5); all other registers are as they were. -/
def VectorsFree (s : State) (q : Seq) : Prop :=
  q.g = s.me.g ∧ q.p = s.me.p ∧ q.a = s.me.a ∧ q.full = { s.me.full with v := BitVec.allOnes 32 } ∧ q.n = s.me.n ∧
    q.loops = (loopStep s.me.pc s.me.loops).1 ∧ q.pc = (loopStep s.me.pc s.me.loops).2 ∧ s.me.pts ≤ q.pts

/-- Bits of Stage memory from a byte offset of the current sequencer's slate. -/
def slateBit (s : State) (o b : Nat) : Bool := (s.stage.byte (stagePlace s o + b / 8)).getLsbD (b % 8)

/-- The rows of MLATCH: K elements at S apart (17 R379). -/
structure LatchRows where
  k : Nat
  stride : Nat
  base : Nat

def latchDesc (s : State) (d a : BitVec 5) (t : Nat) : LatchRows :=
  let g := s.me.gRead d.toNat
  let k := (g.extractLsb' 0 10).toNat + 1
  let st := (g.extractLsb' 16 16).toNat
  { k := k, stride := if st = 0 then (k * typeBits t + 255) / 256 * 32 else st, base := (s.me.gRead a.toNat).toNat }

def LatchRows.at_ (r : LatchRows) (q : Seq) (b : BitVec 5) (e : Nat) : Nat :=
  r.base + element (q.vRead b.toNat) q.c.sewBits e * r.stride

/-- The checks of MLATCH pass. -/
def LatchRows.Ok (r : LatchRows) (s : State) (d b : BitVec 5) (t : Nat) : Prop :=
  let g := s.me.gRead d.toNat
  8 ≤ t ∧ t ≤ 12 ∧ g.extractLsb' 10 6 = 0 ∧ g.extractLsb' 32 32 = 0 ∧ r.k * typeBits t ≤ 4096 ∧ 1 ≤ s.me.c.vl ∧ s.me.c.vl ≤ 128 ∧
    r.base % 32 = 0 ∧ r.stride % 32 = 0 ∧
    ∀ e, e < s.me.c.vl → isActive s.me e = true → r.at_ s.me b e + (r.k * typeBits t + 7) / 8 ≤ s.me.n.stage

/-! ### MOP -/

/-- A MOP form of the current sequencer, with what its encoding and registers name (17 R381). -/
def mopForm (s : State) : Instr → Option (Mop × List RegRef × Bool)
  | .mop d a b _ _ t k g => some
      ({ form := 0, d := d.toNat, t := t.toNat, geo := g.toNat, band := k = 1, ga := s.me.gRead a.toNat, gb := s.me.gRead b.toNat },
        [.a d.toNat, .g a.toNat, .g b.toNat], decide (8 ≤ t.toNat ∧ t.toNat ≤ 12))
  | .mopSp d a b _ _ t k g => some
      ({ form := 1, d := d.toNat, t := t.toNat, geo := g.toNat, band := k = 1, ga := s.me.gRead a.toNat, gb := s.me.gRead b.toNat },
        [.a d.toNat, .g a.toNat, .g b.toNat], decide (8 ≤ t.toNat ∧ t.toNat ≤ 12))
  | .mopPair d a b _ _ t k g => some
      ({ form := 2, d := d.toNat, t := t.toNat, geo := g.toNat, band := k = 1, ga := s.me.gRead a.toNat, gb := s.me.gRead b.toNat },
        [.a d.toNat, .g a.toNat, .g b.toNat], decide (8 ≤ t.toNat ∧ t.toNat ≤ 12))
  | _ => none

/-- The band scales of R381, read where BAND asks for them. -/
def bandedMop (m : Mop) (rd : Nat → Nat → Nat) : Mop :=
  if m.band && m.bands.isNone then { m with bands := some (rd (8 * m.sband) 32) } else m

/-- Tile and flags of sequencer k after the chunk that VSTART names, with the A operand of latch l (17 R383). -/
def chunkResult (s : State) (k : Agent) (m : Mop) (l : Latch) : Bits × BitVec 6 :=
  let q := s.seq k
  let rd := Sys2Proof.Machine.stageBits s (k / 2048) q.n.stgbase
  mopChunk (bandedMop m rd) l (q.c.vstart / 32) (fun e => q.round (q.c.fctl.toNat % 8) e) rd (q.aRead m.d)

/-- The chunk that VSTART names is the last one. -/
def lastChunk (m : Mop) (q : Seq) : Prop := q.c.vstart / 32 + 1 = (m.k + 31) / 32

/-- After the last chunk: tile and flags, VSTART 0, the instruction passed. -/
def ChunkDone (s t : State) (k : Agent) (m : Mop) (l : Latch) : Prop :=
  let r := chunkResult s k m l
  (t.seq k).a = ((s.seq k).aSet m.d r.1).a ∧ (t.seq k).c = { (s.seq k).c with fflags := (s.seq k).c.fflags ||| r.2, vstart := 0 } ∧
    (t.seq k).g = (s.seq k).g ∧ (t.seq k).p = (s.seq k).p ∧ (t.seq k).n = (s.seq k).n ∧ (s.seq k).pts ≤ (t.seq k).pts ∧
    (t.seq k).full = { (s.seq k).full with v := BitVec.allOnes 32 } ∧
    (t.seq k).pc = (loopStep (s.seq k).pc (s.seq k).loops).2 ∧ (t.seq k).mop = none

/-- Element (i, j) of a dense unscaled MOP without band scales after a chunk: the exact sum of its products added and rounded
once (17 R383). -/
def denseElem (m : Mop) (l : Latch) (c : Nat) (rc : RoundCtl) (rd : Nat → Nat → Nat) (old i j : Nat) : Nat × BitVec 6 :=
  let n := min 32 (m.k - 32 * c)
  let w := typeBits m.t
  let ps := (List.range n).map fun x =>
    let k := 32 * c + x
    mulNum (decodeFloat l.ltype (element (l.rows.getD i 0) (typeBits l.ltype) k))
      (decodeFloat m.t (rd (8 * (m.boff + k * m.bstr) + w * j) w))
  let sum := exactSum rc.rm ps
  let r := addNum rc.rm (decodeFloat 13 old) sum.1
  finishNum 13 rc (r.1, r.2 || sum.2)

/-! ## Atomics, linked pairs and Stage reductions (18 R395 to R405) -/

/-- The address of an indexed element of `n` bytes: base + n × index, the index read signed at SEW (18 R402). -/
def indexedAt (q : Seq) (a b : BitVec 5) (n e : Nat) : Nat :=
  let i : Int := (BitVec.ofNat q.c.sewBits (element (q.vRead (b.toNat + 1)) q.c.sewBits e)).toInt
  ((((q.gRead a.toNat).toNat : Int) + i * (n : Nat)) % 2 ^ 64).toNat

/-- The registers of an instruction with a data register, a base and the data register's neighbour, and its mask. -/
def indexedRegs (q : Seq) (d a : BitVec 5) : List RegRef :=
  [.v d.toNat, .g a.toNat, .v (d.toNat + 1)] ++ maskRegs q

/-- A line of plain memory in the current sequencer's slice: its translation is cached, and nothing holds it. -/
def LineHeld (s : State) (va : Nat) (kind : Access) (l : Leaf) (p : Copy Nat) : Prop :=
  Cached s va kind true l ∧ Cached s (va / 4096 * 4096) kind true l ∧ Leaf.Plain l ∧
    (tierOf (l.pa va) = .hbm ∨ tierOf (l.pa va) = .lpddr) ∧
    s.copy (s.cur / 32) (l.pa va / 128) = some p ∧ p.poison = false ∧ commitLocked s.cur (l.pa va / 128) s = false

/-- It owns the line for writing. -/
def LineOwned (s : State) (va : Nat) (kind : Access) (l : Leaf) (p : Copy Nat) : Prop :=
  LineHeld s va kind l p ∧ p.own = true ∧ p.forRead = false ∧ holders (s.cur / 32) (l.pa va / 128) s = []

/-- Nothing of an earlier attempt is left. -/
def Calm (q : Seq) : Prop := q.holds = [] ∧ q.phase = [] ∧ q.commit = none ∧ q.note = none

/-- A value on its way to a register. -/
def coming (r : RegRef) (x : Nat) (q : Seq) : Seq :=
  if r = .g 0 then q else { q.setFull r false with arrivals := q.arrivals ++ [{ reg := r, value := x }] }

/-- The n bytes of a line from byte o replaced. -/
def replaceBytes (d : Line) (o n v : Nat) : Line := mergeLine d (lineWith o (v % 2 ^ (8 * n))) (maskOf o n)

/-- An AMO's registers: CMPXCHG reads g[d + 1] too. -/
def amoRegs (d a : BitVec 5) (p : BitVec 4) : List RegRef :=
  [.g d.toNat, .g a.toNat] ++ if p = 7 then [.g (d.toNat + 1)] else []

/-- VAMO's elements on one line, one after the other: the line, the old values, the flags (18 R402). -/
def amoElems (q : Seq) (p t : BitVec 4) (d a : BitVec 5) : List Nat → Line × Nat × BitVec 6 → Line × Nat × BitVec 6
  | [], r => r
  | e :: es, r =>
    let w := typeBits t.toNat
    let o := indexedAt q a d (w / 8) e % 128
    let old := lineField r.1 o (w / 8)
    let x := atomicNew p.toNat t.toNat (q.round (q.c.fctl.toNat % 8) e) old (element (q.vRead d.toNat) w e) 0
    amoElems q p t d a es (replaceBytes r.1 o (w / 8) x.1, setBitsAt r.2.1 (w * e) w old, r.2.2 ||| x.2)

/-- SRED's operations, one after the other, over Stage memory (18 R404). -/
def reduceElems (s : State) (p t : BitVec 4) (d a : BitVec 5) : List Nat → Memory → Memory
  | [], m => m
  | e :: es, m =>
    let w := typeBits t.toNat
    let at_ := stagePlace s (indexedAt s.me a d (w / 8) e)
    reduceElems s p t d a es (m.write at_
      (atomicNew p.toNat t.toNat { rm := 0 } (m.read at_ (w / 8)) (element (s.me.vRead d.toNat) w e) 0).1 (w / 8))

/-- The slot of a key: the first of 16 probes whose tag is the key plus 1 or 0 (18 R405). -/
def slotOfKey (m : Memory) (base L key : Nat) : Option Nat :=
  ((List.range 16).map fun j => base + 8 * ((key + j) % 2 ^ L)).find? fun a => m.read a 4 = key + 1 || m.read a 4 = 0

/-- What a slot takes: the value itself in an empty slot, else old and new combined. -/
def keyed (op : Nat) (empty : Bool) (old x : Nat) : Nat :=
  if op = 4 then (if empty then 1 else (old + 1) % 2 ^ 32)
  else if empty then x
  else if op = 0 then (old + x) % 2 ^ 32
  else if op = 1 then (fAdd 13 { rm := 0 } old x).1
  else (fMinMax 13 (decide (op = 2)) false old x).1

/-- Keys placed in element order; the first that finds no slot ends it. -/
def placeKeys (q : Seq) (op base L : Nat) (d : BitVec 5) : List Nat → Memory → Nat × Memory
  | [], m => (q.c.vl, m)
  | e :: es, m =>
    let key := element (q.vRead d.toNat) 32 e
    if isActive q e = false ∨ key = 2 ^ 32 - 1 then placeKeys q op base L d es m
    else match slotOfKey m base L key with
      | none => (e, m)
      | some a =>
        let v := keyed op (decide (m.read a 4 = 0)) (m.read (a + 4) 4) (element (q.vRead (d.toNat + 1)) 32 e)
        placeKeys q op base L d es (m.write a (key + 1 + v * 2 ^ 32) 8)

/-- What the instructions of this part leave alone. -/
def SeqKept (s u : State) : Prop :=
  u.me.g = s.me.g ∧ u.me.v = s.me.v ∧ u.me.p = s.me.p ∧ u.me.a = s.me.a ∧ u.me.n = s.me.n ∧ s.me.pts ≤ u.me.pts ∧
    u.me.pc = (loopStep s.me.pc s.me.loops).2 ∧ u.mem = s.mem ∧ u.cur = s.cur ∧ OthersKept s u

/-- The line of the slice afterwards, every other copy as it was. -/
def LineBecomes (s u : State) (x : Nat) (d : Line) : Prop :=
  (u.copies.find (copyKey (s.cur / 32) x)).map Copy.data = some d ∧
    ∀ k, k ≠ copyKey (s.cur / 32) x → u.copies.find k = s.copies.find k

/-! ## Waits, barriers, phases and fences (18 R406 to R413) -/

/-- A line present at its home that nobody owns, publishes, flips or holds poisoned, with room for a write, and that nothing else waits
for. -/
def HomeReady (s : State) (x : Nat) (h : HomeLine Nat) : Prop :=
  s.home x = some h ∧ h.own = none ∧ h.pubs = [] ∧ h.code ≠ 15 ∧ h.hx = none ∧ s.hostBias x = false ∧
    s.flipping.find (x / 32) = none ∧ freeWays s x ≠ [] ∧ 16 ≤ (freeSectors s x).length ∧ roomQueue x s = [] ∧
    ∀ w ∈ s.devWrites, w.1 ≠ x

/-- The conditions of WAITA on n-byte values (18 R406). -/
def meets (cc n x c : Nat) : Bool :=
  let i (v : Nat) : Int := (BitVec.ofNat (8 * n) v).toInt
  if cc = 0 then decide (x = c) else if cc = 1 then decide (x ≠ c) else if cc = 2 then decide (i x < i c)
  else if cc = 3 then decide (i c ≤ i x) else if cc = 4 then decide (x < c) else if cc = 5 then decide (c ≤ x)
  else if cc = 6 then decide (x &&& c ≠ 0) else decide (x &&& c = 0)

/-- Those of VWAIT on dwords (18 R408). -/
def meetsAll (cc x c : Nat) : Bool := meets (([0, 1, 3, 5] : List Nat).getD cc 6) 8 x c

/-- A sequencer parked on a line with a deadline, 0 for none. -/
def parkedOn (xs : List Nat) (deadline now : Nat) : Wait :=
  .park { lines := xs, poll := false, since := now, deadline := if deadline = 0 then none else some deadline }

/-- The fields of a barrier object after an arrival (18 R410): COUNT, ARRIVED, GEN. -/
def arrivedAt (count arrived gen : Nat) : Nat × Nat :=
  if count ≤ arrived + 1 then (0, (gen + 1) % 2 ^ 32) else (arrived + 1, gen)

/-! ## Matte and plate control (18 R414 to R418; 04 R79 to R91) -/

/-- The current sequencer's root, and the lines that its mattes use: its record's and the slot pool's. -/
def myRoot (s : State) : Nat := rootOf s.me.vi s.me.cid s
def recordLine (s : State) (l : Leaf) : Nat := recordAddr (myRoot s) l.mid s / 128
def poolAnchor (s : State) : Nat := (myRoot s + 0x2080) / 128

/-- Line i of a record's page is masked. -/
def masked (r : Line) (i : Nat) : Bool := r.getLsbD i

/-- The slot line of line i. -/
def slotLine (s : State) (r : Line) (i : Nat) : Nat := slotAddr (myRoot s) (recPtr r i) s / 128

/-- No two of some lines are the same or lie in one set. -/
def Apart (xs : List Nat) : Prop := xs.Pairwise fun x y => sameSet x y = false

/-- The places where slot pointers are looked up. -/
def lookups (s : State) (r : Line) : List Nat :=
  (myRoot s + 0x2010) / 128 :: (List.range 32).map fun i => (pftBase (myRoot s) s + 8 * (recPtr r i / 32)) / 128

/-- Free and used slots of the pool (04 R77). -/
def poolCounts (d : Line) : Nat × Nat := (lineField d 4 4, lineField d 8 4)

/-! ## System instructions, scheduling, slates and rings (19 R442 to R449; 05 R106 to R124; 03 R60 to R67) -/

/-- What a TLBINV of a kind names (19 R445): a virtual address, a context, an interface. -/
def invalidates (kind vi cid va : Nat) (e : TlbEntry) : Prop :=
  e.vi = vi ∧ (kind ≤ 1 → e.cid = cid) ∧ (kind = 0 → e.vpage = va / 2 ^ e.log)

/-- No TLB holds what an invalidation names. -/
def NoneCached (s : State) (kind vi cid va : Nat) : Prop :=
  (∀ c ∈ s.coreTlb, ∀ e ∈ c.2, ¬ invalidates kind vi cid va e) ∧ ∀ c ∈ s.dieTlb, ∀ e ∈ c.2, ¬ invalidates kind vi cid va e

/-- Every register of a sequencer is full and nothing is on its way (19 R444). -/
def AllArrived (q : Seq) : Prop :=
  q.full.g ||| 1 = BitVec.allOnes 32 ∧ q.full.v = BitVec.allOnes 32 ∧ q.full.p = BitVec.allOnes 8 ∧ q.full.a = BitVec.allOnes 8 ∧
    q.follow = 0

/-- The registers with which a sequencer starts an entry (05 R114): the argument, the number, the stack. -/
def startRegs (sl : Slate) (k : Nat) : Nat → DWord := fun i =>
  let n := k / 2048 * 2048 + k % 2048
  if i = 1 then sl.arg else if i = 2 then BitVec.ofNat 64 sl.number
  else if i = 31 ∧ sl.stackSize ≠ 0 then BitVec.ofNat 64 (sl.stackBase + (n + 1) * sl.stackSize) else 0

/-- A posting's first record in Stage or coherent memory begins here. -/
def ringSlot (r : Ring) : Nat := r.base.toNat + 512 * (r.tail.toNat % 2 ^ (8 + r.size))

/-- A ring that can take a record: it is set, and a slot is free. -/
def Ring.Takes (r : Ring) : Prop := r.ready = true ∧ (r.tail - r.head).toNat < 2 ^ (8 + r.size)

/-- The 512 bytes of a ring's next slot lie in memory that the interface owns and that no home holds, is not converted and is in
device bias; nothing else is to be written there, and no memory access is counted (04 R100). -/
def SlotPlain (s : State) (vi : Nat) (r : Ring) : Prop :=
  r.base.toNat % 512 = 0 ∧ s.mgmt.heatEn = false ∧ ∀ j, j < 4 → let x := ringSlot r / 128 + j
    isMemory (128 * x) = true ∧ s.frameOwner (x / 32) = vi ∧ s.homes.find x = none ∧ s.converted.find (x / 32) = none ∧
      s.hostBias x = false ∧ (∀ w ∈ s.devWrites, w.1 ≠ x) ∧ Storable s (s.mts x + 4)

/-- The register is one of its class's. -/
def inFile : RegRef → Bool
  | .g n | .v n => decide (n < 32)
  | .p n | .a n => decide (n < 8)
  | .ctl _ => true

/-- A register holds a value; g0 reads 0. -/
def holdsValue (q : Seq) (x : Nat) : RegRef → Prop
  | .g n => q.gRead n = if n = 0 then 0 else BitVec.ofNat 64 x
  | .v n => q.vRead n = x
  | .p n => q.pRead n = x
  | .a n => q.aRead n = x
  | .ctl _ => True
/-- The director core's access to a plain page whose translation its die holds (05 R109, R110; 04 R93). -/
def DirectorCached (s : State) (vi cid : Nat) (w : Waiting) (va : Nat) (kind : Access) (l : Leaf) : Prop :=
  va < 2 ^ 57 ∧ coreLookup (directorAccessor vi cid w s) va s = some l ∧ checkLeaf (directorAccessor vi cid w s) va kind l s = none ∧
    l.acc = true ∧ l.mv = false ∧ (kind.writes = true → l.dirty = true) ∧ (tierOf (l.pa va) = .hbm ∨ tierOf (l.pa va) = .lpddr)

/-- A queue that may fetch its next slate (03 R61, R63). -/
def MayFetch (v : Vi) (Q : Queue) : Prop :=
  v.en = true ∧ Q.en = true ∧ Q.halt = false ∧ Q.fetchWait = false ∧ Q.next ≤ Q.qtail.toNat ∧
    ∃ c, v.ctxs.find Q.ctx = some c ∧ c.lost = false ∧ c.dying = false

/-- The dependences of a slate that count: queue and number (05 R107). -/
def DepsMet (s : State) (vi b : Nat) : Prop :=
  ∀ i, i < 8 → bitsAt b (8 * (64 + 8 * i) + 63) 1 = 1 →
    bitsAt b (8 * (64 + 8 * i)) 57 ≤ ((s.vi vi).queues.getD (bitsAt b (8 * (64 + 8 * i) + 57) 6) {}).qdone

/-- Energy admission (01 R15): microjoules against watts over 2^24 ns. -/
def EnergyAdmits (s : State) (est : Nat) : Prop :=
  1000 * (s.committed + est) ≤ s.budget * 2 ^ 24 ∨ (s.committed = 0 ∧ s.budget * 2 ^ 24 < 1000 * est)

/-- A place of n bytes that nothing of the die's Stage memory takes. -/
def StageRoom (s : State) (die n b : Nat) : Prop :=
  b + n ≤ 2 ^ 26 ∧ ∀ e ∈ stageTaken die s, b + n ≤ e.1 ∨ e.1 + e.2 ≤ b
/-- The owner of a line may answer its home (07 R158, R159): the home's owner, version and generation. -/
def OwnedBy (s : State) (x : Nat) (h : HomeLine Nat) (o : Owner) (gen ver : Nat) : Prop :=
  s.home x = some h ∧ h.own = some o ∧ h.ver = ver ∧ gen = ownerGen o s

/-- A line whose home can take a write: not poisoned, not held for expansion, with room in its set and nothing that waits for it, its
interfaces without statistics lines. -/
def TakesWrite (s : State) (x vi : Nat) (h : HomeLine Nat) : Prop :=
  h.code ≠ 15 ∧ h.hx = none ∧ freeWays s x ≠ [] ∧ 16 ≤ (freeSectors s x).length ∧ (s.vi (s.frameOwner (x / 32))).cstat = 0 ∧
    (s.vi vi).cstat = 0 ∧ (s.vi h.gvi).cstat = 0 ∧ roomQueue x s = []

/-- A message that a home drops is counted, and that is all (07 R159, R169). -/
def dropped (s : State) (x : Nat) : Host.Outcome State Fault Refusal :=
  .next (s.updDie (homeDie x) fun d => { d with stale := d.stale + 1 })

/-- A sequencer that waited for a line goes on. -/
def GoesOn (s t : State) (k : Nat) : Prop :=
  ((s.seq k).wait = .line → (t.seq k).wait = .run) ∧ (t.seq k).pc = (s.seq k).pc ∧ (t.seq k).g = (s.seq k).g ∧ t.mem = s.mem ∧
    t.stage = s.stage ∧ ∀ j, j ≠ k → t.seq j = s.seq j
/-! ## Chains and engines (19 R420 to R441; 06 R144 to R147) -/

/-- The chain of the current sequencer's context at an engine of its die (19 R420). -/
def chainOf (s : State) (eng : Nat) : ChainId := { vi := s.me.vi, cid := s.me.cid, die := dieOfSeq s.cur, eng := eng }

/-- An instruction that reports completion observes its time (19 R439). -/
def observing (s : State) (eng : Nat) (q : Seq) : Seq := { q with pts := max q.pts (s.chain (chainOf s eng)).doneT }

/-- The commands of a chain that an ECABORT from number n stops (19 R440). -/
def stopsAt (n : Nat) (x : Cmd) : Bool := decide (n ≤ x.n) && x.status.isNone && decide (x.phase ≠ .follow) && !x.stop

/-- A command of an engine with a plain page pinned for an address. -/
def EngPinned (s : State) (c : ChainId) (x : Cmd) (va : Nat) (kind : Access) (l : Leaf) : Prop :=
  va < 2 ^ 57 ∧ (∃ e, (x.pins.find? fun e => e.covers c.vi c.cid va) = some e ∧ e.leaf = l) ∧ l.level = 0 ∧
    checkLeaf (engAccessor c s) va kind l s = none ∧ l.acc = true ∧ l.dirty = true ∧ l.mv = false ∧ l.ph = false ∧ l.sh = false ∧
    isMemory (l.pa va) = true ∧ l.pa va % 128 = va % 128

/-- An engine's store of n bytes in one line that its home holds for nobody. -/
def EngStores (s : State) (c : ChainId) (x : Cmd) (va n : Nat) (l : Leaf) (h : HomeLine Nat) : Prop :=
  EngPinned s c x va .write l ∧ HomeReady s (l.pa va / 128) h ∧ Storable s (max x.clock h.rts + 1) ∧
    s.engCopy c.die c.eng (l.pa va / 128) = none ∧ va % 128 + n ≤ 128

/-- The engine took the line and gives it back: n bytes of v at the address, every other byte as it was. -/
def EngStored (s t : State) (c : ChainId) (va n v : Nat) (l : Leaf) (h : HomeLine Nat) : Prop :=
  ∃ T d h1, .wb (engOwner c) (ownerGen (engOwner c) s) (l.pa va / 128) ((h.ver + 1) % 256) T T d (maskOf (va % 128) n) false ∈ t.due ∧
    h.rts < T ∧ t.home (l.pa va / 128) = some h1 ∧ h1.own = some (engOwner c) ∧ h1.ver = (h.ver + 1) % 256 ∧
    lineField d (va % 128) n = v % 2 ^ (8 * n) ∧
    ∀ j, j < 128 → j < va % 128 ∨ va % 128 + n ≤ j → lineByte d j = lineByte h.data j

/-- The command's stream has ended with a status; its record is next (19 R425). -/
def EngEnded (s t : State) (c : ChainId) (st : Nat) : Prop :=
  ∃ y, t.headCmd c = some y ∧ y.status = some st ∧ y.phase = .record ∧ .commandComplete c ∈ t.due ∧ t.mem = s.mem ∧ t.stage = s.stage

/-- A command whose operation runs on its segment, with nothing recalled and no line held. -/
def Operating (s : State) (c : ChainId) (x : Cmd) (eng op : Nat) : Prop :=
  s.headCmd c = some x ∧ x.phase = .operate ∧ c.eng = eng ∧ x.op = op ∧ x.front = [] ∧ x.stop = false

/-- n bytes at the first byte of a line: the entry, `a` its other field, of a copy, a fill, a put or a reduction. -/
def OneLine (c : ChainId) (x : Cmd) (n d a : Nat) : Prop :=
  0 < n ∧ n ≤ 128 ∧ d % 128 = 0 ∧ x.flag 3 = false ∧ x.flag 4 = false ∧ x.field 24 8 = d ∧ x.field 16 8 = a ∧
    x.pos = 0 ∧ x.wrote = [] ∧ x.data = none ∧ n = match c.eng, x.op with
      | 0, _ => if x.field 12 4 = 1 then x.field 32 4 else 0
      | _, 0 => x.field 12 4
      | _, _ => if x.width 10 ∈ [1, 2, 4, 8] then x.field 12 4 * x.width 10 else 0

/-- The line that an engine wrote and gives back: its first n bytes new, the others as they were. -/
def GivenBack (s t : State) (c : ChainId) (y : Nat) (p : Copy Nat) (n : Nat) (new : Nat → Byte) : Prop :=
  ∃ T d, .wb (engOwner c) (ownerGen (engOwner c) s) y p.ver T T d (p.mask ||| maskOf 0 n) false ∈ t.due ∧ p.rts < T ∧
    t.engCopy c.die c.eng y = none ∧ t.mem = s.mem ∧ t.stage = s.stage ∧
    ∀ j, j < 128 → lineByte d j = if j < n then new j else lineByte p.data j
/-! ## Links and the package (02; 01) -/

/-- n bytes of v at byte o of a line's home, the other bytes as they were. -/
def HomeStored (t : State) (x : Nat) (h : HomeLine Nat) (o n v : Nat) : Prop :=
  ∃ h1, t.home x = some h1 ∧ lineField h1.data o n = v % 2 ^ (8 * n) ∧
    ∀ j, j < 128 → j < o ∨ o + n ≤ j → lineByte h1.data j = lineByte h.data j

/-- Only the outbox and a home's own record of a line that was read may differ. -/
def Answered (s t : State) (x : Nat) (h : HomeLine Nat) (ms : List OutMsg) : Prop :=
  t.outbox = s.outbox ++ ms ∧ t.mem = s.mem ∧ t.stage = s.stage ∧ t.seqs = s.seqs ∧ t.copies = s.copies ∧
    ∃ h1, t.home x = some h1 ∧ h1.data = h.data ∧ h1.own = h.own ∧ h1.wts = h.wts ∧ h1.rts = h.rts

/-- The lines from an address on lie in memory that no home holds, is not converted and is in device bias; nothing else is to be
written there, and times are far below what can be stored (07 R166). -/
def BytesPlain (s : State) (pa n : Nat) : Prop :=
  ∀ x, pa / 128 ≤ x → 128 * x < pa + n → isMemory (128 * x) = true ∧ s.homes.find x = none ∧ s.converted.find (x / 32) = none ∧
    s.hostBias x = false ∧ (∀ w ∈ s.devWrites, w.1 ≠ x) ∧ Storable s (s.mts x + 500)

/-- An energy counter after more energy (01 R13). -/
def Charged (s t : State) (key e : Nat) : Prop := t.energy.getD key 0 = (s.energy.getD key 0 + e) % 2 ^ 64

/-- Whether energy fits a window (01 R15). -/
def fits (watts e : Nat) : Prop := 1000 * e ≤ watts * 2 ^ 24

/-- THRESH errors of a region have come within the window (01 R19). -/
def Lasting (s : State) (r : Region) : Prop :=
  let es := (s.errTimes.getD (regionKey r) []).take (s.mgmt.thresh - 1)
  s.mgmt.thresh - 1 ≤ es.length ∧ ∃ t, es.getLast? = some t ∧ s.cycle ≤ t + s.mgmt.window * 1000000000

/-- A region's retirement begins (01 R21, R22). -/
def RetireBegins (s t : State) (r : Region) : Prop :=
  r ∈ t.retiredLog ∧ (∀ x ∈ s.retiredLog, x ∈ t.retiredLog) ∧
    (∀ f, r = .page f → t.due.getLast? = some (.eventPost .pf 0x04 0 (4096 * f) 0)) ∧
    (∀ d b, r = .stageBlock d b → t.due.getLast? = some (.eventPost .pf 0x05 0 (d * 2 ^ 32 + 4096 * b) 0)) ∧
    ∀ d n w, r = .llcWay d n w → (s.slices.getD (64 * d + n) {}).retiring = none →
      (t.slices.getD (64 * d + n) {}).retiring = some w ∧ w ∈ (t.slices.getD (64 * d + n) {}).retired
/-! ## Interfaces and their registers (03 R50 to R68; 08 R189 to R196; 11 R246, R265, R266) -/

/-- The window of an interface accepts accesses (03 R55; 01 R27). -/
def Open (s : State) (vi : Nat) : Prop := vi < 128 ∧ (s.vi vi).en = true ∧ s.recovery = false

/-- The management window does (02 R31; 01 R25). -/
def Managed (s : State) : Prop := s.recovery = false ∧ s.pfPresent = true

/-- A queue of an interface. -/
def queueOf (s : State) (vi q : Nat) : Queue := (s.vi vi).queues.getD q {}

/-- The fields of a context descriptor (03 R56): root, save slots, tiles, frame list, and the bytes that are 0. -/
def descField (d off n : Nat) : Nat := bitsAt d (8 * off) (8 * n)

/-- What CTXCMD asks of a descriptor's bytes (03 R56, R57). -/
def GoodDescriptor (s : State) (vi d : Nat) : Prop :=
  descField d 11 5 = 0 ∧ descField d 24 40 = 0 ∧ 1 ≤ descField d 8 2 ∧ descField d 8 2 ≤ 8192 ∧ descField d 10 1 ≤ 8 ∧
    descField d 0 8 % 16384 = 0 ∧ ownBytes vi (descField d 0 8) 16384 s = true ∧
    ownBytes vi (descField d 16 8) (8 * (descField d 8 2 * (12 + 16 * descField d 10 1))) s = true ∧
    ∀ p ∈ frameList (descField d 16 8) (descField d 8 2 * (12 + 16 * descField d 10 1)) s, isMemory p = true ∧ s.frameOwner (p / 4096) = vi

/-- A pool-table entry of the interface in memory that no home holds, outside a frame (08 R191), and no access is counted; the
frame's lines have times far below what can be stored. -/
def PoolPlain (s : State) (vi i f : Nat) : Prop :=
  let a := (s.vi vi).cptbase.toNat + 16 * i
  (s.vi vi).cptbase.toNat % 16 = 0 ∧ BytesPlain s a 16 ∧ ownBytes vi a 16 s = true ∧ a / 4096 ≠ f ∧ s.mgmt.heatEn = false ∧
    ∀ x h, x / 32 = f → s.home x = some h → Storable s (h.rts + 500)

/-- Its two words: FRAME with V and GRANT, and FREE. -/
def poolWords (s : State) (vi i : Nat) : Nat × Nat :=
  let a := (s.vi vi).cptbase.toNat + 16 * i
  (s.mem.read a 8, s.mem.read (a + 8) 4)

/-- The count that a read of a register of a die returns and clears (07 R175; 08 R187). -/
def readAndClear (i : Instr) : Option (Nat × (Die → Nat) × (Die → Die)) :=
  match i with
  | .staledropRead d => some (d, Die.stale, fun x => { x with stale := 0 })
  | .phovlRead d => some (d, Die.phovl, fun x => { x with phovl := 0 })
  | .renewdRead d => some (d, Die.renewd, fun x => { x with renewd := 0 })
  | .renewfRead d => some (d, Die.renewf, fun x => { x with renewf := 0 })
  | .expevictRead d => some (d, Die.expevict, fun x => { x with expevict := 0 })
  | .exprecallRead d => some (d, Die.exprecall, fun x => { x with exprecall := 0 })
  | .incompRead d => some (d, Die.incomp, fun x => { x with incomp := 0 })
  | .poolexpRead d => some (d, Die.poolexp, fun x => { x with poolexp := 0 })
  | .mdhitRead d => some (d, Die.mdhit, fun x => { x with mdhit := 0 })
  | .mdmissRead d => some (d, Die.mdmiss, fun x => { x with mdmiss := 0 })
  | .mdueRead d => some (d, Die.mdue, fun x => { x with mdue := 0 })
  | .mdleakRead d => some (d, Die.mdleak, fun x => { x with mdleak := 0 })
  | _ => none

/-- The registers that only keep what is written: of the physical function, and of an interface. -/
def keepMgmt (o : Nat) (v : DWord) : Option (Mgmt → Mgmt) :=
  let base : DWord := BitVec.ofNat 64 (v.toNat % 2 ^ 52 / 4096 * 4096)
  if o = 0x110 then some fun m => { m with hostbase := base }
  else if o = 0x118 then some fun m => { m with peerid := v.toNat % 1024 }
  else if o = 0x120 then some fun m => { m with fwstage := BitVec.ofNat 64 (v.toNat % 2 ^ 52 / 65536 * 65536) }
  else if o = 0x300 then some fun m => { m with heatbase := base }
  else if o = 0x500 then some fun m => { m with mdbaseh := base ||| (v &&& 1) }
  else if o = 0x508 then some fun m => { m with mdbasel := base ||| (v &&& 1) }
  else if o = 0x700 then some fun m => { m with peeren0 := v }
  else if o = 0x708 then some fun m => { m with peeren1 := v }
  else none

def keepVi (o : Nat) (v : DWord) : Option (Vi → Vi) :=
  if o = 0x20000 then some fun x => { x with ctxdesc := v }
  else if o = 0x20100 then some fun x => { x with pltbase := BitVec.ofNat 64 (v.toNat / 16 * 16) }
  else if o = 0x20108 then some fun x => { x with pltsize := min (2 ^ 24) v.toNat }
  else if o = 0x20120 then some fun x => { x with cbframe := v }
  else if o = 0x20138 then some fun x => { x with cptbase := BitVec.ofNat 64 (v.toNat / 16 * 16) }
  else if o = 0x20140 then some fun x => { x with cptsize := min (2 ^ 27) v.toNat }
  else if o = 0x20200 then some fun x => { x with dbgsel := v }
  else if o = 0x20218 then some fun x => { x with dbgbuf := v }
  else none

/-! ## Accesses that the slice can answer (07 R155, R157; 16 R357 to R361, R364 to R369) -/

/-- The base page of a vector access: translated, not a peer's, and without a format of its own; no format in MFMT. -/
def RawBase (s : State) (base : Nat) (kind : Access) (l : Leaf) : Prop :=
  Cached s base kind true l ∧ l.fv = false ∧ s.me.c.mfmt.getLsbD 0 = false ∧ tierOf (l.pa base) ≠ .peer

/-- The byte address of field f of element e, none where VGTHW's index lies outside its window (16 R354, R367). -/
def fieldPlace (o : VMemOp) (q : Seq) (e f : Nat) : Option Nat :=
  let n := typeBits o.acc.t / 8
  let base : Int := ((q.gRead o.acc.a).toNat : Int)
  let s := q.c.vstride.toInt
  let i := element (q.vRead o.acc.b) q.c.sewBits e
  match o.acc.shape with
  | .broadcast => some (base % 2 ^ 64).toNat
  | .indexed none => some ((base + (BitVec.ofNat q.c.sewBits i).toInt * n) % 2 ^ 64).toNat
  | .indexed (some w) => if i < w then some ((base + i * n) % 2 ^ 64).toNat else none
  | .unit => some ((base + e * if s = 0 then (n : Int) else s) % 2 ^ 64).toNat
  | .segment k => some (if s = 0 then ((base + (k * e + f) * n) % 2 ^ 64).toNat else ((base + e * s + f * n) % 2 ^ 64).toNat)

/-- The fields of the elements done now, in order. -/
def fieldsNow (o : VMemOp) (q : Seq) : List (Nat × Nat) :=
  (elemsNow q true).flatMap fun e => (List.range o.acc.fields).map fun f => (e, f)

/-- Every field lies, aligned, in the line at virtual address `at_`. -/
def InOneLine (o : VMemOp) (q : Seq) (at_ : Nat) : Prop :=
  at_ % 128 = 0 ∧ ∀ x ∈ fieldsNow o q, ∀ a, fieldPlace o q x.1 x.2 = some a → a % (typeBits o.acc.t / 8) = 0 ∧ a / 128 = at_ / 128

/-- What a vector instruction outside a strip finds: nothing left of an earlier attempt, a type that fits. -/
def PlainVector (o : VMemOp) (q : Seq) : Prop :=
  o.stage = false ∧ o.slot = false ∧ o.acc.t < 15 ∧ 8 ≤ typeBits o.acc.t ∧ typeBits o.acc.t ≤ q.c.sewBits ∧ q.Ready (o.needs q) ∧
    q.strip = none ∧ Calm q ∧ elemsNow q true ≠ []

/-- The line at `at_` is held by the slice, its translation cached, its page plain and without a format. -/
def LineRaw (s : State) (at_ : Nat) (kind : Access) (l : Leaf) (p : Copy Nat) : Prop :=
  LineHeld s at_ kind l p ∧ l.fv = false ∧ l.pa at_ % 128 = 0

/-- The bytes that an instruction touches lie in plain pages whose lines the slice owns: L gives each page's leaf, P each line's
copy, with times far enough below what can be stored (07 R166); no byte has two of the addresses. -/
def BytesOwned (s : State) (D : Nat → Prop) (kind : Access) (L : Nat → Leaf) (P : Nat → Copy Nat) : Prop :=
  StorableAfter s s.me.pts ∧
    (∀ va, D va → LineOwned s va kind (L (va / 4096)) (P (va / 128)) ∧ (L (va / 4096)).base % 4096 = 0 ∧
      StorableAfter s (max (P (va / 128)).wts (P (va / 128)).rts)) ∧
    ∀ va w, D va → D w → (L (va / 4096)).pa va / 128 = (L (w / 4096)).pa w / 128 → va / 128 = w / 128

/-- The byte at a virtual address in those lines. -/
def heldByte (P : Nat → Copy Nat) (va : Nat) : Byte := lineByte (P (va / 128)).data (va % 128)

/-- Their lines afterwards: g gives every byte of them by its virtual address, and no other copy has changed. -/
def BytesBecome (s u : State) (D : Nat → Prop) (L : Nat → Leaf) (g : Nat → Byte) : Prop :=
  (∀ va, D va → ∃ p, u.copies.find (copyKey (s.cur / 32) ((L (va / 4096)).pa va / 128)) = some p ∧
    ∀ j, j < 128 → lineByte p.data j = g (va / 128 * 128 + j)) ∧
    ∀ k, (∀ va, D va → k ≠ copyKey (s.cur / 32) ((L (va / 4096)).pa va / 128)) → u.copies.find k = s.copies.find k

/-- n bytes of v stored over bytes. -/
def putBytes (at_ n v : Nat) (f : Nat → Byte) : Nat → Byte :=
  fun a => if at_ ≤ a ∧ a < at_ + n then BitVec.ofNat 8 (v / 2 ^ (8 * (a - at_))) else f a

/-- The addresses from `base` on, n of them, below 2^57. -/
def spanning (base n : Nat) : Nat → Prop := fun va => base ≤ va ∧ va < base + n

/-- What an access to memory leaves of the current sequencer. -/
def MemKept (s u : State) : Prop :=
  u.me.g = s.me.g ∧ u.me.v = s.me.v ∧ u.me.p = s.me.p ∧ u.me.n = s.me.n ∧ s.me.pts ≤ u.me.pts ∧
    u.me.pc = (loopStep s.me.pc s.me.loops).2 ∧ u.mem = s.mem ∧ u.stage = s.stage ∧ u.cur = s.cur

/-- The header of a spill slot (16 R371). -/
def slotHead (q : Seq) : Nat := q.c.vl + q.c.sew * 2 ^ 32 + q.c.nvlog * 2 ^ 40

/-- Byte i of a latch image (17 R393). -/
def latchByte (l : Latch) (i : Nat) : Byte :=
  if i < 2 then BitVec.ofNat 8 (l.lk / 256 ^ i)
  else if i < 4 then BitVec.ofNat 8 (l.lm / 256 ^ (i - 2))
  else if i = 4 then BitVec.ofNat 8 l.ltype
  else if i = 5 then 1
  else if i < 64 then 0
  else if (i - 64) / 512 < l.lm then BitVec.ofNat 8 (l.rows.getD ((i - 64) / 512) 0 / 256 ^ ((i - 64) % 512)) else 0

/-- The addresses of the rows of TSTORE from VSTART on (17 R392). -/
def rowBytes (base pitch lo hi n : Nat) : Nat → Prop := fun va => ∃ r, lo ≤ r ∧ r < hi ∧ base + r * pitch ≤ va ∧ va < base + r * pitch + n

/-- What TSTORE stores of element (r, j): with .RELU, +0 for what is negative; converted to type t. -/
def storedElem (q : Seq) (d : BitVec 5) (t : Nat) (relu : Bool) (r j : Nat) : Nat × BitVec 6 :=
  let x := tileAt (q.aRead d.toNat) r j
  convert t 13 (tileRound q r j) (if relu = true ∧ isNaN (decodeFloat 13 x) = false ∧ 2 ^ 31 ≤ x then 0 else x)

/-- A row as it is stored, lowest column first. -/
def storedRow (q : Seq) (d : BitVec 5) (t : Nat) (relu : Bool) (r : Nat) : Nat :=
  ((List.range 128).map fun j => (storedElem q d t relu r j).1 * 2 ^ (typeBits t * j)).sum

/-- The rows from lo to hi − 1. -/
def rowsFrom (lo hi : Nat) : List Nat := (List.range hi).filter fun r => lo ≤ r

/-! ## Words, reset and checks (13 R291 to R303) -/

/-- Words that the spec writes out beside the instruction they stand for (13 R301; 14 R324, R328; 15 R350; 16 R351; 17 R381;
18 R399, R405; 19 R436, R441). -/
def specWords : List (Nat × Instr) :=
  [(0x10184490, .add 3 1 2 0 1 2 0), (0x1039D038, .add 7 7 8 0 0 7 0), (0x5323FFFD, .bnez 4 0 0x3FFFD), (0x5C280006, .loop 5 0 6),
   (0x5C300005, .loop 6 0 5), (0x5E400001, .lidx 8 1), (0x6C299602, .sto 5 6 0 5 2), (0x70000005, .vcfg 5),
   (0x71104002, .setvl 2 1 0 2), (0xA9080031, .viota 1 0 0 6 1), (0xC2104C68, .vicvt 2 1 6 0 13 0),
   (0xAC188068, .vfred 3 2 0 0 0 13 0), (0x91084832, .vcmps 1 1 4 0 0 6 2), (0x80108A6C, .vfadd 2 2 5 0 0 13 4),
   (0xB31842E8, .vgth 3 1 0 2 1 13), (0xD2114C45, .mop 2 5 6 0 0 8 1 1), (0xE0191317, .amo 3 4 0 4 3 1 7),
   (0xE6214038, .hacc 4 5 0 7 0), (0xF0190000, .ecmd 3 4 0 0), (0xF5194000, .sleepto 3 5 0 0), (0x00FF1234, .trapz 0xFF1234)]

/-- Control registers whose reset value the maps give (11 R244, R245; 07 R152; 10 R220, R222, R226, R229, R230). -/
def controlResets : List (Nat × DWord) :=
  [(0x03, 0), (0x04, 0), (0x05, 0), (0x06, 131072), (0x1C, 65536)]

/-- The sequencer `k` at its turn: time has passed and values in flight have landed (log 2). -/
def atTurn (k : Agent) (s : State) : State := (idleAdvance k { tick 1 s with cur := k }).upd k Seq.land

/-- Nothing comes before the turn of sequencer `k`, and nothing is due for it (log 2). -/
def TurnOf (k : Agent) (s : State) : Prop :=
  s.off = false ∧ s.agenda = [] ∧ s.due = [] ∧ reissueDue s = none ∧ bindDue s = none ∧ nextSeq (tick 1 s) = some k ∧
    (timed k { tick 1 s with cur := k }).isNone = true ∧ (s.seq k).canTurn = true ∧ ((atTurn k s).seq k).estepDue = none ∧
    refusalDue k (atTurn k s) = false

/-- The trap of a word that no entry accepts (13 R301). -/
def refusedWord (w : Word32) : Decoded → Option (Nat × Nat)
  | .unassigned | .short => some (0x01, 1)
  | .reserved => some (0x01, 2)
  | .operand => some (0x03, w.toNat)
  | .instr _ | .last _ => none

end Sys2Proof.Claims

open Sys2Proof Sys2Proof.Machine Sys2Proof.Claims

/-- 13 R291 to R300: words that the spec writes out decode to the instructions they stand for. -/
def Obligations.DecodeWords : Prop := ∀ e ∈ specWords, decodeTableWord 32 e.1 = some e.2

/-- 13 R291 to R301: the word of every well-formed instruction that has one fits in 32 bits, and its bytes, whatever follows them,
decode to it. -/
def Obligations.DecodeEncode : Prop :=
  ∀ (i : Instr) (rest : List Byte), i.isEncoded = true → i.WellFormed →
    i.encodeNat < 2 ^ 32 ∧ (decodeBytes (bytesOfWord i.encodeNat ++ rest)).toInstr = some i

/-- 13 R301 to R303: at a sequencer's turn the step is exec of the instruction that the word at its pc decodes to, at the state
that the fetch leaves; a word that no entry accepts takes its trap. The word is the one fetched before, or those bytes of memory,
of a matte's slot where one covers the line (04 R87; log 2 for whose turn it is, log 13 for the fetch). -/
def Obligations.StepRunsDecodedInstruction : Prop :=
  (∀ (s t : State) (k : Agent) (w : Word32), TurnOf k s → fetchWord k (atTurn k s) = .ok w t →
    (∀ i, (decodeWord w.toNat).toInstr = some i → step s = exec i t) ∧
    (∀ c v, refusedWord w (decodeWord w.toNat) = some (c, v) → step s = .next (trapSeq k c v t))) ∧
  (∀ (s : State) (w : Word32), (s.me.fetched.find s.me.pc.toNat) = some w → fetchWord s.cur s = .ok w s) ∧
  (∀ (s : State) (l : Leaf), let va := s.me.pc.toNat
    let x := fetchLine s.cur va l s
    s.me.fetched.find va = none → Cached s va .fetch false l → (tierOf (l.pa va) = .hbm ∨ tierOf (l.pa va) = .lpddr) →
    recordBad s.cur l s = false → fetchOpens x s = false → lineBad x s = false →
    let w := BitVec.ofNat 32 (lineField (lineNow x s) (l.pa va % 128) 4)
    ∃ t, fetchWord s.cur s = .ok w t ∧ t.me.fetched.find va = some w ∧ t.me.pc = s.me.pc ∧ t.me.g = s.me.g ∧ t.me.c = s.me.c ∧
      t.me.n = s.me.n ∧ t.mem = s.mem ∧ t.stage = s.stage ∧ t.copies = s.copies ∧ t.homes = s.homes) ∧
  ∀ (w : Word32) (i : Instr), (decodeWord w.toNat).toInstr = some i →
    ∃ t, step (State.reset.withFetchWord 32 w.toNat) = exec i t ∧ t.me.pc = 0 ∧ t.me.bound.isSome = true ∧ t.me.g = State.reset.me.g

/-- 07 R150, R153; 02 R34; 01 R11; 04 R97; 05 R121; 11 R244, R245: what reset leaves. Memories that list nothing, registers of log 3
and the clock of log 9 are the model's choice. -/
def Obligations.ResetState : Prop :=
  let s := State.reset
  s.Canonical ∧ s.mem = [] ∧ s.stage = [] ∧ s.homes = [] ∧ s.copies = [] ∧ s.bias = [] ∧ s.tbase = 0 ∧ s.cycle = 0 ∧
    s.mgmt.modbudget = 2800 ∧ s.mgmt.tlbpinwait = 100000 ∧ s.mgmt.preemptdl = 100000 ∧ s.vis = [] ∧ s.slates = [] ∧ s.off = false ∧
    (∀ d n, (s.slices.getD (64 * d + n) {}).mts = {}) ∧
    ∀ k, (s.seq k).bound = none ∧ (∀ i, (s.seq k).gRead i = 0) ∧ ∀ e ∈ controlResets, ctlRead k e.1 s = e.2

/-- Every step keeps both byte memories in canonical form (log 4): addresses rising, no byte listed that an unlisted one reads
as. -/
def Obligations.MemoriesStayCanonical : Prop :=
  ∀ s t : State, s.Canonical → step s = .next t → t.Canonical

/-- 13 R301; 11 R240, R243, R247: the checks of an instruction, in their order: privilege, the registers' existence, the types,
then an empty source whose E bit is set; without E the instruction waits. -/
def Obligations.JudgingOrder : Prop :=
  (∀ (i : Instr) (s : State), Handled s.me → s.me.n.priv = false →
    (∃ d a e k, i = .tlbinv d a e k) ∨ (∃ d a e k, i = .bflip d a e k) ∨ (∃ d a e, i = .mgrant d a e) → exec i s = .next (trapped s 0x05 0)) ∧
  (∀ (s : State) (d a b : BitVec 5) (e f : BitVec 1) (t : BitVec 4) (v : BitVec 3), Handled s.me →
    (2 ^ s.me.c.nvlog ≤ d.toNat → exec (.vadd d a b e f t v) s = .next (trapped s 0x02 (0x100 + d.toNat))) ∧
    (d.toNat < 2 ^ s.me.c.nvlog → 2 ^ s.me.c.nvlog ≤ a.toNat → exec (.vadd d a b e f t v) s = .next (trapped s 0x02 (0x100 + a.toNat))) ∧
    (8 ≤ d.toNat → exec (.pnot d a e) s = .next (trapped s 0x02 (0x200 + d.toNat))) ∧
    (8 ≤ d.toNat ∨ s.me.n.claim.getLsbD d.toNat = false → exec (.tmov d a e) s = .next (trapped s 0x02 (0x300 + d.toNat)))) ∧
  (∀ (s : State) (d : BitVec 5) (n : BitVec 8), Handled s.me → ctlExists n.toNat = false →
    exec (.ctlr d n) s = .next (trapped s 0x02 (0x400 + n.toNat))) ∧
  ∀ (s : State) (d a b : BitVec 5) (e f : BitVec 1) (t : BitVec 4) (v : BitVec 3), Handled s.me →
    let full (r : BitVec 5) : Bool := s.me.isFull (.g r.toNat)
    let i := Instr.add d a b e f t v
    (8 ≤ t.toNat → exec i s = .next (trapped s 0x03 i.encodeNat)) ∧
    (t.toNat < 8 →
      (e = 1 → full a = false → exec i s = .next (trapped s 0x06 a.toNat)) ∧
      (e = 0 ∨ full a = true → f = 1 → full b = false → exec i s = .next (trapped s 0x06 b.toNat)) ∧
      (e = 0 ∨ full a = true → f = 0 ∨ full b = true → full a = false ∨ full b = false ∨ full d = false →
        exec i s = .next (s.waitFor s.cur .full)))

/-- 14 R304, R306, R310, R312 to R318: each scalar arithmetic instruction that writes at once gives g[d] its value and sets the flags
of its result; all else is kept. -/
def Obligations.ScalarResults : Prop :=
  (∀ (i : Instr) (s : State) (o : ScalarOp), scalarOp i = some o → o.ok = true → s.me.Ready (.g o.d :: o.srcs) →
    s.me.Writable o.d (o.value s.me) → s.Fresh →
    exec i s = .next (s.done (fun q => (q.gSet o.d (o.value s.me)).raise (o.flags s.me)) .next)) ∧
  (∀ (i : Instr) (s : State) (o : ScalarOp), floatResult i = some o → o.ok = true → s.me.Ready (.g o.d :: o.srcs) →
    s.me.Writable o.d (o.value s.me) → s.Fresh →
    exec i s = .next (s.done (fun q => (q.gSet o.d (o.value s.me)).raise (o.flags s.me)) .next))

/-- 14 R311 (and R305, R317): the instructions that mark their destination empty at issue: a zero divisor gives all ones or the
dividend and sets DZ; the most negative number divided by −1 gives itself with remainder 0 and no flag. -/
def Obligations.LateScalarResult : Prop :=
  ∀ (i : Instr) (s : State) (o : ScalarOp), lateResult i = some o → o.ok = true → s.me.Ready (.g o.d :: o.srcs) →
    s.me.Writable o.d (o.value s.me) → s.Fresh →
    exec i s = .next (if o.d = 0 then s.done (fun q => q.raise (o.flags s.me)) .next
      else (s.done (fun q => (q.raise (o.flags s.me)).setFull (.g o.d) false) .next).post
        (.longLatencyResult s.cur (.g o.d) (o.value s.me).toNat))

/-- 14 R308; 11 R243 to R245: each control-register instruction where its register exists; what a written register reads as within
its RW fields; no other register changes. -/
def Obligations.ControlRegisters : Prop :=
  (∀ (i : Instr) (s : State) (m : CtlMove), ctlMove i = some m → ctlExists m.n = true →
    s.me.Ready ((m.d.toList ++ m.a.toList).map RegRef.g) →
    (∀ d, m.d = some d → s.me.Writable d (ctlRead s.cur m.n s)) → s.Fresh →
    exec i s = .next (s.done (m.effect (ctlRead s.cur m.n s) (s.me.gRead (m.a.getD 0))) .next)) ∧
  (∀ (s : State) (k : Agent) (n : Nat) (v : DWord),
    (∀ w, ctlWritten (ctlRead k n s) v n = some w → ctlRead k n (s.upd k (ctlWrite n v)) = w) ∧
    (ctlReadOnly n = true → s.upd k (ctlWrite n v) = s.upd k id) ∧
    (∀ m, m ≠ n → ctlRead k m (s.upd k (ctlWrite n v)) = ctlRead k m s))

/-- 14 R319, R320, R323 to R325: where each branch, jump and loop instruction goes and what it changes; how one retirement steps the
loop stack. -/
def Obligations.BranchesAndLoops : Prop :=
  (∀ (i : Instr) (s : State) (o : BranchOp), branchOp i = some o → s.me.Ready o.regs → o.ok s.me = true → s.Fresh →
    exec i s = .next (s.done o.effect (o.flow s.me))) ∧
  (∀ (x : DWord) (es : List LoopEntry),
    (∀ e rest, es = e :: rest → endOf e = x → e.index + 1 < e.count →
      loopStep x es = ({ e with index := e.index + 1 } :: rest, e.start)) ∧
    (∀ e rest, es = e :: rest → endOf e = x → e.count ≤ e.index + 1 → loopStep x es = loopStep x rest) ∧
    (∀ e rest, es = e :: rest → endOf e ≠ x → loopStep x es = (es, x + 4)) ∧ loopStep x [] = ([], x + 4) ∧
    (loopStep x es).1.length ≤ es.length)

/-- 14 R326 to R328; 11 R239; 07 R155; 06 R132: each scalar load of a line that the slice holds completes: g[d] is empty until the
extended bytes, under the sequencer's own buffered ones, arrive; pts follows the line's time; LDO then acquires. And whatever
answers the location, the load completes with its bytes. -/
def Obligations.ScalarLoads : Prop :=
  (∀ (i : Instr) (s t : State) (o : LoadOp) (v : Nat), loadOp i = some o → s.me.Ready [.g o.d.toNat, .g o.a.toNat] →
    loadAt (o.va s.me) o.n s = .ok v t → t.me.Writable o.d.toNat (loaded o.n o.signed v) →
    exec i s = .next (s.retired (t.updMe fun q => acquired o.scope t (arriving o.d.toNat (loaded o.n o.signed v) q)) .next)) ∧
  ∀ (i : Instr) (s : State) (o : LoadOp) (l : Leaf) (p : Copy Nat), loadOp i = some o →
    let va := o.va s.me
    let x := l.pa va / 128
    let c := s.cur / 32
    let t := max s.me.pts p.wts
    let r := loaded o.n o.signed (lineField (overlay s.me.buffers (.line x) p.data) (l.pa va % 128) o.n)
    s.me.Ready [.g o.d.toNat, .g o.a.toNat] → va % o.n = 0 → Cached s va .read false l → Leaf.Plain l →
    (tierOf (l.pa va) = .hbm ∨ tierOf (l.pa va) = .lpddr) → s.copy c x = some p → p.poison = false →
    (p.own = true ∨ t ≤ p.rts) → Storable s t → commitLocked s.cur x s = false →
    (∀ st, s.me.strip = some st → st.ownMode = false ∧ st.reads.length < 2048) → s.Fresh → s.me.Writable o.d.toNat r →
    ∃ u, exec i s = .next u ∧ u.me.full = (arriving o.d.toNat r s.me).full ∧ u.me.arrivals = (arriving o.d.toNat r s.me).arrivals ∧
      u.me.pts = (acquired o.scope s { s.me with pts := t }).pts ∧ u.me.g = s.me.g ∧ u.me.v = s.me.v ∧ u.me.p = s.me.p ∧
      u.me.a = s.me.a ∧ u.me.c = s.me.c ∧ u.me.n = s.me.n ∧ u.me.pc = (loopStep s.me.pc s.me.loops).2 ∧
      OthersKept s u ∧ u.homes = s.homes ∧ u.mem = s.mem ∧ u.stage = s.stage ∧
      (∀ k, k ≠ copyKey c x → u.copies.find k = s.copies.find k) ∧
      u.copy c x = some { p with gen := s.tgen, rts := if p.own then max p.rts t else p.rts }

/-- 14 R326 to R328; 07 R157; 11 R250: each scalar store outside a strip to a line that the slice owns writes its bytes at a time
above every lease, and no other byte of any line, of memory or of Stage memory; STO is such a store once its release is done; a
plain store inside a strip is buffered, and only the sequencer sees its bytes. -/
def Obligations.ScalarStores : Prop :=
  (∀ (i : Instr) (s t : State) (o : StoreOp), storeOp i = some o → s.me.Ready [.g o.d.toNat, .g o.a.toNat] →
    (∀ c, o.rel = some c → s.me.Closed ∧ Released c s) →
    storeAt (o.va s.me) o.n (s.me.gRead o.d.toNat).toNat s = .ok () t → exec i s = .next (s.retired t .next)) ∧
  (∀ (i : Instr) (s : State) (o : StoreOp) (l : Leaf) (p : Copy Nat), storeOp i = some o →
    let va := o.va s.me
    let v := (s.me.gRead o.d.toNat).toNat
    let x := l.pa va / 128
    let c := s.cur / 32
    let T := max s.me.pts (p.rts + 1)
    s.me.Ready [.g o.d.toNat, .g o.a.toNat] → (∀ c, o.rel = some c → s.me.Closed ∧ Released c s) → Storable s T →
    va % o.n = 0 → Cached s va .write true l → Leaf.Plain l → (tierOf (l.pa va) = .hbm ∨ tierOf (l.pa va) = .lpddr) →
    s.copy c x = some p → p.own = true → p.forRead = false → p.poison = false → holders c x s = [] → s.me.strip = none →
    s.me.phase = [] → s.me.commit = none → s.me.holds = [] →
    ∃ u, exec i s = .next u ∧ u.me.pts = T + idleSteps s ∧ u.me.g = s.me.g ∧ u.me.v = s.me.v ∧ u.me.p = s.me.p ∧ u.me.a = s.me.a ∧
      u.me.c = s.me.c ∧ u.me.n = s.me.n ∧ u.me.pc = (loopStep s.me.pc s.me.loops).2 ∧ u.me.full = s.me.full ∧
      OthersKept s u ∧ u.mem = s.mem ∧ u.stage = s.stage ∧
      (∀ k, k ≠ copyKey c x → u.copies.find k = s.copies.find k) ∧
      (∃ d, u.copy c x = some { p with
          data := d, mask := p.mask ||| maskOf (l.pa va % 128) o.n, wts := T, rts := T, gen := s.tgen, poison := false } ∧
        ∀ j, j < 128 → lineByte d j = storedByte p.data (l.pa va % 128) o.n v j) ∧
      ∀ y, (u.homes.find y).map HomeLine.data = (s.homes.find y).map HomeLine.data) ∧
  ∀ (i : Instr) (s : State) (o : StoreOp) (l : Leaf) (st : Strip), storeOp i = some o → o.rel = none →
    let va := o.va s.me
    let v := (s.me.gRead o.d.toNat).toNat
    s.me.Ready [.g o.d.toNat, .g o.a.toNat] → va % o.n = 0 → Cached s va .write false l →
    l.mv = false → l.ph = false → (tierOf (l.pa va) = .hbm ∨ tierOf (l.pa va) = .lpddr) → s.me.strip = some st →
    s.me.buffered + 8 ≤ 131072 → SliceRoom s (l.pa va / 128) 8 →
    ∃ u, exec i s = .next u ∧ u.copies = s.copies ∧ u.homes = s.homes ∧ u.mem = s.mem ∧ u.stage = s.stage ∧
      u.me.g = s.me.g ∧ u.me.v = s.me.v ∧ u.me.p = s.me.p ∧ u.me.a = s.me.a ∧
      u.me.c = s.me.c ∧ u.me.n = s.me.n ∧ u.me.pc = (loopStep s.me.pc s.me.loops).2 ∧ u.me.pts = s.me.pts ∧
      OthersKept s u ∧
      (∀ d j, j < 128 → lineByte (overlay u.me.buffers (.line (l.pa va / 128)) d) j =
        storedByte (overlay s.me.buffers (.line (l.pa va / 128)) d) (l.pa va % 128) o.n v j) ∧
      ∀ w d, w ≠ .line (l.pa va / 128) → overlay u.me.buffers w d = overlay s.me.buffers w d

/-- 14 R315, R320, R323, R325, R329, R331; 11 R270; 06 R140; 07 R198: the traps of the scalar instructions beyond R301. -/
def Obligations.ScalarTraps : Prop :=
  ∀ (i : Instr) (s : State), Handled s.me → s.Fresh →
    (∀ o, loadOp i = some o → s.me.Ready [.g o.d.toNat, .g o.a.toNat] → o.va s.me % o.n ≠ 0 →
      exec i s = .next (trapped s 0x0A (o.va s.me))) ∧
    (∀ o, storeOp i = some o → s.me.Ready [.g o.d.toNat, .g o.a.toNat] → (o.rel.isSome = true → s.me.Closed) →
      o.va s.me % o.n ≠ 0 → exec i s = .next (trapped s 0x0A (o.va s.me))) ∧
    (∀ d a e m, i = .sld d a e m ∨ i = .sst d a e m → s.me.Ready [.g d.toNat, .g a.toNat] → let o := offsetOf a m s.me
      (o % 8 ≠ 0 → exec i s = .next (trapped s 0x0A o)) ∧
      (o % 8 = 0 → s.me.n.stage < o + 8 → exec i s = .next (trapped s 0x09 o))) ∧
    (∀ d a e m, i = .jr a e m ∨ i = .callr d a e m → s.me.Ready [.g d.toNat, .g a.toNat] → offsetOf a m s.me % 4 ≠ 0 →
      exec i s = .next (trapped s 0x0A (offsetOf a m s.me))) ∧
    (∀ d a e l p x, i = .ext d a e x l p ∨ i = .ins d a e l p → s.me.Ready [.g d.toNat, .g a.toNat] → 64 < p.toNat + (l.toNat + 1) →
      exec i s = .next (trapped s 0x03 i.encodeNat)) ∧
    (∀ a e o, i = .loop a e o → s.me.Ready [.g a.toNat] →
      o.toInt < 1 ∨ 65536 < o.toInt ∨ 16777215 < (s.me.gRead a.toNat).toNat ∨ (s.me.gRead a.toNat ≠ 0 ∧ 6 ≤ s.me.loops.length) →
      exec i s = .next (trapped s 0x03 i.encodeNat)) ∧
    (∀ d k, (i = .lbrk k ∧ (k = 0 ∨ s.me.loops.length < k.toNat)) ∨
        (i = .lidx d k ∧ s.me.Ready [.g d.toNat] ∧ s.me.loops.length ≤ k.toNat) ∨ (i = .lcont ∧ s.me.loops = []) →
      exec i s = .next (trapped s 0x03 i.encodeNat)) ∧
    ∀ o, scalarOp i = some o ∨ floatResult i = some o ∨ lateResult i = some o → o.ok = true → s.me.Ready (.g o.d :: o.srcs) →
      o.d = 31 → s.me.c.slim ≠ 0 → (o.value s.me).toNat < s.me.c.slim.toNat →
      exec i s = .next (trapped s 0x08 (o.value s.me).toNat)

/-- 14 R329; 06 R142, R143; 09 R204: SLD and SST send one operation to their bank and wait; the bank performs it and its clock rises
to the agent's; with the answer in they complete; inside a strip SST is buffered. -/
def Obligations.StageAccessAndBanks : Prop :=
  (∀ (s : State) (d a : BitVec 5) (e : BitVec 1) (i : BitVec 13), s.me.Ready [.g d.toNat, .g a.toNat] → s.Fresh →
    StageOk s.me (offsetOf a i s.me) 8 →
    let op (act : StageAct) (x : DWord) : StageOp :=
      { die := dieOfSeq s.cur, off := s.me.n.stgbase + offsetOf a i s.me, size := 8, act := act, s := x, s2 := 0,
        clock := s.me.pts, k := s.cur, dest := none }
    let asked (act : StageAct) (x : DWord) : State :=
      (s.updMe fun q => { q with note := some (q.note.getD {}), wait := .stage }).post (.stageBankOperation (op act x))
    (s.me.note.bind Note.value = none → exec (.sld d a e i) s = .next (asked .load 0)) ∧
    (∀ v, s.me.note.bind Note.value = some v → ∀ r : DWord, s.me.Writable d.toNat r →
      (∀ j, j < 8 → BitVec.ofNat 8 (r.toNat / 2 ^ (8 * j)) =
        ownStage s.me (stagePlace s (offsetOf a i s.me) + j) (BitVec.ofNat 8 (v.toNat / 2 ^ (8 * j)))) →
      exec (.sld d a e i) s = .next (s.done (fun q => q.gSet d.toNat r) .next)) ∧
    (s.me.strip = none → s.me.note.bind Note.value = none →
      exec (.sst d a e i) s = .next (asked .store (s.me.gRead d.toNat))) ∧
    (s.me.strip = none → (s.me.note.bind Note.value).isSome = true → exec (.sst d a e i) s = .next (s.done id .next)) ∧
    ∀ st, s.me.strip = some st → s.me.buffered + 8 ≤ 131072 →
      exec (.sst d a e i) s = .next (s.done (fun q => { q with strip := some { st with
        sst := st.sst ++ (List.range 8).map fun j =>
          (stagePlace s (offsetOf a i s.me) + j, BitVec.ofNat 8 ((s.me.gRead d.toNat).toNat / 2 ^ (8 * j))) } }) .next)) ∧
  (∀ (s : State) (o : StageOp), s.Canonical →
    let a := o.die * 2 ^ 26 + o.off
    let bank := a / 2 ^ 26 * 256 + a / 32 % 256
    let old := s.stage.read a o.size
    let time := max (max s.tbase (s.bt.getD bank 0)) o.clock
    let goes : Prop := o.floor ≤ match o.act with
      | .alu _ ty => (Claims.extended ty.toNat old).toNat
      | _ => old
    ∃ t, exec (.stageBankOperation o) s = .next t ∧ t.bt.getD bank 0 = time ∧
      t.due.getLast? = some (.stageAnswer o.k time (some (BitVec.ofNat 64 old))) ∧
      (∀ b, b < a ∨ a + o.size ≤ b → t.stage.byte b = s.stage.byte b) ∧ t.mem = s.mem ∧ t.seqs = s.seqs ∧
      (¬ goes → t.stage = s.stage) ∧
      (goes → match o.act with
        | .load => t.stage = s.stage
        | .store => ∀ j, j < o.size → t.stage.byte (a + j) = BitVec.ofNat 8 (o.s.toNat / 2 ^ (8 * j))
        | .alu op ty => ∀ j, j < o.size → t.stage.byte (a + j) =
            BitVec.ofNat 8 ((atomicNew op.toNat ty.toNat { rm := 0 } old o.s.toNat o.s2.toNat).1 / 2 ^ (8 * j)))) ∧
  (∀ (s : State) (k bt : Nat) (r : Option DWord),
    (∀ n, (s.seq k).note = some n → (s.seq k).wait = .stage → exec (.stageAnswer k bt r) s = .next (s.upd k fun q =>
      { q with pts := max q.pts bt, note := some { n with value := some (r.getD 0) }, wait := .run })) ∧
    ((s.seq k).wait ≠ .stage → exec (.stageAnswer k bt r) s = .next (s.upd k fun q => { q with pts := max q.pts bt })))

/-- 14 R330; 16 R372: PREF and VPREF complete; they write no register, no flag and no clock (log 27: nothing happens where one would
wait). -/
def Obligations.PrefetchesComplete : Prop :=
  (∀ (s : State) (kd a : BitVec 5) (e : BitVec 1) (i : BitVec 13), s.me.Ready [.g a.toNat] →
    ∃ t, exec (.pref kd a e i) s = .next t ∧ t.me.g = s.me.g ∧ t.me.v = s.me.v ∧ t.me.p = s.me.p ∧ t.me.a = s.me.a ∧
      t.me.c = s.me.c ∧ t.me.n = s.me.n ∧ t.me.pts = s.me.pts ∧ t.me.pc = (loopStep s.me.pc s.me.loops).2 ∧ t.stage = s.stage) ∧
  (∀ (s : State) (a : BitVec 5) (e : BitVec 1) (t : BitVec 4) (k : BitVec 2), t.toNat < 15 →
    s.me.Ready (.g a.toNat :: maskRegs s.me) →
    ∃ u, exec (.vpref a e t k) s = .next u ∧ u.me.g = s.me.g ∧ u.me.v = s.me.v ∧ u.me.p = s.me.p ∧ u.me.a = s.me.a ∧
      u.me.c = (startAt (nextStart s.me true) s.me).c ∧ u.me.n = s.me.n ∧ u.me.pts = s.me.pts ∧ u.stage = s.stage)

/-- 15 R341 to R343, R348, R349 under R332 to R336: every element-wise instruction completes; each element below VL that is
active and still to be done has its result, every other bit of v[d] is kept, VSTART ends at 0 (or at the next group under
element stepping, 11 R266) and the flags of the results are set. -/
def Obligations.VectorElementResult : Prop :=
  ∀ (i : Instr) (s : State) (o : VecOp), vecOp i = some o → o.ok = true → (∀ w ∈ o.widths, w ≤ s.me.c.sewBits) →
    s.me.Ready (.v o.d :: (o.srcs ++ maskRegs s.me)) → s.Fresh →
    ∃ x, o.Written s.me x ∧ exec i s = .next (o.final s x)

/-- 15 R333, R344, R345: compares and predicate logic; PPACK, PUNPK, PMOV and FMASKP act on all PLEN bits. -/
def Obligations.PredicateResults : Prop :=
  (∀ (i : Instr) (s : State) (o : PredOp), predOp i = some o → o.ok = true → (∀ w ∈ o.widths, w ≤ s.me.c.sewBits) →
    s.me.Ready (.p o.d :: (o.srcs ++ if o.masked then maskRegs s.me else [])) → s.Fresh →
    ∃ x, o.Written s.me x ∧ exec i s = .next (o.final s x)) ∧
  (∀ (i : Instr) (s : State) (o : MoveOp), moveOp i = some o → o.ok s.me = true → s.me.Ready o.regs → s.Fresh →
    exec i s = .next (s.done (fun q => startAt 0 (o.effect q)) .next))

/-- 15 R334, R345 to R347: every instruction across elements that writes a vector register or g[d]. -/
def Obligations.CrossElementResults : Prop :=
  (∀ (i : Instr) (s : State) (o : CrossOp), crossOp i = some o → o.ok = true → o.w ≤ s.me.c.sewBits →
    s.me.Ready (.v o.d :: (o.srcs ++ if o.masked then maskRegs s.me else [])) → s.Fresh →
    ∃ x, o.Written s.me x ∧ exec i s = .next (o.final s x)) ∧
  (∀ (i : Instr) (s : State) (o : GatherOp), gatherOp i = some o → o.ok = true → (∀ w ∈ o.widths, w ≤ s.me.c.sewBits) →
    s.me.Ready (.g o.d :: (o.srcs ++ if o.masked then maskRegs s.me else [])) → s.me.Writable o.d (o.value s.me) → s.Fresh →
    exec i s = .next (s.done (fun q => startAt 0 ((q.gSet o.d (o.value s.me)).raise (o.flags s.me))) .next))

/-- 15 R337, R338, R340; 11 R249, R253: VCFG (log 5: the vector registers take free values); SETVL and SETVLI grant a length and open
a strip with the checkpoint; STRABT abandons the strip. -/
def Obligations.VectorConfiguration : Prop :=
  (∀ (s : State) (n : BitVec 3), n.toNat ≤ 5 → s.me.Closed → s.Fresh → ∃ v,
    exec (.vcfg n) s = .next (({ s with fresh := s.fresh + 32, due := s.due.filter fun d => match d with
        | .longLatencyResult j (.v _) _ => j ≠ s.cur
        | _ => true } : State).done (fun q =>
      { q with v := v, p := Vector.replicate 8 0, c := { q.c with nvlog := n.toNat, vl := 0, vstart := 0 }
               full := { q.full with v := BitVec.allOnes 32, p := BitVec.allOnes 8 }
               arrivals := q.arrivals.filter fun a => match a.reg with | .v _ => false | _ => true }) .next)) ∧
  (∀ (i : Instr) (s : State) (d : BitVec 5) (rs : List RegRef) (n : Nat) (w : BitVec 2), setvlOp s i = some (d, rs, n, w) →
    s.me.Closed → s.me.Ready rs → s.me.preempt = none → s.me.Writable d.toNat (BitVec.ofNat 64 (granted s.me n w)) → s.Fresh →
    exec i s = .next (s.done (stripOpened s d n w) .next)) ∧
  (∀ (s : State), ∃ t, exec .strabt s = .next t ∧ t.me.strip = none ∧ t.me.g = s.me.g ∧ t.me.v = s.me.v ∧ t.me.p = s.me.p ∧
    t.me.a = s.me.a ∧ t.me.c = s.me.c ∧ t.me.n = s.me.n ∧ t.me.pts = s.me.pts ∧ t.me.phase = s.me.phase ∧
    t.mem = s.mem ∧ t.stage = s.stage)

/-- 19 R442 to R449, 15 R339: the instructions that complete at once and change the sequencer alone. -/
def Obligations.SimpleInstructions : Prop :=
  ∀ (i : Instr) (s : State) (o : SimpleOp), simpleOp i = some o → s.me.Ready o.regs → (o.closes = true → s.me.Closed) →
    o.ok s → s.Fresh → exec i s = .next (s.done (o.effect s) .next)

/-- 19 R443; 13 R302; 11 R258, R260: SYSCALL, BRK, BRKC and TRAPZ take their trap: EPC is their own address, TVAL the immediate; ERET
sets PC := EPC (log 26: its two low bits take no part) and INTRAP := 0, and outside a handler it is illegal. -/
def Obligations.TrapInstructions : Prop :=
  (∀ (s : State), Handled s.me → s.Fresh →
    (∀ i, s.me.Closed → exec (.syscall i) s = .next (trapped s 0x0E i.toNat)) ∧
    (∀ i, s.me.Closed → exec (.brk i) s = .next (trapped s 0x0F i.toNat)) ∧
    (∀ a e i, s.me.Closed → s.me.Ready [.g a.toNat] → s.me.gRead a.toNat ≠ 0 →
      exec (.brkc a e i) s = .next (trapped s 0x0F (i.signExtend 64).toNat)) ∧
    (∀ x, exec (.trapz x) s = .next (trapped s 0x01 0))) ∧
  (∀ (s : State), s.me.Closed → s.Fresh →
    (s.me.n.intrap = true → exec .eret s = .next (s.done (fun q =>
      { q with pc := q.n.epc &&& ~~~3, n := { q.n with intrap := false } }) .stay)) ∧
    (s.me.n.intrap = false → s.me.n.tvec ≠ 0 → exec .eret s = .next (trapped s 0x03 0x07000000)))

/-- 11 R249, R258, R259; 03 R58: a trap with an open strip restores the checkpoint, RBK tells so and EPC is the SETVL; a trap with no
handler, or inside one, loses the context. -/
def Obligations.TrapsTaken : Prop :=
  (∀ (s : State) (k : Agent) (st : Strip) (c v : Nat), (s.seq k).strip = some st →
    (s.seq k).n.tvec ≠ 0 → (s.seq k).n.intrap = false →
    let q := (takeTrap k c v s).seq k
    q.strip = none ∧ q.g = st.ckpt.g ∧ q.p = st.ckpt.p ∧ q.loops = st.ckpt.loops ∧ q.c = st.ckpt.c ∧ q.v = (s.seq k).v ∧
      q.n = { (s.seq k).n with
        rbk := true, epc := st.ckpt.pc, cause := BitVec.ofNat 64 c, tval := BitVec.ofNat 64 v, intrap := true
        sfault := min 3 ((s.seq k).n.sfault + 1) } ∧
      q.pc = (s.seq k).n.tvec &&& ~~~3 ∧ (takeTrap k c v s).mem = s.mem ∧ (takeTrap k c v s).stage = s.stage) ∧
  (∀ (s : State) (k : Agent) (c v : Nat) (b : Binding) (x : Ctx), (s.seq k).bound = some b → (s.seq k).strip = none →
    ((s.seq k).n.tvec = 0 ∨ (s.seq k).n.intrap = true) → (s.vi b.vi).ctxs.find b.cid = some x →
    let t := takeTrap k c v s
    ((t.vi b.vi).ctxs.find b.cid).map Ctx.lost = some true ∧ (t.seq k).bound = none ∧
      (∀ n Q, (t.vi b.vi).queues.find n = some Q → Q.ctx = b.cid → Q.halt = true ∧ Q.err = 2) ∧
      t.due.getLast? = some (.eventPost (.vi b.vi) 0x08 b.cid (c % 256) (s.seq k).pc.toNat))

/-- 16 R351, R356 to R359, R362, R364 to R369: where every field of a vector load lies in one line that the slice holds, its
registers are empty until the elements arrive, all read at one time; an index outside VGTHW's window gives zero; every other bit
of the registers is kept. With no active element nothing is accessed: VSTART becomes 0. And whatever answers the access, the
instruction retires with it. -/
def Obligations.VectorLoads : Prop :=
  (∀ (i : Instr) (s t : State) (o : VMemOp) (f : Flow), vmemOp i = some o → o.acc.t < 15 → s.me.Ready (o.needs s.me) →
    o.access s = .ok f t → exec i s = .next (s.retired t f)) ∧
  (∀ (i : Instr) (s : State) (o : VMemOp), vmemOp i = some o → o.slot = false → o.acc.t < 15 → s.me.Ready (o.needs s.me) →
    typeBits o.acc.t ≤ s.me.c.sewBits → pendingElems s.me true = [] → s.Fresh →
    exec i s = .next (s.done (startAt 0) (.group 0 true))) ∧
  ∀ (i : Instr) (s : State) (o : VMemOp) (lb l : Leaf) (p : Copy Nat) (at_ : Nat), vmemOp i = some o → o.store = false →
    let w := typeBits o.acc.t
    let q := s.me
    let T := max q.pts p.wts
    let k := o.acc.fields
    PlainVector o q → RawBase s (q.gRead o.acc.a).toNat .read lb → InOneLine o q at_ → LineRaw s at_ .read l p →
    (p.own = true ∨ T ≤ p.rts) → Storable s T →
    ∃ (X : Nat → Nat) (u : State), exec i s = .next u ∧
      u.me.arrivals = q.arrivals ++ (List.range k).map (fun (f : Nat) => { reg := .v (o.acc.v + f), value := X f }) ∧
      u.me.full = ((List.range k).foldl (fun (q : Seq) f => q.setFull (.v (o.acc.v + f)) false) q).full ∧
      u.me.pts = (if (fieldsNow o q).any fun x => (fieldPlace o q x.1 x.2).isSome then T else q.pts) ∧
      u.me.g = q.g ∧ u.me.v = q.v ∧ u.me.p = q.p ∧ u.me.a = q.a ∧ u.me.c = (startAt (nextStart q true) q).c ∧ u.me.n = q.n ∧
      u.mem = s.mem ∧ u.stage = s.stage ∧ u.homes = s.homes ∧
      (∀ y, (u.copies.find y).map Copy.data = (s.copies.find y).map Copy.data) ∧
      ∀ f, f < k → ∀ e b, b < w → (X f).testBit (w * e + b) =
        if e ∈ elemsNow q true then
          match fieldPlace o q e f with
          | some a => p.data.getLsbD (8 * (a % 128) + b)
          | none => false
        else (q.vRead (o.acc.v + f)).testBit (w * e + b)

/-- 16 R351, R356 to R358, R360, R364, R366, R369: where every field of a vector store lies in one line that the slice owns, the
fields are stored in ascending order at one time above every lease, and no other byte changes. -/
def Obligations.VectorStores : Prop :=
  ∀ (i : Instr) (s : State) (o : VMemOp) (lb l : Leaf) (p : Copy Nat) (at_ : Nat), vmemOp i = some o → o.store = true →
    let w := typeBits o.acc.t
    let q := s.me
    let x := l.pa at_ / 128
    let c := s.cur / 32
    PlainVector o q → RawBase s (q.gRead o.acc.a).toNat .write lb → InOneLine o q at_ → LineRaw s at_ .write l p →
    p.own = true → p.forRead = false → holders c x s = [] → Storable s (max q.pts (p.rts + 1)) →
    ∃ u : State, exec i s = .next u ∧ u.me.pts = max q.pts (p.rts + 1) + idleSteps s ∧ u.me.full = q.full ∧
      u.me.g = q.g ∧ u.me.v = q.v ∧ u.me.p = q.p ∧ u.me.a = q.a ∧ u.me.c = (startAt (nextStart q true) q).c ∧ u.me.n = q.n ∧
      u.mem = s.mem ∧ u.stage = s.stage ∧
      LineBecomes s u x ((fieldsNow o q).foldl (fun d y => match fieldPlace o q y.1 y.2 with
        | some a => replaceBytes d (a % 128) (w / 8) (element (q.vRead (o.acc.v + y.2)) w y.1)
        | none => d) p.data)

/-- 16 R354, R360, R370; 06 R130, R143: VLDS and VGTHS give each active element its bits of Stage memory under the sequencer's own
buffered bytes; VSTS and VSCTS store their elements in ascending order, in a strip's buffer or at the banks, and no other byte. -/
def Obligations.VectorStageAccess : Prop :=
  (∀ (i : Instr) (s : State) (o : VMemOp), vmemOp i = some o → o.stage = true → o.store = false → o.acc.t < 15 →
    s.me.Ready (o.needs s.me) → StageReachable o s.me → s.Fresh →
    ∃ x u, exec i s = .next u ∧ u.me.v = (s.me.vSet o.acc.v x).v ∧ u.me.g = s.me.g ∧ u.me.p = s.me.p ∧ u.me.a = s.me.a ∧
      u.me.c = (startAt (nextStart s.me true) s.me).c ∧ u.me.n = s.me.n ∧ s.me.pts ≤ u.me.pts ∧ u.me.strip = s.me.strip ∧
      u.stage = s.stage ∧ u.mem = s.mem ∧ u.homes = s.homes ∧ u.copies = s.copies ∧
      ∀ k b, b < typeBits o.acc.t → x.testBit (typeBits o.acc.t * k + b) =
        if k ∈ elemsNow s.me true then stageBits s o k b else (s.me.vRead o.acc.v).testBit (typeBits o.acc.t * k + b)) ∧
  (∀ (i : Instr) (s : State) (o : VMemOp), vmemOp i = some o → o.stage = true → o.store = true → o.acc.t < 15 →
    s.me.Ready (o.needs s.me) → StageReachable o s.me → s.Fresh → s.Canonical →
    (s.me.strip.isSome = true → s.me.buffered + 8 * (elemsNow s.me true).length ≤ 131072) →
    ∃ u, exec i s = .next u ∧ u.me.v = s.me.v ∧ u.me.g = s.me.g ∧ u.me.p = s.me.p ∧ u.me.a = s.me.a ∧
      u.me.c = (startAt (nextStart s.me true) s.me).c ∧ u.me.n = s.me.n ∧ s.me.pts ≤ u.me.pts ∧
      u.mem = s.mem ∧ u.homes = s.homes ∧ u.copies = s.copies ∧ (s.me.strip.isSome = true → u.stage = s.stage) ∧
      ∀ b, stageView u b = (elemsNow s.me true).foldl (storeElem s o) (stageView s) b)

/-- 16 R371: VSPILL writes its slot's header and the bytes of the elements below VL, and no other byte; VFILL of a sound slot of
this geometry reads the elements back, its register empty until they arrive; with a header that does not fit it is illegal. -/
def Obligations.SpillAndFill : Prop :=
  (∀ (s : State) (v a : BitVec 5) (e : BitVec 1) (L : Nat → Leaf) (P : Nat → Copy Nat),
    let base := (s.me.gRead a.toNat).toNat
    let n := 2 ^ s.me.c.sew
    let D := spanning base (16 + n * s.me.c.vl)
    base % 64 = 0 → base + 16 + n * s.me.c.vl ≤ 2 ^ 57 → s.me.c.sew < 4 → s.me.c.vl < 2 ^ 32 → s.me.c.nvlog < 6 →
    s.me.Ready [.g a.toNat, .v v.toNat] → s.me.strip = none → Calm s.me → BytesOwned s D .write L P →
    ∃ u, exec (.vspill v a e) s = .next u ∧ MemKept s u ∧ u.me.a = s.me.a ∧ u.me.full = s.me.full ∧ u.me.c = { s.me.c with vstart := 0 } ∧
      BytesBecome s u D L (putBytes base 16 (slotHead s.me) (putBytes (base + 16) (n * s.me.c.vl) (s.me.vRead v.toNat) (heldByte P)))) ∧
  ∀ (s : State) (v a : BitVec 5) (e : BitVec 1) (vl c : Nat) (L : Nat → Leaf) (P : Nat → Copy Nat),
    let base := (s.me.gRead a.toNat).toNat
    let w := 8 * 2 ^ c
    base % 64 = 0 → base + 16 + 2 ^ c * vl ≤ 2 ^ 57 → s.me.Ready [.g a.toNat, .v v.toNat] → s.me.strip = none → Calm s.me →
    BytesOwned s (spanning base (16 + 2 ^ c * vl)) .read L P → vl < 2 ^ 32 →
    (∀ i, i < 4 → heldByte P (base + i) = BitVec.ofNat 8 (vl / 256 ^ i)) → heldByte P (base + 4) = BitVec.ofNat 8 c → c < 256 →
    (c ≤ 3 ∧ 2 ^ c * vl ≤ s.me.c.rlen ∧ heldByte P (base + 5) = BitVec.ofNat 8 s.me.c.nvlog ∧ s.me.c.nvlog < 6 →
      ∃ x u, exec (.vfill v a e) s = .next u ∧ MemKept s u ∧ u.me.a = s.me.a ∧ u.me.c = { s.me.c with vstart := 0 } ∧
        u.me.full = (coming (.v v.toNat) x s.me).full ∧ u.me.arrivals = (coming (.v v.toNat) x s.me).arrivals ∧
        ∀ b, x.testBit b = if b < w * vl then (heldByte P (base + 16 + b / 8)).getLsbD (b % 8) else (s.me.vRead v.toNat).testBit b) ∧
    (3 < c → Handled s.me → ∃ u, exec (.vfill v a e) s = .next u ∧ u.me.n.cause = 3 ∧ u.me.n.epc = s.me.pc ∧ u.me.n.intrap = true ∧
      u.me.n.tval = BitVec.ofNat 64 (Instr.vfill v a e).encodeNat ∧ u.me.pc = s.me.n.tvec &&& ~~~3 ∧ u.me.v = s.me.v ∧ u.me.g = s.me.g)

/-- 17 R389 to R391: the whole-tile operations, TWRV, TRDV and MPSTAT, where the array is free (R374). -/
def Obligations.WholeTileResult : Prop :=
  (∀ (i : Instr) (s : State) (o : TileOp), tileOp i = some o → o.ok s.me = true →
    s.me.Ready (o.regs ++ if o.masked then maskRegs s.me else []) → s.me.Closed → ArrayFree s → s.Fresh →
    ∃ x t, o.Written s.me x ∧ exec i s = .next t ∧ ArrayOnly s t ∧
      t.me = ((s.me.aSet o.d.toNat x).raise (o.flags s.me)).retire s.me .next) ∧
  (∀ (s : State) (d a b : BitVec 5) (e f : BitVec 1) (ty : BitVec 4) (v : BitVec 1), 8 ≤ ty.toNat ∧ ty.toNat ≤ 14 →
    typeBits ty.toNat ≤ s.me.c.sewBits → s.me.c.vl ≤ 128 → (s.me.gRead b.toNat).toNat ≤ 127 →
    s.me.Ready ([.v d.toNat, .a a.toNat, .g b.toNat] ++ maskRegs s.me) → s.me.Closed → ArrayFree s → s.Fresh →
    let w := typeBits ty.toNat
    let r := (s.me.gRead b.toNat).toNat
    let val (e : Nat) : Nat × BitVec 6 := fromF32 ty.toNat (s.me.round (s.me.c.fctl.toNat % 8) e)
      (if v = 1 then tileAt (s.me.aRead a.toNat) e r else tileAt (s.me.aRead a.toNat) r e)
    ∃ x t, exec (.trdv d a b e f ty v) s = .next t ∧ ArrayOnly s t ∧
      t.me = ((s.me.vSet d.toNat x).raise (allFlags (activeElems s.me) fun e => (val e).2)).retire s.me .next ∧
      ∀ k c, c < w → x.testBit (w * k + c) =
        if k ∈ activeElems s.me then (val k).1.testBit c else (s.me.vRead d.toNat).testBit (w * k + c)) ∧
  ∀ (s : State) (d : BitVec 5), s.me.Ready [.g d.toNat] → s.me.Closed → ArrayFree s → s.Fresh →
    (s.latch s.cur).lm ≤ 128 → (s.latch s.cur).lk ≤ 1024 → (s.latch s.cur).ltype < 16 → s.me.pair.pst < 8 → s.me.pair.steps < 2048 →
    ((s.latch s.cur).lv = true → 1 ≤ (s.latch s.cur).lm ∧ 1 ≤ (s.latch s.cur).lk) → s.me.Writable d.toNat (statusWord s) →
    ∃ t, exec (.mpstat d) s = .next t ∧ ArrayOnly s t ∧ t.me = (s.me.gSet d.toNat (statusWord s)).retire s.me .next

/-- 17 R378 to R380: MLATCH gathers its rows from Stage memory, MLATCHV writes one from a vector register (log 5: the vector
registers take free values). -/
def Obligations.LatchFills : Prop :=
  (∀ (s : State) (d a b : BitVec 5) (e f : BitVec 1) (ty : BitVec 4),
    s.me.Ready ([.g d.toNat, .g a.toNat, .v b.toNat] ++ maskRegs s.me) → s.me.Closed → ArrayFree s → s.Fresh →
    let r := latchDesc s d a ty.toNat
    r.Ok s d b ty.toNat →
    ∃ t l, exec (.mlatch d a b e f ty) s = .next t ∧ ArrayOnly s t ∧ VectorsFree s t.me ∧ t.me.c = s.me.c ∧
      t.latch s.cur = { lv := true, ltype := ty.toNat, lk := r.k, lm := s.me.c.vl, rows := l } ∧ l.length = s.me.c.vl ∧
      ∀ i c, i < s.me.c.vl → (l.getD i 0).testBit c =
        (isActive s.me i && decide (c < r.k * typeBits ty.toNat) && slateBit s (r.at_ s.me b i) c)) ∧
  ∀ (s : State) (a b : BitVec 5) (e f : BitVec 1) (ty : BitVec 4), s.me.Ready [.g a.toNat, .v b.toNat] → s.me.Closed →
    ArrayFree s → s.Fresh →
    let r := (s.me.gRead a.toNat).toNat
    let vl := s.me.c.vl
    8 ≤ ty.toNat ∧ ty.toNat ≤ 12 → typeBits ty.toNat ≤ s.me.c.sewBits → 1 ≤ vl → vl * typeBits ty.toNat ≤ 4096 → r ≤ 127 →
    (r ≠ 0 → (s.latch s.cur).lv = true ∧ (s.latch s.cur).ltype = ty.toNat ∧ (s.latch s.cur).lk = vl ∧ r ≤ (s.latch s.cur).lm ∧
      (s.latch s.cur).rows.length = (s.latch s.cur).lm) →
    ∃ t l, exec (.mlatchv a b e f ty) s = .next t ∧ ArrayOnly s t ∧ VectorsFree s t.me ∧ t.me.c = s.me.c ∧ t.me.pts = s.me.pts ∧
      t.latch s.cur = { lv := true, ltype := ty.toNat, lk := vl, lm := if r = 0 then 1 else max (s.latch s.cur).lm (r + 1), rows := l } ∧
      (∀ c, (l.getD r 0).testBit c = (decide (c < vl * typeBits ty.toNat) && (s.me.vRead b.toNat).testBit c)) ∧
      ∀ i, i ≠ r → l.getD i 0 = if r = 0 then 0 else (s.latch s.cur).rows.getD i 0

/-- 17 R381 to R387: MOP, MOP.SP and MATRIX_CHUNK perform the chunk that VSTART names and end after the last one; MOP.PAIR
deposits its latch; a pair that starts runs in lockstep, or ends MISMATCH, or LATE when its partner does not come. -/
def Obligations.MatrixMultiply : Prop :=
  (∀ (i : Instr) (s : State) (m : Mop) (rs : List RegRef), mopForm s i = some (m, rs, true) → m.form ≠ 2 → s.me.Ready rs →
    s.me.Closed → ArrayFree s → s.Fresh → m.illegal s.me.c.vstart = false → (s.latch s.cur).lv = true →
    m.refuses (s.latch s.cur) = false → m.place s.me.n.stage = none →
    (lastChunk m s.me → ∃ t, exec i s = .next t ∧ ArrayOnly s t ∧ ChunkDone s t s.cur m (s.latch s.cur)) ∧
    (¬ lastChunk m s.me → s.me.preempt = none → ∃ t, exec i s = .next t ∧ t.me.wait = .matrix ∧ t.me.pc = s.me.pc ∧
      t.me.c.vstart = s.me.c.vstart / 32 * 32 + 32 ∧ t.me.a = (s.me.aSet m.d (chunkResult s s.cur m (s.latch s.cur)).1).a ∧
      t.due.getLast? = some (.matrixChunk s.cur))) ∧
  (∀ (s : State) (k : Agent) (m : Mop), (s.seq k).wait = .matrix → (s.seq k).mop = some m → m.form ≠ 2 →
    s.matrix.getD (k / 32) [] = [.seq k] → (s.seq k).holds = [] → lastChunk m (s.seq k) →
    ∃ t, exec (.matrixChunk k) s = .next t ∧ ChunkDone s t k m (s.latch k) ∧ t.mem = s.mem ∧ t.stage = s.stage) ∧
  (∀ (i : Instr) (s : State) (m : Mop) (rs : List RegRef), mopForm s i = some (m, rs, true) → m.form = 2 → s.me.Ready rs →
    s.me.Closed → ArrayFree s → s.Fresh → m.illegal s.me.c.vstart = false → (s.latch s.cur).lv = true → m.place s.me.n.stage = none →
    (∀ n, (s.seq (partner s.cur)).wait ≠ .pair n) →
    ∃ t, exec i s = .next t ∧ t.me = { s.me with mop := some m, wait := .pair s.cycle } ∧
      t.seq (partner s.cur) = s.seq (partner s.cur) ∧ t.pairLatch (partner s.cur) = some (s.latch s.cur) ∧
      t.matrix.getD (s.cur / 32) [] = [.seq s.cur] ∧ t.mem = s.mem ∧ t.stage = s.stage ∧ t.due = s.due) ∧
  (∀ (s : State) (k : Agent) (m n : Mop) (x y : Nat), let j := partner k
    (s.seq k).wait = .pair x → (s.seq k).mop = some m → (s.seq j).wait = .pair y → (s.seq j).mop = some n →
    s.matrix.getD (k / 32) [] = [.seq k] → s.matrix.getD (j / 32) [] = [.seq j] → (s.seq k).holds = [] → (s.seq j).holds = [] →
    let bad := m.refuses ((s.pairLatch k).getD {}) || n.refuses ((s.pairLatch j).getD {})
    ∃ t, exec (.pairStart k) s = .next t ∧ t.mem = s.mem ∧ t.stage = s.stage ∧
      (bad = true → ∀ z, z = k ∨ z = j → (t.seq z).pair = { pst := 4, steps := (s.seq z).c.vstart } ∧ t.pairLatch z = none ∧
        (t.latch z).lv = false ∧ (t.seq z).a = (s.seq z).a ∧ (t.seq z).pc = (loopStep (s.seq z).pc (s.seq z).loops).2) ∧
      (bad = false → t.seq k = { s.seq k with wait := .matrix } ∧ t.seq j = { s.seq j with wait := .matrix } ∧
        t.due = s.due ++ [.matrixChunk k])) ∧
  ∀ (s : State) (k : Agent) (x : Nat), (s.seq k).wait = .pair x → (∀ y, (s.seq (partner k)).wait ≠ .pair y) →
    x + (s.seq k).c.pairwait.toNat ≤ s.cycle → (s.seq k).holds = [] → s.matrix.getD (k / 32) [] = [.seq k] →
    ∃ t, exec (.pairwaitExpiry k) s = .next t ∧ (t.seq k).pair = { pst := 3, steps := (s.seq k).c.vstart } ∧
      (t.latch k).lv = false ∧ t.pairLatch (partner k) = none ∧ (t.seq k).a = (s.seq k).a ∧ (t.seq k).g = (s.seq k).g ∧
      (t.seq k).pc = (loopStep (s.seq k).pc (s.seq k).loops).2 ∧ t.mem = s.mem ∧ t.stage = s.stage

/-- 17 R383: each element of a dense chunk is the old one plus the exact sum of its products, rounded once; rows at or above M
keep their bits. -/
def Obligations.DenseChunkElement : Prop :=
  ∀ (m : Mop) (l : Latch) (c : Nat) (rc : Nat → RoundCtl) (rd : Nat → Nat → Nat) (x : Bits) (i j b : Nat),
    m.form ≠ 1 → m.geo = 0 → m.band = false → m.bands = none → 32 * c < m.k → i < 128 → j < 128 → b < 32 →
    (mopChunk m l c rc rd x).1.testBit (4096 * i + 32 * j + b) =
      if l.lm ≤ i then x.testBit (4096 * i + 32 * j + b)
      else (denseElem m l c (rc (128 * i + j)) rd (tileAt x i j) i j).1.testBit b

/-- 17 R376, R392, R393, where the array is free and the slice owns the lines: TSTORE stores the rows from VSTART on, each element
converted; TSAVE stores a tile's image or the latch's; TLOAD of a tile has it empty until its rows have arrived; TLOAD.L of a
sound image sets the latch, and an unsound one is illegal. -/
def Obligations.TileMemory : Prop :=
  (∀ (s : State) (d a b : BitVec 5) (e f : BitVec 1) (t : BitVec 4) (v : BitVec 1) (L : Nat → Leaf) (P : Nat → Copy Nat),
    let base := (s.me.gRead a.toNat).toNat
    let g := s.me.gRead b.toNat
    let n := 16 * typeBits t.toNat
    let unit := max 1 (typeBits t.toNat / 8)
    let R := (g.extractLsb' 32 7).toNat + 1
    let pitch := if g.extractLsb' 0 32 = 0 then n else (g.extractLsb' 0 32).toNat
    let D := rowBytes base pitch s.me.c.vstart R n
    let flags := allFlags ((rowsFrom s.me.c.vstart R).flatMap fun r => (List.range 128).map fun j => 128 * r + j) fun x =>
      (storedElem s.me d t.toNat (v = 1) (x / 128) (x % 128)).2
    8 ≤ t.toNat ∧ t.toNat ≤ 14 → g.extractLsb' 39 25 = 0 → base % unit = 0 → pitch % unit = 0 → base + (R - 1) * pitch + n ≤ 2 ^ 57 →
    s.me.c.vstart < R → s.me.Ready [.a d.toNat, .g a.toNat, .g b.toNat] → s.me.Closed → Calm s.me → ArrayFree s → s.me.preempt = none →
    RawBase s base .write (L (base / 4096)) → (∀ va, D va → (L (va / 4096)).fv = false) → BytesOwned s D .write L P →
    ∃ u, exec (.tstore d a b e f t v) s = .next u ∧ MemKept s u ∧ u.me.a = s.me.a ∧ u.matrix.getD (s.cur / 32) [] = [] ∧
      u.me.c = { s.me.c with vstart := 0, fflags := s.me.c.fflags ||| flags } ∧
      BytesBecome s u D L ((rowsFrom s.me.c.vstart R).foldl (fun h r =>
        putBytes (base + r * pitch) n (storedRow s.me d t.toNat (v = 1) r) h) (heldByte P))) ∧
  (∀ (s : State) (d a : BitVec 5) (e : BitVec 1) (L : Nat → Leaf) (P : Nat → Copy Nat),
    let base := (s.me.gRead a.toNat).toNat
    let lo := s.me.c.vstart
    base % 64 = 0 → base + 65600 ≤ 2 ^ 57 → s.me.Closed → Calm s.me → ArrayFree s → s.me.preempt = none →
    (lo < 128 → s.me.Ready [.a d.toNat, .g a.toNat] →
      (BytesOwned s (rowBytes base 512 lo 128 512) .write L P → ∃ u, exec (.tsave d a e 0) s = .next u ∧ MemKept s u ∧ u.me.a = s.me.a ∧
        u.me.c = { s.me.c with vstart := 0 } ∧ u.matrix.getD (s.cur / 32) [] = [] ∧
        BytesBecome s u (rowBytes base 512 lo 128 512) L fun va => if base + 512 * lo ≤ va ∧ va < base + 65536 then
          BitVec.ofNat 8 (s.me.aRead d.toNat / 256 ^ (va - base)) else heldByte P va) ∧
      (BytesOwned s (rowBytes base 512 lo 128 512) .read L P → ∃ x u, exec (.tload d a e 0) s = .next u ∧ MemKept s u ∧
        (∀ i, i ≠ d.toNat → u.me.aRead i = s.me.aRead i) ∧ u.me.full = (coming (.a d.toNat) x s.me).full ∧ u.me.arrivals = (coming (.a d.toNat) x s.me).arrivals ∧
        u.me.c = { s.me.c with vstart := 0 } ∧ u.matrix.getD (s.cur / 32) [] = [] ∧
        ∀ c, x.testBit c = if 4096 * lo ≤ c ∧ c < 524288 then (heldByte P (base + c / 8)).getLsbD (c % 8)
          else (s.me.aRead d.toNat).testBit c)) ∧
    (s.me.Ready [.g a.toNat] → ∀ l : Latch, l = (s.latch s.cur) → l.lv = true → l.lk < 65536 → l.lm < 129 → l.ltype < 256 →
      (∀ i, l.rows.getD i 0 < 2 ^ 4096) → BytesOwned s (spanning base 65600) .write L P →
      ∃ u, exec (.tsave d a e 1) s = .next u ∧ MemKept s u ∧ u.me.a = s.me.a ∧ u.me.c = s.me.c ∧ u.latch s.cur = l ∧
        u.matrix.getD (s.cur / 32) [] = [] ∧ BytesBecome s u (spanning base 65600) L fun va =>
          if base ≤ va ∧ va < base + 65600 then latchByte l (va - base) else heldByte P va) ∧
    (s.me.Ready [.g a.toNat] → BytesOwned s (spanning base 65600) .read L P →
      let at_ (i n : Nat) : Nat := ((List.range n).map fun j => (heldByte P (base + i + j)).toNat * 256 ^ j).sum
      let w := typeBits (at_ 4 1)
      let sound := at_ 5 1 = 1 ∧ 8 ≤ at_ 4 1 ∧ at_ 4 1 ≤ 12 ∧ 1 ≤ at_ 2 2 ∧ at_ 2 2 ≤ 128 ∧ 1 ≤ at_ 0 2 ∧ at_ 0 2 * w ≤ 4096 ∧
        ∀ i, 6 ≤ i → i < 64 → heldByte P (base + i) = 0
      (sound → ∃ u, exec (.tload d a e 1) s = .next u ∧ MemKept s u ∧ u.me.a = s.me.a ∧ u.me.c = s.me.c ∧ u.me.full = s.me.full ∧
        u.matrix.getD (s.cur / 32) [] = [] ∧ (u.latch s.cur).lv = true ∧ (u.latch s.cur).lk = at_ 0 2 ∧ (u.latch s.cur).lm = at_ 2 2 ∧
        (u.latch s.cur).ltype = at_ 4 1 ∧ (u.latch s.cur).rows.length = at_ 2 2 ∧
        ∀ i c, i < at_ 2 2 → ((u.latch s.cur).rows.getD i 0).testBit c =
          (decide (c < at_ 0 2 * w) && (heldByte P (base + 64 + 512 * i + c / 8)).getLsbD (c % 8))) ∧
      (¬ sound → Handled s.me → ∃ u, exec (.tload d a e 1) s = .next u ∧ u.me.n.cause = 3 ∧ u.me.n.epc = s.me.pc ∧
        u.me.n.tval = BitVec.ofNat 64 (Instr.tload d a e 1).encodeNat ∧ u.latch s.cur = (s.latch s.cur) ∧ u.mem = s.mem)))

/-- 18 R399 to R401: AMO at a line that the slice owns; SAMO sends one operation to its bank, and completes with the answer. -/
def Obligations.ScalarAtomics : Prop :=
  (∀ (s : State) (d a : BitVec 5) (e : BitVec 1) (sc : BitVec 3) (o : BitVec 2) (p t : BitVec 4) (l : Leaf) (cp : Copy Nat),
    let n := typeBits t.toNat / 8
    let va := (s.me.gRead a.toNat).toNat
    let old := lineField cp.data (l.pa va % 128) n
    let r := atomicNew p.toNat t.toNat (s.me.round (s.me.c.fctl.toNat % 8) 0) old
      ((s.me.gRead d.toNat).toNat % 2 ^ (8 * n)) ((s.me.gRead (d.toNat + 1)).toNat % 2 ^ (8 * n))
    let x := Claims.extended t.toNat old
    atomicTypeOk p.toNat t.toNat true = true → va % n = 0 → s.me.Ready (amoRegs d a p) → s.me.Closed → Calm s.me →
    LineOwned s va .atomic l cp → StorableAfter s (max s.me.pts cp.rts) → (2 ≤ o.toNat → Released sc.toNat s) →
    s.me.Writable d.toNat x →
    ∃ u, exec (.amo d a e sc o p t) s = .next u ∧ SeqKept s u ∧ u.stage = s.stage ∧
      u.me.full = (coming (.g d.toNat) x.toNat s.me).full ∧ u.me.arrivals = (coming (.g d.toNat) x.toNat s.me).arrivals ∧
      u.me.c = { s.me.c with fflags := s.me.c.fflags ||| r.2 } ∧ cp.rts < u.me.pts ∧
      LineBecomes s u (l.pa va / 128) (replaceBytes cp.data (l.pa va % 128) n r.1)) ∧
  ∀ (s : State) (d a : BitVec 5) (e : BitVec 1) (p t : BitVec 4),
    let n := typeBits t.toNat / 8
    let off := (s.me.gRead a.toNat).toNat
    atomicTypeOk p.toNat t.toNat false = true → s.me.Ready (amoRegs d a p) → s.me.Closed → s.Fresh → StageOk s.me off n →
    let op : StageOp :=
      { die := s.cur / 2048, off := s.me.n.stgbase + off, size := n, act := .alu p t, s := s.me.gRead d.toNat
        s2 := s.me.gRead (d.toNat + 1), clock := s.me.pts, k := s.cur, dest := none
        floor := if d = 31 then s.me.c.slim.toNat else 0 }
    (s.me.note.bind Note.value = none → exec (.samo d a e p t) s = .next ((s.updMe fun q =>
      { q with note := some (q.note.getD {}), wait := .stage }).post (.stageBankOperation op))) ∧
    ∀ v, s.me.note.bind Note.value = some v →
      let x := Claims.extended t.toNat (v.toNat % 2 ^ (8 * n))
      s.me.Writable d.toNat x → exec (.samo d a e p t) s = .next (s.done (coming (.g d.toNat) x.toNat) .next)

/-- 18 R402, R403: the active elements of VAMO, VGLL and VSCC on one line of the slice: VAMO performs them in ascending order,
VGLL leaves a link tag, and VSCC stores exactly where the tag stands. -/
def Obligations.VectorAtomics : Prop :=
  ∀ (s : State) (d a : BitVec 5) (e : BitVec 1) (sc : BitVec 3) (o : BitVec 2) (t : BitVec 4) (l : Leaf) (cp : Copy Nat) (h : HomeLine Nat),
    let w := typeBits t.toNat
    let n := w / 8
    let base := (s.me.gRead a.toNat).toNat
    let x := l.pa base / 128
    let es := activeElems s.me
    8 ≤ w → w ≤ s.me.c.sewBits → s.me.Ready (indexedRegs s.me d a) → s.me.Closed → Calm s.me → es ≠ [] →
    (∀ i ∈ es, indexedAt s.me a d n i % n = 0 ∧ indexedAt s.me a d n i / 128 = base / 128) → l.level = 0 →
    (2 ≤ o.toNat → Released sc.toNat s) → s.home x = some h → h.own = some (l1Of (s.cur / 32) x) →
    StorableAfter s (max s.me.pts (max cp.wts cp.rts)) →
    (∀ p : BitVec 4, atomicTypeOk p.toNat t.toNat true = true → p ≠ 7 → LineOwned s base .atomic l cp →
      let r := amoElems s.me p t d a es (cp.data, s.me.vRead d.toNat, 0)
      ∃ u, exec (.vamo d a e sc o p t) s = .next u ∧ SeqKept s u ∧ u.stage = s.stage ∧
        u.me.full = (coming (.v d.toNat) r.2.1 s.me).full ∧ u.me.arrivals = (coming (.v d.toNat) r.2.1 s.me).arrivals ∧
        u.me.c = { s.me.c with vstart := 0, fflags := s.me.c.fflags ||| r.2.2 } ∧ LineBecomes s u x r.1) ∧
    (t.toNat ≤ 14 → LineHeld s base .read l cp → cp.own = true →
      let v := es.foldl (fun v i => setBitsAt v (w * i) w (lineField cp.data (indexedAt s.me a d n i % 128) n)) (s.me.vRead d.toNat)
      ∃ u h1, exec (.vgll d a e sc o t) s = .next u ∧ SeqKept s u ∧ u.stage = s.stage ∧
        u.me.full = (coming (.v d.toNat) v s.me).full ∧ u.me.arrivals = (coming (.v d.toNat) v s.me).arrivals ∧
        u.me.c = { s.me.c with vstart := 0 } ∧ u.me.linkEpoch = (s.me.linkEpoch + 1) % 65536 ∧ LineBecomes s u x cp.data ∧
        u.homes.find x = some h1 ∧ ∃ g ∈ h1.tags, g.k = s.cur ∧ g.gen = s.me.gen ∧ g.epoch = u.me.linkEpoch) ∧
    ∀ p : BitVec 3, t.toNat ≤ 14 → s.me.Ready [.p p.toNat] → LineOwned s base .atomic l cp →
      let tag : Bool := h.tags.any fun g => g.k = s.cur && g.gen = s.me.gen && g.epoch = s.me.linkEpoch
      let m := ofBits s.me.c.vl fun i => tag && i ∈ es
      let d1 := es.foldl (fun d1 i => replaceBytes d1 (indexedAt s.me a d n i % 128) n (element (s.me.vRead d.toNat) w i)) cp.data
      ∃ u, exec (.vscc d a e sc o p t) s = .next u ∧ SeqKept s u ∧ u.stage = s.stage ∧
        u.me.full = (coming (.p p.toNat) m s.me).full ∧ u.me.arrivals = (coming (.p p.toNat) m s.me).arrivals ∧
        u.me.c = { s.me.c with vstart := 0 } ∧ u.me.linkEpoch = (s.me.linkEpoch + 1) % 65536 ∧ LineBecomes s u x (if tag then d1 else cp.data)

/-- 18 R404, R405: SRED performs its operations at their banks in ascending order; HACC places its keys, and says where it
stopped. -/
def Obligations.StageReductions : Prop :=
  (∀ (s : State) (d a : BitVec 5) (e : BitVec 1) (p t : BitVec 4),
    let w := typeBits t.toNat
    atomicTypeOk p.toNat t.toNat false = true → p ≠ 7 → w ≤ s.me.c.sewBits → s.me.Ready (indexedRegs s.me d a) → s.me.Closed →
    s.Fresh → (∀ i ∈ activeElems s.me, StageOk s.me (indexedAt s.me a d (w / 8) i) (w / 8)) →
    ∃ u, exec (.sred d a e p t) s = .next u ∧ SeqKept s u ∧ u.me.full = s.me.full ∧ u.me.c = { s.me.c with vstart := 0 } ∧
      u.stage = reduceElems s p t d a (activeElems s.me) s.stage ∧ u.copies = s.copies ∧ u.homes = s.homes) ∧
  ∀ (s : State) (d a : BitVec 5) (e : BitVec 1) (r : BitVec 5) (o : BitVec 3),
    let g := s.me.gRead a.toNat
    let off := (g.extractLsb' 0 26).toNat
    let L := (g.extractLsb' 32 5).toNat
    let es := (List.range s.me.c.vl).filter fun i => s.me.c.vstart ≤ i
    let x := placeKeys s.me o.toNat (stagePlace s off) L d es s.stage
    o.toNat ≤ 4 → s.me.c.sew = 2 → g.extractLsb' 26 6 = 0 → g.extractLsb' 37 27 = 0 → 4 ≤ L → L ≤ 20 → off % 8 = 0 →
    off + 8 * 2 ^ L ≤ s.me.n.stage → s.me.Closed → s.Fresh →
    s.me.Ready ([.v d.toNat, .g a.toNat, .g r.toNat] ++ (if o = 4 then [] else [.v (d.toNat + 1)]) ++ maskRegs s.me) →
    s.me.Writable r.toNat (BitVec.ofNat 64 x.1) →
    ∃ u, exec (.hacc d a e r o) s = .next u ∧ SeqKept s u ∧ u.stage = x.2 ∧ u.me.c = { s.me.c with vstart := 0 } ∧
      u.me.full = (coming (.g r.toNat) x.1 s.me).full ∧ u.me.arrivals = (coming (.g r.toNat) x.1 s.me).arrivals ∧
      u.copies = s.copies ∧ u.homes = s.homes

/-- 18 R406 to R408: WAITA and VWAIT return when the condition holds or the deadline has passed; else they park at the line's
home, and a write, the deadline or a reread has them executed again. -/
def Obligations.MemoryWaits : Prop :=
  (∀ (s : State) (d a : BitVec 5) (e : BitVec 1) (sc : BitVec 3) (o : BitVec 2) (c : BitVec 4) (z : BitVec 2) (l : Leaf) (h : HomeLine Nat),
    let n := 2 ^ z.toNat
    let va := (s.me.gRead a.toNat).toNat
    let x := l.pa va / 128
    let dl := (s.me.gRead (d.toNat + 1)).toNat
    let v := lineField h.data (l.pa va % 128) n
    let ok := meets c.toNat n v ((s.me.gRead d.toNat).toNat % 2 ^ (8 * n)) || (dl ≠ 0 && decide (dl ≤ s.cycle))
    va % n = 0 → c.toNat ≤ 7 → s.me.Ready [.g d.toNat, .g a.toNat, .g (d.toNat + 1)] → s.me.Closed → Calm s.me →
    Cached s va .read false l → Leaf.Plain l → (tierOf (l.pa va) = .hbm ∨ tierOf (l.pa va) = .lpddr) → HomeReady s x h →
    Storable s (max s.me.pts h.wts + s.me.c.lease) → (2 ≤ o.toNat → Released sc.toNat s) → s.me.Writable d.toNat (BitVec.ofNat 64 v) →
    (ok = true → ∃ u, exec (.waita d a e sc o c z) s = .next u ∧ SeqKept s u ∧ u.stage = s.stage ∧ u.me.c = s.me.c ∧
      u.me.full = (coming (.g d.toNat) v s.me).full ∧ u.me.arrivals = (coming (.g d.toNat) v s.me).arrivals) ∧
    (ok = false → h.waiters.length < 64 → o.toNat < 2 → ∃ u h1, exec (.waita d a e sc o c z) s = .next u ∧
      u.me.wait = parkedOn [x] dl s.cycle ∧ u.me.pc = s.me.pc ∧ u.me.g = s.me.g ∧ u.me.c = s.me.c ∧ u.mem = s.mem ∧
      u.homes.find x = some h1 ∧ h1.waiters = h.waiters ++ [s.cur] ∧ h1.data = h.data)) ∧
  (∀ (s : State) (d a : BitVec 5) (e : BitVec 1) (sc : BitVec 3) (o : BitVec 2) (p c : BitVec 3) (l : Leaf) (h : HomeLine Nat) (at_ : Nat),
    let x := l.pa at_ / 128
    let es := activeElems s.me
    let va (i : Nat) : Nat := element (s.me.vRead d.toNat) 64 i
    let dl := (s.me.gRead (a.toNat + 1)).toNat
    let left := es.filter fun i => !meetsAll c.toNat (lineField h.data (va i % 128) 8) (s.me.gRead a.toNat).toNat
    s.me.c.sew = 3 → es ≠ [] → (∀ i ∈ es, va i % 8 = 0 ∧ va i / 128 = at_ / 128) → c.toNat ≤ 4 → at_ % 128 = 0 →
    s.me.Ready ([.v d.toNat, .g a.toNat, .g (a.toNat + 1), .p p.toNat] ++ maskRegs s.me) → s.me.Closed → Calm s.me →
    Cached s at_ .read false l → Cached s (at_ / 4096 * 4096) .read false l → Leaf.Plain l →
    (tierOf (l.pa at_) = .hbm ∨ tierOf (l.pa at_) = .lpddr) → HomeReady s x h → (2 ≤ o.toNat → Released sc.toNat s) →
    Storable s (max s.me.pts h.wts + s.me.c.lease) →
    (left = [] ∨ (dl ≠ 0 ∧ dl ≤ s.cycle) → ∃ u, exec (.vwait d a e sc o p c) s = .next u ∧ SeqKept s u ∧ u.stage = s.stage ∧
      u.me.c = { s.me.c with vstart := 0 } ∧
      u.me.full = (coming (.p p.toNat) (ofBits s.me.c.vl fun i => i ∈ left) s.me).full ∧
      u.me.arrivals = (coming (.p p.toNat) (ofBits s.me.c.vl fun i => i ∈ left) s.me).arrivals) ∧
    (left ≠ [] → dl = 0 → h.waiters.length < 64 → o.toNat < 2 → ∃ u h1, exec (.vwait d a e sc o p c) s = .next u ∧
      u.me.wait = parkedOn [x] 0 s.cycle ∧ u.me.pc = s.me.pc ∧ u.homes.find x = some h1 ∧ h1.waiters = h.waiters ++ [s.cur])) ∧
  (∀ (s : State) (k x T : Nat) (w : Park) (n : Note), (s.seq k).wait = .park w → (s.seq k).note = some n → x ∈ w.lines →
    exec (.waitWake k x T) s = .next (s.upd k fun q => { q with
      note := some { n with step := 1, woke := n.woke ++ [(x, T)], parked := n.parked.filter (· ≠ x) }, wait := .run })) ∧
  (∀ (s : State) (k t : Nat) (w : Park), (s.seq k).wait = .park w → w.deadline = some t → t ≤ s.cycle →
    exec (.waitDeadline k) s = .next (s.upd k fun q => { q with note := some { (q.note.getD {}) with step := 3 }, wait := .run })) ∧
  ∀ (s : State) (k : Nat) (w : Park), (s.seq k).wait = .park w → w.poll = true → w.since + 1024 ≤ s.cycle →
    exec (.waitPoll k) s = .next (s.upd k fun q => { q with note := some { (q.note.getD {}) with step := 4 }, wait := .run })

/-- 18 R409 to R411: ARRIVE counts itself and gives GEN; inside a strip ARRIVE.RLX is held to the commit; AWAIT gives a GEN that
differs, and else parks. -/
def Obligations.BarrierInstructions : Prop :=
  (∀ (s : State) (d a : BitVec 5) (e : BitVec 1) (sc : BitVec 3) (o : BitVec 2) (lv : BitVec 1) (n : BitVec 3) (scope : Nat)
      (x : BitVec 1),
    let va := (s.me.gRead a.toNat).toNat
    let at_ := stagePlace s va
    let gen := s.stage.read (at_ + 8) 4
    levelScope lv.toNat n.toNat sc.toNat s = some scope → va % 16 = 0 → s.me.Ready [.g d.toNat, .g a.toNat] →
    (StageOk s.me va 16 → s.Canonical → s.me.Closed → Calm s.me → (2 ≤ o.toNat → Released scope s) → s.me.Writable d.toNat (BitVec.ofNat 64 gen) →
      ∃ u, exec (.arrive d a e sc o x lv n 1) s = .next u ∧ SeqKept s u ∧ u.me.c = s.me.c ∧
        u.me.full = (coming (.g d.toNat) gen s.me).full ∧ u.me.arrivals = (coming (.g d.toNat) gen s.me).arrivals ∧
        (u.stage.read (at_ + 4) 4, u.stage.read (at_ + 8) 4) = arrivedAt (s.stage.read at_ 4) (s.stage.read (at_ + 4) 4) gen ∧
        ∀ b, b < at_ + 4 ∨ at_ + 12 ≤ b → u.stage.byte b = s.stage.byte b) ∧
    (StageOk s.me va 16 → x = 1 → s.Fresh → ∀ st, s.me.strip = some st →
      exec (.arrive d a e sc o x lv n 1) s = .next (s.done (fun q => { q.setFull (.g d.toNat) false with
        strip := some { st with
          rlx := st.rlx ++ [{ stage := true, addr := at_, loc := .line 0, leaf := 0, page := 0, dest := d.toNat }] } }) .next)) ∧
    ∀ (l : Leaf) (cp : Copy Nat),
      let off := l.pa va % 128
      let g := lineField cp.data (off + 8) 4
      s.me.Closed → Calm s.me → LineOwned s va .atomic l cp → StorableAfter s (max s.me.pts cp.rts) →
      (2 ≤ o.toNat → Released scope s) → s.me.Writable d.toNat (BitVec.ofNat 64 g) →
      ∃ u d1, exec (.arrive d a e sc o x lv n 0) s = .next u ∧ SeqKept s u ∧ u.stage = s.stage ∧ u.me.c = s.me.c ∧
        u.me.full = (coming (.g d.toNat) g s.me).full ∧ u.me.arrivals = (coming (.g d.toNat) g s.me).arrivals ∧
        LineBecomes s u (l.pa va / 128) d1 ∧
        (lineField d1 (off + 4) 4, lineField d1 (off + 8) 4) = arrivedAt (lineField cp.data off 4) (lineField cp.data (off + 4) 4) g ∧
        ∀ b, b < 128 → b < off + 4 ∨ off + 12 ≤ b → lineByte d1 b = lineByte cp.data b) ∧
  (∀ (s : State) (d a : BitVec 5) (e : BitVec 1) (sc : BitVec 3) (lv : BitVec 1) (n : BitVec 3) (scope : Nat) (l : Leaf) (h : HomeLine Nat),
    let va := (s.me.gRead a.toNat).toNat
    let x := l.pa (va + 8) / 128
    let gen := lineField h.data (l.pa (va + 8) % 128) 4
    levelScope lv.toNat n.toNat sc.toNat s = some scope → va % 16 = 0 → s.me.Ready [.g d.toNat, .g a.toNat] → s.me.Closed →
    Calm s.me → Cached s va .read false l → Leaf.Plain l → (tierOf (l.pa (va + 8)) = .hbm ∨ tierOf (l.pa (va + 8)) = .lpddr) →
    HomeReady s x h → Storable s (max s.me.pts h.wts + s.me.c.lease) → s.me.Writable d.toNat (BitVec.ofNat 64 gen) →
    (gen ≠ (s.me.gRead d.toNat).toNat % 2 ^ 32 → ∃ u, exec (.await d a e sc lv n 0) s = .next u ∧ SeqKept s u ∧
      u.stage = s.stage ∧ u.me.c = s.me.c ∧
      u.me.full = (coming (.g d.toNat) gen s.me).full ∧ u.me.arrivals = (coming (.g d.toNat) gen s.me).arrivals) ∧
    (gen = (s.me.gRead d.toNat).toNat % 2 ^ 32 → h.waiters.length < 64 → ∃ u h1, exec (.await d a e sc lv n 0) s = .next u ∧
      u.me.wait = parkedOn [x] 0 s.cycle ∧ u.me.pc = s.me.pc ∧ u.homes.find x = some h1 ∧ h1.waiters = h.waiters ++ [s.cur])) ∧
  ∀ (s : State) (d a : BitVec 5) (e : BitVec 1) (sc : BitVec 3) (lv : BitVec 1) (n : BitVec 3) (scope : Nat),
    let off := (s.me.gRead a.toNat).toNat
    levelScope lv.toNat n.toNat sc.toNat s = some scope → off % 16 = 0 → s.me.Ready [.g d.toNat, .g a.toNat] → s.me.Closed →
    s.Fresh → off + 16 ≤ s.me.n.stage →
    (s.me.note = none → ∃ u, exec (.await d a e sc lv n 1) s = .next u ∧ u.me.wait = .stage ∧ u.me.pc = s.me.pc ∧
      u.due = s.due ++ [.stageBankOperation { die := s.cur / 2048, off := s.me.n.stgbase + off + 8, size := 4, act := .load, s := 0
                                              s2 := 0, clock := s.me.pts, k := s.cur, dest := none }]) ∧
    ∀ (w : Note) (v : DWord), s.me.note = some w → w.value = some v → w.parked = [] →
      let gen := v.toNat % 2 ^ 32
      gen ≠ (s.me.gRead d.toNat).toNat % 2 ^ 32 → s.me.Writable d.toNat (BitVec.ofNat 64 gen) →
      exec (.await d a e sc lv n 1) s = .next (s.done (fun q => acquired scope s (coming (.g d.toNat) gen q)) .next)

/-- 18 R412, R413; 07 R173, R174: FENCE, and ENDPH, which reserves, applies and drops the lines it publishes. -/
def Obligations.PhasesAndFences : Prop :=
  (∀ (s : State) (sc : BitVec 3), s.me.Closed → s.Fresh → Released sc.toNat s →
    exec (.fence sc) s = .next (s.done (acquired sc.toNat s) .next)) ∧
  (∀ (s : State) (sc : BitVec 3) (lv : BitVec 1) (n : BitVec 3) (scope : Nat), levelScope lv.toNat n.toNat sc.toNat s = some scope →
    s.me.Closed → s.Fresh →
    (s.me.phase = [] → Released scope s → exec (.endph sc lv n) s = .next (s.done id .next)) ∧
    (∀ w, s.me.phase ≠ [] → s.me.note = some w → w.step = 3 → Released scope s →
      ∃ u, exec (.endph sc lv n) s = .next u ∧ u.me = { s.me with phase := [] }.retire s.me .next ∧ u.mem = s.mem ∧
        u.stage = s.stage ∧ u.homes = s.homes ∧
        ∀ y p, s.copies.find y = some p → u.copies.find y = some p ∨ p.own = false) ∧
    (s.me.phase ≠ [] → s.me.note = none → (∀ b ∈ s.me.phase, b.leaf = 0 ∧ b.loc.isPeer = false) →
      ∃ u, exec (.endph sc lv n) s = .next u ∧ u.me.wait = .publish ∧ u.me.pc = s.me.pc ∧ u.mem = s.mem ∧ u.homes = s.homes ∧
        ∀ b ∈ s.me.phase, .ppr s.cur s.me.gen b.loc.order ∈ u.due)) ∧
  ∀ (s : State) (k x rts : Nat) (w : Note), (s.seq k).wait = .publish → (s.seq k).note = some w → w.step = 1 →
    let ls := w.lines.set x rts
    let xs := dedup (((s.seq k).phase.filter fun b => !b.loc.isPeer).map fun b => b.loc.order)
    ((∃ y ∈ xs, ls.find y = none) → exec (.phaseReserveReply k x rts) s =
      .next (s.upd k fun q => { q with note := some { w with lines := ls } })) ∧
    ((∀ y ∈ xs, (ls.find y).isSome = true) → ∃ u, exec (.phaseReserveReply k x rts) s = .next u ∧
      (∀ y t, ls.find y = some t → t < (u.seq k).pts) ∧ (s.seq k).pts ≤ (u.seq k).pts ∧
      (u.seq k).note = some { w with step := 2, lines := ls } ∧ (u.seq k).wait = .publish ∧ u.mem = s.mem ∧ u.homes = s.homes ∧
      ∀ y ∈ xs, ∃ d m, .ppa k (s.seq k).gen y (u.seq k).pts d m ∈ u.due)

/-- 18 R415; 04 R86, R91: where its work answers, a fold retires; MSTRIKE empties the mask and pushes the slots back; MPRINT also
writes the slot's line over the plate's; MPRINT.FORK ends with status 0 when its invalidation is done. -/
def Obligations.MatteFolds : Prop :=
  (∀ (s u : State) (d a : BitVec 5) (e : BitVec 1) (f : Flow), s.me.Ready [.g d.toNat, .g a.toNat] → s.me.Closed →
    (fold .print d.toNat a.toNat s = .ok f u → exec (.mprint d a e) s = .next (s.retired u f)) ∧
    (fold .fork d.toNat a.toNat s = .ok f u → exec (.mprintFork d a e) s = .next (s.retired u f)) ∧
    (fold .strike d.toNat a.toNat s = .ok f u → exec (.mstrike d a e) s = .next (s.retired u f))) ∧
  (∀ (s : State) (d a : BitVec 5) (e : BitVec 1) (l : Leaf) (rh ph : HomeLine Nat),
    let va := (s.me.gRead a.toNat).toNat
    let n := ((List.range 32).filter fun i => masked rh.data i).length
    s.me.Ready [.g d.toNat, .g a.toNat] → s.me.Closed → Calm s.me → Cached s va .write true l → l.mv = true →
    tierOf l.base ≠ .peer → HomeReady s (recordLine s l) rh → HomeReady s (poolAnchor s) ph →
    n ≠ 0 → s.me.Writable d.toNat 0 → (s.vi s.me.vi).cstat = 0 → StorableAfter s (max s.me.pts (max rh.rts ph.rts)) →
    (∀ i, i < 32 → masked rh.data i = true → slotFault s.me.vi (myRoot s) (recPtr rh.data i) s = none ∧
      (∃ h, HomeReady s (slotLine s rh.data i) h) ∧ slotLine s rh.data i ∉ lookups s rh.data) →
    Apart (recordLine s l :: poolAnchor s :: ((List.range 32).filter fun i => masked rh.data i).map (slotLine s rh.data)) →
    (∀ w ∈ lookups s rh.data, w ≠ recordLine s l ∧ w ≠ poolAnchor s) →
    ∃ u r1 p1, exec (.mstrike d a e) s = .next u ∧ u.me.g = s.me.g ∧ u.me.c = s.me.c ∧ u.me.n = s.me.n ∧ u.stage = s.stage ∧
      u.me.full = (coming (.g d.toNat) 0 s.me).full ∧ u.me.arrivals = (coming (.g d.toNat) 0 s.me).arrivals ∧
      u.me.pc = (loopStep s.me.pc s.me.loops).2 ∧
      u.homes.find (recordLine s l) = some r1 ∧ (∀ i, i < 32 → masked r1.data i = false ∧ recPtr r1.data i = 0) ∧
      (∀ b, 4 ≤ b ∧ b < 16 ∨ 112 ≤ b ∧ b < 128 → lineByte r1.data b = lineByte rh.data b) ∧
      u.homes.find (poolAnchor s) = some p1 ∧
      poolCounts p1.data = (((poolCounts ph.data).1 + n) % 2 ^ 32, ((poolCounts ph.data).2 + 2 ^ 32 - n) % 2 ^ 32)) ∧
  (∀ (s : State) (d a : BitVec 5) (e : BitVec 1) (l : Leaf) (rh ph lh sh : HomeLine Nat) (i : Nat),
    let va := (s.me.gRead a.toNat).toNat
    let z := slotLine s rh.data i
    let y := l.base / 128 + i
    s.me.Ready [.g d.toNat, .g a.toNat] → s.me.Closed → Calm s.me → Cached s va .write true l → l.mv = true → l.sh = false →
    tierOf l.base ≠ .peer → l.base % 4096 = 0 → (l.lk = true → s.me.n.priv = true) → i < 32 →
    (∀ j, j < 32 → masked rh.data j = decide (j = i)) →
    HomeReady s (recordLine s l) rh → HomeReady s (poolAnchor s) ph → HomeReady s y lh → HomeReady s z sh →
    slotFault s.me.vi (myRoot s) (recPtr rh.data i) s = none → (s.vi s.me.vi).cstat = 0 →
    StorableAfter s (max (max s.me.pts ph.rts) (max lh.rts rh.rts)) →
    [recordLine s l, poolAnchor s, y, z].Pairwise (· ≠ ·) → (∀ w ∈ lookups s rh.data, w ∉ [recordLine s l, poolAnchor s, y, z]) →
    s.me.Writable d.toNat 0 →
    ∃ u r1 p1 l1 T, exec (.mprint d a e) s = .next u ∧ u.me.g = s.me.g ∧ u.me.c = s.me.c ∧ u.me.n = s.me.n ∧ u.stage = s.stage ∧
      u.me.full = (coming (.g d.toNat) 0 s.me).full ∧ u.me.arrivals = (coming (.g d.toNat) 0 s.me).arrivals ∧
      u.home y = some l1 ∧ l1.data = sh.data ∧ u.home (recordLine s l) = some r1 ∧
      (∀ j, j < 32 → masked r1.data j = false ∧ recPtr r1.data j = 0) ∧ u.homes.find (poolAnchor s) = some p1 ∧
      lineField p1.data 0 3 = recPtr rh.data i ∧ l1.wts = max lh.wts T ∧ r1.wts = max rh.wts T ∧ max lh.rts rh.rts < T) ∧
  ∀ (s : State) (d a : BitVec 5) (e : BitVec 1) (w : Note), s.me.Ready [.g d.toNat, .g a.toNat] → s.me.Closed → s.Fresh →
    s.me.note = some w → w.step = 7 → w.time = 0 → s.me.Writable d.toNat 0 →
    exec (.mprintFork d a e) s = .next (s.done (coming (.g d.toNat) 0) .next)

/-- 18 R416 to R418; 04 R79, R80, R85, R86: MQUERY reads the leaf as it stands; MGRANT pushes a frame's slots; PLSHARE counts a
mapping and writes its leaf; PLDEC clears the mapping's V and, its translations invalidated, counts it off. -/
def Obligations.MatteControl : Prop :=
  (∀ (s : State) (d a : BitVec 5) (e : BitVec 1) (l : Leaf) (cp : Copy Nat),
    let va := (s.me.gRead a.toNat).toNat
    let x := l.entry / 128
    let t := max s.me.pts cp.wts
    let w0 := BitVec.ofNat 64 (lineField cp.data (l.entry % 128) 8)
    let w1 := BitVec.ofNat 64 (lineField cp.data (l.entry % 128 + 8) 8)
    let r : DWord := (if w1.getLsbD 24 then 1 <<< 63 else 0) ||| (if w0.getLsbD 52 then 1 <<< 62 else 0) |||
      (if w0.getLsbD 8 then 1 <<< 61 else 0) ||| ((w1.setWidth 24).setWidth 64 <<< 32)
    s.me.Ready [.g d.toNat, .g a.toNat] → s.me.strip = none → Calm s.me → Cached s va .read false l → l.mv = false →
    l.entry % 16 = 0 → (tierOf l.entry = .hbm ∨ tierOf l.entry = .lpddr) → s.copy (s.cur / 32) x = some cp → cp.poison = false →
    (cp.own = true ∨ t ≤ cp.rts) → Storable s t → commitLocked s.cur x s = false → s.me.Writable d.toNat r →
    ∃ u, exec (.mquery d a e) s = .next u ∧ SeqKept s u ∧ u.stage = s.stage ∧ u.me.c = s.me.c ∧ u.homes = s.homes ∧
      u.me.full = (coming (.g d.toNat) r.toNat s.me).full ∧ u.me.arrivals = (coming (.g d.toNat) r.toNat s.me).arrivals) ∧
  (∀ (s : State) (d a : BitVec 5) (e : BitVec 1) (cid : Nat) (ph ah th : HomeLine Nat),
    let frame := (s.me.gRead a.toNat).toNat / 4096 * 4096
    let root := rootOf s.me.vi cid s
    let n := lineField ah.data 24 4
    let pft := pftBase root s + 8 * n
    let first := if n = 0 then 1 else 0
    s.me.n.priv = true → s.Canonical → s.me.Ready [.g d.toNat, .g a.toNat] → s.me.Closed → Calm s.me → root % 16384 = 0 → pft % 8 = 0 →
    namedContext (s.me.gRead d.toNat) s = some cid → isMemory frame = true → s.frameOwner (frame / 4096) = s.me.vi → n < 2 ^ 19 →
    HomeReady s ((root + 0x2080) / 128) ph → HomeReady s ((root + 0x2000) / 128) ah → HomeReady s (pft / 128) th →
    structOk s.me.vi pft s = true → (s.vi s.me.vi).cstat = 0 → StorableAfter s (max (max s.me.pts ph.rts) (max ah.rts th.rts)) →
    (∀ j, j < 32 → ∃ h, HomeReady s (frame / 128 + j) h ∧ StorableAfter s h.rts) →
    Apart ([(root + 0x2080) / 128, (root + 0x2000) / 128, pft / 128] ++ (List.range 32).map fun j => frame / 128 + j) →
    s.me.Writable d.toNat 0 →
    ∃ u p1 a1 t1, exec (.mgrant d a e) s = .next u ∧ u.me.g = s.me.g ∧ u.me.c = s.me.c ∧ u.me.n = s.me.n ∧ u.stage = s.stage ∧
      u.me.full = (coming (.g d.toNat) 0 s.me).full ∧ u.me.arrivals = (coming (.g d.toNat) 0 s.me).arrivals ∧
      u.homes.find ((root + 0x2080) / 128) = some p1 ∧ lineField p1.data 0 3 = 32 * n + first ∧
      (poolCounts p1.data).1 = ((poolCounts ph.data).1 + 32 - first) % 2 ^ 32 ∧
      u.homes.find ((root + 0x2000) / 128) = some a1 ∧ lineField a1.data 24 4 = n + 1 ∧
      u.homes.find (pft / 128) = some t1 ∧ lineField t1.data (pft % 128) 8 = frame ∧
      ∀ j, first ≤ j → j < 32 → ∃ f1, u.homes.find (frame / 128 + j) = some f1 ∧
        lineField f1.data 0 3 = if j = 31 then lineField ph.data 0 3 else 32 * n + j + 1) ∧
  (∀ (s s1 s2 : State) (d a : BitVec 5) (e : BitVec 1) (r : BitVec 5) (cid : Nat) (x y : Pte) (xh yh : HomeLine Nat),
    let ea := (s2.vi s.me.vi).pltbase.toNat + 16 * x.leaf.plix
    s.me.Ready [.g d.toNat, .g a.toNat, .g r.toNat] → s.me.Closed → Calm s.me → namedContext (s.me.gRead r.toNat) s = some cid →
    pteOf s.me.cid (s.me.gRead a.toNat).toNat s = .ok (.ok (some x)) s1 → pteOf cid (s.me.gRead d.toNat).toNat s1 = .ok (.ok (some y)) s2 →
    s2.me = { s.me with pts := s2.me.pts } → s2.cur = s.cur → s2.stage = s.stage →
    x.shared = true → y.w0.getLsbD 0 = false → x.leaf.plix < (s2.vi s.me.vi).pltsize → ea % 16 = 0 → y.entry % 16 = 0 →
    HomeReady s2 (ea / 128) xh → HomeReady s2 (y.entry / 128) yh → ea / 128 ≠ y.entry / 128 → (s2.vi s.me.vi).cstat = 0 →
    StorableAfter s2 (max s2.me.pts (max xh.rts yh.rts)) →
    lineField xh.data (ea % 128 + 5) 1 % 2 = 1 → 0 < lineField xh.data (ea % 128 + 8) 2 → lineField xh.data (ea % 128 + 8) 2 < 65535 →
    s.me.Writable r.toNat 0 →
    ∃ u x1 y1, exec (.plshare d a e r) s = .next u ∧ u.me.g = s.me.g ∧ u.me.c = s.me.c ∧ u.me.n = s.me.n ∧ u.stage = s.stage ∧
      u.me.full = (coming (.g r.toNat) 0 s.me).full ∧ u.me.arrivals = (coming (.g r.toNat) 0 s.me).arrivals ∧
      u.homes.find (ea / 128) = some x1 ∧ lineField x1.data (ea % 128 + 8) 2 = lineField xh.data (ea % 128 + 8) 2 + 1 ∧
      u.homes.find (y.entry / 128) = some y1 ∧
      let w0 := BitVec.ofNat 64 (lineField y1.data (y.entry % 128) 8)
      w0.extractLsb' 0 2 = 3 ∧ w0.extractLsb' 2 3 = y.w0.extractLsb' 2 3 ∧ w0.extractLsb' 5 2 = 0 ∧
        w0.extractLsb' 12 40 = x.w0.extractLsb' 12 40 ∧ w0.getLsbD 52 = true) ∧
  ∀ (s : State) (a : BitVec 5) (e : BitVec 1) (r : BitVec 5) (cid : Nat), s.me.Ready [.g a.toNat, .g r.toNat] → s.me.Closed →
    s.me.holds = [] → namedContext (s.me.gRead r.toNat) s = some cid →
    (∀ s1 x xh, s.me.note = none → s.me.phase = [] → s.me.commit = none →
      pteOf cid (s.me.gRead a.toNat).toNat s = .ok (.ok (some x)) s1 → s1.me = { s.me with pts := s1.me.pts } → s1.cur = s.cur →
      x.shared = true → (plateState x.leaf.plix s1).1 = true → 0 < (plateState x.leaf.plix s1).2 → x.leaf.mv = false →
      x.entry % 16 = 0 → HomeReady s1 (x.entry / 128) xh → s.me.Writable r.toNat 0 → (s1.vi s.me.vi).cstat = 0 →
      StorableAfter s1 (max s1.me.pts xh.rts) →
      ∃ u x1, exec (.pldec a e r) s = .next u ∧ u.me.wait = .inv ∧ u.me.pc = s.me.pc ∧ u.me.g = s.me.g ∧
        u.homes.find (x.entry / 128) = some x1 ∧
        lineField x1.data (x.entry % 128) 1 = lineField xh.data (x.entry % 128) 1 / 2 * 2) ∧
    ∀ (w : Note) (xh : HomeLine Nat),
      let ea := (s.vi s.me.vi).pltbase.toNat + 16 * (w.time - 1)
      let k := lineField xh.data (ea % 128 + 8) 2
      s.me.note = some w → w.step = 7 → 0 < w.time → ea % 16 = 0 → HomeReady s (ea / 128) xh → 2 ≤ k → s.me.Writable r.toNat 0 →
      (s.vi s.me.vi).cstat = 0 → StorableAfter s (max s.me.pts xh.rts) →
      ∃ u x1, exec (.pldec a e r) s = .next u ∧ u.me.g = s.me.g ∧ u.me.c = s.me.c ∧ u.me.n = s.me.n ∧
        u.me.pc = (loopStep s.me.pc s.me.loops).2 ∧
        u.me.full = (coming (.g r.toNat) 0 s.me).full ∧ u.me.arrivals = (coming (.g r.toNat) 0 s.me).arrivals ∧
        u.homes.find (ea / 128) = some x1 ∧ lineField x1.data (ea % 128 + 8) 2 = k - 1 ∧
        lineByte x1.data (ea % 128 + 5) = lineByte xh.data (ea % 128 + 5)

/-- 19 R442, R444 to R446; 04 R96; 02 R37 to R40: TLBINV and BFLIP begin, and complete when nothing is left to wait for; IDLE ends
the entry's work; SLEEP and PAUSE end at their time. -/
def Obligations.SystemInstructions : Prop :=
  (∀ (s : State) (d a : BitVec 5) (e : BitVec 1) (k : BitVec 2) (cid : Nat), s.me.n.priv = true →
    s.me.Ready [.g d.toNat, .g a.toNat] → s.me.Closed → s.Fresh → namedContext (s.me.gRead d.toNat) s = some cid → k.toNat ≤ 2 →
    (s.me.note = none → s.me.Writable d.toNat 0 → ∃ t i, exec (.tlbinv d a e k) s = .next t ∧ t.me.wait = .inv ∧ t.me.inval = some i ∧ t.me.pc = s.me.pc ∧
      NoneCached t k.toNat s.me.vi cid (s.me.gRead a.toNat).toNat ∧ t.mem = s.mem ∧
      (i.holders = [] ∧ i.stores = [] → t.due = s.due ++ [.tlbinvDone s.cur])) ∧
    ∀ n, s.me.note = some n → n.step = 7 → s.me.Writable d.toNat 0 →
      exec (.tlbinv d a e k) s = .next (s.done (fun q => q.gSet d.toNat 0) .next)) ∧
  (∀ (s : State) (k : Agent) (i : Inval), (s.seq k).wait = .inv → (s.seq k).inval = some i → i.holders = [] →
    i.stores = [] → ∃ t, exec (.tlbinvDone k) s = .next t ∧ NoneCached t i.kind i.vi i.cid i.va ∧
      t.seq k = { s.seq k with inval := none, wait := .run, note := some { ((s.seq k).note.getD {}) with step := 7 } } ∧
      (∀ j, j ≠ k → t.seq j = s.seq j) ∧ t.mem = s.mem ∧ t.stage = s.stage ∧ t.homes = s.homes ∧ t.due = s.due) ∧
  (∀ (s : State) (d a : BitVec 5) (e k : BitVec 1), s.me.n.priv = true → s.me.Ready [.g d.toNat, .g a.toNat] → s.me.Closed →
    s.Fresh → s.me.Writable d.toNat 0 →
    let pa := (s.me.gRead a.toNat).toNat
    let f := pa / 4096
    (∀ n, s.me.note = some n → n.step = 30 → exec (.bflip d a e k) s = .next (s.done (fun q => q.gSet d.toNat 0) .next)) ∧
    (s.me.note = none → pa % 4096 = 0 → isMemory pa = true → s.frameOwner f = s.me.vi → portOf s.me.vi s = .cxl →
      s.flipping.find f = none →
      (s.bias.contains f = decide (k = 1) → exec (.bflip d a e k) s = .next (s.done (fun q => q.gSet d.toNat 0) .next)) ∧
      (s.bias.contains f ≠ decide (k = 1) → (k = 1 → s.converted.find f = none) → flipLeft (decide (k = 1)) f s = [] →
        ∃ t, exec (.bflip d a e k) s = .next t ∧ t.me.wait = .flip f ∧ t.me.pc = s.me.pc ∧ t.due = s.due ++ [.biasFlipDone f] ∧
          t.flipping.find f = some (k.toNat, [], [s.cur]) ∧ t.mem = s.mem ∧ t.homes = s.homes))) ∧
  (∀ (s : State) (f b : Nat) (left : List Nat) (k : Agent), s.flipping.find f = some (b, left, [k]) → (s.seq k).wait = .flip f →
    b ≤ 1 → flipLeft (decide (b = 1)) f s = [] →
    ∃ t, exec (.biasFlipDone f) s = .next t ∧ t.flipping.find f = none ∧ (f ∈ t.bias ↔ b = 1) ∧
      (∀ g, g ≠ f → (g ∈ t.bias ↔ g ∈ s.bias)) ∧
      t.seq k = { s.seq k with wait := .run, note := some { ((s.seq k).note.getD {}) with step := 30 } } ∧ t.mem = s.mem ∧
      t.homes = s.homes) ∧
  (∀ (s : State) (b : Binding) (sl : Slate), s.me.Closed → AllArrived s.me → s.me.bound = some b → s.slates.find b.slot = some sl →
    s.cur < 8192 →
    ∃ t, exec .idle s = .next t ∧ t.me.bound = none ∧ t.me.n.claim = 0 ∧ (t.latch s.cur).lv = false ∧ t.mem = s.mem ∧ t.stage = s.stage ∧
      rowOf s.cur t = (rowOf s.cur s).drop 1 ∧ t.slates.find b.slot = some { sl with
        doneIdx := sl.doneIdx.set b.outer (sl.doneIdx.getD b.outer [] ++ [(b.first, b.count)])
        doneCount := sl.doneCount + b.count, doneT := max sl.doneT s.me.wmax } ∧
      (product sl.extents ≤ sl.doneCount + b.count → sl.commands = 0 → .slateComplete b.slot ∈ t.due)) ∧
  (∀ (s : State) (k : Agent) (u : Nat), u ≤ s.cycle →
    ((s.seq k).wait = .sleep u → exec (.sleepWake k) s = .next (s.upd k fun q => { q with wait := .run })) ∧
    ((s.seq k).wait = .pause u → exec (.pauseEnd k) s = .next (s.upd k fun q => { q with wait := .run }))) ∧
  ∀ (s : State) (k : Agent) (r : RegRef) (x : Nat), ∃ t, exec (.longLatencyResult k r x) s = .next t ∧ t.mem = s.mem ∧
    (t.seq k).isFull r = inFile r ∧ (inFile r = true → holdsValue (t.seq k) x r) ∧ (t.seq k).pc = (s.seq k).pc ∧ (t.seq k).c = (s.seq k).c ∧ ∀ j, j ≠ k → t.seq j = s.seq j

/-- 05 R113, R114, R119, R120, R122 to R124; 11 R263; 04 R95: BIND writes a call entry for work that a queue offers (log 2 for which);
DISPATCH_START starts it with the registers the slate gives; a saved context leaves its sequencer and comes back from its frames;
a die whose heartbeats are missing is fenced, and its prefixes are dealt again. -/
def Obligations.BindingAndContexts : Prop :=
  ((∀ (s : State) (d row outer count saved : Nat), d < 4 → row < 2048 → takesWork (2048 * d + row) s = true →
    (rowOf (2048 * d + row) s).length < 4 → (∀ v ∈ s.vis, ∀ Q ∈ v.2.queues, Q.1 < 64) →
    (∃ v ∈ s.vis, ∃ Q ∈ v.2.queues, (nextBind v.1 Q.1 (2048 * d + row) outer count saved s).isSome = true) →
    ∃ t e, exec (.bind d row outer count saved) s = .next t ∧ rowOf (2048 * d + row) t = rowOf (2048 * d + row) s ++ [e] ∧
      (∃ v ∈ s.vis, ∃ Q ∈ v.2.queues, nextBind v.1 Q.1 (2048 * d + row) outer count saved s = some e) ∧
      t.due = s.due ++ [.dispatchStart (2048 * d + row)] ∧ t.seqs = s.seqs ∧ t.mem = s.mem ∧
      ∀ sl, s.slates.find e.work.slot = some sl → (sl.stage = 0 ∨ (sl.resv.find d).isSome = true → t.stage = s.stage) ∧
        ∃ sl1, t.slates.find e.work.slot = some sl1 ∧ (e.resume = false →
          sl1.bound.getD e.work.outer [] = sl.bound.getD e.work.outer [] ++ [(e.work.first, e.work.count)])) ∧
  (∀ (s : State) (k : Agent) (e : CallEntry) (es : List CallEntry) (sl : Slate), (s.seq k).bound = none → takesWork k s = true →
    rowOf k s = e :: es → s.slates.find e.work.slot = some sl → sl.abandoned = false → e.valid = true →
    (e.resume = true → exec (.dispatchStart k) s = .next (s.post (.contextResume k))) ∧
    (e.resume = false → ∃ t, exec (.dispatchStart k) s = .next t ∧ (t.seq k).bound = some e.work ∧ (t.seq k).pc = sl.pc ∧
      (∀ i, 0 < i → i < 32 → (t.seq k).gRead i = startRegs sl k i) ∧ (t.seq k).full = {} ∧ (t.seq k).strip = none ∧
      (t.seq k).loops = [] ∧ (t.seq k).pts = max (s.seq k).pts sl.admitT ∧
      (t.seq k).c = { slim := (if sl.stackSize = 0 then 0 else BitVec.ofNat 64 (sl.stackBase + (k / 2048 * 2048 + k % 2048) * sl.stackSize))
                      nvlog := sl.nvlog } ∧
      (t.seq k).n.stgbase = (sl.resv.find (k / 2048)).getD 0 ∧ (t.seq k).n.stage = sl.stage ∧
      (t.seq k).n.lcnt = BitVec.ofNat 64 e.work.count ∧ (t.seq k).n.tvec = 0 ∧ (t.seq k).n.intrap = false ∧
      (t.seq k).n.priv = ((((s.vi sl.vi).ctxs.find sl.cid).map Ctx.priv).getD false) ∧
      (t.seq k).n.claim = BitVec.ofNat 8 (2 ^ sl.tiles - 1) ∧ (t.latch k).lv = false ∧ t.mem = s.mem ∧ t.stage = s.stage)) ∧
  (∀ (s : State) (k : Agent) (b : Binding) (c : Ctx) (sl : Slate), (s.seq k).preempt.isSome = true → (s.seq k).saveReady = true →
    (s.seq k).bound = some b → (s.vi b.vi).ctxs.find b.cid = some c → c.dying = false → slotOwned b.vi c b.saveSlot s = true →
    s.slates.find b.slot = some sl → k < 8192 → (∀ t, (s.seq k).wait ≠ .batch t) →
    ∃ t x c1, exec (.contextSave k) s = .next t ∧ (t.seq k).bound = none ∧ (t.seq k).n.claim = 0 ∧ (t.seq k).preempt = none ∧
      (t.seq k).linkEpoch = ((s.seq k).linkEpoch + 1) % 65536 ∧ (t.vi b.vi).ctxs.find b.cid = some c1 ∧ c1.saved = c.saved ++ [x] ∧
      x.work = b ∧ x.die = k / 2048 ∧ x.tag = none ∧ x.fails = (s.seq k).fails ∧ x.phase = (s.seq k).phase ∧
      rowOf k t = (rowOf k s).drop 1 ∧ t.stage = s.stage) ∧
  (∀ (s : State) (k : Agent) (e : CallEntry) (es : List CallEntry) (c : Ctx) (sl : Slate) (x : SavedCtx), (s.seq k).bound = none →
    rowOf k s = e :: es → e.resume = true → takesWork k s = true → (s.vi e.work.vi).ctxs.find e.work.cid = some c →
    s.slates.find e.work.slot = some sl → (c.saved.find? fun y => y.work = e.work) = some x → x.tag = none →
    let h := s.peekBytes (slotFrame c e.work.saveSlot 0) 4096
    let ctl (n : Nat) : DWord := BitVec.ofNat 64 (bitsAt h (8 * (0x200 + 8 * n)) 64)
    ∃ t c1, exec (.contextResume k) s = .next t ∧ (t.seq k).bound = some e.work ∧
      (t.seq k).pc = BitVec.ofNat 64 (bitsAt h (8 * 8) 64) &&& ~~~3 ∧
      (∀ i, 0 < i → i < 32 → (t.seq k).gRead i = BitVec.ofNat 64 (bitsAt h (8 * (0x20 + 8 * i)) 64)) ∧
      (t.seq k).pts = max (s.seq k).pts (bitsAt h (8 * 16) 64) ∧ (t.seq k).n.epc = ctl 0x21 ∧ (t.seq k).n.tvec = ctl 0x20 ∧
      (t.seq k).n.stgbase = (sl.resv.find (k / 2048)).getD 0 ∧ (t.seq k).n.priv = c.priv ∧ (t.latch k).lv = false ∧
      (t.seq k).c.vstride = ctl 5 ∧ (t.seq k).wait = .run ∧ (t.vi e.work.vi).ctxs.find e.work.cid = some c1 ∧ x ∉ c1.saved ∧
      t.mem = s.mem ∧ t.stage = s.stage) ∧
  (∀ (s : State) (k : Agent), (s.seq k).bound.isSome = true → (s.seq k).strip = none →
    exec (.preemptRequest k) s = .next ((s.upd k fun q => { q with preempt := some (q.preempt.getD s.cycle) }).post (.contextSave k))) ∧
  (∀ (s : State) (k : Agent) (st : Strip), (s.seq k).forceDue s = true → (s.seq k).strip = some st → (s.seq k).commit = none →
    ∃ t, exec (.forcedPreempt k) s = .next t ∧ (t.seq k).strip = none ∧ (t.seq k).pc = st.ckpt.pc ∧ (t.seq k).g = st.ckpt.g ∧
      (t.seq k).p = st.ckpt.p ∧ (t.seq k).c = st.ckpt.c ∧ (t.seq k).forced = true ∧ t.due.getLast? = some (.contextSave k) ∧
      t.mem = s.mem ∧ t.stage = s.stage) ∧
  ∀ (s : State) (k h : Agent) (i : Inval), (s.seq k).inval = some i → h ∈ i.holders → i.since + s.mgmt.tlbpinwait ≤ s.cycle →
    (s.seq h).bound.isSome = true → (s.seq h).pinsNamed i = true →
    exec (.tlbpinwaitExpiry k h) s = .next ((s.upd h fun q =>
      { q with preempt := some (q.preempt.getD s.cycle), pinLate := true }).post (.forcedPreempt h))) ∧
  ((∀ (s : State) (d : Nat), d < 4 → (s.die d).fenced = false → ∃ t, exec (.heartbeatMiss d) s = .next t ∧
    (t.die d).fenced = true ∧ t.mgmt.elect = true ∧
    (∀ m, (∀ j, j < 4 → ((s.die j).fenced = false ∧ j ≠ d → m ≤ j)) → m < 4 → m ≠ d →
      (s.die m).fenced = false → t.mgmt.master = m) ∧
    (∀ j, j ≠ d → (t.die j).fenced = (s.die j).fenced) ∧ t.due.getLast? = some (.eventPost .pf 0x07 0 d 0) ∧
    (∀ k, k / 2048 = d → (s.seq k).bound.isSome = true → (t.seq k).preempt.isSome = true) ∧
    t.stage = s.stage) ∧
  ∀ (s : State) (d : Nat), (s.die d).fenced = true → (s.die d).reissued = false →
    (∀ e ∈ s.seqs, e.1 / 2048 = d → e.2.bound = none) →
    ∃ t, exec (.fencedDieReissue d) s = .next t ∧ (t.die d).reissued = true ∧ (∀ j, j ≠ d → t.die j = s.die j) ∧
      (t.mgmt.elect = false ↔ ∀ j, j < 4 → j ≠ d → (s.die j).fenced = true → (s.die j).reissued = true) ∧ t.seqs = s.seqs ∧ t.mem = s.mem ∧ t.stage = s.stage ∧
      ∀ n sl, s.slates.find n = some sl → ∃ sl1, t.slates.find n = some sl1 ∧ sl1.doneIdx = sl.doneIdx ∧ sl1.doneCount = sl.doneCount ∧
        ∀ p m, sl1.moved.find p = some m → sl.moved.find p = some m ∨ m ∈ liveDies s ∨ liveDies s = [])

/-- 03 R59 to R62; 05 R106 to R112, R115; 06 R140; 01 R15: a slate is fetched, admitted, given Stage bytes that are zero and
overlap nothing, and when all its indices have ended its number raises QDONE, which is written as the completion word. -/
def Obligations.SlateLife : Prop :=
  (∀ (s : State) (vi q : Nat) (l : Leaf) (h0 h1 : HomeLine Nat), let Q := (s.vi vi).queues.getD q {}
    let va := Q.qhead.toNat
    let x := l.pa va / 128
    let b := h0.data.toNat + 2 ^ 1024 * h1.data.toNat
    MayFetch (s.vi vi) Q → Q.linkOf = none → va % 256 = 0 → DirectorCached s vi Q.ctx (.req (.slateFetch vi q)) va .read l →
    HomeReady s x h0 → HomeReady s (x + 1) h1 → Storable s (max h0.wts h1.wts) → l.pa va % 256 = 0 →
    (slateOk b q Q.next (((s.vi vi).ctxs.find Q.ctx).elim 0 Ctx.maxTiles) = true →
      ∃ t f, exec (.slateFetch vi q) s = .next t ∧ f.n = Q.next ∧ f.addr = va ∧ f.bytes = b ∧ max h0.wts h1.wts ≤ f.t ∧
        ((t.vi vi).queues.getD q {}).ready = Q.ready ++ [f] ∧ ((t.vi vi).queues.getD q {}).inflight = Q.inflight ++ [Q.next] ∧
        ((t.vi vi).queues.getD q {}).next = Q.next + 1 ∧ ((t.vi vi).queues.getD q {}).halt = false ∧
        .slateAdmit vi q ∈ t.due ∧ .slateFetch vi q ∈ t.due ∧ t.mem = s.mem ∧ t.stage = s.stage) ∧
    (slateOk b q Q.next (((s.vi vi).ctxs.find Q.ctx).elim 0 Ctx.maxTiles) = false →
      ∃ t, exec (.slateFetch vi q) s = .next t ∧ ((t.vi vi).queues.getD q {}).halt = true ∧
        ((t.vi vi).queues.getD q {}).err = 3 ∧ t.mem = s.mem)) ∧
  (∀ (s : State) (vi q slot : Nat) (f : Fetched) (rest : List Fetched), let Q := (s.vi vi).queues.getD q {}
    let own := slateField f.bytes 56 8
    let guess := if own = 0 then Q.est.toNat else own
    Q.ready = f :: rest → DepsMet s vi f.bytes → (bitsAt (slateField f.bytes 11 1) 1 1 = 1 → f.n ≤ Q.qdone + 1) →
    (∃ c, (s.vi vi).ctxs.find Q.ctx = some c ∧ c.lost = false ∧ c.dying = false) → s.slates.length < 1024 →
    (s.slates.filter fun e => e.2.vi = vi).length < 64 → s.mgmt.elect = false → EnergyAdmits s (guess + Q.excess) → liveDies s ≠ [] →
    slot < 1024 → s.slates.find slot = none → (∀ n, n < slot → (s.slates.find n).isSome = true) →
    ∃ t sl, exec (.slateAdmit vi q) s = .next t ∧ t.slates.find slot = some sl ∧ sl.vi = vi ∧ sl.cid = Q.ctx ∧ sl.q = q ∧
      sl.number = f.n ∧ sl.pc.toNat = slateField f.bytes 16 8 ∧ sl.arg.toNat = slateField f.bytes 24 8 ∧
      sl.stackBase = slateField f.bytes 32 8 ∧ sl.stackSize = slateField f.bytes 40 4 ∧ sl.nvlog = slateField f.bytes 44 1 ∧
      sl.tiles = slateField f.bytes 45 1 ∧ sl.stage = slateField f.bytes 48 4 ∧ sl.energy = guess ∧ f.t ≤ sl.admitT ∧
      sl.levels = slateLevels f.bytes ∧ sl.dies = liveDies s ∧ sl.doneCount = 0 ∧ sl.commands = 0 ∧ sl.abandoned = false ∧
      (∀ n, n ≠ slot → t.slates.find n = s.slates.find n) ∧ t.committed = s.committed + (guess + Q.excess) ∧
      ((t.vi vi).queues.getD q {}).ready = rest ∧ ((t.vi vi).queues.getD q {}).excess = 0 ∧ t.mem = s.mem ∧ t.stage = s.stage) ∧
  (∀ (s : State) (die slot : Nat) (sl : Slate), s.slates.find slot = some sl → sl.resv.find die = none → sl.abandoned = false →
    (s.die die).fenced = false → die < 4 → die ∈ sl.homeDies → (∃ b, StageRoom s die sl.stage b) →
    ∃ t b, exec (.stageReserve die slot) s = .next t ∧ StageRoom s die sl.stage b ∧
      t.slates.find slot = some { sl with resv := sl.resv.set die b } ∧ t.mem = s.mem ∧
      (∀ a, stageAt die b ≤ a → a < stageAt die b + sl.stage → t.stage.byte a = 0) ∧
      ∀ a, a < stageAt die b ∨ stageAt die b + sl.stage ≤ a → t.stage.byte a = s.stage.byte a) ∧
  (∀ (s : State) (slot : Nat) (sl : Slate), slot < 1024 → s.slates.find slot = some sl → sl.abandoned = false →
    product sl.extents ≤ sl.doneCount → sl.commands = 0 →
    let Q := (s.vi sl.vi).queues.getD sl.q {}
    ∃ t, exec (.slateComplete slot) s = .next t ∧ t.slates.find slot = none ∧ (∀ n, n ≠ slot → t.slates.find n = s.slates.find n) ∧
      (t.outbox = s.outbox ++ if bitsAt sl.flags 0 1 = 1 then [OutMsg.msix sl.vi 1] else []) ∧ t.mem = s.mem ∧
      (sl.number = Q.qdone + 1 → sl.number + 1 ∉ Q.doneSet →
        ((t.vi sl.vi).queues.getD sl.q {}).qdone = sl.number ∧ .slateComplete (1024 + 64 * sl.vi + sl.q) ∈ t.due) ∧
      (sl.number ≠ Q.qdone + 1 → Q.qdone + 1 ∉ Q.doneSet → ((t.vi sl.vi).queues.getD sl.q {}).qdone = Q.qdone)) ∧
  ∀ (s : State) (vi q : Nat) (l : Leaf) (h : HomeLine Nat), q < 64 → let Q := (s.vi vi).queues.getD q {}
    let va := Q.doneAddr.toNat
    let x := l.pa va / 128
    let o := l.pa va % 128
    Q.wordWait = false → Q.wordHalt = false → Q.hostFrom = [] → ((s.vi vi).ctxs.find Q.ctx).isSome = true → va % 8 = 0 → l.pa va % 8 = 0 →
    DirectorCached s vi Q.ctx (.req (.slateComplete (1024 + 64 * vi + q))) va .write l → HomeReady s x h →
    Storable s (max (doneTimes vi q Q.qdone s) (h.rts + 1)) →
    ∃ t h1, exec (.slateComplete (1024 + 64 * vi + q)) s = .next t ∧ t.home x = some h1 ∧ lineField h1.data o 8 = Q.qdone % 2 ^ 64 ∧
      (∀ j, j < 128 → j < o ∨ o + 8 ≤ j → lineByte h1.data j = lineByte h.data j) ∧ h.rts < h1.wts ∧ t.mem = s.mem ∧ t.stage = s.stage

/-- 03 R64 to R66, R477; 04 R102, R103: a batch enters an enabled ring with room under the next tag, its sequencer waits for the
answer, and FQTAIL rises; an event does too; the physical function's event records are listed (log 37). -/
def Obligations.FaultRings : Prop :=
  (∀ (s : State) (vi k cid pc number : Nat) (e : FaultEntry) (w : Bool), let r := (s.vi vi).ring
    (s.vi vi).en = true → Ring.Takes r → r.queue = [{ post := .batch (.seq k) cid pc number [e], waited := w }] → (s.seq k).wait = .posting → (s.seq k).strip = none →
    s.Canonical → SlotPlain s vi r → r.nextTag ≠ 0 → r.nextTag < 2 ^ 32 → (∀ b ∈ r.batches, b.tag ≠ r.nextTag) → e.page % 4096 = 0 → e.page < 2 ^ 57 →
    e.access < 4 → e.cause < 32 → e.first < 65536 → k < 8192 → pc < 2 ^ 64 → number < 2 ^ 64 →
    ∃ t, exec (.faultBatchPost vi) s = .next t ∧ (t.seq k).wait = .batch r.nextTag ∧ (t.seq k).pc = (s.seq k).pc ∧
      (t.vi vi).ring.tail = r.tail + 1 ∧ (t.vi vi).ring.head = r.head ∧ (t.vi vi).ring.queue = [] ∧
      (t.vi vi).ring.batches = r.batches ++
        [{ tag := r.nextTag, src := .seq k, cid := cid, rolled := false, pages := [e.page / 4096], uncached := if e.cause = 7 then [] else [e.page / 4096] }] ∧
      (r.head = r.tail → t.outbox = s.outbox ++ [.msix vi 0]) ∧ (r.head ≠ r.tail → t.outbox = s.outbox) ∧
      t.mem.read (ringSlot r) 1 = 1 ∧ t.mem.read (ringSlot r + 1) 1 = 2 ∧ t.mem.read (ringSlot r + 6) 2 = 1 ∧
      t.mem.read (ringSlot r + 8) 1 = cid % 256 ∧ t.mem.read (ringSlot r + 12) 4 = r.nextTag ∧
      t.mem.read (ringSlot r + 16) 8 = s.cycle % 2 ^ 64 ∧ t.mem.read (ringSlot r + 32) 8 = pc ∧ t.mem.read (ringSlot r + 40) 8 = number ∧
      t.mem.read (ringSlot r + 64) 8 = e.page + 32 * e.access + e.cause ∧ t.mem.read (ringSlot r + 72) 2 = e.first ∧
      t.stage = s.stage ∧ ∀ a, a < ringSlot r ∨ ringSlot r + 512 ≤ a → t.mem.byte a = s.mem.byte a) ∧
  (∀ (s : State) (vi kind cid detail pc : Nat), let r := (s.vi vi).ring
    (s.vi vi).en = true → Ring.Takes r → r.queue = [] → s.Canonical → SlotPlain s vi r → kind < 256 → detail < 2 ^ 64 →
    ∃ t, exec (.eventPost (.vi vi) kind cid detail pc) s = .next t ∧ (t.vi vi).ring.tail = r.tail + 1 ∧ (t.vi vi).ring.queue = [] ∧
      t.seqs = s.seqs ∧ t.mem.read (ringSlot r) 1 = kind ∧ t.mem.read (ringSlot r + 8) 1 = cid % 256 ∧
      t.mem.read (ringSlot r + 16) 8 = s.cycle % 2 ^ 64 ∧ t.mem.read (ringSlot r + 24) 8 = detail ∧
      t.stage = s.stage ∧ ∀ a, a < ringSlot r ∨ ringSlot r + 512 ≤ a → t.mem.byte a = s.mem.byte a) ∧
  ∀ (s : State) (kind cid detail pc : Nat), exec (.eventPost .pf kind cid detail pc) s =
    .next { s with mgmt := { s.mgmt with events := s.mgmt.events ++ [kind + cid % 256 * 2 ^ 64 + s.cycle % 2 ^ 64 * 2 ^ 128 +
      detail % 2 ^ 64 * 2 ^ 192 + pc % 2 ^ 64 * 2 ^ 256] } }

/-- 07 R154 to R159, R163, R167, R169, R174: what a home answers to a read, a renewal, a request for ownership, a validation, an
owner's write-back, release or miss, and a publish; a message of a past generation or version is dropped and counted. -/
def Obligations.HomesAnswer : Prop :=
  (∀ (s : State) (k gen x pts lease : Nat) (h : HomeLine Nat), (s.seq k).gen = gen → HomeReady s x h →
    let T := max pts h.wts
    Storable s (T + lease) →
    (∃ t h1, exec (.rds k gen x pts lease) s = .next t ∧ t.home x = some h1 ∧ h1.data = h.data ∧ h1.own = none ∧
      h1.wts = h.wts ∧ h1.rts = max h.rts (T + lease) ∧
      .data k x h.form h.wts (T + lease) ∈ t.due ∧ t.mem = s.mem ∧ t.copies = s.copies ∧ t.seqs = s.seqs) ∧
    ∀ wts epoch, ∃ t h1, exec (.rnw k gen x pts lease wts epoch) s = .next t ∧ t.home x = some h1 ∧ h1.data = h.data ∧
      h1.wts = h.wts ∧ h1.rts = max h.rts (T + lease) ∧ t.mem = s.mem ∧ t.copies = s.copies ∧
      (h.wts = wts ∧ epoch = s.rebases → .rnok k x (T + lease) ∈ t.due ∧
        (t.die (homeDie x)).renewd = (s.die (homeDie x)).renewd + 1) ∧
      (¬(h.wts = wts ∧ epoch = s.rebases) → .data k x h.form h.wts (T + lease) ∈ t.due ∧
        (t.die (homeDie x)).renewf = (s.die (homeDie x)).renewf + 1)) ∧
  (∀ (s : State) (k gen x pts : Nat) (h : HomeLine Nat) (r : Bool), (s.seq k).gen = gen →
    let i := if r then Instr.rdr k gen x pts else Instr.rdo k gen x pts
    let d := if r then Due.rdr k gen x pts else Due.rdo k gen x pts
    (HomeReady s x h → ∃ t h1, exec i s = .next t ∧ t.home x = some h1 ∧ h1.data = h.data ∧ h1.own = some (l1Of (k / 32) x) ∧
      h1.ver = (h.ver + 1) % 256 ∧ h1.omode = r ∧
      .grant k x h.form h.wts h.rts ((h.ver + 1) % 256) r ∈ t.due ∧ t.mem = s.mem ∧ t.copies = s.copies) ∧
    (∀ o, s.home x = some h → h.own = some o → o ≠ l1Of (k / 32) x → h.recalled = false → s.hostBias x = false →
      s.flipping.find (x / 32) = none → roomQueue x s = [] → (∀ w ∈ s.devWrites, w.1 ≠ x) →
      ∃ t, exec i s = .next t ∧ .rcl o x h.ver .i ∈ t.due ∧ .req d ∈ t.waiting.getD x [])) ∧
  (∀ (s : State) (k gen x tc wts epoch : Nat) (h : HomeLine Nat), (s.seq k).gen = gen → HomeReady s x h →
    (h.wts = wts ∧ epoch = s.rebases → Storable s tc → ∃ t h1, exec (.val k gen x tc wts epoch) s = .next t ∧ .vok k x ∈ t.due ∧
      t.home x = some h1 ∧ h1.data = h.data ∧ h1.wts = h.wts ∧ h1.rts = max h.rts tc ∧ t.mem = s.mem ∧ t.seqs = s.seqs) ∧
    (¬(h.wts = wts ∧ epoch = s.rebases) → ∃ t, exec (.val k gen x tc wts epoch) s = .next t ∧ .vfail k x ∈ t.due ∧
      t.homes = s.homes ∧ t.mem = s.mem ∧ t.seqs = s.seqs)) ∧
  (∀ (s : State) (o : Owner) (gen x ver wts rts : Nat) (bytes : Line) (mask : LineMask) (h : HomeLine Nat), OwnedBy s x h o gen ver →
    Storable s wts → Storable s rts →
    (TakesWrite s x 128 h → ∃ t h1, exec (.wb o gen x ver wts rts { bytes := bytes, poison := false } mask) s = .next t ∧ t.home x = some h1 ∧ h1.own = none ∧
      h1.data = mergeLine h.data bytes mask ∧ h1.wts = max h.wts wts ∧ h1.rts = max h.rts rts ∧
      h1.dirty = true ∧ h1.last = some o ∧ h1.ver = ver ∧ t.mem = s.mem ∧ t.stage = s.stage) ∧
    (∃ t h1, exec (.wb o gen x ver wts rts { bytes := bytes, poison := true } mask) s = .next t ∧ t.home x = some h1 ∧ h1.own = none ∧ h1.code = 15 ∧
      h1.dirty = true ∧ h1.wts = max h.wts wts ∧ h1.rts = max h.rts rts ∧ t.mem = s.mem ∧ t.stage = s.stage) ∧
    (∃ t h1, exec (.rel o gen x ver wts rts) s = .next t ∧ t.home x = some h1 ∧ h1.own = none ∧ h1.data = h.data ∧
      h1.wts = max h.wts wts ∧ h1.rts = max h.rts rts ∧ h1.last = some o ∧ t.mem = s.mem ∧ t.stage = s.stage) ∧
    (∃ t h1, exec (.nh o gen x ver) s = .next t ∧ t.home x = some h1 ∧ h1.own = none ∧ h1.data = h.data ∧
      h1.wts = h.wts ∧ h1.rts = h.rts ∧ t.mem = s.mem ∧ t.stage = s.stage)) ∧
  (∀ (s : State) (k gen x tp i : Nat) (bytes : Line) (mask : LineMask) (h : HomeLine Nat), (s.seq k).gen = gen →
    (HomeReady s x h → ∃ t h1, exec (.ppr k gen x) s = .next t ∧ t.home x = some h1 ∧ h1.data = h.data ∧
      h1.pubs = [{ id := 0, k := k, tp := none, mask := 0, lapped := [] }] ∧ t.due = s.due ++ [.phaseReserveReply k x h.rts] ∧ t.mem = s.mem) ∧
    (s.home x = some h → h.pubs = [{ id := i, k := k, tp := none, mask := 0, lapped := [] }] → TakesWrite s x (s.seq k).vi h →
      Storable s (max h.wts tp) →
      ∃ t h1, exec (.ppa k gen x tp bytes mask) s = .next t ∧ t.home x = some h1 ∧ h1.data = mergeLine h.data bytes mask ∧
        h1.wts = max h.wts tp ∧ h1.rts = max h.rts h1.wts ∧ h1.pubs = [] ∧ t.mem = s.mem ∧ t.stage = s.stage ∧
        ∀ n y, (s.seq k).wait = .publish → (s.seq k).note = some n → n.lines = [(x, y)] →
          (t.seq k).wait = .run ∧ (t.seq k).note = some { n with lines := [], step := 3 })) ∧
  ∀ (s : State) (k gen x a b c : Nat) (o : Owner) (bytes : Line) (mask : LineMask) (p : Bool), roomQueue x s = [] →
    ((s.seq k).gen ≠ gen → ∀ i ∈ [Instr.rds k gen x a b, .rnw k gen x a b c a, .rdo k gen x a, .rdr k gen x a, .val k gen x a b c,
      .ppr k gen x, .ppa k gen x a bytes mask], exec i s = dropped s x) ∧
    ((∀ h, s.home x = some h → h.ver ≠ c ∨ gen ≠ ownerGen o s) →
      ∀ i ∈ [Instr.wb o gen x c a b { bytes := bytes, poison := p } mask, .rel o gen x c a b, .nh o gen x c], exec i s = dropped s x)

/-- 06 R132 to R134; 07 R155 to R158, R160, R161, R163, R166 to R169: what reaches a slice, the progress rules, the rebase and an
agent's death. -/
def Obligations.SlicesAnswer : Prop :=
  (∀ (s : State) (k x wts rts ver : Nat) (f : Form) (r : Bool), let c := k / 32
    let p : Copy Nat := { data := (expandForm f).getD 0, wts := wts, rts := rts, poison := (expandForm f).isNone }
    s.tbase ≤ wts → s.tbase ≤ rts → Storable s wts → Storable s rts → sliceUse (sliceOf c x) s + 128 ≤ 262144 →
    ((∀ y, s.copy c x = some y → y.own = false) → ∃ t p1, exec (.data k x f.code f.toSectors wts rts) s = .next t ∧
      t.copy c x = some p1 ∧ { p1 with gen := p.gen } = p ∧ t.homes = s.homes ∧ GoesOn s t k) ∧
    (∀ y, s.copy c x = some y → ∃ t p1, exec (.rnok k x rts) s = .next t ∧ t.copy c x = some p1 ∧
      { p1 with gen := y.gen } = { y with rts := max y.rts rts } ∧ t.homes = s.homes ∧ GoesOn s t k) ∧
    (s.copy c x = none → ∃ t p1, exec (.grant k x f.code f.toSectors wts rts ver r) s = .next t ∧ t.homes = s.homes ∧ GoesOn s t k ∧
      t.copy c x = some p1 ∧ { p1 with gen := p.gen } = { p with own := true, forRead := r, ver := ver })) ∧
  (∀ (s : State) (k x : Nat) (c : Commit), (s.seq k).commit = some c →
    let left := c.pending.filter (· ≠ x)
    let after (ok : Bool) : State := s.upd k fun q => { q with commit := some { c with pending := left, failed := c.failed || !ok } }
    exec (.vok k x) s = .next (if left = [] then (after true).post (.stripCommit k) else after true) ∧
    exec (.vfail k x) s = .next (if left = [] then (after false).post (.stripCommit k) else after false)) ∧
  (∀ (s : State) (c x ver : Nat) (m : RecallMode) (p : Copy Nat), let o := l1Of c x
    let sl := sliceOf c x
    s.copy c x = some p →
    (p.own = true → p.ver = ver → (∀ e ∈ s.seqs, e.1 / 32 = c → x ∉ e.2.holds) → ∃ t, exec (.rcl o x ver m) s = .next t ∧
      (m = .i → t.copy c x = none) ∧ t.mem = s.mem ∧ t.homes = s.homes ∧
      (m = .s → ∃ p1, t.copy c x = some p1 ∧ { p1 with gen := p.gen } = { p with own := false, forRead := false, mask := 0 }) ∧
      t.due = s.due ++ [if p.mask = 0 then .rel o (ownerGen (.l1 sl) s) x ver p.wts p.rts
        else .wb o (ownerGen (.l1 sl) s) x ver p.wts p.rts p.data p.mask p.poison]) ∧
    (p.own = false ∨ p.ver ≠ ver → exec (.rcl o x ver m) s = .next { s with due := s.due ++ [.nh o (ownerGen (.l1 sl) s) x ver] })) ∧
  (∀ (s : State) (k n : Nat), n = (s.cycle - (s.seq k).lastStore) / 1024 → n ≠ 0 → exec (.idleRuleTick k) s =
    .next (s.upd k fun q => { q with pts := q.pts + n, lastStore := q.lastStore + 1024 * n })) ∧
  (∀ (s : State) (k : Nat) (p : Copy Nat), 64 ≤ (s.seq k).loadRun → s.copy (k / 32) (s.seq k).loadLine = some p →
    exec (.repeatRule k) s =
      .next (s.upd k fun q => { q with pts := max q.pts (p.rts + 1), loadRun := 0 })) ∧
  (∀ (s : State), ∃ t, exec .rebase s = .next t ∧ t.tbase = s.tbase + 2 ^ 22 ∧ t.rebases = s.rebases + 1 ∧
    (∀ x h, s.home x = some h → ∃ h1, t.home x = some h1 ∧ h1.wts = max h.wts t.tbase ∧ h1.rts = max h.rts t.tbase ∧
      h1.data = h.data ∧ h1.own = h.own ∧ h1.ver = h.ver) ∧ (∀ x, t.mts x = max (s.mts x) t.tbase) ∧
    (∀ e ∈ t.copies, e.2.own = true) ∧ (∀ c x p, s.copy c x = some p → p.own = true → ∃ p1, t.copy c x = some p1 ∧
      p1.wts = max p.wts t.tbase ∧ p1.rts = max p.rts t.tbase ∧ p1.data = p.data ∧ p1.mask = p.mask) ∧
    (∀ k, (s.seqs.find k).isSome = true → (t.seq k).pts = max (s.seq k).pts t.tbase) ∧
    (∀ a, bankTime a t = max (bankTime a s) t.tbase) ∧ t.mem = s.mem ∧ t.stage = s.stage) ∧
  ∀ (s : State) (sl x0 : Nat) (h0 : HomeLine (BitVec 24)), let o := Owner.l1 sl
    let c := sl / 4
    (x0, h0) ∈ s.homes → h0.own = some o → h0.recalled = true → (s.die (c / 64)).fencedClusters.contains c = true →
    (∀ e ∈ s.homes, s.homes.find e.1 = some e.2) → (∀ e ∈ s.homes, e.2.own = some o → Storable s (max (e.2.load s).wts (e.2.load s).rts + 1)) →
    (∀ e ∈ s.seqs, e.1 / 32 = c → e.2.bound = none) → (∀ e ∈ s.homes, ∀ p ∈ e.2.pubs, p.k / 32 ≠ c) →
    ∃ t, exec (.deadAgent o) s = .next t ∧ ownerGen o t = (ownerGen o s + 1) % 16 ∧
      (∀ k, k / 32 = c → (s.seqs.find k).isSome = true → (t.seq k).gen = ((s.seq k).gen + 1) % 16) ∧
      t.mem = s.mem ∧ (∀ e ∈ t.copies, e.1 / 2 ^ 45 ≠ sl) ∧ ∀ x h, s.home x = some h →
        (h.own = some o → ∃ h1, t.home x = some h1 ∧ h1.own = none ∧ h1.ver = (h.ver + 1) % 256 ∧
          h1.wts = max h.wts h.rts + 1 ∧ h1.rts = h1.wts ∧ h1.data = h.data ∧ h1.code = if h.omode then h.code else 15) ∧
        (h.own ≠ some o → t.home x = some h)

/-- 07 R163, R164; 11 R253: a strip's commit fixes Tc and asks for its reads to be validated; with every answer in, its stores
perform at Tc and the strip is closed; with one refused, it is replayed from its checkpoint. -/
def Obligations.StripCommits : Prop :=
  (∀ (s : State) (k : Nat) (st : Strip), (s.seq k).strip = some st → (s.seq k).commit = none → st.buf = [] → st.rlx = [] →
    st.reads ≠ [] → (∀ e ∈ st.reads, ∀ p, s.copy (k / 32) e.1 = some p → p.own = false) → Storable s (s.seq k).pts →
    ∃ t c, exec (.stripCommit k) s = .next t ∧ (t.seq k).commit = some c ∧ c.tc = some (s.seq k).pts ∧
      c.pending = st.reads.map Prod.fst ∧ c.failed = false ∧ (t.seq k).strip = some st ∧ (t.seq k).wait = .commit ∧
      (∀ e ∈ st.reads, .val k (s.seq k).gen e.1 (s.seq k).pts e.2.wts e.2.epoch ∈ t.due) ∧ t.mem = s.mem ∧ t.homes = s.homes) ∧
  (∀ (s : State) (k x Tc : Nat) (st : Strip) (c : Commit) (e : BufEntry) (p : Copy Nat), (s.seq k).strip = some st →
    (s.seq k).commit = some c → c.tc = some Tc → c.pending = [] → c.failed = false → c.stored = false → c.slots = [] →
    st.buf = [e] → st.phbuf = [] → st.sst = [] → st.rlx = [] → e.loc = .line x → isMemory (128 * x) = true →
    s.copy (k / 32) x = some p → p.own = true → p.forRead = false → p.poison = false → (s.seq k).holds = [x] →
    s.tbase ≤ Tc → Storable s Tc →
    ∃ t p1, exec (.stripCommit k) s = .next t ∧ (t.seq k).strip = none ∧ (t.seq k).commit = none ∧ (t.seq k).wait = .run ∧
      (t.seq k).pts = max (s.seq k).pts Tc + (s.cycle - (s.seq k).lastStore) / 1024 ∧ (t.seq k).holds = [] ∧ (t.seq k).n.strips = (s.seq k).n.strips + 1 ∧
      (t.seq k).pc = (s.seq k).pc ∧ (t.seq k).g = (s.seq k).g ∧
      t.copy (k / 32) x = some p1 ∧ p1.data = mergeLine p.data e.bytes e.mask ∧ p1.mask = p.mask ||| e.mask ∧ p1.wts = Tc ∧
      p1.rts = Tc ∧ p1.own = true ∧ p1.ver = p.ver ∧
      t.mem = s.mem ∧ t.stage = s.stage) ∧
  ∀ (s : State) (k Tc : Nat) (st : Strip) (c : Commit), (s.seq k).strip = some st → (s.seq k).commit = some c → c.tc = some Tc →
    c.pending = [] → c.failed = true → c.slots = [] →
    ∃ t, exec (.stripCommit k) s = .next t ∧ (t.seq k).strip = none ∧ (t.seq k).pc = st.ckpt.pc ∧ (t.seq k).g = st.ckpt.g ∧
      (t.seq k).p = st.ckpt.p ∧ (t.seq k).loops = st.ckpt.loops ∧ (t.seq k).c = st.ckpt.c ∧ (t.seq k).fails = (s.seq k).fails + 1 ∧
      (t.seq k).n = { (s.seq k).n with sreplay := (s.seq k).n.sreplay + 1 } ∧ (t.seq k).wait = .run ∧ t.mem = s.mem ∧ t.stage = s.stage

/-- 19 R420, R436 to R441; 05 R118: ECMD gives a valid command the next number of its chain, or appends a slate; ECPOLL, ECFENCE,
ECSTAT and PRCHK report, ECABORT stops, SLEEPTO waits and wakes. -/
def Obligations.ChainInstructions : Prop :=
  (∀ (s : State) (d a : BitVec 5) (e : BitVec 1) (f : BitVec 3) (l : Leaf) (p : Copy Nat),
    let E := (s.me.gRead a.toNat).toNat
    let ent := lineField p.data (l.pa E % 128) 64
    let c := chainOf s f.toNat
    let n := (s.chain c).last + 1
    E % 64 = 0 → l.pa E % 64 = 0 → s.me.Ready [.g d.toNat, .g a.toNat] → s.me.Closed → Calm s.me → LineHeld s E .read l p →
    (p.own = true ∨ max s.me.pts p.wts ≤ p.rts) → Storable s (max s.me.pts p.wts) →
    validEntry (dieOfSeq s.cur) f.toNat ent = true →
    (f.toNat ≤ 4 → (f = 0 → entryField ent 8 1 = 2 → s.me.n.claim.getLsbD (entryField ent 11 1 % 8) = true) →
      chainFull c s = false → s.me.Writable d.toNat (BitVec.ofNat 64 n) → n < 2 ^ 64 →
      ∃ t x, exec (.ecmd d a e f) s = .next t ∧ (t.chain c).cmds = (s.chain c).cmds ++ [x] ∧ (t.chain c).last = n ∧ x.n = n ∧
        x.va = E ∧ x.entry = ent ∧ x.k = s.cur ∧ x.priv = s.me.n.priv ∧ x.fctl = s.me.c.fctl ∧ s.me.pts ≤ x.clock ∧ x.status = none ∧
        t.me.full.g = (coming (.g d.toNat) n s.me).full.g ∧ t.me.arrivals = (coming (.g d.toNat) n s.me).arrivals ∧
        t.me.n.promise = BitVec.ofNat 64 (max s.cycle (s.chain c).lastPromise + Config.promiseCost f.toNat ent) ∧
        t.me.pc = (loopStep s.me.pc s.me.loops).2 ∧ t.me.g = s.me.g ∧ t.mem = s.mem ∧ t.stage = s.stage ∧
        ((f = 0 ∧ entryField ent 8 1 = 2) → t.me.full.a.getLsbD (entryField ent 11 1 % 8) = false) ∧
        ∀ b sl, s.me.bound = some b → s.slates.find b.slot = some sl → t.slates.find b.slot = some { sl with commands := sl.commands + 1 }) ∧
    (f = 5 →
      let q := entryField ent 10 1
      let Q := (s.vi s.me.vi).queues.getD q {}
      let m := Q.qtail.toNat + 1
      Q.ctx ≠ 0 → Q.ctx = s.me.cid → Q.halt = false → Q.qtail.toNat ≤ Q.qdone → m < 2 ^ 64 → s.me.Writable d.toNat (BitVec.ofNat 64 m) →
      ∃ t, exec (.ecmd d a e f) s = .next t ∧ ((t.vi s.me.vi).queues.getD q {}).qtail.toNat = m ∧
        ((t.vi s.me.vi).queues.getD q {}).qhead.toNat = entryField ent 16 8 ∧ (.slateFetch s.me.vi q) ∈ t.due ∧
        t.me.full = (coming (.g d.toNat) m s.me).full ∧ t.me.arrivals = (coming (.g d.toNat) m s.me).arrivals ∧
        t.me.n.promise = BitVec.ofNat 64 s.cycle ∧ t.mem = s.mem)) ∧
  (∀ (s : State) (d : BitVec 5) (f : BitVec 3), let ch := s.chain (chainOf s f.toNat)
    let stat := ch.last % 2 ^ 32 * 2 ^ 32 + ch.cmds.length % 2 ^ 16 * 2 ^ 16 + ch.doneStatus % 256 * 2 ^ 8
    s.me.Ready [.g d.toNat] → s.Fresh →
    (s.me.Writable d.toNat (BitVec.ofNat 64 ch.done) → exec (.ecpoll d f) s =
      .next (s.done (fun q => observing s f.toNat (q.gSet d.toNat (BitVec.ofNat 64 ch.done))) .next)) ∧
    (s.me.Writable d.toNat (BitVec.ofNat 64 stat) → exec (.ecstat d f) s =
      .next (s.done (fun q => observing s f.toNat (q.gSet d.toNat (BitVec.ofNat 64 stat))) .next)) ∧
    (s.me.Closed → (ch.cmds ≠ [] → exec (.ecfence d (f.setWidth 4)) s = .next (s.waitFor s.cur (.chain (some f.toNat)))) ∧
      (ch.cmds = [] → s.me.Writable d.toNat (BitVec.ofNat 64 ch.done) → exec (.ecfence d (f.setWidth 4)) s =
        .next (s.done (fun q => observing s f.toNat (q.gSet d.toNat (BitVec.ofNat 64 ch.done))) .next)) ∧
      ((∀ j, j ≤ 4 → (s.chain (chainOf s j)).cmds = []) → s.me.Writable d.toNat 0 → exec (.ecfence d 8) s =
        .next (s.done (fun q => [0, 1, 2, 3, 4].foldl (fun q j => observing s j q) (q.gSet d.toNat 0)) .next)))) ∧
  (∀ (s : State) (d a : BitVec 5) (e : BitVec 1) (f : BitVec 3), let ch := s.chain (chainOf s f.toNat)
    let n := (s.me.gRead a.toNat).toNat
    s.me.Ready [.g d.toNat, .g a.toNat] → s.me.Closed → s.Fresh →
    (s.me.note = none → (∀ x ∈ ch.cmds, x.n < n ∧ x.stop = false) → s.me.Writable d.toNat 0 → ∃ t, exec (.ecabort d a e f) s = .next t ∧
      t.me.g = (s.me.gSet d.toNat 0).g ∧ (t.chain (chainOf s f.toNat)).cmds = ch.cmds ∧ t.me.pc = (loopStep s.me.pc s.me.loops).2 ∧
      t.mem = s.mem) ∧
    (s.me.note = none → (∀ x ∈ ch.cmds, x.waiting = none) → (∃ x ∈ ch.cmds, stopsAt n x = true) →
      s.me.Writable d.toNat (BitVec.ofNat 64 (ch.cmds.filter (stopsAt n)).length) → ∃ t w, exec (.ecabort d a e f) s = .next t ∧
      t.me.wait = .chain (some f.toNat) ∧ t.me.pc = s.me.pc ∧ t.me.note = some w ∧
      w.value = some (BitVec.ofNat 64 (ch.cmds.filter (stopsAt n)).length) ∧
      (t.chain (chainOf s f.toNat)).cmds = ch.cmds.map fun x => if stopsAt n x then { x with stop := true } else x) ∧
    ∀ (w : Note) (v : DWord), s.me.note = some w → w.value = some v → (∀ x ∈ ch.cmds, n ≤ x.n → x.stop = false) → s.me.Writable d.toNat v →
      exec (.ecabort d a e f) s = .next (s.done (fun q => observing s f.toNat (q.gSet d.toNat v)) .next)) ∧
  (∀ (s : State) (d a : BitVec 5) (e : BitVec 1) (f : BitVec 3), let ch := s.chain (chainOf s f.toNat)
    s.me.Ready [.g d.toNat, .g a.toNat] → s.Fresh →
    (∀ n, n = (s.me.gRead a.toNat).toNat → n ≠ 0 → n ≤ ch.last →
      (n ≤ ch.done → s.me.Writable d.toNat 0 →
        exec (.prchk d a e f) s = .next (s.done (fun q => observing s f.toNat (q.gSet d.toNat 0)) .next)) ∧
      ∀ x, ch.done < n → (ch.cmds.find? fun x => x.n = n) = some x →
        let v : DWord := if s.cycle ≤ x.promise then 1 else 2
        s.me.Writable d.toNat v → exec (.prchk d a e f) s = .next (s.done (fun q => q.gSet d.toNat v) .next)) ∧
    (s.me.Closed →
      let n := (s.me.gRead d.toNat).toNat
      let u := (s.me.gRead a.toNat).toNat
      n ≠ 0 → n ≤ ch.last →
      (n ≤ ch.done → exec (.sleepto d a e f) s = .next (s.done (observing s f.toNat) .next)) ∧
      (ch.done < n → s.cycle < u → exec (.sleepto d a e f) s = .next (s.waitFor s.cur (.sleepto f.toNat n u))) ∧
      (ch.done < n → u ≤ s.cycle → Handled s.me → exec (.sleepto d a e f) s = .next (trapped s 0x0D n)))) ∧
  ∀ (s : State) (k eng n u : Nat), (s.seq k).wait = .sleepto eng n u →
    exec (.sleeptoWake k) s = .next (s.upd k fun q => { q with wait := .run })

/-- 06 R145, R146; 19 R428 to R435: a segment's line is taken and written with what the command's operation gives for it, and no
other byte; a command whose stream is at its end goes to its record with status 0. -/
def Obligations.EngineStreams : Prop :=
  (∀ (s : State) (c : ChainId) (x : Cmd) (n d : Nat) (l : Leaf) (h : HomeLine Nat), let y := l.pa d / 128
    s.headCmd c = some x → x.phase = .segment → c.eng = 0 → x.op = 1 → x.stop = false → x.front = [] → x.owned = [] → OneLine c x n d (x.field 16 8) →
    EngPinned s c x d .write l → HomeReady s y h → s.engCopy c.die c.eng y = none →
    ∃ t x1 h1 p1, exec (.engineSegmentIssue c) s = .next t ∧ t.headCmd c = some x1 ∧ x1.phase = .operate ∧ x1.segEnd = n ∧ x1.owned = [y] ∧
      x1.fault = none ∧ .dollyFill c ∈ t.due ∧ t.engCopy c.die c.eng y = some p1 ∧
      p1 = { data := h.data, wts := h.wts, rts := h.rts, gen := p1.gen, own := true, ver := (h.ver + 1) % 256 } ∧
      t.home y = some h1 ∧ h1.own = some (engOwner c) ∧ h1.data = h.data ∧ h1.ver = (h.ver + 1) % 256 ∧ t.mem = s.mem) ∧
  (∀ (s : State) (c : ChainId) (x : Cmd) (n d a : Nat) (l : Leaf) (p : Copy Nat), OneLine c x n d a → x.segEnd = n →
    EngPinned s c x d .write l → s.engCopy c.die c.eng (l.pa d / 128) = some p → p.poison = false →
    Storable s (max x.clock (max p.wts p.rts) + 17) →
    (Operating s c x 0 1 → ∃ t, exec (.dollyFill c) s = .next t ∧
      GivenBack s t c (l.pa d / 128) p n (fun j => BitVec.ofNat 8 (a / 2 ^ (8 * (j % 8))))) ∧
    ∀ (l2 : Leaf) (h : HomeLine Nat), a % 128 = 0 → EngPinned s c x a .read l2 → HomeReady s (l2.pa a / 128) h →
      s.engCopy c.die c.eng (l2.pa a / 128) = none → Storable s (max (max x.clock h.wts) (max p.wts p.rts) + 17) →
      (Operating s c x 0 0 → ∃ t, exec (.dollyCopy c) s = .next t ∧ GivenBack s t c (l.pa d / 128) p n (lineByte h.data)) ∧
      (Operating s c x 3 0 → ∃ t, exec (.collPut c) s = .next t ∧ GivenBack s t c (l.pa d / 128) p n (lineByte h.data)) ∧
      (EngPinned s c x d .read l → Operating s c x 3 1 → ∃ t, exec (.collReduce c) s = .next t ∧ GivenBack s t c (l.pa d / 128) p n fun j =>
        BitVec.ofNat 8 (reduceBytes (x.field 10 1) (x.field 11 1) (x.width 10) n (lineField p.data 0 n) (lineField h.data 0 n) / 2 ^ (8 * j)))) ∧
  (∀ (s : State) (c : ChainId) (x : Cmd) (n a o b : Nat) (l : Leaf) (h : HomeLine Nat) (sl : Slate), Operating s c x 0 2 → x.pos = 0 → x.wrote = [] →
    x.data = none → x.segEnd = n → x.field 12 4 = n → x.field 24 4 = o → x.field 16 8 = a → 0 < n → o % 128 + n ≤ 128 → a % 128 + n ≤ 128 →
    EngPinned s c x a .read l → HomeReady s (l.pa a / 128) h → s.engCopy c.die c.eng (l.pa a / 128) = none → s.slates.find x.slot = some sl →
    sl.resv.find c.die = some b → o + n ≤ sl.stage → s.Canonical → Storable s (max x.clock h.wts + 16) →
    let m := min n (32 - o % 32)
    ∃ t y, exec (.dollyCopym c) s = .next t ∧ t.mem = s.mem ∧ t.headCmd c = some y ∧ y.pos = m ∧
      (∀ j, j < m → t.stage.byte (stageAt c.die (b + o) + j) = lineByte h.data (l.pa a % 128 + j)) ∧
      ∀ j, j < stageAt c.die (b + o) ∨ stageAt c.die (b + o) + m ≤ j → t.stage.byte j = s.stage.byte j) ∧
  (∀ (s : State) (c : ChainId) (x : Cmd) (r : Run), x.owned = [] → x.run c = some r → r.total ≤ x.pos →
    (Operating s c x 0 0 → ∃ t, exec (.dollyCopy c) s = .next t ∧ EngEnded s t c 0) ∧
    (Operating s c x 0 1 → ∃ t, exec (.dollyFill c) s = .next t ∧ EngEnded s t c 0) ∧
    (Operating s c x 3 0 → ∃ t, exec (.collPut c) s = .next t ∧ EngEnded s t c 0) ∧
    (Operating s c x 3 1 → ∃ t, exec (.collReduce c) s = .next t ∧ EngEnded s t c 0) ∧
    (Operating s c x 0 2 → ∃ t y, exec (.dollyCopym c) s = .next t ∧ t.headCmd c = some y ∧ y.phase = .follow ∧ .followOnMatrix c ∈ t.due) ∧
    (∀ op, Operating s c x 2 op → x.unit < x.field 12 4 → ∃ t y, exec (.mixCombine c) s = .next t ∧ t.headCmd c = some y ∧ y.phase = .segment ∧
      y.unit = x.unit + 1 ∧ y.pos = 0 ∧ .engineSegmentIssue c ∈ t.due)) ∧
  (∀ (s : State) (c : ChainId) (x : Cmd) (op : Nat), x.owned = [] → x.field 12 4 ≤ x.unit → x.row = none → x.data = none →
    (Operating s c x 1 op → ∃ t, exec (.castDispatch c) s = .next t ∧ EngEnded s t c 0) ∧
    (Operating s c x 2 op → ∃ t, exec (.mixCombine c) s = .next t ∧ EngEnded s t c 0) ∧
    (Operating s c x 4 op → ∃ t, exec (.dailiesDelta c) s = .next t ∧ EngEnded s t c 0)) ∧
  ∀ (s : State) (c : ChainId) (x : Cmd) (op : Nat) (l : Leaf) (h : HomeLine Nat),
    (∀ slot dest, Operating s c x 1 op → x.row = some (slot, dest) → x.field 24 4 ≤ x.pos → slot < 2 ^ 32 →
      let va := x.field 48 8 + 4 * (x.field 10 1 * x.unit + x.sub)
      EngStores s c x va 4 l h → ∃ t y, exec (.castDispatch c) s = .next t ∧ EngStored s t c va 4 slot l h ∧ t.headCmd c = some y ∧ y.row = none ∧
        (y.unit, y.sub) = (if x.field 10 1 ≤ x.sub + 1 then (x.unit + 1, 0) else (x.unit, x.sub + 1)) ∧
        y.aux = (if slot = 2 ^ 32 - 1 then x.aux + 1 else x.aux) ∧ t.mem = s.mem) ∧
    (∀ data hash z, Operating s c x 4 op → x.data = some data → x.row = some (hash, z) → 65552 ≤ x.pos → hash < 2 ^ 128 →
      let va := x.field 24 8 + 16 * x.unit
      EngStores s c x va 16 l h → ∃ t y, exec (.dailiesDelta c) s = .next t ∧ EngStored s t c va 16 hash l h ∧ t.headCmd c = some y ∧ y.data = none ∧
        y.unit = x.unit + 1 ∧ y.aux = x.aux + 1 ∧ t.mem = s.mem) ∧
    (Operating s c x 3 2 → x.owned = [] → EngStores s c x (x.field 24 8) 8 l h →
      ∃ t, exec (.collSignal c) s = .next t ∧ EngStored s t c (x.field 24 8) 8 (x.field 32 8) l h ∧ EngEnded s t c 0)

/-- 19 R425, R426, R430, R439: a follow-on joins its cluster's queue and ends with its tile full; a fault joins what is to be
posted; a command's record is written and the command leaves its chain completed. -/
def Obligations.EngineCompletion : Prop :=
  (∀ (s : State) (c : ChainId) (x : Cmd), s.headCmd c = some x → x.phase = .follow → (s.seq x.k).follow ≠ 0 →
    ∀ (cl : Nat) (jobs : List MatrixJob), cl = x.k / 32 → jobs = s.matrix.getD cl [] →
    (.follow c ∉ jobs → jobs.length < 16 → ∃ t, exec (.followOnMatrix c) s = .next t ∧ t.matrix.getD cl [] = jobs ++ [.follow c] ∧
      t.headCmd c = some x ∧ t.seqs = s.seqs ∧ t.mem = s.mem) ∧
    (∀ (rest : List MatrixJob) (m : Mop), jobs = .follow c :: rest → x.mop = some m → m.chunks ≤ x.chunk → x.owned = [] → c.eng = 0 → x.op = 2 →
      ∃ t, exec (.followOnMatrix c) s = .next t ∧ EngEnded s t c 0 ∧ .follow c ∉ t.matrix.getD cl [] ∧
        (t.seq x.k).follow = (s.seq x.k).follow - 1 ∧ (t.seq x.k).full.a.getLsbD (x.field 11 1 % 8) = true)) ∧
  (∀ (s : State) (c : ChainId) (x : Cmd) (cause va access detail : Nat), s.headCmd c = some x →
    (∀ z ∈ (s.vi c.vi).ctxs, z.1 = c.cid → z.2.dying = false) →
    ∃ t y, exec (.engineFault c cause va access detail) s = .next t ∧ t.headCmd c = some y ∧ y.phase = .batch ∧ y.n = x.n ∧
      (t.vi c.vi).ring.queue = (s.vi c.vi).ring.queue ++
        [{ post := .batch (.engine c) c.cid x.va x.n [{ page := va, access := access, cause := cause, first := 0xFFFF, count := 0, detail := detail }] }] ∧
      t.due = s.due ++ [.faultBatchPost c.vi] ∧ t.mem = s.mem) ∧
  ∀ (s : State) (c : ChainId) (x : Cmd) (xs : List Cmd) (st : Nat) (l : Leaf) (h : HomeLine Nat), (s.chain c).cmds = x :: xs → x.phase = .record →
    x.status = some st → x.flag 0 = false → x.flushed ≠ some false → engStoresOut c s = [] → engRefused c s = [] →
    let done := x.field 0 8
    let word := x.n % 2 ^ 64 + (x.count c * 2 ^ 32 + x.aux % 2 ^ 24 * 256 + st % 256) * 2 ^ 64
    (done ≠ 0 → EngStores s c x done 16 l h ∧ x.count c < 2 ^ 32) →
    ∃ t, exec (.commandComplete c) s = .next t ∧ (t.chain c).cmds = xs ∧ (t.chain c).done = x.n ∧ (t.chain c).doneStatus = st ∧
      x.clock ≤ (t.chain c).doneT ∧ (done ≠ 0 → EngStored s t c done 16 word l h) ∧ t.mem = s.mem ∧ t.stage = s.stage ∧
      (∀ sl, s.slates.find x.slot = some sl → ∃ sl1, t.slates.find x.slot = some sl1 ∧ sl1.commands = sl.commands - 1 ∧
        (sl1.commands = 0 → .slateComplete x.slot ∈ t.due)) ∧
      ∀ k, k / 2048 = c.die → ∀ eng, (s.seq k).wait = .chain eng → (t.seq k).wait = .run

/-- 02 R35 to R40, R45; 04 R82; 07 R171, R172, R476; 18 R399, R409: the host and peers read and write this device's memory at its
homes, each under the rights it has, and the horizons follow their writes. -/
def Obligations.HostAndPeerAccesses : Prop :=
  (∀ (s : State) (port x : Nat) (own : Bool) (h : HomeLine Nat), hostReaches port x s = true →
    (HomeReady s x h → ∃ t, exec (.hostMemrd port x own) s = .next t ∧ Answered s t x h [.hostData port x h.data true]) ∧
    (s.home x = some h → h.own = none → h.pubs = [] → s.flipping.find (x / 32) = none → s.hostBias x = true → roomQueue x s = [] →
      (∀ w ∈ s.devWrites, w.1 ≠ x) → s.ports.getD port .absent ≠ .pcie →
      (dirMates x s).length < 16 → ∃ t, exec (.hostMemrd port x own) s = .next t ∧ Answered s t x h [.hostData port x h.data false] ∧
        t.dirState x = some (own || decide (s.dirState x = some true)))) ∧
  (∀ (s : State) (port x : Nat) (bytes : Line) (mask : LineMask) (h : HomeLine Nat), hostReaches port x s = true →
    (frameLocked (x / 32) s = false → HomeReady s x h → TakesWrite s x 128 h →
      let T := max h.wts h.rts + 1
      Storable s T →
      ∃ t h1, exec (.hostMemwr port x bytes mask) s = .next t ∧ t.home x = some h1 ∧ h1.data = mergeLine h.data bytes mask ∧
        h1.wts = T ∧ h1.rts = T ∧ t.hostHorizon = max s.hostHorizon T ∧ t.mem = s.mem ∧ t.stage = s.stage ∧
        t.outbox = s.outbox ++ if port < 2 then [.hostDone port x] else []) ∧
    (frameLocked (x / 32) s = true → ∃ t, exec (.hostMemwr port x bytes mask) s = .next t ∧ t.homes = s.homes ∧ t.mem = s.mem ∧
      t.due = s.due ++ [.eventPost .pf 0x06 0 (4096 * (x / 32)) 0] ∧
      t.outbox = s.outbox ++ if port < 2 then [.hostDone port x] else [])) ∧
  (∀ (s : State) (x : Nat), (∃ t, exec (.birspi x) s = .next t ∧ t.dirState x = none ∧ .snoop x true ∉ t.outbox ∧
      t.waiting.find x = none ∧ t.mem = s.mem ∧ t.homes = s.homes) ∧
    (∃ t, exec (.bisnpdatablkAnswer x none) s = .next t ∧ .snoop x false ∉ t.outbox ∧ t.waiting.find x = none ∧ t.mem = s.mem ∧
      t.homes = s.homes ∧ t.dirState x = (s.dirState x).map fun _ => false) ∧
    ∀ b m, ∃ t, exec (.bisnpdatablkAnswer x (some (b, m))) s = .next t ∧ t.due.head? = some (.hostMemwr 2 x b m) ∧
      .snoop x false ∉ t.outbox ∧ t.mem = s.mem ∧ t.dirState x = (s.dirState x).map fun _ => false) ∧
  (∀ (s : State) (src off size tag : Nat) (h : HomeLine Nat), HomeReady s (off / 128) h → exportOk src off size 0 s = true →
    ∃ t, exec (.peerLoad src off size tag) s =
      .next (sendPeer (.reply src (off / 128) tag (lineWith 0 (lineField h.data (off % 128) size)) true) t) ∧ Answered s t (off / 128) h []) ∧
  (∀ (s : State) (src off size tag : Nat) (bytes : Line) (h : HomeLine Nat), HomeReady s (off / 128) h → TakesWrite s (off / 128) 128 h →
    frameLocked (off / 4096) s = false → exportOk src off size 1 s = true →
    let T := max h.wts h.rts + 1
    Storable s T →
    ∃ t, exec (.peerStore src off size bytes tag) s = .next (sendPeer (.reply src (off / 128) tag 0 true) t) ∧
      HomeStored t (off / 128) h (off % 128) size (lineField bytes (off % 128) size) ∧ t.peerHorizon = max s.peerHorizon T ∧
      t.outbox = s.outbox ∧ t.mem = s.mem ∧ t.stage = s.stage) ∧
  (∀ (s : State) (src off tag : Nat) (op ty : BitVec 4) (x x2 : DWord) (h : HomeLine Nat), HomeReady s (off / 128) h →
    TakesWrite s (off / 128) 128 h → frameLocked (off / 4096) s = false →
    let T := max h.wts h.rts + 1
    let o := off % 128
    let n := if op = 15 then 16 else typeBits ty.toNat / 8
    let old := lineField h.data o n
    Storable s T → exportOk src off n 2 s = true → off % n = 0 → 0 < n → (op.toNat ≤ 10 ∧ atomicTypeOk op.toNat ty.toNat true = true ∨ op = 15) →
    ∃ t r new, exec (.peerAtomic src off op ty x x2 tag) s = .next (sendPeer (.reply src (off / 128) tag (lineWith 0 r) true) t) ∧
      HomeStored t (off / 128) h o n new ∧ t.outbox = s.outbox ∧ t.peerHorizon = max s.peerHorizon T ∧ t.mem = s.mem ∧
      (op ≠ 15 → r = old ∧ new = (atomicNew op.toNat ty.toNat { rm := 0 } old x.toNat x2.toNat).1) ∧
      (op = 15 → r = lineField h.data (o + 8) 4 ∧
        (new / 2 ^ 32 % 2 ^ 32, new / 2 ^ 64 % 2 ^ 32) = arrivedAt (lineField h.data o 4) (lineField h.data (o + 4) 4) r)) ∧
  ∀ (s : State) (src off size tag : Nat) (bytes : Line) (op ty : BitVec 4) (x x2 : DWord),
    (exportOk src off size 0 s = false → exec (.peerLoad src off size tag) s =
      .next (sendPeer (.reply src (off / 128) tag 0 false) s)) ∧
    (exportOk src off size 1 s = false → exec (.peerStore src off size bytes tag) s =
      .next (sendPeer (.reply src (off / 128) tag 0 false) s)) ∧
    (op ≠ 15 → exportOk src off (typeBits ty.toNat / 8) 2 s = false → exec (.peerAtomic src off op ty x x2 tag) s =
      .next (sendPeer (.reply src (off / 128) tag 0 false) s))

/-- 02 R42 to R44, R47 to R49; 09 R213: answers to this device's requests reach who asked, and the link ports retry, fail, retrain
and come back. -/
def Obligations.AnswersAndPorts : Prop :=
  (∀ (s : State) (k addr cause : Nat) (p : PeerStore), k < 8192 → storeTo addr (s.seq k).peerOut = some p →
    ∃ t, exec (.peerCompletion { k := k, addr := addr, cause := cause }) s = .next t ∧ (t.seq k).peerOut = (s.seq k).peerOut.erase p ∧ (t.seq k).pc = (s.seq k).pc ∧
      (t.seq k).peerBad = (if cause = 0 then (s.seq k).peerBad else (s.seq k).peerBad ++ [(p, cause)]) ∧ t.mem = s.mem ∧ t.stage = s.stage ∧
      ∀ j, j ≠ k → (s.seq j).wait = .peer → (s.seq j).note = none →
        (t.seq j).wait = if (s.seq k).peerOut.erase p = [] then .run else .peer) ∧
  (∀ (s : State) (k j : Nat), k < 8192 → j ≠ k →
    ((s.seq k).hostOut = 1 → (s.seq j).wait = .host → (s.seq j).note = none →
      ∃ t, exec (.hostGlobalObservation k) s = .next t ∧ (t.seq k).hostOut = 0 ∧ (t.seq j).wait = .run ∧ t.mem = s.mem) ∧
    (1 < (s.seq k).hostOut → (∀ v ∈ s.vis, ∀ Q ∈ v.2.queues, Q.2.hostFrom = []) →
      exec (.hostGlobalObservation k) s = .next (s.upd k fun q => { q with hostOut := q.hostOut - 1 })) ∧
    (∀ v ∈ s.vis, ∀ Q ∈ v.2.queues, Q.2.hostFrom = [(k, 1)] → 0 < (s.seq k).hostOut →
      ∃ t, exec (.hostGlobalObservation k) s = .next t ∧ .slateComplete (1024 + 64 * v.1 + Q.1) ∈ t.due ∧ t.mem = s.mem) ∧
    ((s.seq k).wait = .persist → exec (.persistenceFlushDone k) s = .next (s.upd k fun q => { q with wait := .run }))) ∧
  (∀ (s : State) (k cause : Nat) (v : DWord) (n : Note), k < 8192 → (s.seq k).wait = .peer → (s.seq k).note = some n → n.asked ≠ 0 →
    n.cause = 0 → n.lines.find (n.asked - 1) = none →
    exec (.peerDataReturn k v cause) s = .next (s.upd k fun q => { q with
      wait := .run
      note := some (if cause = 0 then { n with lines := n.lines.set (n.asked - 1) v.toNat } else { n with cause := cause }) })) ∧
  (∀ (s : State) (x : Nat) (b : Line), x ∈ s.hostAsked → ∃ t, exec (.hostReadCompletion x b) s = .next t ∧
    t.hostLines.find x = some b ∧ x ∉ t.hostAsked ∧ t.waiting.find x = none ∧ t.mem = s.mem ∧ t.homes = s.homes) ∧
  (∀ (s : State) (p : Nat) (head : BitVec 64) (slots : BitVec 1920) (crc : BitVec 64), p < 12 → (s.link p).up = true →
    let field (lo n : Nat) : Nat := head.toNat / 2 ^ lo % 2 ^ n
    let good : Prop := Config.flitCrc (slots ++ head) = crc
    let acked (l : LinkPort) : LinkPort := { l with
      ackSeq := field 40 12
      unacked := l.unacked.filter fun e => decide (2048 ≤ (field 40 12 + 4096 - e.1) % 4096)
      credits := l.credits + field 24 16 }
    (good → (s.link p).queue = [] →
      (field 52 12 = (s.link p).rxSeq → exec (.flitReceive p head slots crc) s = .next (s.updLink p fun l => { acked l with
        rxSeq := (l.rxSeq + 1) % 4096
        retries := 0
        rxType := field 20 4
        rxSlots := (List.range 15).map fun i => slots.extractLsb' (128 * i) 128 })) ∧
      (field 52 12 ≠ (s.link p).rxSeq → exec (.flitReceive p head slots crc) s = .next (s.updLink p acked))) ∧
    (¬ good → (s.link p).retries < 8 → exec (.flitReceive p head slots crc) s =
      .next { (s.updLink p fun l => { l with retries := l.retries + 1 }) with outbox := s.outbox ++ [.flitRetry p (s.link p).rxSeq] }) ∧
    (∃ t, exec (.portDown p) s = .next t ∧ (t.link p).up = false ∧ .eventPost .pf 0x09 0 p 0 ∈ t.due ∧ t.mem = s.mem ∧
      ((s.link p).pending = [] → ∀ j, j ≠ p → t.link j = s.link j)) ∧
    (¬ good → 8 ≤ (s.link p).retries → exec (.flitReceive p head slots crc) s = exec (.portDown p) s)) ∧
  (∀ (s : State) (m : PeerMsg) (p : Nat), (∀ j, j < 12 → (s.link j).pending = []) →
    (routePorts m.key.1 s)[Config.linkHash m.key.2 % max 1 (routePorts m.key.1 s).length]? = some p →
    (sendPeer m s).outbox = s.outbox ++ [.flit p (s.link p).txSeq (s.link p).rxSeq m] ∧
      ((sendPeer m s).link p).unacked = [((s.link p).txSeq, m)] ∧ (sendPeer m s).mem = s.mem) ∧
  (∀ (s : State) (p n : Nat), p < 12 → (s.link p).up = false → (∃ t, exec (.retrainSuccess p) s = .next t ∧
      t.link p = {} ∧ (∀ j, j ≠ p → t.link j = s.link j) ∧ t.due = s.due ++ [.eventPost .pf 0x0A 0 p 0]) ∧
    ((s.link p).stopped = false ∨ (s.link p).retrain = true →
      (1024 ≤ n → exec (.retrainAttempt p n) s = exec (.retrainSuccess p) s) ∧
      (n < 1024 → exec (.retrainAttempt p n) s = .next (s.updLink p fun l => { l with
        retrain := false
        fails := l.fails + 1
        stopped := decide (16 ≤ l.fails + 1) })))) ∧
  ∀ (s : State) (ps : BitVec 12), ∃ t, exec (.linkctlRetrain ps) s = .next t ∧ t.due = s.due ∧ t.mem = s.mem ∧ ∀ p, p < 12 →
    t.link p = if ps.getLsbD p = true ∧ (s.link p).up = false then { s.link p with retrain := true, stopped := false, fails := 0 }
      else s.link p

/-- 01 R10 to R17; 04 R101: module reset, the energy counters, the planning window, the clocks, thermal protection and heat. -/
def Obligations.PackageOperation : Prop :=
  (∀ (s : State) (p0 p1 : PortMode) (ok clear : Bool), let image := s.nextImage.getD s.image
    let boots := ok && Config.imageSigned image && decide (Config.fuseCounter ≤ Config.imageVersion image)
    ∃ t, exec (.moduleReset p0 p1 { imageOk := ok, clearLog := clear }) s = .next t ∧ t.mem = s.mem ∧
    t.retiredLog = (if clear then [] else s.retiredLog) ∧ t.mcLog = s.mcLog ∧ t.ports = [p0, p1] ∧ t.recovery = !boots ∧ t.seqs = [] ∧ t.stage = [] ∧ t.homes = [] ∧
    t.copies = [] ∧ t.vis = [] ∧ t.slates = [] ∧ t.chains = [] ∧ t.owners = [] ∧ t.bias = [] ∧ t.energy = [] ∧ t.cycle = 0 ∧
    t.mgmt = { State.reset.mgmt with master := t.mgmt.master } ∧
    t.image = image ∧ ∀ d c, d < 4 → c / 64 = d → (.cluster c ∈ t.retiredLog ↔ c ∈ (t.die d).fencedClusters)) ∧
  (∀ (s : State) (m : MeterReading), m.engine = [] → m.die < 4 → s.residue = [] →
    (m.activity = [] → ∃ t, exec (.accountingInterval [m]) s = .next t ∧ Charged s t 8192 m.energy ∧ Charged s t 8193 m.energy ∧
      Charged s t (8194 + m.die) m.energy ∧ t.mem = s.mem) ∧
    ∀ a, m.activity = [a] → a.1 < 128 → a.2.1 < 64 → ∃ t, exec (.accountingInterval [m]) s = .next t ∧
      Charged s t 8192 m.energy ∧ Charged s t (8194 + m.die) m.energy ∧
      (activityWeight a = 0 → Charged s t 8193 m.energy) ∧
      (activityWeight a ≠ 0 → Charged s t (64 * a.1 + a.2.1) m.energy ∧ t.energy.getD 8193 0 = s.energy.getD 8193 0)) ∧
  (∀ (s : State) (es : List Nat) (cool : Bool), let carried := s.committed - s.budget * 2 ^ 24 / 1000
    ∃ t i, exec (.windowBoundary es cool) s = .next t ∧ i ≤ 20 ∧
    (i = 0 ∨ fits s.mgmt.modbudget (carried + es.getD i 0)) ∧ (∀ j, i < j → j ≤ 20 → ¬ fits s.mgmt.modbudget (carried + es.getD j 0)) ∧
    t.budget = s.mgmt.modbudget ∧ t.committed = carried ∧ t.windowStart = s.cycle ∧
    (t.thermal = true ↔ s.thermal = true ∧ cool = false) ∧ ∀ d, d < 4 → (t.die d).planned = 20 + i ∧
      (t.die d).clock = if s.thermal = true ∧ cool = true then 20 + i else (s.die d).clock) ∧
  (∀ (s : State) (d : Nat), s.thermal = false →
    exec (.clockChange d (s.die d).planned) s = .next (s.updDie d fun x => { x with clock := (s.die d).planned })) ∧
  (∀ s : State, (∃ t, exec .thermalTrip s = .next t ∧ t.thermal = true ∧ (∀ d, d < 4 → (t.die d).clock = 20) ∧ t.mem = s.mem ∧
      ∀ v, v < 128 → (t.vi v).therm = true ∧ .eventPost (.vi v) 0x03 0 0 0 ∈ t.due) ∧
    exec .thermalShutdown s = .next { s with mcLog := s.mcLog ++ [{ kind := 2, detail := s.cycle }], off := true }) ∧
  ∀ (s : State) (k : Nat), let base := s.mgmt.heatbase.toNat
    let ea := base + 184549376 + k
    let d := (s.cycle / 2 ^ 26 % 256 + 256 - s.mem.read ea 1) % 256
    s.mgmt.heatEn = true → k < 1441792 → base % 4096 = 0 → s.Canonical → BytesPlain s (base + 128 * k) 128 → BytesPlain s ea 1 →
    d ≠ 0 → ∃ t, exec (.heatSweep k) s = .next t ∧ t.mem.read ea 1 = s.cycle / 2 ^ 26 % 256 ∧
      (∀ i, i < 64 → t.mem.read (base + 128 * k + 2 * i) 2 = s.mem.read (base + 128 * k + 2 * i) 2 / 2 ^ min d 16) ∧
      ∀ a, a ≠ ea → (a < base + 128 * k ∨ base + 128 * k + 128 ≤ a) → t.mem.byte a = s.mem.byte a

/-- 01 R12, R18 to R22: errors that last retire their region for good; limits and error windows are kept in range. -/
def Obligations.ErrorsAndRetirement : Prop :=
  (∀ (s : State) (r : Region), (Lasting s r → r ∉ s.retiredLog → ∃ t, exec (.correctedError r) s = .next t ∧ RetireBegins s t r ∧
      t.mem = s.mem) ∧
    ∀ es, es = (s.cycle :: (s.errTimes.getD (regionKey r) []).take (s.mgmt.thresh - 1)).take s.mgmt.thresh → ¬ Lasting s r →
      exec (.correctedError r) s = .next { s with errTimes := s.errTimes.set (regionKey r) es }) ∧
  (∀ (s : State) (f x : Nat), x / 32 = f → s.converted.find f = none → Region.page f ∉ s.retiredLog →
    ∀ ks l, ∃ t, exec (.uncorrectableError (.page f) { lines := [x], seqs := ks, latches := l }) s = .next t ∧ x ∈ t.poisoned ∧ RetireBegins s t (.page f) ∧
      (∀ y, y ∈ s.poisoned → y ∈ t.poisoned) ∧ t.mem = s.mem) ∧
  (∀ (s : State) (d n w x : Nat) (h : HomeLine (BitVec 24)), s.homes.find x = some h → homeSlice x = 64 * d + n → h.way = w →
    Region.llcWay d n w ∉ s.retiredLog →
    ∀ ks l, ∃ t h1, exec (.uncorrectableError (.llcWay d n w) { lines := [x], seqs := ks, latches := l }) s = .next t ∧ t.homes.find x = some h1 ∧ h1.code = 15 ∧ h1.own = h.own ∧ h1.dirty = true ∧
      RetireBegins s t (.llcWay d n w) ∧ t.mem = s.mem) ∧
  (∀ (s : State) (c k : Nat) (b : Binding) (x : Ctx), Region.cluster c ∈ s.retiredLog → k / 32 = c → (s.seq k).bound = some b →
    (s.vi b.vi).ctxs.find b.cid = some x → ∃ t x1, exec (.uncorrectableError (.cluster c) { lines := [] }) s = .next t ∧
      (t.vi b.vi).ctxs.find b.cid = some x1 ∧ x1.lost = true ∧ t.mem = s.mem) ∧
  (∀ (s : State) (d n w : Nat), (s.slices.getD (64 * d + n) {}).retiring = some w → (s.slices.getD (64 * d + n) {}).retireNext = [] →
    (∀ e ∈ s.homes, homeSlice e.1 = 64 * d + n → e.2.way ≠ w ∧ ∀ i ∈ e.2.sects, i / 2 ≠ w) →
    ∃ t, exec (.wayRetireDone d n) s = .next t ∧ (t.slices.getD (64 * d + n) {}).retiring = none ∧ t.homes = s.homes ∧ t.mem = s.mem ∧
      (t.slices.getD (64 * d + n) {}).retired = (s.slices.getD (64 * d + n) {}).retired) ∧
  ∀ (s : State) (v : DWord), Managed s →
    exec (.modbudgetWrite v) s =
      .next { s with mgmt := { s.mgmt with modbudget := max 600 (min 2800 (v.toNat % 4096)) } } ∧
    exec (.errorWindowWrite v) s =
      .next { s with mgmt := { s.mgmt with window := max 1 (v.toNat / 65536 % 65536), thresh := max 2 (v.toNat % 16) } } ∧
    exec (.tlbpinwaitWrite v) s = .next { s with mgmt := { s.mgmt with tlbpinwait := max 1000 (v.toNat % 2 ^ 32) } } ∧
    exec (.preemptdlWrite v) s = .next { s with mgmt := { s.mgmt with preemptdl := max 1000 (v.toNat % 2 ^ 32) } } ∧
    exec (.heatctlWrite v) s =
      .next { s with mgmt := { s.mgmt with heatEn := v.getLsbD 31, heatshift := min 16 (v.toNat % 32) } }

/-- 01 R24 to R30; 03 R54: an update or a recovery image counts only if it verifies, a report goes to its requester's buffer, and a
range of frames changes hands with no translation of it left. -/
def Obligations.TrustAndOwnership : Prop :=
  (∀ (s : State) (v : DWord), Managed s → s.mgmt.fwBusy = true →
    exec (.fwcmdInstall v) s = .next { s with mgmt := { s.mgmt with fwOverrun := true } }) ∧
  (∀ (s : State) (v : DWord), Managed s → v.toNat / 2 ^ 60 = 1 → s.mgmt.fwBusy = false → let n := v.toNat % 2 ^ 32
    let base := s.mgmt.fwstage.toNat
    ∃ t, exec (.fwcmdInstall v) s = .next t ∧ t.mgmt.fwBusy = true ∧ t.mgmt.fwLen = n ∧ t.mem = s.mem ∧
      (1 ≤ n ∧ n ≤ 2 ^ 26 ∧ unassigned base n (fun a => decide (tierOf a = .hbm)) s = true → ∃ b, t.mgmt.fwCopy = some b ∧ b.length = n) ∧
      (¬(1 ≤ n ∧ n ≤ 2 ^ 26 ∧ unassigned base n (fun a => decide (tierOf a = .hbm)) s = true) → t.mgmt.fwCopy = none)) ∧
  (∀ (s : State) (flash : Nat), s.mgmt.fwBusy = true → ∃ t, exec (.fwUpdateDone flash) s = .next t ∧ t.mgmt.fwBusy = false ∧
    t.image = s.image ∧ (s.mgmt.fwCopy = none → t.mgmt.fwResult = 3 ∧ t.nextImage = s.nextImage) ∧
    ∀ i, s.mgmt.fwCopy = some i →
      (Config.imageSigned i = false → t.mgmt.fwResult = 1 ∧ t.nextImage = s.nextImage) ∧
      (Config.imageSigned i = true → Config.imageVersion i < Config.fuseCounter → t.mgmt.fwResult = 2 ∧ t.nextImage = s.nextImage) ∧
      (Config.imageSigned i = true → Config.fuseCounter ≤ Config.imageVersion i →
        (flash = 4 → t.mgmt.fwResult = 4 ∧ t.nextImage = s.nextImage) ∧
        (flash ≠ 4 → t.mgmt.fwResult = 0 ∧ t.nextImage = some i))) ∧
  (∀ s : State, s.recovery = true → s.pfPresent = true → s.mgmt.recBusy = false →
    exec (.reccmdRecovery 1) s = .next { s with mgmt := { s.mgmt with recBusy := true } }) ∧
  (∀ (s : State) (flash : Nat), s.mgmt.recBusy = true → let n := s.mgmt.reclen.toNat
    ∃ t, exec (.recoveryDone flash) s = .next t ∧ t.mgmt.recBusy = false ∧ t.mem = s.mem ∧
      (n = 0 ∨ 2 ^ 26 < n ∨ s.mgmt.recaddr.toNat % 4096 ≠ 0 → t.mgmt.recResult = 3 ∧ t.recovery = s.recovery) ∧
      (1 ≤ n → n ≤ 2 ^ 26 → s.mgmt.recaddr.toNat % 4096 = 0 →
        (t.recovery = s.recovery ∧ t.image = s.image ∧ t.mgmt.recResult ∈ [1, 2, 4]) ∨ (t.recovery = false ∧ t.image.length = n))) ∧
  (∀ (s : State) (who : RingId) (v : DWord), (who = .pf ∧ Managed s) ∨ (∃ n, who = .vi n ∧ Open s n) → (s.attest who).busy = true →
    exec (.attcmdRequest who v) s = .next (s.updAttest who fun a => { a with overrun := true })) ∧
  (∀ (s : State) (who : RingId), (who = .pf ∧ Managed s) ∨ (∃ n, who = .vi n ∧ Open s n) → (s.attest who).busy = false → let pa := (s.attest who).buf.toNat
    let ok := decide (pa % 64 = 0) && match who with
      | .pf => unassigned pa 29920 isMemory s
      | .vi n => ownBytes n pa 29920 s
    ∃ t, exec (.attcmdRequest who 1) s = .next t ∧ t.mem = s.mem ∧
      (ok = true → t.attQueue = s.attQueue ++ [who] ∧ (t.attest who).busy = true ∧ (t.attest who).qNonce = (s.attest who).nonce ∧
        (t.attest who).qBuf = pa) ∧
      (ok = false → t.attQueue = s.attQueue ∧ (t.attest who).busy = false ∧ (t.attest who).result = 1)) ∧
  (∀ (s : State) (who : RingId) (rest : List RingId), s.attQueue = who :: rest → let a := s.attest who
    a.qBuf % 64 = 0 → a.qNonce.length = 4 → BytesPlain s a.qBuf 29920 → s.Canonical → s.mgmt.heatEn = false →
    ∃ t, exec .attestationSigned s = .next t ∧ t.attQueue = rest ∧ (t.attest who).busy = false ∧ (t.attest who).result = 0 ∧
      (∀ i, i < 4 → t.mem.read (a.qBuf + 8 * i) 8 = (a.qNonce.getD i 0).toNat) ∧
      t.mem.read (a.qBuf + 32) 32 = Shake.shakeBytes s.image 32 % 2 ^ 256 ∧
      t.mem.read (a.qBuf + 64) 8 = Config.imageVersion s.image % 2 ^ 64 ∧
      ∀ b, b < a.qBuf ∨ a.qBuf + 29920 ≤ b → t.mem.byte b = s.mem.byte b) ∧
  (∀ (s : State) (v : DWord), Managed s → s.mgmt.ownBusy = false → let n := v.toNat % 2 ^ 21
    let first := s.mgmt.ownset
    let ok := decide (1 ≤ n) && decide (n ≤ 2 ^ 20) && isMemory (4096 * first) && decide (tierOf (4096 * first) = tierOf (4096 * (first + n - 1)))
    ∃ t, exec (.owncmdWrite v) s = .next t ∧ t.mgmt.ownOwner = v.toNat / 2 ^ 40 % 256 ∧ t.mgmt.ownCount = n ∧ t.mem = s.mem ∧
      (ok = false → t.mgmt.ownBusy = false ∧ t.mgmt.ownResult = 1 ∧ t.owners = s.owners) ∧
      (ok = true → t.mgmt.ownBusy = true ∧ t.mgmt.ownResult = 0 ∧ t.due = s.due ++ [.owncmdDone] ∧
        (∀ f, t.owners.getD f 0 = if first ≤ f ∧ f < first + n then v.toNat / 2 ^ 40 % 256 else s.owners.getD f 0) ∧
        (∀ e ∈ t.coreTlb ++ t.dieTlb, ∀ x ∈ e.2, x.maps first n = false))) ∧
  ∀ s : State, s.mgmt.ownBusy = true → pinned (fun e => e.maps s.mgmt.ownset s.mgmt.ownCount) s = false →
    exec .owncmdDone s = .next { s with mgmt := { s.mgmt with ownBusy := false } }

/-- 03 R53, R55 to R58, R477; 05 R116; 11 R246: interfaces are enabled, disabled and given host ranges and tickets; contexts are
created from a checked descriptor, made privileged, and destroyed. -/
def Obligations.InterfacesAndContexts : Prop :=
  (∀ (s : State) (vi : Nat), vi < 128 → Managed s →
    ((s.vi vi).en = false → (s.vi vi).busy = false → portOf vi s ≠ .absent → exec (.victlEnable vi) s = .next (s.updVi vi fun v => { v with
      en := true
      ring := { v.ring with base := 0, size := 0, head := 0, tail := 0, ready := false } })) ∧
    ((s.vi vi).en = true → (s.vi vi).busy = false → ∃ t, exec (.victlDisable vi) s = .next t ∧ (t.vi vi).busy = true ∧
      (∀ e ∈ (t.vi vi).queues, e.2.en = false ∧ e.2.halt = false ∧ e.2.err = 0) ∧ (∀ e ∈ (t.vi vi).ctxs, e.2.dying = true) ∧
      .ctxcmdDone vi ∈ t.due ∧ t.mem = s.mem) ∧
    ((s.vi vi).busy = true → (s.vi vi).ctxs = [] →
      exec (.victlDisableDone vi) s = .next (s.updVi vi fun v => { v with en := false, busy := false }))) ∧
  (∀ (s : State) (vi k : Nat) (v : DWord), vi < 128 → k < 8 → Managed s → (s.vi vi).hrBase.length = 8 → (s.vi vi).hrSize.length = 8 →
    (∃ t, exec (.hostRangeWrite vi k false v) s = .next t ∧ ((t.vi vi).hrBase.getD k 0).toNat = v.toNat % 2 ^ 52 / 4096 * 4096 ∧
      (t.vi vi).hrSize = (s.vi vi).hrSize ∧ (t.vi vi).hrBusy = true ∧ t.due = s.due ++ [.hostRangeInvalidateDone vi] ∧ t.mem = s.mem ∧
      ∀ e ∈ t.coreTlb ++ t.dieTlb, ∀ x ∈ e.2, x.vi ≠ vi) ∧
    (∃ t, exec (.hostRangeWrite vi k true v) s = .next t ∧ ((t.vi vi).hrSize.getD k 0).toNat = v.toNat / 4096 * 4096 ∧
      (t.vi vi).hrBase = (s.vi vi).hrBase ∧ (t.vi vi).hrBusy = true ∧ ∀ e ∈ t.coreTlb ++ t.dieTlb, ∀ x ∈ e.2, x.vi ≠ vi) ∧
    ((s.vi vi).hrBusy = true → pinned (fun e => decide (e.vi = vi)) s = false →
      exec (.hostRangeInvalidateDone vi) s = .next (s.updVi vi fun v => { v with hrBusy := false })) ∧
    ∃ t, exec (.viticketsWrite vi v) s = .next t ∧ t.vi vi = { s.vi vi with tickets := v.toNat % 65536 } ∧ t.mem = s.mem ∧
      ∀ d, d < 4 → (t.die d).vtimeVi = (s.die d).vtimeVi ∧ (∀ j, j ≠ vi → (t.die d).passVi.find j = (s.die d).passVi.find j)) ∧
  (∀ (s : State) (vi id : Nat), Open s vi → (s.vi vi).ctxBusy = false → ownBytes vi (s.vi vi).ctxdesc.toNat 64 s = true →
    let d := s.peekBytes (s.vi vi).ctxdesc.toNat 64
    GoodDescriptor s vi d → 1 ≤ id → id < 256 → (s.vi vi).ctxs.find id = none → (∀ j, 1 ≤ j → j < id → ((s.vi vi).ctxs.find j).isSome = true) →
    ∃ t, exec (.ctxcmdCreate vi) s = .next t ∧ (t.vi vi).ctxBusy = true ∧ (t.vi vi).ctxPend = (0, id, 0) ∧
      (t.vi vi).ctxs.find id = some { root := descField d 0 8, slots := descField d 8 2, maxTiles := descField d 10 1
                                      frames := frameList (descField d 16 8) (descField d 8 2 * (12 + 16 * descField d 10 1)) s } ∧
      (∀ j, j ≠ id → (t.vi vi).ctxs.find j = (s.vi vi).ctxs.find j) ∧ t.due = s.due ++ [.ctxcmdDone vi] ∧ t.mem = s.mem) ∧
  (∀ (s : State) (vi cid : Nat), Open s vi → (s.vi vi).ctxBusy = false →
    ((s.vi vi).ctxs.find cid = none → ∃ t, exec (.ctxcmdDestroy vi cid) s = .next t ∧ (t.vi vi).ctxPend = (5, 0, 0) ∧ (t.vi vi).ctxs = (s.vi vi).ctxs) ∧
    (∀ c, (s.vi vi).ctxs.find cid = some c →
      ((∃ e ∈ (s.vi vi).queues, e.2.ctx = cid) → ∃ t, exec (.ctxcmdDestroy vi cid) s = .next t ∧ (t.vi vi).ctxPend = (4, 0, 0) ∧
        (t.vi vi).ctxs = (s.vi vi).ctxs) ∧
      ((∀ e ∈ (s.vi vi).queues, e.2.ctx ≠ cid) → ∃ t c1, exec (.ctxcmdDestroy vi cid) s = .next t ∧ (t.vi vi).ctxPend = (0, 0, cid) ∧
        (t.vi vi).ctxBusy = true ∧ (t.vi vi).ctxs.find cid = some c1 ∧ c1.dying = true ∧ c1.saved = [] ∧ .ctxcmdDone vi ∈ t.due ∧ t.mem = s.mem ∧
        ∀ e ∈ t.slates, e.2.vi = vi → e.2.cid = cid → e.2.abandoned = true))) ∧
  (∀ (s : State) (vi r n w : Nat), (s.vi vi).ctxBusy = true → (s.vi vi).ctxPend = (r, n, w) → (s.vi vi).busy = false →
    ((∀ e ∈ (s.vi vi).ctxs, e.2.dying = false) → (s.vi vi).ctxs.find w = none →
      exec (.ctxcmdDone vi) s = .next (s.updVi vi fun v => { v with ctxBusy := false, ctxResult := r, ctxNew := n })) ∧
    (∀ c, (s.vi vi).ctxs.find w = some c → c.dying = true → (∀ e ∈ (s.vi vi).ctxs, e.1 ≠ w → e.2.dying = false) → boundTo vi w s = [] →
      (∀ e ∈ s.chains, (chainOfKey e.1).vi = vi → (chainOfKey e.1).cid = w → e.2.cmds = []) → (∀ e ∈ s.chains, chainKey (chainOfKey e.1) = e.1) →
      (∀ e ∈ s.chains, s.chains.find e.1 = some e.2) →
      ∃ t, exec (.ctxcmdDone vi) s = .next t ∧ (t.vi vi).ctxs.find w = none ∧ (t.vi vi).ctxBusy = false ∧ (t.vi vi).ctxResult = r ∧
        (∀ e ∈ t.coreTlb ++ t.dieTlb, ∀ x ∈ e.2, ¬(x.vi = vi ∧ x.cid = w)) ∧ t.mem = s.mem)) ∧
  ∀ (s : State) (v : DWord) (c : Ctx), Managed s → let vi := v.toNat / 65536 % 128
    let cid := v.toNat / 256 % 256
    (s.vi vi).ctxs.find cid = some c → ∃ t, exec (.ctxprivWrite v) s = .next t ∧
      (t.vi vi).ctxs.find cid = some { c with priv := v.getLsbD 0 } ∧ (∀ j, j ≠ cid → (t.vi vi).ctxs.find j = (s.vi vi).ctxs.find j) ∧
      (∀ j, j ≠ vi → t.vi j = s.vi j) ∧ t.seqs = s.seqs ∧ t.mem = s.mem

/-- 03 R59 to R64, R67, R477: queues are enabled at QHEAD, given tickets and a tail, and disabled; the fault ring is set and consumed,
and the answer to a batch lets its agent go on, or trap. -/
def Obligations.QueuesAndAnswers : Prop :=
  (∀ (s : State) (vi q : Nat), Open s vi → q < 64 → let Q := queueOf s vi q
    (Q.en = false → ∃ t, exec (.queueEnable vi q) s = .next t ∧ (queueOf t vi q).en = true ∧ t.due = s.due ++ [.slateFetch vi q] ∧ t.mem = s.mem ∧
      (Q.inflight = [] → (queueOf t vi q).next = Q.qdone + 1 ∧
        (queueOf t vi q).linkOf = if Q.headN = Q.qdone + 1 then none else Q.addrs.find Q.qdone) ∧
      (Q.inflight ≠ [] → queueOf t vi q = { Q with en := true })) ∧
    (∃ t, exec (.queueDisable vi q) s = .next t ∧ queueOf t vi q = { Q with en := false, halt := false, err := 0, wordHalt := false } ∧ t.due = s.due ∧
      t.slates = s.slates ∧ t.seqs = s.seqs ∧ t.mem = s.mem) ∧
    (∀ n, ∃ t, exec (.queueTicketsWrite vi q n) s = .next t ∧ queueOf t vi q = { Q with tickets := max 1 (n % 65536) } ∧ t.mem = s.mem) ∧
    ∀ v : DWord, (v.toNat < Q.qtail.toNat → ∃ t, exec (.qtailWrite vi q v) s = .next t ∧ queueOf t vi q = { Q with tailerr := true } ∧ t.due = s.due) ∧
      (Q.qtail.toNat ≤ v.toNat → ∃ t, exec (.qtailWrite vi q v) s = .next t ∧ queueOf t vi q = { Q with qtail := v } ∧
        t.due = s.due ++ [.slateFetch vi q])) ∧
  (∀ (s : State) (vi : Nat) (v : DWord), Open s vi → (s.vi vi).ring.queue = [] → let r := (s.vi vi).ring
    (∃ t, exec (.fqbaseWrite vi v) s = .next t ∧ (t.vi vi).ring = { r with base := v, head := 0, tail := 0, ready := true } ∧ t.mem = s.mem) ∧
    (v.toNat % 16 ≤ 8 → ∃ t, exec (.fqsizeWrite vi v) s = .next t ∧ (t.vi vi).ring = { r with size := v.toNat % 16, head := 0, tail := 0 } ∧
      t.mem = s.mem) ∧
    (8 < v.toNat % 16 → ∃ t, exec (.fqsizeWrite vi v) s = .next t ∧ (t.vi vi).ring = { r with badcmd := true }) ∧
    ((v - r.head).toNat ≤ (r.tail - r.head).toNat → ∃ t, exec (.fqheadWrite vi v) s = .next t ∧ (t.vi vi).ring = { r with head := v } ∧
      t.mem = s.mem) ∧
    ((r.tail - r.head).toNat < (v - r.head).toNat → ∃ t, exec (.fqheadWrite vi v) s = .next t ∧ (t.vi vi).ring = { r with badcmd := true }) ∧
    ∃ t, exec (.fqreplayReserved vi v) s = .next t ∧ (t.vi vi).ring = { r with badcmd := true } ∧ t.seqs = s.seqs ∧ t.mem = s.mem) ∧
  (∀ (s : State) (vi tag k : Nat) (b : Batch), Open s vi → ((s.vi vi).ring.batches.find? fun b => b.tag = tag) = some b → b.src = .seq k →
    savedTag vi b.cid tag s = none → (s.seq k).wait = .batch tag → (s.seq k).vi = vi → (s.seq k).cid = b.cid → (s.seq k).peerRetry = [] →
    b.rolled = false →
    (∃ t, exec (.fqreplayRetry vi tag) s = .next t ∧ t.seq k = { s.seq k with wait := .run } ∧
      (∀ x ∈ (t.vi vi).ring.batches, x.tag ≠ tag) ∧ t.mem = s.mem) ∧
    (Handled (s.seq k) → ∃ t, exec (.fqreplayAbandon vi tag) s = .next t ∧ (t.seq k).wait = .run ∧ (t.seq k).pc = (s.seq k).n.tvec &&& ~~~3 ∧
      (t.seq k).n = { (s.seq k).n with
        rbk := false
        epc := (s.seq k).pc
        cause := 0x0B
        tval := BitVec.ofNat 64 tag
        intrap := true } ∧ (t.seq k).g = (s.seq k).g ∧
      (∀ x ∈ (t.vi vi).ring.batches, x.tag ≠ tag) ∧ t.mem = s.mem)) ∧
  (∀ (s : State) (vi tag q : Nat) (b : Batch), Open s vi → ((s.vi vi).ring.batches.find? fun b => b.tag = tag) = some b →
    (b.src = .queueFetch q → (∃ t, exec (.fqreplayRetry vi tag) s = .next t ∧ (queueOf t vi q).fetchWait = false ∧ .slateFetch vi q ∈ t.due) ∧
      ∃ t, exec (.fqreplayAbandon vi tag) s = .next t ∧ (queueOf t vi q).fetchWait = false ∧ (queueOf t vi q).halt = true ∧
        (queueOf t vi q).err = 4) ∧
    (b.src = .queueDone q → (∃ t, exec (.fqreplayRetry vi tag) s = .next t ∧ (queueOf t vi q).wordWait = false ∧
        .slateComplete (1024 + 64 * vi + q) ∈ t.due) ∧
      ∃ t, exec (.fqreplayAbandon vi tag) s = .next t ∧ (queueOf t vi q).halt = true ∧ (queueOf t vi q).err = 4)) ∧
  ∀ (s : State) (vi tag : Nat), (∀ b ∈ (s.vi vi).ring.batches, b.tag ≠ tag) →
    exec (.fqreplayRetry vi tag) s = .next s ∧ exec (.fqreplayAbandon vi tag) s = .next s

/-- 08 R189, R191, R193; 11 R265, R266: frames enter and leave compressed backing and the spill pool; the statistics line is set; a
debugger halts, runs, steps and dumps a sequencer of its interface's context. -/
def Obligations.CompressionAndDebug : Prop :=
  (∀ (s : State) (vi i : Nat), let pa := (s.vi vi).cbframe.toNat / 4096 * 4096
    Open s vi → (s.vi vi).cbBusy = false → i < (s.vi vi).cptsize → PoolPlain s vi i (pa / 4096) → s.Canonical → isMemory pa = true →
    s.frameOwner (pa / 4096) = vi → pa / 4096 < 2 ^ 40 →
    (bitsAt (poolWords s vi i).1 40 1 = 0 → tierEnabled pa s = true → ∃ t, exec (.cbcmdConvert vi i) s = .next t ∧
      (t.vi vi).cbBusy = true ∧ (t.vi vi).cbPend = 0 ∧ t.converted.find (pa / 4096) = some vi ∧ .cbcmdDone vi ∈ t.due ∧
      poolWords t vi i = (pa / 4096 + 2 ^ 40, 0xFFFFFF00) ∧ ∀ x, x / 32 = pa / 4096 → t.homes.find x = none) ∧
    (bitsAt (poolWords s vi i).1 40 1 = 0 → s.converted.find (pa / 4096) = none →
      (∀ j, j < (s.vi vi).cptsize → bitsAt (s.peekField ((s.vi vi).cptbase.toNat + 16 * j) 8) 40 1 = 1 →
        s.peekField ((s.vi vi).cptbase.toNat + 16 * j) 8 % 2 ^ 40 ≠ pa / 4096) →
      ∃ t, exec (.cbcmdGrant vi i) s = .next t ∧ (t.vi vi).cbBusy = true ∧ (t.vi vi).cbPend = 0 ∧ .cbcmdDone vi ∈ t.due ∧
        poolWords t vi i = (pa / 4096 + 2 ^ 40 + 2 ^ 41, if i = 0 then 0xFFFFFFFE else 0xFFFFFFFF) ∧
        ∀ x, x / 32 = pa / 4096 → t.homes.find x = none)) ∧
  (∀ (s : State) (vi i : Nat) (grant : Bool), let f := (poolWords s vi i).1 % 2 ^ 40
    Open s vi → (s.vi vi).cbBusy = false → i < (s.vi vi).cptsize → PoolPlain s vi i f → s.Canonical → isMemory (4096 * f) = true →
    s.frameOwner f = vi → (s.converted.find f).isSome = !grant →
    bitsAt (poolWords s vi i).1 40 1 = 1 → bitsAt (poolWords s vi i).1 41 1 = (if grant then 1 else 0) →
    (poolWords s vi i).2 = (if grant then (if i = 0 then 0xFFFFFFFE else 0xFFFFFFFF) else 0xFFFFFF00) →
    ∃ t, exec (.cbcmdRelease vi i) s = .next t ∧ (t.vi vi).cbBusy = true ∧ (t.vi vi).cbPend = 0 ∧ .cbcmdDone vi ∈ t.due ∧
      (poolWords t vi i).1 = (poolWords s vi i).1 - 2 ^ 40 ∧
      (grant = false → t.converted.find ((poolWords s vi i).1 % 2 ^ 40) = none)) ∧
  (∀ (s : State) (vi : Nat), (Open s vi → exec (.cbcmdNone vi) s = .next (s.updVi vi fun v => { v with cbOverrun := true })) ∧
    ((s.vi vi).cbBusy = true → exec (.cbcmdDone vi) s = .next (s.updVi vi fun v => { v with cbBusy := false, cbResult := v.cbPend })) ∧
    ∀ v : DWord, Open s vi → (v = 0 ∨ (v.toNat % 128 = 0 ∧ isMemory v.toNat = true ∧ s.frameOwner (v.toNat / 4096) = vi) →
        exec (.cstataddrWrite vi v) s = .next (s.updVi vi fun x => { x with cstat := v })) ∧
      (v ≠ 0 → v.toNat % 128 ≠ 0 ∨ isMemory v.toNat = false ∨ s.frameOwner (v.toNat / 4096) ≠ vi → exec (.cstataddrWrite vi v) s = .next s)) ∧
  ∀ (s : State) (vi : Nat) (b : Binding), let sel := (s.vi vi).dbgsel.toNat
    let k := sel / 2 ^ 32 % 8192
    let cid := sel / 256 % 256
    Open s vi → ((s.vi vi).ctxs.find cid).isSome = true → (s.seq k).bound = some b → b.vi = vi → b.cid = cid →
    let said (t : State) : State := t.updVi vi fun v => { v with dbgResult := 0 }
    ((s.seq k).preempt = none ∨ (s.seq k).strip = none →
      exec (.dbgcmdHalt vi) s = .next (said (s.upd k fun q => { q with halted := true, stepReq := 0 }))) ∧
    exec (.dbgcmdRun vi) s = .next (said (s.upd k fun q => { q with halted := false, stepReq := 0 })) ∧
    ((s.seq k).halted = true → exec (.dbgcmdStep vi) s = .next (said (s.upd k fun q => { q with halted := false, stepReq := 1 })) ∧
      exec (.dbgcmdStepGroup vi) s = .next (said (s.upd k fun q => { q with halted := false, stepReq := 2 }))) ∧
    ∀ a, a = (s.vi vi).dbgbuf.toNat / 4096 * 4096 → ownBytes vi a (11 * 4096) s = true → BytesPlain s a (11 * 4096) → s.Canonical → s.mgmt.heatEn = false →
      ∃ t, exec (.dbgcmdDump vi) s = .next t ∧ t.seqs = s.seqs ∧ t.mem.read a 4 = 1 ∧ t.mem.read (a + 8) 8 = (s.seq k).pc.toNat ∧
        (∀ i, 0 < i → i < 32 → t.mem.read (a + 0x20 + 8 * i) 8 = ((s.seq k).gRead i).toNat) ∧
        ∀ x, x < a ∨ a + 11 * 4096 ≤ x → t.mem.byte x = s.mem.byte x

/-- 00 R5; 03 R50, R55; 07 R175; 08 R187: a read that clears a count returns it first; a register keeps what is written to its
fields, and one that has an effect of its own has it. -/
def Obligations.RegisterWindows : Prop :=
  (∀ (i : Instr) (s : State) (d : Nat) (f : Die → Nat) (c : Die → Die), readAndClear i = some (d, f, c) → d < 4 → Managed s →
    ∃ t, exec i s = .next t ∧ t.hostVal.find 0 = some (BitVec.ofNat 64 (f (s.die d))) ∧ t.die d = c (s.die d) ∧
      (∀ j, j ≠ d → t.die j = s.die j) ∧ t.mem = s.mem ∧ t.seqs = s.seqs ∧ t.vis = s.vis) ∧
  (∀ (s : State) (vi : Nat), Open s vi → ∃ t, exec (.fqstatRead vi) s = .next t ∧
    t.hostVal.find 0 = some (BitVec.ofNat 64 ((if (s.vi vi).ring.badcmd then 1 else 0) + (s.vi vi).ring.waits * 2 ^ 32)) ∧
    t.vi vi = { s.vi vi with ring := { (s.vi vi).ring with waits := 0 } } ∧ t.mem = s.mem ∧ t.seqs = s.seqs) ∧
  (∀ s : State, Managed s → ∃ t, exec .owncmdRead s = .next t ∧ t.mgmt = { s.mgmt with ownOverrun := false } ∧ t.mem = s.mem ∧
    t.hostVal.find 0 = some (BitVec.ofNat 64 ((if s.mgmt.ownBusy then 2 ^ 63 else 0) + (if s.mgmt.ownOverrun then 2 ^ 62 else 0) +
      s.mgmt.ownResult * 2 ^ 60 + s.mgmt.ownOwner * 2 ^ 40 + s.mgmt.ownCount))) ∧
  (∀ (s : State) (o : Nat) (v : DWord), Managed s →
    (∀ f, keepMgmt o v = some f → exec (.registerWrite .pf o v) s = .next { s with mgmt := f s.mgmt }) ∧
    (∀ vi f, Open s vi → keepVi o v = some f → exec (.registerWrite (.vi vi) o v) s = .next (s.updVi vi f))) ∧
  ∀ (s : State) (vi : Nat) (v : DWord), Managed s → Open s vi →
    (∀ e ∈ [(0x100, Instr.errorWindowWrite v), (0x108, .modbudgetWrite v), (0x128, .fwcmdInstall v), (0x180, .linkctlRetrain (v.setWidth 12)),
      (0x208, .owncmdWrite v), (0x308, .heatctlWrite v), (0x318, .tlbpinwaitWrite v), (0x320, .preemptdlWrite v), (0x600, .ctxprivWrite v),
      (0x168, .attcmdRequest .pf v)], exec (.registerWrite .pf e.1 v) s = exec e.2 s) ∧
    ∀ e ∈ [(0x1000, Instr.fqbaseWrite vi v), (0x1008, .fqsizeWrite vi v), (0x1010, .fqheadWrite vi v), (0x3028, .attcmdRequest (.vi vi) v),
      (0x20110, .cstataddrWrite vi v), (0x10010, .qtailWrite vi 0 v)], exec (.registerWrite (.vi vi) e.1 v) s = exec e.2 s

/-- 04 R97; 05 R121: TLBPINWAIT and PREEMPTDL read 100,000 at reset; a write gives their 32 bits, below 1,000 it gives 1,000, and it
changes nothing else. -/
def Obligations.LimitRegisters : Prop :=
  State.reset.reg .pf 0x318 = 100000 ∧ State.reset.reg .pf 0x320 = 100000 ∧
  ∀ (s : State) (v : DWord), Managed s →
    let x := max 1000 (v.toNat % 2 ^ 32)
    let p : State := { s with mgmt := { s.mgmt with tlbpinwait := x } }
    let d : State := { s with mgmt := { s.mgmt with preemptdl := x } }
    (exec (.registerWrite .pf 0x318 v) s = .next p ∧ p.reg .pf 0x318 = BitVec.ofNat 64 x) ∧
    (exec (.registerWrite .pf 0x320 v) s = .next d ∧ d.reg .pf 0x320 = BitVec.ofNat 64 x)

/-- 05 R113, R114, R119, R120, R123, R124; 06 R145; 19 R425, R428 to R435; 03 R53 to R67; 05 R116; 11 R246; 01 R26 to R30; 02 R34;
04 R95, R102: the work of the scheduler, the engines, the interfaces and the physical function completes, each with its own effect,
wherever what it needs is there: every state that meets the named conditions answers a next state. -/
def Obligations.WorkCompletes : Prop :=
  ((∀ (s : State) (d : Nat), d < 4 → (s.die d).fenced = false →
    ∃ t, exec (.heartbeatMiss d) s = .next t ∧ (t.die d).fenced = true ∧ t.mgmt.elect = true) ∧
  (∀ (s : State) (d : Nat), d < 4 → (s.die d).fenced = true → (s.die d).reissued = false →
    (∀ e ∈ s.seqs, e.1 / 2048 = d → e.2.bound = none) → ∃ t, exec (.fencedDieReissue d) s = .next t ∧ (t.die d).reissued = true) ∧
  (∀ (s : State) (d row outer count saved : Nat), let k := 2048 * d + row
    d < 4 → row < 2048 → takesWork k s = true → (rowOf k s).length < 4 → (∀ v ∈ s.vis, ∀ Q ∈ v.2.queues, Q.1 < 64) →
    (∃ v ∈ s.vis, ∃ Q ∈ v.2.queues, (nextBind v.1 Q.1 k outer count saved s).isSome = true) →
    ∃ t e, exec (.bind d row outer count saved) s = .next t ∧ rowOf k t = rowOf k s ++ [e] ∧ .dispatchStart k ∈ t.due) ∧
  (∀ (s : State) (k : Agent) (e : CallEntry) (es : List CallEntry) (sl : Slate), (s.seq k).bound = none → takesWork k s = true →
    rowOf k s = e :: es → s.slates.find e.work.slot = some sl → sl.abandoned = false → e.valid = true → e.resume = false →
    ∃ t, exec (.dispatchStart k) s = .next t ∧ (t.seq k).bound = some e.work ∧ (t.seq k).pc = sl.pc ∧ (t.seq k).gRead 1 = sl.arg) ∧
  (∀ (s : State) (k : Agent) (e : CallEntry) (es : List CallEntry) (c : Ctx) (sl : Slate) (x : SavedCtx), (s.seq k).bound = none →
    takesWork k s = true → rowOf k s = e :: es → e.resume = true → (s.vi e.work.vi).ctxs.find e.work.cid = some c →
    s.slates.find e.work.slot = some sl → (c.saved.find? fun y => y.work = e.work) = some x → x.tag = none →
    ∃ t, exec (.contextResume k) s = .next t ∧ (t.seq k).bound = some e.work ∧ (t.seq k).wait = .run ∧ (t.seq k).n.priv = c.priv) ∧
  (∀ (s : State) (k : Agent), (s.seq k).bound.isSome = true → (s.seq k).strip = none →
    ∃ t, exec (.preemptRequest k) s = .next t ∧ (t.seq k).preempt = some ((s.seq k).preempt.getD s.cycle) ∧ .contextSave k ∈ t.due) ∧
  (∀ (s : State) (k : Agent) (b : Binding) (c : Ctx), (s.seq k).preempt.isSome = true → (s.seq k).saveReady = true →
    (s.seq k).bound = some b → (s.vi b.vi).ctxs.find b.cid = some c → c.dying = false → slotOwned b.vi c b.saveSlot s = true →
    ∃ t, exec (.contextSave k) s = .next t ∧ (t.seq k).bound = none ∧ (t.seq k).n.claim = 0) ∧
  (∀ (s : State) (k : Agent) (st : Strip), (s.seq k).forceDue s = true → (s.seq k).strip = some st → (s.seq k).commit = none →
    ∃ t, exec (.forcedPreempt k) s = .next t ∧ (t.seq k).strip = none ∧ (t.seq k).pc = st.ckpt.pc ∧ (t.seq k).forced = true) ∧
  ∀ (s : State) (k h : Agent) (i : Inval), (s.seq k).inval = some i → h ∈ i.holders → i.since + s.mgmt.tlbpinwait ≤ s.cycle →
    (s.seq h).bound.isSome = true → (s.seq h).pinsNamed i = true →
    ∃ t, exec (.tlbpinwaitExpiry k h) s = .next t ∧ (t.seq h).preempt = some ((s.seq h).preempt.getD s.cycle) ∧ .forcedPreempt h ∈ t.due) ∧
  ((∀ (s : State) (c : ChainId) (x : Cmd), s.headCmd c = some x → x.phase = .segment → x.stop = false → x.front = [] → x.run c = none →
    ∃ t y, exec (.engineSegmentIssue c) s = .next t ∧ t.headCmd c = some y ∧ y.phase = .operate) ∧
  (∀ (s : State) (c : ChainId) (x : Cmd) (r : Run), x.owned = [] → x.run c = some r → r.total ≤ x.pos →
    (Operating s c x 0 0 → ∃ t y, exec (.dollyCopy c) s = .next t ∧ t.headCmd c = some y ∧ y.status = some 0 ∧ .commandComplete c ∈ t.due) ∧
    (Operating s c x 0 1 → ∃ t y, exec (.dollyFill c) s = .next t ∧ t.headCmd c = some y ∧ y.status = some 0 ∧ .commandComplete c ∈ t.due) ∧
    (Operating s c x 0 2 → ∃ t y, exec (.dollyCopym c) s = .next t ∧ t.headCmd c = some y ∧ y.phase = .follow ∧ .followOnMatrix c ∈ t.due) ∧
    (Operating s c x 3 0 → ∃ t y, exec (.collPut c) s = .next t ∧ t.headCmd c = some y ∧ y.status = some 0 ∧ .commandComplete c ∈ t.due) ∧
    (Operating s c x 3 1 → ∃ t y, exec (.collReduce c) s = .next t ∧ t.headCmd c = some y ∧ y.status = some 0 ∧ .commandComplete c ∈ t.due)) ∧
  (∀ (s : State) (c : ChainId) (x : Cmd) (op : Nat), x.owned = [] → x.field 12 4 ≤ x.unit → x.row = none → x.data = none →
    (Operating s c x 1 op → ∃ t y, exec (.castDispatch c) s = .next t ∧ t.headCmd c = some y ∧ y.status = some 0 ∧ .commandComplete c ∈ t.due) ∧
    (Operating s c x 2 op → ∃ t y, exec (.mixCombine c) s = .next t ∧ t.headCmd c = some y ∧ y.status = some 0 ∧ .commandComplete c ∈ t.due) ∧
    (Operating s c x 4 op → ∃ t y, exec (.dailiesDelta c) s = .next t ∧ t.headCmd c = some y ∧ y.status = some 0 ∧ .commandComplete c ∈ t.due)) ∧
  ∀ (s : State) (c : ChainId) (x : Cmd), Operating s c x 3 2 → x.owned = [] → peerEnabled c.vi s = true → 2 ^ 63 ≤ x.field 24 8 →
    x.field 24 8 % 128 ≤ 120 → reachable (2 ^ 51 + x.field 24 8 % 2 ^ 51) s = true →
    ∃ t y, exec (.collSignal c) s = .next t ∧ t.headCmd c = some y ∧ y.status = some 0 ∧ .commandComplete c ∈ t.due) ∧
  ((∀ (s : State) (vi : Nat), vi < 128 → Managed s →
    ((s.vi vi).en = false → (s.vi vi).busy = false → portOf vi s ≠ .absent →
      ∃ t, exec (.victlEnable vi) s = .next t ∧ (t.vi vi).en = true ∧ (t.vi vi).ring.ready = false) ∧
    ((s.vi vi).en = true → (s.vi vi).busy = false →
      ∃ t, exec (.victlDisable vi) s = .next t ∧ (t.vi vi).busy = true ∧ .ctxcmdDone vi ∈ t.due) ∧
    ∀ v : DWord, ∃ t, exec (.viticketsWrite vi v) s = .next t ∧ (t.vi vi).tickets = v.toNat % 65536) ∧
  (∀ (s : State) (vi : Nat), (s.vi vi).busy = true → (s.vi vi).ctxs = [] →
    ∃ t, exec (.victlDisableDone vi) s = .next t ∧ (t.vi vi).en = false ∧ (t.vi vi).busy = false) ∧
  (∀ (s : State) (vi k : Nat) (v : DWord), vi < 128 → k < 8 → Managed s → (s.vi vi).hrBase.length = 8 → (s.vi vi).hrSize.length = 8 →
    (∃ t, exec (.hostRangeWrite vi k false v) s = .next t ∧
      (t.vi vi).hrBase.getD k 0 = BitVec.ofNat 64 (v.toNat % 2 ^ 52 / 4096 * 4096) ∧ (t.vi vi).hrBusy = true) ∧
    ∃ t, exec (.hostRangeWrite vi k true v) s = .next t ∧
      (t.vi vi).hrSize.getD k 0 = BitVec.ofNat 64 (v.toNat / 4096 * 4096) ∧ (t.vi vi).hrBusy = true) ∧
  (∀ (s : State) (vi : Nat), (s.vi vi).hrBusy = true → pinned (fun e => decide (e.vi = vi)) s = false →
    ∃ t, exec (.hostRangeInvalidateDone vi) s = .next t ∧ (t.vi vi).hrBusy = false) ∧
  (∀ (s : State) (vi id : Nat) (c : Ctx), Open s vi → (s.vi vi).ctxBusy = false → readDescriptor vi s = (0, id, some c) →
    ∃ t, exec (.ctxcmdCreate vi) s = .next t ∧ (t.vi vi).ctxs.find id = some c ∧ (t.vi vi).ctxPend = (0, id, 0) ∧ (t.vi vi).ctxBusy = true) ∧
  (∀ (s : State) (vi cid : Nat) (c : Ctx), Open s vi → (s.vi vi).ctxBusy = false → (s.vi vi).ctxs.find cid = some c →
    (∀ e ∈ (s.vi vi).queues, e.2.ctx ≠ cid) →
    ∃ t c1, exec (.ctxcmdDestroy vi cid) s = .next t ∧ (t.vi vi).ctxPend = (0, 0, cid) ∧ (t.vi vi).ctxBusy = true ∧
      (t.vi vi).ctxs.find cid = some c1 ∧ c1.dying = true) ∧
  (∀ (s : State) (vi r n w : Nat), (s.vi vi).ctxBusy = true → (s.vi vi).ctxPend = (r, n, w) → (∀ e ∈ (s.vi vi).ctxs, e.2.dying = false) →
    (s.vi vi).ctxs.find w = none →
    ∃ t, exec (.ctxcmdDone vi) s = .next t ∧ (t.vi vi).ctxBusy = false ∧ (t.vi vi).ctxResult = r ∧ (t.vi vi).ctxNew = n) ∧
  ∀ (s : State) (v : DWord) (c : Ctx), Managed s → let vi := v.toNat / 65536 % 128
    let cid := v.toNat / 256 % 256
    (s.vi vi).ctxs.find cid = some c →
    ∃ t, exec (.ctxprivWrite v) s = .next t ∧ (t.vi vi).ctxs.find cid = some { c with priv := v.getLsbD 0 }) ∧
  ((∀ (s : State) (vi q : Nat), Open s vi → q < 64 →
    ((queueOf s vi q).en = false → ∃ t, exec (.queueEnable vi q) s = .next t ∧ (queueOf t vi q).en = true ∧ .slateFetch vi q ∈ t.due) ∧
    (∃ t, exec (.queueDisable vi q) s = .next t ∧ (queueOf t vi q).en = false ∧ (queueOf t vi q).halt = false) ∧
    (∀ n, ∃ t, exec (.queueTicketsWrite vi q n) s = .next t ∧ (queueOf t vi q).tickets = max 1 (n % 65536)) ∧
    ∀ v : DWord, (queueOf s vi q).qtail.toNat ≤ v.toNat →
      ∃ t, exec (.qtailWrite vi q v) s = .next t ∧ (queueOf t vi q).qtail = v ∧ .slateFetch vi q ∈ t.due) ∧
  (∀ (s : State) (vi : Nat) (v : DWord), Open s vi →
    (∃ t, exec (.fqreplayReserved vi v) s = .next t ∧ (t.vi vi).ring.badcmd = true) ∧
    ((s.vi vi).ring.queue = [] →
      (∃ t, exec (.fqbaseWrite vi v) s = .next t ∧ (t.vi vi).ring.base = v ∧ (t.vi vi).ring.head = 0 ∧ (t.vi vi).ring.tail = 0) ∧
      (v.toNat % 16 ≤ 8 → ∃ t, exec (.fqsizeWrite vi v) s = .next t ∧ (t.vi vi).ring.size = v.toNat % 16 ∧ (t.vi vi).ring.tail = 0) ∧
      ((v - (s.vi vi).ring.head).toNat ≤ ((s.vi vi).ring.tail - (s.vi vi).ring.head).toNat →
        ∃ t, exec (.fqheadWrite vi v) s = .next t ∧ (t.vi vi).ring.head = v))) ∧
  ∀ (s : State) (vi tag k : Nat) (b : Batch), Open s vi → ((s.vi vi).ring.batches.find? fun b => b.tag = tag) = some b → b.src = .seq k →
    savedTag vi b.cid tag s = none → (s.seq k).wait = .batch tag → (s.seq k).vi = vi → (s.seq k).cid = b.cid → (s.seq k).peerRetry = [] →
    b.rolled = false →
    (∃ t, exec (.fqreplayRetry vi tag) s = .next t ∧ (t.seq k).wait = .run ∧ (t.seq k).pc = (s.seq k).pc) ∧
    (Handled (s.seq k) → ∃ t, exec (.fqreplayAbandon vi tag) s = .next t ∧ (t.seq k).pc = (s.seq k).n.tvec &&& ~~~3 ∧
      (t.seq k).n.cause = 0x0B)) ∧
  (∀ (s : State) (v : DWord), Managed s → v.toNat / 2 ^ 60 = 1 → s.mgmt.fwBusy = false →
    ∃ t, exec (.fwcmdInstall v) s = .next t ∧ t.mgmt.fwBusy = true ∧ t.mgmt.fwLen = v.toNat % 2 ^ 32) ∧
  (∀ (s : State) (flash : Nat) (i : List Byte), s.mgmt.fwBusy = true → s.mgmt.fwCopy = some i →
    ∃ t, exec (.fwUpdateDone flash) s = .next t ∧ t.mgmt.fwBusy = false ∧ t.mgmt.fwResult = imageResult i flash ∧
      t.nextImage = if imageResult i flash = 0 then some i else s.nextImage) ∧
  (∀ s : State, s.recovery = true → s.pfPresent = true → s.mgmt.recBusy = false →
    ∃ t, exec (.reccmdRecovery 1) s = .next t ∧ t.mgmt.recBusy = true) ∧
  (∀ (s : State) (flash : Nat), s.mgmt.recBusy = true → ∃ t, exec (.recoveryDone flash) s = .next t ∧ t.mgmt.recBusy = false) ∧
  (∀ (s : State) (n : Nat), Open s n → (s.attest (.vi n)).busy = false → (s.attest (.vi n)).buf.toNat % 64 = 0 →
    ownBytes n (s.attest (.vi n)).buf.toNat 29920 s = true →
    ∃ t, exec (.attcmdRequest (.vi n) 1) s = .next t ∧ t.attQueue = s.attQueue ++ [.vi n] ∧ (t.attest (.vi n)).busy = true) ∧
  (∀ (s : State) (who : RingId) (rest : List RingId), s.attQueue = who :: rest →
    ∃ t, exec .attestationSigned s = .next t ∧ (t.attest who).busy = false ∧ (t.attest who).result = 0) ∧
  (∀ (s : State) (v : DWord) (f : Nat), Managed s → s.mgmt.ownBusy = false → let n := v.toNat % 2 ^ 21
    1 ≤ n → n ≤ 2 ^ 20 → isMemory (4096 * s.mgmt.ownset) = true →
    tierOf (4096 * s.mgmt.ownset) = tierOf (4096 * (s.mgmt.ownset + n - 1)) → s.mgmt.ownset ≤ f → f < s.mgmt.ownset + n →
    ∃ t, exec (.owncmdWrite v) s = .next t ∧ t.mgmt.ownBusy = true ∧ t.owners.getD f 0 = v.toNat / 2 ^ 40 % 256) ∧
  (∀ s : State, s.mgmt.ownBusy = true → pinned (fun e => e.maps s.mgmt.ownset s.mgmt.ownCount) s = false →
    ∃ t, exec .owncmdDone s = .next t ∧ t.mgmt.ownBusy = false) ∧
  (∀ (s : State) (kind cid detail pc : Nat), ∃ t e, exec (.eventPost .pf kind cid detail pc) s = .next t ∧ t.mgmt.events = s.mgmt.events ++ [e]) ∧
  ∀ (s : State) (vi k cid pc number : Nat) (es : List FaultEntry) (w : Bool), (s.vi vi).en = true → (s.vi vi).ring.ready = true →
    (s.vi vi).ring.queue = [{ post := .batch (.seq k) cid pc number es, waited := w }] → (s.seq k).wait = .posting → (s.seq k).strip = none →
    (inRecords es).length ≤ (s.vi vi).ring.room → slotSnoops vi (inRecords es).length s = [] →
    ∃ t tag, exec (.faultBatchPost vi) s = .next t ∧ (t.seq k).wait = .batch tag ∧
      ∃ b ∈ (t.vi vi).ring.batches, b.tag = tag ∧ b.src = .seq k
end

