-- ==== Sys2Proof/Laws/Encoding.lean ====
section
/-!
SUPPORT. Small facts about decoding: the fields of a word built by a format of spec/13_encoding.md R292, the bits a mask
keeps, and when a word decodes to a given instruction (R301).
-/
namespace Sys2Proof.Laws

/-- A mask of one run of bits keeps that field. -/
theorem land_run (w lo n : Nat) : w &&& ((2 ^ n - 1) * 2 ^ lo) = w / 2 ^ lo % 2 ^ n * 2 ^ lo := by
  rw [← Nat.shiftRight_eq_div_pow, ← Nat.and_two_pow_sub_one_eq_mod]
  apply Nat.eq_of_testBit_eq
  intro i
  rw [Nat.testBit_and, Nat.testBit_mul_two_pow, Nat.testBit_mul_two_pow, Nat.testBit_and, Nat.testBit_shiftRight]
  by_cases hi : lo ≤ i <;> simp [hi]

/-- A field read back. -/
theorem fld_eq {n : Nat} (w lo : Nat) (x : BitVec n) (h : w / 2 ^ lo % 2 ^ n = x.toNat) : fld w lo = x :=
  BitVec.eq_of_toNat_eq (by rw [fld, BitVec.toNat_ofNat, h])

/-- The lowest field read back. -/
theorem fld_low {n : Nat} (w : Nat) (x : BitVec n) (h : w % 2 ^ n = x.toNat) : fld w 0 = x :=
  fld_eq w 0 x (by simpa using h)

/-- A field inside the lowest one. -/
theorem fld_sub {n : Nat} (w m y : Nat) (x : BitVec n) (lo : Nat) (h : w % 2 ^ m = y) (hm : lo + n ≤ m)
    (hx : y / 2 ^ lo % 2 ^ n = x.toNat) : fld w lo = x := by
  apply fld_eq
  rw [← hx, ← h]
  apply Nat.eq_of_testBit_eq
  intro i
  rw [Nat.testBit_mod_two_pow, Nat.testBit_mod_two_pow, ← Nat.shiftRight_eq_div_pow, ← Nat.shiftRight_eq_div_pow,
    Nat.testBit_shiftRight, Nat.testBit_shiftRight, Nat.testBit_mod_two_pow]
  by_cases hi : i < n
  · simp [hi, show lo + i < m by omega]
  · simp [hi]

/-- A run inside the lowest field. -/
theorem run_sub (w m y lo n : Nat) (h : w % 2 ^ m = y) (hm : lo + n ≤ m) : w / 2 ^ lo % 2 ^ n = y / 2 ^ lo % 2 ^ n := by
  rw [← h]
  apply Nat.eq_of_testBit_eq
  intro i
  rw [Nat.testBit_mod_two_pow, Nat.testBit_mod_two_pow, ← Nat.shiftRight_eq_div_pow, ← Nat.shiftRight_eq_div_pow,
    Nat.testBit_shiftRight, Nat.testBit_shiftRight, Nat.testBit_mod_two_pow]
  by_cases hi : i < n
  · simp [hi, show lo + i < m by omega]
  · simp [hi]

/-- The reserved bits of a primary that has one entry. -/
theorem reservedBits_at {w : Nat} (op : Nat) (h : w / 2 ^ 24 = op) (hne : op ≠ 0xEF) : reservedBits w = reservedMask op := by
  unfold reservedBits
  rw [h, if_neg (fun x => hne x.1)]

/-- A word whose fields are those of `i`, and whose fixed bits are as its entry fixes them, decodes to `i` (R301). -/
theorem decode_word {w op : Nat} {i : Instr} (h24 : w / 2 ^ 24 = op) (hf : fieldsOf w = some (.inl i))
    (hfix : w &&& fnFixed op = 0) (hfn : i.fnAssigned = true) (hres : w &&& reservedBits w = reservedValue op)
    (hz : i.reservedZero = true) (h5f : op = 0x5F → w % 2 ^ 19 = 0) : decodeWord w = .instr i := by
  subst h24
  unfold decodeWord
  rw [hf]
  simp only [fnOk, fieldsZero, hfix, hfn, hres, hz]
  simp
  exact h5f

/-- The same for a row of the last primaries. -/
theorem decode_last {w op : Nat} {r : LastRow} (h24 : w / 2 ^ 24 = op) (hf : fieldsOf w = some (.inr r))
    (hfix : w &&& fnFixed op = 0) (hfn : fnOk (.inr r) = true) (hres : w &&& reservedBits w = reservedValue op)
    (h5f : op ≠ 0x5F) : decodeWord w = .last r := by
  subst h24
  unfold decodeWord
  rw [hf]
  simp only [hfix, hfn, hres, fieldsZero]
  simp
  exact fun h => absurd h h5f

/-- The bytes of a word give it back (R291). -/
theorem wordOfBytes_bytesOfWord (w : Nat) (h : w < 2 ^ 32) :
    wordOfBytes (BitVec.ofNat 8 w) (BitVec.ofNat 8 (w / 2 ^ 8)) (BitVec.ofNat 8 (w / 2 ^ 16)) (BitVec.ofNat 8 (w / 2 ^ 24)) = w := by
  simp only [wordOfBytes, BitVec.toNat_ofNat]
  omega

theorem fieldsOf_0 {w : Nat} (l : Nat) (hh : w / 2 ^ 28 % 16 = 0) (hl : w / 2 ^ 24 % 16 = l) : fieldsOf w = fields0 w l := by
  unfold fieldsOf; rw [hh, hl]; rfl
theorem fieldsOf_1 {w : Nat} (l : Nat) (hh : w / 2 ^ 28 % 16 = 1) (hl : w / 2 ^ 24 % 16 = l) : fieldsOf w = fields1 w l := by
  unfold fieldsOf; rw [hh, hl]; rfl
theorem fieldsOf_2 {w : Nat} (l : Nat) (hh : w / 2 ^ 28 % 16 = 2) (hl : w / 2 ^ 24 % 16 = l) : fieldsOf w = fields2 w l := by
  unfold fieldsOf; rw [hh, hl]; rfl
theorem fieldsOf_3 {w : Nat} (l : Nat) (hh : w / 2 ^ 28 % 16 = 3) (hl : w / 2 ^ 24 % 16 = l) : fieldsOf w = fields3 w l := by
  unfold fieldsOf; rw [hh, hl]; rfl
theorem fieldsOf_4 {w : Nat} (l : Nat) (hh : w / 2 ^ 28 % 16 = 4) (hl : w / 2 ^ 24 % 16 = l) : fieldsOf w = fields4 w l := by
  unfold fieldsOf; rw [hh, hl]; rfl
theorem fieldsOf_5 {w : Nat} (l : Nat) (hh : w / 2 ^ 28 % 16 = 5) (hl : w / 2 ^ 24 % 16 = l) : fieldsOf w = fields5 w l := by
  unfold fieldsOf; rw [hh, hl]; rfl
theorem fieldsOf_6 {w : Nat} (l : Nat) (hh : w / 2 ^ 28 % 16 = 6) (hl : w / 2 ^ 24 % 16 = l) : fieldsOf w = fields6 w l := by
  unfold fieldsOf; rw [hh, hl]; rfl
theorem fieldsOf_7 {w : Nat} (l : Nat) (hh : w / 2 ^ 28 % 16 = 7) (hl : w / 2 ^ 24 % 16 = l) : fieldsOf w = fields7 w l := by
  unfold fieldsOf; rw [hh, hl]; rfl
theorem fieldsOf_8 {w : Nat} (l : Nat) (hh : w / 2 ^ 28 % 16 = 8) (hl : w / 2 ^ 24 % 16 = l) : fieldsOf w = fields8 w l := by
  unfold fieldsOf; rw [hh, hl]; rfl
theorem fieldsOf_9 {w : Nat} (l : Nat) (hh : w / 2 ^ 28 % 16 = 9) (hl : w / 2 ^ 24 % 16 = l) : fieldsOf w = fields9 w l := by
  unfold fieldsOf; rw [hh, hl]; rfl
theorem fieldsOf_A {w : Nat} (l : Nat) (hh : w / 2 ^ 28 % 16 = 10) (hl : w / 2 ^ 24 % 16 = l) : fieldsOf w = fieldsA w l := by
  unfold fieldsOf; rw [hh, hl]; rfl
theorem fieldsOf_B {w : Nat} (l : Nat) (hh : w / 2 ^ 28 % 16 = 11) (hl : w / 2 ^ 24 % 16 = l) : fieldsOf w = fieldsB w l := by
  unfold fieldsOf; rw [hh, hl]; rfl
theorem fieldsOf_C {w : Nat} (l : Nat) (hh : w / 2 ^ 28 % 16 = 12) (hl : w / 2 ^ 24 % 16 = l) : fieldsOf w = fieldsC w l := by
  unfold fieldsOf; rw [hh, hl]; rfl
theorem fieldsOf_D {w : Nat} (l : Nat) (hh : w / 2 ^ 28 % 16 = 13) (hl : w / 2 ^ 24 % 16 = l) : fieldsOf w = fieldsD w l := by
  unfold fieldsOf; rw [hh, hl]; rfl
theorem fieldsOf_E {w : Nat} (l : Nat) (hh : w / 2 ^ 28 % 16 = 14) (hl : w / 2 ^ 24 % 16 = l) : fieldsOf w = fieldsE w l := by
  unfold fieldsOf; rw [hh, hl]; rfl
theorem fieldsOf_F {w : Nat} (l : Nat) (hh : w / 2 ^ 28 % 16 = 15) (hl : w / 2 ^ 24 % 16 = l) : fieldsOf w = fieldsF w l := by
  unfold fieldsOf; rw [hh, hl]; rfl

theorem rrr_word {w op x0 x1 x2 x3 x4 x5 : Nat} (h : encRRR op x0 x1 x2 x3 x4 x5 = w) (hx0 : x0 < 2 ^ 5) (hx1 : x1 < 2 ^ 5) (hx2 : x2 < 2 ^ 5) (hx3 : x3 < 2 ^ 1) (hx4 : x4 < 2 ^ 1) (hx5 : x5 < 2 ^ 7) :
    w / 2 ^ 24 = op ∧ w / 2 ^ 28 % 16 = op / 16 % 16 ∧ w / 2 ^ 24 % 16 = op % 16 ∧ w / 2 ^ 19 % 2 ^ 5 = x0 ∧ w / 2 ^ 14 % 2 ^ 5 = x1 ∧ w / 2 ^ 9 % 2 ^ 5 = x2 ∧ w / 2 ^ 8 % 2 ^ 1 = x3 ∧ w / 2 ^ 7 % 2 ^ 1 = x4 ∧ w % 2 ^ 7 = x5 := by
  unfold encRRR at h
  refine ⟨?_, ?_, ?_, ?_, ?_, ?_, ?_, ?_, ?_⟩ <;> omega

theorem rrrr_word {w op x0 x1 x2 x3 x4 x5 : Nat} (h : encRRRR op x0 x1 x2 x3 x4 x5 = w) (hx0 : x0 < 2 ^ 5) (hx1 : x1 < 2 ^ 5) (hx2 : x2 < 2 ^ 5) (hx3 : x3 < 2 ^ 5) (hx4 : x4 < 2 ^ 1) (hx5 : x5 < 2 ^ 3) :
    w / 2 ^ 24 = op ∧ w / 2 ^ 28 % 16 = op / 16 % 16 ∧ w / 2 ^ 24 % 16 = op % 16 ∧ w / 2 ^ 19 % 2 ^ 5 = x0 ∧ w / 2 ^ 14 % 2 ^ 5 = x1 ∧ w / 2 ^ 9 % 2 ^ 5 = x2 ∧ w / 2 ^ 4 % 2 ^ 5 = x3 ∧ w / 2 ^ 3 % 2 ^ 1 = x4 ∧ w % 2 ^ 3 = x5 := by
  unfold encRRRR at h
  refine ⟨?_, ?_, ?_, ?_, ?_, ?_, ?_, ?_, ?_⟩ <;> omega

theorem ri_word {w op x0 x1 x2 x3 : Nat} (h : encRI op x0 x1 x2 x3 = w) (hx0 : x0 < 2 ^ 5) (hx1 : x1 < 2 ^ 5) (hx2 : x2 < 2 ^ 1) (hx3 : x3 < 2 ^ 13) :
    w / 2 ^ 24 = op ∧ w / 2 ^ 28 % 16 = op / 16 % 16 ∧ w / 2 ^ 24 % 16 = op % 16 ∧ w / 2 ^ 19 % 2 ^ 5 = x0 ∧ w / 2 ^ 14 % 2 ^ 5 = x1 ∧ w / 2 ^ 13 % 2 ^ 1 = x2 ∧ w % 2 ^ 13 = x3 := by
  unfold encRI at h
  refine ⟨?_, ?_, ?_, ?_, ?_, ?_, ?_⟩ <;> omega

theorem br_word {w op x0 x1 x2 : Nat} (h : encBR op x0 x1 x2 = w) (hx0 : x0 < 2 ^ 5) (hx1 : x1 < 2 ^ 1) (hx2 : x2 < 2 ^ 18) :
    w / 2 ^ 24 = op ∧ w / 2 ^ 28 % 16 = op / 16 % 16 ∧ w / 2 ^ 24 % 16 = op % 16 ∧ w / 2 ^ 19 % 2 ^ 5 = x0 ∧ w / 2 ^ 18 % 2 ^ 1 = x1 ∧ w % 2 ^ 18 = x2 := by
  unfold encBR at h
  refine ⟨?_, ?_, ?_, ?_, ?_, ?_⟩ <;> omega

theorem wi_word {w op x0 x1 : Nat} (h : encWI op x0 x1 = w) (hx0 : x0 < 2 ^ 5) (hx1 : x1 < 2 ^ 19) :
    w / 2 ^ 24 = op ∧ w / 2 ^ 28 % 16 = op / 16 % 16 ∧ w / 2 ^ 24 % 16 = op % 16 ∧ w / 2 ^ 19 % 2 ^ 5 = x0 ∧ w % 2 ^ 19 = x1 := by
  unfold encWI at h
  refine ⟨?_, ?_, ?_, ?_, ?_⟩ <;> omega

theorem vm_word {w op x0 x1 x2 x3 x4 x5 : Nat} (h : encVM op x0 x1 x2 x3 x4 x5 = w) (hx0 : x0 < 2 ^ 5) (hx1 : x1 < 2 ^ 5) (hx2 : x2 < 2 ^ 1) (hx3 : x3 < 2 ^ 5) (hx4 : x4 < 2 ^ 1) (hx5 : x5 < 2 ^ 7) :
    w / 2 ^ 24 = op ∧ w / 2 ^ 28 % 16 = op / 16 % 16 ∧ w / 2 ^ 24 % 16 = op % 16 ∧ w / 2 ^ 19 % 2 ^ 5 = x0 ∧ w / 2 ^ 14 % 2 ^ 5 = x1 ∧ w / 2 ^ 13 % 2 ^ 1 = x2 ∧ w / 2 ^ 8 % 2 ^ 5 = x3 ∧ w / 2 ^ 7 % 2 ^ 1 = x4 ∧ w % 2 ^ 7 = x5 := by
  unfold encVM at h
  refine ⟨?_, ?_, ?_, ?_, ?_, ?_, ?_, ?_, ?_⟩ <;> omega

theorem sy_word {w op x0 x1 x2 x3 x4 x5 : Nat} (h : encSY op x0 x1 x2 x3 x4 x5 = w) (hx0 : x0 < 2 ^ 5) (hx1 : x1 < 2 ^ 5) (hx2 : x2 < 2 ^ 1) (hx3 : x3 < 2 ^ 3) (hx4 : x4 < 2 ^ 2) (hx5 : x5 < 2 ^ 8) :
    w / 2 ^ 24 = op ∧ w / 2 ^ 28 % 16 = op / 16 % 16 ∧ w / 2 ^ 24 % 16 = op % 16 ∧ w / 2 ^ 19 % 2 ^ 5 = x0 ∧ w / 2 ^ 14 % 2 ^ 5 = x1 ∧ w / 2 ^ 13 % 2 ^ 1 = x2 ∧ w / 2 ^ 10 % 2 ^ 3 = x3 ∧ w / 2 ^ 8 % 2 ^ 2 = x4 ∧ w % 2 ^ 8 = x5 := by
  unfold encSY at h
  refine ⟨?_, ?_, ?_, ?_, ?_, ?_, ?_, ?_, ?_⟩ <;> omega

theorem bk_word {w op x0 : Nat} (h : encBK op x0 = w) (hx0 : x0 < 2 ^ 24) :
    w / 2 ^ 24 = op ∧ w / 2 ^ 28 % 16 = op / 16 % 16 ∧ w / 2 ^ 24 % 16 = op % 16 ∧ w % 2 ^ 24 = x0 := by
  unfold encBK at h
  refine ⟨?_, ?_, ?_, ?_⟩ <;> omega

end Sys2Proof.Laws
end

