-- ==== Sys2Proof/Laws/Maps.lean ====
section
/-!
SUPPORT. The small lemmas of maps and byte memories: reading what was set, that nothing else changes, and that every memory
operation keeps the canonical form.
-/
namespace Sys2Proof.Machine

variable {α : Type}

/-! ## Maps -/

@[simp] theorem AMap.find_nil (i : Nat) : AMap.find ([] : AMap α) i = none := rfl

theorem AMap.find_cons (k : Nat) (v : α) (m : AMap α) (i : Nat) :
    AMap.find ((k, v) :: m) i = if k = i then some v else AMap.find m i := rfl

@[simp] theorem AMap.find_set_same (m : AMap α) (i : Nat) (v : α) : (m.set i v).find i = some v := by
  induction m with
  | nil => simp [AMap.set, AMap.find_cons]
  | cons e m ih =>
    obtain ⟨k, w⟩ := e
    unfold AMap.set
    split
    · simp [AMap.find_cons]
    · rename_i h
      split
      · simp [AMap.find_cons]
      · simp [AMap.find_cons, h, ih]

theorem AMap.find_set_other (m : AMap α) {i j : Nat} (v : α) (h : i ≠ j) : (m.set i v).find j = m.find j := by
  induction m with
  | nil => simp [AMap.set, AMap.find_cons, h]
  | cons e m ih =>
    obtain ⟨k, w⟩ := e
    unfold AMap.set
    split
    · rename_i hk; subst hk; simp [AMap.find_cons, h]
    · split
      · rw [AMap.find_cons, if_neg h]
      · simp [AMap.find_cons, ih]

@[simp] theorem AMap.getD_set_same (m : AMap α) (i : Nat) (v d : α) : (m.set i v).getD i d = v := by
  simp [AMap.getD]

theorem AMap.getD_set_other (m : AMap α) {i j : Nat} (v d : α) (h : i ≠ j) : (m.set i v).getD j d = m.getD j d := by
  simp [AMap.getD, AMap.find_set_other m v h]

theorem AMap.find_erase_other (m : AMap α) {i j : Nat} (h : i ≠ j) : (m.erase i).find j = m.find j := by
  induction m with
  | nil => rfl
  | cons e m ih =>
    obtain ⟨k, w⟩ := e
    unfold AMap.erase at ih ⊢
    by_cases hk : k = i
    · subst hk; rw [List.filter_cons, if_neg (by simp), AMap.find_cons, if_neg h, ih]
    · rw [List.filter_cons, if_pos (by simpa using hk), AMap.find_cons, AMap.find_cons, ih]

@[simp] theorem AMap.find_erase_same (m : AMap α) (i : Nat) : (m.erase i).find i = none := by
  induction m with
  | nil => rfl
  | cons e m ih =>
    obtain ⟨k, w⟩ := e
    unfold AMap.erase at ih ⊢
    by_cases hk : k = i
    · subst hk; rw [List.filter_cons, if_neg (by simp), ih]
    · rw [List.filter_cons, if_pos (by simpa using hk), AMap.find_cons, if_neg hk, ih]

/-! ## Byte memories -/

/-- Every address listed lies at or above `b`. -/
def Memory.above (b : Nat) (m : Memory) : Prop := ∀ e ∈ m, b ≤ e.1

theorem Memory.wf_cons (a : Nat) (x : Byte) (m : Memory) :
    Memory.wf ((a, x) :: m) = true ↔ x ≠ Memory.blank ∧ Memory.above (a + 1) m ∧ Memory.wf m = true := by
  induction m generalizing a x with
  | nil => simp [Memory.wf, Memory.above]
  | cons e m ih =>
    obtain ⟨b, y⟩ := e
    have hb := ih b y
    simp only [Memory.wf, Bool.and_eq_true, decide_eq_true_eq]
    constructor
    · rintro ⟨⟨hx, hab⟩, hw⟩
      refine ⟨hx, ?_, hw⟩
      intro e he
      rcases List.mem_cons.mp he with rfl | he
      · exact hab
      · have h := (hb.mp hw).2.1 e he
        omega
    · rintro ⟨hx, ha, hw⟩
      exact ⟨⟨hx, ha (b, y) (by simp)⟩, hw⟩

theorem Memory.above_mono {b c : Nat} {m : Memory} (h : Memory.above c m) (hbc : b ≤ c) : Memory.above b m :=
  fun e he => Nat.le_trans hbc (h e he)

/-- An address below every one listed reads as blank. -/
theorem Memory.byte_above {b a : Nat} {m : Memory} (h : Memory.above b m) (hab : a < b) : m.byte a = Memory.blank := by
  induction m with
  | nil => rfl
  | cons e m ih =>
    obtain ⟨k, y⟩ := e
    have hk : b ≤ k := h (k, y) (by simp)
    rw [Memory.byte, if_neg (by omega)]
    exact ih fun e he => h e (by simp [he])

theorem Memory.above_put {c a : Nat} {b : Byte} {m : Memory} (h : Memory.above c m) (ha : c ≤ a) :
    Memory.above c (m.put a b) := by
  induction m with
  | nil =>
    unfold Memory.put
    split
    · exact h
    · intro e he; simp at he; subst he; exact ha
  | cons e m ih =>
    obtain ⟨k, y⟩ := e
    have hm : Memory.above c m := fun e he => h e (by simp [he])
    have hk : c ≤ k := h (k, y) (by simp)
    unfold Memory.put
    split
    · split
      · exact h
      · intro e he
        rcases List.mem_cons.mp he with rfl | he
        · exact ha
        · exact h e he
    · split
      · split
        · exact hm
        · intro e he
          rcases List.mem_cons.mp he with rfl | he
          · exact ha
          · exact hm e he
      · intro e he
        rcases List.mem_cons.mp he with rfl | he
        · exact hk
        · exact ih hm e he

/-- Writing a byte keeps the canonical form. -/
theorem Memory.wf_put (m : Memory) (a : Nat) (b : Byte) (h : m.wf = true) : (m.put a b).wf = true := by
  induction m with
  | nil =>
    unfold Memory.put
    split
    · rfl
    · rename_i hb; simpa [Memory.wf] using hb
  | cons e m ih =>
    obtain ⟨k, y⟩ := e
    obtain ⟨hy, ha, hw⟩ := (Memory.wf_cons k y m).mp h
    unfold Memory.put
    split
    · rename_i hak
      split
      · exact h
      · rename_i hb
        refine (Memory.wf_cons a b _).mpr ⟨hb, ?_, h⟩
        intro e he
        rcases List.mem_cons.mp he with rfl | he
        · exact hak
        · have := ha e he; omega
    · rename_i hak
      split
      · rename_i hk
        subst hk
        split
        · exact hw
        · rename_i hb; exact (Memory.wf_cons k b m).mpr ⟨hb, ha, hw⟩
      · rename_i hk
        exact (Memory.wf_cons k y _).mpr ⟨hy, Memory.above_put ha (by omega), ih hw⟩

/-- A byte read after it was written. -/
theorem Memory.byte_put_same (m : Memory) (a : Nat) (b : Byte) (h : m.wf = true) : (m.put a b).byte a = b := by
  induction m with
  | nil =>
    unfold Memory.put
    split
    · rename_i hb; rw [hb]; rfl
    · simp [Memory.byte]
  | cons e m ih =>
    obtain ⟨k, y⟩ := e
    obtain ⟨hy, ha, hw⟩ := (Memory.wf_cons k y m).mp h
    unfold Memory.put
    split
    · rename_i hak
      split
      · rename_i hb
        rw [Memory.byte, if_neg (by omega), Memory.byte_above ha (by omega), hb]
      · simp [Memory.byte]
    · split
      · rename_i hk
        subst hk
        split
        · rename_i hb; rw [Memory.byte_above ha (by omega), hb]
        · simp [Memory.byte]
      · rename_i hk; rw [Memory.byte, if_neg hk, ih hw]

/-- Every other byte is left alone. -/
theorem Memory.byte_put_other (m : Memory) {a c : Nat} (b : Byte) (hac : a ≠ c) : (m.put a b).byte c = m.byte c := by
  induction m with
  | nil =>
    unfold Memory.put
    split
    · rfl
    · simp [Memory.byte, hac]
  | cons e m ih =>
    obtain ⟨k, y⟩ := e
    unfold Memory.put
    split
    · split
      · rfl
      · rw [Memory.byte, if_neg hac]
    · split
      · rename_i hk
        subst hk
        split
        · rw [Memory.byte, if_neg hac]
        · rw [Memory.byte, Memory.byte, if_neg hac, if_neg hac]
      · rw [Memory.byte, Memory.byte, ih]

theorem Memory.wf_write (m : Memory) (a v n : Nat) (h : m.wf = true) : (m.write a v n).wf = true := by
  induction n generalizing m a v with
  | zero => exact h
  | succ n ih => exact ih _ _ _ (Memory.wf_put m a _ h)

theorem Memory.wf_writeBytes (bs : List Byte) (m : Memory) (a : Nat) (h : m.wf = true) : (m.writeBytes a bs).wf = true := by
  induction bs generalizing m a with
  | nil => exact h
  | cons b bs ih => exact ih _ _ (Memory.wf_put m a b h)

theorem Memory.wf_setLine (m : Memory) (l : Nat) (d : Line) (h : m.wf = true) : (m.setLine l d).wf = true :=
  Memory.wf_write m _ _ _ h

/-- A byte outside the bytes written is left alone. -/
theorem Memory.byte_write_other (m : Memory) (a v n c : Nat) (hc : c < a ∨ a + n ≤ c) : (m.write a v n).byte c = m.byte c := by
  induction n generalizing m a v with
  | zero => rfl
  | succ n ih =>
    rw [Memory.write, ih _ _ _ (by omega), Memory.byte_put_other m _ (by omega)]

theorem Memory.byte_writeBytes_other (bs : List Byte) (m : Memory) (a c : Nat) (hc : c < a ∨ a + bs.length ≤ c) :
    (m.writeBytes a bs).byte c = m.byte c := by
  induction bs generalizing m a with
  | nil => rfl
  | cons b bs ih =>
    rw [List.length_cons] at hc
    rw [Memory.writeBytes, ih _ _ (by omega), Memory.byte_put_other m b (by omega)]

/-- The byte `i` of the bytes written. -/
theorem Memory.byte_write_same (m : Memory) (a v n i : Nat) (h : m.wf = true) (hi : i < n) :
    (m.write a v n).byte (a + i) = BitVec.ofNat 8 (v / 256 ^ i) := by
  induction n generalizing m a v i with
  | zero => omega
  | succ n ih =>
    cases i with
    | zero =>
      rw [Memory.write, Memory.byte_write_other _ _ _ _ _ (by omega), Nat.add_zero, Memory.byte_put_same m a _ h]
      simp
    | succ i =>
      rw [Memory.write, show a + (i + 1) = a + 1 + i by omega, ih _ _ _ _ (Memory.wf_put m a _ h) (by omega), Nat.pow_succ,
        Nat.div_div_eq_div_mul, Nat.mul_comm]

theorem Memory.byte_writeBytes_same (bs : List Byte) (m : Memory) (a i : Nat) (h : m.wf = true) (hi : i < bs.length) :
    (m.writeBytes a bs).byte (a + i) = bs[i] := by
  induction bs generalizing m a i with
  | nil => simp at hi
  | cons b bs ih =>
    cases i with
    | zero =>
      rw [Memory.writeBytes, Memory.byte_writeBytes_other _ _ _ _ (by omega), Nat.add_zero, Memory.byte_put_same m a b h]
      rfl
    | succ i =>
      rw [Memory.writeBytes, show a + (i + 1) = a + 1 + i by omega,
        ih (m.put a b) (a + 1) i (Memory.wf_put m a b h) (by simpa using hi)]
      rfl

/-- Two canonical memories that read alike are equal. -/
theorem Memory.ext {m n : Memory} (hm : m.wf = true) (hn : n.wf = true) (h : ∀ a, m.byte a = n.byte a) : m = n := by
  induction m generalizing n with
  | nil =>
    cases n with
    | nil => rfl
    | cons e n =>
      obtain ⟨k, y⟩ := e
      have := h k
      simp only [Memory.byte, if_true] at this
      exact absurd this.symm ((Memory.wf_cons k y n).mp hn).1
  | cons e m ih =>
    obtain ⟨j, x⟩ := e
    obtain ⟨hx, ha, hw⟩ := (Memory.wf_cons j x m).mp hm
    cases n with
    | nil =>
      have := h j
      simp only [Memory.byte, if_true] at this
      exact absurd this hx
    | cons e n =>
      obtain ⟨k, y⟩ := e
      obtain ⟨hy, hb, hv⟩ := (Memory.wf_cons k y n).mp hn
      have hjk : j = k := by
        rcases Nat.lt_trichotomy j k with hl | he | hg
        · have := h j
          simp only [Memory.byte, if_true, if_neg (show ¬ k = j by omega)] at this
          rw [Memory.byte_above hb (by omega)] at this
          exact absurd this hx
        · exact he
        · have := h k
          simp only [Memory.byte, if_true, if_neg (show ¬ j = k by omega)] at this
          rw [Memory.byte_above ha (by omega)] at this
          exact absurd this.symm hy
      subst hjk
      have hxy : x = y := by simpa [Memory.byte] using h j
      subst hxy
      congr 1
      refine ih hw hv fun a => ?_
      have hj := h a
      by_cases he : j = a
      · subst he
        rw [Memory.byte_above ha (by omega), Memory.byte_above hb (by omega)]
      · simpa only [Memory.byte, if_neg he] using hj

end Sys2Proof.Machine
end

