-- ==== Sys2Proof/Laws/State.lean ====
section
/-!
SUPPORT. One lemma for each field of the state and of a sequencer under each named update, and what a sequencer reads as after
another was written.
-/
namespace Sys2Proof.Machine

/-! ## Which sequencer -/

@[simp] theorem State.seq_setSeq_same (s : State) (k : Agent) (q : Seq) : (s.setSeq k q).seq k = q :=
  AMap.getD_set_same _ _ _ _

theorem State.seq_setSeq_other (s : State) {k j : Agent} (q : Seq) (h : k ≠ j) : (s.setSeq k q).seq j = s.seq j :=
  AMap.getD_set_other _ _ _ h

@[simp] theorem State.seq_upd_same (s : State) (k : Agent) (f : Seq → Seq) : (s.upd k f).seq k = f (s.seq k) :=
  State.seq_setSeq_same s k _

theorem State.seq_upd_other (s : State) {k j : Agent} (f : Seq → Seq) (h : k ≠ j) : (s.upd k f).seq j = s.seq j :=
  State.seq_setSeq_other s _ h

@[simp] theorem State.me_updMe (s : State) (f : Seq → Seq) : (s.updMe f).me = f s.me := State.seq_upd_same s s.cur f

@[simp] theorem State.me_post (s : State) (d : Due) : (s.post d).me = s.me := rfl

@[simp] theorem State.seq_post (s : State) (d : Due) (k : Agent) : (s.post d).seq k = s.seq k := rfl

/-! ## Fields of the state -/

@[simp] theorem State.setSeq_cur (s : State) (k : Agent) (q : Seq) : (s.setSeq k q).cur = s.cur := rfl
@[simp] theorem State.setSeq_agenda (s : State) (k : Agent) (q : Seq) : (s.setSeq k q).agenda = s.agenda := rfl
@[simp] theorem State.setSeq_due (s : State) (k : Agent) (q : Seq) : (s.setSeq k q).due = s.due := rfl
@[simp] theorem State.setSeq_fresh (s : State) (k : Agent) (q : Seq) : (s.setSeq k q).fresh = s.fresh := rfl
@[simp] theorem State.setSeq_cycle (s : State) (k : Agent) (q : Seq) : (s.setSeq k q).cycle = s.cycle := rfl
@[simp] theorem State.setSeq_off (s : State) (k : Agent) (q : Seq) : (s.setSeq k q).off = s.off := rfl
@[simp] theorem State.setSeq_recovery (s : State) (k : Agent) (q : Seq) : (s.setSeq k q).recovery = s.recovery := rfl
@[simp] theorem State.setSeq_mem (s : State) (k : Agent) (q : Seq) : (s.setSeq k q).mem = s.mem := rfl
@[simp] theorem State.setSeq_stage (s : State) (k : Agent) (q : Seq) : (s.setSeq k q).stage = s.stage := rfl
@[simp] theorem State.setSeq_bt (s : State) (k : Agent) (q : Seq) : (s.setSeq k q).bt = s.bt := rfl
@[simp] theorem State.setSeq_stageWait (s : State) (k : Agent) (q : Seq) : (s.setSeq k q).stageWait = s.stageWait := rfl
@[simp] theorem State.setSeq_homes (s : State) (k : Agent) (q : Seq) : (s.setSeq k q).homes = s.homes := rfl
@[simp] theorem State.setSeq_slices (s : State) (k : Agent) (q : Seq) : (s.setSeq k q).slices = s.slices := rfl
@[simp] theorem State.setSeq_copies (s : State) (k : Agent) (q : Seq) : (s.setSeq k q).copies = s.copies := rfl
@[simp] theorem State.setSeq_engCopies (s : State) (k : Agent) (q : Seq) : (s.setSeq k q).engCopies = s.engCopies := rfl
@[simp] theorem State.setSeq_engPeerOut (s : State) (k : Agent) (q : Seq) : (s.setSeq k q).engPeerOut = s.engPeerOut := rfl
@[simp] theorem State.setSeq_poisoned (s : State) (k : Agent) (q : Seq) : (s.setSeq k q).poisoned = s.poisoned := rfl
@[simp] theorem State.setSeq_latches (s : State) (k : Agent) (q : Seq) : (s.setSeq k q).latches = s.latches := rfl
@[simp] theorem State.setSeq_pairLatches (s : State) (k : Agent) (q : Seq) : (s.setSeq k q).pairLatches = s.pairLatches := rfl
@[simp] theorem State.setSeq_tileVis (s : State) (k : Agent) (q : Seq) : (s.setSeq k q).tileVis = s.tileVis := rfl
@[simp] theorem State.setSeq_engPeerBad (s : State) (k : Agent) (q : Seq) : (s.setSeq k q).engPeerBad = s.engPeerBad := rfl
@[simp] theorem State.setSeq_roomWait (s : State) (k : Agent) (q : Seq) : (s.setSeq k q).roomWait = s.roomWait := rfl
@[simp] theorem State.setSeq_devWrites (s : State) (k : Agent) (q : Seq) : (s.setSeq k q).devWrites = s.devWrites := rfl
@[simp] theorem State.setSeq_converted (s : State) (k : Agent) (q : Seq) : (s.setSeq k q).converted = s.converted := rfl
@[simp] theorem State.setSeq_tbase (s : State) (k : Agent) (q : Seq) : (s.setSeq k q).tbase = s.tbase := rfl
@[simp] theorem State.setSeq_rebases (s : State) (k : Agent) (q : Seq) : (s.setSeq k q).rebases = s.rebases := rfl
@[simp] theorem State.setSeq_engGen (s : State) (k : Agent) (q : Seq) : (s.setSeq k q).engGen = s.engGen := rfl
@[simp] theorem State.setSeq_hostHorizon (s : State) (k : Agent) (q : Seq) : (s.setSeq k q).hostHorizon = s.hostHorizon := rfl
@[simp] theorem State.setSeq_peerHorizon (s : State) (k : Agent) (q : Seq) : (s.setSeq k q).peerHorizon = s.peerHorizon := rfl
@[simp] theorem State.setSeq_owners (s : State) (k : Agent) (q : Seq) : (s.setSeq k q).owners = s.owners := rfl
@[simp] theorem State.setSeq_bias (s : State) (k : Agent) (q : Seq) : (s.setSeq k q).bias = s.bias := rfl
@[simp] theorem State.setSeq_waiting (s : State) (k : Agent) (q : Seq) : (s.setSeq k q).waiting = s.waiting := rfl
@[simp] theorem State.setSeq_hostAsked (s : State) (k : Agent) (q : Seq) : (s.setSeq k q).hostAsked = s.hostAsked := rfl
@[simp] theorem State.setSeq_flipping (s : State) (k : Agent) (q : Seq) : (s.setSeq k q).flipping = s.flipping := rfl
@[simp] theorem State.setSeq_coreTlb (s : State) (k : Agent) (q : Seq) : (s.setSeq k q).coreTlb = s.coreTlb := rfl
@[simp] theorem State.setSeq_dieTlb (s : State) (k : Agent) (q : Seq) : (s.setSeq k q).dieTlb = s.dieTlb := rfl
@[simp] theorem State.setSeq_mdCached (s : State) (k : Agent) (q : Seq) : (s.setSeq k q).mdCached = s.mdCached := rfl
@[simp] theorem State.setSeq_vis (s : State) (k : Agent) (q : Seq) : (s.setSeq k q).vis = s.vis := rfl
@[simp] theorem State.setSeq_slates (s : State) (k : Agent) (q : Seq) : (s.setSeq k q).slates = s.slates := rfl
@[simp] theorem State.setSeq_dies (s : State) (k : Agent) (q : Seq) : (s.setSeq k q).dies = s.dies := rfl
@[simp] theorem State.setSeq_chains (s : State) (k : Agent) (q : Seq) : (s.setSeq k q).chains = s.chains := rfl
@[simp] theorem State.setSeq_matrix (s : State) (k : Agent) (q : Seq) : (s.setSeq k q).matrix = s.matrix := rfl
@[simp] theorem State.setSeq_mgmt (s : State) (k : Agent) (q : Seq) : (s.setSeq k q).mgmt = s.mgmt := rfl
@[simp] theorem State.setSeq_energy (s : State) (k : Agent) (q : Seq) : (s.setSeq k q).energy = s.energy := rfl
@[simp] theorem State.setSeq_residue (s : State) (k : Agent) (q : Seq) : (s.setSeq k q).residue = s.residue := rfl
@[simp] theorem State.setSeq_committed (s : State) (k : Agent) (q : Seq) : (s.setSeq k q).committed = s.committed := rfl
@[simp] theorem State.setSeq_windowStart (s : State) (k : Agent) (q : Seq) : (s.setSeq k q).windowStart = s.windowStart := rfl
@[simp] theorem State.setSeq_budget (s : State) (k : Agent) (q : Seq) : (s.setSeq k q).budget = s.budget := rfl
@[simp] theorem State.setSeq_thermal (s : State) (k : Agent) (q : Seq) : (s.setSeq k q).thermal = s.thermal := rfl
@[simp] theorem State.setSeq_errTimes (s : State) (k : Agent) (q : Seq) : (s.setSeq k q).errTimes = s.errTimes := rfl
@[simp] theorem State.setSeq_retiredLog (s : State) (k : Agent) (q : Seq) : (s.setSeq k q).retiredLog = s.retiredLog := rfl
@[simp] theorem State.setSeq_mcLog (s : State) (k : Agent) (q : Seq) : (s.setSeq k q).mcLog = s.mcLog := rfl
@[simp] theorem State.setSeq_image (s : State) (k : Agent) (q : Seq) : (s.setSeq k q).image = s.image := rfl
@[simp] theorem State.setSeq_nextImage (s : State) (k : Agent) (q : Seq) : (s.setSeq k q).nextImage = s.nextImage := rfl
@[simp] theorem State.setSeq_attQueue (s : State) (k : Agent) (q : Seq) : (s.setSeq k q).attQueue = s.attQueue := rfl
@[simp] theorem State.setSeq_ports (s : State) (k : Agent) (q : Seq) : (s.setSeq k q).ports = s.ports := rfl
@[simp] theorem State.setSeq_links (s : State) (k : Agent) (q : Seq) : (s.setSeq k q).links = s.links := rfl
@[simp] theorem State.setSeq_hostVal (s : State) (k : Agent) (q : Seq) : (s.setSeq k q).hostVal = s.hostVal := rfl
@[simp] theorem State.setSeq_hostLines (s : State) (k : Agent) (q : Seq) : (s.setSeq k q).hostLines = s.hostLines := rfl
@[simp] theorem State.setSeq_outbox (s : State) (k : Agent) (q : Seq) : (s.setSeq k q).outbox = s.outbox := rfl

@[simp] theorem State.upd_cur (s : State) (k : Agent) (f : Seq → Seq) : (s.upd k f).cur = s.cur := rfl
@[simp] theorem State.upd_agenda (s : State) (k : Agent) (f : Seq → Seq) : (s.upd k f).agenda = s.agenda := rfl
@[simp] theorem State.upd_due (s : State) (k : Agent) (f : Seq → Seq) : (s.upd k f).due = s.due := rfl
@[simp] theorem State.upd_fresh (s : State) (k : Agent) (f : Seq → Seq) : (s.upd k f).fresh = s.fresh := rfl
@[simp] theorem State.upd_cycle (s : State) (k : Agent) (f : Seq → Seq) : (s.upd k f).cycle = s.cycle := rfl
@[simp] theorem State.upd_off (s : State) (k : Agent) (f : Seq → Seq) : (s.upd k f).off = s.off := rfl
@[simp] theorem State.upd_recovery (s : State) (k : Agent) (f : Seq → Seq) : (s.upd k f).recovery = s.recovery := rfl
@[simp] theorem State.upd_mem (s : State) (k : Agent) (f : Seq → Seq) : (s.upd k f).mem = s.mem := rfl
@[simp] theorem State.upd_stage (s : State) (k : Agent) (f : Seq → Seq) : (s.upd k f).stage = s.stage := rfl
@[simp] theorem State.upd_bt (s : State) (k : Agent) (f : Seq → Seq) : (s.upd k f).bt = s.bt := rfl
@[simp] theorem State.upd_stageWait (s : State) (k : Agent) (f : Seq → Seq) : (s.upd k f).stageWait = s.stageWait := rfl
@[simp] theorem State.upd_homes (s : State) (k : Agent) (f : Seq → Seq) : (s.upd k f).homes = s.homes := rfl
@[simp] theorem State.upd_slices (s : State) (k : Agent) (f : Seq → Seq) : (s.upd k f).slices = s.slices := rfl
@[simp] theorem State.upd_copies (s : State) (k : Agent) (f : Seq → Seq) : (s.upd k f).copies = s.copies := rfl
@[simp] theorem State.upd_engCopies (s : State) (k : Agent) (f : Seq → Seq) : (s.upd k f).engCopies = s.engCopies := rfl
@[simp] theorem State.upd_engPeerOut (s : State) (k : Agent) (f : Seq → Seq) : (s.upd k f).engPeerOut = s.engPeerOut := rfl
@[simp] theorem State.upd_poisoned (s : State) (k : Agent) (f : Seq → Seq) : (s.upd k f).poisoned = s.poisoned := rfl
@[simp] theorem State.upd_latches (s : State) (k : Agent) (f : Seq → Seq) : (s.upd k f).latches = s.latches := rfl
@[simp] theorem State.upd_pairLatches (s : State) (k : Agent) (f : Seq → Seq) : (s.upd k f).pairLatches = s.pairLatches := rfl
@[simp] theorem State.upd_tileVis (s : State) (k : Agent) (f : Seq → Seq) : (s.upd k f).tileVis = s.tileVis := rfl
@[simp] theorem State.upd_engPeerBad (s : State) (k : Agent) (f : Seq → Seq) : (s.upd k f).engPeerBad = s.engPeerBad := rfl
@[simp] theorem State.upd_roomWait (s : State) (k : Agent) (f : Seq → Seq) : (s.upd k f).roomWait = s.roomWait := rfl
@[simp] theorem State.upd_devWrites (s : State) (k : Agent) (f : Seq → Seq) : (s.upd k f).devWrites = s.devWrites := rfl
@[simp] theorem State.upd_converted (s : State) (k : Agent) (f : Seq → Seq) : (s.upd k f).converted = s.converted := rfl
@[simp] theorem State.upd_tbase (s : State) (k : Agent) (f : Seq → Seq) : (s.upd k f).tbase = s.tbase := rfl
@[simp] theorem State.upd_rebases (s : State) (k : Agent) (f : Seq → Seq) : (s.upd k f).rebases = s.rebases := rfl
@[simp] theorem State.upd_engGen (s : State) (k : Agent) (f : Seq → Seq) : (s.upd k f).engGen = s.engGen := rfl
@[simp] theorem State.upd_hostHorizon (s : State) (k : Agent) (f : Seq → Seq) : (s.upd k f).hostHorizon = s.hostHorizon := rfl
@[simp] theorem State.upd_peerHorizon (s : State) (k : Agent) (f : Seq → Seq) : (s.upd k f).peerHorizon = s.peerHorizon := rfl
@[simp] theorem State.upd_owners (s : State) (k : Agent) (f : Seq → Seq) : (s.upd k f).owners = s.owners := rfl
@[simp] theorem State.upd_bias (s : State) (k : Agent) (f : Seq → Seq) : (s.upd k f).bias = s.bias := rfl
@[simp] theorem State.upd_waiting (s : State) (k : Agent) (f : Seq → Seq) : (s.upd k f).waiting = s.waiting := rfl
@[simp] theorem State.upd_hostAsked (s : State) (k : Agent) (f : Seq → Seq) : (s.upd k f).hostAsked = s.hostAsked := rfl
@[simp] theorem State.upd_flipping (s : State) (k : Agent) (f : Seq → Seq) : (s.upd k f).flipping = s.flipping := rfl
@[simp] theorem State.upd_coreTlb (s : State) (k : Agent) (f : Seq → Seq) : (s.upd k f).coreTlb = s.coreTlb := rfl
@[simp] theorem State.upd_dieTlb (s : State) (k : Agent) (f : Seq → Seq) : (s.upd k f).dieTlb = s.dieTlb := rfl
@[simp] theorem State.upd_mdCached (s : State) (k : Agent) (f : Seq → Seq) : (s.upd k f).mdCached = s.mdCached := rfl
@[simp] theorem State.upd_vis (s : State) (k : Agent) (f : Seq → Seq) : (s.upd k f).vis = s.vis := rfl
@[simp] theorem State.upd_slates (s : State) (k : Agent) (f : Seq → Seq) : (s.upd k f).slates = s.slates := rfl
@[simp] theorem State.upd_dies (s : State) (k : Agent) (f : Seq → Seq) : (s.upd k f).dies = s.dies := rfl
@[simp] theorem State.upd_chains (s : State) (k : Agent) (f : Seq → Seq) : (s.upd k f).chains = s.chains := rfl
@[simp] theorem State.upd_matrix (s : State) (k : Agent) (f : Seq → Seq) : (s.upd k f).matrix = s.matrix := rfl
@[simp] theorem State.upd_mgmt (s : State) (k : Agent) (f : Seq → Seq) : (s.upd k f).mgmt = s.mgmt := rfl
@[simp] theorem State.upd_energy (s : State) (k : Agent) (f : Seq → Seq) : (s.upd k f).energy = s.energy := rfl
@[simp] theorem State.upd_residue (s : State) (k : Agent) (f : Seq → Seq) : (s.upd k f).residue = s.residue := rfl
@[simp] theorem State.upd_committed (s : State) (k : Agent) (f : Seq → Seq) : (s.upd k f).committed = s.committed := rfl
@[simp] theorem State.upd_windowStart (s : State) (k : Agent) (f : Seq → Seq) : (s.upd k f).windowStart = s.windowStart := rfl
@[simp] theorem State.upd_budget (s : State) (k : Agent) (f : Seq → Seq) : (s.upd k f).budget = s.budget := rfl
@[simp] theorem State.upd_thermal (s : State) (k : Agent) (f : Seq → Seq) : (s.upd k f).thermal = s.thermal := rfl
@[simp] theorem State.upd_errTimes (s : State) (k : Agent) (f : Seq → Seq) : (s.upd k f).errTimes = s.errTimes := rfl
@[simp] theorem State.upd_retiredLog (s : State) (k : Agent) (f : Seq → Seq) : (s.upd k f).retiredLog = s.retiredLog := rfl
@[simp] theorem State.upd_mcLog (s : State) (k : Agent) (f : Seq → Seq) : (s.upd k f).mcLog = s.mcLog := rfl
@[simp] theorem State.upd_image (s : State) (k : Agent) (f : Seq → Seq) : (s.upd k f).image = s.image := rfl
@[simp] theorem State.upd_nextImage (s : State) (k : Agent) (f : Seq → Seq) : (s.upd k f).nextImage = s.nextImage := rfl
@[simp] theorem State.upd_attQueue (s : State) (k : Agent) (f : Seq → Seq) : (s.upd k f).attQueue = s.attQueue := rfl
@[simp] theorem State.upd_ports (s : State) (k : Agent) (f : Seq → Seq) : (s.upd k f).ports = s.ports := rfl
@[simp] theorem State.upd_links (s : State) (k : Agent) (f : Seq → Seq) : (s.upd k f).links = s.links := rfl
@[simp] theorem State.upd_hostVal (s : State) (k : Agent) (f : Seq → Seq) : (s.upd k f).hostVal = s.hostVal := rfl
@[simp] theorem State.upd_hostLines (s : State) (k : Agent) (f : Seq → Seq) : (s.upd k f).hostLines = s.hostLines := rfl
@[simp] theorem State.upd_outbox (s : State) (k : Agent) (f : Seq → Seq) : (s.upd k f).outbox = s.outbox := rfl

@[simp] theorem State.updMe_cur (s : State) (f : Seq → Seq) : (s.updMe f).cur = s.cur := rfl
@[simp] theorem State.updMe_agenda (s : State) (f : Seq → Seq) : (s.updMe f).agenda = s.agenda := rfl
@[simp] theorem State.updMe_due (s : State) (f : Seq → Seq) : (s.updMe f).due = s.due := rfl
@[simp] theorem State.updMe_fresh (s : State) (f : Seq → Seq) : (s.updMe f).fresh = s.fresh := rfl
@[simp] theorem State.updMe_cycle (s : State) (f : Seq → Seq) : (s.updMe f).cycle = s.cycle := rfl
@[simp] theorem State.updMe_off (s : State) (f : Seq → Seq) : (s.updMe f).off = s.off := rfl
@[simp] theorem State.updMe_recovery (s : State) (f : Seq → Seq) : (s.updMe f).recovery = s.recovery := rfl
@[simp] theorem State.updMe_mem (s : State) (f : Seq → Seq) : (s.updMe f).mem = s.mem := rfl
@[simp] theorem State.updMe_stage (s : State) (f : Seq → Seq) : (s.updMe f).stage = s.stage := rfl
@[simp] theorem State.updMe_bt (s : State) (f : Seq → Seq) : (s.updMe f).bt = s.bt := rfl
@[simp] theorem State.updMe_stageWait (s : State) (f : Seq → Seq) : (s.updMe f).stageWait = s.stageWait := rfl
@[simp] theorem State.updMe_homes (s : State) (f : Seq → Seq) : (s.updMe f).homes = s.homes := rfl
@[simp] theorem State.updMe_slices (s : State) (f : Seq → Seq) : (s.updMe f).slices = s.slices := rfl
@[simp] theorem State.updMe_copies (s : State) (f : Seq → Seq) : (s.updMe f).copies = s.copies := rfl
@[simp] theorem State.updMe_engCopies (s : State) (f : Seq → Seq) : (s.updMe f).engCopies = s.engCopies := rfl
@[simp] theorem State.updMe_engPeerOut (s : State) (f : Seq → Seq) : (s.updMe f).engPeerOut = s.engPeerOut := rfl
@[simp] theorem State.updMe_poisoned (s : State) (f : Seq → Seq) : (s.updMe f).poisoned = s.poisoned := rfl
@[simp] theorem State.updMe_latches (s : State) (f : Seq → Seq) : (s.updMe f).latches = s.latches := rfl
@[simp] theorem State.updMe_pairLatches (s : State) (f : Seq → Seq) : (s.updMe f).pairLatches = s.pairLatches := rfl
@[simp] theorem State.updMe_tileVis (s : State) (f : Seq → Seq) : (s.updMe f).tileVis = s.tileVis := rfl
@[simp] theorem State.updMe_engPeerBad (s : State) (f : Seq → Seq) : (s.updMe f).engPeerBad = s.engPeerBad := rfl
@[simp] theorem State.updMe_roomWait (s : State) (f : Seq → Seq) : (s.updMe f).roomWait = s.roomWait := rfl
@[simp] theorem State.updMe_devWrites (s : State) (f : Seq → Seq) : (s.updMe f).devWrites = s.devWrites := rfl
@[simp] theorem State.updMe_converted (s : State) (f : Seq → Seq) : (s.updMe f).converted = s.converted := rfl
@[simp] theorem State.updMe_tbase (s : State) (f : Seq → Seq) : (s.updMe f).tbase = s.tbase := rfl
@[simp] theorem State.updMe_rebases (s : State) (f : Seq → Seq) : (s.updMe f).rebases = s.rebases := rfl
@[simp] theorem State.updMe_engGen (s : State) (f : Seq → Seq) : (s.updMe f).engGen = s.engGen := rfl
@[simp] theorem State.updMe_hostHorizon (s : State) (f : Seq → Seq) : (s.updMe f).hostHorizon = s.hostHorizon := rfl
@[simp] theorem State.updMe_peerHorizon (s : State) (f : Seq → Seq) : (s.updMe f).peerHorizon = s.peerHorizon := rfl
@[simp] theorem State.updMe_owners (s : State) (f : Seq → Seq) : (s.updMe f).owners = s.owners := rfl
@[simp] theorem State.updMe_bias (s : State) (f : Seq → Seq) : (s.updMe f).bias = s.bias := rfl
@[simp] theorem State.updMe_waiting (s : State) (f : Seq → Seq) : (s.updMe f).waiting = s.waiting := rfl
@[simp] theorem State.updMe_hostAsked (s : State) (f : Seq → Seq) : (s.updMe f).hostAsked = s.hostAsked := rfl
@[simp] theorem State.updMe_flipping (s : State) (f : Seq → Seq) : (s.updMe f).flipping = s.flipping := rfl
@[simp] theorem State.updMe_coreTlb (s : State) (f : Seq → Seq) : (s.updMe f).coreTlb = s.coreTlb := rfl
@[simp] theorem State.updMe_dieTlb (s : State) (f : Seq → Seq) : (s.updMe f).dieTlb = s.dieTlb := rfl
@[simp] theorem State.updMe_mdCached (s : State) (f : Seq → Seq) : (s.updMe f).mdCached = s.mdCached := rfl
@[simp] theorem State.updMe_vis (s : State) (f : Seq → Seq) : (s.updMe f).vis = s.vis := rfl
@[simp] theorem State.updMe_slates (s : State) (f : Seq → Seq) : (s.updMe f).slates = s.slates := rfl
@[simp] theorem State.updMe_dies (s : State) (f : Seq → Seq) : (s.updMe f).dies = s.dies := rfl
@[simp] theorem State.updMe_chains (s : State) (f : Seq → Seq) : (s.updMe f).chains = s.chains := rfl
@[simp] theorem State.updMe_matrix (s : State) (f : Seq → Seq) : (s.updMe f).matrix = s.matrix := rfl
@[simp] theorem State.updMe_mgmt (s : State) (f : Seq → Seq) : (s.updMe f).mgmt = s.mgmt := rfl
@[simp] theorem State.updMe_energy (s : State) (f : Seq → Seq) : (s.updMe f).energy = s.energy := rfl
@[simp] theorem State.updMe_residue (s : State) (f : Seq → Seq) : (s.updMe f).residue = s.residue := rfl
@[simp] theorem State.updMe_committed (s : State) (f : Seq → Seq) : (s.updMe f).committed = s.committed := rfl
@[simp] theorem State.updMe_windowStart (s : State) (f : Seq → Seq) : (s.updMe f).windowStart = s.windowStart := rfl
@[simp] theorem State.updMe_budget (s : State) (f : Seq → Seq) : (s.updMe f).budget = s.budget := rfl
@[simp] theorem State.updMe_thermal (s : State) (f : Seq → Seq) : (s.updMe f).thermal = s.thermal := rfl
@[simp] theorem State.updMe_errTimes (s : State) (f : Seq → Seq) : (s.updMe f).errTimes = s.errTimes := rfl
@[simp] theorem State.updMe_retiredLog (s : State) (f : Seq → Seq) : (s.updMe f).retiredLog = s.retiredLog := rfl
@[simp] theorem State.updMe_mcLog (s : State) (f : Seq → Seq) : (s.updMe f).mcLog = s.mcLog := rfl
@[simp] theorem State.updMe_image (s : State) (f : Seq → Seq) : (s.updMe f).image = s.image := rfl
@[simp] theorem State.updMe_nextImage (s : State) (f : Seq → Seq) : (s.updMe f).nextImage = s.nextImage := rfl
@[simp] theorem State.updMe_attQueue (s : State) (f : Seq → Seq) : (s.updMe f).attQueue = s.attQueue := rfl
@[simp] theorem State.updMe_ports (s : State) (f : Seq → Seq) : (s.updMe f).ports = s.ports := rfl
@[simp] theorem State.updMe_links (s : State) (f : Seq → Seq) : (s.updMe f).links = s.links := rfl
@[simp] theorem State.updMe_hostVal (s : State) (f : Seq → Seq) : (s.updMe f).hostVal = s.hostVal := rfl
@[simp] theorem State.updMe_hostLines (s : State) (f : Seq → Seq) : (s.updMe f).hostLines = s.hostLines := rfl
@[simp] theorem State.updMe_outbox (s : State) (f : Seq → Seq) : (s.updMe f).outbox = s.outbox := rfl

@[simp] theorem State.waitFor_cur (s : State) (k : Agent) (w : Wait) : (s.waitFor k w).cur = s.cur := rfl
@[simp] theorem State.waitFor_agenda (s : State) (k : Agent) (w : Wait) : (s.waitFor k w).agenda = s.agenda := rfl
@[simp] theorem State.waitFor_due (s : State) (k : Agent) (w : Wait) : (s.waitFor k w).due = s.due := rfl
@[simp] theorem State.waitFor_fresh (s : State) (k : Agent) (w : Wait) : (s.waitFor k w).fresh = s.fresh := rfl
@[simp] theorem State.waitFor_cycle (s : State) (k : Agent) (w : Wait) : (s.waitFor k w).cycle = s.cycle := rfl
@[simp] theorem State.waitFor_off (s : State) (k : Agent) (w : Wait) : (s.waitFor k w).off = s.off := rfl
@[simp] theorem State.waitFor_recovery (s : State) (k : Agent) (w : Wait) : (s.waitFor k w).recovery = s.recovery := rfl
@[simp] theorem State.waitFor_mem (s : State) (k : Agent) (w : Wait) : (s.waitFor k w).mem = s.mem := rfl
@[simp] theorem State.waitFor_stage (s : State) (k : Agent) (w : Wait) : (s.waitFor k w).stage = s.stage := rfl
@[simp] theorem State.waitFor_bt (s : State) (k : Agent) (w : Wait) : (s.waitFor k w).bt = s.bt := rfl
@[simp] theorem State.waitFor_stageWait (s : State) (k : Agent) (w : Wait) : (s.waitFor k w).stageWait = s.stageWait := rfl
@[simp] theorem State.waitFor_homes (s : State) (k : Agent) (w : Wait) : (s.waitFor k w).homes = s.homes := rfl
@[simp] theorem State.waitFor_slices (s : State) (k : Agent) (w : Wait) : (s.waitFor k w).slices = s.slices := rfl
@[simp] theorem State.waitFor_copies (s : State) (k : Agent) (w : Wait) : (s.waitFor k w).copies = s.copies := rfl
@[simp] theorem State.waitFor_engCopies (s : State) (k : Agent) (w : Wait) : (s.waitFor k w).engCopies = s.engCopies := rfl
@[simp] theorem State.waitFor_engPeerOut (s : State) (k : Agent) (w : Wait) : (s.waitFor k w).engPeerOut = s.engPeerOut := rfl
@[simp] theorem State.waitFor_poisoned (s : State) (k : Agent) (w : Wait) : (s.waitFor k w).poisoned = s.poisoned := rfl
@[simp] theorem State.waitFor_latches (s : State) (k : Agent) (w : Wait) : (s.waitFor k w).latches = s.latches := rfl
@[simp] theorem State.waitFor_pairLatches (s : State) (k : Agent) (w : Wait) : (s.waitFor k w).pairLatches = s.pairLatches := rfl
@[simp] theorem State.waitFor_tileVis (s : State) (k : Agent) (w : Wait) : (s.waitFor k w).tileVis = s.tileVis := rfl
@[simp] theorem State.waitFor_engPeerBad (s : State) (k : Agent) (w : Wait) : (s.waitFor k w).engPeerBad = s.engPeerBad := rfl
@[simp] theorem State.waitFor_roomWait (s : State) (k : Agent) (w : Wait) : (s.waitFor k w).roomWait = s.roomWait := rfl
@[simp] theorem State.waitFor_devWrites (s : State) (k : Agent) (w : Wait) : (s.waitFor k w).devWrites = s.devWrites := rfl
@[simp] theorem State.waitFor_converted (s : State) (k : Agent) (w : Wait) : (s.waitFor k w).converted = s.converted := rfl
@[simp] theorem State.waitFor_tbase (s : State) (k : Agent) (w : Wait) : (s.waitFor k w).tbase = s.tbase := rfl
@[simp] theorem State.waitFor_rebases (s : State) (k : Agent) (w : Wait) : (s.waitFor k w).rebases = s.rebases := rfl
@[simp] theorem State.waitFor_engGen (s : State) (k : Agent) (w : Wait) : (s.waitFor k w).engGen = s.engGen := rfl
@[simp] theorem State.waitFor_hostHorizon (s : State) (k : Agent) (w : Wait) : (s.waitFor k w).hostHorizon = s.hostHorizon := rfl
@[simp] theorem State.waitFor_peerHorizon (s : State) (k : Agent) (w : Wait) : (s.waitFor k w).peerHorizon = s.peerHorizon := rfl
@[simp] theorem State.waitFor_owners (s : State) (k : Agent) (w : Wait) : (s.waitFor k w).owners = s.owners := rfl
@[simp] theorem State.waitFor_bias (s : State) (k : Agent) (w : Wait) : (s.waitFor k w).bias = s.bias := rfl
@[simp] theorem State.waitFor_waiting (s : State) (k : Agent) (w : Wait) : (s.waitFor k w).waiting = s.waiting := rfl
@[simp] theorem State.waitFor_hostAsked (s : State) (k : Agent) (w : Wait) : (s.waitFor k w).hostAsked = s.hostAsked := rfl
@[simp] theorem State.waitFor_flipping (s : State) (k : Agent) (w : Wait) : (s.waitFor k w).flipping = s.flipping := rfl
@[simp] theorem State.waitFor_coreTlb (s : State) (k : Agent) (w : Wait) : (s.waitFor k w).coreTlb = s.coreTlb := rfl
@[simp] theorem State.waitFor_dieTlb (s : State) (k : Agent) (w : Wait) : (s.waitFor k w).dieTlb = s.dieTlb := rfl
@[simp] theorem State.waitFor_mdCached (s : State) (k : Agent) (w : Wait) : (s.waitFor k w).mdCached = s.mdCached := rfl
@[simp] theorem State.waitFor_vis (s : State) (k : Agent) (w : Wait) : (s.waitFor k w).vis = s.vis := rfl
@[simp] theorem State.waitFor_slates (s : State) (k : Agent) (w : Wait) : (s.waitFor k w).slates = s.slates := rfl
@[simp] theorem State.waitFor_dies (s : State) (k : Agent) (w : Wait) : (s.waitFor k w).dies = s.dies := rfl
@[simp] theorem State.waitFor_chains (s : State) (k : Agent) (w : Wait) : (s.waitFor k w).chains = s.chains := rfl
@[simp] theorem State.waitFor_matrix (s : State) (k : Agent) (w : Wait) : (s.waitFor k w).matrix = s.matrix := rfl
@[simp] theorem State.waitFor_mgmt (s : State) (k : Agent) (w : Wait) : (s.waitFor k w).mgmt = s.mgmt := rfl
@[simp] theorem State.waitFor_energy (s : State) (k : Agent) (w : Wait) : (s.waitFor k w).energy = s.energy := rfl
@[simp] theorem State.waitFor_residue (s : State) (k : Agent) (w : Wait) : (s.waitFor k w).residue = s.residue := rfl
@[simp] theorem State.waitFor_committed (s : State) (k : Agent) (w : Wait) : (s.waitFor k w).committed = s.committed := rfl
@[simp] theorem State.waitFor_windowStart (s : State) (k : Agent) (w : Wait) : (s.waitFor k w).windowStart = s.windowStart := rfl
@[simp] theorem State.waitFor_budget (s : State) (k : Agent) (w : Wait) : (s.waitFor k w).budget = s.budget := rfl
@[simp] theorem State.waitFor_thermal (s : State) (k : Agent) (w : Wait) : (s.waitFor k w).thermal = s.thermal := rfl
@[simp] theorem State.waitFor_errTimes (s : State) (k : Agent) (w : Wait) : (s.waitFor k w).errTimes = s.errTimes := rfl
@[simp] theorem State.waitFor_retiredLog (s : State) (k : Agent) (w : Wait) : (s.waitFor k w).retiredLog = s.retiredLog := rfl
@[simp] theorem State.waitFor_mcLog (s : State) (k : Agent) (w : Wait) : (s.waitFor k w).mcLog = s.mcLog := rfl
@[simp] theorem State.waitFor_image (s : State) (k : Agent) (w : Wait) : (s.waitFor k w).image = s.image := rfl
@[simp] theorem State.waitFor_nextImage (s : State) (k : Agent) (w : Wait) : (s.waitFor k w).nextImage = s.nextImage := rfl
@[simp] theorem State.waitFor_attQueue (s : State) (k : Agent) (w : Wait) : (s.waitFor k w).attQueue = s.attQueue := rfl
@[simp] theorem State.waitFor_ports (s : State) (k : Agent) (w : Wait) : (s.waitFor k w).ports = s.ports := rfl
@[simp] theorem State.waitFor_links (s : State) (k : Agent) (w : Wait) : (s.waitFor k w).links = s.links := rfl
@[simp] theorem State.waitFor_hostVal (s : State) (k : Agent) (w : Wait) : (s.waitFor k w).hostVal = s.hostVal := rfl
@[simp] theorem State.waitFor_hostLines (s : State) (k : Agent) (w : Wait) : (s.waitFor k w).hostLines = s.hostLines := rfl
@[simp] theorem State.waitFor_outbox (s : State) (k : Agent) (w : Wait) : (s.waitFor k w).outbox = s.outbox := rfl

@[simp] theorem State.wake_cur (s : State) (k : Agent) : (s.wake k).cur = s.cur := rfl
@[simp] theorem State.wake_agenda (s : State) (k : Agent) : (s.wake k).agenda = s.agenda := rfl
@[simp] theorem State.wake_due (s : State) (k : Agent) : (s.wake k).due = s.due := rfl
@[simp] theorem State.wake_fresh (s : State) (k : Agent) : (s.wake k).fresh = s.fresh := rfl
@[simp] theorem State.wake_cycle (s : State) (k : Agent) : (s.wake k).cycle = s.cycle := rfl
@[simp] theorem State.wake_off (s : State) (k : Agent) : (s.wake k).off = s.off := rfl
@[simp] theorem State.wake_recovery (s : State) (k : Agent) : (s.wake k).recovery = s.recovery := rfl
@[simp] theorem State.wake_mem (s : State) (k : Agent) : (s.wake k).mem = s.mem := rfl
@[simp] theorem State.wake_stage (s : State) (k : Agent) : (s.wake k).stage = s.stage := rfl
@[simp] theorem State.wake_bt (s : State) (k : Agent) : (s.wake k).bt = s.bt := rfl
@[simp] theorem State.wake_stageWait (s : State) (k : Agent) : (s.wake k).stageWait = s.stageWait := rfl
@[simp] theorem State.wake_homes (s : State) (k : Agent) : (s.wake k).homes = s.homes := rfl
@[simp] theorem State.wake_slices (s : State) (k : Agent) : (s.wake k).slices = s.slices := rfl
@[simp] theorem State.wake_copies (s : State) (k : Agent) : (s.wake k).copies = s.copies := rfl
@[simp] theorem State.wake_engCopies (s : State) (k : Agent) : (s.wake k).engCopies = s.engCopies := rfl
@[simp] theorem State.wake_engPeerOut (s : State) (k : Agent) : (s.wake k).engPeerOut = s.engPeerOut := rfl
@[simp] theorem State.wake_poisoned (s : State) (k : Agent) : (s.wake k).poisoned = s.poisoned := rfl
@[simp] theorem State.wake_latches (s : State) (k : Agent) : (s.wake k).latches = s.latches := rfl
@[simp] theorem State.wake_pairLatches (s : State) (k : Agent) : (s.wake k).pairLatches = s.pairLatches := rfl
@[simp] theorem State.wake_tileVis (s : State) (k : Agent) : (s.wake k).tileVis = s.tileVis := rfl
@[simp] theorem State.wake_engPeerBad (s : State) (k : Agent) : (s.wake k).engPeerBad = s.engPeerBad := rfl
@[simp] theorem State.wake_roomWait (s : State) (k : Agent) : (s.wake k).roomWait = s.roomWait := rfl
@[simp] theorem State.wake_devWrites (s : State) (k : Agent) : (s.wake k).devWrites = s.devWrites := rfl
@[simp] theorem State.wake_converted (s : State) (k : Agent) : (s.wake k).converted = s.converted := rfl
@[simp] theorem State.wake_tbase (s : State) (k : Agent) : (s.wake k).tbase = s.tbase := rfl
@[simp] theorem State.wake_rebases (s : State) (k : Agent) : (s.wake k).rebases = s.rebases := rfl
@[simp] theorem State.wake_engGen (s : State) (k : Agent) : (s.wake k).engGen = s.engGen := rfl
@[simp] theorem State.wake_hostHorizon (s : State) (k : Agent) : (s.wake k).hostHorizon = s.hostHorizon := rfl
@[simp] theorem State.wake_peerHorizon (s : State) (k : Agent) : (s.wake k).peerHorizon = s.peerHorizon := rfl
@[simp] theorem State.wake_owners (s : State) (k : Agent) : (s.wake k).owners = s.owners := rfl
@[simp] theorem State.wake_bias (s : State) (k : Agent) : (s.wake k).bias = s.bias := rfl
@[simp] theorem State.wake_waiting (s : State) (k : Agent) : (s.wake k).waiting = s.waiting := rfl
@[simp] theorem State.wake_hostAsked (s : State) (k : Agent) : (s.wake k).hostAsked = s.hostAsked := rfl
@[simp] theorem State.wake_flipping (s : State) (k : Agent) : (s.wake k).flipping = s.flipping := rfl
@[simp] theorem State.wake_coreTlb (s : State) (k : Agent) : (s.wake k).coreTlb = s.coreTlb := rfl
@[simp] theorem State.wake_dieTlb (s : State) (k : Agent) : (s.wake k).dieTlb = s.dieTlb := rfl
@[simp] theorem State.wake_mdCached (s : State) (k : Agent) : (s.wake k).mdCached = s.mdCached := rfl
@[simp] theorem State.wake_vis (s : State) (k : Agent) : (s.wake k).vis = s.vis := rfl
@[simp] theorem State.wake_slates (s : State) (k : Agent) : (s.wake k).slates = s.slates := rfl
@[simp] theorem State.wake_dies (s : State) (k : Agent) : (s.wake k).dies = s.dies := rfl
@[simp] theorem State.wake_chains (s : State) (k : Agent) : (s.wake k).chains = s.chains := rfl
@[simp] theorem State.wake_matrix (s : State) (k : Agent) : (s.wake k).matrix = s.matrix := rfl
@[simp] theorem State.wake_mgmt (s : State) (k : Agent) : (s.wake k).mgmt = s.mgmt := rfl
@[simp] theorem State.wake_energy (s : State) (k : Agent) : (s.wake k).energy = s.energy := rfl
@[simp] theorem State.wake_residue (s : State) (k : Agent) : (s.wake k).residue = s.residue := rfl
@[simp] theorem State.wake_committed (s : State) (k : Agent) : (s.wake k).committed = s.committed := rfl
@[simp] theorem State.wake_windowStart (s : State) (k : Agent) : (s.wake k).windowStart = s.windowStart := rfl
@[simp] theorem State.wake_budget (s : State) (k : Agent) : (s.wake k).budget = s.budget := rfl
@[simp] theorem State.wake_thermal (s : State) (k : Agent) : (s.wake k).thermal = s.thermal := rfl
@[simp] theorem State.wake_errTimes (s : State) (k : Agent) : (s.wake k).errTimes = s.errTimes := rfl
@[simp] theorem State.wake_retiredLog (s : State) (k : Agent) : (s.wake k).retiredLog = s.retiredLog := rfl
@[simp] theorem State.wake_mcLog (s : State) (k : Agent) : (s.wake k).mcLog = s.mcLog := rfl
@[simp] theorem State.wake_image (s : State) (k : Agent) : (s.wake k).image = s.image := rfl
@[simp] theorem State.wake_nextImage (s : State) (k : Agent) : (s.wake k).nextImage = s.nextImage := rfl
@[simp] theorem State.wake_attQueue (s : State) (k : Agent) : (s.wake k).attQueue = s.attQueue := rfl
@[simp] theorem State.wake_ports (s : State) (k : Agent) : (s.wake k).ports = s.ports := rfl
@[simp] theorem State.wake_links (s : State) (k : Agent) : (s.wake k).links = s.links := rfl
@[simp] theorem State.wake_hostVal (s : State) (k : Agent) : (s.wake k).hostVal = s.hostVal := rfl
@[simp] theorem State.wake_hostLines (s : State) (k : Agent) : (s.wake k).hostLines = s.hostLines := rfl
@[simp] theorem State.wake_outbox (s : State) (k : Agent) : (s.wake k).outbox = s.outbox := rfl

@[simp] theorem State.post_seqs (s : State) (d : Due) : (s.post d).seqs = s.seqs := rfl
@[simp] theorem State.post_cur (s : State) (d : Due) : (s.post d).cur = s.cur := rfl
@[simp] theorem State.post_agenda (s : State) (d : Due) : (s.post d).agenda = s.agenda := rfl
@[simp] theorem State.post_fresh (s : State) (d : Due) : (s.post d).fresh = s.fresh := rfl
@[simp] theorem State.post_cycle (s : State) (d : Due) : (s.post d).cycle = s.cycle := rfl
@[simp] theorem State.post_off (s : State) (d : Due) : (s.post d).off = s.off := rfl
@[simp] theorem State.post_recovery (s : State) (d : Due) : (s.post d).recovery = s.recovery := rfl
@[simp] theorem State.post_mem (s : State) (d : Due) : (s.post d).mem = s.mem := rfl
@[simp] theorem State.post_stage (s : State) (d : Due) : (s.post d).stage = s.stage := rfl
@[simp] theorem State.post_bt (s : State) (d : Due) : (s.post d).bt = s.bt := rfl
@[simp] theorem State.post_stageWait (s : State) (d : Due) : (s.post d).stageWait = s.stageWait := rfl
@[simp] theorem State.post_homes (s : State) (d : Due) : (s.post d).homes = s.homes := rfl
@[simp] theorem State.post_slices (s : State) (d : Due) : (s.post d).slices = s.slices := rfl
@[simp] theorem State.post_copies (s : State) (d : Due) : (s.post d).copies = s.copies := rfl
@[simp] theorem State.post_engCopies (s : State) (d : Due) : (s.post d).engCopies = s.engCopies := rfl
@[simp] theorem State.post_engPeerOut (s : State) (d : Due) : (s.post d).engPeerOut = s.engPeerOut := rfl
@[simp] theorem State.post_poisoned (s : State) (d : Due) : (s.post d).poisoned = s.poisoned := rfl
@[simp] theorem State.post_latches (s : State) (d : Due) : (s.post d).latches = s.latches := rfl
@[simp] theorem State.post_pairLatches (s : State) (d : Due) : (s.post d).pairLatches = s.pairLatches := rfl
@[simp] theorem State.post_tileVis (s : State) (d : Due) : (s.post d).tileVis = s.tileVis := rfl
@[simp] theorem State.post_engPeerBad (s : State) (d : Due) : (s.post d).engPeerBad = s.engPeerBad := rfl
@[simp] theorem State.post_roomWait (s : State) (d : Due) : (s.post d).roomWait = s.roomWait := rfl
@[simp] theorem State.post_devWrites (s : State) (d : Due) : (s.post d).devWrites = s.devWrites := rfl
@[simp] theorem State.post_converted (s : State) (d : Due) : (s.post d).converted = s.converted := rfl
@[simp] theorem State.post_tbase (s : State) (d : Due) : (s.post d).tbase = s.tbase := rfl
@[simp] theorem State.post_rebases (s : State) (d : Due) : (s.post d).rebases = s.rebases := rfl
@[simp] theorem State.post_engGen (s : State) (d : Due) : (s.post d).engGen = s.engGen := rfl
@[simp] theorem State.post_hostHorizon (s : State) (d : Due) : (s.post d).hostHorizon = s.hostHorizon := rfl
@[simp] theorem State.post_peerHorizon (s : State) (d : Due) : (s.post d).peerHorizon = s.peerHorizon := rfl
@[simp] theorem State.post_owners (s : State) (d : Due) : (s.post d).owners = s.owners := rfl
@[simp] theorem State.post_bias (s : State) (d : Due) : (s.post d).bias = s.bias := rfl
@[simp] theorem State.post_waiting (s : State) (d : Due) : (s.post d).waiting = s.waiting := rfl
@[simp] theorem State.post_hostAsked (s : State) (d : Due) : (s.post d).hostAsked = s.hostAsked := rfl
@[simp] theorem State.post_flipping (s : State) (d : Due) : (s.post d).flipping = s.flipping := rfl
@[simp] theorem State.post_coreTlb (s : State) (d : Due) : (s.post d).coreTlb = s.coreTlb := rfl
@[simp] theorem State.post_dieTlb (s : State) (d : Due) : (s.post d).dieTlb = s.dieTlb := rfl
@[simp] theorem State.post_mdCached (s : State) (d : Due) : (s.post d).mdCached = s.mdCached := rfl
@[simp] theorem State.post_vis (s : State) (d : Due) : (s.post d).vis = s.vis := rfl
@[simp] theorem State.post_slates (s : State) (d : Due) : (s.post d).slates = s.slates := rfl
@[simp] theorem State.post_dies (s : State) (d : Due) : (s.post d).dies = s.dies := rfl
@[simp] theorem State.post_chains (s : State) (d : Due) : (s.post d).chains = s.chains := rfl
@[simp] theorem State.post_matrix (s : State) (d : Due) : (s.post d).matrix = s.matrix := rfl
@[simp] theorem State.post_mgmt (s : State) (d : Due) : (s.post d).mgmt = s.mgmt := rfl
@[simp] theorem State.post_energy (s : State) (d : Due) : (s.post d).energy = s.energy := rfl
@[simp] theorem State.post_residue (s : State) (d : Due) : (s.post d).residue = s.residue := rfl
@[simp] theorem State.post_committed (s : State) (d : Due) : (s.post d).committed = s.committed := rfl
@[simp] theorem State.post_windowStart (s : State) (d : Due) : (s.post d).windowStart = s.windowStart := rfl
@[simp] theorem State.post_budget (s : State) (d : Due) : (s.post d).budget = s.budget := rfl
@[simp] theorem State.post_thermal (s : State) (d : Due) : (s.post d).thermal = s.thermal := rfl
@[simp] theorem State.post_errTimes (s : State) (d : Due) : (s.post d).errTimes = s.errTimes := rfl
@[simp] theorem State.post_retiredLog (s : State) (d : Due) : (s.post d).retiredLog = s.retiredLog := rfl
@[simp] theorem State.post_mcLog (s : State) (d : Due) : (s.post d).mcLog = s.mcLog := rfl
@[simp] theorem State.post_image (s : State) (d : Due) : (s.post d).image = s.image := rfl
@[simp] theorem State.post_nextImage (s : State) (d : Due) : (s.post d).nextImage = s.nextImage := rfl
@[simp] theorem State.post_attQueue (s : State) (d : Due) : (s.post d).attQueue = s.attQueue := rfl
@[simp] theorem State.post_ports (s : State) (d : Due) : (s.post d).ports = s.ports := rfl
@[simp] theorem State.post_links (s : State) (d : Due) : (s.post d).links = s.links := rfl
@[simp] theorem State.post_hostVal (s : State) (d : Due) : (s.post d).hostVal = s.hostVal := rfl
@[simp] theorem State.post_hostLines (s : State) (d : Due) : (s.post d).hostLines = s.hostLines := rfl
@[simp] theorem State.post_outbox (s : State) (d : Due) : (s.post d).outbox = s.outbox := rfl

@[simp] theorem State.updVi_seqs (s : State) (n : Nat) (f : Vi → Vi) : (s.updVi n f).seqs = s.seqs := rfl
@[simp] theorem State.updVi_cur (s : State) (n : Nat) (f : Vi → Vi) : (s.updVi n f).cur = s.cur := rfl
@[simp] theorem State.updVi_agenda (s : State) (n : Nat) (f : Vi → Vi) : (s.updVi n f).agenda = s.agenda := rfl
@[simp] theorem State.updVi_due (s : State) (n : Nat) (f : Vi → Vi) : (s.updVi n f).due = s.due := rfl
@[simp] theorem State.updVi_fresh (s : State) (n : Nat) (f : Vi → Vi) : (s.updVi n f).fresh = s.fresh := rfl
@[simp] theorem State.updVi_cycle (s : State) (n : Nat) (f : Vi → Vi) : (s.updVi n f).cycle = s.cycle := rfl
@[simp] theorem State.updVi_off (s : State) (n : Nat) (f : Vi → Vi) : (s.updVi n f).off = s.off := rfl
@[simp] theorem State.updVi_recovery (s : State) (n : Nat) (f : Vi → Vi) : (s.updVi n f).recovery = s.recovery := rfl
@[simp] theorem State.updVi_mem (s : State) (n : Nat) (f : Vi → Vi) : (s.updVi n f).mem = s.mem := rfl
@[simp] theorem State.updVi_stage (s : State) (n : Nat) (f : Vi → Vi) : (s.updVi n f).stage = s.stage := rfl
@[simp] theorem State.updVi_bt (s : State) (n : Nat) (f : Vi → Vi) : (s.updVi n f).bt = s.bt := rfl
@[simp] theorem State.updVi_stageWait (s : State) (n : Nat) (f : Vi → Vi) : (s.updVi n f).stageWait = s.stageWait := rfl
@[simp] theorem State.updVi_homes (s : State) (n : Nat) (f : Vi → Vi) : (s.updVi n f).homes = s.homes := rfl
@[simp] theorem State.updVi_slices (s : State) (n : Nat) (f : Vi → Vi) : (s.updVi n f).slices = s.slices := rfl
@[simp] theorem State.updVi_copies (s : State) (n : Nat) (f : Vi → Vi) : (s.updVi n f).copies = s.copies := rfl
@[simp] theorem State.updVi_engCopies (s : State) (n : Nat) (f : Vi → Vi) : (s.updVi n f).engCopies = s.engCopies := rfl
@[simp] theorem State.updVi_engPeerOut (s : State) (n : Nat) (f : Vi → Vi) : (s.updVi n f).engPeerOut = s.engPeerOut := rfl
@[simp] theorem State.updVi_poisoned (s : State) (n : Nat) (f : Vi → Vi) : (s.updVi n f).poisoned = s.poisoned := rfl
@[simp] theorem State.updVi_latches (s : State) (n : Nat) (f : Vi → Vi) : (s.updVi n f).latches = s.latches := rfl
@[simp] theorem State.updVi_pairLatches (s : State) (n : Nat) (f : Vi → Vi) : (s.updVi n f).pairLatches = s.pairLatches := rfl
@[simp] theorem State.updVi_tileVis (s : State) (n : Nat) (f : Vi → Vi) : (s.updVi n f).tileVis = s.tileVis := rfl
@[simp] theorem State.updVi_engPeerBad (s : State) (n : Nat) (f : Vi → Vi) : (s.updVi n f).engPeerBad = s.engPeerBad := rfl
@[simp] theorem State.updVi_roomWait (s : State) (n : Nat) (f : Vi → Vi) : (s.updVi n f).roomWait = s.roomWait := rfl
@[simp] theorem State.updVi_devWrites (s : State) (n : Nat) (f : Vi → Vi) : (s.updVi n f).devWrites = s.devWrites := rfl
@[simp] theorem State.updVi_converted (s : State) (n : Nat) (f : Vi → Vi) : (s.updVi n f).converted = s.converted := rfl
@[simp] theorem State.updVi_tbase (s : State) (n : Nat) (f : Vi → Vi) : (s.updVi n f).tbase = s.tbase := rfl
@[simp] theorem State.updVi_rebases (s : State) (n : Nat) (f : Vi → Vi) : (s.updVi n f).rebases = s.rebases := rfl
@[simp] theorem State.updVi_engGen (s : State) (n : Nat) (f : Vi → Vi) : (s.updVi n f).engGen = s.engGen := rfl
@[simp] theorem State.updVi_hostHorizon (s : State) (n : Nat) (f : Vi → Vi) : (s.updVi n f).hostHorizon = s.hostHorizon := rfl
@[simp] theorem State.updVi_peerHorizon (s : State) (n : Nat) (f : Vi → Vi) : (s.updVi n f).peerHorizon = s.peerHorizon := rfl
@[simp] theorem State.updVi_owners (s : State) (n : Nat) (f : Vi → Vi) : (s.updVi n f).owners = s.owners := rfl
@[simp] theorem State.updVi_bias (s : State) (n : Nat) (f : Vi → Vi) : (s.updVi n f).bias = s.bias := rfl
@[simp] theorem State.updVi_waiting (s : State) (n : Nat) (f : Vi → Vi) : (s.updVi n f).waiting = s.waiting := rfl
@[simp] theorem State.updVi_hostAsked (s : State) (n : Nat) (f : Vi → Vi) : (s.updVi n f).hostAsked = s.hostAsked := rfl
@[simp] theorem State.updVi_flipping (s : State) (n : Nat) (f : Vi → Vi) : (s.updVi n f).flipping = s.flipping := rfl
@[simp] theorem State.updVi_coreTlb (s : State) (n : Nat) (f : Vi → Vi) : (s.updVi n f).coreTlb = s.coreTlb := rfl
@[simp] theorem State.updVi_dieTlb (s : State) (n : Nat) (f : Vi → Vi) : (s.updVi n f).dieTlb = s.dieTlb := rfl
@[simp] theorem State.updVi_mdCached (s : State) (n : Nat) (f : Vi → Vi) : (s.updVi n f).mdCached = s.mdCached := rfl
@[simp] theorem State.updVi_slates (s : State) (n : Nat) (f : Vi → Vi) : (s.updVi n f).slates = s.slates := rfl
@[simp] theorem State.updVi_dies (s : State) (n : Nat) (f : Vi → Vi) : (s.updVi n f).dies = s.dies := rfl
@[simp] theorem State.updVi_chains (s : State) (n : Nat) (f : Vi → Vi) : (s.updVi n f).chains = s.chains := rfl
@[simp] theorem State.updVi_matrix (s : State) (n : Nat) (f : Vi → Vi) : (s.updVi n f).matrix = s.matrix := rfl
@[simp] theorem State.updVi_mgmt (s : State) (n : Nat) (f : Vi → Vi) : (s.updVi n f).mgmt = s.mgmt := rfl
@[simp] theorem State.updVi_energy (s : State) (n : Nat) (f : Vi → Vi) : (s.updVi n f).energy = s.energy := rfl
@[simp] theorem State.updVi_residue (s : State) (n : Nat) (f : Vi → Vi) : (s.updVi n f).residue = s.residue := rfl
@[simp] theorem State.updVi_committed (s : State) (n : Nat) (f : Vi → Vi) : (s.updVi n f).committed = s.committed := rfl
@[simp] theorem State.updVi_windowStart (s : State) (n : Nat) (f : Vi → Vi) : (s.updVi n f).windowStart = s.windowStart := rfl
@[simp] theorem State.updVi_budget (s : State) (n : Nat) (f : Vi → Vi) : (s.updVi n f).budget = s.budget := rfl
@[simp] theorem State.updVi_thermal (s : State) (n : Nat) (f : Vi → Vi) : (s.updVi n f).thermal = s.thermal := rfl
@[simp] theorem State.updVi_errTimes (s : State) (n : Nat) (f : Vi → Vi) : (s.updVi n f).errTimes = s.errTimes := rfl
@[simp] theorem State.updVi_retiredLog (s : State) (n : Nat) (f : Vi → Vi) : (s.updVi n f).retiredLog = s.retiredLog := rfl
@[simp] theorem State.updVi_mcLog (s : State) (n : Nat) (f : Vi → Vi) : (s.updVi n f).mcLog = s.mcLog := rfl
@[simp] theorem State.updVi_image (s : State) (n : Nat) (f : Vi → Vi) : (s.updVi n f).image = s.image := rfl
@[simp] theorem State.updVi_nextImage (s : State) (n : Nat) (f : Vi → Vi) : (s.updVi n f).nextImage = s.nextImage := rfl
@[simp] theorem State.updVi_attQueue (s : State) (n : Nat) (f : Vi → Vi) : (s.updVi n f).attQueue = s.attQueue := rfl
@[simp] theorem State.updVi_ports (s : State) (n : Nat) (f : Vi → Vi) : (s.updVi n f).ports = s.ports := rfl
@[simp] theorem State.updVi_links (s : State) (n : Nat) (f : Vi → Vi) : (s.updVi n f).links = s.links := rfl
@[simp] theorem State.updVi_hostVal (s : State) (n : Nat) (f : Vi → Vi) : (s.updVi n f).hostVal = s.hostVal := rfl
@[simp] theorem State.updVi_hostLines (s : State) (n : Nat) (f : Vi → Vi) : (s.updVi n f).hostLines = s.hostLines := rfl
@[simp] theorem State.updVi_outbox (s : State) (n : Nat) (f : Vi → Vi) : (s.updVi n f).outbox = s.outbox := rfl

@[simp] theorem State.updChain_seqs (s : State) (c : ChainId) (f : Chain → Chain) : (s.updChain c f).seqs = s.seqs := rfl
@[simp] theorem State.updChain_cur (s : State) (c : ChainId) (f : Chain → Chain) : (s.updChain c f).cur = s.cur := rfl
@[simp] theorem State.updChain_agenda (s : State) (c : ChainId) (f : Chain → Chain) : (s.updChain c f).agenda = s.agenda := rfl
@[simp] theorem State.updChain_due (s : State) (c : ChainId) (f : Chain → Chain) : (s.updChain c f).due = s.due := rfl
@[simp] theorem State.updChain_fresh (s : State) (c : ChainId) (f : Chain → Chain) : (s.updChain c f).fresh = s.fresh := rfl
@[simp] theorem State.updChain_cycle (s : State) (c : ChainId) (f : Chain → Chain) : (s.updChain c f).cycle = s.cycle := rfl
@[simp] theorem State.updChain_off (s : State) (c : ChainId) (f : Chain → Chain) : (s.updChain c f).off = s.off := rfl
@[simp] theorem State.updChain_recovery (s : State) (c : ChainId) (f : Chain → Chain) : (s.updChain c f).recovery = s.recovery := rfl
@[simp] theorem State.updChain_mem (s : State) (c : ChainId) (f : Chain → Chain) : (s.updChain c f).mem = s.mem := rfl
@[simp] theorem State.updChain_stage (s : State) (c : ChainId) (f : Chain → Chain) : (s.updChain c f).stage = s.stage := rfl
@[simp] theorem State.updChain_bt (s : State) (c : ChainId) (f : Chain → Chain) : (s.updChain c f).bt = s.bt := rfl
@[simp] theorem State.updChain_stageWait (s : State) (c : ChainId) (f : Chain → Chain) : (s.updChain c f).stageWait = s.stageWait := rfl
@[simp] theorem State.updChain_homes (s : State) (c : ChainId) (f : Chain → Chain) : (s.updChain c f).homes = s.homes := rfl
@[simp] theorem State.updChain_slices (s : State) (c : ChainId) (f : Chain → Chain) : (s.updChain c f).slices = s.slices := rfl
@[simp] theorem State.updChain_copies (s : State) (c : ChainId) (f : Chain → Chain) : (s.updChain c f).copies = s.copies := rfl
@[simp] theorem State.updChain_engCopies (s : State) (c : ChainId) (f : Chain → Chain) : (s.updChain c f).engCopies = s.engCopies := rfl
@[simp] theorem State.updChain_engPeerOut (s : State) (c : ChainId) (f : Chain → Chain) : (s.updChain c f).engPeerOut = s.engPeerOut := rfl
@[simp] theorem State.updChain_poisoned (s : State) (c : ChainId) (f : Chain → Chain) : (s.updChain c f).poisoned = s.poisoned := rfl
@[simp] theorem State.updChain_latches (s : State) (c : ChainId) (f : Chain → Chain) : (s.updChain c f).latches = s.latches := rfl
@[simp] theorem State.updChain_pairLatches (s : State) (c : ChainId) (f : Chain → Chain) : (s.updChain c f).pairLatches = s.pairLatches := rfl
@[simp] theorem State.updChain_tileVis (s : State) (c : ChainId) (f : Chain → Chain) : (s.updChain c f).tileVis = s.tileVis := rfl
@[simp] theorem State.updChain_engPeerBad (s : State) (c : ChainId) (f : Chain → Chain) : (s.updChain c f).engPeerBad = s.engPeerBad := rfl
@[simp] theorem State.updChain_roomWait (s : State) (c : ChainId) (f : Chain → Chain) : (s.updChain c f).roomWait = s.roomWait := rfl
@[simp] theorem State.updChain_devWrites (s : State) (c : ChainId) (f : Chain → Chain) : (s.updChain c f).devWrites = s.devWrites := rfl
@[simp] theorem State.updChain_converted (s : State) (c : ChainId) (f : Chain → Chain) : (s.updChain c f).converted = s.converted := rfl
@[simp] theorem State.updChain_tbase (s : State) (c : ChainId) (f : Chain → Chain) : (s.updChain c f).tbase = s.tbase := rfl
@[simp] theorem State.updChain_rebases (s : State) (c : ChainId) (f : Chain → Chain) : (s.updChain c f).rebases = s.rebases := rfl
@[simp] theorem State.updChain_engGen (s : State) (c : ChainId) (f : Chain → Chain) : (s.updChain c f).engGen = s.engGen := rfl
@[simp] theorem State.updChain_hostHorizon (s : State) (c : ChainId) (f : Chain → Chain) : (s.updChain c f).hostHorizon = s.hostHorizon := rfl
@[simp] theorem State.updChain_peerHorizon (s : State) (c : ChainId) (f : Chain → Chain) : (s.updChain c f).peerHorizon = s.peerHorizon := rfl
@[simp] theorem State.updChain_owners (s : State) (c : ChainId) (f : Chain → Chain) : (s.updChain c f).owners = s.owners := rfl
@[simp] theorem State.updChain_bias (s : State) (c : ChainId) (f : Chain → Chain) : (s.updChain c f).bias = s.bias := rfl
@[simp] theorem State.updChain_waiting (s : State) (c : ChainId) (f : Chain → Chain) : (s.updChain c f).waiting = s.waiting := rfl
@[simp] theorem State.updChain_hostAsked (s : State) (c : ChainId) (f : Chain → Chain) : (s.updChain c f).hostAsked = s.hostAsked := rfl
@[simp] theorem State.updChain_flipping (s : State) (c : ChainId) (f : Chain → Chain) : (s.updChain c f).flipping = s.flipping := rfl
@[simp] theorem State.updChain_coreTlb (s : State) (c : ChainId) (f : Chain → Chain) : (s.updChain c f).coreTlb = s.coreTlb := rfl
@[simp] theorem State.updChain_dieTlb (s : State) (c : ChainId) (f : Chain → Chain) : (s.updChain c f).dieTlb = s.dieTlb := rfl
@[simp] theorem State.updChain_mdCached (s : State) (c : ChainId) (f : Chain → Chain) : (s.updChain c f).mdCached = s.mdCached := rfl
@[simp] theorem State.updChain_vis (s : State) (c : ChainId) (f : Chain → Chain) : (s.updChain c f).vis = s.vis := rfl
@[simp] theorem State.updChain_slates (s : State) (c : ChainId) (f : Chain → Chain) : (s.updChain c f).slates = s.slates := rfl
@[simp] theorem State.updChain_dies (s : State) (c : ChainId) (f : Chain → Chain) : (s.updChain c f).dies = s.dies := rfl
@[simp] theorem State.updChain_matrix (s : State) (c : ChainId) (f : Chain → Chain) : (s.updChain c f).matrix = s.matrix := rfl
@[simp] theorem State.updChain_mgmt (s : State) (c : ChainId) (f : Chain → Chain) : (s.updChain c f).mgmt = s.mgmt := rfl
@[simp] theorem State.updChain_energy (s : State) (c : ChainId) (f : Chain → Chain) : (s.updChain c f).energy = s.energy := rfl
@[simp] theorem State.updChain_residue (s : State) (c : ChainId) (f : Chain → Chain) : (s.updChain c f).residue = s.residue := rfl
@[simp] theorem State.updChain_committed (s : State) (c : ChainId) (f : Chain → Chain) : (s.updChain c f).committed = s.committed := rfl
@[simp] theorem State.updChain_windowStart (s : State) (c : ChainId) (f : Chain → Chain) : (s.updChain c f).windowStart = s.windowStart := rfl
@[simp] theorem State.updChain_budget (s : State) (c : ChainId) (f : Chain → Chain) : (s.updChain c f).budget = s.budget := rfl
@[simp] theorem State.updChain_thermal (s : State) (c : ChainId) (f : Chain → Chain) : (s.updChain c f).thermal = s.thermal := rfl
@[simp] theorem State.updChain_errTimes (s : State) (c : ChainId) (f : Chain → Chain) : (s.updChain c f).errTimes = s.errTimes := rfl
@[simp] theorem State.updChain_retiredLog (s : State) (c : ChainId) (f : Chain → Chain) : (s.updChain c f).retiredLog = s.retiredLog := rfl
@[simp] theorem State.updChain_mcLog (s : State) (c : ChainId) (f : Chain → Chain) : (s.updChain c f).mcLog = s.mcLog := rfl
@[simp] theorem State.updChain_image (s : State) (c : ChainId) (f : Chain → Chain) : (s.updChain c f).image = s.image := rfl
@[simp] theorem State.updChain_nextImage (s : State) (c : ChainId) (f : Chain → Chain) : (s.updChain c f).nextImage = s.nextImage := rfl
@[simp] theorem State.updChain_attQueue (s : State) (c : ChainId) (f : Chain → Chain) : (s.updChain c f).attQueue = s.attQueue := rfl
@[simp] theorem State.updChain_ports (s : State) (c : ChainId) (f : Chain → Chain) : (s.updChain c f).ports = s.ports := rfl
@[simp] theorem State.updChain_links (s : State) (c : ChainId) (f : Chain → Chain) : (s.updChain c f).links = s.links := rfl
@[simp] theorem State.updChain_hostVal (s : State) (c : ChainId) (f : Chain → Chain) : (s.updChain c f).hostVal = s.hostVal := rfl
@[simp] theorem State.updChain_hostLines (s : State) (c : ChainId) (f : Chain → Chain) : (s.updChain c f).hostLines = s.hostLines := rfl
@[simp] theorem State.updChain_outbox (s : State) (c : ChainId) (f : Chain → Chain) : (s.updChain c f).outbox = s.outbox := rfl

@[simp] theorem State.updCmd_seqs (s : State) (c : ChainId) (f : Cmd → Cmd) : (s.updCmd c f).seqs = s.seqs := rfl
@[simp] theorem State.updCmd_cur (s : State) (c : ChainId) (f : Cmd → Cmd) : (s.updCmd c f).cur = s.cur := rfl
@[simp] theorem State.updCmd_agenda (s : State) (c : ChainId) (f : Cmd → Cmd) : (s.updCmd c f).agenda = s.agenda := rfl
@[simp] theorem State.updCmd_due (s : State) (c : ChainId) (f : Cmd → Cmd) : (s.updCmd c f).due = s.due := rfl
@[simp] theorem State.updCmd_fresh (s : State) (c : ChainId) (f : Cmd → Cmd) : (s.updCmd c f).fresh = s.fresh := rfl
@[simp] theorem State.updCmd_cycle (s : State) (c : ChainId) (f : Cmd → Cmd) : (s.updCmd c f).cycle = s.cycle := rfl
@[simp] theorem State.updCmd_off (s : State) (c : ChainId) (f : Cmd → Cmd) : (s.updCmd c f).off = s.off := rfl
@[simp] theorem State.updCmd_recovery (s : State) (c : ChainId) (f : Cmd → Cmd) : (s.updCmd c f).recovery = s.recovery := rfl
@[simp] theorem State.updCmd_mem (s : State) (c : ChainId) (f : Cmd → Cmd) : (s.updCmd c f).mem = s.mem := rfl
@[simp] theorem State.updCmd_stage (s : State) (c : ChainId) (f : Cmd → Cmd) : (s.updCmd c f).stage = s.stage := rfl
@[simp] theorem State.updCmd_bt (s : State) (c : ChainId) (f : Cmd → Cmd) : (s.updCmd c f).bt = s.bt := rfl
@[simp] theorem State.updCmd_stageWait (s : State) (c : ChainId) (f : Cmd → Cmd) : (s.updCmd c f).stageWait = s.stageWait := rfl
@[simp] theorem State.updCmd_homes (s : State) (c : ChainId) (f : Cmd → Cmd) : (s.updCmd c f).homes = s.homes := rfl
@[simp] theorem State.updCmd_slices (s : State) (c : ChainId) (f : Cmd → Cmd) : (s.updCmd c f).slices = s.slices := rfl
@[simp] theorem State.updCmd_copies (s : State) (c : ChainId) (f : Cmd → Cmd) : (s.updCmd c f).copies = s.copies := rfl
@[simp] theorem State.updCmd_engCopies (s : State) (c : ChainId) (f : Cmd → Cmd) : (s.updCmd c f).engCopies = s.engCopies := rfl
@[simp] theorem State.updCmd_engPeerOut (s : State) (c : ChainId) (f : Cmd → Cmd) : (s.updCmd c f).engPeerOut = s.engPeerOut := rfl
@[simp] theorem State.updCmd_poisoned (s : State) (c : ChainId) (f : Cmd → Cmd) : (s.updCmd c f).poisoned = s.poisoned := rfl
@[simp] theorem State.updCmd_latches (s : State) (c : ChainId) (f : Cmd → Cmd) : (s.updCmd c f).latches = s.latches := rfl
@[simp] theorem State.updCmd_pairLatches (s : State) (c : ChainId) (f : Cmd → Cmd) : (s.updCmd c f).pairLatches = s.pairLatches := rfl
@[simp] theorem State.updCmd_tileVis (s : State) (c : ChainId) (f : Cmd → Cmd) : (s.updCmd c f).tileVis = s.tileVis := rfl
@[simp] theorem State.updCmd_engPeerBad (s : State) (c : ChainId) (f : Cmd → Cmd) : (s.updCmd c f).engPeerBad = s.engPeerBad := rfl
@[simp] theorem State.updCmd_roomWait (s : State) (c : ChainId) (f : Cmd → Cmd) : (s.updCmd c f).roomWait = s.roomWait := rfl
@[simp] theorem State.updCmd_devWrites (s : State) (c : ChainId) (f : Cmd → Cmd) : (s.updCmd c f).devWrites = s.devWrites := rfl
@[simp] theorem State.updCmd_converted (s : State) (c : ChainId) (f : Cmd → Cmd) : (s.updCmd c f).converted = s.converted := rfl
@[simp] theorem State.updCmd_tbase (s : State) (c : ChainId) (f : Cmd → Cmd) : (s.updCmd c f).tbase = s.tbase := rfl
@[simp] theorem State.updCmd_rebases (s : State) (c : ChainId) (f : Cmd → Cmd) : (s.updCmd c f).rebases = s.rebases := rfl
@[simp] theorem State.updCmd_engGen (s : State) (c : ChainId) (f : Cmd → Cmd) : (s.updCmd c f).engGen = s.engGen := rfl
@[simp] theorem State.updCmd_hostHorizon (s : State) (c : ChainId) (f : Cmd → Cmd) : (s.updCmd c f).hostHorizon = s.hostHorizon := rfl
@[simp] theorem State.updCmd_peerHorizon (s : State) (c : ChainId) (f : Cmd → Cmd) : (s.updCmd c f).peerHorizon = s.peerHorizon := rfl
@[simp] theorem State.updCmd_owners (s : State) (c : ChainId) (f : Cmd → Cmd) : (s.updCmd c f).owners = s.owners := rfl
@[simp] theorem State.updCmd_bias (s : State) (c : ChainId) (f : Cmd → Cmd) : (s.updCmd c f).bias = s.bias := rfl
@[simp] theorem State.updCmd_waiting (s : State) (c : ChainId) (f : Cmd → Cmd) : (s.updCmd c f).waiting = s.waiting := rfl
@[simp] theorem State.updCmd_hostAsked (s : State) (c : ChainId) (f : Cmd → Cmd) : (s.updCmd c f).hostAsked = s.hostAsked := rfl
@[simp] theorem State.updCmd_flipping (s : State) (c : ChainId) (f : Cmd → Cmd) : (s.updCmd c f).flipping = s.flipping := rfl
@[simp] theorem State.updCmd_coreTlb (s : State) (c : ChainId) (f : Cmd → Cmd) : (s.updCmd c f).coreTlb = s.coreTlb := rfl
@[simp] theorem State.updCmd_dieTlb (s : State) (c : ChainId) (f : Cmd → Cmd) : (s.updCmd c f).dieTlb = s.dieTlb := rfl
@[simp] theorem State.updCmd_mdCached (s : State) (c : ChainId) (f : Cmd → Cmd) : (s.updCmd c f).mdCached = s.mdCached := rfl
@[simp] theorem State.updCmd_vis (s : State) (c : ChainId) (f : Cmd → Cmd) : (s.updCmd c f).vis = s.vis := rfl
@[simp] theorem State.updCmd_slates (s : State) (c : ChainId) (f : Cmd → Cmd) : (s.updCmd c f).slates = s.slates := rfl
@[simp] theorem State.updCmd_dies (s : State) (c : ChainId) (f : Cmd → Cmd) : (s.updCmd c f).dies = s.dies := rfl
@[simp] theorem State.updCmd_matrix (s : State) (c : ChainId) (f : Cmd → Cmd) : (s.updCmd c f).matrix = s.matrix := rfl
@[simp] theorem State.updCmd_mgmt (s : State) (c : ChainId) (f : Cmd → Cmd) : (s.updCmd c f).mgmt = s.mgmt := rfl
@[simp] theorem State.updCmd_energy (s : State) (c : ChainId) (f : Cmd → Cmd) : (s.updCmd c f).energy = s.energy := rfl
@[simp] theorem State.updCmd_residue (s : State) (c : ChainId) (f : Cmd → Cmd) : (s.updCmd c f).residue = s.residue := rfl
@[simp] theorem State.updCmd_committed (s : State) (c : ChainId) (f : Cmd → Cmd) : (s.updCmd c f).committed = s.committed := rfl
@[simp] theorem State.updCmd_windowStart (s : State) (c : ChainId) (f : Cmd → Cmd) : (s.updCmd c f).windowStart = s.windowStart := rfl
@[simp] theorem State.updCmd_budget (s : State) (c : ChainId) (f : Cmd → Cmd) : (s.updCmd c f).budget = s.budget := rfl
@[simp] theorem State.updCmd_thermal (s : State) (c : ChainId) (f : Cmd → Cmd) : (s.updCmd c f).thermal = s.thermal := rfl
@[simp] theorem State.updCmd_errTimes (s : State) (c : ChainId) (f : Cmd → Cmd) : (s.updCmd c f).errTimes = s.errTimes := rfl
@[simp] theorem State.updCmd_retiredLog (s : State) (c : ChainId) (f : Cmd → Cmd) : (s.updCmd c f).retiredLog = s.retiredLog := rfl
@[simp] theorem State.updCmd_mcLog (s : State) (c : ChainId) (f : Cmd → Cmd) : (s.updCmd c f).mcLog = s.mcLog := rfl
@[simp] theorem State.updCmd_image (s : State) (c : ChainId) (f : Cmd → Cmd) : (s.updCmd c f).image = s.image := rfl
@[simp] theorem State.updCmd_nextImage (s : State) (c : ChainId) (f : Cmd → Cmd) : (s.updCmd c f).nextImage = s.nextImage := rfl
@[simp] theorem State.updCmd_attQueue (s : State) (c : ChainId) (f : Cmd → Cmd) : (s.updCmd c f).attQueue = s.attQueue := rfl
@[simp] theorem State.updCmd_ports (s : State) (c : ChainId) (f : Cmd → Cmd) : (s.updCmd c f).ports = s.ports := rfl
@[simp] theorem State.updCmd_links (s : State) (c : ChainId) (f : Cmd → Cmd) : (s.updCmd c f).links = s.links := rfl
@[simp] theorem State.updCmd_hostVal (s : State) (c : ChainId) (f : Cmd → Cmd) : (s.updCmd c f).hostVal = s.hostVal := rfl
@[simp] theorem State.updCmd_hostLines (s : State) (c : ChainId) (f : Cmd → Cmd) : (s.updCmd c f).hostLines = s.hostLines := rfl
@[simp] theorem State.updCmd_outbox (s : State) (c : ChainId) (f : Cmd → Cmd) : (s.updCmd c f).outbox = s.outbox := rfl

@[simp] theorem State.updDie_seqs (s : State) (d : Nat) (f : Die → Die) : (s.updDie d f).seqs = s.seqs := by unfold State.updDie; split <;> rfl
@[simp] theorem State.updDie_cur (s : State) (d : Nat) (f : Die → Die) : (s.updDie d f).cur = s.cur := by unfold State.updDie; split <;> rfl
@[simp] theorem State.updDie_agenda (s : State) (d : Nat) (f : Die → Die) : (s.updDie d f).agenda = s.agenda := by unfold State.updDie; split <;> rfl
@[simp] theorem State.updDie_due (s : State) (d : Nat) (f : Die → Die) : (s.updDie d f).due = s.due := by unfold State.updDie; split <;> rfl
@[simp] theorem State.updDie_fresh (s : State) (d : Nat) (f : Die → Die) : (s.updDie d f).fresh = s.fresh := by unfold State.updDie; split <;> rfl
@[simp] theorem State.updDie_cycle (s : State) (d : Nat) (f : Die → Die) : (s.updDie d f).cycle = s.cycle := by unfold State.updDie; split <;> rfl
@[simp] theorem State.updDie_off (s : State) (d : Nat) (f : Die → Die) : (s.updDie d f).off = s.off := by unfold State.updDie; split <;> rfl
@[simp] theorem State.updDie_recovery (s : State) (d : Nat) (f : Die → Die) : (s.updDie d f).recovery = s.recovery := by unfold State.updDie; split <;> rfl
@[simp] theorem State.updDie_mem (s : State) (d : Nat) (f : Die → Die) : (s.updDie d f).mem = s.mem := by unfold State.updDie; split <;> rfl
@[simp] theorem State.updDie_stage (s : State) (d : Nat) (f : Die → Die) : (s.updDie d f).stage = s.stage := by unfold State.updDie; split <;> rfl
@[simp] theorem State.updDie_bt (s : State) (d : Nat) (f : Die → Die) : (s.updDie d f).bt = s.bt := by unfold State.updDie; split <;> rfl
@[simp] theorem State.updDie_stageWait (s : State) (d : Nat) (f : Die → Die) : (s.updDie d f).stageWait = s.stageWait := by unfold State.updDie; split <;> rfl
@[simp] theorem State.updDie_homes (s : State) (d : Nat) (f : Die → Die) : (s.updDie d f).homes = s.homes := by unfold State.updDie; split <;> rfl
@[simp] theorem State.updDie_slices (s : State) (d : Nat) (f : Die → Die) : (s.updDie d f).slices = s.slices := by unfold State.updDie; split <;> rfl
@[simp] theorem State.updDie_copies (s : State) (d : Nat) (f : Die → Die) : (s.updDie d f).copies = s.copies := by unfold State.updDie; split <;> rfl
@[simp] theorem State.updDie_engCopies (s : State) (d : Nat) (f : Die → Die) : (s.updDie d f).engCopies = s.engCopies := by unfold State.updDie; split <;> rfl
@[simp] theorem State.updDie_engPeerOut (s : State) (d : Nat) (f : Die → Die) : (s.updDie d f).engPeerOut = s.engPeerOut := by unfold State.updDie; split <;> rfl
@[simp] theorem State.updDie_poisoned (s : State) (d : Nat) (f : Die → Die) : (s.updDie d f).poisoned = s.poisoned := by unfold State.updDie; split <;> rfl
@[simp] theorem State.updDie_latches (s : State) (d : Nat) (f : Die → Die) : (s.updDie d f).latches = s.latches := by unfold State.updDie; split <;> rfl
@[simp] theorem State.updDie_pairLatches (s : State) (d : Nat) (f : Die → Die) : (s.updDie d f).pairLatches = s.pairLatches := by unfold State.updDie; split <;> rfl
@[simp] theorem State.updDie_tileVis (s : State) (d : Nat) (f : Die → Die) : (s.updDie d f).tileVis = s.tileVis := by unfold State.updDie; split <;> rfl
@[simp] theorem State.updDie_engPeerBad (s : State) (d : Nat) (f : Die → Die) : (s.updDie d f).engPeerBad = s.engPeerBad := by unfold State.updDie; split <;> rfl
@[simp] theorem State.updDie_roomWait (s : State) (d : Nat) (f : Die → Die) : (s.updDie d f).roomWait = s.roomWait := by unfold State.updDie; split <;> rfl
@[simp] theorem State.updDie_devWrites (s : State) (d : Nat) (f : Die → Die) : (s.updDie d f).devWrites = s.devWrites := by unfold State.updDie; split <;> rfl
@[simp] theorem State.updDie_converted (s : State) (d : Nat) (f : Die → Die) : (s.updDie d f).converted = s.converted := by unfold State.updDie; split <;> rfl
@[simp] theorem State.updDie_tbase (s : State) (d : Nat) (f : Die → Die) : (s.updDie d f).tbase = s.tbase := by unfold State.updDie; split <;> rfl
@[simp] theorem State.updDie_rebases (s : State) (d : Nat) (f : Die → Die) : (s.updDie d f).rebases = s.rebases := by unfold State.updDie; split <;> rfl
@[simp] theorem State.updDie_engGen (s : State) (d : Nat) (f : Die → Die) : (s.updDie d f).engGen = s.engGen := by unfold State.updDie; split <;> rfl
@[simp] theorem State.updDie_hostHorizon (s : State) (d : Nat) (f : Die → Die) : (s.updDie d f).hostHorizon = s.hostHorizon := by unfold State.updDie; split <;> rfl
@[simp] theorem State.updDie_peerHorizon (s : State) (d : Nat) (f : Die → Die) : (s.updDie d f).peerHorizon = s.peerHorizon := by unfold State.updDie; split <;> rfl
@[simp] theorem State.updDie_owners (s : State) (d : Nat) (f : Die → Die) : (s.updDie d f).owners = s.owners := by unfold State.updDie; split <;> rfl
@[simp] theorem State.updDie_bias (s : State) (d : Nat) (f : Die → Die) : (s.updDie d f).bias = s.bias := by unfold State.updDie; split <;> rfl
@[simp] theorem State.updDie_waiting (s : State) (d : Nat) (f : Die → Die) : (s.updDie d f).waiting = s.waiting := by unfold State.updDie; split <;> rfl
@[simp] theorem State.updDie_hostAsked (s : State) (d : Nat) (f : Die → Die) : (s.updDie d f).hostAsked = s.hostAsked := by unfold State.updDie; split <;> rfl
@[simp] theorem State.updDie_flipping (s : State) (d : Nat) (f : Die → Die) : (s.updDie d f).flipping = s.flipping := by unfold State.updDie; split <;> rfl
@[simp] theorem State.updDie_coreTlb (s : State) (d : Nat) (f : Die → Die) : (s.updDie d f).coreTlb = s.coreTlb := by unfold State.updDie; split <;> rfl
@[simp] theorem State.updDie_dieTlb (s : State) (d : Nat) (f : Die → Die) : (s.updDie d f).dieTlb = s.dieTlb := by unfold State.updDie; split <;> rfl
@[simp] theorem State.updDie_mdCached (s : State) (d : Nat) (f : Die → Die) : (s.updDie d f).mdCached = s.mdCached := by unfold State.updDie; split <;> rfl
@[simp] theorem State.updDie_vis (s : State) (d : Nat) (f : Die → Die) : (s.updDie d f).vis = s.vis := by unfold State.updDie; split <;> rfl
@[simp] theorem State.updDie_slates (s : State) (d : Nat) (f : Die → Die) : (s.updDie d f).slates = s.slates := by unfold State.updDie; split <;> rfl
@[simp] theorem State.updDie_chains (s : State) (d : Nat) (f : Die → Die) : (s.updDie d f).chains = s.chains := by unfold State.updDie; split <;> rfl
@[simp] theorem State.updDie_matrix (s : State) (d : Nat) (f : Die → Die) : (s.updDie d f).matrix = s.matrix := by unfold State.updDie; split <;> rfl
@[simp] theorem State.updDie_mgmt (s : State) (d : Nat) (f : Die → Die) : (s.updDie d f).mgmt = s.mgmt := by unfold State.updDie; split <;> rfl
@[simp] theorem State.updDie_energy (s : State) (d : Nat) (f : Die → Die) : (s.updDie d f).energy = s.energy := by unfold State.updDie; split <;> rfl
@[simp] theorem State.updDie_residue (s : State) (d : Nat) (f : Die → Die) : (s.updDie d f).residue = s.residue := by unfold State.updDie; split <;> rfl
@[simp] theorem State.updDie_committed (s : State) (d : Nat) (f : Die → Die) : (s.updDie d f).committed = s.committed := by unfold State.updDie; split <;> rfl
@[simp] theorem State.updDie_windowStart (s : State) (d : Nat) (f : Die → Die) : (s.updDie d f).windowStart = s.windowStart := by unfold State.updDie; split <;> rfl
@[simp] theorem State.updDie_budget (s : State) (d : Nat) (f : Die → Die) : (s.updDie d f).budget = s.budget := by unfold State.updDie; split <;> rfl
@[simp] theorem State.updDie_thermal (s : State) (d : Nat) (f : Die → Die) : (s.updDie d f).thermal = s.thermal := by unfold State.updDie; split <;> rfl
@[simp] theorem State.updDie_errTimes (s : State) (d : Nat) (f : Die → Die) : (s.updDie d f).errTimes = s.errTimes := by unfold State.updDie; split <;> rfl
@[simp] theorem State.updDie_retiredLog (s : State) (d : Nat) (f : Die → Die) : (s.updDie d f).retiredLog = s.retiredLog := by unfold State.updDie; split <;> rfl
@[simp] theorem State.updDie_mcLog (s : State) (d : Nat) (f : Die → Die) : (s.updDie d f).mcLog = s.mcLog := by unfold State.updDie; split <;> rfl
@[simp] theorem State.updDie_image (s : State) (d : Nat) (f : Die → Die) : (s.updDie d f).image = s.image := by unfold State.updDie; split <;> rfl
@[simp] theorem State.updDie_nextImage (s : State) (d : Nat) (f : Die → Die) : (s.updDie d f).nextImage = s.nextImage := by unfold State.updDie; split <;> rfl
@[simp] theorem State.updDie_attQueue (s : State) (d : Nat) (f : Die → Die) : (s.updDie d f).attQueue = s.attQueue := by unfold State.updDie; split <;> rfl
@[simp] theorem State.updDie_ports (s : State) (d : Nat) (f : Die → Die) : (s.updDie d f).ports = s.ports := by unfold State.updDie; split <;> rfl
@[simp] theorem State.updDie_links (s : State) (d : Nat) (f : Die → Die) : (s.updDie d f).links = s.links := by unfold State.updDie; split <;> rfl
@[simp] theorem State.updDie_hostVal (s : State) (d : Nat) (f : Die → Die) : (s.updDie d f).hostVal = s.hostVal := by unfold State.updDie; split <;> rfl
@[simp] theorem State.updDie_hostLines (s : State) (d : Nat) (f : Die → Die) : (s.updDie d f).hostLines = s.hostLines := by unfold State.updDie; split <;> rfl
@[simp] theorem State.updDie_outbox (s : State) (d : Nat) (f : Die → Die) : (s.updDie d f).outbox = s.outbox := by unfold State.updDie; split <;> rfl

@[simp] theorem State.post_due (s : State) (d : Due) : (s.post d).due = s.due ++ [d] := rfl

/-! ## Fields of a sequencer -/

@[simp] theorem Seq.gSet_bound (q : Seq) (n : Nat) (v : DWord) : (q.gSet n v).bound = q.bound := by unfold Seq.gSet; split <;> rfl
@[simp] theorem Seq.gSet_gen (q : Seq) (n : Nat) (v : DWord) : (q.gSet n v).gen = q.gen := by unfold Seq.gSet; split <;> rfl
@[simp] theorem Seq.gSet_pc (q : Seq) (n : Nat) (v : DWord) : (q.gSet n v).pc = q.pc := by unfold Seq.gSet; split <;> rfl
@[simp] theorem Seq.gSet_full (q : Seq) (n : Nat) (v : DWord) : (q.gSet n v).full = q.full := by unfold Seq.gSet; split <;> rfl
@[simp] theorem Seq.gSet_v (q : Seq) (n : Nat) (v : DWord) : (q.gSet n v).v = q.v := by unfold Seq.gSet; split <;> rfl
@[simp] theorem Seq.gSet_p (q : Seq) (n : Nat) (v : DWord) : (q.gSet n v).p = q.p := by unfold Seq.gSet; split <;> rfl
@[simp] theorem Seq.gSet_a (q : Seq) (n : Nat) (v : DWord) : (q.gSet n v).a = q.a := by unfold Seq.gSet; split <;> rfl
@[simp] theorem Seq.gSet_loops (q : Seq) (n : Nat) (v : DWord) : (q.gSet n v).loops = q.loops := by unfold Seq.gSet; split <;> rfl
@[simp] theorem Seq.gSet_pts (q : Seq) (n : Nat) (v : DWord) : (q.gSet n v).pts = q.pts := by unfold Seq.gSet; split <;> rfl
@[simp] theorem Seq.gSet_c (q : Seq) (n : Nat) (v : DWord) : (q.gSet n v).c = q.c := by unfold Seq.gSet; split <;> rfl
@[simp] theorem Seq.gSet_n (q : Seq) (n : Nat) (v : DWord) : (q.gSet n v).n = q.n := by unfold Seq.gSet; split <;> rfl
@[simp] theorem Seq.gSet_pair (q : Seq) (n : Nat) (v : DWord) : (q.gSet n v).pair = q.pair := by unfold Seq.gSet; split <;> rfl
@[simp] theorem Seq.gSet_phys (q : Seq) (n : Nat) (v : DWord) : (q.gSet n v).phys = q.phys := by unfold Seq.gSet; split <;> rfl
@[simp] theorem Seq.gSet_inflight (q : Seq) (n : Nat) (v : DWord) : (q.gSet n v).inflight = q.inflight := by unfold Seq.gSet; split <;> rfl
@[simp] theorem Seq.gSet_peerBad (q : Seq) (n : Nat) (v : DWord) : (q.gSet n v).peerBad = q.peerBad := by unfold Seq.gSet; split <;> rfl
@[simp] theorem Seq.gSet_peerRetry (q : Seq) (n : Nat) (v : DWord) : (q.gSet n v).peerRetry = q.peerRetry := by unfold Seq.gSet; split <;> rfl
@[simp] theorem Seq.gSet_wants (q : Seq) (n : Nat) (v : DWord) : (q.gSet n v).wants = q.wants := by unfold Seq.gSet; split <;> rfl
@[simp] theorem Seq.gSet_mop (q : Seq) (n : Nat) (v : DWord) : (q.gSet n v).mop = q.mop := by unfold Seq.gSet; split <;> rfl
@[simp] theorem Seq.gSet_linkEpoch (q : Seq) (n : Nat) (v : DWord) : (q.gSet n v).linkEpoch = q.linkEpoch := by unfold Seq.gSet; split <;> rfl
@[simp] theorem Seq.gSet_mark (q : Seq) (n : Nat) (v : DWord) : (q.gSet n v).mark = q.mark := by unfold Seq.gSet; split <;> rfl
@[simp] theorem Seq.gSet_strip (q : Seq) (n : Nat) (v : DWord) : (q.gSet n v).strip = q.strip := by unfold Seq.gSet; split <;> rfl
@[simp] theorem Seq.gSet_commit (q : Seq) (n : Nat) (v : DWord) : (q.gSet n v).commit = q.commit := by unfold Seq.gSet; split <;> rfl
@[simp] theorem Seq.gSet_fails (q : Seq) (n : Nat) (v : DWord) : (q.gSet n v).fails = q.fails := by unfold Seq.gSet; split <;> rfl
@[simp] theorem Seq.gSet_age (q : Seq) (n : Nat) (v : DWord) : (q.gSet n v).age = q.age := by unfold Seq.gSet; split <;> rfl
@[simp] theorem Seq.gSet_forced (q : Seq) (n : Nat) (v : DWord) : (q.gSet n v).forced = q.forced := by unfold Seq.gSet; split <;> rfl
@[simp] theorem Seq.gSet_cut (q : Seq) (n : Nat) (v : DWord) : (q.gSet n v).cut = q.cut := by unfold Seq.gSet; split <;> rfl
@[simp] theorem Seq.gSet_phase (q : Seq) (n : Nat) (v : DWord) : (q.gSet n v).phase = q.phase := by unfold Seq.gSet; split <;> rfl
@[simp] theorem Seq.gSet_holds (q : Seq) (n : Nat) (v : DWord) : (q.gSet n v).holds = q.holds := by unfold Seq.gSet; split <;> rfl
@[simp] theorem Seq.gSet_deferred (q : Seq) (n : Nat) (v : DWord) : (q.gSet n v).deferred = q.deferred := by unfold Seq.gSet; split <;> rfl
@[simp] theorem Seq.gSet_pins (q : Seq) (n : Nat) (v : DWord) : (q.gSet n v).pins = q.pins := by unfold Seq.gSet; split <;> rfl
@[simp] theorem Seq.gSet_named (q : Seq) (n : Nat) (v : DWord) : (q.gSet n v).named = q.named := by unfold Seq.gSet; split <;> rfl
@[simp] theorem Seq.gSet_fetched (q : Seq) (n : Nat) (v : DWord) : (q.gSet n v).fetched = q.fetched := by unfold Seq.gSet; split <;> rfl
@[simp] theorem Seq.gSet_lastStore (q : Seq) (n : Nat) (v : DWord) : (q.gSet n v).lastStore = q.lastStore := by unfold Seq.gSet; split <;> rfl
@[simp] theorem Seq.gSet_loadRun (q : Seq) (n : Nat) (v : DWord) : (q.gSet n v).loadRun = q.loadRun := by unfold Seq.gSet; split <;> rfl
@[simp] theorem Seq.gSet_loadLine (q : Seq) (n : Nat) (v : DWord) : (q.gSet n v).loadLine = q.loadLine := by unfold Seq.gSet; split <;> rfl
@[simp] theorem Seq.gSet_wmax (q : Seq) (n : Nat) (v : DWord) : (q.gSet n v).wmax = q.wmax := by unfold Seq.gSet; split <;> rfl
@[simp] theorem Seq.gSet_arrivals (q : Seq) (n : Nat) (v : DWord) : (q.gSet n v).arrivals = q.arrivals := by unfold Seq.gSet; split <;> rfl
@[simp] theorem Seq.gSet_wait (q : Seq) (n : Nat) (v : DWord) : (q.gSet n v).wait = q.wait := by unfold Seq.gSet; split <;> rfl
@[simp] theorem Seq.gSet_note (q : Seq) (n : Nat) (v : DWord) : (q.gSet n v).note = q.note := by unfold Seq.gSet; split <;> rfl
@[simp] theorem Seq.gSet_follow (q : Seq) (n : Nat) (v : DWord) : (q.gSet n v).follow = q.follow := by unfold Seq.gSet; split <;> rfl
@[simp] theorem Seq.gSet_inval (q : Seq) (n : Nat) (v : DWord) : (q.gSet n v).inval = q.inval := by unfold Seq.gSet; split <;> rfl
@[simp] theorem Seq.gSet_peerOut (q : Seq) (n : Nat) (v : DWord) : (q.gSet n v).peerOut = q.peerOut := by unfold Seq.gSet; split <;> rfl
@[simp] theorem Seq.gSet_hostOut (q : Seq) (n : Nat) (v : DWord) : (q.gSet n v).hostOut = q.hostOut := by unfold Seq.gSet; split <;> rfl
@[simp] theorem Seq.gSet_halted (q : Seq) (n : Nat) (v : DWord) : (q.gSet n v).halted = q.halted := by unfold Seq.gSet; split <;> rfl
@[simp] theorem Seq.gSet_stepReq (q : Seq) (n : Nat) (v : DWord) : (q.gSet n v).stepReq = q.stepReq := by unfold Seq.gSet; split <;> rfl
@[simp] theorem Seq.gSet_estepDue (q : Seq) (n : Nat) (v : DWord) : (q.gSet n v).estepDue = q.estepDue := by unfold Seq.gSet; split <;> rfl
@[simp] theorem Seq.gSet_preempt (q : Seq) (n : Nat) (v : DWord) : (q.gSet n v).preempt = q.preempt := by unfold Seq.gSet; split <;> rfl
@[simp] theorem Seq.gSet_pinLate (q : Seq) (n : Nat) (v : DWord) : (q.gSet n v).pinLate = q.pinLate := by unfold Seq.gSet; split <;> rfl
@[simp] theorem Seq.gSet_came (q : Seq) (n : Nat) (v : DWord) : (q.gSet n v).came = q.came := by unfold Seq.gSet; split <;> rfl

@[simp] theorem Seq.vSet_bound (q : Seq) (n : Nat) (x : Bits) : (q.vSet n x).bound = q.bound := by unfold Seq.vSet; split <;> rfl
@[simp] theorem Seq.vSet_gen (q : Seq) (n : Nat) (x : Bits) : (q.vSet n x).gen = q.gen := by unfold Seq.vSet; split <;> rfl
@[simp] theorem Seq.vSet_pc (q : Seq) (n : Nat) (x : Bits) : (q.vSet n x).pc = q.pc := by unfold Seq.vSet; split <;> rfl
@[simp] theorem Seq.vSet_g (q : Seq) (n : Nat) (x : Bits) : (q.vSet n x).g = q.g := by unfold Seq.vSet; split <;> rfl
@[simp] theorem Seq.vSet_full (q : Seq) (n : Nat) (x : Bits) : (q.vSet n x).full = q.full := by unfold Seq.vSet; split <;> rfl
@[simp] theorem Seq.vSet_p (q : Seq) (n : Nat) (x : Bits) : (q.vSet n x).p = q.p := by unfold Seq.vSet; split <;> rfl
@[simp] theorem Seq.vSet_a (q : Seq) (n : Nat) (x : Bits) : (q.vSet n x).a = q.a := by unfold Seq.vSet; split <;> rfl
@[simp] theorem Seq.vSet_loops (q : Seq) (n : Nat) (x : Bits) : (q.vSet n x).loops = q.loops := by unfold Seq.vSet; split <;> rfl
@[simp] theorem Seq.vSet_pts (q : Seq) (n : Nat) (x : Bits) : (q.vSet n x).pts = q.pts := by unfold Seq.vSet; split <;> rfl
@[simp] theorem Seq.vSet_c (q : Seq) (n : Nat) (x : Bits) : (q.vSet n x).c = q.c := by unfold Seq.vSet; split <;> rfl
@[simp] theorem Seq.vSet_n (q : Seq) (n : Nat) (x : Bits) : (q.vSet n x).n = q.n := by unfold Seq.vSet; split <;> rfl
@[simp] theorem Seq.vSet_pair (q : Seq) (n : Nat) (x : Bits) : (q.vSet n x).pair = q.pair := by unfold Seq.vSet; split <;> rfl
@[simp] theorem Seq.vSet_phys (q : Seq) (n : Nat) (x : Bits) : (q.vSet n x).phys = q.phys := by unfold Seq.vSet; split <;> rfl
@[simp] theorem Seq.vSet_inflight (q : Seq) (n : Nat) (x : Bits) : (q.vSet n x).inflight = q.inflight := by unfold Seq.vSet; split <;> rfl
@[simp] theorem Seq.vSet_peerBad (q : Seq) (n : Nat) (x : Bits) : (q.vSet n x).peerBad = q.peerBad := by unfold Seq.vSet; split <;> rfl
@[simp] theorem Seq.vSet_peerRetry (q : Seq) (n : Nat) (x : Bits) : (q.vSet n x).peerRetry = q.peerRetry := by unfold Seq.vSet; split <;> rfl
@[simp] theorem Seq.vSet_wants (q : Seq) (n : Nat) (x : Bits) : (q.vSet n x).wants = q.wants := by unfold Seq.vSet; split <;> rfl
@[simp] theorem Seq.vSet_mop (q : Seq) (n : Nat) (x : Bits) : (q.vSet n x).mop = q.mop := by unfold Seq.vSet; split <;> rfl
@[simp] theorem Seq.vSet_linkEpoch (q : Seq) (n : Nat) (x : Bits) : (q.vSet n x).linkEpoch = q.linkEpoch := by unfold Seq.vSet; split <;> rfl
@[simp] theorem Seq.vSet_mark (q : Seq) (n : Nat) (x : Bits) : (q.vSet n x).mark = q.mark := by unfold Seq.vSet; split <;> rfl
@[simp] theorem Seq.vSet_strip (q : Seq) (n : Nat) (x : Bits) : (q.vSet n x).strip = q.strip := by unfold Seq.vSet; split <;> rfl
@[simp] theorem Seq.vSet_commit (q : Seq) (n : Nat) (x : Bits) : (q.vSet n x).commit = q.commit := by unfold Seq.vSet; split <;> rfl
@[simp] theorem Seq.vSet_fails (q : Seq) (n : Nat) (x : Bits) : (q.vSet n x).fails = q.fails := by unfold Seq.vSet; split <;> rfl
@[simp] theorem Seq.vSet_age (q : Seq) (n : Nat) (x : Bits) : (q.vSet n x).age = q.age := by unfold Seq.vSet; split <;> rfl
@[simp] theorem Seq.vSet_forced (q : Seq) (n : Nat) (x : Bits) : (q.vSet n x).forced = q.forced := by unfold Seq.vSet; split <;> rfl
@[simp] theorem Seq.vSet_cut (q : Seq) (n : Nat) (x : Bits) : (q.vSet n x).cut = q.cut := by unfold Seq.vSet; split <;> rfl
@[simp] theorem Seq.vSet_phase (q : Seq) (n : Nat) (x : Bits) : (q.vSet n x).phase = q.phase := by unfold Seq.vSet; split <;> rfl
@[simp] theorem Seq.vSet_holds (q : Seq) (n : Nat) (x : Bits) : (q.vSet n x).holds = q.holds := by unfold Seq.vSet; split <;> rfl
@[simp] theorem Seq.vSet_deferred (q : Seq) (n : Nat) (x : Bits) : (q.vSet n x).deferred = q.deferred := by unfold Seq.vSet; split <;> rfl
@[simp] theorem Seq.vSet_pins (q : Seq) (n : Nat) (x : Bits) : (q.vSet n x).pins = q.pins := by unfold Seq.vSet; split <;> rfl
@[simp] theorem Seq.vSet_named (q : Seq) (n : Nat) (x : Bits) : (q.vSet n x).named = q.named := by unfold Seq.vSet; split <;> rfl
@[simp] theorem Seq.vSet_fetched (q : Seq) (n : Nat) (x : Bits) : (q.vSet n x).fetched = q.fetched := by unfold Seq.vSet; split <;> rfl
@[simp] theorem Seq.vSet_lastStore (q : Seq) (n : Nat) (x : Bits) : (q.vSet n x).lastStore = q.lastStore := by unfold Seq.vSet; split <;> rfl
@[simp] theorem Seq.vSet_loadRun (q : Seq) (n : Nat) (x : Bits) : (q.vSet n x).loadRun = q.loadRun := by unfold Seq.vSet; split <;> rfl
@[simp] theorem Seq.vSet_loadLine (q : Seq) (n : Nat) (x : Bits) : (q.vSet n x).loadLine = q.loadLine := by unfold Seq.vSet; split <;> rfl
@[simp] theorem Seq.vSet_wmax (q : Seq) (n : Nat) (x : Bits) : (q.vSet n x).wmax = q.wmax := by unfold Seq.vSet; split <;> rfl
@[simp] theorem Seq.vSet_arrivals (q : Seq) (n : Nat) (x : Bits) : (q.vSet n x).arrivals = q.arrivals := by unfold Seq.vSet; split <;> rfl
@[simp] theorem Seq.vSet_wait (q : Seq) (n : Nat) (x : Bits) : (q.vSet n x).wait = q.wait := by unfold Seq.vSet; split <;> rfl
@[simp] theorem Seq.vSet_note (q : Seq) (n : Nat) (x : Bits) : (q.vSet n x).note = q.note := by unfold Seq.vSet; split <;> rfl
@[simp] theorem Seq.vSet_follow (q : Seq) (n : Nat) (x : Bits) : (q.vSet n x).follow = q.follow := by unfold Seq.vSet; split <;> rfl
@[simp] theorem Seq.vSet_inval (q : Seq) (n : Nat) (x : Bits) : (q.vSet n x).inval = q.inval := by unfold Seq.vSet; split <;> rfl
@[simp] theorem Seq.vSet_peerOut (q : Seq) (n : Nat) (x : Bits) : (q.vSet n x).peerOut = q.peerOut := by unfold Seq.vSet; split <;> rfl
@[simp] theorem Seq.vSet_hostOut (q : Seq) (n : Nat) (x : Bits) : (q.vSet n x).hostOut = q.hostOut := by unfold Seq.vSet; split <;> rfl
@[simp] theorem Seq.vSet_halted (q : Seq) (n : Nat) (x : Bits) : (q.vSet n x).halted = q.halted := by unfold Seq.vSet; split <;> rfl
@[simp] theorem Seq.vSet_stepReq (q : Seq) (n : Nat) (x : Bits) : (q.vSet n x).stepReq = q.stepReq := by unfold Seq.vSet; split <;> rfl
@[simp] theorem Seq.vSet_estepDue (q : Seq) (n : Nat) (x : Bits) : (q.vSet n x).estepDue = q.estepDue := by unfold Seq.vSet; split <;> rfl
@[simp] theorem Seq.vSet_preempt (q : Seq) (n : Nat) (x : Bits) : (q.vSet n x).preempt = q.preempt := by unfold Seq.vSet; split <;> rfl
@[simp] theorem Seq.vSet_pinLate (q : Seq) (n : Nat) (x : Bits) : (q.vSet n x).pinLate = q.pinLate := by unfold Seq.vSet; split <;> rfl
@[simp] theorem Seq.vSet_came (q : Seq) (n : Nat) (x : Bits) : (q.vSet n x).came = q.came := by unfold Seq.vSet; split <;> rfl

@[simp] theorem Seq.pSet_bound (q : Seq) (n : Nat) (x : Bits) : (q.pSet n x).bound = q.bound := by unfold Seq.pSet; split <;> rfl
@[simp] theorem Seq.pSet_gen (q : Seq) (n : Nat) (x : Bits) : (q.pSet n x).gen = q.gen := by unfold Seq.pSet; split <;> rfl
@[simp] theorem Seq.pSet_pc (q : Seq) (n : Nat) (x : Bits) : (q.pSet n x).pc = q.pc := by unfold Seq.pSet; split <;> rfl
@[simp] theorem Seq.pSet_g (q : Seq) (n : Nat) (x : Bits) : (q.pSet n x).g = q.g := by unfold Seq.pSet; split <;> rfl
@[simp] theorem Seq.pSet_full (q : Seq) (n : Nat) (x : Bits) : (q.pSet n x).full = q.full := by unfold Seq.pSet; split <;> rfl
@[simp] theorem Seq.pSet_v (q : Seq) (n : Nat) (x : Bits) : (q.pSet n x).v = q.v := by unfold Seq.pSet; split <;> rfl
@[simp] theorem Seq.pSet_a (q : Seq) (n : Nat) (x : Bits) : (q.pSet n x).a = q.a := by unfold Seq.pSet; split <;> rfl
@[simp] theorem Seq.pSet_loops (q : Seq) (n : Nat) (x : Bits) : (q.pSet n x).loops = q.loops := by unfold Seq.pSet; split <;> rfl
@[simp] theorem Seq.pSet_pts (q : Seq) (n : Nat) (x : Bits) : (q.pSet n x).pts = q.pts := by unfold Seq.pSet; split <;> rfl
@[simp] theorem Seq.pSet_c (q : Seq) (n : Nat) (x : Bits) : (q.pSet n x).c = q.c := by unfold Seq.pSet; split <;> rfl
@[simp] theorem Seq.pSet_n (q : Seq) (n : Nat) (x : Bits) : (q.pSet n x).n = q.n := by unfold Seq.pSet; split <;> rfl
@[simp] theorem Seq.pSet_pair (q : Seq) (n : Nat) (x : Bits) : (q.pSet n x).pair = q.pair := by unfold Seq.pSet; split <;> rfl
@[simp] theorem Seq.pSet_phys (q : Seq) (n : Nat) (x : Bits) : (q.pSet n x).phys = q.phys := by unfold Seq.pSet; split <;> rfl
@[simp] theorem Seq.pSet_inflight (q : Seq) (n : Nat) (x : Bits) : (q.pSet n x).inflight = q.inflight := by unfold Seq.pSet; split <;> rfl
@[simp] theorem Seq.pSet_peerBad (q : Seq) (n : Nat) (x : Bits) : (q.pSet n x).peerBad = q.peerBad := by unfold Seq.pSet; split <;> rfl
@[simp] theorem Seq.pSet_peerRetry (q : Seq) (n : Nat) (x : Bits) : (q.pSet n x).peerRetry = q.peerRetry := by unfold Seq.pSet; split <;> rfl
@[simp] theorem Seq.pSet_wants (q : Seq) (n : Nat) (x : Bits) : (q.pSet n x).wants = q.wants := by unfold Seq.pSet; split <;> rfl
@[simp] theorem Seq.pSet_mop (q : Seq) (n : Nat) (x : Bits) : (q.pSet n x).mop = q.mop := by unfold Seq.pSet; split <;> rfl
@[simp] theorem Seq.pSet_linkEpoch (q : Seq) (n : Nat) (x : Bits) : (q.pSet n x).linkEpoch = q.linkEpoch := by unfold Seq.pSet; split <;> rfl
@[simp] theorem Seq.pSet_mark (q : Seq) (n : Nat) (x : Bits) : (q.pSet n x).mark = q.mark := by unfold Seq.pSet; split <;> rfl
@[simp] theorem Seq.pSet_strip (q : Seq) (n : Nat) (x : Bits) : (q.pSet n x).strip = q.strip := by unfold Seq.pSet; split <;> rfl
@[simp] theorem Seq.pSet_commit (q : Seq) (n : Nat) (x : Bits) : (q.pSet n x).commit = q.commit := by unfold Seq.pSet; split <;> rfl
@[simp] theorem Seq.pSet_fails (q : Seq) (n : Nat) (x : Bits) : (q.pSet n x).fails = q.fails := by unfold Seq.pSet; split <;> rfl
@[simp] theorem Seq.pSet_age (q : Seq) (n : Nat) (x : Bits) : (q.pSet n x).age = q.age := by unfold Seq.pSet; split <;> rfl
@[simp] theorem Seq.pSet_forced (q : Seq) (n : Nat) (x : Bits) : (q.pSet n x).forced = q.forced := by unfold Seq.pSet; split <;> rfl
@[simp] theorem Seq.pSet_cut (q : Seq) (n : Nat) (x : Bits) : (q.pSet n x).cut = q.cut := by unfold Seq.pSet; split <;> rfl
@[simp] theorem Seq.pSet_phase (q : Seq) (n : Nat) (x : Bits) : (q.pSet n x).phase = q.phase := by unfold Seq.pSet; split <;> rfl
@[simp] theorem Seq.pSet_holds (q : Seq) (n : Nat) (x : Bits) : (q.pSet n x).holds = q.holds := by unfold Seq.pSet; split <;> rfl
@[simp] theorem Seq.pSet_deferred (q : Seq) (n : Nat) (x : Bits) : (q.pSet n x).deferred = q.deferred := by unfold Seq.pSet; split <;> rfl
@[simp] theorem Seq.pSet_pins (q : Seq) (n : Nat) (x : Bits) : (q.pSet n x).pins = q.pins := by unfold Seq.pSet; split <;> rfl
@[simp] theorem Seq.pSet_named (q : Seq) (n : Nat) (x : Bits) : (q.pSet n x).named = q.named := by unfold Seq.pSet; split <;> rfl
@[simp] theorem Seq.pSet_fetched (q : Seq) (n : Nat) (x : Bits) : (q.pSet n x).fetched = q.fetched := by unfold Seq.pSet; split <;> rfl
@[simp] theorem Seq.pSet_lastStore (q : Seq) (n : Nat) (x : Bits) : (q.pSet n x).lastStore = q.lastStore := by unfold Seq.pSet; split <;> rfl
@[simp] theorem Seq.pSet_loadRun (q : Seq) (n : Nat) (x : Bits) : (q.pSet n x).loadRun = q.loadRun := by unfold Seq.pSet; split <;> rfl
@[simp] theorem Seq.pSet_loadLine (q : Seq) (n : Nat) (x : Bits) : (q.pSet n x).loadLine = q.loadLine := by unfold Seq.pSet; split <;> rfl
@[simp] theorem Seq.pSet_wmax (q : Seq) (n : Nat) (x : Bits) : (q.pSet n x).wmax = q.wmax := by unfold Seq.pSet; split <;> rfl
@[simp] theorem Seq.pSet_arrivals (q : Seq) (n : Nat) (x : Bits) : (q.pSet n x).arrivals = q.arrivals := by unfold Seq.pSet; split <;> rfl
@[simp] theorem Seq.pSet_wait (q : Seq) (n : Nat) (x : Bits) : (q.pSet n x).wait = q.wait := by unfold Seq.pSet; split <;> rfl
@[simp] theorem Seq.pSet_note (q : Seq) (n : Nat) (x : Bits) : (q.pSet n x).note = q.note := by unfold Seq.pSet; split <;> rfl
@[simp] theorem Seq.pSet_follow (q : Seq) (n : Nat) (x : Bits) : (q.pSet n x).follow = q.follow := by unfold Seq.pSet; split <;> rfl
@[simp] theorem Seq.pSet_inval (q : Seq) (n : Nat) (x : Bits) : (q.pSet n x).inval = q.inval := by unfold Seq.pSet; split <;> rfl
@[simp] theorem Seq.pSet_peerOut (q : Seq) (n : Nat) (x : Bits) : (q.pSet n x).peerOut = q.peerOut := by unfold Seq.pSet; split <;> rfl
@[simp] theorem Seq.pSet_hostOut (q : Seq) (n : Nat) (x : Bits) : (q.pSet n x).hostOut = q.hostOut := by unfold Seq.pSet; split <;> rfl
@[simp] theorem Seq.pSet_halted (q : Seq) (n : Nat) (x : Bits) : (q.pSet n x).halted = q.halted := by unfold Seq.pSet; split <;> rfl
@[simp] theorem Seq.pSet_stepReq (q : Seq) (n : Nat) (x : Bits) : (q.pSet n x).stepReq = q.stepReq := by unfold Seq.pSet; split <;> rfl
@[simp] theorem Seq.pSet_estepDue (q : Seq) (n : Nat) (x : Bits) : (q.pSet n x).estepDue = q.estepDue := by unfold Seq.pSet; split <;> rfl
@[simp] theorem Seq.pSet_preempt (q : Seq) (n : Nat) (x : Bits) : (q.pSet n x).preempt = q.preempt := by unfold Seq.pSet; split <;> rfl
@[simp] theorem Seq.pSet_pinLate (q : Seq) (n : Nat) (x : Bits) : (q.pSet n x).pinLate = q.pinLate := by unfold Seq.pSet; split <;> rfl
@[simp] theorem Seq.pSet_came (q : Seq) (n : Nat) (x : Bits) : (q.pSet n x).came = q.came := by unfold Seq.pSet; split <;> rfl

@[simp] theorem Seq.aSet_bound (q : Seq) (n : Nat) (x : Bits) : (q.aSet n x).bound = q.bound := by unfold Seq.aSet; split <;> rfl
@[simp] theorem Seq.aSet_gen (q : Seq) (n : Nat) (x : Bits) : (q.aSet n x).gen = q.gen := by unfold Seq.aSet; split <;> rfl
@[simp] theorem Seq.aSet_pc (q : Seq) (n : Nat) (x : Bits) : (q.aSet n x).pc = q.pc := by unfold Seq.aSet; split <;> rfl
@[simp] theorem Seq.aSet_g (q : Seq) (n : Nat) (x : Bits) : (q.aSet n x).g = q.g := by unfold Seq.aSet; split <;> rfl
@[simp] theorem Seq.aSet_full (q : Seq) (n : Nat) (x : Bits) : (q.aSet n x).full = q.full := by unfold Seq.aSet; split <;> rfl
@[simp] theorem Seq.aSet_v (q : Seq) (n : Nat) (x : Bits) : (q.aSet n x).v = q.v := by unfold Seq.aSet; split <;> rfl
@[simp] theorem Seq.aSet_p (q : Seq) (n : Nat) (x : Bits) : (q.aSet n x).p = q.p := by unfold Seq.aSet; split <;> rfl
@[simp] theorem Seq.aSet_loops (q : Seq) (n : Nat) (x : Bits) : (q.aSet n x).loops = q.loops := by unfold Seq.aSet; split <;> rfl
@[simp] theorem Seq.aSet_pts (q : Seq) (n : Nat) (x : Bits) : (q.aSet n x).pts = q.pts := by unfold Seq.aSet; split <;> rfl
@[simp] theorem Seq.aSet_c (q : Seq) (n : Nat) (x : Bits) : (q.aSet n x).c = q.c := by unfold Seq.aSet; split <;> rfl
@[simp] theorem Seq.aSet_n (q : Seq) (n : Nat) (x : Bits) : (q.aSet n x).n = q.n := by unfold Seq.aSet; split <;> rfl
@[simp] theorem Seq.aSet_pair (q : Seq) (n : Nat) (x : Bits) : (q.aSet n x).pair = q.pair := by unfold Seq.aSet; split <;> rfl
@[simp] theorem Seq.aSet_phys (q : Seq) (n : Nat) (x : Bits) : (q.aSet n x).phys = q.phys := by unfold Seq.aSet; split <;> rfl
@[simp] theorem Seq.aSet_inflight (q : Seq) (n : Nat) (x : Bits) : (q.aSet n x).inflight = q.inflight := by unfold Seq.aSet; split <;> rfl
@[simp] theorem Seq.aSet_peerBad (q : Seq) (n : Nat) (x : Bits) : (q.aSet n x).peerBad = q.peerBad := by unfold Seq.aSet; split <;> rfl
@[simp] theorem Seq.aSet_peerRetry (q : Seq) (n : Nat) (x : Bits) : (q.aSet n x).peerRetry = q.peerRetry := by unfold Seq.aSet; split <;> rfl
@[simp] theorem Seq.aSet_wants (q : Seq) (n : Nat) (x : Bits) : (q.aSet n x).wants = q.wants := by unfold Seq.aSet; split <;> rfl
@[simp] theorem Seq.aSet_mop (q : Seq) (n : Nat) (x : Bits) : (q.aSet n x).mop = q.mop := by unfold Seq.aSet; split <;> rfl
@[simp] theorem Seq.aSet_linkEpoch (q : Seq) (n : Nat) (x : Bits) : (q.aSet n x).linkEpoch = q.linkEpoch := by unfold Seq.aSet; split <;> rfl
@[simp] theorem Seq.aSet_mark (q : Seq) (n : Nat) (x : Bits) : (q.aSet n x).mark = q.mark := by unfold Seq.aSet; split <;> rfl
@[simp] theorem Seq.aSet_strip (q : Seq) (n : Nat) (x : Bits) : (q.aSet n x).strip = q.strip := by unfold Seq.aSet; split <;> rfl
@[simp] theorem Seq.aSet_commit (q : Seq) (n : Nat) (x : Bits) : (q.aSet n x).commit = q.commit := by unfold Seq.aSet; split <;> rfl
@[simp] theorem Seq.aSet_fails (q : Seq) (n : Nat) (x : Bits) : (q.aSet n x).fails = q.fails := by unfold Seq.aSet; split <;> rfl
@[simp] theorem Seq.aSet_age (q : Seq) (n : Nat) (x : Bits) : (q.aSet n x).age = q.age := by unfold Seq.aSet; split <;> rfl
@[simp] theorem Seq.aSet_forced (q : Seq) (n : Nat) (x : Bits) : (q.aSet n x).forced = q.forced := by unfold Seq.aSet; split <;> rfl
@[simp] theorem Seq.aSet_cut (q : Seq) (n : Nat) (x : Bits) : (q.aSet n x).cut = q.cut := by unfold Seq.aSet; split <;> rfl
@[simp] theorem Seq.aSet_phase (q : Seq) (n : Nat) (x : Bits) : (q.aSet n x).phase = q.phase := by unfold Seq.aSet; split <;> rfl
@[simp] theorem Seq.aSet_holds (q : Seq) (n : Nat) (x : Bits) : (q.aSet n x).holds = q.holds := by unfold Seq.aSet; split <;> rfl
@[simp] theorem Seq.aSet_deferred (q : Seq) (n : Nat) (x : Bits) : (q.aSet n x).deferred = q.deferred := by unfold Seq.aSet; split <;> rfl
@[simp] theorem Seq.aSet_pins (q : Seq) (n : Nat) (x : Bits) : (q.aSet n x).pins = q.pins := by unfold Seq.aSet; split <;> rfl
@[simp] theorem Seq.aSet_named (q : Seq) (n : Nat) (x : Bits) : (q.aSet n x).named = q.named := by unfold Seq.aSet; split <;> rfl
@[simp] theorem Seq.aSet_fetched (q : Seq) (n : Nat) (x : Bits) : (q.aSet n x).fetched = q.fetched := by unfold Seq.aSet; split <;> rfl
@[simp] theorem Seq.aSet_lastStore (q : Seq) (n : Nat) (x : Bits) : (q.aSet n x).lastStore = q.lastStore := by unfold Seq.aSet; split <;> rfl
@[simp] theorem Seq.aSet_loadRun (q : Seq) (n : Nat) (x : Bits) : (q.aSet n x).loadRun = q.loadRun := by unfold Seq.aSet; split <;> rfl
@[simp] theorem Seq.aSet_loadLine (q : Seq) (n : Nat) (x : Bits) : (q.aSet n x).loadLine = q.loadLine := by unfold Seq.aSet; split <;> rfl
@[simp] theorem Seq.aSet_wmax (q : Seq) (n : Nat) (x : Bits) : (q.aSet n x).wmax = q.wmax := by unfold Seq.aSet; split <;> rfl
@[simp] theorem Seq.aSet_arrivals (q : Seq) (n : Nat) (x : Bits) : (q.aSet n x).arrivals = q.arrivals := by unfold Seq.aSet; split <;> rfl
@[simp] theorem Seq.aSet_wait (q : Seq) (n : Nat) (x : Bits) : (q.aSet n x).wait = q.wait := by unfold Seq.aSet; split <;> rfl
@[simp] theorem Seq.aSet_note (q : Seq) (n : Nat) (x : Bits) : (q.aSet n x).note = q.note := by unfold Seq.aSet; split <;> rfl
@[simp] theorem Seq.aSet_follow (q : Seq) (n : Nat) (x : Bits) : (q.aSet n x).follow = q.follow := by unfold Seq.aSet; split <;> rfl
@[simp] theorem Seq.aSet_inval (q : Seq) (n : Nat) (x : Bits) : (q.aSet n x).inval = q.inval := by unfold Seq.aSet; split <;> rfl
@[simp] theorem Seq.aSet_peerOut (q : Seq) (n : Nat) (x : Bits) : (q.aSet n x).peerOut = q.peerOut := by unfold Seq.aSet; split <;> rfl
@[simp] theorem Seq.aSet_hostOut (q : Seq) (n : Nat) (x : Bits) : (q.aSet n x).hostOut = q.hostOut := by unfold Seq.aSet; split <;> rfl
@[simp] theorem Seq.aSet_halted (q : Seq) (n : Nat) (x : Bits) : (q.aSet n x).halted = q.halted := by unfold Seq.aSet; split <;> rfl
@[simp] theorem Seq.aSet_stepReq (q : Seq) (n : Nat) (x : Bits) : (q.aSet n x).stepReq = q.stepReq := by unfold Seq.aSet; split <;> rfl
@[simp] theorem Seq.aSet_estepDue (q : Seq) (n : Nat) (x : Bits) : (q.aSet n x).estepDue = q.estepDue := by unfold Seq.aSet; split <;> rfl
@[simp] theorem Seq.aSet_preempt (q : Seq) (n : Nat) (x : Bits) : (q.aSet n x).preempt = q.preempt := by unfold Seq.aSet; split <;> rfl
@[simp] theorem Seq.aSet_pinLate (q : Seq) (n : Nat) (x : Bits) : (q.aSet n x).pinLate = q.pinLate := by unfold Seq.aSet; split <;> rfl
@[simp] theorem Seq.aSet_came (q : Seq) (n : Nat) (x : Bits) : (q.aSet n x).came = q.came := by unfold Seq.aSet; split <;> rfl

@[simp] theorem Seq.raise_bound (q : Seq) (f : BitVec 6) : (q.raise f).bound = q.bound := rfl
@[simp] theorem Seq.raise_gen (q : Seq) (f : BitVec 6) : (q.raise f).gen = q.gen := rfl
@[simp] theorem Seq.raise_pc (q : Seq) (f : BitVec 6) : (q.raise f).pc = q.pc := rfl
@[simp] theorem Seq.raise_g (q : Seq) (f : BitVec 6) : (q.raise f).g = q.g := rfl
@[simp] theorem Seq.raise_full (q : Seq) (f : BitVec 6) : (q.raise f).full = q.full := rfl
@[simp] theorem Seq.raise_v (q : Seq) (f : BitVec 6) : (q.raise f).v = q.v := rfl
@[simp] theorem Seq.raise_p (q : Seq) (f : BitVec 6) : (q.raise f).p = q.p := rfl
@[simp] theorem Seq.raise_a (q : Seq) (f : BitVec 6) : (q.raise f).a = q.a := rfl
@[simp] theorem Seq.raise_loops (q : Seq) (f : BitVec 6) : (q.raise f).loops = q.loops := rfl
@[simp] theorem Seq.raise_pts (q : Seq) (f : BitVec 6) : (q.raise f).pts = q.pts := rfl
@[simp] theorem Seq.raise_n (q : Seq) (f : BitVec 6) : (q.raise f).n = q.n := rfl
@[simp] theorem Seq.raise_pair (q : Seq) (f : BitVec 6) : (q.raise f).pair = q.pair := rfl
@[simp] theorem Seq.raise_phys (q : Seq) (f : BitVec 6) : (q.raise f).phys = q.phys := rfl
@[simp] theorem Seq.raise_inflight (q : Seq) (f : BitVec 6) : (q.raise f).inflight = q.inflight := rfl
@[simp] theorem Seq.raise_peerBad (q : Seq) (f : BitVec 6) : (q.raise f).peerBad = q.peerBad := rfl
@[simp] theorem Seq.raise_peerRetry (q : Seq) (f : BitVec 6) : (q.raise f).peerRetry = q.peerRetry := rfl
@[simp] theorem Seq.raise_wants (q : Seq) (f : BitVec 6) : (q.raise f).wants = q.wants := rfl
@[simp] theorem Seq.raise_mop (q : Seq) (f : BitVec 6) : (q.raise f).mop = q.mop := rfl
@[simp] theorem Seq.raise_linkEpoch (q : Seq) (f : BitVec 6) : (q.raise f).linkEpoch = q.linkEpoch := rfl
@[simp] theorem Seq.raise_mark (q : Seq) (f : BitVec 6) : (q.raise f).mark = q.mark := rfl
@[simp] theorem Seq.raise_strip (q : Seq) (f : BitVec 6) : (q.raise f).strip = q.strip := rfl
@[simp] theorem Seq.raise_commit (q : Seq) (f : BitVec 6) : (q.raise f).commit = q.commit := rfl
@[simp] theorem Seq.raise_fails (q : Seq) (f : BitVec 6) : (q.raise f).fails = q.fails := rfl
@[simp] theorem Seq.raise_age (q : Seq) (f : BitVec 6) : (q.raise f).age = q.age := rfl
@[simp] theorem Seq.raise_forced (q : Seq) (f : BitVec 6) : (q.raise f).forced = q.forced := rfl
@[simp] theorem Seq.raise_cut (q : Seq) (f : BitVec 6) : (q.raise f).cut = q.cut := rfl
@[simp] theorem Seq.raise_phase (q : Seq) (f : BitVec 6) : (q.raise f).phase = q.phase := rfl
@[simp] theorem Seq.raise_holds (q : Seq) (f : BitVec 6) : (q.raise f).holds = q.holds := rfl
@[simp] theorem Seq.raise_deferred (q : Seq) (f : BitVec 6) : (q.raise f).deferred = q.deferred := rfl
@[simp] theorem Seq.raise_pins (q : Seq) (f : BitVec 6) : (q.raise f).pins = q.pins := rfl
@[simp] theorem Seq.raise_named (q : Seq) (f : BitVec 6) : (q.raise f).named = q.named := rfl
@[simp] theorem Seq.raise_fetched (q : Seq) (f : BitVec 6) : (q.raise f).fetched = q.fetched := rfl
@[simp] theorem Seq.raise_lastStore (q : Seq) (f : BitVec 6) : (q.raise f).lastStore = q.lastStore := rfl
@[simp] theorem Seq.raise_loadRun (q : Seq) (f : BitVec 6) : (q.raise f).loadRun = q.loadRun := rfl
@[simp] theorem Seq.raise_loadLine (q : Seq) (f : BitVec 6) : (q.raise f).loadLine = q.loadLine := rfl
@[simp] theorem Seq.raise_wmax (q : Seq) (f : BitVec 6) : (q.raise f).wmax = q.wmax := rfl
@[simp] theorem Seq.raise_arrivals (q : Seq) (f : BitVec 6) : (q.raise f).arrivals = q.arrivals := rfl
@[simp] theorem Seq.raise_wait (q : Seq) (f : BitVec 6) : (q.raise f).wait = q.wait := rfl
@[simp] theorem Seq.raise_note (q : Seq) (f : BitVec 6) : (q.raise f).note = q.note := rfl
@[simp] theorem Seq.raise_follow (q : Seq) (f : BitVec 6) : (q.raise f).follow = q.follow := rfl
@[simp] theorem Seq.raise_inval (q : Seq) (f : BitVec 6) : (q.raise f).inval = q.inval := rfl
@[simp] theorem Seq.raise_peerOut (q : Seq) (f : BitVec 6) : (q.raise f).peerOut = q.peerOut := rfl
@[simp] theorem Seq.raise_hostOut (q : Seq) (f : BitVec 6) : (q.raise f).hostOut = q.hostOut := rfl
@[simp] theorem Seq.raise_halted (q : Seq) (f : BitVec 6) : (q.raise f).halted = q.halted := rfl
@[simp] theorem Seq.raise_stepReq (q : Seq) (f : BitVec 6) : (q.raise f).stepReq = q.stepReq := rfl
@[simp] theorem Seq.raise_estepDue (q : Seq) (f : BitVec 6) : (q.raise f).estepDue = q.estepDue := rfl
@[simp] theorem Seq.raise_preempt (q : Seq) (f : BitVec 6) : (q.raise f).preempt = q.preempt := rfl
@[simp] theorem Seq.raise_pinLate (q : Seq) (f : BitVec 6) : (q.raise f).pinLate = q.pinLate := rfl
@[simp] theorem Seq.raise_came (q : Seq) (f : BitVec 6) : (q.raise f).came = q.came := rfl

@[simp] theorem Seq.setFull_bound (q : Seq) (r : RegRef) (b : Bool) : (q.setFull r b).bound = q.bound := by cases r <;> rfl
@[simp] theorem Seq.setFull_gen (q : Seq) (r : RegRef) (b : Bool) : (q.setFull r b).gen = q.gen := by cases r <;> rfl
@[simp] theorem Seq.setFull_pc (q : Seq) (r : RegRef) (b : Bool) : (q.setFull r b).pc = q.pc := by cases r <;> rfl
@[simp] theorem Seq.setFull_g (q : Seq) (r : RegRef) (b : Bool) : (q.setFull r b).g = q.g := by cases r <;> rfl
@[simp] theorem Seq.setFull_v (q : Seq) (r : RegRef) (b : Bool) : (q.setFull r b).v = q.v := by cases r <;> rfl
@[simp] theorem Seq.setFull_p (q : Seq) (r : RegRef) (b : Bool) : (q.setFull r b).p = q.p := by cases r <;> rfl
@[simp] theorem Seq.setFull_a (q : Seq) (r : RegRef) (b : Bool) : (q.setFull r b).a = q.a := by cases r <;> rfl
@[simp] theorem Seq.setFull_loops (q : Seq) (r : RegRef) (b : Bool) : (q.setFull r b).loops = q.loops := by cases r <;> rfl
@[simp] theorem Seq.setFull_pts (q : Seq) (r : RegRef) (b : Bool) : (q.setFull r b).pts = q.pts := by cases r <;> rfl
@[simp] theorem Seq.setFull_c (q : Seq) (r : RegRef) (b : Bool) : (q.setFull r b).c = q.c := by cases r <;> rfl
@[simp] theorem Seq.setFull_n (q : Seq) (r : RegRef) (b : Bool) : (q.setFull r b).n = q.n := by cases r <;> rfl
@[simp] theorem Seq.setFull_pair (q : Seq) (r : RegRef) (b : Bool) : (q.setFull r b).pair = q.pair := by cases r <;> rfl
@[simp] theorem Seq.setFull_phys (q : Seq) (r : RegRef) (b : Bool) : (q.setFull r b).phys = q.phys := by cases r <;> rfl
@[simp] theorem Seq.setFull_inflight (q : Seq) (r : RegRef) (b : Bool) : (q.setFull r b).inflight = q.inflight := by cases r <;> rfl
@[simp] theorem Seq.setFull_peerBad (q : Seq) (r : RegRef) (b : Bool) : (q.setFull r b).peerBad = q.peerBad := by cases r <;> rfl
@[simp] theorem Seq.setFull_peerRetry (q : Seq) (r : RegRef) (b : Bool) : (q.setFull r b).peerRetry = q.peerRetry := by cases r <;> rfl
@[simp] theorem Seq.setFull_wants (q : Seq) (r : RegRef) (b : Bool) : (q.setFull r b).wants = q.wants := by cases r <;> rfl
@[simp] theorem Seq.setFull_mop (q : Seq) (r : RegRef) (b : Bool) : (q.setFull r b).mop = q.mop := by cases r <;> rfl
@[simp] theorem Seq.setFull_linkEpoch (q : Seq) (r : RegRef) (b : Bool) : (q.setFull r b).linkEpoch = q.linkEpoch := by cases r <;> rfl
@[simp] theorem Seq.setFull_mark (q : Seq) (r : RegRef) (b : Bool) : (q.setFull r b).mark = q.mark := by cases r <;> rfl
@[simp] theorem Seq.setFull_strip (q : Seq) (r : RegRef) (b : Bool) : (q.setFull r b).strip = q.strip := by cases r <;> rfl
@[simp] theorem Seq.setFull_commit (q : Seq) (r : RegRef) (b : Bool) : (q.setFull r b).commit = q.commit := by cases r <;> rfl
@[simp] theorem Seq.setFull_fails (q : Seq) (r : RegRef) (b : Bool) : (q.setFull r b).fails = q.fails := by cases r <;> rfl
@[simp] theorem Seq.setFull_age (q : Seq) (r : RegRef) (b : Bool) : (q.setFull r b).age = q.age := by cases r <;> rfl
@[simp] theorem Seq.setFull_forced (q : Seq) (r : RegRef) (b : Bool) : (q.setFull r b).forced = q.forced := by cases r <;> rfl
@[simp] theorem Seq.setFull_cut (q : Seq) (r : RegRef) (b : Bool) : (q.setFull r b).cut = q.cut := by cases r <;> rfl
@[simp] theorem Seq.setFull_phase (q : Seq) (r : RegRef) (b : Bool) : (q.setFull r b).phase = q.phase := by cases r <;> rfl
@[simp] theorem Seq.setFull_holds (q : Seq) (r : RegRef) (b : Bool) : (q.setFull r b).holds = q.holds := by cases r <;> rfl
@[simp] theorem Seq.setFull_deferred (q : Seq) (r : RegRef) (b : Bool) : (q.setFull r b).deferred = q.deferred := by cases r <;> rfl
@[simp] theorem Seq.setFull_pins (q : Seq) (r : RegRef) (b : Bool) : (q.setFull r b).pins = q.pins := by cases r <;> rfl
@[simp] theorem Seq.setFull_named (q : Seq) (r : RegRef) (b : Bool) : (q.setFull r b).named = q.named := by cases r <;> rfl
@[simp] theorem Seq.setFull_fetched (q : Seq) (r : RegRef) (b : Bool) : (q.setFull r b).fetched = q.fetched := by cases r <;> rfl
@[simp] theorem Seq.setFull_lastStore (q : Seq) (r : RegRef) (b : Bool) : (q.setFull r b).lastStore = q.lastStore := by cases r <;> rfl
@[simp] theorem Seq.setFull_loadRun (q : Seq) (r : RegRef) (b : Bool) : (q.setFull r b).loadRun = q.loadRun := by cases r <;> rfl
@[simp] theorem Seq.setFull_loadLine (q : Seq) (r : RegRef) (b : Bool) : (q.setFull r b).loadLine = q.loadLine := by cases r <;> rfl
@[simp] theorem Seq.setFull_wmax (q : Seq) (r : RegRef) (b : Bool) : (q.setFull r b).wmax = q.wmax := by cases r <;> rfl
@[simp] theorem Seq.setFull_arrivals (q : Seq) (r : RegRef) (b : Bool) : (q.setFull r b).arrivals = q.arrivals := by cases r <;> rfl
@[simp] theorem Seq.setFull_wait (q : Seq) (r : RegRef) (b : Bool) : (q.setFull r b).wait = q.wait := by cases r <;> rfl
@[simp] theorem Seq.setFull_note (q : Seq) (r : RegRef) (b : Bool) : (q.setFull r b).note = q.note := by cases r <;> rfl
@[simp] theorem Seq.setFull_follow (q : Seq) (r : RegRef) (b : Bool) : (q.setFull r b).follow = q.follow := by cases r <;> rfl
@[simp] theorem Seq.setFull_inval (q : Seq) (r : RegRef) (b : Bool) : (q.setFull r b).inval = q.inval := by cases r <;> rfl
@[simp] theorem Seq.setFull_peerOut (q : Seq) (r : RegRef) (b : Bool) : (q.setFull r b).peerOut = q.peerOut := by cases r <;> rfl
@[simp] theorem Seq.setFull_hostOut (q : Seq) (r : RegRef) (b : Bool) : (q.setFull r b).hostOut = q.hostOut := by cases r <;> rfl
@[simp] theorem Seq.setFull_halted (q : Seq) (r : RegRef) (b : Bool) : (q.setFull r b).halted = q.halted := by cases r <;> rfl
@[simp] theorem Seq.setFull_stepReq (q : Seq) (r : RegRef) (b : Bool) : (q.setFull r b).stepReq = q.stepReq := by cases r <;> rfl
@[simp] theorem Seq.setFull_estepDue (q : Seq) (r : RegRef) (b : Bool) : (q.setFull r b).estepDue = q.estepDue := by cases r <;> rfl
@[simp] theorem Seq.setFull_preempt (q : Seq) (r : RegRef) (b : Bool) : (q.setFull r b).preempt = q.preempt := by cases r <;> rfl
@[simp] theorem Seq.setFull_pinLate (q : Seq) (r : RegRef) (b : Bool) : (q.setFull r b).pinLate = q.pinLate := by cases r <;> rfl
@[simp] theorem Seq.setFull_came (q : Seq) (r : RegRef) (b : Bool) : (q.setFull r b).came = q.came := by cases r <;> rfl

@[simp] theorem Seq.advance_bound (q : Seq) (f : Flow) : (q.advance f).bound = q.bound := by unfold Seq.advance; split <;> rfl
@[simp] theorem Seq.advance_gen (q : Seq) (f : Flow) : (q.advance f).gen = q.gen := by unfold Seq.advance; split <;> rfl
@[simp] theorem Seq.advance_g (q : Seq) (f : Flow) : (q.advance f).g = q.g := by unfold Seq.advance; split <;> rfl
@[simp] theorem Seq.advance_full (q : Seq) (f : Flow) : (q.advance f).full = q.full := by unfold Seq.advance; split <;> rfl
@[simp] theorem Seq.advance_v (q : Seq) (f : Flow) : (q.advance f).v = q.v := by unfold Seq.advance; split <;> rfl
@[simp] theorem Seq.advance_p (q : Seq) (f : Flow) : (q.advance f).p = q.p := by unfold Seq.advance; split <;> rfl
@[simp] theorem Seq.advance_a (q : Seq) (f : Flow) : (q.advance f).a = q.a := by unfold Seq.advance; split <;> rfl
@[simp] theorem Seq.advance_pts (q : Seq) (f : Flow) : (q.advance f).pts = q.pts := by unfold Seq.advance; split <;> rfl
@[simp] theorem Seq.advance_c (q : Seq) (f : Flow) : (q.advance f).c = q.c := by unfold Seq.advance; split <;> rfl
@[simp] theorem Seq.advance_n (q : Seq) (f : Flow) : (q.advance f).n = q.n := by unfold Seq.advance; split <;> rfl
@[simp] theorem Seq.advance_pair (q : Seq) (f : Flow) : (q.advance f).pair = q.pair := by unfold Seq.advance; split <;> rfl
@[simp] theorem Seq.advance_phys (q : Seq) (f : Flow) : (q.advance f).phys = q.phys := by unfold Seq.advance; split <;> rfl
@[simp] theorem Seq.advance_inflight (q : Seq) (f : Flow) : (q.advance f).inflight = q.inflight := by unfold Seq.advance; split <;> rfl
@[simp] theorem Seq.advance_peerBad (q : Seq) (f : Flow) : (q.advance f).peerBad = q.peerBad := by unfold Seq.advance; split <;> rfl
@[simp] theorem Seq.advance_peerRetry (q : Seq) (f : Flow) : (q.advance f).peerRetry = q.peerRetry := by unfold Seq.advance; split <;> rfl
@[simp] theorem Seq.advance_wants (q : Seq) (f : Flow) : (q.advance f).wants = q.wants := by unfold Seq.advance; split <;> rfl
@[simp] theorem Seq.advance_mop (q : Seq) (f : Flow) : (q.advance f).mop = q.mop := by unfold Seq.advance; split <;> rfl
@[simp] theorem Seq.advance_linkEpoch (q : Seq) (f : Flow) : (q.advance f).linkEpoch = q.linkEpoch := by unfold Seq.advance; split <;> rfl
@[simp] theorem Seq.advance_mark (q : Seq) (f : Flow) : (q.advance f).mark = q.mark := by unfold Seq.advance; split <;> rfl
@[simp] theorem Seq.advance_strip (q : Seq) (f : Flow) : (q.advance f).strip = q.strip := by unfold Seq.advance; split <;> rfl
@[simp] theorem Seq.advance_commit (q : Seq) (f : Flow) : (q.advance f).commit = q.commit := by unfold Seq.advance; split <;> rfl
@[simp] theorem Seq.advance_fails (q : Seq) (f : Flow) : (q.advance f).fails = q.fails := by unfold Seq.advance; split <;> rfl
@[simp] theorem Seq.advance_age (q : Seq) (f : Flow) : (q.advance f).age = q.age := by unfold Seq.advance; split <;> rfl
@[simp] theorem Seq.advance_forced (q : Seq) (f : Flow) : (q.advance f).forced = q.forced := by unfold Seq.advance; split <;> rfl
@[simp] theorem Seq.advance_cut (q : Seq) (f : Flow) : (q.advance f).cut = q.cut := by unfold Seq.advance; split <;> rfl
@[simp] theorem Seq.advance_phase (q : Seq) (f : Flow) : (q.advance f).phase = q.phase := by unfold Seq.advance; split <;> rfl
@[simp] theorem Seq.advance_holds (q : Seq) (f : Flow) : (q.advance f).holds = q.holds := by unfold Seq.advance; split <;> rfl
@[simp] theorem Seq.advance_deferred (q : Seq) (f : Flow) : (q.advance f).deferred = q.deferred := by unfold Seq.advance; split <;> rfl
@[simp] theorem Seq.advance_pins (q : Seq) (f : Flow) : (q.advance f).pins = q.pins := by unfold Seq.advance; split <;> rfl
@[simp] theorem Seq.advance_named (q : Seq) (f : Flow) : (q.advance f).named = q.named := by unfold Seq.advance; split <;> rfl
@[simp] theorem Seq.advance_fetched (q : Seq) (f : Flow) : (q.advance f).fetched = q.fetched := by unfold Seq.advance; split <;> rfl
@[simp] theorem Seq.advance_lastStore (q : Seq) (f : Flow) : (q.advance f).lastStore = q.lastStore := by unfold Seq.advance; split <;> rfl
@[simp] theorem Seq.advance_loadRun (q : Seq) (f : Flow) : (q.advance f).loadRun = q.loadRun := by unfold Seq.advance; split <;> rfl
@[simp] theorem Seq.advance_loadLine (q : Seq) (f : Flow) : (q.advance f).loadLine = q.loadLine := by unfold Seq.advance; split <;> rfl
@[simp] theorem Seq.advance_wmax (q : Seq) (f : Flow) : (q.advance f).wmax = q.wmax := by unfold Seq.advance; split <;> rfl
@[simp] theorem Seq.advance_arrivals (q : Seq) (f : Flow) : (q.advance f).arrivals = q.arrivals := by unfold Seq.advance; split <;> rfl
@[simp] theorem Seq.advance_wait (q : Seq) (f : Flow) : (q.advance f).wait = q.wait := by unfold Seq.advance; split <;> rfl
@[simp] theorem Seq.advance_note (q : Seq) (f : Flow) : (q.advance f).note = q.note := by unfold Seq.advance; split <;> rfl
@[simp] theorem Seq.advance_follow (q : Seq) (f : Flow) : (q.advance f).follow = q.follow := by unfold Seq.advance; split <;> rfl
@[simp] theorem Seq.advance_inval (q : Seq) (f : Flow) : (q.advance f).inval = q.inval := by unfold Seq.advance; split <;> rfl
@[simp] theorem Seq.advance_peerOut (q : Seq) (f : Flow) : (q.advance f).peerOut = q.peerOut := by unfold Seq.advance; split <;> rfl
@[simp] theorem Seq.advance_hostOut (q : Seq) (f : Flow) : (q.advance f).hostOut = q.hostOut := by unfold Seq.advance; split <;> rfl
@[simp] theorem Seq.advance_halted (q : Seq) (f : Flow) : (q.advance f).halted = q.halted := by unfold Seq.advance; split <;> rfl
@[simp] theorem Seq.advance_stepReq (q : Seq) (f : Flow) : (q.advance f).stepReq = q.stepReq := by unfold Seq.advance; split <;> rfl
@[simp] theorem Seq.advance_estepDue (q : Seq) (f : Flow) : (q.advance f).estepDue = q.estepDue := by unfold Seq.advance; split <;> rfl
@[simp] theorem Seq.advance_preempt (q : Seq) (f : Flow) : (q.advance f).preempt = q.preempt := by unfold Seq.advance; split <;> rfl
@[simp] theorem Seq.advance_pinLate (q : Seq) (f : Flow) : (q.advance f).pinLate = q.pinLate := by unfold Seq.advance; split <;> rfl
@[simp] theorem Seq.advance_came (q : Seq) (f : Flow) : (q.advance f).came = q.came := by unfold Seq.advance; split <;> rfl

/-! ## Registers -/

/-- g0 reads 0 (11 R238). -/
@[simp] theorem Seq.gRead_zero (q : Seq) : q.gRead 0 = 0 := rfl

theorem Seq.gRead_gSet_same (q : Seq) {n : Nat} (v : DWord) (h0 : 0 < n) (h : n < 32) : (q.gSet n v).gRead n = v := by
  simp [Seq.gRead, Seq.gSet, h0, h]

theorem Seq.gRead_gSet_other (q : Seq) {n m : Nat} (v : DWord) (h : n ≠ m) : (q.gSet n v).gRead m = q.gRead m := by
  by_cases hn : 0 < n ∧ n < 32
  · by_cases hm : 0 < m ∧ m < 32
    · simp [Seq.gSet, Seq.gRead, hn, hm, h]
    · simp [Seq.gRead, hm]
  · simp [Seq.gSet, hn]

/-- A write to g0 is discarded (11 R238). -/
@[simp] theorem Seq.gSet_zero (q : Seq) (v : DWord) : q.gSet 0 v = q := rfl

theorem Seq.vRead_vSet_same (q : Seq) {n : Nat} (x : Bits) (h : n < 32) : (q.vSet n x).vRead n = x := by
  simp [Seq.vRead, Seq.vSet, h]

theorem Seq.vRead_vSet_other (q : Seq) {n m : Nat} (x : Bits) (h : n ≠ m) : (q.vSet n x).vRead m = q.vRead m := by
  by_cases hn : n < 32
  · by_cases hm : m < 32
    · simp [Seq.vSet, Seq.vRead, hn, hm, h]
    · simp [Seq.vRead, hm]
  · simp [Seq.vSet, hn]

theorem Seq.pRead_pSet_same (q : Seq) {n : Nat} (x : Bits) (h : n < 8) : (q.pSet n x).pRead n = x := by
  simp [Seq.pRead, Seq.pSet, h]

theorem Seq.pRead_pSet_other (q : Seq) {n m : Nat} (x : Bits) (h : n ≠ m) : (q.pSet n x).pRead m = q.pRead m := by
  by_cases hn : n < 8
  · by_cases hm : m < 8
    · simp [Seq.pSet, Seq.pRead, hn, hm, h]
    · simp [Seq.pRead, hm]
  · simp [Seq.pSet, hn]

theorem Seq.aRead_aSet_same (q : Seq) {n : Nat} (x : Bits) (h : n < 8) : (q.aSet n x).aRead n = x := by
  simp [Seq.aRead, Seq.aSet, h]

theorem Seq.aRead_aSet_other (q : Seq) {n m : Nat} (x : Bits) (h : n ≠ m) : (q.aSet n x).aRead m = q.aRead m := by
  by_cases hn : n < 8
  · by_cases hm : m < 8
    · simp [Seq.aSet, Seq.aRead, hn, hm, h]
    · simp [Seq.aRead, hm]
  · simp [Seq.aSet, hn]

end Sys2Proof.Machine
end

