-- ==== Sys2Proof/Laws/Issue.lean ====
section
/-!
SUPPORT. What `issue` does in each case of R301, once: an instruction that may execute runs its body and retires; and the
order in which the checks refuse it (spec/13_encoding.md R301; spec/11_execution_state.md R240).
-/
namespace Sys2Proof.Machine

theorem find?_none_of {α : Type} {p : α → Bool} {xs : List α} (h : ∀ x ∈ xs, p x = false) : xs.find? p = none := by
  rw [List.find?_eq_none]
  intro x hx
  simp [h x hx]

theorem perform_ok {k : Agent} {q : Seq} {body : State → Res Flow} {s t : State} {f : Flow} (hb : body s = .ok f t) :
    perform k q body s = (tidy k (endAccess k t)).upd k fun r => r.retire q f := by
  unfold perform
  rw [hb]
  rfl

theorem perform_trap {k : Agent} {q : Seq} {body : State → Res Flow} {s t : State} {c v : Nat} (h8 : c ≠ 0x08)
    (hb : body s = .trap c v t) : perform k q body s = trapSeq k c v (tidy k (endAccess k t)) := by
  unfold perform
  rw [hb]
  simp only [settle, if_neg h8]

theorem perform_stackTrap {k : Agent} {q : Seq} {body : State → Res Flow} {s t : State} {v : Nat}
    (hb : body s = .trap 0x08 v t) : perform k q body s = trapSeq k 0x08 v (tidy k (endAccess k s)) := by
  unfold perform
  rw [hb]
  rfl

theorem perform_wait {k : Agent} {q : Seq} {body : State → Res Flow} {s t : State} (hb : body s = .wait t) :
    perform k q body s = if (t.seq k).accessing then t else endAccess k t := by
  unfold perform
  rw [hb]
  rfl

/-- No page is in use: the end of the accesses changes nothing. -/
theorem endAccess_fresh {k : Agent} {s : State} (h : (s.seq k).inflight = []) : endAccess k s = s := by
  unfold endAccess
  rw [if_pos h]

/-- An instruction that passes every check runs its body. -/
theorem issue_settles {o : Operands} {body : State → Res Flow} {s : State}
    (hp : o.priv = true → s.me.n.priv = true) (hr : ∀ r ∈ o.regs, s.me.exists_ r = true) (ht : o.typeOk = true)
    (hs : ∀ x ∈ o.sources, s.me.isFull x.1 = true) (hd : ∀ r ∈ o.dests, s.me.isFull r = true)
    (hc : o.closes = true → s.me.Closed) : issue o body s = .next (perform s.cur s.me body s) := by
  have h1 : (o.priv && !s.me.n.priv) = false := by
    cases h : o.priv
    · rfl
    · simp [hp h]
  have h2 : o.badReg s.me = none := find?_none_of fun r h => by simp [hr r h]
  have h3 : o.emptyTrap s.me = none := by
    unfold Operands.emptyTrap
    rw [find?_none_of fun x h => by simp [hs x h]]
    rfl
  have h4 : o.ready s.me = true := by
    unfold Operands.ready
    rw [Bool.and_eq_true, Bool.and_eq_true, List.all_eq_true, List.all_eq_true]
    refine ⟨⟨hs, hd⟩, ?_⟩
    cases h : o.closes
    · rfl
    · simp [(hc h).2]
  have h5 : (o.closes && s.me.strip.isSome) = false := by
    cases h : o.closes
    · rfl
    · simp [(hc h).1]
  unfold issue
  simp only [h1, h2, ht, h3, h4, h5, Bool.not_true, Bool.false_eq_true, if_false]

/-- An instruction that passes every check and whose body answers retires. -/
theorem issue_completes {o : Operands} {body : State → Res Flow} {s t : State} {f : Flow}
    (hp : o.priv = true → s.me.n.priv = true) (hr : ∀ r ∈ o.regs, s.me.exists_ r = true) (ht : o.typeOk = true)
    (hs : ∀ x ∈ o.sources, s.me.isFull x.1 = true) (hd : ∀ r ∈ o.dests, s.me.isFull r = true)
    (hc : o.closes = true → s.me.Closed) (hb : body s = .ok f t) : issue o body s = .next (s.retired t f) := by
  rw [issue_settles hp hr ht hs hd hc, perform_ok hb]
  rfl

/-- A body that traps. -/
theorem issue_traps {o : Operands} {body : State → Res Flow} {s t : State} {c v : Nat}
    (hp : o.priv = true → s.me.n.priv = true) (hr : ∀ r ∈ o.regs, s.me.exists_ r = true) (ht : o.typeOk = true)
    (hs : ∀ x ∈ o.sources, s.me.isFull x.1 = true) (hd : ∀ r ∈ o.dests, s.me.isFull r = true)
    (hc : o.closes = true → s.me.Closed) (h8 : c ≠ 0x08) (hb : body s = .trap c v t) :
    issue o body s = .next (trapSeq s.cur c v (tidy s.cur (endAccess s.cur t))) := by
  rw [issue_settles hp hr ht hs hd hc, perform_trap h8 hb]

/-- A body that would write a value below the stack limit to sp: the trap is precise, so nothing of the body is done (11 R258,
R270). -/
theorem issue_stackTrap {o : Operands} {body : State → Res Flow} {s t : State} {v : Nat}
    (hp : o.priv = true → s.me.n.priv = true) (hr : ∀ r ∈ o.regs, s.me.exists_ r = true) (ht : o.typeOk = true)
    (hs : ∀ x ∈ o.sources, s.me.isFull x.1 = true) (hd : ∀ r ∈ o.dests, s.me.isFull r = true)
    (hc : o.closes = true → s.me.Closed) (hb : body s = .trap 0x08 v t) :
    issue o body s = .next (trapSeq s.cur 0x08 v (tidy s.cur (endAccess s.cur s))) := by
  rw [issue_settles hp hr ht hs hd hc, perform_stackTrap hb]

/-- A body that waits. -/
theorem issue_waits {o : Operands} {body : State → Res Flow} {s t : State}
    (hp : o.priv = true → s.me.n.priv = true) (hr : ∀ r ∈ o.regs, s.me.exists_ r = true) (ht : o.typeOk = true)
    (hs : ∀ x ∈ o.sources, s.me.isFull x.1 = true) (hd : ∀ r ∈ o.dests, s.me.isFull r = true)
    (hc : o.closes = true → s.me.Closed) (hb : body s = .wait t) (hi : (t.seq s.cur).inflight = []) :
    issue o body s = .next t := by
  rw [issue_settles hp hr ht hs hd hc, perform_wait hb, endAccess_fresh hi]
  split <;> rfl

/-- Nothing is held: the tidying after an instruction changes nothing. -/
theorem tidy_fresh {k : Agent} {s : State} (h : (s.seq k).holds = [] ∨ (s.seq k).strip.isSome = true) : tidy k s = s := by
  unfold tidy
  rw [if_pos h]

/-- Nothing is held and no page is in use: what ends an instruction leaves the state as it is. -/
theorem State.settled {s t : State} (h : s.Fresh) (hh : t.me.holds = s.me.holds) (hs : t.me.strip = s.me.strip)
    (hi : t.me.inflight = s.me.inflight) : tidy t.cur (endAccess t.cur t) = t := by
  rw [endAccess_fresh (show (t.seq t.cur).inflight = [] from hi.trans h.2)]
  exact tidy_fresh (show t.me.holds = [] ∨ t.me.strip.isSome = true by rw [hh, hs]; exact h.1)

theorem State.Fresh.updMe {s : State} (h : s.Fresh) {f : Seq → Seq} (hh : (f s.me).holds = s.me.holds)
    (hs : (f s.me).strip = s.me.strip) (hi : (f s.me).inflight = s.me.inflight) :
    tidy s.cur (endAccess s.cur (s.updMe f)) = s.updMe f := by
  have := State.settled (t := s.updMe f) h (by rw [State.me_updMe, hh]) (by rw [State.me_updMe, hs]) (by rw [State.me_updMe, hi])
  exact this

@[simp] theorem AMap.set_set {α : Type} (m : AMap α) (i : Nat) (v w : α) : (m.set i v).set i w = m.set i w := by
  induction m with
  | nil => simp [AMap.set]
  | cons e m ih =>
    obtain ⟨k, x⟩ := e
    by_cases hk : k = i
    · subst hk; simp [AMap.set]
    · by_cases hl : i < k
      · simp [AMap.set, hk, hl]
      · simp [AMap.set, hk, hl, ih]

theorem State.upd_upd (s : State) (k : Agent) (f g : Seq → Seq) : (s.upd k f).upd k g = s.upd k fun q => g (f q) := by
  unfold State.upd
  rw [State.seq_setSeq_same]
  simp [State.setSeq]

theorem State.updMe_updMe (s : State) (f g : Seq → Seq) : (s.updMe f).updMe g = s.updMe fun q => g (f q) :=
  State.upd_upd s s.cur f g

/-- An instruction that changes the current sequencer alone, and neither its strip nor its lines. -/
theorem State.retired_updMe {s : State} (h : s.Fresh) {f : Seq → Seq} (hh : (f s.me).holds = s.me.holds)
    (hs : (f s.me).strip = s.me.strip) (hi : (f s.me).inflight = s.me.inflight) (fl : Flow) :
    s.retired (s.updMe f) fl = s.done f fl := by
  unfold State.retired
  rw [h.updMe hh hs hi]
  exact State.updMe_updMe s f _

end Sys2Proof.Machine
end

