-- ==== Sys2Proof/Laws/Ops.lean ====
section
/-!
SUPPORT. What each shared operation of Ops.lean, Operands.lean, Flags.lean and Stage.lean can do, once: register reads after
writes, the scalar writes with the stack limit, the loop stack, taking a trap and returning from one, and which of them leave
both byte memories alone.
-/
namespace Sys2Proof.Machine

/-! ## Registers (11 R238, R239) -/

/-- A write of g[n] is read back; writes to g0 are discarded. -/
theorem Seq.gRead_gSet (q : Seq) {n m : Nat} (v : DWord) (hn : n < 32) :
    (q.gSet n v).gRead m = if n = m ∧ n ≠ 0 then v else q.gRead m := by
  unfold Seq.gRead Seq.gSet
  by_cases h0 : 0 < n
  · by_cases hm : 0 < m ∧ m < 32
    · by_cases e : n = m
      · subst e; simp [h0, hn, Nat.ne_of_gt h0]
      · simp [h0, hn, hm, e]
    · have : ¬ (n = m ∧ n ≠ 0) := fun h => hm ⟨h.1 ▸ h0, h.1 ▸ hn⟩
      simp [hm, this]
  · have : n = 0 := by omega
    subst this; simp

theorem Seq.vRead_vSet (q : Seq) {n m : Nat} (x : Bits) (hn : n < 32) :
    (q.vSet n x).vRead m = if n = m then x else q.vRead m := by
  unfold Seq.vRead Seq.vSet
  by_cases hm : m < 32
  · by_cases e : n = m
    · subst e; simp [hn]
    · simp [hn, hm, e]
  · have : n ≠ m := by omega
    simp [hm, this]

theorem Seq.pRead_pSet (q : Seq) {n m : Nat} (x : Bits) (hn : n < 8) :
    (q.pSet n x).pRead m = if n = m then x else q.pRead m := by
  unfold Seq.pRead Seq.pSet
  by_cases hm : m < 8
  · by_cases e : n = m
    · subst e; simp [hn]
    · simp [hn, hm, e]
  · have : n ≠ m := by omega
    simp [hm, this]

theorem Seq.aRead_aSet (q : Seq) {n m : Nat} (x : Bits) (hn : n < 8) :
    (q.aSet n x).aRead m = if n = m then x else q.aRead m := by
  unfold Seq.aRead Seq.aSet
  by_cases hm : m < 8
  · by_cases e : n = m
    · subst e; simp [hn]
    · simp [hn, hm, e]
  · have : n ≠ m := by omega
    simp [hm, this]

/-! ## Sequencing -/

@[simp] theorem Res.andThen_ok {α β : Type} (a : α) (s : State) (f : α → State → Res β) : (Res.ok a s).andThen f = f a s := rfl
@[simp] theorem Res.andThen_wait {α β : Type} (s : State) (f : α → State → Res β) : (Res.wait s : Res α).andThen f = .wait s := rfl
@[simp] theorem Res.andThen_trap {α β : Type} (c v : Nat) (s : State) (f : α → State → Res β) :
    (Res.trap c v s : Res α).andThen f = .trap c v s := rfl
@[simp] theorem Res.andThen_fault {α β : Type} (es : List FaultEntry) (s : State) (f : α → State → Res β) :
    (Res.fault es s : Res α).andThen f = .fault es s := rfl

/-- What answers a sequence answered its first part, and then the rest. -/
theorem Res.andThen_eq_ok {α β : Type} {r : Res α} {f : α → State → Res β} {b : β} {t : State} (h : r.andThen f = .ok b t) :
    ∃ a u, r = .ok a u ∧ f a u = .ok b t := by
  cases r with
  | ok a u => exact ⟨a, u, rfl, h⟩
  | wait u => cases h
  | trap c v u => cases h
  | fault es u => cases h

/-! ## Scalar results (11 R270; 14 R305) -/

/-- The stack limit refuses a value for sp. -/
def Seq.Refuses (q : Seq) (d : Nat) (v : DWord) : Prop := d = 31 ∧ q.c.slim ≠ 0 ∧ v.toNat < q.c.slim.toNat

theorem Seq.writable_iff (q : Seq) (d : Nat) (v : DWord) : q.Writable d v ↔ ¬ q.Refuses d v := by
  unfold Seq.Writable Seq.Refuses
  constructor
  · intro h ⟨hd, hs, hv⟩
    rcases h hd with h | h
    · exact hs h
    · omega
  · intro h hd
    by_cases hs : q.c.slim = 0
    · exact .inl hs
    · exact .inr (Nat.le_of_not_lt fun hv => h ⟨hd, hs, hv⟩)

theorem writeG_ok {s : State} {d : Nat} {v : DWord} (h : s.me.Writable d v) :
    writeG d v s = .ok () (s.updMe fun q => q.gSet d v) := by
  unfold writeG
  exact if_neg ((Seq.writable_iff _ _ _).mp h)

theorem writeG_trap {s : State} {d : Nat} {v : DWord} (h : s.me.Refuses d v) : writeG d v s = .trap 0x08 v.toNat s := by
  unfold writeG
  exact if_pos h

theorem putG_ok {s : State} {d : Nat} {v : DWord} (fl : BitVec 6) (h : s.me.Writable d v) :
    putG d v fl s = .ok .next (s.updMe fun q => (q.gSet d v).raise fl) := by
  unfold putG
  rw [writeG_ok h, Res.andThen_ok]
  exact congrArg (Res.ok Flow.next) (State.upd_upd s s.cur _ _)

theorem putG_trap {s : State} {d : Nat} {v : DWord} (fl : BitVec 6) (h : s.me.Refuses d v) :
    putG d v fl s = .trap 0x08 v.toNat s := by
  unfold putG
  rw [writeG_trap h]
  rfl

theorem produceG_ok {s : State} {d : Nat} {v : DWord} (h : s.me.Writable d v) :
    produceG d v s = .ok () (if d = 0 then s else s.updMe fun q => q.produce (.g d) v.toNat) := by
  unfold produceG
  simp only [(Seq.writable_iff _ _ _).mp h |> fun h => (show ¬ (d = 31 ∧ s.me.c.slim ≠ 0 ∧ v.toNat < s.me.c.slim.toNat) from h), if_false]
  split <;> rfl

theorem produceG_trap {s : State} {d : Nat} {v : DWord} (h : s.me.Refuses d v) : produceG d v s = .trap 0x08 v.toNat s := by
  unfold produceG
  exact if_pos h

/-! ## The loop stack (14 R324) -/

@[simp] theorem loopStep_nil (x : DWord) : loopStep x [] = ([], x + 4) := rfl

theorem loopStep_inside {x : DWord} {e : LoopEntry} (es : List LoopEntry) (h : e.stop ≠ x) :
    loopStep x (e :: es) = (e :: es, x + 4) := by
  simp [loopStep, h]

theorem loopStep_again {x : DWord} {e : LoopEntry} (es : List LoopEntry) (h : e.stop = x) (hc : e.index + 1 < e.count) :
    loopStep x (e :: es) = ({ e with index := e.index + 1 } :: es, e.start) := by
  simp [loopStep, h, hc]

theorem loopStep_pop {x : DWord} {e : LoopEntry} (es : List LoopEntry) (h : e.stop = x) (hc : e.count ≤ e.index + 1) :
    loopStep x (e :: es) = loopStep x es := by
  simp [loopStep, h, Nat.not_lt.mpr hc]

/-- The loop stack never grows at a step. -/
theorem loopStep_length (x : DWord) (es : List LoopEntry) : (loopStep x es).1.length ≤ es.length := by
  induction es with
  | nil => simp
  | cons e es ih =>
    unfold loopStep
    split
    · split
      · simp
      · simp only [List.length_cons]; omega
    · simp

/-! ## Taking a trap and returning (11 R258, R260) -/

/-- With a handler that stands ready and no strip open, a trap changes the sequencer alone. -/
theorem takeTrap_handled {s : State} {k : Agent} (cause val : Nat) (hs : (s.seq k).strip = none) (ht : (s.seq k).n.tvec ≠ 0)
    (hi : (s.seq k).n.intrap = false) :
    takeTrap k cause val s = s.upd k fun q =>
      { q with
        n := { q.n with rbk := false, epc := q.pc, cause := BitVec.ofNat 64 cause, tval := BitVec.ofNat 64 val, intrap := true }
        pc := aligned q.n.tvec, linkEpoch := (q.linkEpoch + 1) % 65536, note := none, wait := .run } := by
  unfold takeTrap
  simp only [hs, Option.isSome_none, Bool.false_eq_true, if_false, State.seq_upd_same, ht, hi, or_self]
  rw [State.upd_upd]

/-- A return from a handler changes the pc and INTRAP alone. -/
theorem trapReturn_seq (k : Agent) (s : State) :
    (trapReturn k s).seq k = { s.seq k with pc := aligned (s.seq k).n.epc, n := { (s.seq k).n with intrap := false } } := by
  simp [trapReturn]

/-! ## What leaves both byte memories alone -/

/-- Coherent memory and Stage memory are the same. -/
def State.SameBytes (s t : State) : Prop := t.mem = s.mem ∧ t.stage = s.stage

theorem State.SameBytes.refl (s : State) : s.SameBytes s := ⟨rfl, rfl⟩

theorem State.SameBytes.trans {s t u : State} (h : s.SameBytes t) (g : t.SameBytes u) : s.SameBytes u :=
  ⟨g.1.trans h.1, g.2.trans h.2⟩

theorem State.SameBytes.canonical {s t : State} (h : s.SameBytes t) (c : s.Canonical) : t.Canonical := by
  unfold State.Canonical
  rw [h.1, h.2]
  exact c

/-- Repeating an operation that leaves them alone. -/
theorem State.SameBytes.thread {α : Type} {f : α → State → State} (h : ∀ a (s : State), s.SameBytes (f a s)) (as : List α) (s : State) :
    s.SameBytes (thread f as s) := by
  induction as generalizing s with
  | nil => exact .refl s
  | cons a as ih => exact (h a s).trans (ih _)

theorem upd_sameBytes (k : Agent) (f : Seq → Seq) (s : State) : s.SameBytes (s.upd k f) := ⟨rfl, rfl⟩
theorem updMe_sameBytes (f : Seq → Seq) (s : State) : s.SameBytes (s.updMe f) := ⟨rfl, rfl⟩
theorem wake_sameBytes (k : Agent) (s : State) : s.SameBytes (s.wake k) := ⟨rfl, rfl⟩
theorem waitFor_sameBytes (k : Agent) (w : Wait) (s : State) : s.SameBytes (s.waitFor k w) := ⟨rfl, rfl⟩
theorem post_sameBytes (d : Due) (s : State) : s.SameBytes (s.post d) := ⟨rfl, rfl⟩
theorem updVi_sameBytes (n : Nat) (f : Vi → Vi) (s : State) : s.SameBytes (s.updVi n f) := ⟨rfl, rfl⟩
theorem updDie_sameBytes (d : Nat) (f : Die → Die) (s : State) : s.SameBytes (s.updDie d f) := by
  unfold State.updDie
  split <;> exact ⟨rfl, rfl⟩

theorem resume_sameBytes (k : Agent) (s : State) : s.SameBytes (resume k s) := by
  unfold resume
  split <;> exact ⟨rfl, rfl⟩

theorem engGo_sameBytes (c : ChainId) (s : State) : s.SameBytes (engGo c s) := by
  unfold engGo
  split
  · exact .refl s
  · split
    · exact .refl s
    · split
      · exact .refl s
      · exact ⟨rfl, rfl⟩

theorem serveWaiting_sameBytes (x : Nat) (s : State) : s.SameBytes (serveWaiting x s) := by
  unfold serveWaiting
  split
  · exact .refl s
  · dsimp only
    refine State.SameBytes.trans (State.SameBytes.trans ?_ (.thread resume_sameBytes _ _)) (.thread engGo_sameBytes _ _)
    exact ⟨rfl, rfl⟩

theorem letGo_sameBytes (k : Agent) (s : State) : s.SameBytes (letGo k s) := by
  unfold letGo
  dsimp only
  refine State.SameBytes.trans ?_ (.thread serveWaiting_sameBytes _ _)
  exact ⟨rfl, rfl⟩

theorem dropHolder_sameBytes (h : Nat) (held : List TlbEntry) (s : State) : s.SameBytes (dropHolder h held s) := ⟨rfl, rfl⟩

theorem unpinned_sameBytes (k : Agent) (s : State) : s.SameBytes (unpinned k s) := dropHolder_sameBytes k _ s

/-- An instruction's accesses end without a change of memory (04 R96). -/
theorem endAccess_sameBytes (k : Agent) (s : State) : s.SameBytes (endAccess k s) := by
  unfold endAccess
  split
  · exact .refl s
  · exact (upd_sameBytes k _ s).trans (unpinned_sameBytes k _)

/-- A rollback changes no byte of memory (11 R249). -/
theorem rollBack_sameBytes (k : Agent) (s : State) : s.SameBytes (rollBack k s) := by
  unfold rollBack
  dsimp only
  refine State.SameBytes.trans (State.SameBytes.trans ?_ (unpinned_sameBytes _ _)) (letGo_sameBytes _ _)
  exact ⟨rfl, rfl⟩

theorem countFault_sameBytes (k : Agent) (s : State) : s.SameBytes (countFault k s) := ⟨rfl, rfl⟩

theorem matrixStart_sameBytes (c : Nat) (s : State) : s.SameBytes (matrixStart c s) := by
  unfold matrixStart
  split
  · exact .refl s
  · exact engGo_sameBytes _ s
  · exact wake_sameBytes _ s

theorem matrixLeave_sameBytes (c : Nat) (j : MatrixJob) (s : State) : s.SameBytes (matrixLeave c j s) := by
  unfold matrixLeave
  dsimp only
  split
  · exact .refl s
  · refine State.SameBytes.trans (State.SameBytes.trans ?_ (.thread (fun k s => wake_sameBytes k s) _ _))
      (.thread engGo_sameBytes _ _)
    split
    · exact State.SameBytes.trans ⟨rfl, rfl⟩ (matrixStart_sameBytes _ _)
    · exact ⟨rfl, rfl⟩

theorem matrixDrop_sameBytes (k : Agent) (s : State) : s.SameBytes (matrixDrop k s) := by
  unfold matrixDrop
  dsimp only
  have h : s.SameBytes (matrixLeave (clusterOfSeq k) (.seq k) (s.upd k fun q => { q with mop := none })) :=
    (upd_sameBytes k _ s).trans (matrixLeave_sameBytes _ _ _)
  split
  · exact h.trans (post_sameBytes _ _)
  · exact h

theorem undefineV_sameBytes (k : Agent) (s : State) : s.SameBytes (undefineV k s) := ⟨rfl, rfl⟩

theorem unpark_sameBytes (k : Agent) (s : State) : s.SameBytes (unpark k s) := by
  unfold unpark
  split
  · exact .refl s
  · split
    · exact .refl s
    · exact ⟨rfl, rfl⟩

theorem withdraw_sameBytes (k : Agent) (s : State) : s.SameBytes (withdraw k s) := by
  unfold withdraw
  dsimp only
  split
  · exact ⟨rfl, rfl⟩
  · exact .refl s

theorem clearLatch_sameBytes (k : Agent) (s : State) : s.SameBytes (clearLatch k s) := ⟨rfl, rfl⟩
theorem clearPairLatch_sameBytes (k : Agent) (s : State) : s.SameBytes (clearPairLatch k s) := ⟨rfl, rfl⟩

theorem withdrawPair_sameBytes (k : Agent) (s : State) : s.SameBytes (withdrawPair k s) := by
  unfold withdrawPair
  split
  · exact (clearPairLatch_sameBytes _ s).trans (matrixDrop_sameBytes k _)
  · exact .refl s

theorem leaveLatches_sameBytes (k : Agent) (s : State) : s.SameBytes (leaveLatches k s) := by
  unfold leaveLatches
  split
  · exact clearLatch_sameBytes k s
  · exact (clearLatch_sameBytes k s).trans (clearPairLatch_sameBytes k _)

/-- Losing its call entry leaves memory alone (05 R113). -/
theorem unbind_sameBytes (k : Agent) (s : State) : s.SameBytes (unbind k s) := by
  unfold unbind
  dsimp only
  have h1 := ((((((withdraw_sameBytes k s).trans (unpark_sameBytes k _)).trans (withdrawPair_sameBytes k _)).trans
    (rollBack_sameBytes k _)).trans (matrixDrop_sameBytes k _)).trans (leaveLatches_sameBytes k _)).trans
    (upd_sameBytes k Seq.unbound _)
  have h2 := (h1.trans (unpinned_sameBytes k _)).trans (updDie_sameBytes (dieOfSeq k) (fun die =>
    { die with rows := die.rows.modify (k % 2048) [] fun es => es.drop 1 }) _)
  refine State.SameBytes.trans h2 ?_
  split <;> split <;> exact ⟨rfl, rfl⟩

theorem foldl_sameBytes {α : Type} {f : State → α → State} (h : ∀ (s : State) a, s.SameBytes (f s a)) (as : List α) (s : State) :
    s.SameBytes (as.foldl f s) := by
  induction as generalizing s with
  | nil => exact .refl s
  | cons a as ih => exact (h s a).trans (ih _)

theorem dropWork_sameBytes (vi cid : Nat) (s : State) : s.SameBytes (dropWork vi cid s) := by
  unfold dropWork
  dsimp only
  refine State.SameBytes.trans (State.SameBytes.trans ?_ (foldl_sameBytes (fun s d => updDie_sameBytes d _ s) _ _)) ⟨rfl, rfl⟩
  exact ⟨rfl, rfl⟩

theorem stopContext_sameBytes (vi cid : Nat) (s : State) : s.SameBytes (stopContext vi cid s) :=
  (dropWork_sameBytes vi cid s).trans (.thread unbind_sameBytes _ _)

/-- A lost context leaves memory alone (03 R58). -/
theorem loseContext_sameBytes (vi cid kind detail pc : Nat) (s : State) : s.SameBytes (loseContext vi cid kind detail pc s) :=
  ((updVi_sameBytes vi _ s).trans (stopContext_sameBytes vi cid _)).trans (post_sameBytes _ _)

theorem contextFails_sameBytes (k cause : Nat) (pc : DWord) (s : State) : s.SameBytes (contextFails k cause pc s) :=
  loseContext_sameBytes _ _ _ _ _ s

/-- Taking a trap leaves memory alone (11 R258, R259). -/
theorem takeTrap_sameBytes (k cause val : Nat) (s : State) : s.SameBytes (takeTrap k cause val s) := by
  unfold takeTrap
  dsimp only
  have h : s.SameBytes (if (s.seq k).strip.isSome = true then rollBack k (countFault k s) else s) := by
    split
    · exact (countFault_sameBytes k s).trans (rollBack_sameBytes k _)
    · exact .refl s
  generalize (if (s.seq k).strip.isSome = true then rollBack k (countFault k s) else s) = u at h ⊢
  generalize hw : (u.upd k fun q => { q with n := { q.n with rbk := (s.seq k).strip.isSome }, note := none, wait := .run }) = w
  have hu : u.SameBytes w := hw ▸ upd_sameBytes k _ u
  split
  · exact (h.trans hu).trans (contextFails_sameBytes _ _ _ _)
  · exact (h.trans hu).trans (upd_sameBytes k _ w)

theorem trapSeq_sameBytes (k cause val : Nat) (s : State) : s.SameBytes (trapSeq k cause val s) :=
  (takeTrap_sameBytes k cause val s).trans (upd_sameBytes k _ _)

theorem trapReturn_sameBytes (k : Agent) (s : State) : s.SameBytes (trapReturn k s) := ⟨rfl, rfl⟩

theorem postFaults_sameBytes (k : Agent) (es : List FaultEntry) (s : State) : s.SameBytes (postFaults k es s) := ⟨rfl, rfl⟩

theorem tidy_sameBytes (k : Agent) (s : State) : s.SameBytes (tidy k s) := by
  unfold tidy
  split
  · exact .refl s
  · exact letGo_sameBytes k s

/-- The state that an answer holds. -/
def Res.state {α : Type} : Res α → State
  | .ok _ s => s
  | .wait s => s
  | .trap _ _ s => s
  | .fault _ s => s

/-- An instruction changes the byte memories as its body does. -/
theorem settle_sameBytes (k : Agent) (before : Seq) (r : Res Flow) : r.state.SameBytes (settle k before r) := by
  cases r with
  | ok f s => exact ((endAccess_sameBytes k s).trans (tidy_sameBytes k _)).trans (upd_sameBytes k _ _)
  | wait s =>
    show s.SameBytes (if (s.seq k).accessing = true then s else endAccess k s)
    split
    · exact .refl s
    · exact endAccess_sameBytes k s
  | trap c v s => exact ((endAccess_sameBytes k s).trans (tidy_sameBytes k _)).trans (trapSeq_sameBytes k c v _)
  | fault es s => exact ((endAccess_sameBytes k s).trans (tidy_sameBytes k _)).trans (postFaults_sameBytes k es _)

/-- Whatever an instruction does to the byte memories its body has done, or it has no effect on them (11 R258). -/
theorem perform_canonical {k : Agent} {before : Seq} {body : State → Res Flow} {s : State} (hs : s.Canonical)
    (hb : (body s).state.Canonical) : (perform k before body s).Canonical := by
  unfold perform
  split
  · rename_i c v t h
    rw [h] at hb
    refine (settle_sameBytes k before _).canonical ?_
    by_cases h8 : c = 0x08
    · rw [if_pos h8]; exact hs
    · rw [if_neg h8]; exact hb
  · exact (settle_sameBytes k before _).canonical hb

/-- Whatever an instruction does to the byte memories its body has done: an invariant of them that the body keeps is kept. -/
theorem issue_canonical {o : Operands} {body : State → Res Flow} {s : State} (hs : s.Canonical)
    (hb : s.Canonical → (body s).state.Canonical) : ∃ t, issue o body s = .next t ∧ t.Canonical := by
  unfold issue
  refine ⟨_, rfl, ?_⟩
  split
  · exact (trapSeq_sameBytes _ _ _ s).canonical hs
  · split
    · exact (trapSeq_sameBytes _ _ _ s).canonical hs
    · split
      · exact (trapSeq_sameBytes _ _ _ s).canonical hs
      · split
        · exact (trapSeq_sameBytes _ _ _ s).canonical hs
        · split
          · exact (waitFor_sameBytes _ _ s).canonical hs
          · split
            · exact ((waitFor_sameBytes _ _ s).trans (post_sameBytes _ _)).canonical hs
            · exact perform_canonical hs (hb hs)

/-- A write of a register leaves the byte memories alone. -/
theorem putG_sameBytes (d : Nat) (v : DWord) (fl : BitVec 6) (s : State) : s.SameBytes (putG d v fl s).state := by
  unfold putG writeG
  dsimp only
  split <;> exact ⟨rfl, rfl⟩

theorem lateG_sameBytes (d : Nat) (v : DWord) (fl : BitVec 6) (s : State) : s.SameBytes (lateG d v fl s).state := by
  unfold lateG
  dsimp only
  split
  · exact .refl s
  · split <;> exact ⟨rfl, rfl⟩

/-! ## Banks of Stage memory (06 R142; 09 R204) -/

theorem bankTick_sameBytes (a c : Nat) (s : State) : s.SameBytes (bankTick a c s).2 := ⟨rfl, rfl⟩

theorem wakeBank_sameBytes (a : Nat) (s : State) : s.SameBytes (wakeBank a s) := by
  unfold wakeBank
  split
  · exact .refl s
  · exact ⟨rfl, rfl⟩

/-- A bank operation keeps the canonical form. -/
theorem bankOp_canonical (o : StageOp) {s : State} (h : s.Canonical) : (bankOp o s).2.2.Canonical := by
  unfold bankOp
  dsimp only
  split
  · exact (bankTick_sameBytes _ _ s).canonical h
  · refine (wakeBank_sameBytes _ _).canonical ⟨h.1, ?_⟩
    exact Memory.wf_write _ _ _ _ h.2
  · refine (wakeBank_sameBytes _ _).canonical ⟨h.1, ?_⟩
    exact Memory.wf_write _ _ _ _ h.2

/-- Stage memory after a bank operation: the bytes outside it are left alone. -/
theorem bankOp_byte_other (o : StageOp) (s : State) {b : Nat} (hb : b < stageAt o.die o.off ∨ stageAt o.die o.off + o.size ≤ b) :
    (bankOp o s).2.2.stage.byte b = s.stage.byte b := by
  unfold bankOp
  dsimp only
  split
  · rfl
  · rw [(wakeBank_sameBytes _ _).2]
    exact Memory.byte_write_other _ _ _ _ _ hb
  · rw [(wakeBank_sameBytes _ _).2]
    exact Memory.byte_write_other _ _ _ _ _ hb

end Sys2Proof.Machine
end

