-- ==== Sys2Proof/Laws/PerInstr.lean ====
section
/-!
SUPPORT. The round trip of the encoding, one lemma for each constructor: the word of a well-formed encoded instruction fits in
32 bits and decodes to it (spec/13_encoding.md R291 to R301). A step without an encoding has none.
-/
namespace Sys2Proof.Laws.RoundTrip

/-- The word of an encoded well-formed instruction decodes to the instruction. -/
def Statement (i : Instr) : Prop :=
  i.isEncoded = true → i.WellFormed → i.encodeNat < 2 ^ 32 ∧ (decodeWord i.encodeNat).toInstr = some i

theorem trapz (x : BitVec 24) : Statement (.trapz x) := by
  intro _ hw
  have hx := x.isLt
  have h : decodeWord x.toNat = .instr (.trapz x) := by
    refine decode_word (op := 0) (by omega) ?_ (Nat.and_zero _) rfl ?_ rfl (fun h => absurd h (by decide))
    · rw [fieldsOf_0 0 (by omega) (by omega)]
      exact congrArg (fun y => some (Sum.inl (Instr.trapz y))) (fld_low x.toNat x (by omega))
    · rw [reservedBits_at 0 (by omega) (by decide)]; exact Nat.and_zero _
  exact ⟨show x.toNat < 2 ^ 32 by omega, by rw [show (Instr.trapz x).encodeNat = x.toNat from rfl, h]; rfl⟩
theorem ctlr (d : BitVec 5) (n : BitVec 8) : Statement (Instr.ctlr d n) := by
  intro _ wf
  have bn := n.isLt
  generalize hwd : Instr.encodeNat (Instr.ctlr d n) = wd
  replace hwd : encRI 0x01 d.toNat 0 0 n.toNat = wd := hwd
  obtain ⟨h24, hh, hl, g0, g1, g2, g3⟩ := ri_word hwd d.isLt (by decide) (by decide) (by omega)
  have hf : fieldsOf wd = some (Sum.inl (Instr.ctlr d n)) := by
    rw [fieldsOf_0 1 (by omega) (by omega)]
    show some (Sum.inl (Instr.ctlr (fld wd 19) (fld wd 0))) = _
    rw [fld_eq wd 19 d g0, fld_sub wd 13 _ n 0 g3 (by decide) (by omega)]
  have hfix : wd &&& fnFixed 0x01 = 0 := by
    show wd &&& 0 = 0
    exact Nat.and_zero _
  have hres : wd &&& reservedBits wd = reservedValue 0x01 := by
    rw [reservedBits_at _ h24 (by decide)]
    show wd &&& ((((2 ^ 5 - 1) * 2 ^ 8) ||| ((2 ^ 1 - 1) * 2 ^ 13)) ||| ((2 ^ 5 - 1) * 2 ^ 14)) = 0x0
    rw [Nat.and_or_distrib_left, Nat.and_or_distrib_left, land_run, land_run, land_run, show wd / 2 ^ 8 % 2 ^ 5 = 0 from (run_sub wd 13 _ 8 5 g3 (by decide)).trans (by omega), g2, g1] <;> rfl
  refine ⟨by omega, ?_⟩
  rw [decode_word h24 hf hfix wf.1 hres wf.2.1 (by omega)]; rfl

theorem ctlw (a : BitVec 5) (e : BitVec 1) (n : BitVec 8) : Statement (Instr.ctlw a e n) := by
  intro _ wf
  have bn := n.isLt
  generalize hwd : Instr.encodeNat (Instr.ctlw a e n) = wd
  replace hwd : encRI 0x02 0 a.toNat e.toNat n.toNat = wd := hwd
  obtain ⟨h24, hh, hl, g0, g1, g2, g3⟩ := ri_word hwd (by decide) a.isLt e.isLt (by omega)
  have hf : fieldsOf wd = some (Sum.inl (Instr.ctlw a e n)) := by
    rw [fieldsOf_0 2 (by omega) (by omega)]
    show some (Sum.inl (Instr.ctlw (fld wd 14) (fld wd 13) (fld wd 0))) = _
    rw [fld_eq wd 14 a g1, fld_eq wd 13 e g2, fld_sub wd 13 _ n 0 g3 (by decide) (by omega)]
  have hfix : wd &&& fnFixed 0x02 = 0 := by
    show wd &&& 0 = 0
    exact Nat.and_zero _
  have hres : wd &&& reservedBits wd = reservedValue 0x02 := by
    rw [reservedBits_at _ h24 (by decide)]
    show wd &&& (((2 ^ 5 - 1) * 2 ^ 8) ||| ((2 ^ 5 - 1) * 2 ^ 19)) = 0x0
    rw [Nat.and_or_distrib_left, land_run, land_run, show wd / 2 ^ 8 % 2 ^ 5 = 0 from (run_sub wd 13 _ 8 5 g3 (by decide)).trans (by omega), g0] <;> rfl
  refine ⟨by omega, ?_⟩
  rw [decode_word h24 hf hfix wf.1 hres wf.2.1 (by omega)]; rfl

theorem ctls (d : BitVec 5) (a : BitVec 5) (e : BitVec 1) (n : BitVec 8) : Statement (Instr.ctls d a e n) := by
  intro _ wf
  have bn := n.isLt
  generalize hwd : Instr.encodeNat (Instr.ctls d a e n) = wd
  replace hwd : encRI 0x03 d.toNat a.toNat e.toNat n.toNat = wd := hwd
  obtain ⟨h24, hh, hl, g0, g1, g2, g3⟩ := ri_word hwd d.isLt a.isLt e.isLt (by omega)
  have hf : fieldsOf wd = some (Sum.inl (Instr.ctls d a e n)) := by
    rw [fieldsOf_0 3 (by omega) (by omega)]
    show some (Sum.inl (Instr.ctls (fld wd 19) (fld wd 14) (fld wd 13) (fld wd 0))) = _
    rw [fld_eq wd 19 d g0, fld_eq wd 14 a g1, fld_eq wd 13 e g2, fld_sub wd 13 _ n 0 g3 (by decide) (by omega)]
  have hfix : wd &&& fnFixed 0x03 = 0 := by
    show wd &&& 0 = 0
    exact Nat.and_zero _
  have hres : wd &&& reservedBits wd = reservedValue 0x03 := by
    rw [reservedBits_at _ h24 (by decide)]
    show wd &&& ((2 ^ 5 - 1) * 2 ^ 8) = 0x0
    rw [land_run, show wd / 2 ^ 8 % 2 ^ 5 = 0 from (run_sub wd 13 _ 8 5 g3 (by decide)).trans (by omega)] <;> rfl
  refine ⟨by omega, ?_⟩
  rw [decode_word h24 hf hfix wf.1 hres wf.2.1 (by omega)]; rfl

theorem ctlc (d : BitVec 5) (a : BitVec 5) (e : BitVec 1) (n : BitVec 8) : Statement (Instr.ctlc d a e n) := by
  intro _ wf
  have bn := n.isLt
  generalize hwd : Instr.encodeNat (Instr.ctlc d a e n) = wd
  replace hwd : encRI 0x04 d.toNat a.toNat e.toNat n.toNat = wd := hwd
  obtain ⟨h24, hh, hl, g0, g1, g2, g3⟩ := ri_word hwd d.isLt a.isLt e.isLt (by omega)
  have hf : fieldsOf wd = some (Sum.inl (Instr.ctlc d a e n)) := by
    rw [fieldsOf_0 4 (by omega) (by omega)]
    show some (Sum.inl (Instr.ctlc (fld wd 19) (fld wd 14) (fld wd 13) (fld wd 0))) = _
    rw [fld_eq wd 19 d g0, fld_eq wd 14 a g1, fld_eq wd 13 e g2, fld_sub wd 13 _ n 0 g3 (by decide) (by omega)]
  have hfix : wd &&& fnFixed 0x04 = 0 := by
    show wd &&& 0 = 0
    exact Nat.and_zero _
  have hres : wd &&& reservedBits wd = reservedValue 0x04 := by
    rw [reservedBits_at _ h24 (by decide)]
    show wd &&& ((2 ^ 5 - 1) * 2 ^ 8) = 0x0
    rw [land_run, show wd / 2 ^ 8 % 2 ^ 5 = 0 from (run_sub wd 13 _ 8 5 g3 (by decide)).trans (by omega)] <;> rfl
  refine ⟨by omega, ?_⟩
  rw [decode_word h24 hf hfix wf.1 hres wf.2.1 (by omega)]; rfl

theorem ctlx (d : BitVec 5) (a : BitVec 5) (e : BitVec 1) (n : BitVec 8) : Statement (Instr.ctlx d a e n) := by
  intro _ wf
  have bn := n.isLt
  generalize hwd : Instr.encodeNat (Instr.ctlx d a e n) = wd
  replace hwd : encRI 0x05 d.toNat a.toNat e.toNat n.toNat = wd := hwd
  obtain ⟨h24, hh, hl, g0, g1, g2, g3⟩ := ri_word hwd d.isLt a.isLt e.isLt (by omega)
  have hf : fieldsOf wd = some (Sum.inl (Instr.ctlx d a e n)) := by
    rw [fieldsOf_0 5 (by omega) (by omega)]
    show some (Sum.inl (Instr.ctlx (fld wd 19) (fld wd 14) (fld wd 13) (fld wd 0))) = _
    rw [fld_eq wd 19 d g0, fld_eq wd 14 a g1, fld_eq wd 13 e g2, fld_sub wd 13 _ n 0 g3 (by decide) (by omega)]
  have hfix : wd &&& fnFixed 0x05 = 0 := by
    show wd &&& 0 = 0
    exact Nat.and_zero _
  have hres : wd &&& reservedBits wd = reservedValue 0x05 := by
    rw [reservedBits_at _ h24 (by decide)]
    show wd &&& ((2 ^ 5 - 1) * 2 ^ 8) = 0x0
    rw [land_run, show wd / 2 ^ 8 % 2 ^ 5 = 0 from (run_sub wd 13 _ 8 5 g3 (by decide)).trans (by omega)] <;> rfl
  refine ⟨by omega, ?_⟩
  rw [decode_word h24 hf hfix wf.1 hres wf.2.1 (by omega)]; rfl

theorem syscall (i : BitVec 19) : Statement (Instr.syscall i) := by
  intro _ wf
  have bi := i.isLt
  generalize hwd : Instr.encodeNat (Instr.syscall i) = wd
  replace hwd : encWI 0x06 0 i.toNat = wd := hwd
  obtain ⟨h24, hh, hl, g0, g1⟩ := wi_word hwd (by decide) i.isLt
  have hf : fieldsOf wd = some (Sum.inl (Instr.syscall i)) := by
    rw [fieldsOf_0 6 (by omega) (by omega)]
    show some (Sum.inl (Instr.syscall (fld wd 0))) = _
    rw [fld_low wd i g1]
  have hfix : wd &&& fnFixed 0x06 = 0 := by
    show wd &&& 0 = 0
    exact Nat.and_zero _
  have hres : wd &&& reservedBits wd = reservedValue 0x06 := by
    rw [reservedBits_at _ h24 (by decide)]
    show wd &&& ((2 ^ 5 - 1) * 2 ^ 19) = 0x0
    rw [land_run, g0] <;> rfl
  refine ⟨by omega, ?_⟩
  rw [decode_word h24 hf hfix wf.1 hres wf.2.1 (by omega)]; rfl

theorem tlbinv (d : BitVec 5) (a : BitVec 5) (e : BitVec 1) (k : BitVec 2) : Statement (Instr.tlbinv d a e k) := by
  intro _ wf
  have bk := k.isLt
  generalize hwd : Instr.encodeNat (Instr.tlbinv d a e k) = wd
  replace hwd : encSY 0x09 d.toNat a.toNat e.toNat 0 0 k.toNat = wd := hwd
  obtain ⟨h24, hh, hl, g0, g1, g2, g3, g4, g5⟩ := sy_word hwd d.isLt a.isLt e.isLt (by decide) (by decide) (by omega)
  have hf : fieldsOf wd = some (Sum.inl (Instr.tlbinv d a e k)) := by
    rw [fieldsOf_0 9 (by omega) (by omega)]
    show some (Sum.inl (Instr.tlbinv (fld wd 19) (fld wd 14) (fld wd 13) (fld wd 0))) = _
    rw [fld_eq wd 19 d g0, fld_eq wd 14 a g1, fld_eq wd 13 e g2, fld_sub wd 8 _ k 0 g5 (by decide) (by omega)]
  have hfix : wd &&& fnFixed 0x09 = 0 := by
    show wd &&& ((2 ^ 6 - 1) * 2 ^ 2) = 0
    rw [land_run, show wd / 2 ^ 2 % 2 ^ 6 = 0 from (run_sub wd 8 _ 2 6 g5 (by decide)).trans (by omega)] <;> rfl
  have hres : wd &&& reservedBits wd = reservedValue 0x09 := by
    rw [reservedBits_at _ h24 (by decide)]
    show wd &&& (((2 ^ 2 - 1) * 2 ^ 8) ||| ((2 ^ 3 - 1) * 2 ^ 10)) = 0x0
    rw [Nat.and_or_distrib_left, land_run, land_run, g4, g3] <;> rfl
  refine ⟨by omega, ?_⟩
  rw [decode_word h24 hf hfix wf.1 hres wf.2.1 (by omega)]; rfl

theorem bflip (d : BitVec 5) (a : BitVec 5) (e : BitVec 1) (k : BitVec 1) : Statement (Instr.bflip d a e k) := by
  intro _ wf
  have bk := k.isLt
  generalize hwd : Instr.encodeNat (Instr.bflip d a e k) = wd
  replace hwd : encSY 0x0A d.toNat a.toNat e.toNat 0 0 k.toNat = wd := hwd
  obtain ⟨h24, hh, hl, g0, g1, g2, g3, g4, g5⟩ := sy_word hwd d.isLt a.isLt e.isLt (by decide) (by decide) (by omega)
  have hf : fieldsOf wd = some (Sum.inl (Instr.bflip d a e k)) := by
    rw [fieldsOf_0 10 (by omega) (by omega)]
    show some (Sum.inl (Instr.bflip (fld wd 19) (fld wd 14) (fld wd 13) (fld wd 0))) = _
    rw [fld_eq wd 19 d g0, fld_eq wd 14 a g1, fld_eq wd 13 e g2, fld_sub wd 8 _ k 0 g5 (by decide) (by omega)]
  have hfix : wd &&& fnFixed 0x0A = 0 := by
    show wd &&& ((2 ^ 7 - 1) * 2 ^ 1) = 0
    rw [land_run, show wd / 2 ^ 1 % 2 ^ 7 = 0 from (run_sub wd 8 _ 1 7 g5 (by decide)).trans (by omega)] <;> rfl
  have hres : wd &&& reservedBits wd = reservedValue 0x0A := by
    rw [reservedBits_at _ h24 (by decide)]
    show wd &&& (((2 ^ 2 - 1) * 2 ^ 8) ||| ((2 ^ 3 - 1) * 2 ^ 10)) = 0x0
    rw [Nat.and_or_distrib_left, land_run, land_run, g4, g3] <;> rfl
  refine ⟨by omega, ?_⟩
  rw [decode_word h24 hf hfix wf.1 hres wf.2.1 (by omega)]; rfl

theorem enrd (d : BitVec 5) (s : BitVec 13) : Statement (Instr.enrd d s) := by
  intro _ wf
  have bs := s.isLt
  generalize hwd : Instr.encodeNat (Instr.enrd d s) = wd
  replace hwd : encRI 0x0B d.toNat 0 0 s.toNat = wd := hwd
  obtain ⟨h24, hh, hl, g0, g1, g2, g3⟩ := ri_word hwd d.isLt (by decide) (by decide) s.isLt
  have hf : fieldsOf wd = some (Sum.inl (Instr.enrd d s)) := by
    rw [fieldsOf_0 11 (by omega) (by omega)]
    show some (Sum.inl (Instr.enrd (fld wd 19) (fld wd 0))) = _
    rw [fld_eq wd 19 d g0, fld_low wd s g3]
  have hfix : wd &&& fnFixed 0x0B = 0 := by
    show wd &&& 0 = 0
    exact Nat.and_zero _
  have hres : wd &&& reservedBits wd = reservedValue 0x0B := by
    rw [reservedBits_at _ h24 (by decide)]
    show wd &&& (((2 ^ 1 - 1) * 2 ^ 13) ||| ((2 ^ 5 - 1) * 2 ^ 14)) = 0x0
    rw [Nat.and_or_distrib_left, land_run, land_run, g2, g1] <;> rfl
  refine ⟨by omega, ?_⟩
  rw [decode_word h24 hf hfix wf.1 hres wf.2.1 (by omega)]; rfl

theorem dmark (i : BitVec 19) : Statement (Instr.dmark i) := by
  intro _ wf
  have bi := i.isLt
  generalize hwd : Instr.encodeNat (Instr.dmark i) = wd
  replace hwd : encWI 0x0E 0 i.toNat = wd := hwd
  obtain ⟨h24, hh, hl, g0, g1⟩ := wi_word hwd (by decide) i.isLt
  have hf : fieldsOf wd = some (Sum.inl (Instr.dmark i)) := by
    rw [fieldsOf_0 14 (by omega) (by omega)]
    show some (Sum.inl (Instr.dmark (fld wd 0))) = _
    rw [fld_low wd i g1]
  have hfix : wd &&& fnFixed 0x0E = 0 := by
    show wd &&& 0 = 0
    exact Nat.and_zero _
  have hres : wd &&& reservedBits wd = reservedValue 0x0E := by
    rw [reservedBits_at _ h24 (by decide)]
    show wd &&& ((2 ^ 5 - 1) * 2 ^ 19) = 0x0
    rw [land_run, g0] <;> rfl
  refine ⟨by omega, ?_⟩
  rw [decode_word h24 hf hfix wf.1 hres wf.2.1 (by omega)]; rfl

theorem add (d : BitVec 5) (a : BitVec 5) (b : BitVec 5) (e : BitVec 1) (f : BitVec 1) (t : BitVec 4) (v : BitVec 3) : Statement (Instr.add d a b e f t v) := by
  intro _ wf
  have bt := t.isLt
  have bv := v.isLt
  generalize hwd : Instr.encodeNat (Instr.add d a b e f t v) = wd
  replace hwd : encRRR 0x10 d.toNat a.toNat b.toNat e.toNat f.toNat (t.toNat * 8 + v.toNat) = wd := hwd
  obtain ⟨h24, hh, hl, g0, g1, g2, g3, g4, g5⟩ := rrr_word hwd d.isLt a.isLt b.isLt e.isLt f.isLt (by omega)
  have hf : fieldsOf wd = some (Sum.inl (Instr.add d a b e f t v)) := by
    rw [fieldsOf_1 0 (by omega) (by omega)]
    show some (Sum.inl (Instr.add (fld wd 19) (fld wd 14) (fld wd 9) (fld wd 8) (fld wd 7) (fld wd 3) (fld wd 0))) = _
    rw [fld_eq wd 19 d g0, fld_eq wd 14 a g1, fld_eq wd 9 b g2, fld_eq wd 8 e g3, fld_eq wd 7 f g4, fld_sub wd 7 _ t 3 g5 (by decide) (by omega), fld_sub wd 7 _ v 0 g5 (by decide) (by omega)]
  have hfix : wd &&& fnFixed 0x10 = 0 := by
    show wd &&& 0 = 0
    exact Nat.and_zero _
  have hres : wd &&& reservedBits wd = reservedValue 0x10 := by
    rw [reservedBits_at _ h24 (by decide)]
    show wd &&& 0 = 0x0
    exact Nat.and_zero _
  refine ⟨by omega, ?_⟩
  rw [decode_word h24 hf hfix wf.1 hres wf.2.1 (by omega)]; rfl

theorem sub (d : BitVec 5) (a : BitVec 5) (b : BitVec 5) (e : BitVec 1) (f : BitVec 1) (t : BitVec 4) (v : BitVec 3) : Statement (Instr.sub d a b e f t v) := by
  intro _ wf
  have bt := t.isLt
  have bv := v.isLt
  generalize hwd : Instr.encodeNat (Instr.sub d a b e f t v) = wd
  replace hwd : encRRR 0x11 d.toNat a.toNat b.toNat e.toNat f.toNat (t.toNat * 8 + v.toNat) = wd := hwd
  obtain ⟨h24, hh, hl, g0, g1, g2, g3, g4, g5⟩ := rrr_word hwd d.isLt a.isLt b.isLt e.isLt f.isLt (by omega)
  have hf : fieldsOf wd = some (Sum.inl (Instr.sub d a b e f t v)) := by
    rw [fieldsOf_1 1 (by omega) (by omega)]
    show some (Sum.inl (Instr.sub (fld wd 19) (fld wd 14) (fld wd 9) (fld wd 8) (fld wd 7) (fld wd 3) (fld wd 0))) = _
    rw [fld_eq wd 19 d g0, fld_eq wd 14 a g1, fld_eq wd 9 b g2, fld_eq wd 8 e g3, fld_eq wd 7 f g4, fld_sub wd 7 _ t 3 g5 (by decide) (by omega), fld_sub wd 7 _ v 0 g5 (by decide) (by omega)]
  have hfix : wd &&& fnFixed 0x11 = 0 := by
    show wd &&& 0 = 0
    exact Nat.and_zero _
  have hres : wd &&& reservedBits wd = reservedValue 0x11 := by
    rw [reservedBits_at _ h24 (by decide)]
    show wd &&& 0 = 0x0
    exact Nat.and_zero _
  refine ⟨by omega, ?_⟩
  rw [decode_word h24 hf hfix wf.1 hres wf.2.1 (by omega)]; rfl

theorem mul (d : BitVec 5) (a : BitVec 5) (b : BitVec 5) (e : BitVec 1) (f : BitVec 1) (t : BitVec 4) (v : BitVec 3) : Statement (Instr.mul d a b e f t v) := by
  intro _ wf
  have bt := t.isLt
  have bv := v.isLt
  generalize hwd : Instr.encodeNat (Instr.mul d a b e f t v) = wd
  replace hwd : encRRR 0x12 d.toNat a.toNat b.toNat e.toNat f.toNat (t.toNat * 8 + v.toNat) = wd := hwd
  obtain ⟨h24, hh, hl, g0, g1, g2, g3, g4, g5⟩ := rrr_word hwd d.isLt a.isLt b.isLt e.isLt f.isLt (by omega)
  have hf : fieldsOf wd = some (Sum.inl (Instr.mul d a b e f t v)) := by
    rw [fieldsOf_1 2 (by omega) (by omega)]
    show some (Sum.inl (Instr.mul (fld wd 19) (fld wd 14) (fld wd 9) (fld wd 8) (fld wd 7) (fld wd 3) (fld wd 0))) = _
    rw [fld_eq wd 19 d g0, fld_eq wd 14 a g1, fld_eq wd 9 b g2, fld_eq wd 8 e g3, fld_eq wd 7 f g4, fld_sub wd 7 _ t 3 g5 (by decide) (by omega), fld_sub wd 7 _ v 0 g5 (by decide) (by omega)]
  have hfix : wd &&& fnFixed 0x12 = 0 := by
    show wd &&& 0 = 0
    exact Nat.and_zero _
  have hres : wd &&& reservedBits wd = reservedValue 0x12 := by
    rw [reservedBits_at _ h24 (by decide)]
    show wd &&& 0 = 0x0
    exact Nat.and_zero _
  refine ⟨by omega, ?_⟩
  rw [decode_word h24 hf hfix wf.1 hres wf.2.1 (by omega)]; rfl

theorem mulh (d : BitVec 5) (a : BitVec 5) (b : BitVec 5) (e : BitVec 1) (f : BitVec 1) (t : BitVec 4) (v : BitVec 3) : Statement (Instr.mulh d a b e f t v) := by
  intro _ wf
  have bt := t.isLt
  have bv := v.isLt
  generalize hwd : Instr.encodeNat (Instr.mulh d a b e f t v) = wd
  replace hwd : encRRR 0x13 d.toNat a.toNat b.toNat e.toNat f.toNat (t.toNat * 8 + v.toNat) = wd := hwd
  obtain ⟨h24, hh, hl, g0, g1, g2, g3, g4, g5⟩ := rrr_word hwd d.isLt a.isLt b.isLt e.isLt f.isLt (by omega)
  have hf : fieldsOf wd = some (Sum.inl (Instr.mulh d a b e f t v)) := by
    rw [fieldsOf_1 3 (by omega) (by omega)]
    show some (Sum.inl (Instr.mulh (fld wd 19) (fld wd 14) (fld wd 9) (fld wd 8) (fld wd 7) (fld wd 3) (fld wd 0))) = _
    rw [fld_eq wd 19 d g0, fld_eq wd 14 a g1, fld_eq wd 9 b g2, fld_eq wd 8 e g3, fld_eq wd 7 f g4, fld_sub wd 7 _ t 3 g5 (by decide) (by omega), fld_sub wd 7 _ v 0 g5 (by decide) (by omega)]
  have hfix : wd &&& fnFixed 0x13 = 0 := by
    show wd &&& 0 = 0
    exact Nat.and_zero _
  have hres : wd &&& reservedBits wd = reservedValue 0x13 := by
    rw [reservedBits_at _ h24 (by decide)]
    show wd &&& 0 = 0x0
    exact Nat.and_zero _
  refine ⟨by omega, ?_⟩
  rw [decode_word h24 hf hfix wf.1 hres wf.2.1 (by omega)]; rfl

theorem div (d : BitVec 5) (a : BitVec 5) (b : BitVec 5) (e : BitVec 1) (f : BitVec 1) (t : BitVec 4) (v : BitVec 3) : Statement (Instr.div d a b e f t v) := by
  intro _ wf
  have bt := t.isLt
  have bv := v.isLt
  generalize hwd : Instr.encodeNat (Instr.div d a b e f t v) = wd
  replace hwd : encRRR 0x14 d.toNat a.toNat b.toNat e.toNat f.toNat (t.toNat * 8 + v.toNat) = wd := hwd
  obtain ⟨h24, hh, hl, g0, g1, g2, g3, g4, g5⟩ := rrr_word hwd d.isLt a.isLt b.isLt e.isLt f.isLt (by omega)
  have hf : fieldsOf wd = some (Sum.inl (Instr.div d a b e f t v)) := by
    rw [fieldsOf_1 4 (by omega) (by omega)]
    show some (Sum.inl (Instr.div (fld wd 19) (fld wd 14) (fld wd 9) (fld wd 8) (fld wd 7) (fld wd 3) (fld wd 0))) = _
    rw [fld_eq wd 19 d g0, fld_eq wd 14 a g1, fld_eq wd 9 b g2, fld_eq wd 8 e g3, fld_eq wd 7 f g4, fld_sub wd 7 _ t 3 g5 (by decide) (by omega), fld_sub wd 7 _ v 0 g5 (by decide) (by omega)]
  have hfix : wd &&& fnFixed 0x14 = 0 := by
    show wd &&& 0 = 0
    exact Nat.and_zero _
  have hres : wd &&& reservedBits wd = reservedValue 0x14 := by
    rw [reservedBits_at _ h24 (by decide)]
    show wd &&& 0 = 0x0
    exact Nat.and_zero _
  refine ⟨by omega, ?_⟩
  rw [decode_word h24 hf hfix wf.1 hres wf.2.1 (by omega)]; rfl

theorem rem (d : BitVec 5) (a : BitVec 5) (b : BitVec 5) (e : BitVec 1) (f : BitVec 1) (t : BitVec 4) (v : BitVec 3) : Statement (Instr.rem d a b e f t v) := by
  intro _ wf
  have bt := t.isLt
  have bv := v.isLt
  generalize hwd : Instr.encodeNat (Instr.rem d a b e f t v) = wd
  replace hwd : encRRR 0x15 d.toNat a.toNat b.toNat e.toNat f.toNat (t.toNat * 8 + v.toNat) = wd := hwd
  obtain ⟨h24, hh, hl, g0, g1, g2, g3, g4, g5⟩ := rrr_word hwd d.isLt a.isLt b.isLt e.isLt f.isLt (by omega)
  have hf : fieldsOf wd = some (Sum.inl (Instr.rem d a b e f t v)) := by
    rw [fieldsOf_1 5 (by omega) (by omega)]
    show some (Sum.inl (Instr.rem (fld wd 19) (fld wd 14) (fld wd 9) (fld wd 8) (fld wd 7) (fld wd 3) (fld wd 0))) = _
    rw [fld_eq wd 19 d g0, fld_eq wd 14 a g1, fld_eq wd 9 b g2, fld_eq wd 8 e g3, fld_eq wd 7 f g4, fld_sub wd 7 _ t 3 g5 (by decide) (by omega), fld_sub wd 7 _ v 0 g5 (by decide) (by omega)]
  have hfix : wd &&& fnFixed 0x15 = 0 := by
    show wd &&& 0 = 0
    exact Nat.and_zero _
  have hres : wd &&& reservedBits wd = reservedValue 0x15 := by
    rw [reservedBits_at _ h24 (by decide)]
    show wd &&& 0 = 0x0
    exact Nat.and_zero _
  refine ⟨by omega, ?_⟩
  rw [decode_word h24 hf hfix wf.1 hres wf.2.1 (by omega)]; rfl

theorem min (d : BitVec 5) (a : BitVec 5) (b : BitVec 5) (e : BitVec 1) (f : BitVec 1) (t : BitVec 4) (v : BitVec 3) : Statement (Instr.min d a b e f t v) := by
  intro _ wf
  have bt := t.isLt
  have bv := v.isLt
  generalize hwd : Instr.encodeNat (Instr.min d a b e f t v) = wd
  replace hwd : encRRR 0x16 d.toNat a.toNat b.toNat e.toNat f.toNat (t.toNat * 8 + v.toNat) = wd := hwd
  obtain ⟨h24, hh, hl, g0, g1, g2, g3, g4, g5⟩ := rrr_word hwd d.isLt a.isLt b.isLt e.isLt f.isLt (by omega)
  have hf : fieldsOf wd = some (Sum.inl (Instr.min d a b e f t v)) := by
    rw [fieldsOf_1 6 (by omega) (by omega)]
    show some (Sum.inl (Instr.min (fld wd 19) (fld wd 14) (fld wd 9) (fld wd 8) (fld wd 7) (fld wd 3) (fld wd 0))) = _
    rw [fld_eq wd 19 d g0, fld_eq wd 14 a g1, fld_eq wd 9 b g2, fld_eq wd 8 e g3, fld_eq wd 7 f g4, fld_sub wd 7 _ t 3 g5 (by decide) (by omega), fld_sub wd 7 _ v 0 g5 (by decide) (by omega)]
  have hfix : wd &&& fnFixed 0x16 = 0 := by
    show wd &&& 0 = 0
    exact Nat.and_zero _
  have hres : wd &&& reservedBits wd = reservedValue 0x16 := by
    rw [reservedBits_at _ h24 (by decide)]
    show wd &&& 0 = 0x0
    exact Nat.and_zero _
  refine ⟨by omega, ?_⟩
  rw [decode_word h24 hf hfix wf.1 hres wf.2.1 (by omega)]; rfl

theorem max (d : BitVec 5) (a : BitVec 5) (b : BitVec 5) (e : BitVec 1) (f : BitVec 1) (t : BitVec 4) (v : BitVec 3) : Statement (Instr.max d a b e f t v) := by
  intro _ wf
  have bt := t.isLt
  have bv := v.isLt
  generalize hwd : Instr.encodeNat (Instr.max d a b e f t v) = wd
  replace hwd : encRRR 0x17 d.toNat a.toNat b.toNat e.toNat f.toNat (t.toNat * 8 + v.toNat) = wd := hwd
  obtain ⟨h24, hh, hl, g0, g1, g2, g3, g4, g5⟩ := rrr_word hwd d.isLt a.isLt b.isLt e.isLt f.isLt (by omega)
  have hf : fieldsOf wd = some (Sum.inl (Instr.max d a b e f t v)) := by
    rw [fieldsOf_1 7 (by omega) (by omega)]
    show some (Sum.inl (Instr.max (fld wd 19) (fld wd 14) (fld wd 9) (fld wd 8) (fld wd 7) (fld wd 3) (fld wd 0))) = _
    rw [fld_eq wd 19 d g0, fld_eq wd 14 a g1, fld_eq wd 9 b g2, fld_eq wd 8 e g3, fld_eq wd 7 f g4, fld_sub wd 7 _ t 3 g5 (by decide) (by omega), fld_sub wd 7 _ v 0 g5 (by decide) (by omega)]
  have hfix : wd &&& fnFixed 0x17 = 0 := by
    show wd &&& 0 = 0
    exact Nat.and_zero _
  have hres : wd &&& reservedBits wd = reservedValue 0x17 := by
    rw [reservedBits_at _ h24 (by decide)]
    show wd &&& 0 = 0x0
    exact Nat.and_zero _
  refine ⟨by omega, ?_⟩
  rw [decode_word h24 hf hfix wf.1 hres wf.2.1 (by omega)]; rfl

theorem and (d : BitVec 5) (a : BitVec 5) (b : BitVec 5) (e : BitVec 1) (f : BitVec 1) : Statement (Instr.and d a b e f) := by
  intro _ wf
  generalize hwd : Instr.encodeNat (Instr.and d a b e f) = wd
  replace hwd : encRRR 0x18 d.toNat a.toNat b.toNat e.toNat f.toNat 0 = wd := hwd
  obtain ⟨h24, hh, hl, g0, g1, g2, g3, g4, g5⟩ := rrr_word hwd d.isLt a.isLt b.isLt e.isLt f.isLt (by decide)
  have hf : fieldsOf wd = some (Sum.inl (Instr.and d a b e f)) := by
    rw [fieldsOf_1 8 (by omega) (by omega)]
    show some (Sum.inl (Instr.and (fld wd 19) (fld wd 14) (fld wd 9) (fld wd 8) (fld wd 7))) = _
    rw [fld_eq wd 19 d g0, fld_eq wd 14 a g1, fld_eq wd 9 b g2, fld_eq wd 8 e g3, fld_eq wd 7 f g4]
  have hfix : wd &&& fnFixed 0x18 = 0 := by
    show wd &&& ((2 ^ 7 - 1) * 2 ^ 0) = 0
    rw [land_run, show wd / 2 ^ 0 % 2 ^ 7 = 0 from (by rw [Nat.pow_zero, Nat.div_one]; exact g5)] <;> rfl
  have hres : wd &&& reservedBits wd = reservedValue 0x18 := by
    rw [reservedBits_at _ h24 (by decide)]
    show wd &&& 0 = 0x0
    exact Nat.and_zero _
  refine ⟨by omega, ?_⟩
  rw [decode_word h24 hf hfix wf.1 hres wf.2.1 (by omega)]; rfl

theorem or (d : BitVec 5) (a : BitVec 5) (b : BitVec 5) (e : BitVec 1) (f : BitVec 1) : Statement (Instr.or d a b e f) := by
  intro _ wf
  generalize hwd : Instr.encodeNat (Instr.or d a b e f) = wd
  replace hwd : encRRR 0x19 d.toNat a.toNat b.toNat e.toNat f.toNat 0 = wd := hwd
  obtain ⟨h24, hh, hl, g0, g1, g2, g3, g4, g5⟩ := rrr_word hwd d.isLt a.isLt b.isLt e.isLt f.isLt (by decide)
  have hf : fieldsOf wd = some (Sum.inl (Instr.or d a b e f)) := by
    rw [fieldsOf_1 9 (by omega) (by omega)]
    show some (Sum.inl (Instr.or (fld wd 19) (fld wd 14) (fld wd 9) (fld wd 8) (fld wd 7))) = _
    rw [fld_eq wd 19 d g0, fld_eq wd 14 a g1, fld_eq wd 9 b g2, fld_eq wd 8 e g3, fld_eq wd 7 f g4]
  have hfix : wd &&& fnFixed 0x19 = 0 := by
    show wd &&& ((2 ^ 7 - 1) * 2 ^ 0) = 0
    rw [land_run, show wd / 2 ^ 0 % 2 ^ 7 = 0 from (by rw [Nat.pow_zero, Nat.div_one]; exact g5)] <;> rfl
  have hres : wd &&& reservedBits wd = reservedValue 0x19 := by
    rw [reservedBits_at _ h24 (by decide)]
    show wd &&& 0 = 0x0
    exact Nat.and_zero _
  refine ⟨by omega, ?_⟩
  rw [decode_word h24 hf hfix wf.1 hres wf.2.1 (by omega)]; rfl

theorem xor (d : BitVec 5) (a : BitVec 5) (b : BitVec 5) (e : BitVec 1) (f : BitVec 1) : Statement (Instr.xor d a b e f) := by
  intro _ wf
  generalize hwd : Instr.encodeNat (Instr.xor d a b e f) = wd
  replace hwd : encRRR 0x1A d.toNat a.toNat b.toNat e.toNat f.toNat 0 = wd := hwd
  obtain ⟨h24, hh, hl, g0, g1, g2, g3, g4, g5⟩ := rrr_word hwd d.isLt a.isLt b.isLt e.isLt f.isLt (by decide)
  have hf : fieldsOf wd = some (Sum.inl (Instr.xor d a b e f)) := by
    rw [fieldsOf_1 10 (by omega) (by omega)]
    show some (Sum.inl (Instr.xor (fld wd 19) (fld wd 14) (fld wd 9) (fld wd 8) (fld wd 7))) = _
    rw [fld_eq wd 19 d g0, fld_eq wd 14 a g1, fld_eq wd 9 b g2, fld_eq wd 8 e g3, fld_eq wd 7 f g4]
  have hfix : wd &&& fnFixed 0x1A = 0 := by
    show wd &&& ((2 ^ 7 - 1) * 2 ^ 0) = 0
    rw [land_run, show wd / 2 ^ 0 % 2 ^ 7 = 0 from (by rw [Nat.pow_zero, Nat.div_one]; exact g5)] <;> rfl
  have hres : wd &&& reservedBits wd = reservedValue 0x1A := by
    rw [reservedBits_at _ h24 (by decide)]
    show wd &&& 0 = 0x0
    exact Nat.and_zero _
  refine ⟨by omega, ?_⟩
  rw [decode_word h24 hf hfix wf.1 hres wf.2.1 (by omega)]; rfl

theorem andn (d : BitVec 5) (a : BitVec 5) (b : BitVec 5) (e : BitVec 1) (f : BitVec 1) : Statement (Instr.andn d a b e f) := by
  intro _ wf
  generalize hwd : Instr.encodeNat (Instr.andn d a b e f) = wd
  replace hwd : encRRR 0x1B d.toNat a.toNat b.toNat e.toNat f.toNat 0 = wd := hwd
  obtain ⟨h24, hh, hl, g0, g1, g2, g3, g4, g5⟩ := rrr_word hwd d.isLt a.isLt b.isLt e.isLt f.isLt (by decide)
  have hf : fieldsOf wd = some (Sum.inl (Instr.andn d a b e f)) := by
    rw [fieldsOf_1 11 (by omega) (by omega)]
    show some (Sum.inl (Instr.andn (fld wd 19) (fld wd 14) (fld wd 9) (fld wd 8) (fld wd 7))) = _
    rw [fld_eq wd 19 d g0, fld_eq wd 14 a g1, fld_eq wd 9 b g2, fld_eq wd 8 e g3, fld_eq wd 7 f g4]
  have hfix : wd &&& fnFixed 0x1B = 0 := by
    show wd &&& ((2 ^ 7 - 1) * 2 ^ 0) = 0
    rw [land_run, show wd / 2 ^ 0 % 2 ^ 7 = 0 from (by rw [Nat.pow_zero, Nat.div_one]; exact g5)] <;> rfl
  have hres : wd &&& reservedBits wd = reservedValue 0x1B := by
    rw [reservedBits_at _ h24 (by decide)]
    show wd &&& 0 = 0x0
    exact Nat.and_zero _
  refine ⟨by omega, ?_⟩
  rw [decode_word h24 hf hfix wf.1 hres wf.2.1 (by omega)]; rfl

theorem shl (d : BitVec 5) (a : BitVec 5) (b : BitVec 5) (e : BitVec 1) (f : BitVec 1) (t : BitVec 4) (v : BitVec 3) : Statement (Instr.shl d a b e f t v) := by
  intro _ wf
  have bt := t.isLt
  have bv := v.isLt
  generalize hwd : Instr.encodeNat (Instr.shl d a b e f t v) = wd
  replace hwd : encRRR 0x1C d.toNat a.toNat b.toNat e.toNat f.toNat (t.toNat * 8 + v.toNat) = wd := hwd
  obtain ⟨h24, hh, hl, g0, g1, g2, g3, g4, g5⟩ := rrr_word hwd d.isLt a.isLt b.isLt e.isLt f.isLt (by omega)
  have hf : fieldsOf wd = some (Sum.inl (Instr.shl d a b e f t v)) := by
    rw [fieldsOf_1 12 (by omega) (by omega)]
    show some (Sum.inl (Instr.shl (fld wd 19) (fld wd 14) (fld wd 9) (fld wd 8) (fld wd 7) (fld wd 3) (fld wd 0))) = _
    rw [fld_eq wd 19 d g0, fld_eq wd 14 a g1, fld_eq wd 9 b g2, fld_eq wd 8 e g3, fld_eq wd 7 f g4, fld_sub wd 7 _ t 3 g5 (by decide) (by omega), fld_sub wd 7 _ v 0 g5 (by decide) (by omega)]
  have hfix : wd &&& fnFixed 0x1C = 0 := by
    show wd &&& 0 = 0
    exact Nat.and_zero _
  have hres : wd &&& reservedBits wd = reservedValue 0x1C := by
    rw [reservedBits_at _ h24 (by decide)]
    show wd &&& 0 = 0x0
    exact Nat.and_zero _
  refine ⟨by omega, ?_⟩
  rw [decode_word h24 hf hfix wf.1 hres wf.2.1 (by omega)]; rfl

theorem shr (d : BitVec 5) (a : BitVec 5) (b : BitVec 5) (e : BitVec 1) (f : BitVec 1) (t : BitVec 4) (v : BitVec 3) : Statement (Instr.shr d a b e f t v) := by
  intro _ wf
  have bt := t.isLt
  have bv := v.isLt
  generalize hwd : Instr.encodeNat (Instr.shr d a b e f t v) = wd
  replace hwd : encRRR 0x1D d.toNat a.toNat b.toNat e.toNat f.toNat (t.toNat * 8 + v.toNat) = wd := hwd
  obtain ⟨h24, hh, hl, g0, g1, g2, g3, g4, g5⟩ := rrr_word hwd d.isLt a.isLt b.isLt e.isLt f.isLt (by omega)
  have hf : fieldsOf wd = some (Sum.inl (Instr.shr d a b e f t v)) := by
    rw [fieldsOf_1 13 (by omega) (by omega)]
    show some (Sum.inl (Instr.shr (fld wd 19) (fld wd 14) (fld wd 9) (fld wd 8) (fld wd 7) (fld wd 3) (fld wd 0))) = _
    rw [fld_eq wd 19 d g0, fld_eq wd 14 a g1, fld_eq wd 9 b g2, fld_eq wd 8 e g3, fld_eq wd 7 f g4, fld_sub wd 7 _ t 3 g5 (by decide) (by omega), fld_sub wd 7 _ v 0 g5 (by decide) (by omega)]
  have hfix : wd &&& fnFixed 0x1D = 0 := by
    show wd &&& 0 = 0
    exact Nat.and_zero _
  have hres : wd &&& reservedBits wd = reservedValue 0x1D := by
    rw [reservedBits_at _ h24 (by decide)]
    show wd &&& 0 = 0x0
    exact Nat.and_zero _
  refine ⟨by omega, ?_⟩
  rw [decode_word h24 hf hfix wf.1 hres wf.2.1 (by omega)]; rfl

theorem rot (d : BitVec 5) (a : BitVec 5) (b : BitVec 5) (e : BitVec 1) (f : BitVec 1) (t : BitVec 4) (v : BitVec 3) : Statement (Instr.rot d a b e f t v) := by
  intro _ wf
  have bt := t.isLt
  have bv := v.isLt
  generalize hwd : Instr.encodeNat (Instr.rot d a b e f t v) = wd
  replace hwd : encRRR 0x1E d.toNat a.toNat b.toNat e.toNat f.toNat (t.toNat * 8 + v.toNat) = wd := hwd
  obtain ⟨h24, hh, hl, g0, g1, g2, g3, g4, g5⟩ := rrr_word hwd d.isLt a.isLt b.isLt e.isLt f.isLt (by omega)
  have hf : fieldsOf wd = some (Sum.inl (Instr.rot d a b e f t v)) := by
    rw [fieldsOf_1 14 (by omega) (by omega)]
    show some (Sum.inl (Instr.rot (fld wd 19) (fld wd 14) (fld wd 9) (fld wd 8) (fld wd 7) (fld wd 3) (fld wd 0))) = _
    rw [fld_eq wd 19 d g0, fld_eq wd 14 a g1, fld_eq wd 9 b g2, fld_eq wd 8 e g3, fld_eq wd 7 f g4, fld_sub wd 7 _ t 3 g5 (by decide) (by omega), fld_sub wd 7 _ v 0 g5 (by decide) (by omega)]
  have hfix : wd &&& fnFixed 0x1E = 0 := by
    show wd &&& 0 = 0
    exact Nat.and_zero _
  have hres : wd &&& reservedBits wd = reservedValue 0x1E := by
    rw [reservedBits_at _ h24 (by decide)]
    show wd &&& 0 = 0x0
    exact Nat.and_zero _
  refine ⟨by omega, ?_⟩
  rw [decode_word h24 hf hfix wf.1 hres wf.2.1 (by omega)]; rfl

theorem cmp (d : BitVec 5) (a : BitVec 5) (b : BitVec 5) (e : BitVec 1) (f : BitVec 1) (t : BitVec 4) (v : BitVec 3) : Statement (Instr.cmp d a b e f t v) := by
  intro _ wf
  have bt := t.isLt
  have bv := v.isLt
  generalize hwd : Instr.encodeNat (Instr.cmp d a b e f t v) = wd
  replace hwd : encRRR 0x1F d.toNat a.toNat b.toNat e.toNat f.toNat (t.toNat * 8 + v.toNat) = wd := hwd
  obtain ⟨h24, hh, hl, g0, g1, g2, g3, g4, g5⟩ := rrr_word hwd d.isLt a.isLt b.isLt e.isLt f.isLt (by omega)
  have hf : fieldsOf wd = some (Sum.inl (Instr.cmp d a b e f t v)) := by
    rw [fieldsOf_1 15 (by omega) (by omega)]
    show some (Sum.inl (Instr.cmp (fld wd 19) (fld wd 14) (fld wd 9) (fld wd 8) (fld wd 7) (fld wd 3) (fld wd 0))) = _
    rw [fld_eq wd 19 d g0, fld_eq wd 14 a g1, fld_eq wd 9 b g2, fld_eq wd 8 e g3, fld_eq wd 7 f g4, fld_sub wd 7 _ t 3 g5 (by decide) (by omega), fld_sub wd 7 _ v 0 g5 (by decide) (by omega)]
  have hfix : wd &&& fnFixed 0x1F = 0 := by
    show wd &&& 0 = 0
    exact Nat.and_zero _
  have hres : wd &&& reservedBits wd = reservedValue 0x1F := by
    rw [reservedBits_at _ h24 (by decide)]
    show wd &&& 0 = 0x0
    exact Nat.and_zero _
  refine ⟨by omega, ?_⟩
  rw [decode_word h24 hf hfix wf.1 hres wf.2.1 (by omega)]; rfl

theorem addi (d : BitVec 5) (a : BitVec 5) (e : BitVec 1) (i : BitVec 13) : Statement (Instr.addi d a e i) := by
  intro _ wf
  have bi := i.isLt
  generalize hwd : Instr.encodeNat (Instr.addi d a e i) = wd
  replace hwd : encRI 0x20 d.toNat a.toNat e.toNat i.toNat = wd := hwd
  obtain ⟨h24, hh, hl, g0, g1, g2, g3⟩ := ri_word hwd d.isLt a.isLt e.isLt i.isLt
  have hf : fieldsOf wd = some (Sum.inl (Instr.addi d a e i)) := by
    rw [fieldsOf_2 0 (by omega) (by omega)]
    show some (Sum.inl (Instr.addi (fld wd 19) (fld wd 14) (fld wd 13) (fld wd 0))) = _
    rw [fld_eq wd 19 d g0, fld_eq wd 14 a g1, fld_eq wd 13 e g2, fld_low wd i g3]
  have hfix : wd &&& fnFixed 0x20 = 0 := by
    show wd &&& 0 = 0
    exact Nat.and_zero _
  have hres : wd &&& reservedBits wd = reservedValue 0x20 := by
    rw [reservedBits_at _ h24 (by decide)]
    show wd &&& 0 = 0x0
    exact Nat.and_zero _
  refine ⟨by omega, ?_⟩
  rw [decode_word h24 hf hfix wf.1 hres wf.2.1 (by omega)]; rfl

theorem muli (d : BitVec 5) (a : BitVec 5) (e : BitVec 1) (i : BitVec 13) : Statement (Instr.muli d a e i) := by
  intro _ wf
  have bi := i.isLt
  generalize hwd : Instr.encodeNat (Instr.muli d a e i) = wd
  replace hwd : encRI 0x21 d.toNat a.toNat e.toNat i.toNat = wd := hwd
  obtain ⟨h24, hh, hl, g0, g1, g2, g3⟩ := ri_word hwd d.isLt a.isLt e.isLt i.isLt
  have hf : fieldsOf wd = some (Sum.inl (Instr.muli d a e i)) := by
    rw [fieldsOf_2 1 (by omega) (by omega)]
    show some (Sum.inl (Instr.muli (fld wd 19) (fld wd 14) (fld wd 13) (fld wd 0))) = _
    rw [fld_eq wd 19 d g0, fld_eq wd 14 a g1, fld_eq wd 13 e g2, fld_low wd i g3]
  have hfix : wd &&& fnFixed 0x21 = 0 := by
    show wd &&& 0 = 0
    exact Nat.and_zero _
  have hres : wd &&& reservedBits wd = reservedValue 0x21 := by
    rw [reservedBits_at _ h24 (by decide)]
    show wd &&& 0 = 0x0
    exact Nat.and_zero _
  refine ⟨by omega, ?_⟩
  rw [decode_word h24 hf hfix wf.1 hres wf.2.1 (by omega)]; rfl

theorem andi (d : BitVec 5) (a : BitVec 5) (e : BitVec 1) (i : BitVec 13) : Statement (Instr.andi d a e i) := by
  intro _ wf
  have bi := i.isLt
  generalize hwd : Instr.encodeNat (Instr.andi d a e i) = wd
  replace hwd : encRI 0x22 d.toNat a.toNat e.toNat i.toNat = wd := hwd
  obtain ⟨h24, hh, hl, g0, g1, g2, g3⟩ := ri_word hwd d.isLt a.isLt e.isLt i.isLt
  have hf : fieldsOf wd = some (Sum.inl (Instr.andi d a e i)) := by
    rw [fieldsOf_2 2 (by omega) (by omega)]
    show some (Sum.inl (Instr.andi (fld wd 19) (fld wd 14) (fld wd 13) (fld wd 0))) = _
    rw [fld_eq wd 19 d g0, fld_eq wd 14 a g1, fld_eq wd 13 e g2, fld_low wd i g3]
  have hfix : wd &&& fnFixed 0x22 = 0 := by
    show wd &&& 0 = 0
    exact Nat.and_zero _
  have hres : wd &&& reservedBits wd = reservedValue 0x22 := by
    rw [reservedBits_at _ h24 (by decide)]
    show wd &&& 0 = 0x0
    exact Nat.and_zero _
  refine ⟨by omega, ?_⟩
  rw [decode_word h24 hf hfix wf.1 hres wf.2.1 (by omega)]; rfl

theorem ori (d : BitVec 5) (a : BitVec 5) (e : BitVec 1) (i : BitVec 13) : Statement (Instr.ori d a e i) := by
  intro _ wf
  have bi := i.isLt
  generalize hwd : Instr.encodeNat (Instr.ori d a e i) = wd
  replace hwd : encRI 0x23 d.toNat a.toNat e.toNat i.toNat = wd := hwd
  obtain ⟨h24, hh, hl, g0, g1, g2, g3⟩ := ri_word hwd d.isLt a.isLt e.isLt i.isLt
  have hf : fieldsOf wd = some (Sum.inl (Instr.ori d a e i)) := by
    rw [fieldsOf_2 3 (by omega) (by omega)]
    show some (Sum.inl (Instr.ori (fld wd 19) (fld wd 14) (fld wd 13) (fld wd 0))) = _
    rw [fld_eq wd 19 d g0, fld_eq wd 14 a g1, fld_eq wd 13 e g2, fld_low wd i g3]
  have hfix : wd &&& fnFixed 0x23 = 0 := by
    show wd &&& 0 = 0
    exact Nat.and_zero _
  have hres : wd &&& reservedBits wd = reservedValue 0x23 := by
    rw [reservedBits_at _ h24 (by decide)]
    show wd &&& 0 = 0x0
    exact Nat.and_zero _
  refine ⟨by omega, ?_⟩
  rw [decode_word h24 hf hfix wf.1 hres wf.2.1 (by omega)]; rfl

theorem xori (d : BitVec 5) (a : BitVec 5) (e : BitVec 1) (i : BitVec 13) : Statement (Instr.xori d a e i) := by
  intro _ wf
  have bi := i.isLt
  generalize hwd : Instr.encodeNat (Instr.xori d a e i) = wd
  replace hwd : encRI 0x24 d.toNat a.toNat e.toNat i.toNat = wd := hwd
  obtain ⟨h24, hh, hl, g0, g1, g2, g3⟩ := ri_word hwd d.isLt a.isLt e.isLt i.isLt
  have hf : fieldsOf wd = some (Sum.inl (Instr.xori d a e i)) := by
    rw [fieldsOf_2 4 (by omega) (by omega)]
    show some (Sum.inl (Instr.xori (fld wd 19) (fld wd 14) (fld wd 13) (fld wd 0))) = _
    rw [fld_eq wd 19 d g0, fld_eq wd 14 a g1, fld_eq wd 13 e g2, fld_low wd i g3]
  have hfix : wd &&& fnFixed 0x24 = 0 := by
    show wd &&& 0 = 0
    exact Nat.and_zero _
  have hres : wd &&& reservedBits wd = reservedValue 0x24 := by
    rw [reservedBits_at _ h24 (by decide)]
    show wd &&& 0 = 0x0
    exact Nat.and_zero _
  refine ⟨by omega, ?_⟩
  rw [decode_word h24 hf hfix wf.1 hres wf.2.1 (by omega)]; rfl

theorem shli (d : BitVec 5) (a : BitVec 5) (e : BitVec 1) (s : BitVec 6) : Statement (Instr.shli d a e s) := by
  intro _ wf
  have bs := s.isLt
  generalize hwd : Instr.encodeNat (Instr.shli d a e s) = wd
  replace hwd : encRI 0x25 d.toNat a.toNat e.toNat s.toNat = wd := hwd
  obtain ⟨h24, hh, hl, g0, g1, g2, g3⟩ := ri_word hwd d.isLt a.isLt e.isLt (by omega)
  have hf : fieldsOf wd = some (Sum.inl (Instr.shli d a e s)) := by
    rw [fieldsOf_2 5 (by omega) (by omega)]
    show some (Sum.inl (Instr.shli (fld wd 19) (fld wd 14) (fld wd 13) (fld wd 0))) = _
    rw [fld_eq wd 19 d g0, fld_eq wd 14 a g1, fld_eq wd 13 e g2, fld_sub wd 13 _ s 0 g3 (by decide) (by omega)]
  have hfix : wd &&& fnFixed 0x25 = 0 := by
    show wd &&& 0 = 0
    exact Nat.and_zero _
  have hres : wd &&& reservedBits wd = reservedValue 0x25 := by
    rw [reservedBits_at _ h24 (by decide)]
    show wd &&& ((2 ^ 7 - 1) * 2 ^ 6) = 0x0
    rw [land_run, show wd / 2 ^ 6 % 2 ^ 7 = 0 from (run_sub wd 13 _ 6 7 g3 (by decide)).trans (by omega)] <;> rfl
  refine ⟨by omega, ?_⟩
  rw [decode_word h24 hf hfix wf.1 hres wf.2.1 (by omega)]; rfl

theorem shri (d : BitVec 5) (a : BitVec 5) (e : BitVec 1) (k : BitVec 1) (s : BitVec 6) : Statement (Instr.shri d a e k s) := by
  intro _ wf
  have bk := k.isLt
  have bs := s.isLt
  generalize hwd : Instr.encodeNat (Instr.shri d a e k s) = wd
  replace hwd : encRI 0x26 d.toNat a.toNat e.toNat (k.toNat * 64 + s.toNat) = wd := hwd
  obtain ⟨h24, hh, hl, g0, g1, g2, g3⟩ := ri_word hwd d.isLt a.isLt e.isLt (by omega)
  have hf : fieldsOf wd = some (Sum.inl (Instr.shri d a e k s)) := by
    rw [fieldsOf_2 6 (by omega) (by omega)]
    show some (Sum.inl (Instr.shri (fld wd 19) (fld wd 14) (fld wd 13) (fld wd 6) (fld wd 0))) = _
    rw [fld_eq wd 19 d g0, fld_eq wd 14 a g1, fld_eq wd 13 e g2, fld_sub wd 13 _ k 6 g3 (by decide) (by omega), fld_sub wd 13 _ s 0 g3 (by decide) (by omega)]
  have hfix : wd &&& fnFixed 0x26 = 0 := by
    show wd &&& 0 = 0
    exact Nat.and_zero _
  have hres : wd &&& reservedBits wd = reservedValue 0x26 := by
    rw [reservedBits_at _ h24 (by decide)]
    show wd &&& ((2 ^ 6 - 1) * 2 ^ 7) = 0x0
    rw [land_run, show wd / 2 ^ 7 % 2 ^ 6 = 0 from (run_sub wd 13 _ 7 6 g3 (by decide)).trans (by omega)] <;> rfl
  refine ⟨by omega, ?_⟩
  rw [decode_word h24 hf hfix wf.1 hres wf.2.1 (by omega)]; rfl

theorem roti (d : BitVec 5) (a : BitVec 5) (e : BitVec 1) (s : BitVec 6) : Statement (Instr.roti d a e s) := by
  intro _ wf
  have bs := s.isLt
  generalize hwd : Instr.encodeNat (Instr.roti d a e s) = wd
  replace hwd : encRI 0x27 d.toNat a.toNat e.toNat s.toNat = wd := hwd
  obtain ⟨h24, hh, hl, g0, g1, g2, g3⟩ := ri_word hwd d.isLt a.isLt e.isLt (by omega)
  have hf : fieldsOf wd = some (Sum.inl (Instr.roti d a e s)) := by
    rw [fieldsOf_2 7 (by omega) (by omega)]
    show some (Sum.inl (Instr.roti (fld wd 19) (fld wd 14) (fld wd 13) (fld wd 0))) = _
    rw [fld_eq wd 19 d g0, fld_eq wd 14 a g1, fld_eq wd 13 e g2, fld_sub wd 13 _ s 0 g3 (by decide) (by omega)]
  have hfix : wd &&& fnFixed 0x27 = 0 := by
    show wd &&& 0 = 0
    exact Nat.and_zero _
  have hres : wd &&& reservedBits wd = reservedValue 0x27 := by
    rw [reservedBits_at _ h24 (by decide)]
    show wd &&& ((2 ^ 7 - 1) * 2 ^ 6) = 0x0
    rw [land_run, show wd / 2 ^ 6 % 2 ^ 7 = 0 from (run_sub wd 13 _ 6 7 g3 (by decide)).trans (by omega)] <;> rfl
  refine ⟨by omega, ?_⟩
  rw [decode_word h24 hf hfix wf.1 hres wf.2.1 (by omega)]; rfl

theorem slti (d : BitVec 5) (a : BitVec 5) (e : BitVec 1) (i : BitVec 13) : Statement (Instr.slti d a e i) := by
  intro _ wf
  have bi := i.isLt
  generalize hwd : Instr.encodeNat (Instr.slti d a e i) = wd
  replace hwd : encRI 0x28 d.toNat a.toNat e.toNat i.toNat = wd := hwd
  obtain ⟨h24, hh, hl, g0, g1, g2, g3⟩ := ri_word hwd d.isLt a.isLt e.isLt i.isLt
  have hf : fieldsOf wd = some (Sum.inl (Instr.slti d a e i)) := by
    rw [fieldsOf_2 8 (by omega) (by omega)]
    show some (Sum.inl (Instr.slti (fld wd 19) (fld wd 14) (fld wd 13) (fld wd 0))) = _
    rw [fld_eq wd 19 d g0, fld_eq wd 14 a g1, fld_eq wd 13 e g2, fld_low wd i g3]
  have hfix : wd &&& fnFixed 0x28 = 0 := by
    show wd &&& 0 = 0
    exact Nat.and_zero _
  have hres : wd &&& reservedBits wd = reservedValue 0x28 := by
    rw [reservedBits_at _ h24 (by decide)]
    show wd &&& 0 = 0x0
    exact Nat.and_zero _
  refine ⟨by omega, ?_⟩
  rw [decode_word h24 hf hfix wf.1 hres wf.2.1 (by omega)]; rfl

theorem sltni (d : BitVec 5) (a : BitVec 5) (e : BitVec 1) (i : BitVec 13) : Statement (Instr.sltni d a e i) := by
  intro _ wf
  have bi := i.isLt
  generalize hwd : Instr.encodeNat (Instr.sltni d a e i) = wd
  replace hwd : encRI 0x29 d.toNat a.toNat e.toNat i.toNat = wd := hwd
  obtain ⟨h24, hh, hl, g0, g1, g2, g3⟩ := ri_word hwd d.isLt a.isLt e.isLt i.isLt
  have hf : fieldsOf wd = some (Sum.inl (Instr.sltni d a e i)) := by
    rw [fieldsOf_2 9 (by omega) (by omega)]
    show some (Sum.inl (Instr.sltni (fld wd 19) (fld wd 14) (fld wd 13) (fld wd 0))) = _
    rw [fld_eq wd 19 d g0, fld_eq wd 14 a g1, fld_eq wd 13 e g2, fld_low wd i g3]
  have hfix : wd &&& fnFixed 0x29 = 0 := by
    show wd &&& 0 = 0
    exact Nat.and_zero _
  have hres : wd &&& reservedBits wd = reservedValue 0x29 := by
    rw [reservedBits_at _ h24 (by decide)]
    show wd &&& 0 = 0x0
    exact Nat.and_zero _
  refine ⟨by omega, ?_⟩
  rw [decode_word h24 hf hfix wf.1 hres wf.2.1 (by omega)]; rfl

theorem seqi (d : BitVec 5) (a : BitVec 5) (e : BitVec 1) (i : BitVec 13) : Statement (Instr.seqi d a e i) := by
  intro _ wf
  have bi := i.isLt
  generalize hwd : Instr.encodeNat (Instr.seqi d a e i) = wd
  replace hwd : encRI 0x2A d.toNat a.toNat e.toNat i.toNat = wd := hwd
  obtain ⟨h24, hh, hl, g0, g1, g2, g3⟩ := ri_word hwd d.isLt a.isLt e.isLt i.isLt
  have hf : fieldsOf wd = some (Sum.inl (Instr.seqi d a e i)) := by
    rw [fieldsOf_2 10 (by omega) (by omega)]
    show some (Sum.inl (Instr.seqi (fld wd 19) (fld wd 14) (fld wd 13) (fld wd 0))) = _
    rw [fld_eq wd 19 d g0, fld_eq wd 14 a g1, fld_eq wd 13 e g2, fld_low wd i g3]
  have hfix : wd &&& fnFixed 0x2A = 0 := by
    show wd &&& 0 = 0
    exact Nat.and_zero _
  have hres : wd &&& reservedBits wd = reservedValue 0x2A := by
    rw [reservedBits_at _ h24 (by decide)]
    show wd &&& 0 = 0x0
    exact Nat.and_zero _
  refine ⟨by omega, ?_⟩
  rw [decode_word h24 hf hfix wf.1 hres wf.2.1 (by omega)]; rfl

theorem mini (d : BitVec 5) (a : BitVec 5) (e : BitVec 1) (i : BitVec 13) : Statement (Instr.mini d a e i) := by
  intro _ wf
  have bi := i.isLt
  generalize hwd : Instr.encodeNat (Instr.mini d a e i) = wd
  replace hwd : encRI 0x2B d.toNat a.toNat e.toNat i.toNat = wd := hwd
  obtain ⟨h24, hh, hl, g0, g1, g2, g3⟩ := ri_word hwd d.isLt a.isLt e.isLt i.isLt
  have hf : fieldsOf wd = some (Sum.inl (Instr.mini d a e i)) := by
    rw [fieldsOf_2 11 (by omega) (by omega)]
    show some (Sum.inl (Instr.mini (fld wd 19) (fld wd 14) (fld wd 13) (fld wd 0))) = _
    rw [fld_eq wd 19 d g0, fld_eq wd 14 a g1, fld_eq wd 13 e g2, fld_low wd i g3]
  have hfix : wd &&& fnFixed 0x2B = 0 := by
    show wd &&& 0 = 0
    exact Nat.and_zero _
  have hres : wd &&& reservedBits wd = reservedValue 0x2B := by
    rw [reservedBits_at _ h24 (by decide)]
    show wd &&& 0 = 0x0
    exact Nat.and_zero _
  refine ⟨by omega, ?_⟩
  rw [decode_word h24 hf hfix wf.1 hres wf.2.1 (by omega)]; rfl

theorem maxi (d : BitVec 5) (a : BitVec 5) (e : BitVec 1) (i : BitVec 13) : Statement (Instr.maxi d a e i) := by
  intro _ wf
  have bi := i.isLt
  generalize hwd : Instr.encodeNat (Instr.maxi d a e i) = wd
  replace hwd : encRI 0x2C d.toNat a.toNat e.toNat i.toNat = wd := hwd
  obtain ⟨h24, hh, hl, g0, g1, g2, g3⟩ := ri_word hwd d.isLt a.isLt e.isLt i.isLt
  have hf : fieldsOf wd = some (Sum.inl (Instr.maxi d a e i)) := by
    rw [fieldsOf_2 12 (by omega) (by omega)]
    show some (Sum.inl (Instr.maxi (fld wd 19) (fld wd 14) (fld wd 13) (fld wd 0))) = _
    rw [fld_eq wd 19 d g0, fld_eq wd 14 a g1, fld_eq wd 13 e g2, fld_low wd i g3]
  have hfix : wd &&& fnFixed 0x2C = 0 := by
    show wd &&& 0 = 0
    exact Nat.and_zero _
  have hres : wd &&& reservedBits wd = reservedValue 0x2C := by
    rw [reservedBits_at _ h24 (by decide)]
    show wd &&& 0 = 0x0
    exact Nat.and_zero _
  refine ⟨by omega, ?_⟩
  rw [decode_word h24 hf hfix wf.1 hres wf.2.1 (by omega)]; rfl

theorem divi (d : BitVec 5) (a : BitVec 5) (e : BitVec 1) (i : BitVec 13) : Statement (Instr.divi d a e i) := by
  intro _ wf
  have bi := i.isLt
  generalize hwd : Instr.encodeNat (Instr.divi d a e i) = wd
  replace hwd : encRI 0x2D d.toNat a.toNat e.toNat i.toNat = wd := hwd
  obtain ⟨h24, hh, hl, g0, g1, g2, g3⟩ := ri_word hwd d.isLt a.isLt e.isLt i.isLt
  have hf : fieldsOf wd = some (Sum.inl (Instr.divi d a e i)) := by
    rw [fieldsOf_2 13 (by omega) (by omega)]
    show some (Sum.inl (Instr.divi (fld wd 19) (fld wd 14) (fld wd 13) (fld wd 0))) = _
    rw [fld_eq wd 19 d g0, fld_eq wd 14 a g1, fld_eq wd 13 e g2, fld_low wd i g3]
  have hfix : wd &&& fnFixed 0x2D = 0 := by
    show wd &&& 0 = 0
    exact Nat.and_zero _
  have hres : wd &&& reservedBits wd = reservedValue 0x2D := by
    rw [reservedBits_at _ h24 (by decide)]
    show wd &&& 0 = 0x0
    exact Nat.and_zero _
  refine ⟨by omega, ?_⟩
  rw [decode_word h24 hf hfix wf.1 hres wf.2.1 (by omega)]; rfl

theorem remi (d : BitVec 5) (a : BitVec 5) (e : BitVec 1) (i : BitVec 13) : Statement (Instr.remi d a e i) := by
  intro _ wf
  have bi := i.isLt
  generalize hwd : Instr.encodeNat (Instr.remi d a e i) = wd
  replace hwd : encRI 0x2E d.toNat a.toNat e.toNat i.toNat = wd := hwd
  obtain ⟨h24, hh, hl, g0, g1, g2, g3⟩ := ri_word hwd d.isLt a.isLt e.isLt i.isLt
  have hf : fieldsOf wd = some (Sum.inl (Instr.remi d a e i)) := by
    rw [fieldsOf_2 14 (by omega) (by omega)]
    show some (Sum.inl (Instr.remi (fld wd 19) (fld wd 14) (fld wd 13) (fld wd 0))) = _
    rw [fld_eq wd 19 d g0, fld_eq wd 14 a g1, fld_eq wd 13 e g2, fld_low wd i g3]
  have hfix : wd &&& fnFixed 0x2E = 0 := by
    show wd &&& 0 = 0
    exact Nat.and_zero _
  have hres : wd &&& reservedBits wd = reservedValue 0x2E := by
    rw [reservedBits_at _ h24 (by decide)]
    show wd &&& 0 = 0x0
    exact Nat.and_zero _
  refine ⟨by omega, ?_⟩
  rw [decode_word h24 hf hfix wf.1 hres wf.2.1 (by omega)]; rfl

theorem subfi (d : BitVec 5) (a : BitVec 5) (e : BitVec 1) (i : BitVec 13) : Statement (Instr.subfi d a e i) := by
  intro _ wf
  have bi := i.isLt
  generalize hwd : Instr.encodeNat (Instr.subfi d a e i) = wd
  replace hwd : encRI 0x2F d.toNat a.toNat e.toNat i.toNat = wd := hwd
  obtain ⟨h24, hh, hl, g0, g1, g2, g3⟩ := ri_word hwd d.isLt a.isLt e.isLt i.isLt
  have hf : fieldsOf wd = some (Sum.inl (Instr.subfi d a e i)) := by
    rw [fieldsOf_2 15 (by omega) (by omega)]
    show some (Sum.inl (Instr.subfi (fld wd 19) (fld wd 14) (fld wd 13) (fld wd 0))) = _
    rw [fld_eq wd 19 d g0, fld_eq wd 14 a g1, fld_eq wd 13 e g2, fld_low wd i g3]
  have hfix : wd &&& fnFixed 0x2F = 0 := by
    show wd &&& 0 = 0
    exact Nat.and_zero _
  have hres : wd &&& reservedBits wd = reservedValue 0x2F := by
    rw [reservedBits_at _ h24 (by decide)]
    show wd &&& 0 = 0x0
    exact Nat.and_zero _
  refine ⟨by omega, ?_⟩
  rw [decode_word h24 hf hfix wf.1 hres wf.2.1 (by omega)]; rfl

theorem movi (d : BitVec 5) (i : BitVec 19) : Statement (Instr.movi d i) := by
  intro _ wf
  have bi := i.isLt
  generalize hwd : Instr.encodeNat (Instr.movi d i) = wd
  replace hwd : encWI 0x30 d.toNat i.toNat = wd := hwd
  obtain ⟨h24, hh, hl, g0, g1⟩ := wi_word hwd d.isLt i.isLt
  have hf : fieldsOf wd = some (Sum.inl (Instr.movi d i)) := by
    rw [fieldsOf_3 0 (by omega) (by omega)]
    show some (Sum.inl (Instr.movi (fld wd 19) (fld wd 0))) = _
    rw [fld_eq wd 19 d g0, fld_low wd i g1]
  have hfix : wd &&& fnFixed 0x30 = 0 := by
    show wd &&& 0 = 0
    exact Nat.and_zero _
  have hres : wd &&& reservedBits wd = reservedValue 0x30 := by
    rw [reservedBits_at _ h24 (by decide)]
    show wd &&& 0 = 0x0
    exact Nat.and_zero _
  refine ⟨by omega, ?_⟩
  rw [decode_word h24 hf hfix wf.1 hres wf.2.1 (by omega)]; rfl

theorem ldhi (d : BitVec 5) (i : BitVec 19) : Statement (Instr.ldhi d i) := by
  intro _ wf
  have bi := i.isLt
  generalize hwd : Instr.encodeNat (Instr.ldhi d i) = wd
  replace hwd : encWI 0x31 d.toNat i.toNat = wd := hwd
  obtain ⟨h24, hh, hl, g0, g1⟩ := wi_word hwd d.isLt i.isLt
  have hf : fieldsOf wd = some (Sum.inl (Instr.ldhi d i)) := by
    rw [fieldsOf_3 1 (by omega) (by omega)]
    show some (Sum.inl (Instr.ldhi (fld wd 19) (fld wd 0))) = _
    rw [fld_eq wd 19 d g0, fld_low wd i g1]
  have hfix : wd &&& fnFixed 0x31 = 0 := by
    show wd &&& 0 = 0
    exact Nat.and_zero _
  have hres : wd &&& reservedBits wd = reservedValue 0x31 := by
    rw [reservedBits_at _ h24 (by decide)]
    show wd &&& 0 = 0x0
    exact Nat.and_zero _
  refine ⟨by omega, ?_⟩
  rw [decode_word h24 hf hfix wf.1 hres wf.2.1 (by omega)]; rfl

theorem addpc (d : BitVec 5) (i : BitVec 19) : Statement (Instr.addpc d i) := by
  intro _ wf
  have bi := i.isLt
  generalize hwd : Instr.encodeNat (Instr.addpc d i) = wd
  replace hwd : encWI 0x32 d.toNat i.toNat = wd := hwd
  obtain ⟨h24, hh, hl, g0, g1⟩ := wi_word hwd d.isLt i.isLt
  have hf : fieldsOf wd = some (Sum.inl (Instr.addpc d i)) := by
    rw [fieldsOf_3 2 (by omega) (by omega)]
    show some (Sum.inl (Instr.addpc (fld wd 19) (fld wd 0))) = _
    rw [fld_eq wd 19 d g0, fld_low wd i g1]
  have hfix : wd &&& fnFixed 0x32 = 0 := by
    show wd &&& 0 = 0
    exact Nat.and_zero _
  have hres : wd &&& reservedBits wd = reservedValue 0x32 := by
    rw [reservedBits_at _ h24 (by decide)]
    show wd &&& 0 = 0x0
    exact Nat.and_zero _
  refine ⟨by omega, ?_⟩
  rw [decode_word h24 hf hfix wf.1 hres wf.2.1 (by omega)]; rfl

theorem clz (d : BitVec 5) (a : BitVec 5) (e : BitVec 1) (t : BitVec 4) : Statement (Instr.clz d a e t) := by
  intro _ wf
  have bt := t.isLt
  generalize hwd : Instr.encodeNat (Instr.clz d a e t) = wd
  replace hwd : encRRR 0x33 d.toNat a.toNat 0 e.toNat 0 (t.toNat * 8) = wd := hwd
  obtain ⟨h24, hh, hl, g0, g1, g2, g3, g4, g5⟩ := rrr_word hwd d.isLt a.isLt (by decide) e.isLt (by decide) (by omega)
  have hf : fieldsOf wd = some (Sum.inl (Instr.clz d a e t)) := by
    rw [fieldsOf_3 3 (by omega) (by omega)]
    show some (Sum.inl (Instr.clz (fld wd 19) (fld wd 14) (fld wd 8) (fld wd 3))) = _
    rw [fld_eq wd 19 d g0, fld_eq wd 14 a g1, fld_eq wd 8 e g3, fld_sub wd 7 _ t 3 g5 (by decide) (by omega)]
  have hfix : wd &&& fnFixed 0x33 = 0 := by
    show wd &&& ((2 ^ 3 - 1) * 2 ^ 0) = 0
    rw [land_run, show wd / 2 ^ 0 % 2 ^ 3 = 0 from (run_sub wd 7 _ 0 3 g5 (by decide)).trans (by omega)] <;> rfl
  have hres : wd &&& reservedBits wd = reservedValue 0x33 := by
    rw [reservedBits_at _ h24 (by decide)]
    show wd &&& (((2 ^ 1 - 1) * 2 ^ 7) ||| ((2 ^ 5 - 1) * 2 ^ 9)) = 0x0
    rw [Nat.and_or_distrib_left, land_run, land_run, g4, g2] <;> rfl
  refine ⟨by omega, ?_⟩
  rw [decode_word h24 hf hfix wf.1 hres wf.2.1 (by omega)]; rfl

theorem ctz (d : BitVec 5) (a : BitVec 5) (e : BitVec 1) (t : BitVec 4) : Statement (Instr.ctz d a e t) := by
  intro _ wf
  have bt := t.isLt
  generalize hwd : Instr.encodeNat (Instr.ctz d a e t) = wd
  replace hwd : encRRR 0x34 d.toNat a.toNat 0 e.toNat 0 (t.toNat * 8) = wd := hwd
  obtain ⟨h24, hh, hl, g0, g1, g2, g3, g4, g5⟩ := rrr_word hwd d.isLt a.isLt (by decide) e.isLt (by decide) (by omega)
  have hf : fieldsOf wd = some (Sum.inl (Instr.ctz d a e t)) := by
    rw [fieldsOf_3 4 (by omega) (by omega)]
    show some (Sum.inl (Instr.ctz (fld wd 19) (fld wd 14) (fld wd 8) (fld wd 3))) = _
    rw [fld_eq wd 19 d g0, fld_eq wd 14 a g1, fld_eq wd 8 e g3, fld_sub wd 7 _ t 3 g5 (by decide) (by omega)]
  have hfix : wd &&& fnFixed 0x34 = 0 := by
    show wd &&& ((2 ^ 3 - 1) * 2 ^ 0) = 0
    rw [land_run, show wd / 2 ^ 0 % 2 ^ 3 = 0 from (run_sub wd 7 _ 0 3 g5 (by decide)).trans (by omega)] <;> rfl
  have hres : wd &&& reservedBits wd = reservedValue 0x34 := by
    rw [reservedBits_at _ h24 (by decide)]
    show wd &&& (((2 ^ 1 - 1) * 2 ^ 7) ||| ((2 ^ 5 - 1) * 2 ^ 9)) = 0x0
    rw [Nat.and_or_distrib_left, land_run, land_run, g4, g2] <;> rfl
  refine ⟨by omega, ?_⟩
  rw [decode_word h24 hf hfix wf.1 hres wf.2.1 (by omega)]; rfl

theorem popc (d : BitVec 5) (a : BitVec 5) (e : BitVec 1) (t : BitVec 4) : Statement (Instr.popc d a e t) := by
  intro _ wf
  have bt := t.isLt
  generalize hwd : Instr.encodeNat (Instr.popc d a e t) = wd
  replace hwd : encRRR 0x35 d.toNat a.toNat 0 e.toNat 0 (t.toNat * 8) = wd := hwd
  obtain ⟨h24, hh, hl, g0, g1, g2, g3, g4, g5⟩ := rrr_word hwd d.isLt a.isLt (by decide) e.isLt (by decide) (by omega)
  have hf : fieldsOf wd = some (Sum.inl (Instr.popc d a e t)) := by
    rw [fieldsOf_3 5 (by omega) (by omega)]
    show some (Sum.inl (Instr.popc (fld wd 19) (fld wd 14) (fld wd 8) (fld wd 3))) = _
    rw [fld_eq wd 19 d g0, fld_eq wd 14 a g1, fld_eq wd 8 e g3, fld_sub wd 7 _ t 3 g5 (by decide) (by omega)]
  have hfix : wd &&& fnFixed 0x35 = 0 := by
    show wd &&& ((2 ^ 3 - 1) * 2 ^ 0) = 0
    rw [land_run, show wd / 2 ^ 0 % 2 ^ 3 = 0 from (run_sub wd 7 _ 0 3 g5 (by decide)).trans (by omega)] <;> rfl
  have hres : wd &&& reservedBits wd = reservedValue 0x35 := by
    rw [reservedBits_at _ h24 (by decide)]
    show wd &&& (((2 ^ 1 - 1) * 2 ^ 7) ||| ((2 ^ 5 - 1) * 2 ^ 9)) = 0x0
    rw [Nat.and_or_distrib_left, land_run, land_run, g4, g2] <;> rfl
  refine ⟨by omega, ?_⟩
  rw [decode_word h24 hf hfix wf.1 hres wf.2.1 (by omega)]; rfl

theorem brev (d : BitVec 5) (a : BitVec 5) (e : BitVec 1) (t : BitVec 4) : Statement (Instr.brev d a e t) := by
  intro _ wf
  have bt := t.isLt
  generalize hwd : Instr.encodeNat (Instr.brev d a e t) = wd
  replace hwd : encRRR 0x36 d.toNat a.toNat 0 e.toNat 0 (t.toNat * 8) = wd := hwd
  obtain ⟨h24, hh, hl, g0, g1, g2, g3, g4, g5⟩ := rrr_word hwd d.isLt a.isLt (by decide) e.isLt (by decide) (by omega)
  have hf : fieldsOf wd = some (Sum.inl (Instr.brev d a e t)) := by
    rw [fieldsOf_3 6 (by omega) (by omega)]
    show some (Sum.inl (Instr.brev (fld wd 19) (fld wd 14) (fld wd 8) (fld wd 3))) = _
    rw [fld_eq wd 19 d g0, fld_eq wd 14 a g1, fld_eq wd 8 e g3, fld_sub wd 7 _ t 3 g5 (by decide) (by omega)]
  have hfix : wd &&& fnFixed 0x36 = 0 := by
    show wd &&& ((2 ^ 3 - 1) * 2 ^ 0) = 0
    rw [land_run, show wd / 2 ^ 0 % 2 ^ 3 = 0 from (run_sub wd 7 _ 0 3 g5 (by decide)).trans (by omega)] <;> rfl
  have hres : wd &&& reservedBits wd = reservedValue 0x36 := by
    rw [reservedBits_at _ h24 (by decide)]
    show wd &&& (((2 ^ 1 - 1) * 2 ^ 7) ||| ((2 ^ 5 - 1) * 2 ^ 9)) = 0x0
    rw [Nat.and_or_distrib_left, land_run, land_run, g4, g2] <;> rfl
  refine ⟨by omega, ?_⟩
  rw [decode_word h24 hf hfix wf.1 hres wf.2.1 (by omega)]; rfl

theorem bswap (d : BitVec 5) (a : BitVec 5) (e : BitVec 1) (t : BitVec 4) : Statement (Instr.bswap d a e t) := by
  intro _ wf
  have bt := t.isLt
  generalize hwd : Instr.encodeNat (Instr.bswap d a e t) = wd
  replace hwd : encRRR 0x37 d.toNat a.toNat 0 e.toNat 0 (t.toNat * 8) = wd := hwd
  obtain ⟨h24, hh, hl, g0, g1, g2, g3, g4, g5⟩ := rrr_word hwd d.isLt a.isLt (by decide) e.isLt (by decide) (by omega)
  have hf : fieldsOf wd = some (Sum.inl (Instr.bswap d a e t)) := by
    rw [fieldsOf_3 7 (by omega) (by omega)]
    show some (Sum.inl (Instr.bswap (fld wd 19) (fld wd 14) (fld wd 8) (fld wd 3))) = _
    rw [fld_eq wd 19 d g0, fld_eq wd 14 a g1, fld_eq wd 8 e g3, fld_sub wd 7 _ t 3 g5 (by decide) (by omega)]
  have hfix : wd &&& fnFixed 0x37 = 0 := by
    show wd &&& ((2 ^ 3 - 1) * 2 ^ 0) = 0
    rw [land_run, show wd / 2 ^ 0 % 2 ^ 3 = 0 from (run_sub wd 7 _ 0 3 g5 (by decide)).trans (by omega)] <;> rfl
  have hres : wd &&& reservedBits wd = reservedValue 0x37 := by
    rw [reservedBits_at _ h24 (by decide)]
    show wd &&& (((2 ^ 1 - 1) * 2 ^ 7) ||| ((2 ^ 5 - 1) * 2 ^ 9)) = 0x0
    rw [Nat.and_or_distrib_left, land_run, land_run, g4, g2] <;> rfl
  refine ⟨by omega, ?_⟩
  rw [decode_word h24 hf hfix wf.1 hres wf.2.1 (by omega)]; rfl

theorem ext (d : BitVec 5) (a : BitVec 5) (e : BitVec 1) (x : BitVec 1) (l : BitVec 6) (p : BitVec 6) : Statement (Instr.ext d a e x l p) := by
  intro _ wf
  have bl := l.isLt
  have bp := p.isLt
  have bx := x.isLt
  generalize hwd : Instr.encodeNat (Instr.ext d a e x l p) = wd
  replace hwd : encRI 0x38 d.toNat a.toNat e.toNat (x.toNat * 4096 + l.toNat * 64 + p.toNat) = wd := hwd
  obtain ⟨h24, hh, hl, g0, g1, g2, g3⟩ := ri_word hwd d.isLt a.isLt e.isLt (by omega)
  have hf : fieldsOf wd = some (Sum.inl (Instr.ext d a e x l p)) := by
    rw [fieldsOf_3 8 (by omega) (by omega)]
    show some (Sum.inl (Instr.ext (fld wd 19) (fld wd 14) (fld wd 13) (fld wd 12) (fld wd 6) (fld wd 0))) = _
    rw [fld_eq wd 19 d g0, fld_eq wd 14 a g1, fld_eq wd 13 e g2, fld_sub wd 13 _ x 12 g3 (by decide) (by omega), fld_sub wd 13 _ l 6 g3 (by decide) (by omega), fld_sub wd 13 _ p 0 g3 (by decide) (by omega)]
  have hfix : wd &&& fnFixed 0x38 = 0 := by
    show wd &&& 0 = 0
    exact Nat.and_zero _
  have hres : wd &&& reservedBits wd = reservedValue 0x38 := by
    rw [reservedBits_at _ h24 (by decide)]
    show wd &&& 0 = 0x0
    exact Nat.and_zero _
  refine ⟨by omega, ?_⟩
  rw [decode_word h24 hf hfix wf.1 hres wf.2.1 (by omega)]; rfl

theorem ins (d : BitVec 5) (a : BitVec 5) (e : BitVec 1) (l : BitVec 6) (p : BitVec 6) : Statement (Instr.ins d a e l p) := by
  intro _ wf
  have bl := l.isLt
  have bp := p.isLt
  generalize hwd : Instr.encodeNat (Instr.ins d a e l p) = wd
  replace hwd : encRI 0x39 d.toNat a.toNat e.toNat (l.toNat * 64 + p.toNat) = wd := hwd
  obtain ⟨h24, hh, hl, g0, g1, g2, g3⟩ := ri_word hwd d.isLt a.isLt e.isLt (by omega)
  have hf : fieldsOf wd = some (Sum.inl (Instr.ins d a e l p)) := by
    rw [fieldsOf_3 9 (by omega) (by omega)]
    show some (Sum.inl (Instr.ins (fld wd 19) (fld wd 14) (fld wd 13) (fld wd 6) (fld wd 0))) = _
    rw [fld_eq wd 19 d g0, fld_eq wd 14 a g1, fld_eq wd 13 e g2, fld_sub wd 13 _ l 6 g3 (by decide) (by omega), fld_sub wd 13 _ p 0 g3 (by decide) (by omega)]
  have hfix : wd &&& fnFixed 0x39 = 0 := by
    show wd &&& 0 = 0
    exact Nat.and_zero _
  have hres : wd &&& reservedBits wd = reservedValue 0x39 := by
    rw [reservedBits_at _ h24 (by decide)]
    show wd &&& ((2 ^ 1 - 1) * 2 ^ 12) = 0x0
    rw [land_run, show wd / 2 ^ 12 % 2 ^ 1 = 0 from (run_sub wd 13 _ 12 1 g3 (by decide)).trans (by omega)] <;> rfl
  refine ⟨by omega, ?_⟩
  rw [decode_word h24 hf hfix wf.1 hres wf.2.1 (by omega)]; rfl

theorem sel (d : BitVec 5) (a : BitVec 5) (b : BitVec 5) (e : BitVec 1) (f : BitVec 1) (c : BitVec 2) : Statement (Instr.sel d a b e f c) := by
  intro _ wf
  have bc := c.isLt
  generalize hwd : Instr.encodeNat (Instr.sel d a b e f c) = wd
  replace hwd : encRRR 0x3A d.toNat a.toNat b.toNat e.toNat f.toNat c.toNat = wd := hwd
  obtain ⟨h24, hh, hl, g0, g1, g2, g3, g4, g5⟩ := rrr_word hwd d.isLt a.isLt b.isLt e.isLt f.isLt (by omega)
  have hf : fieldsOf wd = some (Sum.inl (Instr.sel d a b e f c)) := by
    rw [fieldsOf_3 10 (by omega) (by omega)]
    show some (Sum.inl (Instr.sel (fld wd 19) (fld wd 14) (fld wd 9) (fld wd 8) (fld wd 7) (fld wd 0))) = _
    rw [fld_eq wd 19 d g0, fld_eq wd 14 a g1, fld_eq wd 9 b g2, fld_eq wd 8 e g3, fld_eq wd 7 f g4, fld_sub wd 7 _ c 0 g5 (by decide) (by omega)]
  have hfix : wd &&& fnFixed 0x3A = 0 := by
    show wd &&& ((2 ^ 5 - 1) * 2 ^ 2) = 0
    rw [land_run, show wd / 2 ^ 2 % 2 ^ 5 = 0 from (run_sub wd 7 _ 2 5 g5 (by decide)).trans (by omega)] <;> rfl
  have hres : wd &&& reservedBits wd = reservedValue 0x3A := by
    rw [reservedBits_at _ h24 (by decide)]
    show wd &&& 0 = 0x0
    exact Nat.and_zero _
  refine ⟨by omega, ?_⟩
  rw [decode_word h24 hf hfix wf.1 hres wf.2.1 (by omega)]; rfl

theorem mac (d : BitVec 5) (a : BitVec 5) (b : BitVec 5) (e : BitVec 1) (f : BitVec 1) (t : BitVec 4) (v : BitVec 1) : Statement (Instr.mac d a b e f t v) := by
  intro _ wf
  have bt := t.isLt
  have bv := v.isLt
  generalize hwd : Instr.encodeNat (Instr.mac d a b e f t v) = wd
  replace hwd : encRRR 0x3B d.toNat a.toNat b.toNat e.toNat f.toNat (t.toNat * 8 + v.toNat) = wd := hwd
  obtain ⟨h24, hh, hl, g0, g1, g2, g3, g4, g5⟩ := rrr_word hwd d.isLt a.isLt b.isLt e.isLt f.isLt (by omega)
  have hf : fieldsOf wd = some (Sum.inl (Instr.mac d a b e f t v)) := by
    rw [fieldsOf_3 11 (by omega) (by omega)]
    show some (Sum.inl (Instr.mac (fld wd 19) (fld wd 14) (fld wd 9) (fld wd 8) (fld wd 7) (fld wd 3) (fld wd 0))) = _
    rw [fld_eq wd 19 d g0, fld_eq wd 14 a g1, fld_eq wd 9 b g2, fld_eq wd 8 e g3, fld_eq wd 7 f g4, fld_sub wd 7 _ t 3 g5 (by decide) (by omega), fld_sub wd 7 _ v 0 g5 (by decide) (by omega)]
  have hfix : wd &&& fnFixed 0x3B = 0 := by
    show wd &&& ((2 ^ 2 - 1) * 2 ^ 1) = 0
    rw [land_run, show wd / 2 ^ 1 % 2 ^ 2 = 0 from (run_sub wd 7 _ 1 2 g5 (by decide)).trans (by omega)] <;> rfl
  have hres : wd &&& reservedBits wd = reservedValue 0x3B := by
    rw [reservedBits_at _ h24 (by decide)]
    show wd &&& 0 = 0x0
    exact Nat.and_zero _
  refine ⟨by omega, ?_⟩
  rw [decode_word h24 hf hfix wf.1 hres wf.2.1 (by omega)]; rfl

theorem abs (d : BitVec 5) (a : BitVec 5) (e : BitVec 1) (t : BitVec 4) (v : BitVec 1) : Statement (Instr.abs d a e t v) := by
  intro _ wf
  have bt := t.isLt
  have bv := v.isLt
  generalize hwd : Instr.encodeNat (Instr.abs d a e t v) = wd
  replace hwd : encRRR 0x3C d.toNat a.toNat 0 e.toNat 0 (t.toNat * 8 + v.toNat) = wd := hwd
  obtain ⟨h24, hh, hl, g0, g1, g2, g3, g4, g5⟩ := rrr_word hwd d.isLt a.isLt (by decide) e.isLt (by decide) (by omega)
  have hf : fieldsOf wd = some (Sum.inl (Instr.abs d a e t v)) := by
    rw [fieldsOf_3 12 (by omega) (by omega)]
    show some (Sum.inl (Instr.abs (fld wd 19) (fld wd 14) (fld wd 8) (fld wd 3) (fld wd 0))) = _
    rw [fld_eq wd 19 d g0, fld_eq wd 14 a g1, fld_eq wd 8 e g3, fld_sub wd 7 _ t 3 g5 (by decide) (by omega), fld_sub wd 7 _ v 0 g5 (by decide) (by omega)]
  have hfix : wd &&& fnFixed 0x3C = 0 := by
    show wd &&& ((2 ^ 2 - 1) * 2 ^ 1) = 0
    rw [land_run, show wd / 2 ^ 1 % 2 ^ 2 = 0 from (run_sub wd 7 _ 1 2 g5 (by decide)).trans (by omega)] <;> rfl
  have hres : wd &&& reservedBits wd = reservedValue 0x3C := by
    rw [reservedBits_at _ h24 (by decide)]
    show wd &&& (((2 ^ 1 - 1) * 2 ^ 7) ||| ((2 ^ 5 - 1) * 2 ^ 9)) = 0x0
    rw [Nat.and_or_distrib_left, land_run, land_run, g4, g2] <;> rfl
  refine ⟨by omega, ?_⟩
  rw [decode_word h24 hf hfix wf.1 hres wf.2.1 (by omega)]; rfl

theorem cvtw (d : BitVec 5) (a : BitVec 5) (e : BitVec 1) (t : BitVec 4) (u : BitVec 3) : Statement (Instr.cvtw d a e t u) := by
  intro _ wf
  have bt := t.isLt
  have bu := u.isLt
  generalize hwd : Instr.encodeNat (Instr.cvtw d a e t u) = wd
  replace hwd : encRRR 0x3D d.toNat a.toNat 0 e.toNat 0 (t.toNat * 8 + u.toNat) = wd := hwd
  obtain ⟨h24, hh, hl, g0, g1, g2, g3, g4, g5⟩ := rrr_word hwd d.isLt a.isLt (by decide) e.isLt (by decide) (by omega)
  have hf : fieldsOf wd = some (Sum.inl (Instr.cvtw d a e t u)) := by
    rw [fieldsOf_3 13 (by omega) (by omega)]
    show some (Sum.inl (Instr.cvtw (fld wd 19) (fld wd 14) (fld wd 8) (fld wd 3) (fld wd 0))) = _
    rw [fld_eq wd 19 d g0, fld_eq wd 14 a g1, fld_eq wd 8 e g3, fld_sub wd 7 _ t 3 g5 (by decide) (by omega), fld_sub wd 7 _ u 0 g5 (by decide) (by omega)]
  have hfix : wd &&& fnFixed 0x3D = 0 := by
    show wd &&& 0 = 0
    exact Nat.and_zero _
  have hres : wd &&& reservedBits wd = reservedValue 0x3D := by
    rw [reservedBits_at _ h24 (by decide)]
    show wd &&& (((2 ^ 1 - 1) * 2 ^ 7) ||| ((2 ^ 5 - 1) * 2 ^ 9)) = 0x0
    rw [Nat.and_or_distrib_left, land_run, land_run, g4, g2] <;> rfl
  refine ⟨by omega, ?_⟩
  rw [decode_word h24 hf hfix wf.1 hres wf.2.1 (by omega)]; rfl

theorem crc (d : BitVec 5) (a : BitVec 5) (b : BitVec 5) (e : BitVec 1) (f : BitVec 1) (t : BitVec 4) : Statement (Instr.crc d a b e f t) := by
  intro _ wf
  have bt := t.isLt
  generalize hwd : Instr.encodeNat (Instr.crc d a b e f t) = wd
  replace hwd : encRRR 0x3E d.toNat a.toNat b.toNat e.toNat f.toNat (t.toNat * 8) = wd := hwd
  obtain ⟨h24, hh, hl, g0, g1, g2, g3, g4, g5⟩ := rrr_word hwd d.isLt a.isLt b.isLt e.isLt f.isLt (by omega)
  have hf : fieldsOf wd = some (Sum.inl (Instr.crc d a b e f t)) := by
    rw [fieldsOf_3 14 (by omega) (by omega)]
    show some (Sum.inl (Instr.crc (fld wd 19) (fld wd 14) (fld wd 9) (fld wd 8) (fld wd 7) (fld wd 3))) = _
    rw [fld_eq wd 19 d g0, fld_eq wd 14 a g1, fld_eq wd 9 b g2, fld_eq wd 8 e g3, fld_eq wd 7 f g4, fld_sub wd 7 _ t 3 g5 (by decide) (by omega)]
  have hfix : wd &&& fnFixed 0x3E = 0 := by
    show wd &&& ((2 ^ 3 - 1) * 2 ^ 0) = 0
    rw [land_run, show wd / 2 ^ 0 % 2 ^ 3 = 0 from (run_sub wd 7 _ 0 3 g5 (by decide)).trans (by omega)] <;> rfl
  have hres : wd &&& reservedBits wd = reservedValue 0x3E := by
    rw [reservedBits_at _ h24 (by decide)]
    show wd &&& 0 = 0x0
    exact Nat.and_zero _
  refine ⟨by omega, ?_⟩
  rw [decode_word h24 hf hfix wf.1 hres wf.2.1 (by omega)]; rfl

theorem hash (d : BitVec 5) (a : BitVec 5) (b : BitVec 5) (e : BitVec 1) (f : BitVec 1) : Statement (Instr.hash d a b e f) := by
  intro _ wf
  generalize hwd : Instr.encodeNat (Instr.hash d a b e f) = wd
  replace hwd : encRRR 0x3F d.toNat a.toNat b.toNat e.toNat f.toNat 0 = wd := hwd
  obtain ⟨h24, hh, hl, g0, g1, g2, g3, g4, g5⟩ := rrr_word hwd d.isLt a.isLt b.isLt e.isLt f.isLt (by decide)
  have hf : fieldsOf wd = some (Sum.inl (Instr.hash d a b e f)) := by
    rw [fieldsOf_3 15 (by omega) (by omega)]
    show some (Sum.inl (Instr.hash (fld wd 19) (fld wd 14) (fld wd 9) (fld wd 8) (fld wd 7))) = _
    rw [fld_eq wd 19 d g0, fld_eq wd 14 a g1, fld_eq wd 9 b g2, fld_eq wd 8 e g3, fld_eq wd 7 f g4]
  have hfix : wd &&& fnFixed 0x3F = 0 := by
    show wd &&& ((2 ^ 7 - 1) * 2 ^ 0) = 0
    rw [land_run, show wd / 2 ^ 0 % 2 ^ 7 = 0 from (by rw [Nat.pow_zero, Nat.div_one]; exact g5)] <;> rfl
  have hres : wd &&& reservedBits wd = reservedValue 0x3F := by
    rw [reservedBits_at _ h24 (by decide)]
    show wd &&& 0 = 0x0
    exact Nat.and_zero _
  refine ⟨by omega, ?_⟩
  rw [decode_word h24 hf hfix wf.1 hres wf.2.1 (by omega)]; rfl

theorem fadd (d : BitVec 5) (a : BitVec 5) (b : BitVec 5) (e : BitVec 1) (f : BitVec 1) (t : BitVec 4) (v : BitVec 3) : Statement (Instr.fadd d a b e f t v) := by
  intro _ wf
  have bt := t.isLt
  have bv := v.isLt
  generalize hwd : Instr.encodeNat (Instr.fadd d a b e f t v) = wd
  replace hwd : encRRR 0x40 d.toNat a.toNat b.toNat e.toNat f.toNat (t.toNat * 8 + v.toNat) = wd := hwd
  obtain ⟨h24, hh, hl, g0, g1, g2, g3, g4, g5⟩ := rrr_word hwd d.isLt a.isLt b.isLt e.isLt f.isLt (by omega)
  have hf : fieldsOf wd = some (Sum.inl (Instr.fadd d a b e f t v)) := by
    rw [fieldsOf_4 0 (by omega) (by omega)]
    show some (Sum.inl (Instr.fadd (fld wd 19) (fld wd 14) (fld wd 9) (fld wd 8) (fld wd 7) (fld wd 3) (fld wd 0))) = _
    rw [fld_eq wd 19 d g0, fld_eq wd 14 a g1, fld_eq wd 9 b g2, fld_eq wd 8 e g3, fld_eq wd 7 f g4, fld_sub wd 7 _ t 3 g5 (by decide) (by omega), fld_sub wd 7 _ v 0 g5 (by decide) (by omega)]
  have hfix : wd &&& fnFixed 0x40 = 0 := by
    show wd &&& 0 = 0
    exact Nat.and_zero _
  have hres : wd &&& reservedBits wd = reservedValue 0x40 := by
    rw [reservedBits_at _ h24 (by decide)]
    show wd &&& 0 = 0x0
    exact Nat.and_zero _
  refine ⟨by omega, ?_⟩
  rw [decode_word h24 hf hfix wf.1 hres wf.2.1 (by omega)]; rfl

theorem fsub (d : BitVec 5) (a : BitVec 5) (b : BitVec 5) (e : BitVec 1) (f : BitVec 1) (t : BitVec 4) (v : BitVec 3) : Statement (Instr.fsub d a b e f t v) := by
  intro _ wf
  have bt := t.isLt
  have bv := v.isLt
  generalize hwd : Instr.encodeNat (Instr.fsub d a b e f t v) = wd
  replace hwd : encRRR 0x41 d.toNat a.toNat b.toNat e.toNat f.toNat (t.toNat * 8 + v.toNat) = wd := hwd
  obtain ⟨h24, hh, hl, g0, g1, g2, g3, g4, g5⟩ := rrr_word hwd d.isLt a.isLt b.isLt e.isLt f.isLt (by omega)
  have hf : fieldsOf wd = some (Sum.inl (Instr.fsub d a b e f t v)) := by
    rw [fieldsOf_4 1 (by omega) (by omega)]
    show some (Sum.inl (Instr.fsub (fld wd 19) (fld wd 14) (fld wd 9) (fld wd 8) (fld wd 7) (fld wd 3) (fld wd 0))) = _
    rw [fld_eq wd 19 d g0, fld_eq wd 14 a g1, fld_eq wd 9 b g2, fld_eq wd 8 e g3, fld_eq wd 7 f g4, fld_sub wd 7 _ t 3 g5 (by decide) (by omega), fld_sub wd 7 _ v 0 g5 (by decide) (by omega)]
  have hfix : wd &&& fnFixed 0x41 = 0 := by
    show wd &&& 0 = 0
    exact Nat.and_zero _
  have hres : wd &&& reservedBits wd = reservedValue 0x41 := by
    rw [reservedBits_at _ h24 (by decide)]
    show wd &&& 0 = 0x0
    exact Nat.and_zero _
  refine ⟨by omega, ?_⟩
  rw [decode_word h24 hf hfix wf.1 hres wf.2.1 (by omega)]; rfl

theorem fmul (d : BitVec 5) (a : BitVec 5) (b : BitVec 5) (e : BitVec 1) (f : BitVec 1) (t : BitVec 4) (v : BitVec 3) : Statement (Instr.fmul d a b e f t v) := by
  intro _ wf
  have bt := t.isLt
  have bv := v.isLt
  generalize hwd : Instr.encodeNat (Instr.fmul d a b e f t v) = wd
  replace hwd : encRRR 0x42 d.toNat a.toNat b.toNat e.toNat f.toNat (t.toNat * 8 + v.toNat) = wd := hwd
  obtain ⟨h24, hh, hl, g0, g1, g2, g3, g4, g5⟩ := rrr_word hwd d.isLt a.isLt b.isLt e.isLt f.isLt (by omega)
  have hf : fieldsOf wd = some (Sum.inl (Instr.fmul d a b e f t v)) := by
    rw [fieldsOf_4 2 (by omega) (by omega)]
    show some (Sum.inl (Instr.fmul (fld wd 19) (fld wd 14) (fld wd 9) (fld wd 8) (fld wd 7) (fld wd 3) (fld wd 0))) = _
    rw [fld_eq wd 19 d g0, fld_eq wd 14 a g1, fld_eq wd 9 b g2, fld_eq wd 8 e g3, fld_eq wd 7 f g4, fld_sub wd 7 _ t 3 g5 (by decide) (by omega), fld_sub wd 7 _ v 0 g5 (by decide) (by omega)]
  have hfix : wd &&& fnFixed 0x42 = 0 := by
    show wd &&& 0 = 0
    exact Nat.and_zero _
  have hres : wd &&& reservedBits wd = reservedValue 0x42 := by
    rw [reservedBits_at _ h24 (by decide)]
    show wd &&& 0 = 0x0
    exact Nat.and_zero _
  refine ⟨by omega, ?_⟩
  rw [decode_word h24 hf hfix wf.1 hres wf.2.1 (by omega)]; rfl

theorem fdiv (d : BitVec 5) (a : BitVec 5) (b : BitVec 5) (e : BitVec 1) (f : BitVec 1) (t : BitVec 4) (v : BitVec 3) : Statement (Instr.fdiv d a b e f t v) := by
  intro _ wf
  have bt := t.isLt
  have bv := v.isLt
  generalize hwd : Instr.encodeNat (Instr.fdiv d a b e f t v) = wd
  replace hwd : encRRR 0x43 d.toNat a.toNat b.toNat e.toNat f.toNat (t.toNat * 8 + v.toNat) = wd := hwd
  obtain ⟨h24, hh, hl, g0, g1, g2, g3, g4, g5⟩ := rrr_word hwd d.isLt a.isLt b.isLt e.isLt f.isLt (by omega)
  have hf : fieldsOf wd = some (Sum.inl (Instr.fdiv d a b e f t v)) := by
    rw [fieldsOf_4 3 (by omega) (by omega)]
    show some (Sum.inl (Instr.fdiv (fld wd 19) (fld wd 14) (fld wd 9) (fld wd 8) (fld wd 7) (fld wd 3) (fld wd 0))) = _
    rw [fld_eq wd 19 d g0, fld_eq wd 14 a g1, fld_eq wd 9 b g2, fld_eq wd 8 e g3, fld_eq wd 7 f g4, fld_sub wd 7 _ t 3 g5 (by decide) (by omega), fld_sub wd 7 _ v 0 g5 (by decide) (by omega)]
  have hfix : wd &&& fnFixed 0x43 = 0 := by
    show wd &&& 0 = 0
    exact Nat.and_zero _
  have hres : wd &&& reservedBits wd = reservedValue 0x43 := by
    rw [reservedBits_at _ h24 (by decide)]
    show wd &&& 0 = 0x0
    exact Nat.and_zero _
  refine ⟨by omega, ?_⟩
  rw [decode_word h24 hf hfix wf.1 hres wf.2.1 (by omega)]; rfl

theorem fsqrt (d : BitVec 5) (a : BitVec 5) (e : BitVec 1) (t : BitVec 4) (v : BitVec 3) : Statement (Instr.fsqrt d a e t v) := by
  intro _ wf
  have bt := t.isLt
  have bv := v.isLt
  generalize hwd : Instr.encodeNat (Instr.fsqrt d a e t v) = wd
  replace hwd : encRRR 0x44 d.toNat a.toNat 0 e.toNat 0 (t.toNat * 8 + v.toNat) = wd := hwd
  obtain ⟨h24, hh, hl, g0, g1, g2, g3, g4, g5⟩ := rrr_word hwd d.isLt a.isLt (by decide) e.isLt (by decide) (by omega)
  have hf : fieldsOf wd = some (Sum.inl (Instr.fsqrt d a e t v)) := by
    rw [fieldsOf_4 4 (by omega) (by omega)]
    show some (Sum.inl (Instr.fsqrt (fld wd 19) (fld wd 14) (fld wd 8) (fld wd 3) (fld wd 0))) = _
    rw [fld_eq wd 19 d g0, fld_eq wd 14 a g1, fld_eq wd 8 e g3, fld_sub wd 7 _ t 3 g5 (by decide) (by omega), fld_sub wd 7 _ v 0 g5 (by decide) (by omega)]
  have hfix : wd &&& fnFixed 0x44 = 0 := by
    show wd &&& 0 = 0
    exact Nat.and_zero _
  have hres : wd &&& reservedBits wd = reservedValue 0x44 := by
    rw [reservedBits_at _ h24 (by decide)]
    show wd &&& (((2 ^ 1 - 1) * 2 ^ 7) ||| ((2 ^ 5 - 1) * 2 ^ 9)) = 0x0
    rw [Nat.and_or_distrib_left, land_run, land_run, g4, g2] <;> rfl
  refine ⟨by omega, ?_⟩
  rw [decode_word h24 hf hfix wf.1 hres wf.2.1 (by omega)]; rfl

theorem fmin (d : BitVec 5) (a : BitVec 5) (b : BitVec 5) (e : BitVec 1) (f : BitVec 1) (t : BitVec 4) (v : BitVec 3) : Statement (Instr.fmin d a b e f t v) := by
  intro _ wf
  have bt := t.isLt
  have bv := v.isLt
  generalize hwd : Instr.encodeNat (Instr.fmin d a b e f t v) = wd
  replace hwd : encRRR 0x45 d.toNat a.toNat b.toNat e.toNat f.toNat (t.toNat * 8 + v.toNat) = wd := hwd
  obtain ⟨h24, hh, hl, g0, g1, g2, g3, g4, g5⟩ := rrr_word hwd d.isLt a.isLt b.isLt e.isLt f.isLt (by omega)
  have hf : fieldsOf wd = some (Sum.inl (Instr.fmin d a b e f t v)) := by
    rw [fieldsOf_4 5 (by omega) (by omega)]
    show some (Sum.inl (Instr.fmin (fld wd 19) (fld wd 14) (fld wd 9) (fld wd 8) (fld wd 7) (fld wd 3) (fld wd 0))) = _
    rw [fld_eq wd 19 d g0, fld_eq wd 14 a g1, fld_eq wd 9 b g2, fld_eq wd 8 e g3, fld_eq wd 7 f g4, fld_sub wd 7 _ t 3 g5 (by decide) (by omega), fld_sub wd 7 _ v 0 g5 (by decide) (by omega)]
  have hfix : wd &&& fnFixed 0x45 = 0 := by
    show wd &&& 0 = 0
    exact Nat.and_zero _
  have hres : wd &&& reservedBits wd = reservedValue 0x45 := by
    rw [reservedBits_at _ h24 (by decide)]
    show wd &&& 0 = 0x0
    exact Nat.and_zero _
  refine ⟨by omega, ?_⟩
  rw [decode_word h24 hf hfix wf.1 hres wf.2.1 (by omega)]; rfl

theorem fmax (d : BitVec 5) (a : BitVec 5) (b : BitVec 5) (e : BitVec 1) (f : BitVec 1) (t : BitVec 4) (v : BitVec 3) : Statement (Instr.fmax d a b e f t v) := by
  intro _ wf
  have bt := t.isLt
  have bv := v.isLt
  generalize hwd : Instr.encodeNat (Instr.fmax d a b e f t v) = wd
  replace hwd : encRRR 0x46 d.toNat a.toNat b.toNat e.toNat f.toNat (t.toNat * 8 + v.toNat) = wd := hwd
  obtain ⟨h24, hh, hl, g0, g1, g2, g3, g4, g5⟩ := rrr_word hwd d.isLt a.isLt b.isLt e.isLt f.isLt (by omega)
  have hf : fieldsOf wd = some (Sum.inl (Instr.fmax d a b e f t v)) := by
    rw [fieldsOf_4 6 (by omega) (by omega)]
    show some (Sum.inl (Instr.fmax (fld wd 19) (fld wd 14) (fld wd 9) (fld wd 8) (fld wd 7) (fld wd 3) (fld wd 0))) = _
    rw [fld_eq wd 19 d g0, fld_eq wd 14 a g1, fld_eq wd 9 b g2, fld_eq wd 8 e g3, fld_eq wd 7 f g4, fld_sub wd 7 _ t 3 g5 (by decide) (by omega), fld_sub wd 7 _ v 0 g5 (by decide) (by omega)]
  have hfix : wd &&& fnFixed 0x46 = 0 := by
    show wd &&& 0 = 0
    exact Nat.and_zero _
  have hres : wd &&& reservedBits wd = reservedValue 0x46 := by
    rw [reservedBits_at _ h24 (by decide)]
    show wd &&& 0 = 0x0
    exact Nat.and_zero _
  refine ⟨by omega, ?_⟩
  rw [decode_word h24 hf hfix wf.1 hres wf.2.1 (by omega)]; rfl

theorem fma (d : BitVec 5) (a : BitVec 5) (b : BitVec 5) (c : BitVec 5) (e : BitVec 1) (t : BitVec 3) : Statement (Instr.fma d a b c e t) := by
  intro _ wf
  have bt := t.isLt
  generalize hwd : Instr.encodeNat (Instr.fma d a b c e t) = wd
  replace hwd : encRRRR 0x47 d.toNat a.toNat b.toNat c.toNat e.toNat t.toNat = wd := hwd
  obtain ⟨h24, hh, hl, g0, g1, g2, g3, g4, g5⟩ := rrrr_word hwd d.isLt a.isLt b.isLt c.isLt e.isLt t.isLt
  have hf : fieldsOf wd = some (Sum.inl (Instr.fma d a b c e t)) := by
    rw [fieldsOf_4 7 (by omega) (by omega)]
    show some (Sum.inl (Instr.fma (fld wd 19) (fld wd 14) (fld wd 9) (fld wd 4) (fld wd 3) (fld wd 0))) = _
    rw [fld_eq wd 19 d g0, fld_eq wd 14 a g1, fld_eq wd 9 b g2, fld_eq wd 4 c g3, fld_eq wd 3 e g4, fld_low wd t g5]
  have hfix : wd &&& fnFixed 0x47 = 0 := by
    show wd &&& 0 = 0
    exact Nat.and_zero _
  have hres : wd &&& reservedBits wd = reservedValue 0x47 := by
    rw [reservedBits_at _ h24 (by decide)]
    show wd &&& 0 = 0x0
    exact Nat.and_zero _
  refine ⟨by omega, ?_⟩
  rw [decode_word h24 hf hfix wf.1 hres wf.2.1 (by omega)]; rfl

theorem fnma (d : BitVec 5) (a : BitVec 5) (b : BitVec 5) (c : BitVec 5) (e : BitVec 1) (t : BitVec 3) : Statement (Instr.fnma d a b c e t) := by
  intro _ wf
  have bt := t.isLt
  generalize hwd : Instr.encodeNat (Instr.fnma d a b c e t) = wd
  replace hwd : encRRRR 0x48 d.toNat a.toNat b.toNat c.toNat e.toNat t.toNat = wd := hwd
  obtain ⟨h24, hh, hl, g0, g1, g2, g3, g4, g5⟩ := rrrr_word hwd d.isLt a.isLt b.isLt c.isLt e.isLt t.isLt
  have hf : fieldsOf wd = some (Sum.inl (Instr.fnma d a b c e t)) := by
    rw [fieldsOf_4 8 (by omega) (by omega)]
    show some (Sum.inl (Instr.fnma (fld wd 19) (fld wd 14) (fld wd 9) (fld wd 4) (fld wd 3) (fld wd 0))) = _
    rw [fld_eq wd 19 d g0, fld_eq wd 14 a g1, fld_eq wd 9 b g2, fld_eq wd 4 c g3, fld_eq wd 3 e g4, fld_low wd t g5]
  have hfix : wd &&& fnFixed 0x48 = 0 := by
    show wd &&& 0 = 0
    exact Nat.and_zero _
  have hres : wd &&& reservedBits wd = reservedValue 0x48 := by
    rw [reservedBits_at _ h24 (by decide)]
    show wd &&& 0 = 0x0
    exact Nat.and_zero _
  refine ⟨by omega, ?_⟩
  rw [decode_word h24 hf hfix wf.1 hres wf.2.1 (by omega)]; rfl

theorem fcmp (d : BitVec 5) (a : BitVec 5) (b : BitVec 5) (e : BitVec 1) (f : BitVec 1) (t : BitVec 4) (v : BitVec 3) : Statement (Instr.fcmp d a b e f t v) := by
  intro _ wf
  have bt := t.isLt
  have bv := v.isLt
  generalize hwd : Instr.encodeNat (Instr.fcmp d a b e f t v) = wd
  replace hwd : encRRR 0x49 d.toNat a.toNat b.toNat e.toNat f.toNat (t.toNat * 8 + v.toNat) = wd := hwd
  obtain ⟨h24, hh, hl, g0, g1, g2, g3, g4, g5⟩ := rrr_word hwd d.isLt a.isLt b.isLt e.isLt f.isLt (by omega)
  have hf : fieldsOf wd = some (Sum.inl (Instr.fcmp d a b e f t v)) := by
    rw [fieldsOf_4 9 (by omega) (by omega)]
    show some (Sum.inl (Instr.fcmp (fld wd 19) (fld wd 14) (fld wd 9) (fld wd 8) (fld wd 7) (fld wd 3) (fld wd 0))) = _
    rw [fld_eq wd 19 d g0, fld_eq wd 14 a g1, fld_eq wd 9 b g2, fld_eq wd 8 e g3, fld_eq wd 7 f g4, fld_sub wd 7 _ t 3 g5 (by decide) (by omega), fld_sub wd 7 _ v 0 g5 (by decide) (by omega)]
  have hfix : wd &&& fnFixed 0x49 = 0 := by
    show wd &&& 0 = 0
    exact Nat.and_zero _
  have hres : wd &&& reservedBits wd = reservedValue 0x49 := by
    rw [reservedBits_at _ h24 (by decide)]
    show wd &&& 0 = 0x0
    exact Nat.and_zero _
  refine ⟨by omega, ?_⟩
  rw [decode_word h24 hf hfix wf.1 hres wf.2.1 (by omega)]; rfl

theorem fcvt (d : BitVec 5) (a : BitVec 5) (u : BitVec 4) (e : BitVec 1) (t : BitVec 4) (v : BitVec 3) : Statement (Instr.fcvt d a u e t v) := by
  intro _ wf
  have bt := t.isLt
  have bu := u.isLt
  have bv := v.isLt
  generalize hwd : Instr.encodeNat (Instr.fcvt d a u e t v) = wd
  replace hwd : encRRR 0x4A d.toNat a.toNat u.toNat e.toNat 0 (t.toNat * 8 + v.toNat) = wd := hwd
  obtain ⟨h24, hh, hl, g0, g1, g2, g3, g4, g5⟩ := rrr_word hwd d.isLt a.isLt (by omega) e.isLt (by decide) (by omega)
  have hf : fieldsOf wd = some (Sum.inl (Instr.fcvt d a u e t v)) := by
    rw [fieldsOf_4 10 (by omega) (by omega)]
    show some (Sum.inl (Instr.fcvt (fld wd 19) (fld wd 14) (fld wd 9) (fld wd 8) (fld wd 3) (fld wd 0))) = _
    rw [fld_eq wd 19 d g0, fld_eq wd 14 a g1, fld_eq wd 9 u (by omega), fld_eq wd 8 e g3, fld_sub wd 7 _ t 3 g5 (by decide) (by omega), fld_sub wd 7 _ v 0 g5 (by decide) (by omega)]
  have hfix : wd &&& fnFixed 0x4A = 0 := by
    show wd &&& 0 = 0
    exact Nat.and_zero _
  have hres : wd &&& reservedBits wd = reservedValue 0x4A := by
    rw [reservedBits_at _ h24 (by decide)]
    show wd &&& (((2 ^ 1 - 1) * 2 ^ 7) ||| ((2 ^ 1 - 1) * 2 ^ 13)) = 0x0
    rw [Nat.and_or_distrib_left, land_run, land_run, g4, show wd / 2 ^ 13 % 2 ^ 1 = 0 by omega] <;> rfl
  refine ⟨by omega, ?_⟩
  rw [decode_word h24 hf hfix wf.1 hres wf.2.1 (by omega)]; rfl

theorem fcvti (d : BitVec 5) (a : BitVec 5) (u : BitVec 4) (e : BitVec 1) (t : BitVec 4) (v : BitVec 3) : Statement (Instr.fcvti d a u e t v) := by
  intro _ wf
  have bt := t.isLt
  have bu := u.isLt
  have bv := v.isLt
  generalize hwd : Instr.encodeNat (Instr.fcvti d a u e t v) = wd
  replace hwd : encRRR 0x4B d.toNat a.toNat u.toNat e.toNat 0 (t.toNat * 8 + v.toNat) = wd := hwd
  obtain ⟨h24, hh, hl, g0, g1, g2, g3, g4, g5⟩ := rrr_word hwd d.isLt a.isLt (by omega) e.isLt (by decide) (by omega)
  have hf : fieldsOf wd = some (Sum.inl (Instr.fcvti d a u e t v)) := by
    rw [fieldsOf_4 11 (by omega) (by omega)]
    show some (Sum.inl (Instr.fcvti (fld wd 19) (fld wd 14) (fld wd 9) (fld wd 8) (fld wd 3) (fld wd 0))) = _
    rw [fld_eq wd 19 d g0, fld_eq wd 14 a g1, fld_eq wd 9 u (by omega), fld_eq wd 8 e g3, fld_sub wd 7 _ t 3 g5 (by decide) (by omega), fld_sub wd 7 _ v 0 g5 (by decide) (by omega)]
  have hfix : wd &&& fnFixed 0x4B = 0 := by
    show wd &&& 0 = 0
    exact Nat.and_zero _
  have hres : wd &&& reservedBits wd = reservedValue 0x4B := by
    rw [reservedBits_at _ h24 (by decide)]
    show wd &&& (((2 ^ 1 - 1) * 2 ^ 7) ||| ((2 ^ 1 - 1) * 2 ^ 13)) = 0x0
    rw [Nat.and_or_distrib_left, land_run, land_run, g4, show wd / 2 ^ 13 % 2 ^ 1 = 0 by omega] <;> rfl
  refine ⟨by omega, ?_⟩
  rw [decode_word h24 hf hfix wf.1 hres wf.2.1 (by omega)]; rfl

theorem icvtf (d : BitVec 5) (a : BitVec 5) (u : BitVec 4) (e : BitVec 1) (t : BitVec 4) (v : BitVec 3) : Statement (Instr.icvtf d a u e t v) := by
  intro _ wf
  have bt := t.isLt
  have bu := u.isLt
  have bv := v.isLt
  generalize hwd : Instr.encodeNat (Instr.icvtf d a u e t v) = wd
  replace hwd : encRRR 0x4C d.toNat a.toNat u.toNat e.toNat 0 (t.toNat * 8 + v.toNat) = wd := hwd
  obtain ⟨h24, hh, hl, g0, g1, g2, g3, g4, g5⟩ := rrr_word hwd d.isLt a.isLt (by omega) e.isLt (by decide) (by omega)
  have hf : fieldsOf wd = some (Sum.inl (Instr.icvtf d a u e t v)) := by
    rw [fieldsOf_4 12 (by omega) (by omega)]
    show some (Sum.inl (Instr.icvtf (fld wd 19) (fld wd 14) (fld wd 9) (fld wd 8) (fld wd 3) (fld wd 0))) = _
    rw [fld_eq wd 19 d g0, fld_eq wd 14 a g1, fld_eq wd 9 u (by omega), fld_eq wd 8 e g3, fld_sub wd 7 _ t 3 g5 (by decide) (by omega), fld_sub wd 7 _ v 0 g5 (by decide) (by omega)]
  have hfix : wd &&& fnFixed 0x4C = 0 := by
    show wd &&& 0 = 0
    exact Nat.and_zero _
  have hres : wd &&& reservedBits wd = reservedValue 0x4C := by
    rw [reservedBits_at _ h24 (by decide)]
    show wd &&& (((2 ^ 1 - 1) * 2 ^ 7) ||| ((2 ^ 1 - 1) * 2 ^ 13)) = 0x0
    rw [Nat.and_or_distrib_left, land_run, land_run, g4, show wd / 2 ^ 13 % 2 ^ 1 = 0 by omega] <;> rfl
  refine ⟨by omega, ?_⟩
  rw [decode_word h24 hf hfix wf.1 hres wf.2.1 (by omega)]; rfl

theorem fclass (d : BitVec 5) (a : BitVec 5) (e : BitVec 1) (t : BitVec 4) : Statement (Instr.fclass d a e t) := by
  intro _ wf
  have bt := t.isLt
  generalize hwd : Instr.encodeNat (Instr.fclass d a e t) = wd
  replace hwd : encRRR 0x4D d.toNat a.toNat 0 e.toNat 0 (t.toNat * 8) = wd := hwd
  obtain ⟨h24, hh, hl, g0, g1, g2, g3, g4, g5⟩ := rrr_word hwd d.isLt a.isLt (by decide) e.isLt (by decide) (by omega)
  have hf : fieldsOf wd = some (Sum.inl (Instr.fclass d a e t)) := by
    rw [fieldsOf_4 13 (by omega) (by omega)]
    show some (Sum.inl (Instr.fclass (fld wd 19) (fld wd 14) (fld wd 8) (fld wd 3))) = _
    rw [fld_eq wd 19 d g0, fld_eq wd 14 a g1, fld_eq wd 8 e g3, fld_sub wd 7 _ t 3 g5 (by decide) (by omega)]
  have hfix : wd &&& fnFixed 0x4D = 0 := by
    show wd &&& ((2 ^ 3 - 1) * 2 ^ 0) = 0
    rw [land_run, show wd / 2 ^ 0 % 2 ^ 3 = 0 from (run_sub wd 7 _ 0 3 g5 (by decide)).trans (by omega)] <;> rfl
  have hres : wd &&& reservedBits wd = reservedValue 0x4D := by
    rw [reservedBits_at _ h24 (by decide)]
    show wd &&& (((2 ^ 1 - 1) * 2 ^ 7) ||| ((2 ^ 5 - 1) * 2 ^ 9)) = 0x0
    rw [Nat.and_or_distrib_left, land_run, land_run, g4, g2] <;> rfl
  refine ⟨by omega, ?_⟩
  rw [decode_word h24 hf hfix wf.1 hres wf.2.1 (by omega)]; rfl

theorem fexp2 (d : BitVec 5) (a : BitVec 5) (e : BitVec 1) (t : BitVec 4) (v : BitVec 3) : Statement (Instr.fexp2 d a e t v) := by
  intro _ wf
  have bt := t.isLt
  have bv := v.isLt
  generalize hwd : Instr.encodeNat (Instr.fexp2 d a e t v) = wd
  replace hwd : encRRR 0x4E d.toNat a.toNat 0 e.toNat 0 (t.toNat * 8 + v.toNat) = wd := hwd
  obtain ⟨h24, hh, hl, g0, g1, g2, g3, g4, g5⟩ := rrr_word hwd d.isLt a.isLt (by decide) e.isLt (by decide) (by omega)
  have hf : fieldsOf wd = some (Sum.inl (Instr.fexp2 d a e t v)) := by
    rw [fieldsOf_4 14 (by omega) (by omega)]
    show some (Sum.inl (Instr.fexp2 (fld wd 19) (fld wd 14) (fld wd 8) (fld wd 3) (fld wd 0))) = _
    rw [fld_eq wd 19 d g0, fld_eq wd 14 a g1, fld_eq wd 8 e g3, fld_sub wd 7 _ t 3 g5 (by decide) (by omega), fld_sub wd 7 _ v 0 g5 (by decide) (by omega)]
  have hfix : wd &&& fnFixed 0x4E = 0 := by
    show wd &&& 0 = 0
    exact Nat.and_zero _
  have hres : wd &&& reservedBits wd = reservedValue 0x4E := by
    rw [reservedBits_at _ h24 (by decide)]
    show wd &&& (((2 ^ 1 - 1) * 2 ^ 7) ||| ((2 ^ 5 - 1) * 2 ^ 9)) = 0x0
    rw [Nat.and_or_distrib_left, land_run, land_run, g4, g2] <;> rfl
  refine ⟨by omega, ?_⟩
  rw [decode_word h24 hf hfix wf.1 hres wf.2.1 (by omega)]; rfl

theorem flog2 (d : BitVec 5) (a : BitVec 5) (e : BitVec 1) (t : BitVec 4) (v : BitVec 3) : Statement (Instr.flog2 d a e t v) := by
  intro _ wf
  have bt := t.isLt
  have bv := v.isLt
  generalize hwd : Instr.encodeNat (Instr.flog2 d a e t v) = wd
  replace hwd : encRRR 0x4F d.toNat a.toNat 0 e.toNat 0 (t.toNat * 8 + v.toNat) = wd := hwd
  obtain ⟨h24, hh, hl, g0, g1, g2, g3, g4, g5⟩ := rrr_word hwd d.isLt a.isLt (by decide) e.isLt (by decide) (by omega)
  have hf : fieldsOf wd = some (Sum.inl (Instr.flog2 d a e t v)) := by
    rw [fieldsOf_4 15 (by omega) (by omega)]
    show some (Sum.inl (Instr.flog2 (fld wd 19) (fld wd 14) (fld wd 8) (fld wd 3) (fld wd 0))) = _
    rw [fld_eq wd 19 d g0, fld_eq wd 14 a g1, fld_eq wd 8 e g3, fld_sub wd 7 _ t 3 g5 (by decide) (by omega), fld_sub wd 7 _ v 0 g5 (by decide) (by omega)]
  have hfix : wd &&& fnFixed 0x4F = 0 := by
    show wd &&& 0 = 0
    exact Nat.and_zero _
  have hres : wd &&& reservedBits wd = reservedValue 0x4F := by
    rw [reservedBits_at _ h24 (by decide)]
    show wd &&& (((2 ^ 1 - 1) * 2 ^ 7) ||| ((2 ^ 5 - 1) * 2 ^ 9)) = 0x0
    rw [Nat.and_or_distrib_left, land_run, land_run, g4, g2] <;> rfl
  refine ⟨by omega, ?_⟩
  rw [decode_word h24 hf hfix wf.1 hres wf.2.1 (by omega)]; rfl

theorem jmp (o : BitVec 18) : Statement (Instr.jmp o) := by
  intro _ wf
  have bo := o.isLt
  generalize hwd : Instr.encodeNat (Instr.jmp o) = wd
  replace hwd : encBR 0x50 0 0 o.toNat = wd := hwd
  obtain ⟨h24, hh, hl, g0, g1, g2⟩ := br_word hwd (by decide) (by decide) o.isLt
  have hf : fieldsOf wd = some (Sum.inl (Instr.jmp o)) := by
    rw [fieldsOf_5 0 (by omega) (by omega)]
    show some (Sum.inl (Instr.jmp (fld wd 0))) = _
    rw [fld_low wd o g2]
  have hfix : wd &&& fnFixed 0x50 = 0 := by
    show wd &&& 0 = 0
    exact Nat.and_zero _
  have hres : wd &&& reservedBits wd = reservedValue 0x50 := by
    rw [reservedBits_at _ h24 (by decide)]
    show wd &&& (((2 ^ 1 - 1) * 2 ^ 18) ||| ((2 ^ 5 - 1) * 2 ^ 19)) = 0x0
    rw [Nat.and_or_distrib_left, land_run, land_run, g1, g0] <;> rfl
  refine ⟨by omega, ?_⟩
  rw [decode_word h24 hf hfix wf.1 hres wf.2.1 (by omega)]; rfl

theorem call (o : BitVec 18) : Statement (Instr.call o) := by
  intro _ wf
  have bo := o.isLt
  generalize hwd : Instr.encodeNat (Instr.call o) = wd
  replace hwd : encBR 0x51 0 0 o.toNat = wd := hwd
  obtain ⟨h24, hh, hl, g0, g1, g2⟩ := br_word hwd (by decide) (by decide) o.isLt
  have hf : fieldsOf wd = some (Sum.inl (Instr.call o)) := by
    rw [fieldsOf_5 1 (by omega) (by omega)]
    show some (Sum.inl (Instr.call (fld wd 0))) = _
    rw [fld_low wd o g2]
  have hfix : wd &&& fnFixed 0x51 = 0 := by
    show wd &&& 0 = 0
    exact Nat.and_zero _
  have hres : wd &&& reservedBits wd = reservedValue 0x51 := by
    rw [reservedBits_at _ h24 (by decide)]
    show wd &&& (((2 ^ 1 - 1) * 2 ^ 18) ||| ((2 ^ 5 - 1) * 2 ^ 19)) = 0x0
    rw [Nat.and_or_distrib_left, land_run, land_run, g1, g0] <;> rfl
  refine ⟨by omega, ?_⟩
  rw [decode_word h24 hf hfix wf.1 hres wf.2.1 (by omega)]; rfl

theorem beqz (a : BitVec 5) (e : BitVec 1) (o : BitVec 18) : Statement (Instr.beqz a e o) := by
  intro _ wf
  have bo := o.isLt
  generalize hwd : Instr.encodeNat (Instr.beqz a e o) = wd
  replace hwd : encBR 0x52 a.toNat e.toNat o.toNat = wd := hwd
  obtain ⟨h24, hh, hl, g0, g1, g2⟩ := br_word hwd a.isLt e.isLt o.isLt
  have hf : fieldsOf wd = some (Sum.inl (Instr.beqz a e o)) := by
    rw [fieldsOf_5 2 (by omega) (by omega)]
    show some (Sum.inl (Instr.beqz (fld wd 19) (fld wd 18) (fld wd 0))) = _
    rw [fld_eq wd 19 a g0, fld_eq wd 18 e g1, fld_low wd o g2]
  have hfix : wd &&& fnFixed 0x52 = 0 := by
    show wd &&& 0 = 0
    exact Nat.and_zero _
  have hres : wd &&& reservedBits wd = reservedValue 0x52 := by
    rw [reservedBits_at _ h24 (by decide)]
    show wd &&& 0 = 0x0
    exact Nat.and_zero _
  refine ⟨by omega, ?_⟩
  rw [decode_word h24 hf hfix wf.1 hres wf.2.1 (by omega)]; rfl

theorem bnez (a : BitVec 5) (e : BitVec 1) (o : BitVec 18) : Statement (Instr.bnez a e o) := by
  intro _ wf
  have bo := o.isLt
  generalize hwd : Instr.encodeNat (Instr.bnez a e o) = wd
  replace hwd : encBR 0x53 a.toNat e.toNat o.toNat = wd := hwd
  obtain ⟨h24, hh, hl, g0, g1, g2⟩ := br_word hwd a.isLt e.isLt o.isLt
  have hf : fieldsOf wd = some (Sum.inl (Instr.bnez a e o)) := by
    rw [fieldsOf_5 3 (by omega) (by omega)]
    show some (Sum.inl (Instr.bnez (fld wd 19) (fld wd 18) (fld wd 0))) = _
    rw [fld_eq wd 19 a g0, fld_eq wd 18 e g1, fld_low wd o g2]
  have hfix : wd &&& fnFixed 0x53 = 0 := by
    show wd &&& 0 = 0
    exact Nat.and_zero _
  have hres : wd &&& reservedBits wd = reservedValue 0x53 := by
    rw [reservedBits_at _ h24 (by decide)]
    show wd &&& 0 = 0x0
    exact Nat.and_zero _
  refine ⟨by omega, ?_⟩
  rw [decode_word h24 hf hfix wf.1 hres wf.2.1 (by omega)]; rfl

theorem bltz (a : BitVec 5) (e : BitVec 1) (o : BitVec 18) : Statement (Instr.bltz a e o) := by
  intro _ wf
  have bo := o.isLt
  generalize hwd : Instr.encodeNat (Instr.bltz a e o) = wd
  replace hwd : encBR 0x54 a.toNat e.toNat o.toNat = wd := hwd
  obtain ⟨h24, hh, hl, g0, g1, g2⟩ := br_word hwd a.isLt e.isLt o.isLt
  have hf : fieldsOf wd = some (Sum.inl (Instr.bltz a e o)) := by
    rw [fieldsOf_5 4 (by omega) (by omega)]
    show some (Sum.inl (Instr.bltz (fld wd 19) (fld wd 18) (fld wd 0))) = _
    rw [fld_eq wd 19 a g0, fld_eq wd 18 e g1, fld_low wd o g2]
  have hfix : wd &&& fnFixed 0x54 = 0 := by
    show wd &&& 0 = 0
    exact Nat.and_zero _
  have hres : wd &&& reservedBits wd = reservedValue 0x54 := by
    rw [reservedBits_at _ h24 (by decide)]
    show wd &&& 0 = 0x0
    exact Nat.and_zero _
  refine ⟨by omega, ?_⟩
  rw [decode_word h24 hf hfix wf.1 hres wf.2.1 (by omega)]; rfl

theorem bgez (a : BitVec 5) (e : BitVec 1) (o : BitVec 18) : Statement (Instr.bgez a e o) := by
  intro _ wf
  have bo := o.isLt
  generalize hwd : Instr.encodeNat (Instr.bgez a e o) = wd
  replace hwd : encBR 0x55 a.toNat e.toNat o.toNat = wd := hwd
  obtain ⟨h24, hh, hl, g0, g1, g2⟩ := br_word hwd a.isLt e.isLt o.isLt
  have hf : fieldsOf wd = some (Sum.inl (Instr.bgez a e o)) := by
    rw [fieldsOf_5 5 (by omega) (by omega)]
    show some (Sum.inl (Instr.bgez (fld wd 19) (fld wd 18) (fld wd 0))) = _
    rw [fld_eq wd 19 a g0, fld_eq wd 18 e g1, fld_low wd o g2]
  have hfix : wd &&& fnFixed 0x55 = 0 := by
    show wd &&& 0 = 0
    exact Nat.and_zero _
  have hres : wd &&& reservedBits wd = reservedValue 0x55 := by
    rw [reservedBits_at _ h24 (by decide)]
    show wd &&& 0 = 0x0
    exact Nat.and_zero _
  refine ⟨by omega, ?_⟩
  rw [decode_word h24 hf hfix wf.1 hres wf.2.1 (by omega)]; rfl

theorem bgtz (a : BitVec 5) (e : BitVec 1) (o : BitVec 18) : Statement (Instr.bgtz a e o) := by
  intro _ wf
  have bo := o.isLt
  generalize hwd : Instr.encodeNat (Instr.bgtz a e o) = wd
  replace hwd : encBR 0x56 a.toNat e.toNat o.toNat = wd := hwd
  obtain ⟨h24, hh, hl, g0, g1, g2⟩ := br_word hwd a.isLt e.isLt o.isLt
  have hf : fieldsOf wd = some (Sum.inl (Instr.bgtz a e o)) := by
    rw [fieldsOf_5 6 (by omega) (by omega)]
    show some (Sum.inl (Instr.bgtz (fld wd 19) (fld wd 18) (fld wd 0))) = _
    rw [fld_eq wd 19 a g0, fld_eq wd 18 e g1, fld_low wd o g2]
  have hfix : wd &&& fnFixed 0x56 = 0 := by
    show wd &&& 0 = 0
    exact Nat.and_zero _
  have hres : wd &&& reservedBits wd = reservedValue 0x56 := by
    rw [reservedBits_at _ h24 (by decide)]
    show wd &&& 0 = 0x0
    exact Nat.and_zero _
  refine ⟨by omega, ?_⟩
  rw [decode_word h24 hf hfix wf.1 hres wf.2.1 (by omega)]; rfl

theorem blez (a : BitVec 5) (e : BitVec 1) (o : BitVec 18) : Statement (Instr.blez a e o) := by
  intro _ wf
  have bo := o.isLt
  generalize hwd : Instr.encodeNat (Instr.blez a e o) = wd
  replace hwd : encBR 0x57 a.toNat e.toNat o.toNat = wd := hwd
  obtain ⟨h24, hh, hl, g0, g1, g2⟩ := br_word hwd a.isLt e.isLt o.isLt
  have hf : fieldsOf wd = some (Sum.inl (Instr.blez a e o)) := by
    rw [fieldsOf_5 7 (by omega) (by omega)]
    show some (Sum.inl (Instr.blez (fld wd 19) (fld wd 18) (fld wd 0))) = _
    rw [fld_eq wd 19 a g0, fld_eq wd 18 e g1, fld_low wd o g2]
  have hfix : wd &&& fnFixed 0x57 = 0 := by
    show wd &&& 0 = 0
    exact Nat.and_zero _
  have hres : wd &&& reservedBits wd = reservedValue 0x57 := by
    rw [reservedBits_at _ h24 (by decide)]
    show wd &&& 0 = 0x0
    exact Nat.and_zero _
  refine ⟨by omega, ?_⟩
  rw [decode_word h24 hf hfix wf.1 hres wf.2.1 (by omega)]; rfl

theorem bpany (a : BitVec 5) (e : BitVec 1) (o : BitVec 18) : Statement (Instr.bpany a e o) := by
  intro _ wf
  have bo := o.isLt
  generalize hwd : Instr.encodeNat (Instr.bpany a e o) = wd
  replace hwd : encBR 0x58 a.toNat e.toNat o.toNat = wd := hwd
  obtain ⟨h24, hh, hl, g0, g1, g2⟩ := br_word hwd a.isLt e.isLt o.isLt
  have hf : fieldsOf wd = some (Sum.inl (Instr.bpany a e o)) := by
    rw [fieldsOf_5 8 (by omega) (by omega)]
    show some (Sum.inl (Instr.bpany (fld wd 19) (fld wd 18) (fld wd 0))) = _
    rw [fld_eq wd 19 a g0, fld_eq wd 18 e g1, fld_low wd o g2]
  have hfix : wd &&& fnFixed 0x58 = 0 := by
    show wd &&& 0 = 0
    exact Nat.and_zero _
  have hres : wd &&& reservedBits wd = reservedValue 0x58 := by
    rw [reservedBits_at _ h24 (by decide)]
    show wd &&& 0 = 0x0
    exact Nat.and_zero _
  refine ⟨by omega, ?_⟩
  rw [decode_word h24 hf hfix wf.1 hres wf.2.1 (by omega)]; rfl

theorem bpnone (a : BitVec 5) (e : BitVec 1) (o : BitVec 18) : Statement (Instr.bpnone a e o) := by
  intro _ wf
  have bo := o.isLt
  generalize hwd : Instr.encodeNat (Instr.bpnone a e o) = wd
  replace hwd : encBR 0x59 a.toNat e.toNat o.toNat = wd := hwd
  obtain ⟨h24, hh, hl, g0, g1, g2⟩ := br_word hwd a.isLt e.isLt o.isLt
  have hf : fieldsOf wd = some (Sum.inl (Instr.bpnone a e o)) := by
    rw [fieldsOf_5 9 (by omega) (by omega)]
    show some (Sum.inl (Instr.bpnone (fld wd 19) (fld wd 18) (fld wd 0))) = _
    rw [fld_eq wd 19 a g0, fld_eq wd 18 e g1, fld_low wd o g2]
  have hfix : wd &&& fnFixed 0x59 = 0 := by
    show wd &&& 0 = 0
    exact Nat.and_zero _
  have hres : wd &&& reservedBits wd = reservedValue 0x59 := by
    rw [reservedBits_at _ h24 (by decide)]
    show wd &&& 0 = 0x0
    exact Nat.and_zero _
  refine ⟨by omega, ?_⟩
  rw [decode_word h24 hf hfix wf.1 hres wf.2.1 (by omega)]; rfl

theorem jr (a : BitVec 5) (e : BitVec 1) (i : BitVec 13) : Statement (Instr.jr a e i) := by
  intro _ wf
  have bi := i.isLt
  generalize hwd : Instr.encodeNat (Instr.jr a e i) = wd
  replace hwd : encRI 0x5A 0 a.toNat e.toNat i.toNat = wd := hwd
  obtain ⟨h24, hh, hl, g0, g1, g2, g3⟩ := ri_word hwd (by decide) a.isLt e.isLt i.isLt
  have hf : fieldsOf wd = some (Sum.inl (Instr.jr a e i)) := by
    rw [fieldsOf_5 10 (by omega) (by omega)]
    show some (Sum.inl (Instr.jr (fld wd 14) (fld wd 13) (fld wd 0))) = _
    rw [fld_eq wd 14 a g1, fld_eq wd 13 e g2, fld_low wd i g3]
  have hfix : wd &&& fnFixed 0x5A = 0 := by
    show wd &&& 0 = 0
    exact Nat.and_zero _
  have hres : wd &&& reservedBits wd = reservedValue 0x5A := by
    rw [reservedBits_at _ h24 (by decide)]
    show wd &&& ((2 ^ 5 - 1) * 2 ^ 19) = 0x0
    rw [land_run, g0] <;> rfl
  refine ⟨by omega, ?_⟩
  rw [decode_word h24 hf hfix wf.1 hres wf.2.1 (by omega)]; rfl

theorem callr (d : BitVec 5) (a : BitVec 5) (e : BitVec 1) (i : BitVec 13) : Statement (Instr.callr d a e i) := by
  intro _ wf
  have bi := i.isLt
  generalize hwd : Instr.encodeNat (Instr.callr d a e i) = wd
  replace hwd : encRI 0x5B d.toNat a.toNat e.toNat i.toNat = wd := hwd
  obtain ⟨h24, hh, hl, g0, g1, g2, g3⟩ := ri_word hwd d.isLt a.isLt e.isLt i.isLt
  have hf : fieldsOf wd = some (Sum.inl (Instr.callr d a e i)) := by
    rw [fieldsOf_5 11 (by omega) (by omega)]
    show some (Sum.inl (Instr.callr (fld wd 19) (fld wd 14) (fld wd 13) (fld wd 0))) = _
    rw [fld_eq wd 19 d g0, fld_eq wd 14 a g1, fld_eq wd 13 e g2, fld_low wd i g3]
  have hfix : wd &&& fnFixed 0x5B = 0 := by
    show wd &&& 0 = 0
    exact Nat.and_zero _
  have hres : wd &&& reservedBits wd = reservedValue 0x5B := by
    rw [reservedBits_at _ h24 (by decide)]
    show wd &&& 0 = 0x0
    exact Nat.and_zero _
  refine ⟨by omega, ?_⟩
  rw [decode_word h24 hf hfix wf.1 hres wf.2.1 (by omega)]; rfl

theorem loop (a : BitVec 5) (e : BitVec 1) (o : BitVec 18) : Statement (Instr.loop a e o) := by
  intro _ wf
  have bo := o.isLt
  generalize hwd : Instr.encodeNat (Instr.loop a e o) = wd
  replace hwd : encBR 0x5C a.toNat e.toNat o.toNat = wd := hwd
  obtain ⟨h24, hh, hl, g0, g1, g2⟩ := br_word hwd a.isLt e.isLt o.isLt
  have hf : fieldsOf wd = some (Sum.inl (Instr.loop a e o)) := by
    rw [fieldsOf_5 12 (by omega) (by omega)]
    show some (Sum.inl (Instr.loop (fld wd 19) (fld wd 18) (fld wd 0))) = _
    rw [fld_eq wd 19 a g0, fld_eq wd 18 e g1, fld_low wd o g2]
  have hfix : wd &&& fnFixed 0x5C = 0 := by
    show wd &&& 0 = 0
    exact Nat.and_zero _
  have hres : wd &&& reservedBits wd = reservedValue 0x5C := by
    rw [reservedBits_at _ h24 (by decide)]
    show wd &&& 0 = 0x0
    exact Nat.and_zero _
  refine ⟨by omega, ?_⟩
  rw [decode_word h24 hf hfix wf.1 hres wf.2.1 (by omega)]; rfl

theorem lbrk (k : BitVec 19) : Statement (Instr.lbrk k) := by
  intro _ wf
  have bk := k.isLt
  generalize hwd : Instr.encodeNat (Instr.lbrk k) = wd
  replace hwd : encWI 0x5D 0 k.toNat = wd := hwd
  obtain ⟨h24, hh, hl, g0, g1⟩ := wi_word hwd (by decide) k.isLt
  have hf : fieldsOf wd = some (Sum.inl (Instr.lbrk k)) := by
    rw [fieldsOf_5 13 (by omega) (by omega)]
    show some (Sum.inl (Instr.lbrk (fld wd 0))) = _
    rw [fld_low wd k g1]
  have hfix : wd &&& fnFixed 0x5D = 0 := by
    show wd &&& 0 = 0
    exact Nat.and_zero _
  have hres : wd &&& reservedBits wd = reservedValue 0x5D := by
    rw [reservedBits_at _ h24 (by decide)]
    show wd &&& ((2 ^ 5 - 1) * 2 ^ 19) = 0x0
    rw [land_run, g0] <;> rfl
  refine ⟨by omega, ?_⟩
  rw [decode_word h24 hf hfix wf.1 hres wf.2.1 (by omega)]; rfl

theorem lidx (d : BitVec 5) (k : BitVec 19) : Statement (Instr.lidx d k) := by
  intro _ wf
  have bk := k.isLt
  generalize hwd : Instr.encodeNat (Instr.lidx d k) = wd
  replace hwd : encWI 0x5E d.toNat k.toNat = wd := hwd
  obtain ⟨h24, hh, hl, g0, g1⟩ := wi_word hwd d.isLt k.isLt
  have hf : fieldsOf wd = some (Sum.inl (Instr.lidx d k)) := by
    rw [fieldsOf_5 14 (by omega) (by omega)]
    show some (Sum.inl (Instr.lidx (fld wd 19) (fld wd 0))) = _
    rw [fld_eq wd 19 d g0, fld_low wd k g1]
  have hfix : wd &&& fnFixed 0x5E = 0 := by
    show wd &&& 0 = 0
    exact Nat.and_zero _
  have hres : wd &&& reservedBits wd = reservedValue 0x5E := by
    rw [reservedBits_at _ h24 (by decide)]
    show wd &&& 0 = 0x0
    exact Nat.and_zero _
  refine ⟨by omega, ?_⟩
  rw [decode_word h24 hf hfix wf.1 hres wf.2.1 (by omega)]; rfl

theorem ldb (d : BitVec 5) (a : BitVec 5) (e : BitVec 1) (i : BitVec 13) : Statement (Instr.ldb d a e i) := by
  intro _ wf
  have bi := i.isLt
  generalize hwd : Instr.encodeNat (Instr.ldb d a e i) = wd
  replace hwd : encRI 0x60 d.toNat a.toNat e.toNat i.toNat = wd := hwd
  obtain ⟨h24, hh, hl, g0, g1, g2, g3⟩ := ri_word hwd d.isLt a.isLt e.isLt i.isLt
  have hf : fieldsOf wd = some (Sum.inl (Instr.ldb d a e i)) := by
    rw [fieldsOf_6 0 (by omega) (by omega)]
    show some (Sum.inl (Instr.ldb (fld wd 19) (fld wd 14) (fld wd 13) (fld wd 0))) = _
    rw [fld_eq wd 19 d g0, fld_eq wd 14 a g1, fld_eq wd 13 e g2, fld_low wd i g3]
  have hfix : wd &&& fnFixed 0x60 = 0 := by
    show wd &&& 0 = 0
    exact Nat.and_zero _
  have hres : wd &&& reservedBits wd = reservedValue 0x60 := by
    rw [reservedBits_at _ h24 (by decide)]
    show wd &&& 0 = 0x0
    exact Nat.and_zero _
  refine ⟨by omega, ?_⟩
  rw [decode_word h24 hf hfix wf.1 hres wf.2.1 (by omega)]; rfl

theorem ldbn (d : BitVec 5) (a : BitVec 5) (e : BitVec 1) (i : BitVec 13) : Statement (Instr.ldbn d a e i) := by
  intro _ wf
  have bi := i.isLt
  generalize hwd : Instr.encodeNat (Instr.ldbn d a e i) = wd
  replace hwd : encRI 0x61 d.toNat a.toNat e.toNat i.toNat = wd := hwd
  obtain ⟨h24, hh, hl, g0, g1, g2, g3⟩ := ri_word hwd d.isLt a.isLt e.isLt i.isLt
  have hf : fieldsOf wd = some (Sum.inl (Instr.ldbn d a e i)) := by
    rw [fieldsOf_6 1 (by omega) (by omega)]
    show some (Sum.inl (Instr.ldbn (fld wd 19) (fld wd 14) (fld wd 13) (fld wd 0))) = _
    rw [fld_eq wd 19 d g0, fld_eq wd 14 a g1, fld_eq wd 13 e g2, fld_low wd i g3]
  have hfix : wd &&& fnFixed 0x61 = 0 := by
    show wd &&& 0 = 0
    exact Nat.and_zero _
  have hres : wd &&& reservedBits wd = reservedValue 0x61 := by
    rw [reservedBits_at _ h24 (by decide)]
    show wd &&& 0 = 0x0
    exact Nat.and_zero _
  refine ⟨by omega, ?_⟩
  rw [decode_word h24 hf hfix wf.1 hres wf.2.1 (by omega)]; rfl

theorem ldh (d : BitVec 5) (a : BitVec 5) (e : BitVec 1) (i : BitVec 13) : Statement (Instr.ldh d a e i) := by
  intro _ wf
  have bi := i.isLt
  generalize hwd : Instr.encodeNat (Instr.ldh d a e i) = wd
  replace hwd : encRI 0x62 d.toNat a.toNat e.toNat i.toNat = wd := hwd
  obtain ⟨h24, hh, hl, g0, g1, g2, g3⟩ := ri_word hwd d.isLt a.isLt e.isLt i.isLt
  have hf : fieldsOf wd = some (Sum.inl (Instr.ldh d a e i)) := by
    rw [fieldsOf_6 2 (by omega) (by omega)]
    show some (Sum.inl (Instr.ldh (fld wd 19) (fld wd 14) (fld wd 13) (fld wd 0))) = _
    rw [fld_eq wd 19 d g0, fld_eq wd 14 a g1, fld_eq wd 13 e g2, fld_low wd i g3]
  have hfix : wd &&& fnFixed 0x62 = 0 := by
    show wd &&& 0 = 0
    exact Nat.and_zero _
  have hres : wd &&& reservedBits wd = reservedValue 0x62 := by
    rw [reservedBits_at _ h24 (by decide)]
    show wd &&& 0 = 0x0
    exact Nat.and_zero _
  refine ⟨by omega, ?_⟩
  rw [decode_word h24 hf hfix wf.1 hres wf.2.1 (by omega)]; rfl

theorem ldhn (d : BitVec 5) (a : BitVec 5) (e : BitVec 1) (i : BitVec 13) : Statement (Instr.ldhn d a e i) := by
  intro _ wf
  have bi := i.isLt
  generalize hwd : Instr.encodeNat (Instr.ldhn d a e i) = wd
  replace hwd : encRI 0x63 d.toNat a.toNat e.toNat i.toNat = wd := hwd
  obtain ⟨h24, hh, hl, g0, g1, g2, g3⟩ := ri_word hwd d.isLt a.isLt e.isLt i.isLt
  have hf : fieldsOf wd = some (Sum.inl (Instr.ldhn d a e i)) := by
    rw [fieldsOf_6 3 (by omega) (by omega)]
    show some (Sum.inl (Instr.ldhn (fld wd 19) (fld wd 14) (fld wd 13) (fld wd 0))) = _
    rw [fld_eq wd 19 d g0, fld_eq wd 14 a g1, fld_eq wd 13 e g2, fld_low wd i g3]
  have hfix : wd &&& fnFixed 0x63 = 0 := by
    show wd &&& 0 = 0
    exact Nat.and_zero _
  have hres : wd &&& reservedBits wd = reservedValue 0x63 := by
    rw [reservedBits_at _ h24 (by decide)]
    show wd &&& 0 = 0x0
    exact Nat.and_zero _
  refine ⟨by omega, ?_⟩
  rw [decode_word h24 hf hfix wf.1 hres wf.2.1 (by omega)]; rfl

theorem ldw (d : BitVec 5) (a : BitVec 5) (e : BitVec 1) (i : BitVec 13) : Statement (Instr.ldw d a e i) := by
  intro _ wf
  have bi := i.isLt
  generalize hwd : Instr.encodeNat (Instr.ldw d a e i) = wd
  replace hwd : encRI 0x64 d.toNat a.toNat e.toNat i.toNat = wd := hwd
  obtain ⟨h24, hh, hl, g0, g1, g2, g3⟩ := ri_word hwd d.isLt a.isLt e.isLt i.isLt
  have hf : fieldsOf wd = some (Sum.inl (Instr.ldw d a e i)) := by
    rw [fieldsOf_6 4 (by omega) (by omega)]
    show some (Sum.inl (Instr.ldw (fld wd 19) (fld wd 14) (fld wd 13) (fld wd 0))) = _
    rw [fld_eq wd 19 d g0, fld_eq wd 14 a g1, fld_eq wd 13 e g2, fld_low wd i g3]
  have hfix : wd &&& fnFixed 0x64 = 0 := by
    show wd &&& 0 = 0
    exact Nat.and_zero _
  have hres : wd &&& reservedBits wd = reservedValue 0x64 := by
    rw [reservedBits_at _ h24 (by decide)]
    show wd &&& 0 = 0x0
    exact Nat.and_zero _
  refine ⟨by omega, ?_⟩
  rw [decode_word h24 hf hfix wf.1 hres wf.2.1 (by omega)]; rfl

theorem ldwn (d : BitVec 5) (a : BitVec 5) (e : BitVec 1) (i : BitVec 13) : Statement (Instr.ldwn d a e i) := by
  intro _ wf
  have bi := i.isLt
  generalize hwd : Instr.encodeNat (Instr.ldwn d a e i) = wd
  replace hwd : encRI 0x65 d.toNat a.toNat e.toNat i.toNat = wd := hwd
  obtain ⟨h24, hh, hl, g0, g1, g2, g3⟩ := ri_word hwd d.isLt a.isLt e.isLt i.isLt
  have hf : fieldsOf wd = some (Sum.inl (Instr.ldwn d a e i)) := by
    rw [fieldsOf_6 5 (by omega) (by omega)]
    show some (Sum.inl (Instr.ldwn (fld wd 19) (fld wd 14) (fld wd 13) (fld wd 0))) = _
    rw [fld_eq wd 19 d g0, fld_eq wd 14 a g1, fld_eq wd 13 e g2, fld_low wd i g3]
  have hfix : wd &&& fnFixed 0x65 = 0 := by
    show wd &&& 0 = 0
    exact Nat.and_zero _
  have hres : wd &&& reservedBits wd = reservedValue 0x65 := by
    rw [reservedBits_at _ h24 (by decide)]
    show wd &&& 0 = 0x0
    exact Nat.and_zero _
  refine ⟨by omega, ?_⟩
  rw [decode_word h24 hf hfix wf.1 hres wf.2.1 (by omega)]; rfl

theorem ldd (d : BitVec 5) (a : BitVec 5) (e : BitVec 1) (i : BitVec 13) : Statement (Instr.ldd d a e i) := by
  intro _ wf
  have bi := i.isLt
  generalize hwd : Instr.encodeNat (Instr.ldd d a e i) = wd
  replace hwd : encRI 0x66 d.toNat a.toNat e.toNat i.toNat = wd := hwd
  obtain ⟨h24, hh, hl, g0, g1, g2, g3⟩ := ri_word hwd d.isLt a.isLt e.isLt i.isLt
  have hf : fieldsOf wd = some (Sum.inl (Instr.ldd d a e i)) := by
    rw [fieldsOf_6 6 (by omega) (by omega)]
    show some (Sum.inl (Instr.ldd (fld wd 19) (fld wd 14) (fld wd 13) (fld wd 0))) = _
    rw [fld_eq wd 19 d g0, fld_eq wd 14 a g1, fld_eq wd 13 e g2, fld_low wd i g3]
  have hfix : wd &&& fnFixed 0x66 = 0 := by
    show wd &&& 0 = 0
    exact Nat.and_zero _
  have hres : wd &&& reservedBits wd = reservedValue 0x66 := by
    rw [reservedBits_at _ h24 (by decide)]
    show wd &&& 0 = 0x0
    exact Nat.and_zero _
  refine ⟨by omega, ?_⟩
  rw [decode_word h24 hf hfix wf.1 hres wf.2.1 (by omega)]; rfl

theorem stb (d : BitVec 5) (a : BitVec 5) (e : BitVec 1) (i : BitVec 13) : Statement (Instr.stb d a e i) := by
  intro _ wf
  have bi := i.isLt
  generalize hwd : Instr.encodeNat (Instr.stb d a e i) = wd
  replace hwd : encRI 0x67 d.toNat a.toNat e.toNat i.toNat = wd := hwd
  obtain ⟨h24, hh, hl, g0, g1, g2, g3⟩ := ri_word hwd d.isLt a.isLt e.isLt i.isLt
  have hf : fieldsOf wd = some (Sum.inl (Instr.stb d a e i)) := by
    rw [fieldsOf_6 7 (by omega) (by omega)]
    show some (Sum.inl (Instr.stb (fld wd 19) (fld wd 14) (fld wd 13) (fld wd 0))) = _
    rw [fld_eq wd 19 d g0, fld_eq wd 14 a g1, fld_eq wd 13 e g2, fld_low wd i g3]
  have hfix : wd &&& fnFixed 0x67 = 0 := by
    show wd &&& 0 = 0
    exact Nat.and_zero _
  have hres : wd &&& reservedBits wd = reservedValue 0x67 := by
    rw [reservedBits_at _ h24 (by decide)]
    show wd &&& 0 = 0x0
    exact Nat.and_zero _
  refine ⟨by omega, ?_⟩
  rw [decode_word h24 hf hfix wf.1 hres wf.2.1 (by omega)]; rfl

theorem sth (d : BitVec 5) (a : BitVec 5) (e : BitVec 1) (i : BitVec 13) : Statement (Instr.sth d a e i) := by
  intro _ wf
  have bi := i.isLt
  generalize hwd : Instr.encodeNat (Instr.sth d a e i) = wd
  replace hwd : encRI 0x68 d.toNat a.toNat e.toNat i.toNat = wd := hwd
  obtain ⟨h24, hh, hl, g0, g1, g2, g3⟩ := ri_word hwd d.isLt a.isLt e.isLt i.isLt
  have hf : fieldsOf wd = some (Sum.inl (Instr.sth d a e i)) := by
    rw [fieldsOf_6 8 (by omega) (by omega)]
    show some (Sum.inl (Instr.sth (fld wd 19) (fld wd 14) (fld wd 13) (fld wd 0))) = _
    rw [fld_eq wd 19 d g0, fld_eq wd 14 a g1, fld_eq wd 13 e g2, fld_low wd i g3]
  have hfix : wd &&& fnFixed 0x68 = 0 := by
    show wd &&& 0 = 0
    exact Nat.and_zero _
  have hres : wd &&& reservedBits wd = reservedValue 0x68 := by
    rw [reservedBits_at _ h24 (by decide)]
    show wd &&& 0 = 0x0
    exact Nat.and_zero _
  refine ⟨by omega, ?_⟩
  rw [decode_word h24 hf hfix wf.1 hres wf.2.1 (by omega)]; rfl

theorem stw (d : BitVec 5) (a : BitVec 5) (e : BitVec 1) (i : BitVec 13) : Statement (Instr.stw d a e i) := by
  intro _ wf
  have bi := i.isLt
  generalize hwd : Instr.encodeNat (Instr.stw d a e i) = wd
  replace hwd : encRI 0x69 d.toNat a.toNat e.toNat i.toNat = wd := hwd
  obtain ⟨h24, hh, hl, g0, g1, g2, g3⟩ := ri_word hwd d.isLt a.isLt e.isLt i.isLt
  have hf : fieldsOf wd = some (Sum.inl (Instr.stw d a e i)) := by
    rw [fieldsOf_6 9 (by omega) (by omega)]
    show some (Sum.inl (Instr.stw (fld wd 19) (fld wd 14) (fld wd 13) (fld wd 0))) = _
    rw [fld_eq wd 19 d g0, fld_eq wd 14 a g1, fld_eq wd 13 e g2, fld_low wd i g3]
  have hfix : wd &&& fnFixed 0x69 = 0 := by
    show wd &&& 0 = 0
    exact Nat.and_zero _
  have hres : wd &&& reservedBits wd = reservedValue 0x69 := by
    rw [reservedBits_at _ h24 (by decide)]
    show wd &&& 0 = 0x0
    exact Nat.and_zero _
  refine ⟨by omega, ?_⟩
  rw [decode_word h24 hf hfix wf.1 hres wf.2.1 (by omega)]; rfl

theorem std (d : BitVec 5) (a : BitVec 5) (e : BitVec 1) (i : BitVec 13) : Statement (Instr.std d a e i) := by
  intro _ wf
  have bi := i.isLt
  generalize hwd : Instr.encodeNat (Instr.std d a e i) = wd
  replace hwd : encRI 0x6A d.toNat a.toNat e.toNat i.toNat = wd := hwd
  obtain ⟨h24, hh, hl, g0, g1, g2, g3⟩ := ri_word hwd d.isLt a.isLt e.isLt i.isLt
  have hf : fieldsOf wd = some (Sum.inl (Instr.std d a e i)) := by
    rw [fieldsOf_6 10 (by omega) (by omega)]
    show some (Sum.inl (Instr.std (fld wd 19) (fld wd 14) (fld wd 13) (fld wd 0))) = _
    rw [fld_eq wd 19 d g0, fld_eq wd 14 a g1, fld_eq wd 13 e g2, fld_low wd i g3]
  have hfix : wd &&& fnFixed 0x6A = 0 := by
    show wd &&& 0 = 0
    exact Nat.and_zero _
  have hres : wd &&& reservedBits wd = reservedValue 0x6A := by
    rw [reservedBits_at _ h24 (by decide)]
    show wd &&& 0 = 0x0
    exact Nat.and_zero _
  refine ⟨by omega, ?_⟩
  rw [decode_word h24 hf hfix wf.1 hres wf.2.1 (by omega)]; rfl

theorem ldo (d : BitVec 5) (a : BitVec 5) (e : BitVec 1) (c : BitVec 3) (z : BitVec 1) (s : BitVec 2) : Statement (Instr.ldo d a e c z s) := by
  intro _ wf
  have bs := s.isLt
  have bz := z.isLt
  generalize hwd : Instr.encodeNat (Instr.ldo d a e c z s) = wd
  replace hwd : encSY 0x6B d.toNat a.toNat e.toNat c.toNat 1 (z.toNat * 4 + s.toNat) = wd := hwd
  obtain ⟨h24, hh, hl, g0, g1, g2, g3, g4, g5⟩ := sy_word hwd d.isLt a.isLt e.isLt c.isLt (by omega) (by omega)
  have hf : fieldsOf wd = some (Sum.inl (Instr.ldo d a e c z s)) := by
    rw [fieldsOf_6 11 (by omega) (by omega)]
    show some (Sum.inl (Instr.ldo (fld wd 19) (fld wd 14) (fld wd 13) (fld wd 10) (fld wd 2) (fld wd 0))) = _
    rw [fld_eq wd 19 d g0, fld_eq wd 14 a g1, fld_eq wd 13 e g2, fld_eq wd 10 c g3, fld_sub wd 8 _ z 2 g5 (by decide) (by omega), fld_sub wd 8 _ s 0 g5 (by decide) (by omega)]
  have hfix : wd &&& fnFixed 0x6B = 0 := by
    show wd &&& ((2 ^ 5 - 1) * 2 ^ 3) = 0
    rw [land_run, show wd / 2 ^ 3 % 2 ^ 5 = 0 from (run_sub wd 8 _ 3 5 g5 (by decide)).trans (by omega)] <;> rfl
  have hres : wd &&& reservedBits wd = reservedValue 0x6B := by
    rw [reservedBits_at _ h24 (by decide)]
    show wd &&& ((2 ^ 2 - 1) * 2 ^ 8) = 0x100
    rw [land_run, g4] <;> rfl
  refine ⟨by omega, ?_⟩
  rw [decode_word h24 hf hfix wf.1 hres wf.2.1 (by omega)]; rfl

theorem sto (d : BitVec 5) (a : BitVec 5) (e : BitVec 1) (c : BitVec 3) (s : BitVec 2) : Statement (Instr.sto d a e c s) := by
  intro _ wf
  have bs := s.isLt
  generalize hwd : Instr.encodeNat (Instr.sto d a e c s) = wd
  replace hwd : encSY 0x6C d.toNat a.toNat e.toNat c.toNat 2 s.toNat = wd := hwd
  obtain ⟨h24, hh, hl, g0, g1, g2, g3, g4, g5⟩ := sy_word hwd d.isLt a.isLt e.isLt c.isLt (by omega) (by omega)
  have hf : fieldsOf wd = some (Sum.inl (Instr.sto d a e c s)) := by
    rw [fieldsOf_6 12 (by omega) (by omega)]
    show some (Sum.inl (Instr.sto (fld wd 19) (fld wd 14) (fld wd 13) (fld wd 10) (fld wd 0))) = _
    rw [fld_eq wd 19 d g0, fld_eq wd 14 a g1, fld_eq wd 13 e g2, fld_eq wd 10 c g3, fld_sub wd 8 _ s 0 g5 (by decide) (by omega)]
  have hfix : wd &&& fnFixed 0x6C = 0 := by
    show wd &&& ((2 ^ 6 - 1) * 2 ^ 2) = 0
    rw [land_run, show wd / 2 ^ 2 % 2 ^ 6 = 0 from (run_sub wd 8 _ 2 6 g5 (by decide)).trans (by omega)] <;> rfl
  have hres : wd &&& reservedBits wd = reservedValue 0x6C := by
    rw [reservedBits_at _ h24 (by decide)]
    show wd &&& ((2 ^ 2 - 1) * 2 ^ 8) = 0x200
    rw [land_run, g4] <;> rfl
  refine ⟨by omega, ?_⟩
  rw [decode_word h24 hf hfix wf.1 hres wf.2.1 (by omega)]; rfl

theorem sld (d : BitVec 5) (a : BitVec 5) (e : BitVec 1) (i : BitVec 13) : Statement (Instr.sld d a e i) := by
  intro _ wf
  have bi := i.isLt
  generalize hwd : Instr.encodeNat (Instr.sld d a e i) = wd
  replace hwd : encRI 0x6D d.toNat a.toNat e.toNat i.toNat = wd := hwd
  obtain ⟨h24, hh, hl, g0, g1, g2, g3⟩ := ri_word hwd d.isLt a.isLt e.isLt i.isLt
  have hf : fieldsOf wd = some (Sum.inl (Instr.sld d a e i)) := by
    rw [fieldsOf_6 13 (by omega) (by omega)]
    show some (Sum.inl (Instr.sld (fld wd 19) (fld wd 14) (fld wd 13) (fld wd 0))) = _
    rw [fld_eq wd 19 d g0, fld_eq wd 14 a g1, fld_eq wd 13 e g2, fld_low wd i g3]
  have hfix : wd &&& fnFixed 0x6D = 0 := by
    show wd &&& 0 = 0
    exact Nat.and_zero _
  have hres : wd &&& reservedBits wd = reservedValue 0x6D := by
    rw [reservedBits_at _ h24 (by decide)]
    show wd &&& 0 = 0x0
    exact Nat.and_zero _
  refine ⟨by omega, ?_⟩
  rw [decode_word h24 hf hfix wf.1 hres wf.2.1 (by omega)]; rfl

theorem sst (d : BitVec 5) (a : BitVec 5) (e : BitVec 1) (i : BitVec 13) : Statement (Instr.sst d a e i) := by
  intro _ wf
  have bi := i.isLt
  generalize hwd : Instr.encodeNat (Instr.sst d a e i) = wd
  replace hwd : encRI 0x6E d.toNat a.toNat e.toNat i.toNat = wd := hwd
  obtain ⟨h24, hh, hl, g0, g1, g2, g3⟩ := ri_word hwd d.isLt a.isLt e.isLt i.isLt
  have hf : fieldsOf wd = some (Sum.inl (Instr.sst d a e i)) := by
    rw [fieldsOf_6 14 (by omega) (by omega)]
    show some (Sum.inl (Instr.sst (fld wd 19) (fld wd 14) (fld wd 13) (fld wd 0))) = _
    rw [fld_eq wd 19 d g0, fld_eq wd 14 a g1, fld_eq wd 13 e g2, fld_low wd i g3]
  have hfix : wd &&& fnFixed 0x6E = 0 := by
    show wd &&& 0 = 0
    exact Nat.and_zero _
  have hres : wd &&& reservedBits wd = reservedValue 0x6E := by
    rw [reservedBits_at _ h24 (by decide)]
    show wd &&& 0 = 0x0
    exact Nat.and_zero _
  refine ⟨by omega, ?_⟩
  rw [decode_word h24 hf hfix wf.1 hres wf.2.1 (by omega)]; rfl

theorem pref (k : BitVec 5) (a : BitVec 5) (e : BitVec 1) (i : BitVec 13) : Statement (Instr.pref k a e i) := by
  intro _ wf
  have bi := i.isLt
  generalize hwd : Instr.encodeNat (Instr.pref k a e i) = wd
  replace hwd : encRI 0x6F k.toNat a.toNat e.toNat i.toNat = wd := hwd
  obtain ⟨h24, hh, hl, g0, g1, g2, g3⟩ := ri_word hwd k.isLt a.isLt e.isLt i.isLt
  have hf : fieldsOf wd = some (Sum.inl (Instr.pref k a e i)) := by
    rw [fieldsOf_6 15 (by omega) (by omega)]
    show some (Sum.inl (Instr.pref (fld wd 19) (fld wd 14) (fld wd 13) (fld wd 0))) = _
    rw [fld_eq wd 19 k g0, fld_eq wd 14 a g1, fld_eq wd 13 e g2, fld_low wd i g3]
  have hfix : wd &&& fnFixed 0x6F = 0 := by
    show wd &&& 0 = 0
    exact Nat.and_zero _
  have hres : wd &&& reservedBits wd = reservedValue 0x6F := by
    rw [reservedBits_at _ h24 (by decide)]
    show wd &&& 0 = 0x0
    exact Nat.and_zero _
  refine ⟨by omega, ?_⟩
  rw [decode_word h24 hf hfix wf.1 hres wf.2.1 (by omega)]; rfl

theorem vcfg (n : BitVec 3) : Statement (Instr.vcfg n) := by
  intro _ wf
  have bn := n.isLt
  generalize hwd : Instr.encodeNat (Instr.vcfg n) = wd
  replace hwd : encWI 0x70 0 n.toNat = wd := hwd
  obtain ⟨h24, hh, hl, g0, g1⟩ := wi_word hwd (by decide) (by omega)
  have hf : fieldsOf wd = some (Sum.inl (Instr.vcfg n)) := by
    rw [fieldsOf_7 0 (by omega) (by omega)]
    show some (Sum.inl (Instr.vcfg (fld wd 0))) = _
    rw [fld_sub wd 19 _ n 0 g1 (by decide) (by omega)]
  have hfix : wd &&& fnFixed 0x70 = 0 := by
    show wd &&& 0 = 0
    exact Nat.and_zero _
  have hres : wd &&& reservedBits wd = reservedValue 0x70 := by
    rw [reservedBits_at _ h24 (by decide)]
    show wd &&& (((2 ^ 16 - 1) * 2 ^ 3) ||| ((2 ^ 5 - 1) * 2 ^ 19)) = 0x0
    rw [Nat.and_or_distrib_left, land_run, land_run, show wd / 2 ^ 3 % 2 ^ 16 = 0 from (run_sub wd 19 _ 3 16 g1 (by decide)).trans (by omega), g0] <;> rfl
  refine ⟨by omega, ?_⟩
  rw [decode_word h24 hf hfix wf.1 hres wf.2.1 (by omega)]; rfl

theorem setvl (d : BitVec 5) (a : BitVec 5) (e : BitVec 1) (w : BitVec 2) : Statement (Instr.setvl d a e w) := by
  intro _ wf
  have bw := w.isLt
  generalize hwd : Instr.encodeNat (Instr.setvl d a e w) = wd
  replace hwd : encRI 0x71 d.toNat a.toNat e.toNat w.toNat = wd := hwd
  obtain ⟨h24, hh, hl, g0, g1, g2, g3⟩ := ri_word hwd d.isLt a.isLt e.isLt (by omega)
  have hf : fieldsOf wd = some (Sum.inl (Instr.setvl d a e w)) := by
    rw [fieldsOf_7 1 (by omega) (by omega)]
    show some (Sum.inl (Instr.setvl (fld wd 19) (fld wd 14) (fld wd 13) (fld wd 0))) = _
    rw [fld_eq wd 19 d g0, fld_eq wd 14 a g1, fld_eq wd 13 e g2, fld_sub wd 13 _ w 0 g3 (by decide) (by omega)]
  have hfix : wd &&& fnFixed 0x71 = 0 := by
    show wd &&& 0 = 0
    exact Nat.and_zero _
  have hres : wd &&& reservedBits wd = reservedValue 0x71 := by
    rw [reservedBits_at _ h24 (by decide)]
    show wd &&& ((2 ^ 11 - 1) * 2 ^ 2) = 0x0
    rw [land_run, show wd / 2 ^ 2 % 2 ^ 11 = 0 from (run_sub wd 13 _ 2 11 g3 (by decide)).trans (by omega)] <;> rfl
  refine ⟨by omega, ?_⟩
  rw [decode_word h24 hf hfix wf.1 hres wf.2.1 (by omega)]; rfl

theorem vadd (d : BitVec 5) (a : BitVec 5) (b : BitVec 5) (e : BitVec 1) (f : BitVec 1) (t : BitVec 4) (v : BitVec 3) : Statement (Instr.vadd d a b e f t v) := by
  intro _ wf
  have bt := t.isLt
  have bv := v.isLt
  generalize hwd : Instr.encodeNat (Instr.vadd d a b e f t v) = wd
  replace hwd : encRRR 0x72 d.toNat a.toNat b.toNat e.toNat f.toNat (t.toNat * 8 + v.toNat) = wd := hwd
  obtain ⟨h24, hh, hl, g0, g1, g2, g3, g4, g5⟩ := rrr_word hwd d.isLt a.isLt b.isLt e.isLt f.isLt (by omega)
  have hf : fieldsOf wd = some (Sum.inl (Instr.vadd d a b e f t v)) := by
    rw [fieldsOf_7 2 (by omega) (by omega)]
    show some (Sum.inl (Instr.vadd (fld wd 19) (fld wd 14) (fld wd 9) (fld wd 8) (fld wd 7) (fld wd 3) (fld wd 0))) = _
    rw [fld_eq wd 19 d g0, fld_eq wd 14 a g1, fld_eq wd 9 b g2, fld_eq wd 8 e g3, fld_eq wd 7 f g4, fld_sub wd 7 _ t 3 g5 (by decide) (by omega), fld_sub wd 7 _ v 0 g5 (by decide) (by omega)]
  have hfix : wd &&& fnFixed 0x72 = 0 := by
    show wd &&& 0 = 0
    exact Nat.and_zero _
  have hres : wd &&& reservedBits wd = reservedValue 0x72 := by
    rw [reservedBits_at _ h24 (by decide)]
    show wd &&& 0 = 0x0
    exact Nat.and_zero _
  refine ⟨by omega, ?_⟩
  rw [decode_word h24 hf hfix wf.1 hres wf.2.1 (by omega)]; rfl

theorem vsub (d : BitVec 5) (a : BitVec 5) (b : BitVec 5) (e : BitVec 1) (f : BitVec 1) (t : BitVec 4) (v : BitVec 3) : Statement (Instr.vsub d a b e f t v) := by
  intro _ wf
  have bt := t.isLt
  have bv := v.isLt
  generalize hwd : Instr.encodeNat (Instr.vsub d a b e f t v) = wd
  replace hwd : encRRR 0x73 d.toNat a.toNat b.toNat e.toNat f.toNat (t.toNat * 8 + v.toNat) = wd := hwd
  obtain ⟨h24, hh, hl, g0, g1, g2, g3, g4, g5⟩ := rrr_word hwd d.isLt a.isLt b.isLt e.isLt f.isLt (by omega)
  have hf : fieldsOf wd = some (Sum.inl (Instr.vsub d a b e f t v)) := by
    rw [fieldsOf_7 3 (by omega) (by omega)]
    show some (Sum.inl (Instr.vsub (fld wd 19) (fld wd 14) (fld wd 9) (fld wd 8) (fld wd 7) (fld wd 3) (fld wd 0))) = _
    rw [fld_eq wd 19 d g0, fld_eq wd 14 a g1, fld_eq wd 9 b g2, fld_eq wd 8 e g3, fld_eq wd 7 f g4, fld_sub wd 7 _ t 3 g5 (by decide) (by omega), fld_sub wd 7 _ v 0 g5 (by decide) (by omega)]
  have hfix : wd &&& fnFixed 0x73 = 0 := by
    show wd &&& 0 = 0
    exact Nat.and_zero _
  have hres : wd &&& reservedBits wd = reservedValue 0x73 := by
    rw [reservedBits_at _ h24 (by decide)]
    show wd &&& 0 = 0x0
    exact Nat.and_zero _
  refine ⟨by omega, ?_⟩
  rw [decode_word h24 hf hfix wf.1 hres wf.2.1 (by omega)]; rfl

theorem vmul (d : BitVec 5) (a : BitVec 5) (b : BitVec 5) (e : BitVec 1) (f : BitVec 1) (t : BitVec 4) (v : BitVec 3) : Statement (Instr.vmul d a b e f t v) := by
  intro _ wf
  have bt := t.isLt
  have bv := v.isLt
  generalize hwd : Instr.encodeNat (Instr.vmul d a b e f t v) = wd
  replace hwd : encRRR 0x74 d.toNat a.toNat b.toNat e.toNat f.toNat (t.toNat * 8 + v.toNat) = wd := hwd
  obtain ⟨h24, hh, hl, g0, g1, g2, g3, g4, g5⟩ := rrr_word hwd d.isLt a.isLt b.isLt e.isLt f.isLt (by omega)
  have hf : fieldsOf wd = some (Sum.inl (Instr.vmul d a b e f t v)) := by
    rw [fieldsOf_7 4 (by omega) (by omega)]
    show some (Sum.inl (Instr.vmul (fld wd 19) (fld wd 14) (fld wd 9) (fld wd 8) (fld wd 7) (fld wd 3) (fld wd 0))) = _
    rw [fld_eq wd 19 d g0, fld_eq wd 14 a g1, fld_eq wd 9 b g2, fld_eq wd 8 e g3, fld_eq wd 7 f g4, fld_sub wd 7 _ t 3 g5 (by decide) (by omega), fld_sub wd 7 _ v 0 g5 (by decide) (by omega)]
  have hfix : wd &&& fnFixed 0x74 = 0 := by
    show wd &&& 0 = 0
    exact Nat.and_zero _
  have hres : wd &&& reservedBits wd = reservedValue 0x74 := by
    rw [reservedBits_at _ h24 (by decide)]
    show wd &&& 0 = 0x0
    exact Nat.and_zero _
  refine ⟨by omega, ?_⟩
  rw [decode_word h24 hf hfix wf.1 hres wf.2.1 (by omega)]; rfl

theorem vmulh (d : BitVec 5) (a : BitVec 5) (b : BitVec 5) (e : BitVec 1) (f : BitVec 1) (t : BitVec 4) (v : BitVec 3) : Statement (Instr.vmulh d a b e f t v) := by
  intro _ wf
  have bt := t.isLt
  have bv := v.isLt
  generalize hwd : Instr.encodeNat (Instr.vmulh d a b e f t v) = wd
  replace hwd : encRRR 0x75 d.toNat a.toNat b.toNat e.toNat f.toNat (t.toNat * 8 + v.toNat) = wd := hwd
  obtain ⟨h24, hh, hl, g0, g1, g2, g3, g4, g5⟩ := rrr_word hwd d.isLt a.isLt b.isLt e.isLt f.isLt (by omega)
  have hf : fieldsOf wd = some (Sum.inl (Instr.vmulh d a b e f t v)) := by
    rw [fieldsOf_7 5 (by omega) (by omega)]
    show some (Sum.inl (Instr.vmulh (fld wd 19) (fld wd 14) (fld wd 9) (fld wd 8) (fld wd 7) (fld wd 3) (fld wd 0))) = _
    rw [fld_eq wd 19 d g0, fld_eq wd 14 a g1, fld_eq wd 9 b g2, fld_eq wd 8 e g3, fld_eq wd 7 f g4, fld_sub wd 7 _ t 3 g5 (by decide) (by omega), fld_sub wd 7 _ v 0 g5 (by decide) (by omega)]
  have hfix : wd &&& fnFixed 0x75 = 0 := by
    show wd &&& 0 = 0
    exact Nat.and_zero _
  have hres : wd &&& reservedBits wd = reservedValue 0x75 := by
    rw [reservedBits_at _ h24 (by decide)]
    show wd &&& 0 = 0x0
    exact Nat.and_zero _
  refine ⟨by omega, ?_⟩
  rw [decode_word h24 hf hfix wf.1 hres wf.2.1 (by omega)]; rfl

theorem vdiv (d : BitVec 5) (a : BitVec 5) (b : BitVec 5) (e : BitVec 1) (f : BitVec 1) (t : BitVec 4) (v : BitVec 3) : Statement (Instr.vdiv d a b e f t v) := by
  intro _ wf
  have bt := t.isLt
  have bv := v.isLt
  generalize hwd : Instr.encodeNat (Instr.vdiv d a b e f t v) = wd
  replace hwd : encRRR 0x76 d.toNat a.toNat b.toNat e.toNat f.toNat (t.toNat * 8 + v.toNat) = wd := hwd
  obtain ⟨h24, hh, hl, g0, g1, g2, g3, g4, g5⟩ := rrr_word hwd d.isLt a.isLt b.isLt e.isLt f.isLt (by omega)
  have hf : fieldsOf wd = some (Sum.inl (Instr.vdiv d a b e f t v)) := by
    rw [fieldsOf_7 6 (by omega) (by omega)]
    show some (Sum.inl (Instr.vdiv (fld wd 19) (fld wd 14) (fld wd 9) (fld wd 8) (fld wd 7) (fld wd 3) (fld wd 0))) = _
    rw [fld_eq wd 19 d g0, fld_eq wd 14 a g1, fld_eq wd 9 b g2, fld_eq wd 8 e g3, fld_eq wd 7 f g4, fld_sub wd 7 _ t 3 g5 (by decide) (by omega), fld_sub wd 7 _ v 0 g5 (by decide) (by omega)]
  have hfix : wd &&& fnFixed 0x76 = 0 := by
    show wd &&& 0 = 0
    exact Nat.and_zero _
  have hres : wd &&& reservedBits wd = reservedValue 0x76 := by
    rw [reservedBits_at _ h24 (by decide)]
    show wd &&& 0 = 0x0
    exact Nat.and_zero _
  refine ⟨by omega, ?_⟩
  rw [decode_word h24 hf hfix wf.1 hres wf.2.1 (by omega)]; rfl

theorem vrem (d : BitVec 5) (a : BitVec 5) (b : BitVec 5) (e : BitVec 1) (f : BitVec 1) (t : BitVec 4) (v : BitVec 3) : Statement (Instr.vrem d a b e f t v) := by
  intro _ wf
  have bt := t.isLt
  have bv := v.isLt
  generalize hwd : Instr.encodeNat (Instr.vrem d a b e f t v) = wd
  replace hwd : encRRR 0x77 d.toNat a.toNat b.toNat e.toNat f.toNat (t.toNat * 8 + v.toNat) = wd := hwd
  obtain ⟨h24, hh, hl, g0, g1, g2, g3, g4, g5⟩ := rrr_word hwd d.isLt a.isLt b.isLt e.isLt f.isLt (by omega)
  have hf : fieldsOf wd = some (Sum.inl (Instr.vrem d a b e f t v)) := by
    rw [fieldsOf_7 7 (by omega) (by omega)]
    show some (Sum.inl (Instr.vrem (fld wd 19) (fld wd 14) (fld wd 9) (fld wd 8) (fld wd 7) (fld wd 3) (fld wd 0))) = _
    rw [fld_eq wd 19 d g0, fld_eq wd 14 a g1, fld_eq wd 9 b g2, fld_eq wd 8 e g3, fld_eq wd 7 f g4, fld_sub wd 7 _ t 3 g5 (by decide) (by omega), fld_sub wd 7 _ v 0 g5 (by decide) (by omega)]
  have hfix : wd &&& fnFixed 0x77 = 0 := by
    show wd &&& 0 = 0
    exact Nat.and_zero _
  have hres : wd &&& reservedBits wd = reservedValue 0x77 := by
    rw [reservedBits_at _ h24 (by decide)]
    show wd &&& 0 = 0x0
    exact Nat.and_zero _
  refine ⟨by omega, ?_⟩
  rw [decode_word h24 hf hfix wf.1 hres wf.2.1 (by omega)]; rfl

theorem vmin (d : BitVec 5) (a : BitVec 5) (b : BitVec 5) (e : BitVec 1) (f : BitVec 1) (t : BitVec 4) (v : BitVec 3) : Statement (Instr.vmin d a b e f t v) := by
  intro _ wf
  have bt := t.isLt
  have bv := v.isLt
  generalize hwd : Instr.encodeNat (Instr.vmin d a b e f t v) = wd
  replace hwd : encRRR 0x78 d.toNat a.toNat b.toNat e.toNat f.toNat (t.toNat * 8 + v.toNat) = wd := hwd
  obtain ⟨h24, hh, hl, g0, g1, g2, g3, g4, g5⟩ := rrr_word hwd d.isLt a.isLt b.isLt e.isLt f.isLt (by omega)
  have hf : fieldsOf wd = some (Sum.inl (Instr.vmin d a b e f t v)) := by
    rw [fieldsOf_7 8 (by omega) (by omega)]
    show some (Sum.inl (Instr.vmin (fld wd 19) (fld wd 14) (fld wd 9) (fld wd 8) (fld wd 7) (fld wd 3) (fld wd 0))) = _
    rw [fld_eq wd 19 d g0, fld_eq wd 14 a g1, fld_eq wd 9 b g2, fld_eq wd 8 e g3, fld_eq wd 7 f g4, fld_sub wd 7 _ t 3 g5 (by decide) (by omega), fld_sub wd 7 _ v 0 g5 (by decide) (by omega)]
  have hfix : wd &&& fnFixed 0x78 = 0 := by
    show wd &&& 0 = 0
    exact Nat.and_zero _
  have hres : wd &&& reservedBits wd = reservedValue 0x78 := by
    rw [reservedBits_at _ h24 (by decide)]
    show wd &&& 0 = 0x0
    exact Nat.and_zero _
  refine ⟨by omega, ?_⟩
  rw [decode_word h24 hf hfix wf.1 hres wf.2.1 (by omega)]; rfl

theorem vmax (d : BitVec 5) (a : BitVec 5) (b : BitVec 5) (e : BitVec 1) (f : BitVec 1) (t : BitVec 4) (v : BitVec 3) : Statement (Instr.vmax d a b e f t v) := by
  intro _ wf
  have bt := t.isLt
  have bv := v.isLt
  generalize hwd : Instr.encodeNat (Instr.vmax d a b e f t v) = wd
  replace hwd : encRRR 0x79 d.toNat a.toNat b.toNat e.toNat f.toNat (t.toNat * 8 + v.toNat) = wd := hwd
  obtain ⟨h24, hh, hl, g0, g1, g2, g3, g4, g5⟩ := rrr_word hwd d.isLt a.isLt b.isLt e.isLt f.isLt (by omega)
  have hf : fieldsOf wd = some (Sum.inl (Instr.vmax d a b e f t v)) := by
    rw [fieldsOf_7 9 (by omega) (by omega)]
    show some (Sum.inl (Instr.vmax (fld wd 19) (fld wd 14) (fld wd 9) (fld wd 8) (fld wd 7) (fld wd 3) (fld wd 0))) = _
    rw [fld_eq wd 19 d g0, fld_eq wd 14 a g1, fld_eq wd 9 b g2, fld_eq wd 8 e g3, fld_eq wd 7 f g4, fld_sub wd 7 _ t 3 g5 (by decide) (by omega), fld_sub wd 7 _ v 0 g5 (by decide) (by omega)]
  have hfix : wd &&& fnFixed 0x79 = 0 := by
    show wd &&& 0 = 0
    exact Nat.and_zero _
  have hres : wd &&& reservedBits wd = reservedValue 0x79 := by
    rw [reservedBits_at _ h24 (by decide)]
    show wd &&& 0 = 0x0
    exact Nat.and_zero _
  refine ⟨by omega, ?_⟩
  rw [decode_word h24 hf hfix wf.1 hres wf.2.1 (by omega)]; rfl

theorem vand (d : BitVec 5) (a : BitVec 5) (b : BitVec 5) (e : BitVec 1) (f : BitVec 1) (t : BitVec 4) (v : BitVec 3) : Statement (Instr.vand d a b e f t v) := by
  intro _ wf
  have bt := t.isLt
  have bv := v.isLt
  generalize hwd : Instr.encodeNat (Instr.vand d a b e f t v) = wd
  replace hwd : encRRR 0x7A d.toNat a.toNat b.toNat e.toNat f.toNat (t.toNat * 8 + v.toNat) = wd := hwd
  obtain ⟨h24, hh, hl, g0, g1, g2, g3, g4, g5⟩ := rrr_word hwd d.isLt a.isLt b.isLt e.isLt f.isLt (by omega)
  have hf : fieldsOf wd = some (Sum.inl (Instr.vand d a b e f t v)) := by
    rw [fieldsOf_7 10 (by omega) (by omega)]
    show some (Sum.inl (Instr.vand (fld wd 19) (fld wd 14) (fld wd 9) (fld wd 8) (fld wd 7) (fld wd 3) (fld wd 0))) = _
    rw [fld_eq wd 19 d g0, fld_eq wd 14 a g1, fld_eq wd 9 b g2, fld_eq wd 8 e g3, fld_eq wd 7 f g4, fld_sub wd 7 _ t 3 g5 (by decide) (by omega), fld_sub wd 7 _ v 0 g5 (by decide) (by omega)]
  have hfix : wd &&& fnFixed 0x7A = 0 := by
    show wd &&& 0 = 0
    exact Nat.and_zero _
  have hres : wd &&& reservedBits wd = reservedValue 0x7A := by
    rw [reservedBits_at _ h24 (by decide)]
    show wd &&& 0 = 0x0
    exact Nat.and_zero _
  refine ⟨by omega, ?_⟩
  rw [decode_word h24 hf hfix wf.1 hres wf.2.1 (by omega)]; rfl

theorem vor (d : BitVec 5) (a : BitVec 5) (b : BitVec 5) (e : BitVec 1) (f : BitVec 1) (t : BitVec 4) (v : BitVec 3) : Statement (Instr.vor d a b e f t v) := by
  intro _ wf
  have bt := t.isLt
  have bv := v.isLt
  generalize hwd : Instr.encodeNat (Instr.vor d a b e f t v) = wd
  replace hwd : encRRR 0x7B d.toNat a.toNat b.toNat e.toNat f.toNat (t.toNat * 8 + v.toNat) = wd := hwd
  obtain ⟨h24, hh, hl, g0, g1, g2, g3, g4, g5⟩ := rrr_word hwd d.isLt a.isLt b.isLt e.isLt f.isLt (by omega)
  have hf : fieldsOf wd = some (Sum.inl (Instr.vor d a b e f t v)) := by
    rw [fieldsOf_7 11 (by omega) (by omega)]
    show some (Sum.inl (Instr.vor (fld wd 19) (fld wd 14) (fld wd 9) (fld wd 8) (fld wd 7) (fld wd 3) (fld wd 0))) = _
    rw [fld_eq wd 19 d g0, fld_eq wd 14 a g1, fld_eq wd 9 b g2, fld_eq wd 8 e g3, fld_eq wd 7 f g4, fld_sub wd 7 _ t 3 g5 (by decide) (by omega), fld_sub wd 7 _ v 0 g5 (by decide) (by omega)]
  have hfix : wd &&& fnFixed 0x7B = 0 := by
    show wd &&& 0 = 0
    exact Nat.and_zero _
  have hres : wd &&& reservedBits wd = reservedValue 0x7B := by
    rw [reservedBits_at _ h24 (by decide)]
    show wd &&& 0 = 0x0
    exact Nat.and_zero _
  refine ⟨by omega, ?_⟩
  rw [decode_word h24 hf hfix wf.1 hres wf.2.1 (by omega)]; rfl

theorem vxor (d : BitVec 5) (a : BitVec 5) (b : BitVec 5) (e : BitVec 1) (f : BitVec 1) (t : BitVec 4) (v : BitVec 3) : Statement (Instr.vxor d a b e f t v) := by
  intro _ wf
  have bt := t.isLt
  have bv := v.isLt
  generalize hwd : Instr.encodeNat (Instr.vxor d a b e f t v) = wd
  replace hwd : encRRR 0x7C d.toNat a.toNat b.toNat e.toNat f.toNat (t.toNat * 8 + v.toNat) = wd := hwd
  obtain ⟨h24, hh, hl, g0, g1, g2, g3, g4, g5⟩ := rrr_word hwd d.isLt a.isLt b.isLt e.isLt f.isLt (by omega)
  have hf : fieldsOf wd = some (Sum.inl (Instr.vxor d a b e f t v)) := by
    rw [fieldsOf_7 12 (by omega) (by omega)]
    show some (Sum.inl (Instr.vxor (fld wd 19) (fld wd 14) (fld wd 9) (fld wd 8) (fld wd 7) (fld wd 3) (fld wd 0))) = _
    rw [fld_eq wd 19 d g0, fld_eq wd 14 a g1, fld_eq wd 9 b g2, fld_eq wd 8 e g3, fld_eq wd 7 f g4, fld_sub wd 7 _ t 3 g5 (by decide) (by omega), fld_sub wd 7 _ v 0 g5 (by decide) (by omega)]
  have hfix : wd &&& fnFixed 0x7C = 0 := by
    show wd &&& 0 = 0
    exact Nat.and_zero _
  have hres : wd &&& reservedBits wd = reservedValue 0x7C := by
    rw [reservedBits_at _ h24 (by decide)]
    show wd &&& 0 = 0x0
    exact Nat.and_zero _
  refine ⟨by omega, ?_⟩
  rw [decode_word h24 hf hfix wf.1 hres wf.2.1 (by omega)]; rfl

theorem vshl (d : BitVec 5) (a : BitVec 5) (b : BitVec 5) (e : BitVec 1) (f : BitVec 1) (t : BitVec 4) (v : BitVec 3) : Statement (Instr.vshl d a b e f t v) := by
  intro _ wf
  have bt := t.isLt
  have bv := v.isLt
  generalize hwd : Instr.encodeNat (Instr.vshl d a b e f t v) = wd
  replace hwd : encRRR 0x7D d.toNat a.toNat b.toNat e.toNat f.toNat (t.toNat * 8 + v.toNat) = wd := hwd
  obtain ⟨h24, hh, hl, g0, g1, g2, g3, g4, g5⟩ := rrr_word hwd d.isLt a.isLt b.isLt e.isLt f.isLt (by omega)
  have hf : fieldsOf wd = some (Sum.inl (Instr.vshl d a b e f t v)) := by
    rw [fieldsOf_7 13 (by omega) (by omega)]
    show some (Sum.inl (Instr.vshl (fld wd 19) (fld wd 14) (fld wd 9) (fld wd 8) (fld wd 7) (fld wd 3) (fld wd 0))) = _
    rw [fld_eq wd 19 d g0, fld_eq wd 14 a g1, fld_eq wd 9 b g2, fld_eq wd 8 e g3, fld_eq wd 7 f g4, fld_sub wd 7 _ t 3 g5 (by decide) (by omega), fld_sub wd 7 _ v 0 g5 (by decide) (by omega)]
  have hfix : wd &&& fnFixed 0x7D = 0 := by
    show wd &&& 0 = 0
    exact Nat.and_zero _
  have hres : wd &&& reservedBits wd = reservedValue 0x7D := by
    rw [reservedBits_at _ h24 (by decide)]
    show wd &&& 0 = 0x0
    exact Nat.and_zero _
  refine ⟨by omega, ?_⟩
  rw [decode_word h24 hf hfix wf.1 hres wf.2.1 (by omega)]; rfl

theorem vshr (d : BitVec 5) (a : BitVec 5) (b : BitVec 5) (e : BitVec 1) (f : BitVec 1) (t : BitVec 4) (v : BitVec 3) : Statement (Instr.vshr d a b e f t v) := by
  intro _ wf
  have bt := t.isLt
  have bv := v.isLt
  generalize hwd : Instr.encodeNat (Instr.vshr d a b e f t v) = wd
  replace hwd : encRRR 0x7E d.toNat a.toNat b.toNat e.toNat f.toNat (t.toNat * 8 + v.toNat) = wd := hwd
  obtain ⟨h24, hh, hl, g0, g1, g2, g3, g4, g5⟩ := rrr_word hwd d.isLt a.isLt b.isLt e.isLt f.isLt (by omega)
  have hf : fieldsOf wd = some (Sum.inl (Instr.vshr d a b e f t v)) := by
    rw [fieldsOf_7 14 (by omega) (by omega)]
    show some (Sum.inl (Instr.vshr (fld wd 19) (fld wd 14) (fld wd 9) (fld wd 8) (fld wd 7) (fld wd 3) (fld wd 0))) = _
    rw [fld_eq wd 19 d g0, fld_eq wd 14 a g1, fld_eq wd 9 b g2, fld_eq wd 8 e g3, fld_eq wd 7 f g4, fld_sub wd 7 _ t 3 g5 (by decide) (by omega), fld_sub wd 7 _ v 0 g5 (by decide) (by omega)]
  have hfix : wd &&& fnFixed 0x7E = 0 := by
    show wd &&& 0 = 0
    exact Nat.and_zero _
  have hres : wd &&& reservedBits wd = reservedValue 0x7E := by
    rw [reservedBits_at _ h24 (by decide)]
    show wd &&& 0 = 0x0
    exact Nat.and_zero _
  refine ⟨by omega, ?_⟩
  rw [decode_word h24 hf hfix wf.1 hres wf.2.1 (by omega)]; rfl

theorem vrot (d : BitVec 5) (a : BitVec 5) (b : BitVec 5) (e : BitVec 1) (f : BitVec 1) (t : BitVec 4) (v : BitVec 3) : Statement (Instr.vrot d a b e f t v) := by
  intro _ wf
  have bt := t.isLt
  have bv := v.isLt
  generalize hwd : Instr.encodeNat (Instr.vrot d a b e f t v) = wd
  replace hwd : encRRR 0x7F d.toNat a.toNat b.toNat e.toNat f.toNat (t.toNat * 8 + v.toNat) = wd := hwd
  obtain ⟨h24, hh, hl, g0, g1, g2, g3, g4, g5⟩ := rrr_word hwd d.isLt a.isLt b.isLt e.isLt f.isLt (by omega)
  have hf : fieldsOf wd = some (Sum.inl (Instr.vrot d a b e f t v)) := by
    rw [fieldsOf_7 15 (by omega) (by omega)]
    show some (Sum.inl (Instr.vrot (fld wd 19) (fld wd 14) (fld wd 9) (fld wd 8) (fld wd 7) (fld wd 3) (fld wd 0))) = _
    rw [fld_eq wd 19 d g0, fld_eq wd 14 a g1, fld_eq wd 9 b g2, fld_eq wd 8 e g3, fld_eq wd 7 f g4, fld_sub wd 7 _ t 3 g5 (by decide) (by omega), fld_sub wd 7 _ v 0 g5 (by decide) (by omega)]
  have hfix : wd &&& fnFixed 0x7F = 0 := by
    show wd &&& 0 = 0
    exact Nat.and_zero _
  have hres : wd &&& reservedBits wd = reservedValue 0x7F := by
    rw [reservedBits_at _ h24 (by decide)]
    show wd &&& 0 = 0x0
    exact Nat.and_zero _
  refine ⟨by omega, ?_⟩
  rw [decode_word h24 hf hfix wf.1 hres wf.2.1 (by omega)]; rfl

theorem vfadd (d : BitVec 5) (a : BitVec 5) (b : BitVec 5) (e : BitVec 1) (f : BitVec 1) (t : BitVec 4) (v : BitVec 3) : Statement (Instr.vfadd d a b e f t v) := by
  intro _ wf
  have bt := t.isLt
  have bv := v.isLt
  generalize hwd : Instr.encodeNat (Instr.vfadd d a b e f t v) = wd
  replace hwd : encRRR 0x80 d.toNat a.toNat b.toNat e.toNat f.toNat (t.toNat * 8 + v.toNat) = wd := hwd
  obtain ⟨h24, hh, hl, g0, g1, g2, g3, g4, g5⟩ := rrr_word hwd d.isLt a.isLt b.isLt e.isLt f.isLt (by omega)
  have hf : fieldsOf wd = some (Sum.inl (Instr.vfadd d a b e f t v)) := by
    rw [fieldsOf_8 0 (by omega) (by omega)]
    show some (Sum.inl (Instr.vfadd (fld wd 19) (fld wd 14) (fld wd 9) (fld wd 8) (fld wd 7) (fld wd 3) (fld wd 0))) = _
    rw [fld_eq wd 19 d g0, fld_eq wd 14 a g1, fld_eq wd 9 b g2, fld_eq wd 8 e g3, fld_eq wd 7 f g4, fld_sub wd 7 _ t 3 g5 (by decide) (by omega), fld_sub wd 7 _ v 0 g5 (by decide) (by omega)]
  have hfix : wd &&& fnFixed 0x80 = 0 := by
    show wd &&& 0 = 0
    exact Nat.and_zero _
  have hres : wd &&& reservedBits wd = reservedValue 0x80 := by
    rw [reservedBits_at _ h24 (by decide)]
    show wd &&& 0 = 0x0
    exact Nat.and_zero _
  refine ⟨by omega, ?_⟩
  rw [decode_word h24 hf hfix wf.1 hres wf.2.1 (by omega)]; rfl

theorem vfsub (d : BitVec 5) (a : BitVec 5) (b : BitVec 5) (e : BitVec 1) (f : BitVec 1) (t : BitVec 4) (v : BitVec 3) : Statement (Instr.vfsub d a b e f t v) := by
  intro _ wf
  have bt := t.isLt
  have bv := v.isLt
  generalize hwd : Instr.encodeNat (Instr.vfsub d a b e f t v) = wd
  replace hwd : encRRR 0x81 d.toNat a.toNat b.toNat e.toNat f.toNat (t.toNat * 8 + v.toNat) = wd := hwd
  obtain ⟨h24, hh, hl, g0, g1, g2, g3, g4, g5⟩ := rrr_word hwd d.isLt a.isLt b.isLt e.isLt f.isLt (by omega)
  have hf : fieldsOf wd = some (Sum.inl (Instr.vfsub d a b e f t v)) := by
    rw [fieldsOf_8 1 (by omega) (by omega)]
    show some (Sum.inl (Instr.vfsub (fld wd 19) (fld wd 14) (fld wd 9) (fld wd 8) (fld wd 7) (fld wd 3) (fld wd 0))) = _
    rw [fld_eq wd 19 d g0, fld_eq wd 14 a g1, fld_eq wd 9 b g2, fld_eq wd 8 e g3, fld_eq wd 7 f g4, fld_sub wd 7 _ t 3 g5 (by decide) (by omega), fld_sub wd 7 _ v 0 g5 (by decide) (by omega)]
  have hfix : wd &&& fnFixed 0x81 = 0 := by
    show wd &&& 0 = 0
    exact Nat.and_zero _
  have hres : wd &&& reservedBits wd = reservedValue 0x81 := by
    rw [reservedBits_at _ h24 (by decide)]
    show wd &&& 0 = 0x0
    exact Nat.and_zero _
  refine ⟨by omega, ?_⟩
  rw [decode_word h24 hf hfix wf.1 hres wf.2.1 (by omega)]; rfl

theorem vfmul (d : BitVec 5) (a : BitVec 5) (b : BitVec 5) (e : BitVec 1) (f : BitVec 1) (t : BitVec 4) (v : BitVec 3) : Statement (Instr.vfmul d a b e f t v) := by
  intro _ wf
  have bt := t.isLt
  have bv := v.isLt
  generalize hwd : Instr.encodeNat (Instr.vfmul d a b e f t v) = wd
  replace hwd : encRRR 0x82 d.toNat a.toNat b.toNat e.toNat f.toNat (t.toNat * 8 + v.toNat) = wd := hwd
  obtain ⟨h24, hh, hl, g0, g1, g2, g3, g4, g5⟩ := rrr_word hwd d.isLt a.isLt b.isLt e.isLt f.isLt (by omega)
  have hf : fieldsOf wd = some (Sum.inl (Instr.vfmul d a b e f t v)) := by
    rw [fieldsOf_8 2 (by omega) (by omega)]
    show some (Sum.inl (Instr.vfmul (fld wd 19) (fld wd 14) (fld wd 9) (fld wd 8) (fld wd 7) (fld wd 3) (fld wd 0))) = _
    rw [fld_eq wd 19 d g0, fld_eq wd 14 a g1, fld_eq wd 9 b g2, fld_eq wd 8 e g3, fld_eq wd 7 f g4, fld_sub wd 7 _ t 3 g5 (by decide) (by omega), fld_sub wd 7 _ v 0 g5 (by decide) (by omega)]
  have hfix : wd &&& fnFixed 0x82 = 0 := by
    show wd &&& 0 = 0
    exact Nat.and_zero _
  have hres : wd &&& reservedBits wd = reservedValue 0x82 := by
    rw [reservedBits_at _ h24 (by decide)]
    show wd &&& 0 = 0x0
    exact Nat.and_zero _
  refine ⟨by omega, ?_⟩
  rw [decode_word h24 hf hfix wf.1 hres wf.2.1 (by omega)]; rfl

theorem vfdiv (d : BitVec 5) (a : BitVec 5) (b : BitVec 5) (e : BitVec 1) (f : BitVec 1) (t : BitVec 4) (v : BitVec 3) : Statement (Instr.vfdiv d a b e f t v) := by
  intro _ wf
  have bt := t.isLt
  have bv := v.isLt
  generalize hwd : Instr.encodeNat (Instr.vfdiv d a b e f t v) = wd
  replace hwd : encRRR 0x83 d.toNat a.toNat b.toNat e.toNat f.toNat (t.toNat * 8 + v.toNat) = wd := hwd
  obtain ⟨h24, hh, hl, g0, g1, g2, g3, g4, g5⟩ := rrr_word hwd d.isLt a.isLt b.isLt e.isLt f.isLt (by omega)
  have hf : fieldsOf wd = some (Sum.inl (Instr.vfdiv d a b e f t v)) := by
    rw [fieldsOf_8 3 (by omega) (by omega)]
    show some (Sum.inl (Instr.vfdiv (fld wd 19) (fld wd 14) (fld wd 9) (fld wd 8) (fld wd 7) (fld wd 3) (fld wd 0))) = _
    rw [fld_eq wd 19 d g0, fld_eq wd 14 a g1, fld_eq wd 9 b g2, fld_eq wd 8 e g3, fld_eq wd 7 f g4, fld_sub wd 7 _ t 3 g5 (by decide) (by omega), fld_sub wd 7 _ v 0 g5 (by decide) (by omega)]
  have hfix : wd &&& fnFixed 0x83 = 0 := by
    show wd &&& 0 = 0
    exact Nat.and_zero _
  have hres : wd &&& reservedBits wd = reservedValue 0x83 := by
    rw [reservedBits_at _ h24 (by decide)]
    show wd &&& 0 = 0x0
    exact Nat.and_zero _
  refine ⟨by omega, ?_⟩
  rw [decode_word h24 hf hfix wf.1 hres wf.2.1 (by omega)]; rfl

theorem vfsqrt (d : BitVec 5) (a : BitVec 5) (e : BitVec 1) (t : BitVec 4) : Statement (Instr.vfsqrt d a e t) := by
  intro _ wf
  have bt := t.isLt
  generalize hwd : Instr.encodeNat (Instr.vfsqrt d a e t) = wd
  replace hwd : encRRR 0x84 d.toNat a.toNat 0 e.toNat 0 (t.toNat * 8) = wd := hwd
  obtain ⟨h24, hh, hl, g0, g1, g2, g3, g4, g5⟩ := rrr_word hwd d.isLt a.isLt (by decide) e.isLt (by decide) (by omega)
  have hf : fieldsOf wd = some (Sum.inl (Instr.vfsqrt d a e t)) := by
    rw [fieldsOf_8 4 (by omega) (by omega)]
    show some (Sum.inl (Instr.vfsqrt (fld wd 19) (fld wd 14) (fld wd 8) (fld wd 3))) = _
    rw [fld_eq wd 19 d g0, fld_eq wd 14 a g1, fld_eq wd 8 e g3, fld_sub wd 7 _ t 3 g5 (by decide) (by omega)]
  have hfix : wd &&& fnFixed 0x84 = 0 := by
    show wd &&& ((2 ^ 3 - 1) * 2 ^ 0) = 0
    rw [land_run, show wd / 2 ^ 0 % 2 ^ 3 = 0 from (run_sub wd 7 _ 0 3 g5 (by decide)).trans (by omega)] <;> rfl
  have hres : wd &&& reservedBits wd = reservedValue 0x84 := by
    rw [reservedBits_at _ h24 (by decide)]
    show wd &&& (((2 ^ 1 - 1) * 2 ^ 7) ||| ((2 ^ 5 - 1) * 2 ^ 9)) = 0x0
    rw [Nat.and_or_distrib_left, land_run, land_run, g4, g2] <;> rfl
  refine ⟨by omega, ?_⟩
  rw [decode_word h24 hf hfix wf.1 hres wf.2.1 (by omega)]; rfl

theorem vfmin (d : BitVec 5) (a : BitVec 5) (b : BitVec 5) (e : BitVec 1) (f : BitVec 1) (t : BitVec 4) (v : BitVec 3) : Statement (Instr.vfmin d a b e f t v) := by
  intro _ wf
  have bt := t.isLt
  have bv := v.isLt
  generalize hwd : Instr.encodeNat (Instr.vfmin d a b e f t v) = wd
  replace hwd : encRRR 0x85 d.toNat a.toNat b.toNat e.toNat f.toNat (t.toNat * 8 + v.toNat) = wd := hwd
  obtain ⟨h24, hh, hl, g0, g1, g2, g3, g4, g5⟩ := rrr_word hwd d.isLt a.isLt b.isLt e.isLt f.isLt (by omega)
  have hf : fieldsOf wd = some (Sum.inl (Instr.vfmin d a b e f t v)) := by
    rw [fieldsOf_8 5 (by omega) (by omega)]
    show some (Sum.inl (Instr.vfmin (fld wd 19) (fld wd 14) (fld wd 9) (fld wd 8) (fld wd 7) (fld wd 3) (fld wd 0))) = _
    rw [fld_eq wd 19 d g0, fld_eq wd 14 a g1, fld_eq wd 9 b g2, fld_eq wd 8 e g3, fld_eq wd 7 f g4, fld_sub wd 7 _ t 3 g5 (by decide) (by omega), fld_sub wd 7 _ v 0 g5 (by decide) (by omega)]
  have hfix : wd &&& fnFixed 0x85 = 0 := by
    show wd &&& 0 = 0
    exact Nat.and_zero _
  have hres : wd &&& reservedBits wd = reservedValue 0x85 := by
    rw [reservedBits_at _ h24 (by decide)]
    show wd &&& 0 = 0x0
    exact Nat.and_zero _
  refine ⟨by omega, ?_⟩
  rw [decode_word h24 hf hfix wf.1 hres wf.2.1 (by omega)]; rfl

theorem vfmax (d : BitVec 5) (a : BitVec 5) (b : BitVec 5) (e : BitVec 1) (f : BitVec 1) (t : BitVec 4) (v : BitVec 3) : Statement (Instr.vfmax d a b e f t v) := by
  intro _ wf
  have bt := t.isLt
  have bv := v.isLt
  generalize hwd : Instr.encodeNat (Instr.vfmax d a b e f t v) = wd
  replace hwd : encRRR 0x86 d.toNat a.toNat b.toNat e.toNat f.toNat (t.toNat * 8 + v.toNat) = wd := hwd
  obtain ⟨h24, hh, hl, g0, g1, g2, g3, g4, g5⟩ := rrr_word hwd d.isLt a.isLt b.isLt e.isLt f.isLt (by omega)
  have hf : fieldsOf wd = some (Sum.inl (Instr.vfmax d a b e f t v)) := by
    rw [fieldsOf_8 6 (by omega) (by omega)]
    show some (Sum.inl (Instr.vfmax (fld wd 19) (fld wd 14) (fld wd 9) (fld wd 8) (fld wd 7) (fld wd 3) (fld wd 0))) = _
    rw [fld_eq wd 19 d g0, fld_eq wd 14 a g1, fld_eq wd 9 b g2, fld_eq wd 8 e g3, fld_eq wd 7 f g4, fld_sub wd 7 _ t 3 g5 (by decide) (by omega), fld_sub wd 7 _ v 0 g5 (by decide) (by omega)]
  have hfix : wd &&& fnFixed 0x86 = 0 := by
    show wd &&& 0 = 0
    exact Nat.and_zero _
  have hres : wd &&& reservedBits wd = reservedValue 0x86 := by
    rw [reservedBits_at _ h24 (by decide)]
    show wd &&& 0 = 0x0
    exact Nat.and_zero _
  refine ⟨by omega, ?_⟩
  rw [decode_word h24 hf hfix wf.1 hres wf.2.1 (by omega)]; rfl

theorem vfma (d : BitVec 5) (a : BitVec 5) (b : BitVec 5) (c : BitVec 5) (e : BitVec 1) (t : BitVec 3) : Statement (Instr.vfma d a b c e t) := by
  intro _ wf
  have bt := t.isLt
  generalize hwd : Instr.encodeNat (Instr.vfma d a b c e t) = wd
  replace hwd : encRRRR 0x87 d.toNat a.toNat b.toNat c.toNat e.toNat t.toNat = wd := hwd
  obtain ⟨h24, hh, hl, g0, g1, g2, g3, g4, g5⟩ := rrrr_word hwd d.isLt a.isLt b.isLt c.isLt e.isLt t.isLt
  have hf : fieldsOf wd = some (Sum.inl (Instr.vfma d a b c e t)) := by
    rw [fieldsOf_8 7 (by omega) (by omega)]
    show some (Sum.inl (Instr.vfma (fld wd 19) (fld wd 14) (fld wd 9) (fld wd 4) (fld wd 3) (fld wd 0))) = _
    rw [fld_eq wd 19 d g0, fld_eq wd 14 a g1, fld_eq wd 9 b g2, fld_eq wd 4 c g3, fld_eq wd 3 e g4, fld_low wd t g5]
  have hfix : wd &&& fnFixed 0x87 = 0 := by
    show wd &&& 0 = 0
    exact Nat.and_zero _
  have hres : wd &&& reservedBits wd = reservedValue 0x87 := by
    rw [reservedBits_at _ h24 (by decide)]
    show wd &&& 0 = 0x0
    exact Nat.and_zero _
  refine ⟨by omega, ?_⟩
  rw [decode_word h24 hf hfix wf.1 hres wf.2.1 (by omega)]; rfl

theorem vfnma (d : BitVec 5) (a : BitVec 5) (b : BitVec 5) (c : BitVec 5) (e : BitVec 1) (t : BitVec 3) : Statement (Instr.vfnma d a b c e t) := by
  intro _ wf
  have bt := t.isLt
  generalize hwd : Instr.encodeNat (Instr.vfnma d a b c e t) = wd
  replace hwd : encRRRR 0x88 d.toNat a.toNat b.toNat c.toNat e.toNat t.toNat = wd := hwd
  obtain ⟨h24, hh, hl, g0, g1, g2, g3, g4, g5⟩ := rrrr_word hwd d.isLt a.isLt b.isLt c.isLt e.isLt t.isLt
  have hf : fieldsOf wd = some (Sum.inl (Instr.vfnma d a b c e t)) := by
    rw [fieldsOf_8 8 (by omega) (by omega)]
    show some (Sum.inl (Instr.vfnma (fld wd 19) (fld wd 14) (fld wd 9) (fld wd 4) (fld wd 3) (fld wd 0))) = _
    rw [fld_eq wd 19 d g0, fld_eq wd 14 a g1, fld_eq wd 9 b g2, fld_eq wd 4 c g3, fld_eq wd 3 e g4, fld_low wd t g5]
  have hfix : wd &&& fnFixed 0x88 = 0 := by
    show wd &&& 0 = 0
    exact Nat.and_zero _
  have hres : wd &&& reservedBits wd = reservedValue 0x88 := by
    rw [reservedBits_at _ h24 (by decide)]
    show wd &&& 0 = 0x0
    exact Nat.and_zero _
  refine ⟨by omega, ?_⟩
  rw [decode_word h24 hf hfix wf.1 hres wf.2.1 (by omega)]; rfl

theorem vfexp2 (d : BitVec 5) (a : BitVec 5) (e : BitVec 1) (t : BitVec 4) : Statement (Instr.vfexp2 d a e t) := by
  intro _ wf
  have bt := t.isLt
  generalize hwd : Instr.encodeNat (Instr.vfexp2 d a e t) = wd
  replace hwd : encRRR 0x89 d.toNat a.toNat 0 e.toNat 0 (t.toNat * 8) = wd := hwd
  obtain ⟨h24, hh, hl, g0, g1, g2, g3, g4, g5⟩ := rrr_word hwd d.isLt a.isLt (by decide) e.isLt (by decide) (by omega)
  have hf : fieldsOf wd = some (Sum.inl (Instr.vfexp2 d a e t)) := by
    rw [fieldsOf_8 9 (by omega) (by omega)]
    show some (Sum.inl (Instr.vfexp2 (fld wd 19) (fld wd 14) (fld wd 8) (fld wd 3))) = _
    rw [fld_eq wd 19 d g0, fld_eq wd 14 a g1, fld_eq wd 8 e g3, fld_sub wd 7 _ t 3 g5 (by decide) (by omega)]
  have hfix : wd &&& fnFixed 0x89 = 0 := by
    show wd &&& ((2 ^ 3 - 1) * 2 ^ 0) = 0
    rw [land_run, show wd / 2 ^ 0 % 2 ^ 3 = 0 from (run_sub wd 7 _ 0 3 g5 (by decide)).trans (by omega)] <;> rfl
  have hres : wd &&& reservedBits wd = reservedValue 0x89 := by
    rw [reservedBits_at _ h24 (by decide)]
    show wd &&& (((2 ^ 1 - 1) * 2 ^ 7) ||| ((2 ^ 5 - 1) * 2 ^ 9)) = 0x0
    rw [Nat.and_or_distrib_left, land_run, land_run, g4, g2] <;> rfl
  refine ⟨by omega, ?_⟩
  rw [decode_word h24 hf hfix wf.1 hres wf.2.1 (by omega)]; rfl

theorem vflog2 (d : BitVec 5) (a : BitVec 5) (e : BitVec 1) (t : BitVec 4) : Statement (Instr.vflog2 d a e t) := by
  intro _ wf
  have bt := t.isLt
  generalize hwd : Instr.encodeNat (Instr.vflog2 d a e t) = wd
  replace hwd : encRRR 0x8A d.toNat a.toNat 0 e.toNat 0 (t.toNat * 8) = wd := hwd
  obtain ⟨h24, hh, hl, g0, g1, g2, g3, g4, g5⟩ := rrr_word hwd d.isLt a.isLt (by decide) e.isLt (by decide) (by omega)
  have hf : fieldsOf wd = some (Sum.inl (Instr.vflog2 d a e t)) := by
    rw [fieldsOf_8 10 (by omega) (by omega)]
    show some (Sum.inl (Instr.vflog2 (fld wd 19) (fld wd 14) (fld wd 8) (fld wd 3))) = _
    rw [fld_eq wd 19 d g0, fld_eq wd 14 a g1, fld_eq wd 8 e g3, fld_sub wd 7 _ t 3 g5 (by decide) (by omega)]
  have hfix : wd &&& fnFixed 0x8A = 0 := by
    show wd &&& ((2 ^ 3 - 1) * 2 ^ 0) = 0
    rw [land_run, show wd / 2 ^ 0 % 2 ^ 3 = 0 from (run_sub wd 7 _ 0 3 g5 (by decide)).trans (by omega)] <;> rfl
  have hres : wd &&& reservedBits wd = reservedValue 0x8A := by
    rw [reservedBits_at _ h24 (by decide)]
    show wd &&& (((2 ^ 1 - 1) * 2 ^ 7) ||| ((2 ^ 5 - 1) * 2 ^ 9)) = 0x0
    rw [Nat.and_or_distrib_left, land_run, land_run, g4, g2] <;> rfl
  refine ⟨by omega, ?_⟩
  rw [decode_word h24 hf hfix wf.1 hres wf.2.1 (by omega)]; rfl

theorem vfrcp (d : BitVec 5) (a : BitVec 5) (e : BitVec 1) (t : BitVec 4) : Statement (Instr.vfrcp d a e t) := by
  intro _ wf
  have bt := t.isLt
  generalize hwd : Instr.encodeNat (Instr.vfrcp d a e t) = wd
  replace hwd : encRRR 0x8B d.toNat a.toNat 0 e.toNat 0 (t.toNat * 8) = wd := hwd
  obtain ⟨h24, hh, hl, g0, g1, g2, g3, g4, g5⟩ := rrr_word hwd d.isLt a.isLt (by decide) e.isLt (by decide) (by omega)
  have hf : fieldsOf wd = some (Sum.inl (Instr.vfrcp d a e t)) := by
    rw [fieldsOf_8 11 (by omega) (by omega)]
    show some (Sum.inl (Instr.vfrcp (fld wd 19) (fld wd 14) (fld wd 8) (fld wd 3))) = _
    rw [fld_eq wd 19 d g0, fld_eq wd 14 a g1, fld_eq wd 8 e g3, fld_sub wd 7 _ t 3 g5 (by decide) (by omega)]
  have hfix : wd &&& fnFixed 0x8B = 0 := by
    show wd &&& ((2 ^ 3 - 1) * 2 ^ 0) = 0
    rw [land_run, show wd / 2 ^ 0 % 2 ^ 3 = 0 from (run_sub wd 7 _ 0 3 g5 (by decide)).trans (by omega)] <;> rfl
  have hres : wd &&& reservedBits wd = reservedValue 0x8B := by
    rw [reservedBits_at _ h24 (by decide)]
    show wd &&& (((2 ^ 1 - 1) * 2 ^ 7) ||| ((2 ^ 5 - 1) * 2 ^ 9)) = 0x0
    rw [Nat.and_or_distrib_left, land_run, land_run, g4, g2] <;> rfl
  refine ⟨by omega, ?_⟩
  rw [decode_word h24 hf hfix wf.1 hres wf.2.1 (by omega)]; rfl

theorem vfrsq (d : BitVec 5) (a : BitVec 5) (e : BitVec 1) (t : BitVec 4) : Statement (Instr.vfrsq d a e t) := by
  intro _ wf
  have bt := t.isLt
  generalize hwd : Instr.encodeNat (Instr.vfrsq d a e t) = wd
  replace hwd : encRRR 0x8C d.toNat a.toNat 0 e.toNat 0 (t.toNat * 8) = wd := hwd
  obtain ⟨h24, hh, hl, g0, g1, g2, g3, g4, g5⟩ := rrr_word hwd d.isLt a.isLt (by decide) e.isLt (by decide) (by omega)
  have hf : fieldsOf wd = some (Sum.inl (Instr.vfrsq d a e t)) := by
    rw [fieldsOf_8 12 (by omega) (by omega)]
    show some (Sum.inl (Instr.vfrsq (fld wd 19) (fld wd 14) (fld wd 8) (fld wd 3))) = _
    rw [fld_eq wd 19 d g0, fld_eq wd 14 a g1, fld_eq wd 8 e g3, fld_sub wd 7 _ t 3 g5 (by decide) (by omega)]
  have hfix : wd &&& fnFixed 0x8C = 0 := by
    show wd &&& ((2 ^ 3 - 1) * 2 ^ 0) = 0
    rw [land_run, show wd / 2 ^ 0 % 2 ^ 3 = 0 from (run_sub wd 7 _ 0 3 g5 (by decide)).trans (by omega)] <;> rfl
  have hres : wd &&& reservedBits wd = reservedValue 0x8C := by
    rw [reservedBits_at _ h24 (by decide)]
    show wd &&& (((2 ^ 1 - 1) * 2 ^ 7) ||| ((2 ^ 5 - 1) * 2 ^ 9)) = 0x0
    rw [Nat.and_or_distrib_left, land_run, land_run, g4, g2] <;> rfl
  refine ⟨by omega, ?_⟩
  rw [decode_word h24 hf hfix wf.1 hres wf.2.1 (by omega)]; rfl

theorem vftanh (d : BitVec 5) (a : BitVec 5) (e : BitVec 1) (t : BitVec 4) : Statement (Instr.vftanh d a e t) := by
  intro _ wf
  have bt := t.isLt
  generalize hwd : Instr.encodeNat (Instr.vftanh d a e t) = wd
  replace hwd : encRRR 0x8D d.toNat a.toNat 0 e.toNat 0 (t.toNat * 8) = wd := hwd
  obtain ⟨h24, hh, hl, g0, g1, g2, g3, g4, g5⟩ := rrr_word hwd d.isLt a.isLt (by decide) e.isLt (by decide) (by omega)
  have hf : fieldsOf wd = some (Sum.inl (Instr.vftanh d a e t)) := by
    rw [fieldsOf_8 13 (by omega) (by omega)]
    show some (Sum.inl (Instr.vftanh (fld wd 19) (fld wd 14) (fld wd 8) (fld wd 3))) = _
    rw [fld_eq wd 19 d g0, fld_eq wd 14 a g1, fld_eq wd 8 e g3, fld_sub wd 7 _ t 3 g5 (by decide) (by omega)]
  have hfix : wd &&& fnFixed 0x8D = 0 := by
    show wd &&& ((2 ^ 3 - 1) * 2 ^ 0) = 0
    rw [land_run, show wd / 2 ^ 0 % 2 ^ 3 = 0 from (run_sub wd 7 _ 0 3 g5 (by decide)).trans (by omega)] <;> rfl
  have hres : wd &&& reservedBits wd = reservedValue 0x8D := by
    rw [reservedBits_at _ h24 (by decide)]
    show wd &&& (((2 ^ 1 - 1) * 2 ^ 7) ||| ((2 ^ 5 - 1) * 2 ^ 9)) = 0x0
    rw [Nat.and_or_distrib_left, land_run, land_run, g4, g2] <;> rfl
  refine ⟨by omega, ?_⟩
  rw [decode_word h24 hf hfix wf.1 hres wf.2.1 (by omega)]; rfl

theorem vabs (d : BitVec 5) (a : BitVec 5) (e : BitVec 1) (t : BitVec 4) (v : BitVec 3) : Statement (Instr.vabs d a e t v) := by
  intro _ wf
  have bt := t.isLt
  have bv := v.isLt
  generalize hwd : Instr.encodeNat (Instr.vabs d a e t v) = wd
  replace hwd : encRRR 0x8E d.toNat a.toNat 0 e.toNat 0 (t.toNat * 8 + v.toNat) = wd := hwd
  obtain ⟨h24, hh, hl, g0, g1, g2, g3, g4, g5⟩ := rrr_word hwd d.isLt a.isLt (by decide) e.isLt (by decide) (by omega)
  have hf : fieldsOf wd = some (Sum.inl (Instr.vabs d a e t v)) := by
    rw [fieldsOf_8 14 (by omega) (by omega)]
    show some (Sum.inl (Instr.vabs (fld wd 19) (fld wd 14) (fld wd 8) (fld wd 3) (fld wd 0))) = _
    rw [fld_eq wd 19 d g0, fld_eq wd 14 a g1, fld_eq wd 8 e g3, fld_sub wd 7 _ t 3 g5 (by decide) (by omega), fld_sub wd 7 _ v 0 g5 (by decide) (by omega)]
  have hfix : wd &&& fnFixed 0x8E = 0 := by
    show wd &&& 0 = 0
    exact Nat.and_zero _
  have hres : wd &&& reservedBits wd = reservedValue 0x8E := by
    rw [reservedBits_at _ h24 (by decide)]
    show wd &&& (((2 ^ 1 - 1) * 2 ^ 7) ||| ((2 ^ 5 - 1) * 2 ^ 9)) = 0x0
    rw [Nat.and_or_distrib_left, land_run, land_run, g4, g2] <;> rfl
  refine ⟨by omega, ?_⟩
  rw [decode_word h24 hf hfix wf.1 hres wf.2.1 (by omega)]; rfl

theorem vneg (d : BitVec 5) (a : BitVec 5) (e : BitVec 1) (t : BitVec 4) (v : BitVec 3) : Statement (Instr.vneg d a e t v) := by
  intro _ wf
  have bt := t.isLt
  have bv := v.isLt
  generalize hwd : Instr.encodeNat (Instr.vneg d a e t v) = wd
  replace hwd : encRRR 0x8F d.toNat a.toNat 0 e.toNat 0 (t.toNat * 8 + v.toNat) = wd := hwd
  obtain ⟨h24, hh, hl, g0, g1, g2, g3, g4, g5⟩ := rrr_word hwd d.isLt a.isLt (by decide) e.isLt (by decide) (by omega)
  have hf : fieldsOf wd = some (Sum.inl (Instr.vneg d a e t v)) := by
    rw [fieldsOf_8 15 (by omega) (by omega)]
    show some (Sum.inl (Instr.vneg (fld wd 19) (fld wd 14) (fld wd 8) (fld wd 3) (fld wd 0))) = _
    rw [fld_eq wd 19 d g0, fld_eq wd 14 a g1, fld_eq wd 8 e g3, fld_sub wd 7 _ t 3 g5 (by decide) (by omega), fld_sub wd 7 _ v 0 g5 (by decide) (by omega)]
  have hfix : wd &&& fnFixed 0x8F = 0 := by
    show wd &&& 0 = 0
    exact Nat.and_zero _
  have hres : wd &&& reservedBits wd = reservedValue 0x8F := by
    rw [reservedBits_at _ h24 (by decide)]
    show wd &&& (((2 ^ 1 - 1) * 2 ^ 7) ||| ((2 ^ 5 - 1) * 2 ^ 9)) = 0x0
    rw [Nat.and_or_distrib_left, land_run, land_run, g4, g2] <;> rfl
  refine ⟨by omega, ?_⟩
  rw [decode_word h24 hf hfix wf.1 hres wf.2.1 (by omega)]; rfl

theorem vcmp (d : BitVec 5) (a : BitVec 5) (b : BitVec 5) (e : BitVec 1) (f : BitVec 1) (t : BitVec 4) (v : BitVec 3) : Statement (Instr.vcmp d a b e f t v) := by
  intro _ wf
  have bt := t.isLt
  have bv := v.isLt
  generalize hwd : Instr.encodeNat (Instr.vcmp d a b e f t v) = wd
  replace hwd : encRRR 0x90 d.toNat a.toNat b.toNat e.toNat f.toNat (t.toNat * 8 + v.toNat) = wd := hwd
  obtain ⟨h24, hh, hl, g0, g1, g2, g3, g4, g5⟩ := rrr_word hwd d.isLt a.isLt b.isLt e.isLt f.isLt (by omega)
  have hf : fieldsOf wd = some (Sum.inl (Instr.vcmp d a b e f t v)) := by
    rw [fieldsOf_9 0 (by omega) (by omega)]
    show some (Sum.inl (Instr.vcmp (fld wd 19) (fld wd 14) (fld wd 9) (fld wd 8) (fld wd 7) (fld wd 3) (fld wd 0))) = _
    rw [fld_eq wd 19 d g0, fld_eq wd 14 a g1, fld_eq wd 9 b g2, fld_eq wd 8 e g3, fld_eq wd 7 f g4, fld_sub wd 7 _ t 3 g5 (by decide) (by omega), fld_sub wd 7 _ v 0 g5 (by decide) (by omega)]
  have hfix : wd &&& fnFixed 0x90 = 0 := by
    show wd &&& 0 = 0
    exact Nat.and_zero _
  have hres : wd &&& reservedBits wd = reservedValue 0x90 := by
    rw [reservedBits_at _ h24 (by decide)]
    show wd &&& 0 = 0x0
    exact Nat.and_zero _
  refine ⟨by omega, ?_⟩
  rw [decode_word h24 hf hfix wf.1 hres wf.2.1 (by omega)]; rfl

theorem vcmps (d : BitVec 5) (a : BitVec 5) (b : BitVec 5) (e : BitVec 1) (f : BitVec 1) (t : BitVec 4) (v : BitVec 3) : Statement (Instr.vcmps d a b e f t v) := by
  intro _ wf
  have bt := t.isLt
  have bv := v.isLt
  generalize hwd : Instr.encodeNat (Instr.vcmps d a b e f t v) = wd
  replace hwd : encRRR 0x91 d.toNat a.toNat b.toNat e.toNat f.toNat (t.toNat * 8 + v.toNat) = wd := hwd
  obtain ⟨h24, hh, hl, g0, g1, g2, g3, g4, g5⟩ := rrr_word hwd d.isLt a.isLt b.isLt e.isLt f.isLt (by omega)
  have hf : fieldsOf wd = some (Sum.inl (Instr.vcmps d a b e f t v)) := by
    rw [fieldsOf_9 1 (by omega) (by omega)]
    show some (Sum.inl (Instr.vcmps (fld wd 19) (fld wd 14) (fld wd 9) (fld wd 8) (fld wd 7) (fld wd 3) (fld wd 0))) = _
    rw [fld_eq wd 19 d g0, fld_eq wd 14 a g1, fld_eq wd 9 b g2, fld_eq wd 8 e g3, fld_eq wd 7 f g4, fld_sub wd 7 _ t 3 g5 (by decide) (by omega), fld_sub wd 7 _ v 0 g5 (by decide) (by omega)]
  have hfix : wd &&& fnFixed 0x91 = 0 := by
    show wd &&& 0 = 0
    exact Nat.and_zero _
  have hres : wd &&& reservedBits wd = reservedValue 0x91 := by
    rw [reservedBits_at _ h24 (by decide)]
    show wd &&& 0 = 0x0
    exact Nat.and_zero _
  refine ⟨by omega, ?_⟩
  rw [decode_word h24 hf hfix wf.1 hres wf.2.1 (by omega)]; rfl

theorem vfcmp (d : BitVec 5) (a : BitVec 5) (b : BitVec 5) (e : BitVec 1) (f : BitVec 1) (t : BitVec 4) (v : BitVec 3) : Statement (Instr.vfcmp d a b e f t v) := by
  intro _ wf
  have bt := t.isLt
  have bv := v.isLt
  generalize hwd : Instr.encodeNat (Instr.vfcmp d a b e f t v) = wd
  replace hwd : encRRR 0x92 d.toNat a.toNat b.toNat e.toNat f.toNat (t.toNat * 8 + v.toNat) = wd := hwd
  obtain ⟨h24, hh, hl, g0, g1, g2, g3, g4, g5⟩ := rrr_word hwd d.isLt a.isLt b.isLt e.isLt f.isLt (by omega)
  have hf : fieldsOf wd = some (Sum.inl (Instr.vfcmp d a b e f t v)) := by
    rw [fieldsOf_9 2 (by omega) (by omega)]
    show some (Sum.inl (Instr.vfcmp (fld wd 19) (fld wd 14) (fld wd 9) (fld wd 8) (fld wd 7) (fld wd 3) (fld wd 0))) = _
    rw [fld_eq wd 19 d g0, fld_eq wd 14 a g1, fld_eq wd 9 b g2, fld_eq wd 8 e g3, fld_eq wd 7 f g4, fld_sub wd 7 _ t 3 g5 (by decide) (by omega), fld_sub wd 7 _ v 0 g5 (by decide) (by omega)]
  have hfix : wd &&& fnFixed 0x92 = 0 := by
    show wd &&& 0 = 0
    exact Nat.and_zero _
  have hres : wd &&& reservedBits wd = reservedValue 0x92 := by
    rw [reservedBits_at _ h24 (by decide)]
    show wd &&& 0 = 0x0
    exact Nat.and_zero _
  refine ⟨by omega, ?_⟩
  rw [decode_word h24 hf hfix wf.1 hres wf.2.1 (by omega)]; rfl

theorem vfcmps (d : BitVec 5) (a : BitVec 5) (b : BitVec 5) (e : BitVec 1) (f : BitVec 1) (t : BitVec 4) (v : BitVec 3) : Statement (Instr.vfcmps d a b e f t v) := by
  intro _ wf
  have bt := t.isLt
  have bv := v.isLt
  generalize hwd : Instr.encodeNat (Instr.vfcmps d a b e f t v) = wd
  replace hwd : encRRR 0x93 d.toNat a.toNat b.toNat e.toNat f.toNat (t.toNat * 8 + v.toNat) = wd := hwd
  obtain ⟨h24, hh, hl, g0, g1, g2, g3, g4, g5⟩ := rrr_word hwd d.isLt a.isLt b.isLt e.isLt f.isLt (by omega)
  have hf : fieldsOf wd = some (Sum.inl (Instr.vfcmps d a b e f t v)) := by
    rw [fieldsOf_9 3 (by omega) (by omega)]
    show some (Sum.inl (Instr.vfcmps (fld wd 19) (fld wd 14) (fld wd 9) (fld wd 8) (fld wd 7) (fld wd 3) (fld wd 0))) = _
    rw [fld_eq wd 19 d g0, fld_eq wd 14 a g1, fld_eq wd 9 b g2, fld_eq wd 8 e g3, fld_eq wd 7 f g4, fld_sub wd 7 _ t 3 g5 (by decide) (by omega), fld_sub wd 7 _ v 0 g5 (by decide) (by omega)]
  have hfix : wd &&& fnFixed 0x93 = 0 := by
    show wd &&& 0 = 0
    exact Nat.and_zero _
  have hres : wd &&& reservedBits wd = reservedValue 0x93 := by
    rw [reservedBits_at _ h24 (by decide)]
    show wd &&& 0 = 0x0
    exact Nat.and_zero _
  refine ⟨by omega, ?_⟩
  rw [decode_word h24 hf hfix wf.1 hres wf.2.1 (by omega)]; rfl

theorem pand (d : BitVec 5) (a : BitVec 5) (b : BitVec 5) (e : BitVec 1) (f : BitVec 1) : Statement (Instr.pand d a b e f) := by
  intro _ wf
  generalize hwd : Instr.encodeNat (Instr.pand d a b e f) = wd
  replace hwd : encRRR 0x94 d.toNat a.toNat b.toNat e.toNat f.toNat 0 = wd := hwd
  obtain ⟨h24, hh, hl, g0, g1, g2, g3, g4, g5⟩ := rrr_word hwd d.isLt a.isLt b.isLt e.isLt f.isLt (by decide)
  have hf : fieldsOf wd = some (Sum.inl (Instr.pand d a b e f)) := by
    rw [fieldsOf_9 4 (by omega) (by omega)]
    show some (Sum.inl (Instr.pand (fld wd 19) (fld wd 14) (fld wd 9) (fld wd 8) (fld wd 7))) = _
    rw [fld_eq wd 19 d g0, fld_eq wd 14 a g1, fld_eq wd 9 b g2, fld_eq wd 8 e g3, fld_eq wd 7 f g4]
  have hfix : wd &&& fnFixed 0x94 = 0 := by
    show wd &&& ((2 ^ 7 - 1) * 2 ^ 0) = 0
    rw [land_run, show wd / 2 ^ 0 % 2 ^ 7 = 0 from (by rw [Nat.pow_zero, Nat.div_one]; exact g5)] <;> rfl
  have hres : wd &&& reservedBits wd = reservedValue 0x94 := by
    rw [reservedBits_at _ h24 (by decide)]
    show wd &&& 0 = 0x0
    exact Nat.and_zero _
  refine ⟨by omega, ?_⟩
  rw [decode_word h24 hf hfix wf.1 hres wf.2.1 (by omega)]; rfl

theorem por (d : BitVec 5) (a : BitVec 5) (b : BitVec 5) (e : BitVec 1) (f : BitVec 1) : Statement (Instr.por d a b e f) := by
  intro _ wf
  generalize hwd : Instr.encodeNat (Instr.por d a b e f) = wd
  replace hwd : encRRR 0x95 d.toNat a.toNat b.toNat e.toNat f.toNat 0 = wd := hwd
  obtain ⟨h24, hh, hl, g0, g1, g2, g3, g4, g5⟩ := rrr_word hwd d.isLt a.isLt b.isLt e.isLt f.isLt (by decide)
  have hf : fieldsOf wd = some (Sum.inl (Instr.por d a b e f)) := by
    rw [fieldsOf_9 5 (by omega) (by omega)]
    show some (Sum.inl (Instr.por (fld wd 19) (fld wd 14) (fld wd 9) (fld wd 8) (fld wd 7))) = _
    rw [fld_eq wd 19 d g0, fld_eq wd 14 a g1, fld_eq wd 9 b g2, fld_eq wd 8 e g3, fld_eq wd 7 f g4]
  have hfix : wd &&& fnFixed 0x95 = 0 := by
    show wd &&& ((2 ^ 7 - 1) * 2 ^ 0) = 0
    rw [land_run, show wd / 2 ^ 0 % 2 ^ 7 = 0 from (by rw [Nat.pow_zero, Nat.div_one]; exact g5)] <;> rfl
  have hres : wd &&& reservedBits wd = reservedValue 0x95 := by
    rw [reservedBits_at _ h24 (by decide)]
    show wd &&& 0 = 0x0
    exact Nat.and_zero _
  refine ⟨by omega, ?_⟩
  rw [decode_word h24 hf hfix wf.1 hres wf.2.1 (by omega)]; rfl

theorem pxor (d : BitVec 5) (a : BitVec 5) (b : BitVec 5) (e : BitVec 1) (f : BitVec 1) : Statement (Instr.pxor d a b e f) := by
  intro _ wf
  generalize hwd : Instr.encodeNat (Instr.pxor d a b e f) = wd
  replace hwd : encRRR 0x96 d.toNat a.toNat b.toNat e.toNat f.toNat 0 = wd := hwd
  obtain ⟨h24, hh, hl, g0, g1, g2, g3, g4, g5⟩ := rrr_word hwd d.isLt a.isLt b.isLt e.isLt f.isLt (by decide)
  have hf : fieldsOf wd = some (Sum.inl (Instr.pxor d a b e f)) := by
    rw [fieldsOf_9 6 (by omega) (by omega)]
    show some (Sum.inl (Instr.pxor (fld wd 19) (fld wd 14) (fld wd 9) (fld wd 8) (fld wd 7))) = _
    rw [fld_eq wd 19 d g0, fld_eq wd 14 a g1, fld_eq wd 9 b g2, fld_eq wd 8 e g3, fld_eq wd 7 f g4]
  have hfix : wd &&& fnFixed 0x96 = 0 := by
    show wd &&& ((2 ^ 7 - 1) * 2 ^ 0) = 0
    rw [land_run, show wd / 2 ^ 0 % 2 ^ 7 = 0 from (by rw [Nat.pow_zero, Nat.div_one]; exact g5)] <;> rfl
  have hres : wd &&& reservedBits wd = reservedValue 0x96 := by
    rw [reservedBits_at _ h24 (by decide)]
    show wd &&& 0 = 0x0
    exact Nat.and_zero _
  refine ⟨by omega, ?_⟩
  rw [decode_word h24 hf hfix wf.1 hres wf.2.1 (by omega)]; rfl

theorem pandn (d : BitVec 5) (a : BitVec 5) (b : BitVec 5) (e : BitVec 1) (f : BitVec 1) : Statement (Instr.pandn d a b e f) := by
  intro _ wf
  generalize hwd : Instr.encodeNat (Instr.pandn d a b e f) = wd
  replace hwd : encRRR 0x97 d.toNat a.toNat b.toNat e.toNat f.toNat 0 = wd := hwd
  obtain ⟨h24, hh, hl, g0, g1, g2, g3, g4, g5⟩ := rrr_word hwd d.isLt a.isLt b.isLt e.isLt f.isLt (by decide)
  have hf : fieldsOf wd = some (Sum.inl (Instr.pandn d a b e f)) := by
    rw [fieldsOf_9 7 (by omega) (by omega)]
    show some (Sum.inl (Instr.pandn (fld wd 19) (fld wd 14) (fld wd 9) (fld wd 8) (fld wd 7))) = _
    rw [fld_eq wd 19 d g0, fld_eq wd 14 a g1, fld_eq wd 9 b g2, fld_eq wd 8 e g3, fld_eq wd 7 f g4]
  have hfix : wd &&& fnFixed 0x97 = 0 := by
    show wd &&& ((2 ^ 7 - 1) * 2 ^ 0) = 0
    rw [land_run, show wd / 2 ^ 0 % 2 ^ 7 = 0 from (by rw [Nat.pow_zero, Nat.div_one]; exact g5)] <;> rfl
  have hres : wd &&& reservedBits wd = reservedValue 0x97 := by
    rw [reservedBits_at _ h24 (by decide)]
    show wd &&& 0 = 0x0
    exact Nat.and_zero _
  refine ⟨by omega, ?_⟩
  rw [decode_word h24 hf hfix wf.1 hres wf.2.1 (by omega)]; rfl

theorem pnot (d : BitVec 5) (a : BitVec 5) (e : BitVec 1) : Statement (Instr.pnot d a e) := by
  intro _ wf
  generalize hwd : Instr.encodeNat (Instr.pnot d a e) = wd
  replace hwd : encRRR 0x98 d.toNat a.toNat 0 e.toNat 0 0 = wd := hwd
  obtain ⟨h24, hh, hl, g0, g1, g2, g3, g4, g5⟩ := rrr_word hwd d.isLt a.isLt (by decide) e.isLt (by decide) (by decide)
  have hf : fieldsOf wd = some (Sum.inl (Instr.pnot d a e)) := by
    rw [fieldsOf_9 8 (by omega) (by omega)]
    show some (Sum.inl (Instr.pnot (fld wd 19) (fld wd 14) (fld wd 8))) = _
    rw [fld_eq wd 19 d g0, fld_eq wd 14 a g1, fld_eq wd 8 e g3]
  have hfix : wd &&& fnFixed 0x98 = 0 := by
    show wd &&& ((2 ^ 7 - 1) * 2 ^ 0) = 0
    rw [land_run, show wd / 2 ^ 0 % 2 ^ 7 = 0 from (by rw [Nat.pow_zero, Nat.div_one]; exact g5)] <;> rfl
  have hres : wd &&& reservedBits wd = reservedValue 0x98 := by
    rw [reservedBits_at _ h24 (by decide)]
    show wd &&& (((2 ^ 1 - 1) * 2 ^ 7) ||| ((2 ^ 5 - 1) * 2 ^ 9)) = 0x0
    rw [Nat.and_or_distrib_left, land_run, land_run, g4, g2] <;> rfl
  refine ⟨by omega, ?_⟩
  rw [decode_word h24 hf hfix wf.1 hres wf.2.1 (by omega)]; rfl

theorem pcnt (d : BitVec 5) (a : BitVec 5) (e : BitVec 1) : Statement (Instr.pcnt d a e) := by
  intro _ wf
  generalize hwd : Instr.encodeNat (Instr.pcnt d a e) = wd
  replace hwd : encRRR 0x99 d.toNat a.toNat 0 e.toNat 0 0 = wd := hwd
  obtain ⟨h24, hh, hl, g0, g1, g2, g3, g4, g5⟩ := rrr_word hwd d.isLt a.isLt (by decide) e.isLt (by decide) (by decide)
  have hf : fieldsOf wd = some (Sum.inl (Instr.pcnt d a e)) := by
    rw [fieldsOf_9 9 (by omega) (by omega)]
    show some (Sum.inl (Instr.pcnt (fld wd 19) (fld wd 14) (fld wd 8))) = _
    rw [fld_eq wd 19 d g0, fld_eq wd 14 a g1, fld_eq wd 8 e g3]
  have hfix : wd &&& fnFixed 0x99 = 0 := by
    show wd &&& ((2 ^ 7 - 1) * 2 ^ 0) = 0
    rw [land_run, show wd / 2 ^ 0 % 2 ^ 7 = 0 from (by rw [Nat.pow_zero, Nat.div_one]; exact g5)] <;> rfl
  have hres : wd &&& reservedBits wd = reservedValue 0x99 := by
    rw [reservedBits_at _ h24 (by decide)]
    show wd &&& (((2 ^ 1 - 1) * 2 ^ 7) ||| ((2 ^ 5 - 1) * 2 ^ 9)) = 0x0
    rw [Nat.and_or_distrib_left, land_run, land_run, g4, g2] <;> rfl
  refine ⟨by omega, ?_⟩
  rw [decode_word h24 hf hfix wf.1 hres wf.2.1 (by omega)]; rfl

theorem pfirst (d : BitVec 5) (a : BitVec 5) (e : BitVec 1) : Statement (Instr.pfirst d a e) := by
  intro _ wf
  generalize hwd : Instr.encodeNat (Instr.pfirst d a e) = wd
  replace hwd : encRRR 0x9A d.toNat a.toNat 0 e.toNat 0 0 = wd := hwd
  obtain ⟨h24, hh, hl, g0, g1, g2, g3, g4, g5⟩ := rrr_word hwd d.isLt a.isLt (by decide) e.isLt (by decide) (by decide)
  have hf : fieldsOf wd = some (Sum.inl (Instr.pfirst d a e)) := by
    rw [fieldsOf_9 10 (by omega) (by omega)]
    show some (Sum.inl (Instr.pfirst (fld wd 19) (fld wd 14) (fld wd 8))) = _
    rw [fld_eq wd 19 d g0, fld_eq wd 14 a g1, fld_eq wd 8 e g3]
  have hfix : wd &&& fnFixed 0x9A = 0 := by
    show wd &&& ((2 ^ 7 - 1) * 2 ^ 0) = 0
    rw [land_run, show wd / 2 ^ 0 % 2 ^ 7 = 0 from (by rw [Nat.pow_zero, Nat.div_one]; exact g5)] <;> rfl
  have hres : wd &&& reservedBits wd = reservedValue 0x9A := by
    rw [reservedBits_at _ h24 (by decide)]
    show wd &&& (((2 ^ 1 - 1) * 2 ^ 7) ||| ((2 ^ 5 - 1) * 2 ^ 9)) = 0x0
    rw [Nat.and_or_distrib_left, land_run, land_run, g4, g2] <;> rfl
  refine ⟨by omega, ?_⟩
  rw [decode_word h24 hf hfix wf.1 hres wf.2.1 (by omega)]; rfl

theorem pset (d : BitVec 5) (a : BitVec 5) (e : BitVec 1) (k : BitVec 2) : Statement (Instr.pset d a e k) := by
  intro _ wf
  have bk := k.isLt
  generalize hwd : Instr.encodeNat (Instr.pset d a e k) = wd
  replace hwd : encRRR 0x9B d.toNat a.toNat 0 e.toNat 0 k.toNat = wd := hwd
  obtain ⟨h24, hh, hl, g0, g1, g2, g3, g4, g5⟩ := rrr_word hwd d.isLt a.isLt (by decide) e.isLt (by decide) (by omega)
  have hf : fieldsOf wd = some (Sum.inl (Instr.pset d a e k)) := by
    rw [fieldsOf_9 11 (by omega) (by omega)]
    show some (Sum.inl (Instr.pset (fld wd 19) (fld wd 14) (fld wd 8) (fld wd 0))) = _
    rw [fld_eq wd 19 d g0, fld_eq wd 14 a g1, fld_eq wd 8 e g3, fld_sub wd 7 _ k 0 g5 (by decide) (by omega)]
  have hfix : wd &&& fnFixed 0x9B = 0 := by
    show wd &&& ((2 ^ 5 - 1) * 2 ^ 2) = 0
    rw [land_run, show wd / 2 ^ 2 % 2 ^ 5 = 0 from (run_sub wd 7 _ 2 5 g5 (by decide)).trans (by omega)] <;> rfl
  have hres : wd &&& reservedBits wd = reservedValue 0x9B := by
    rw [reservedBits_at _ h24 (by decide)]
    show wd &&& (((2 ^ 1 - 1) * 2 ^ 7) ||| ((2 ^ 5 - 1) * 2 ^ 9)) = 0x0
    rw [Nat.and_or_distrib_left, land_run, land_run, g4, g2] <;> rfl
  refine ⟨by omega, ?_⟩
  rw [decode_word h24 hf hfix wf.1 hres wf.2.1 (by omega)]; rfl

theorem ppack (d : BitVec 5) : Statement (Instr.ppack d) := by
  intro _ wf
  generalize hwd : Instr.encodeNat (Instr.ppack d) = wd
  replace hwd : encRRR 0x9C d.toNat 0 0 0 0 0 = wd := hwd
  obtain ⟨h24, hh, hl, g0, g1, g2, g3, g4, g5⟩ := rrr_word hwd d.isLt (by decide) (by decide) (by decide) (by decide) (by decide)
  have hf : fieldsOf wd = some (Sum.inl (Instr.ppack d)) := by
    rw [fieldsOf_9 12 (by omega) (by omega)]
    show some (Sum.inl (Instr.ppack (fld wd 19))) = _
    rw [fld_eq wd 19 d g0]
  have hfix : wd &&& fnFixed 0x9C = 0 := by
    show wd &&& ((2 ^ 7 - 1) * 2 ^ 0) = 0
    rw [land_run, show wd / 2 ^ 0 % 2 ^ 7 = 0 from (by rw [Nat.pow_zero, Nat.div_one]; exact g5)] <;> rfl
  have hres : wd &&& reservedBits wd = reservedValue 0x9C := by
    rw [reservedBits_at _ h24 (by decide)]
    show wd &&& (((((2 ^ 1 - 1) * 2 ^ 7) ||| ((2 ^ 1 - 1) * 2 ^ 8)) ||| ((2 ^ 5 - 1) * 2 ^ 9)) ||| ((2 ^ 5 - 1) * 2 ^ 14)) = 0x0
    rw [Nat.and_or_distrib_left, Nat.and_or_distrib_left, Nat.and_or_distrib_left, land_run, land_run, land_run, land_run, g4, g3, g2, g1] <;> rfl
  refine ⟨by omega, ?_⟩
  rw [decode_word h24 hf hfix wf.1 hres wf.2.1 (by omega)]; rfl

theorem punpk (a : BitVec 5) (e : BitVec 1) : Statement (Instr.punpk a e) := by
  intro _ wf
  generalize hwd : Instr.encodeNat (Instr.punpk a e) = wd
  replace hwd : encRRR 0x9D 0 a.toNat 0 e.toNat 0 0 = wd := hwd
  obtain ⟨h24, hh, hl, g0, g1, g2, g3, g4, g5⟩ := rrr_word hwd (by decide) a.isLt (by decide) e.isLt (by decide) (by decide)
  have hf : fieldsOf wd = some (Sum.inl (Instr.punpk a e)) := by
    rw [fieldsOf_9 13 (by omega) (by omega)]
    show some (Sum.inl (Instr.punpk (fld wd 14) (fld wd 8))) = _
    rw [fld_eq wd 14 a g1, fld_eq wd 8 e g3]
  have hfix : wd &&& fnFixed 0x9D = 0 := by
    show wd &&& ((2 ^ 7 - 1) * 2 ^ 0) = 0
    rw [land_run, show wd / 2 ^ 0 % 2 ^ 7 = 0 from (by rw [Nat.pow_zero, Nat.div_one]; exact g5)] <;> rfl
  have hres : wd &&& reservedBits wd = reservedValue 0x9D := by
    rw [reservedBits_at _ h24 (by decide)]
    show wd &&& ((((2 ^ 1 - 1) * 2 ^ 7) ||| ((2 ^ 5 - 1) * 2 ^ 9)) ||| ((2 ^ 5 - 1) * 2 ^ 19)) = 0x0
    rw [Nat.and_or_distrib_left, Nat.and_or_distrib_left, land_run, land_run, land_run, g4, g2, g0] <;> rfl
  refine ⟨by omega, ?_⟩
  rw [decode_word h24 hf hfix wf.1 hres wf.2.1 (by omega)]; rfl

theorem pmov (d : BitVec 5) (a : BitVec 5) (e : BitVec 1) (k : BitVec 2) : Statement (Instr.pmov d a e k) := by
  intro _ wf
  have bk := k.isLt
  generalize hwd : Instr.encodeNat (Instr.pmov d a e k) = wd
  replace hwd : encRRR 0x9E d.toNat a.toNat 0 e.toNat 0 k.toNat = wd := hwd
  obtain ⟨h24, hh, hl, g0, g1, g2, g3, g4, g5⟩ := rrr_word hwd d.isLt a.isLt (by decide) e.isLt (by decide) (by omega)
  have hf : fieldsOf wd = some (Sum.inl (Instr.pmov d a e k)) := by
    rw [fieldsOf_9 14 (by omega) (by omega)]
    show some (Sum.inl (Instr.pmov (fld wd 19) (fld wd 14) (fld wd 8) (fld wd 0))) = _
    rw [fld_eq wd 19 d g0, fld_eq wd 14 a g1, fld_eq wd 8 e g3, fld_sub wd 7 _ k 0 g5 (by decide) (by omega)]
  have hfix : wd &&& fnFixed 0x9E = 0 := by
    show wd &&& ((2 ^ 5 - 1) * 2 ^ 2) = 0
    rw [land_run, show wd / 2 ^ 2 % 2 ^ 5 = 0 from (run_sub wd 7 _ 2 5 g5 (by decide)).trans (by omega)] <;> rfl
  have hres : wd &&& reservedBits wd = reservedValue 0x9E := by
    rw [reservedBits_at _ h24 (by decide)]
    show wd &&& (((2 ^ 1 - 1) * 2 ^ 7) ||| ((2 ^ 5 - 1) * 2 ^ 9)) = 0x0
    rw [Nat.and_or_distrib_left, land_run, land_run, g4, g2] <;> rfl
  refine ⟨by omega, ?_⟩
  rw [decode_word h24 hf hfix wf.1 hres wf.2.1 (by omega)]; rfl

theorem fmaskp (d : BitVec 5) (a : BitVec 5) (e : BitVec 1) (k : BitVec 1) : Statement (Instr.fmaskp d a e k) := by
  intro _ wf
  have bk := k.isLt
  generalize hwd : Instr.encodeNat (Instr.fmaskp d a e k) = wd
  replace hwd : encRRR 0x9F d.toNat a.toNat 0 e.toNat 0 k.toNat = wd := hwd
  obtain ⟨h24, hh, hl, g0, g1, g2, g3, g4, g5⟩ := rrr_word hwd d.isLt a.isLt (by decide) e.isLt (by decide) (by omega)
  have hf : fieldsOf wd = some (Sum.inl (Instr.fmaskp d a e k)) := by
    rw [fieldsOf_9 15 (by omega) (by omega)]
    show some (Sum.inl (Instr.fmaskp (fld wd 19) (fld wd 14) (fld wd 8) (fld wd 0))) = _
    rw [fld_eq wd 19 d g0, fld_eq wd 14 a g1, fld_eq wd 8 e g3, fld_sub wd 7 _ k 0 g5 (by decide) (by omega)]
  have hfix : wd &&& fnFixed 0x9F = 0 := by
    show wd &&& ((2 ^ 6 - 1) * 2 ^ 1) = 0
    rw [land_run, show wd / 2 ^ 1 % 2 ^ 6 = 0 from (run_sub wd 7 _ 1 6 g5 (by decide)).trans (by omega)] <;> rfl
  have hres : wd &&& reservedBits wd = reservedValue 0x9F := by
    rw [reservedBits_at _ h24 (by decide)]
    show wd &&& (((2 ^ 1 - 1) * 2 ^ 7) ||| ((2 ^ 5 - 1) * 2 ^ 9)) = 0x0
    rw [Nat.and_or_distrib_left, land_run, land_run, g4, g2] <;> rfl
  refine ⟨by omega, ?_⟩
  rw [decode_word h24 hf hfix wf.1 hres wf.2.1 (by omega)]; rfl

theorem vmov (d : BitVec 5) (a : BitVec 5) (e : BitVec 1) (t : BitVec 4) : Statement (Instr.vmov d a e t) := by
  intro _ wf
  have bt := t.isLt
  generalize hwd : Instr.encodeNat (Instr.vmov d a e t) = wd
  replace hwd : encRRR 0xA0 d.toNat a.toNat 0 e.toNat 0 (t.toNat * 8) = wd := hwd
  obtain ⟨h24, hh, hl, g0, g1, g2, g3, g4, g5⟩ := rrr_word hwd d.isLt a.isLt (by decide) e.isLt (by decide) (by omega)
  have hf : fieldsOf wd = some (Sum.inl (Instr.vmov d a e t)) := by
    rw [fieldsOf_A 0 (by omega) (by omega)]
    show some (Sum.inl (Instr.vmov (fld wd 19) (fld wd 14) (fld wd 8) (fld wd 3))) = _
    rw [fld_eq wd 19 d g0, fld_eq wd 14 a g1, fld_eq wd 8 e g3, fld_sub wd 7 _ t 3 g5 (by decide) (by omega)]
  have hfix : wd &&& fnFixed 0xA0 = 0 := by
    show wd &&& ((2 ^ 3 - 1) * 2 ^ 0) = 0
    rw [land_run, show wd / 2 ^ 0 % 2 ^ 3 = 0 from (run_sub wd 7 _ 0 3 g5 (by decide)).trans (by omega)] <;> rfl
  have hres : wd &&& reservedBits wd = reservedValue 0xA0 := by
    rw [reservedBits_at _ h24 (by decide)]
    show wd &&& (((2 ^ 1 - 1) * 2 ^ 7) ||| ((2 ^ 5 - 1) * 2 ^ 9)) = 0x0
    rw [Nat.and_or_distrib_left, land_run, land_run, g4, g2] <;> rfl
  refine ⟨by omega, ?_⟩
  rw [decode_word h24 hf hfix wf.1 hres wf.2.1 (by omega)]; rfl

theorem vbcst (d : BitVec 5) (a : BitVec 5) (e : BitVec 1) (t : BitVec 4) : Statement (Instr.vbcst d a e t) := by
  intro _ wf
  have bt := t.isLt
  generalize hwd : Instr.encodeNat (Instr.vbcst d a e t) = wd
  replace hwd : encRRR 0xA1 d.toNat a.toNat 0 e.toNat 0 (t.toNat * 8) = wd := hwd
  obtain ⟨h24, hh, hl, g0, g1, g2, g3, g4, g5⟩ := rrr_word hwd d.isLt a.isLt (by decide) e.isLt (by decide) (by omega)
  have hf : fieldsOf wd = some (Sum.inl (Instr.vbcst d a e t)) := by
    rw [fieldsOf_A 1 (by omega) (by omega)]
    show some (Sum.inl (Instr.vbcst (fld wd 19) (fld wd 14) (fld wd 8) (fld wd 3))) = _
    rw [fld_eq wd 19 d g0, fld_eq wd 14 a g1, fld_eq wd 8 e g3, fld_sub wd 7 _ t 3 g5 (by decide) (by omega)]
  have hfix : wd &&& fnFixed 0xA1 = 0 := by
    show wd &&& ((2 ^ 3 - 1) * 2 ^ 0) = 0
    rw [land_run, show wd / 2 ^ 0 % 2 ^ 3 = 0 from (run_sub wd 7 _ 0 3 g5 (by decide)).trans (by omega)] <;> rfl
  have hres : wd &&& reservedBits wd = reservedValue 0xA1 := by
    rw [reservedBits_at _ h24 (by decide)]
    show wd &&& (((2 ^ 1 - 1) * 2 ^ 7) ||| ((2 ^ 5 - 1) * 2 ^ 9)) = 0x0
    rw [Nat.and_or_distrib_left, land_run, land_run, g4, g2] <;> rfl
  refine ⟨by omega, ?_⟩
  rw [decode_word h24 hf hfix wf.1 hres wf.2.1 (by omega)]; rfl

theorem vext (d : BitVec 5) (a : BitVec 5) (b : BitVec 5) (e : BitVec 1) (f : BitVec 1) (t : BitVec 4) : Statement (Instr.vext d a b e f t) := by
  intro _ wf
  have bt := t.isLt
  generalize hwd : Instr.encodeNat (Instr.vext d a b e f t) = wd
  replace hwd : encRRR 0xA2 d.toNat a.toNat b.toNat e.toNat f.toNat (t.toNat * 8) = wd := hwd
  obtain ⟨h24, hh, hl, g0, g1, g2, g3, g4, g5⟩ := rrr_word hwd d.isLt a.isLt b.isLt e.isLt f.isLt (by omega)
  have hf : fieldsOf wd = some (Sum.inl (Instr.vext d a b e f t)) := by
    rw [fieldsOf_A 2 (by omega) (by omega)]
    show some (Sum.inl (Instr.vext (fld wd 19) (fld wd 14) (fld wd 9) (fld wd 8) (fld wd 7) (fld wd 3))) = _
    rw [fld_eq wd 19 d g0, fld_eq wd 14 a g1, fld_eq wd 9 b g2, fld_eq wd 8 e g3, fld_eq wd 7 f g4, fld_sub wd 7 _ t 3 g5 (by decide) (by omega)]
  have hfix : wd &&& fnFixed 0xA2 = 0 := by
    show wd &&& ((2 ^ 3 - 1) * 2 ^ 0) = 0
    rw [land_run, show wd / 2 ^ 0 % 2 ^ 3 = 0 from (run_sub wd 7 _ 0 3 g5 (by decide)).trans (by omega)] <;> rfl
  have hres : wd &&& reservedBits wd = reservedValue 0xA2 := by
    rw [reservedBits_at _ h24 (by decide)]
    show wd &&& 0 = 0x0
    exact Nat.and_zero _
  refine ⟨by omega, ?_⟩
  rw [decode_word h24 hf hfix wf.1 hres wf.2.1 (by omega)]; rfl

theorem vins (d : BitVec 5) (a : BitVec 5) (b : BitVec 5) (e : BitVec 1) (f : BitVec 1) (t : BitVec 4) : Statement (Instr.vins d a b e f t) := by
  intro _ wf
  have bt := t.isLt
  generalize hwd : Instr.encodeNat (Instr.vins d a b e f t) = wd
  replace hwd : encRRR 0xA3 d.toNat a.toNat b.toNat e.toNat f.toNat (t.toNat * 8) = wd := hwd
  obtain ⟨h24, hh, hl, g0, g1, g2, g3, g4, g5⟩ := rrr_word hwd d.isLt a.isLt b.isLt e.isLt f.isLt (by omega)
  have hf : fieldsOf wd = some (Sum.inl (Instr.vins d a b e f t)) := by
    rw [fieldsOf_A 3 (by omega) (by omega)]
    show some (Sum.inl (Instr.vins (fld wd 19) (fld wd 14) (fld wd 9) (fld wd 8) (fld wd 7) (fld wd 3))) = _
    rw [fld_eq wd 19 d g0, fld_eq wd 14 a g1, fld_eq wd 9 b g2, fld_eq wd 8 e g3, fld_eq wd 7 f g4, fld_sub wd 7 _ t 3 g5 (by decide) (by omega)]
  have hfix : wd &&& fnFixed 0xA3 = 0 := by
    show wd &&& ((2 ^ 3 - 1) * 2 ^ 0) = 0
    rw [land_run, show wd / 2 ^ 0 % 2 ^ 3 = 0 from (run_sub wd 7 _ 0 3 g5 (by decide)).trans (by omega)] <;> rfl
  have hres : wd &&& reservedBits wd = reservedValue 0xA3 := by
    rw [reservedBits_at _ h24 (by decide)]
    show wd &&& 0 = 0x0
    exact Nat.and_zero _
  refine ⟨by omega, ?_⟩
  rw [decode_word h24 hf hfix wf.1 hres wf.2.1 (by omega)]; rfl

theorem vslup (d : BitVec 5) (a : BitVec 5) (b : BitVec 5) (e : BitVec 1) (f : BitVec 1) (t : BitVec 4) : Statement (Instr.vslup d a b e f t) := by
  intro _ wf
  have bt := t.isLt
  generalize hwd : Instr.encodeNat (Instr.vslup d a b e f t) = wd
  replace hwd : encRRR 0xA4 d.toNat a.toNat b.toNat e.toNat f.toNat (t.toNat * 8) = wd := hwd
  obtain ⟨h24, hh, hl, g0, g1, g2, g3, g4, g5⟩ := rrr_word hwd d.isLt a.isLt b.isLt e.isLt f.isLt (by omega)
  have hf : fieldsOf wd = some (Sum.inl (Instr.vslup d a b e f t)) := by
    rw [fieldsOf_A 4 (by omega) (by omega)]
    show some (Sum.inl (Instr.vslup (fld wd 19) (fld wd 14) (fld wd 9) (fld wd 8) (fld wd 7) (fld wd 3))) = _
    rw [fld_eq wd 19 d g0, fld_eq wd 14 a g1, fld_eq wd 9 b g2, fld_eq wd 8 e g3, fld_eq wd 7 f g4, fld_sub wd 7 _ t 3 g5 (by decide) (by omega)]
  have hfix : wd &&& fnFixed 0xA4 = 0 := by
    show wd &&& ((2 ^ 3 - 1) * 2 ^ 0) = 0
    rw [land_run, show wd / 2 ^ 0 % 2 ^ 3 = 0 from (run_sub wd 7 _ 0 3 g5 (by decide)).trans (by omega)] <;> rfl
  have hres : wd &&& reservedBits wd = reservedValue 0xA4 := by
    rw [reservedBits_at _ h24 (by decide)]
    show wd &&& 0 = 0x0
    exact Nat.and_zero _
  refine ⟨by omega, ?_⟩
  rw [decode_word h24 hf hfix wf.1 hres wf.2.1 (by omega)]; rfl

theorem vsldn (d : BitVec 5) (a : BitVec 5) (b : BitVec 5) (e : BitVec 1) (f : BitVec 1) (t : BitVec 4) : Statement (Instr.vsldn d a b e f t) := by
  intro _ wf
  have bt := t.isLt
  generalize hwd : Instr.encodeNat (Instr.vsldn d a b e f t) = wd
  replace hwd : encRRR 0xA5 d.toNat a.toNat b.toNat e.toNat f.toNat (t.toNat * 8) = wd := hwd
  obtain ⟨h24, hh, hl, g0, g1, g2, g3, g4, g5⟩ := rrr_word hwd d.isLt a.isLt b.isLt e.isLt f.isLt (by omega)
  have hf : fieldsOf wd = some (Sum.inl (Instr.vsldn d a b e f t)) := by
    rw [fieldsOf_A 5 (by omega) (by omega)]
    show some (Sum.inl (Instr.vsldn (fld wd 19) (fld wd 14) (fld wd 9) (fld wd 8) (fld wd 7) (fld wd 3))) = _
    rw [fld_eq wd 19 d g0, fld_eq wd 14 a g1, fld_eq wd 9 b g2, fld_eq wd 8 e g3, fld_eq wd 7 f g4, fld_sub wd 7 _ t 3 g5 (by decide) (by omega)]
  have hfix : wd &&& fnFixed 0xA5 = 0 := by
    show wd &&& ((2 ^ 3 - 1) * 2 ^ 0) = 0
    rw [land_run, show wd / 2 ^ 0 % 2 ^ 3 = 0 from (run_sub wd 7 _ 0 3 g5 (by decide)).trans (by omega)] <;> rfl
  have hres : wd &&& reservedBits wd = reservedValue 0xA5 := by
    rw [reservedBits_at _ h24 (by decide)]
    show wd &&& 0 = 0x0
    exact Nat.and_zero _
  refine ⟨by omega, ?_⟩
  rw [decode_word h24 hf hfix wf.1 hres wf.2.1 (by omega)]; rfl

theorem vcprs (d : BitVec 5) (a : BitVec 5) (b : BitVec 5) (e : BitVec 1) (f : BitVec 1) (t : BitVec 4) : Statement (Instr.vcprs d a b e f t) := by
  intro _ wf
  have bt := t.isLt
  generalize hwd : Instr.encodeNat (Instr.vcprs d a b e f t) = wd
  replace hwd : encRRR 0xA6 d.toNat a.toNat b.toNat e.toNat f.toNat (t.toNat * 8) = wd := hwd
  obtain ⟨h24, hh, hl, g0, g1, g2, g3, g4, g5⟩ := rrr_word hwd d.isLt a.isLt b.isLt e.isLt f.isLt (by omega)
  have hf : fieldsOf wd = some (Sum.inl (Instr.vcprs d a b e f t)) := by
    rw [fieldsOf_A 6 (by omega) (by omega)]
    show some (Sum.inl (Instr.vcprs (fld wd 19) (fld wd 14) (fld wd 9) (fld wd 8) (fld wd 7) (fld wd 3))) = _
    rw [fld_eq wd 19 d g0, fld_eq wd 14 a g1, fld_eq wd 9 b g2, fld_eq wd 8 e g3, fld_eq wd 7 f g4, fld_sub wd 7 _ t 3 g5 (by decide) (by omega)]
  have hfix : wd &&& fnFixed 0xA6 = 0 := by
    show wd &&& ((2 ^ 3 - 1) * 2 ^ 0) = 0
    rw [land_run, show wd / 2 ^ 0 % 2 ^ 3 = 0 from (run_sub wd 7 _ 0 3 g5 (by decide)).trans (by omega)] <;> rfl
  have hres : wd &&& reservedBits wd = reservedValue 0xA6 := by
    rw [reservedBits_at _ h24 (by decide)]
    show wd &&& 0 = 0x0
    exact Nat.and_zero _
  refine ⟨by omega, ?_⟩
  rw [decode_word h24 hf hfix wf.1 hres wf.2.1 (by omega)]; rfl

theorem vexpd (d : BitVec 5) (a : BitVec 5) (b : BitVec 5) (e : BitVec 1) (f : BitVec 1) (t : BitVec 4) : Statement (Instr.vexpd d a b e f t) := by
  intro _ wf
  have bt := t.isLt
  generalize hwd : Instr.encodeNat (Instr.vexpd d a b e f t) = wd
  replace hwd : encRRR 0xA7 d.toNat a.toNat b.toNat e.toNat f.toNat (t.toNat * 8) = wd := hwd
  obtain ⟨h24, hh, hl, g0, g1, g2, g3, g4, g5⟩ := rrr_word hwd d.isLt a.isLt b.isLt e.isLt f.isLt (by omega)
  have hf : fieldsOf wd = some (Sum.inl (Instr.vexpd d a b e f t)) := by
    rw [fieldsOf_A 7 (by omega) (by omega)]
    show some (Sum.inl (Instr.vexpd (fld wd 19) (fld wd 14) (fld wd 9) (fld wd 8) (fld wd 7) (fld wd 3))) = _
    rw [fld_eq wd 19 d g0, fld_eq wd 14 a g1, fld_eq wd 9 b g2, fld_eq wd 8 e g3, fld_eq wd 7 f g4, fld_sub wd 7 _ t 3 g5 (by decide) (by omega)]
  have hfix : wd &&& fnFixed 0xA7 = 0 := by
    show wd &&& ((2 ^ 3 - 1) * 2 ^ 0) = 0
    rw [land_run, show wd / 2 ^ 0 % 2 ^ 3 = 0 from (run_sub wd 7 _ 0 3 g5 (by decide)).trans (by omega)] <;> rfl
  have hres : wd &&& reservedBits wd = reservedValue 0xA7 := by
    rw [reservedBits_at _ h24 (by decide)]
    show wd &&& 0 = 0x0
    exact Nat.and_zero _
  refine ⟨by omega, ?_⟩
  rw [decode_word h24 hf hfix wf.1 hres wf.2.1 (by omega)]; rfl

theorem vperm (d : BitVec 5) (a : BitVec 5) (b : BitVec 5) (e : BitVec 1) (f : BitVec 1) (t : BitVec 4) : Statement (Instr.vperm d a b e f t) := by
  intro _ wf
  have bt := t.isLt
  generalize hwd : Instr.encodeNat (Instr.vperm d a b e f t) = wd
  replace hwd : encRRR 0xA8 d.toNat a.toNat b.toNat e.toNat f.toNat (t.toNat * 8) = wd := hwd
  obtain ⟨h24, hh, hl, g0, g1, g2, g3, g4, g5⟩ := rrr_word hwd d.isLt a.isLt b.isLt e.isLt f.isLt (by omega)
  have hf : fieldsOf wd = some (Sum.inl (Instr.vperm d a b e f t)) := by
    rw [fieldsOf_A 8 (by omega) (by omega)]
    show some (Sum.inl (Instr.vperm (fld wd 19) (fld wd 14) (fld wd 9) (fld wd 8) (fld wd 7) (fld wd 3))) = _
    rw [fld_eq wd 19 d g0, fld_eq wd 14 a g1, fld_eq wd 9 b g2, fld_eq wd 8 e g3, fld_eq wd 7 f g4, fld_sub wd 7 _ t 3 g5 (by decide) (by omega)]
  have hfix : wd &&& fnFixed 0xA8 = 0 := by
    show wd &&& ((2 ^ 3 - 1) * 2 ^ 0) = 0
    rw [land_run, show wd / 2 ^ 0 % 2 ^ 3 = 0 from (run_sub wd 7 _ 0 3 g5 (by decide)).trans (by omega)] <;> rfl
  have hres : wd &&& reservedBits wd = reservedValue 0xA8 := by
    rw [reservedBits_at _ h24 (by decide)]
    show wd &&& 0 = 0x0
    exact Nat.and_zero _
  refine ⟨by omega, ?_⟩
  rw [decode_word h24 hf hfix wf.1 hres wf.2.1 (by omega)]; rfl

theorem viota (d : BitVec 5) (a : BitVec 5) (e : BitVec 1) (t : BitVec 4) (v : BitVec 3) : Statement (Instr.viota d a e t v) := by
  intro _ wf
  have bt := t.isLt
  have bv := v.isLt
  generalize hwd : Instr.encodeNat (Instr.viota d a e t v) = wd
  replace hwd : encRRR 0xA9 d.toNat a.toNat 0 e.toNat 0 (t.toNat * 8 + v.toNat) = wd := hwd
  obtain ⟨h24, hh, hl, g0, g1, g2, g3, g4, g5⟩ := rrr_word hwd d.isLt a.isLt (by decide) e.isLt (by decide) (by omega)
  have hf : fieldsOf wd = some (Sum.inl (Instr.viota d a e t v)) := by
    rw [fieldsOf_A 9 (by omega) (by omega)]
    show some (Sum.inl (Instr.viota (fld wd 19) (fld wd 14) (fld wd 8) (fld wd 3) (fld wd 0))) = _
    rw [fld_eq wd 19 d g0, fld_eq wd 14 a g1, fld_eq wd 8 e g3, fld_sub wd 7 _ t 3 g5 (by decide) (by omega), fld_sub wd 7 _ v 0 g5 (by decide) (by omega)]
  have hfix : wd &&& fnFixed 0xA9 = 0 := by
    show wd &&& 0 = 0
    exact Nat.and_zero _
  have hres : wd &&& reservedBits wd = reservedValue 0xA9 := by
    rw [reservedBits_at _ h24 (by decide)]
    show wd &&& (((2 ^ 1 - 1) * 2 ^ 7) ||| ((2 ^ 5 - 1) * 2 ^ 9)) = 0x0
    rw [Nat.and_or_distrib_left, land_run, land_run, g4, g2] <;> rfl
  refine ⟨by omega, ?_⟩
  rw [decode_word h24 hf hfix wf.1 hres wf.2.1 (by omega)]; rfl

theorem vsel (d : BitVec 5) (a : BitVec 5) (b : BitVec 5) (e : BitVec 1) (f : BitVec 1) (t : BitVec 4) : Statement (Instr.vsel d a b e f t) := by
  intro _ wf
  have bt := t.isLt
  generalize hwd : Instr.encodeNat (Instr.vsel d a b e f t) = wd
  replace hwd : encRRR 0xAA d.toNat a.toNat b.toNat e.toNat f.toNat (t.toNat * 8) = wd := hwd
  obtain ⟨h24, hh, hl, g0, g1, g2, g3, g4, g5⟩ := rrr_word hwd d.isLt a.isLt b.isLt e.isLt f.isLt (by omega)
  have hf : fieldsOf wd = some (Sum.inl (Instr.vsel d a b e f t)) := by
    rw [fieldsOf_A 10 (by omega) (by omega)]
    show some (Sum.inl (Instr.vsel (fld wd 19) (fld wd 14) (fld wd 9) (fld wd 8) (fld wd 7) (fld wd 3))) = _
    rw [fld_eq wd 19 d g0, fld_eq wd 14 a g1, fld_eq wd 9 b g2, fld_eq wd 8 e g3, fld_eq wd 7 f g4, fld_sub wd 7 _ t 3 g5 (by decide) (by omega)]
  have hfix : wd &&& fnFixed 0xAA = 0 := by
    show wd &&& ((2 ^ 3 - 1) * 2 ^ 0) = 0
    rw [land_run, show wd / 2 ^ 0 % 2 ^ 3 = 0 from (run_sub wd 7 _ 0 3 g5 (by decide)).trans (by omega)] <;> rfl
  have hres : wd &&& reservedBits wd = reservedValue 0xAA := by
    rw [reservedBits_at _ h24 (by decide)]
    show wd &&& 0 = 0x0
    exact Nat.and_zero _
  refine ⟨by omega, ?_⟩
  rw [decode_word h24 hf hfix wf.1 hres wf.2.1 (by omega)]; rfl

theorem vred (d : BitVec 5) (a : BitVec 5) (b : BitVec 5) (e : BitVec 1) (f : BitVec 1) (t : BitVec 4) (v : BitVec 3) : Statement (Instr.vred d a b e f t v) := by
  intro _ wf
  have bt := t.isLt
  have bv := v.isLt
  generalize hwd : Instr.encodeNat (Instr.vred d a b e f t v) = wd
  replace hwd : encRRR 0xAB d.toNat a.toNat b.toNat e.toNat f.toNat (t.toNat * 8 + v.toNat) = wd := hwd
  obtain ⟨h24, hh, hl, g0, g1, g2, g3, g4, g5⟩ := rrr_word hwd d.isLt a.isLt b.isLt e.isLt f.isLt (by omega)
  have hf : fieldsOf wd = some (Sum.inl (Instr.vred d a b e f t v)) := by
    rw [fieldsOf_A 11 (by omega) (by omega)]
    show some (Sum.inl (Instr.vred (fld wd 19) (fld wd 14) (fld wd 9) (fld wd 8) (fld wd 7) (fld wd 3) (fld wd 0))) = _
    rw [fld_eq wd 19 d g0, fld_eq wd 14 a g1, fld_eq wd 9 b g2, fld_eq wd 8 e g3, fld_eq wd 7 f g4, fld_sub wd 7 _ t 3 g5 (by decide) (by omega), fld_sub wd 7 _ v 0 g5 (by decide) (by omega)]
  have hfix : wd &&& fnFixed 0xAB = 0 := by
    show wd &&& 0 = 0
    exact Nat.and_zero _
  have hres : wd &&& reservedBits wd = reservedValue 0xAB := by
    rw [reservedBits_at _ h24 (by decide)]
    show wd &&& 0 = 0x0
    exact Nat.and_zero _
  refine ⟨by omega, ?_⟩
  rw [decode_word h24 hf hfix wf.1 hres wf.2.1 (by omega)]; rfl

theorem vfred (d : BitVec 5) (a : BitVec 5) (b : BitVec 5) (e : BitVec 1) (f : BitVec 1) (t : BitVec 4) (v : BitVec 3) : Statement (Instr.vfred d a b e f t v) := by
  intro _ wf
  have bt := t.isLt
  have bv := v.isLt
  generalize hwd : Instr.encodeNat (Instr.vfred d a b e f t v) = wd
  replace hwd : encRRR 0xAC d.toNat a.toNat b.toNat e.toNat f.toNat (t.toNat * 8 + v.toNat) = wd := hwd
  obtain ⟨h24, hh, hl, g0, g1, g2, g3, g4, g5⟩ := rrr_word hwd d.isLt a.isLt b.isLt e.isLt f.isLt (by omega)
  have hf : fieldsOf wd = some (Sum.inl (Instr.vfred d a b e f t v)) := by
    rw [fieldsOf_A 12 (by omega) (by omega)]
    show some (Sum.inl (Instr.vfred (fld wd 19) (fld wd 14) (fld wd 9) (fld wd 8) (fld wd 7) (fld wd 3) (fld wd 0))) = _
    rw [fld_eq wd 19 d g0, fld_eq wd 14 a g1, fld_eq wd 9 b g2, fld_eq wd 8 e g3, fld_eq wd 7 f g4, fld_sub wd 7 _ t 3 g5 (by decide) (by omega), fld_sub wd 7 _ v 0 g5 (by decide) (by omega)]
  have hfix : wd &&& fnFixed 0xAC = 0 := by
    show wd &&& 0 = 0
    exact Nat.and_zero _
  have hres : wd &&& reservedBits wd = reservedValue 0xAC := by
    rw [reservedBits_at _ h24 (by decide)]
    show wd &&& 0 = 0x0
    exact Nat.and_zero _
  refine ⟨by omega, ?_⟩
  rw [decode_word h24 hf hfix wf.1 hres wf.2.1 (by omega)]; rfl

theorem vscan (d : BitVec 5) (a : BitVec 5) (b : BitVec 5) (e : BitVec 1) (f : BitVec 1) (t : BitVec 4) (v : BitVec 3) : Statement (Instr.vscan d a b e f t v) := by
  intro _ wf
  have bt := t.isLt
  have bv := v.isLt
  generalize hwd : Instr.encodeNat (Instr.vscan d a b e f t v) = wd
  replace hwd : encRRR 0xAD d.toNat a.toNat b.toNat e.toNat f.toNat (t.toNat * 8 + v.toNat) = wd := hwd
  obtain ⟨h24, hh, hl, g0, g1, g2, g3, g4, g5⟩ := rrr_word hwd d.isLt a.isLt b.isLt e.isLt f.isLt (by omega)
  have hf : fieldsOf wd = some (Sum.inl (Instr.vscan d a b e f t v)) := by
    rw [fieldsOf_A 13 (by omega) (by omega)]
    show some (Sum.inl (Instr.vscan (fld wd 19) (fld wd 14) (fld wd 9) (fld wd 8) (fld wd 7) (fld wd 3) (fld wd 0))) = _
    rw [fld_eq wd 19 d g0, fld_eq wd 14 a g1, fld_eq wd 9 b g2, fld_eq wd 8 e g3, fld_eq wd 7 f g4, fld_sub wd 7 _ t 3 g5 (by decide) (by omega), fld_sub wd 7 _ v 0 g5 (by decide) (by omega)]
  have hfix : wd &&& fnFixed 0xAD = 0 := by
    show wd &&& 0 = 0
    exact Nat.and_zero _
  have hres : wd &&& reservedBits wd = reservedValue 0xAD := by
    rw [reservedBits_at _ h24 (by decide)]
    show wd &&& 0 = 0x0
    exact Nat.and_zero _
  refine ⟨by omega, ?_⟩
  rw [decode_word h24 hf hfix wf.1 hres wf.2.1 (by omega)]; rfl

theorem vfscan (d : BitVec 5) (a : BitVec 5) (b : BitVec 5) (e : BitVec 1) (f : BitVec 1) (t : BitVec 4) (v : BitVec 3) : Statement (Instr.vfscan d a b e f t v) := by
  intro _ wf
  have bt := t.isLt
  have bv := v.isLt
  generalize hwd : Instr.encodeNat (Instr.vfscan d a b e f t v) = wd
  replace hwd : encRRR 0xAE d.toNat a.toNat b.toNat e.toNat f.toNat (t.toNat * 8 + v.toNat) = wd := hwd
  obtain ⟨h24, hh, hl, g0, g1, g2, g3, g4, g5⟩ := rrr_word hwd d.isLt a.isLt b.isLt e.isLt f.isLt (by omega)
  have hf : fieldsOf wd = some (Sum.inl (Instr.vfscan d a b e f t v)) := by
    rw [fieldsOf_A 14 (by omega) (by omega)]
    show some (Sum.inl (Instr.vfscan (fld wd 19) (fld wd 14) (fld wd 9) (fld wd 8) (fld wd 7) (fld wd 3) (fld wd 0))) = _
    rw [fld_eq wd 19 d g0, fld_eq wd 14 a g1, fld_eq wd 9 b g2, fld_eq wd 8 e g3, fld_eq wd 7 f g4, fld_sub wd 7 _ t 3 g5 (by decide) (by omega), fld_sub wd 7 _ v 0 g5 (by decide) (by omega)]
  have hfix : wd &&& fnFixed 0xAE = 0 := by
    show wd &&& 0 = 0
    exact Nat.and_zero _
  have hres : wd &&& reservedBits wd = reservedValue 0xAE := by
    rw [reservedBits_at _ h24 (by decide)]
    show wd &&& 0 = 0x0
    exact Nat.and_zero _
  refine ⟨by omega, ?_⟩
  rw [decode_word h24 hf hfix wf.1 hres wf.2.1 (by omega)]; rfl

theorem vdot (d : BitVec 5) (a : BitVec 5) (b : BitVec 5) (e : BitVec 1) (f : BitVec 1) (t : BitVec 4) : Statement (Instr.vdot d a b e f t) := by
  intro _ wf
  have bt := t.isLt
  generalize hwd : Instr.encodeNat (Instr.vdot d a b e f t) = wd
  replace hwd : encRRR 0xAF d.toNat a.toNat b.toNat e.toNat f.toNat (t.toNat * 8) = wd := hwd
  obtain ⟨h24, hh, hl, g0, g1, g2, g3, g4, g5⟩ := rrr_word hwd d.isLt a.isLt b.isLt e.isLt f.isLt (by omega)
  have hf : fieldsOf wd = some (Sum.inl (Instr.vdot d a b e f t)) := by
    rw [fieldsOf_A 15 (by omega) (by omega)]
    show some (Sum.inl (Instr.vdot (fld wd 19) (fld wd 14) (fld wd 9) (fld wd 8) (fld wd 7) (fld wd 3))) = _
    rw [fld_eq wd 19 d g0, fld_eq wd 14 a g1, fld_eq wd 9 b g2, fld_eq wd 8 e g3, fld_eq wd 7 f g4, fld_sub wd 7 _ t 3 g5 (by decide) (by omega)]
  have hfix : wd &&& fnFixed 0xAF = 0 := by
    show wd &&& ((2 ^ 3 - 1) * 2 ^ 0) = 0
    rw [land_run, show wd / 2 ^ 0 % 2 ^ 3 = 0 from (run_sub wd 7 _ 0 3 g5 (by decide)).trans (by omega)] <;> rfl
  have hres : wd &&& reservedBits wd = reservedValue 0xAF := by
    rw [reservedBits_at _ h24 (by decide)]
    show wd &&& 0 = 0x0
    exact Nat.and_zero _
  refine ⟨by omega, ?_⟩
  rw [decode_word h24 hf hfix wf.1 hres wf.2.1 (by omega)]; rfl

theorem vld (v : BitVec 5) (a : BitVec 5) (e : BitVec 1) (t : BitVec 4) : Statement (Instr.vld v a e t) := by
  intro _ wf
  have bt := t.isLt
  generalize hwd : Instr.encodeNat (Instr.vld v a e t) = wd
  replace hwd : encVM 0xB0 v.toNat a.toNat e.toNat 0 0 (t.toNat * 8) = wd := hwd
  obtain ⟨h24, hh, hl, g0, g1, g2, g3, g4, g5⟩ := vm_word hwd v.isLt a.isLt e.isLt (by decide) (by decide) (by omega)
  have hf : fieldsOf wd = some (Sum.inl (Instr.vld v a e t)) := by
    rw [fieldsOf_B 0 (by omega) (by omega)]
    show some (Sum.inl (Instr.vld (fld wd 19) (fld wd 14) (fld wd 13) (fld wd 3))) = _
    rw [fld_eq wd 19 v g0, fld_eq wd 14 a g1, fld_eq wd 13 e g2, fld_sub wd 7 _ t 3 g5 (by decide) (by omega)]
  have hfix : wd &&& fnFixed 0xB0 = 0 := by
    show wd &&& ((2 ^ 3 - 1) * 2 ^ 0) = 0
    rw [land_run, show wd / 2 ^ 0 % 2 ^ 3 = 0 from (run_sub wd 7 _ 0 3 g5 (by decide)).trans (by omega)] <;> rfl
  have hres : wd &&& reservedBits wd = reservedValue 0xB0 := by
    rw [reservedBits_at _ h24 (by decide)]
    show wd &&& (((2 ^ 1 - 1) * 2 ^ 7) ||| ((2 ^ 5 - 1) * 2 ^ 8)) = 0x0
    rw [Nat.and_or_distrib_left, land_run, land_run, g4, g3] <;> rfl
  refine ⟨by omega, ?_⟩
  rw [decode_word h24 hf hfix wf.1 hres wf.2.1 (by omega)]; rfl

theorem vst (v : BitVec 5) (a : BitVec 5) (e : BitVec 1) (t : BitVec 4) : Statement (Instr.vst v a e t) := by
  intro _ wf
  have bt := t.isLt
  generalize hwd : Instr.encodeNat (Instr.vst v a e t) = wd
  replace hwd : encVM 0xB1 v.toNat a.toNat e.toNat 0 0 (t.toNat * 8) = wd := hwd
  obtain ⟨h24, hh, hl, g0, g1, g2, g3, g4, g5⟩ := vm_word hwd v.isLt a.isLt e.isLt (by decide) (by decide) (by omega)
  have hf : fieldsOf wd = some (Sum.inl (Instr.vst v a e t)) := by
    rw [fieldsOf_B 1 (by omega) (by omega)]
    show some (Sum.inl (Instr.vst (fld wd 19) (fld wd 14) (fld wd 13) (fld wd 3))) = _
    rw [fld_eq wd 19 v g0, fld_eq wd 14 a g1, fld_eq wd 13 e g2, fld_sub wd 7 _ t 3 g5 (by decide) (by omega)]
  have hfix : wd &&& fnFixed 0xB1 = 0 := by
    show wd &&& ((2 ^ 3 - 1) * 2 ^ 0) = 0
    rw [land_run, show wd / 2 ^ 0 % 2 ^ 3 = 0 from (run_sub wd 7 _ 0 3 g5 (by decide)).trans (by omega)] <;> rfl
  have hres : wd &&& reservedBits wd = reservedValue 0xB1 := by
    rw [reservedBits_at _ h24 (by decide)]
    show wd &&& (((2 ^ 1 - 1) * 2 ^ 7) ||| ((2 ^ 5 - 1) * 2 ^ 8)) = 0x0
    rw [Nat.and_or_distrib_left, land_run, land_run, g4, g3] <;> rfl
  refine ⟨by omega, ?_⟩
  rw [decode_word h24 hf hfix wf.1 hres wf.2.1 (by omega)]; rfl

theorem vldff (v : BitVec 5) (a : BitVec 5) (e : BitVec 1) (t : BitVec 4) : Statement (Instr.vldff v a e t) := by
  intro _ wf
  have bt := t.isLt
  generalize hwd : Instr.encodeNat (Instr.vldff v a e t) = wd
  replace hwd : encVM 0xB2 v.toNat a.toNat e.toNat 0 0 (t.toNat * 8) = wd := hwd
  obtain ⟨h24, hh, hl, g0, g1, g2, g3, g4, g5⟩ := vm_word hwd v.isLt a.isLt e.isLt (by decide) (by decide) (by omega)
  have hf : fieldsOf wd = some (Sum.inl (Instr.vldff v a e t)) := by
    rw [fieldsOf_B 2 (by omega) (by omega)]
    show some (Sum.inl (Instr.vldff (fld wd 19) (fld wd 14) (fld wd 13) (fld wd 3))) = _
    rw [fld_eq wd 19 v g0, fld_eq wd 14 a g1, fld_eq wd 13 e g2, fld_sub wd 7 _ t 3 g5 (by decide) (by omega)]
  have hfix : wd &&& fnFixed 0xB2 = 0 := by
    show wd &&& ((2 ^ 3 - 1) * 2 ^ 0) = 0
    rw [land_run, show wd / 2 ^ 0 % 2 ^ 3 = 0 from (run_sub wd 7 _ 0 3 g5 (by decide)).trans (by omega)] <;> rfl
  have hres : wd &&& reservedBits wd = reservedValue 0xB2 := by
    rw [reservedBits_at _ h24 (by decide)]
    show wd &&& (((2 ^ 1 - 1) * 2 ^ 7) ||| ((2 ^ 5 - 1) * 2 ^ 8)) = 0x0
    rw [Nat.and_or_distrib_left, land_run, land_run, g4, g3] <;> rfl
  refine ⟨by omega, ?_⟩
  rw [decode_word h24 hf hfix wf.1 hres wf.2.1 (by omega)]; rfl

theorem vgth (v : BitVec 5) (a : BitVec 5) (e : BitVec 1) (b : BitVec 5) (f : BitVec 1) (t : BitVec 4) : Statement (Instr.vgth v a e b f t) := by
  intro _ wf
  have bt := t.isLt
  generalize hwd : Instr.encodeNat (Instr.vgth v a e b f t) = wd
  replace hwd : encVM 0xB3 v.toNat a.toNat e.toNat b.toNat f.toNat (t.toNat * 8) = wd := hwd
  obtain ⟨h24, hh, hl, g0, g1, g2, g3, g4, g5⟩ := vm_word hwd v.isLt a.isLt e.isLt b.isLt f.isLt (by omega)
  have hf : fieldsOf wd = some (Sum.inl (Instr.vgth v a e b f t)) := by
    rw [fieldsOf_B 3 (by omega) (by omega)]
    show some (Sum.inl (Instr.vgth (fld wd 19) (fld wd 14) (fld wd 13) (fld wd 8) (fld wd 7) (fld wd 3))) = _
    rw [fld_eq wd 19 v g0, fld_eq wd 14 a g1, fld_eq wd 13 e g2, fld_eq wd 8 b g3, fld_eq wd 7 f g4, fld_sub wd 7 _ t 3 g5 (by decide) (by omega)]
  have hfix : wd &&& fnFixed 0xB3 = 0 := by
    show wd &&& ((2 ^ 3 - 1) * 2 ^ 0) = 0
    rw [land_run, show wd / 2 ^ 0 % 2 ^ 3 = 0 from (run_sub wd 7 _ 0 3 g5 (by decide)).trans (by omega)] <;> rfl
  have hres : wd &&& reservedBits wd = reservedValue 0xB3 := by
    rw [reservedBits_at _ h24 (by decide)]
    show wd &&& 0 = 0x0
    exact Nat.and_zero _
  refine ⟨by omega, ?_⟩
  rw [decode_word h24 hf hfix wf.1 hres wf.2.1 (by omega)]; rfl

theorem vsct (v : BitVec 5) (a : BitVec 5) (e : BitVec 1) (b : BitVec 5) (f : BitVec 1) (t : BitVec 4) : Statement (Instr.vsct v a e b f t) := by
  intro _ wf
  have bt := t.isLt
  generalize hwd : Instr.encodeNat (Instr.vsct v a e b f t) = wd
  replace hwd : encVM 0xB4 v.toNat a.toNat e.toNat b.toNat f.toNat (t.toNat * 8) = wd := hwd
  obtain ⟨h24, hh, hl, g0, g1, g2, g3, g4, g5⟩ := vm_word hwd v.isLt a.isLt e.isLt b.isLt f.isLt (by omega)
  have hf : fieldsOf wd = some (Sum.inl (Instr.vsct v a e b f t)) := by
    rw [fieldsOf_B 4 (by omega) (by omega)]
    show some (Sum.inl (Instr.vsct (fld wd 19) (fld wd 14) (fld wd 13) (fld wd 8) (fld wd 7) (fld wd 3))) = _
    rw [fld_eq wd 19 v g0, fld_eq wd 14 a g1, fld_eq wd 13 e g2, fld_eq wd 8 b g3, fld_eq wd 7 f g4, fld_sub wd 7 _ t 3 g5 (by decide) (by omega)]
  have hfix : wd &&& fnFixed 0xB4 = 0 := by
    show wd &&& ((2 ^ 3 - 1) * 2 ^ 0) = 0
    rw [land_run, show wd / 2 ^ 0 % 2 ^ 3 = 0 from (run_sub wd 7 _ 0 3 g5 (by decide)).trans (by omega)] <;> rfl
  have hres : wd &&& reservedBits wd = reservedValue 0xB4 := by
    rw [reservedBits_at _ h24 (by decide)]
    show wd &&& 0 = 0x0
    exact Nat.and_zero _
  refine ⟨by omega, ?_⟩
  rw [decode_word h24 hf hfix wf.1 hres wf.2.1 (by omega)]; rfl

theorem vgthw (v : BitVec 5) (a : BitVec 5) (e : BitVec 1) (b : BitVec 5) (f : BitVec 1) (t : BitVec 4) (x : BitVec 3) : Statement (Instr.vgthw v a e b f t x) := by
  intro _ wf
  have bt := t.isLt
  have bx := x.isLt
  generalize hwd : Instr.encodeNat (Instr.vgthw v a e b f t x) = wd
  replace hwd : encVM 0xB5 v.toNat a.toNat e.toNat b.toNat f.toNat (t.toNat * 8 + x.toNat) = wd := hwd
  obtain ⟨h24, hh, hl, g0, g1, g2, g3, g4, g5⟩ := vm_word hwd v.isLt a.isLt e.isLt b.isLt f.isLt (by omega)
  have hf : fieldsOf wd = some (Sum.inl (Instr.vgthw v a e b f t x)) := by
    rw [fieldsOf_B 5 (by omega) (by omega)]
    show some (Sum.inl (Instr.vgthw (fld wd 19) (fld wd 14) (fld wd 13) (fld wd 8) (fld wd 7) (fld wd 3) (fld wd 0))) = _
    rw [fld_eq wd 19 v g0, fld_eq wd 14 a g1, fld_eq wd 13 e g2, fld_eq wd 8 b g3, fld_eq wd 7 f g4, fld_sub wd 7 _ t 3 g5 (by decide) (by omega), fld_sub wd 7 _ x 0 g5 (by decide) (by omega)]
  have hfix : wd &&& fnFixed 0xB5 = 0 := by
    show wd &&& 0 = 0
    exact Nat.and_zero _
  have hres : wd &&& reservedBits wd = reservedValue 0xB5 := by
    rw [reservedBits_at _ h24 (by decide)]
    show wd &&& 0 = 0x0
    exact Nat.and_zero _
  refine ⟨by omega, ?_⟩
  rw [decode_word h24 hf hfix wf.1 hres wf.2.1 (by omega)]; rfl

theorem vlds (v : BitVec 5) (a : BitVec 5) (e : BitVec 1) (t : BitVec 4) : Statement (Instr.vlds v a e t) := by
  intro _ wf
  have bt := t.isLt
  generalize hwd : Instr.encodeNat (Instr.vlds v a e t) = wd
  replace hwd : encVM 0xB6 v.toNat a.toNat e.toNat 0 0 (t.toNat * 8) = wd := hwd
  obtain ⟨h24, hh, hl, g0, g1, g2, g3, g4, g5⟩ := vm_word hwd v.isLt a.isLt e.isLt (by decide) (by decide) (by omega)
  have hf : fieldsOf wd = some (Sum.inl (Instr.vlds v a e t)) := by
    rw [fieldsOf_B 6 (by omega) (by omega)]
    show some (Sum.inl (Instr.vlds (fld wd 19) (fld wd 14) (fld wd 13) (fld wd 3))) = _
    rw [fld_eq wd 19 v g0, fld_eq wd 14 a g1, fld_eq wd 13 e g2, fld_sub wd 7 _ t 3 g5 (by decide) (by omega)]
  have hfix : wd &&& fnFixed 0xB6 = 0 := by
    show wd &&& ((2 ^ 3 - 1) * 2 ^ 0) = 0
    rw [land_run, show wd / 2 ^ 0 % 2 ^ 3 = 0 from (run_sub wd 7 _ 0 3 g5 (by decide)).trans (by omega)] <;> rfl
  have hres : wd &&& reservedBits wd = reservedValue 0xB6 := by
    rw [reservedBits_at _ h24 (by decide)]
    show wd &&& (((2 ^ 1 - 1) * 2 ^ 7) ||| ((2 ^ 5 - 1) * 2 ^ 8)) = 0x0
    rw [Nat.and_or_distrib_left, land_run, land_run, g4, g3] <;> rfl
  refine ⟨by omega, ?_⟩
  rw [decode_word h24 hf hfix wf.1 hres wf.2.1 (by omega)]; rfl

theorem vsts (v : BitVec 5) (a : BitVec 5) (e : BitVec 1) (t : BitVec 4) : Statement (Instr.vsts v a e t) := by
  intro _ wf
  have bt := t.isLt
  generalize hwd : Instr.encodeNat (Instr.vsts v a e t) = wd
  replace hwd : encVM 0xB7 v.toNat a.toNat e.toNat 0 0 (t.toNat * 8) = wd := hwd
  obtain ⟨h24, hh, hl, g0, g1, g2, g3, g4, g5⟩ := vm_word hwd v.isLt a.isLt e.isLt (by decide) (by decide) (by omega)
  have hf : fieldsOf wd = some (Sum.inl (Instr.vsts v a e t)) := by
    rw [fieldsOf_B 7 (by omega) (by omega)]
    show some (Sum.inl (Instr.vsts (fld wd 19) (fld wd 14) (fld wd 13) (fld wd 3))) = _
    rw [fld_eq wd 19 v g0, fld_eq wd 14 a g1, fld_eq wd 13 e g2, fld_sub wd 7 _ t 3 g5 (by decide) (by omega)]
  have hfix : wd &&& fnFixed 0xB7 = 0 := by
    show wd &&& ((2 ^ 3 - 1) * 2 ^ 0) = 0
    rw [land_run, show wd / 2 ^ 0 % 2 ^ 3 = 0 from (run_sub wd 7 _ 0 3 g5 (by decide)).trans (by omega)] <;> rfl
  have hres : wd &&& reservedBits wd = reservedValue 0xB7 := by
    rw [reservedBits_at _ h24 (by decide)]
    show wd &&& (((2 ^ 1 - 1) * 2 ^ 7) ||| ((2 ^ 5 - 1) * 2 ^ 8)) = 0x0
    rw [Nat.and_or_distrib_left, land_run, land_run, g4, g3] <;> rfl
  refine ⟨by omega, ?_⟩
  rw [decode_word h24 hf hfix wf.1 hres wf.2.1 (by omega)]; rfl

theorem vgths (v : BitVec 5) (a : BitVec 5) (e : BitVec 1) (b : BitVec 5) (f : BitVec 1) (t : BitVec 4) : Statement (Instr.vgths v a e b f t) := by
  intro _ wf
  have bt := t.isLt
  generalize hwd : Instr.encodeNat (Instr.vgths v a e b f t) = wd
  replace hwd : encVM 0xB8 v.toNat a.toNat e.toNat b.toNat f.toNat (t.toNat * 8) = wd := hwd
  obtain ⟨h24, hh, hl, g0, g1, g2, g3, g4, g5⟩ := vm_word hwd v.isLt a.isLt e.isLt b.isLt f.isLt (by omega)
  have hf : fieldsOf wd = some (Sum.inl (Instr.vgths v a e b f t)) := by
    rw [fieldsOf_B 8 (by omega) (by omega)]
    show some (Sum.inl (Instr.vgths (fld wd 19) (fld wd 14) (fld wd 13) (fld wd 8) (fld wd 7) (fld wd 3))) = _
    rw [fld_eq wd 19 v g0, fld_eq wd 14 a g1, fld_eq wd 13 e g2, fld_eq wd 8 b g3, fld_eq wd 7 f g4, fld_sub wd 7 _ t 3 g5 (by decide) (by omega)]
  have hfix : wd &&& fnFixed 0xB8 = 0 := by
    show wd &&& ((2 ^ 3 - 1) * 2 ^ 0) = 0
    rw [land_run, show wd / 2 ^ 0 % 2 ^ 3 = 0 from (run_sub wd 7 _ 0 3 g5 (by decide)).trans (by omega)] <;> rfl
  have hres : wd &&& reservedBits wd = reservedValue 0xB8 := by
    rw [reservedBits_at _ h24 (by decide)]
    show wd &&& 0 = 0x0
    exact Nat.and_zero _
  refine ⟨by omega, ?_⟩
  rw [decode_word h24 hf hfix wf.1 hres wf.2.1 (by omega)]; rfl

theorem vscts (v : BitVec 5) (a : BitVec 5) (e : BitVec 1) (b : BitVec 5) (f : BitVec 1) (t : BitVec 4) : Statement (Instr.vscts v a e b f t) := by
  intro _ wf
  have bt := t.isLt
  generalize hwd : Instr.encodeNat (Instr.vscts v a e b f t) = wd
  replace hwd : encVM 0xB9 v.toNat a.toNat e.toNat b.toNat f.toNat (t.toNat * 8) = wd := hwd
  obtain ⟨h24, hh, hl, g0, g1, g2, g3, g4, g5⟩ := vm_word hwd v.isLt a.isLt e.isLt b.isLt f.isLt (by omega)
  have hf : fieldsOf wd = some (Sum.inl (Instr.vscts v a e b f t)) := by
    rw [fieldsOf_B 9 (by omega) (by omega)]
    show some (Sum.inl (Instr.vscts (fld wd 19) (fld wd 14) (fld wd 13) (fld wd 8) (fld wd 7) (fld wd 3))) = _
    rw [fld_eq wd 19 v g0, fld_eq wd 14 a g1, fld_eq wd 13 e g2, fld_eq wd 8 b g3, fld_eq wd 7 f g4, fld_sub wd 7 _ t 3 g5 (by decide) (by omega)]
  have hfix : wd &&& fnFixed 0xB9 = 0 := by
    show wd &&& ((2 ^ 3 - 1) * 2 ^ 0) = 0
    rw [land_run, show wd / 2 ^ 0 % 2 ^ 3 = 0 from (run_sub wd 7 _ 0 3 g5 (by decide)).trans (by omega)] <;> rfl
  have hres : wd &&& reservedBits wd = reservedValue 0xB9 := by
    rw [reservedBits_at _ h24 (by decide)]
    show wd &&& 0 = 0x0
    exact Nat.and_zero _
  refine ⟨by omega, ?_⟩
  rw [decode_word h24 hf hfix wf.1 hres wf.2.1 (by omega)]; rfl

theorem vspill (v : BitVec 5) (a : BitVec 5) (e : BitVec 1) : Statement (Instr.vspill v a e) := by
  intro _ wf
  generalize hwd : Instr.encodeNat (Instr.vspill v a e) = wd
  replace hwd : encVM 0xBA v.toNat a.toNat e.toNat 0 0 0 = wd := hwd
  obtain ⟨h24, hh, hl, g0, g1, g2, g3, g4, g5⟩ := vm_word hwd v.isLt a.isLt e.isLt (by decide) (by decide) (by decide)
  have hf : fieldsOf wd = some (Sum.inl (Instr.vspill v a e)) := by
    rw [fieldsOf_B 10 (by omega) (by omega)]
    show some (Sum.inl (Instr.vspill (fld wd 19) (fld wd 14) (fld wd 13))) = _
    rw [fld_eq wd 19 v g0, fld_eq wd 14 a g1, fld_eq wd 13 e g2]
  have hfix : wd &&& fnFixed 0xBA = 0 := by
    show wd &&& ((2 ^ 7 - 1) * 2 ^ 0) = 0
    rw [land_run, show wd / 2 ^ 0 % 2 ^ 7 = 0 from (by rw [Nat.pow_zero, Nat.div_one]; exact g5)] <;> rfl
  have hres : wd &&& reservedBits wd = reservedValue 0xBA := by
    rw [reservedBits_at _ h24 (by decide)]
    show wd &&& (((2 ^ 1 - 1) * 2 ^ 7) ||| ((2 ^ 5 - 1) * 2 ^ 8)) = 0x0
    rw [Nat.and_or_distrib_left, land_run, land_run, g4, g3] <;> rfl
  refine ⟨by omega, ?_⟩
  rw [decode_word h24 hf hfix wf.1 hres wf.2.1 (by omega)]; rfl

theorem vfill (v : BitVec 5) (a : BitVec 5) (e : BitVec 1) : Statement (Instr.vfill v a e) := by
  intro _ wf
  generalize hwd : Instr.encodeNat (Instr.vfill v a e) = wd
  replace hwd : encVM 0xBB v.toNat a.toNat e.toNat 0 0 0 = wd := hwd
  obtain ⟨h24, hh, hl, g0, g1, g2, g3, g4, g5⟩ := vm_word hwd v.isLt a.isLt e.isLt (by decide) (by decide) (by decide)
  have hf : fieldsOf wd = some (Sum.inl (Instr.vfill v a e)) := by
    rw [fieldsOf_B 11 (by omega) (by omega)]
    show some (Sum.inl (Instr.vfill (fld wd 19) (fld wd 14) (fld wd 13))) = _
    rw [fld_eq wd 19 v g0, fld_eq wd 14 a g1, fld_eq wd 13 e g2]
  have hfix : wd &&& fnFixed 0xBB = 0 := by
    show wd &&& ((2 ^ 7 - 1) * 2 ^ 0) = 0
    rw [land_run, show wd / 2 ^ 0 % 2 ^ 7 = 0 from (by rw [Nat.pow_zero, Nat.div_one]; exact g5)] <;> rfl
  have hres : wd &&& reservedBits wd = reservedValue 0xBB := by
    rw [reservedBits_at _ h24 (by decide)]
    show wd &&& (((2 ^ 1 - 1) * 2 ^ 7) ||| ((2 ^ 5 - 1) * 2 ^ 8)) = 0x0
    rw [Nat.and_or_distrib_left, land_run, land_run, g4, g3] <;> rfl
  refine ⟨by omega, ?_⟩
  rw [decode_word h24 hf hfix wf.1 hres wf.2.1 (by omega)]; rfl

theorem vldbc (v : BitVec 5) (a : BitVec 5) (e : BitVec 1) (t : BitVec 4) : Statement (Instr.vldbc v a e t) := by
  intro _ wf
  have bt := t.isLt
  generalize hwd : Instr.encodeNat (Instr.vldbc v a e t) = wd
  replace hwd : encVM 0xBC v.toNat a.toNat e.toNat 0 0 (t.toNat * 8) = wd := hwd
  obtain ⟨h24, hh, hl, g0, g1, g2, g3, g4, g5⟩ := vm_word hwd v.isLt a.isLt e.isLt (by decide) (by decide) (by omega)
  have hf : fieldsOf wd = some (Sum.inl (Instr.vldbc v a e t)) := by
    rw [fieldsOf_B 12 (by omega) (by omega)]
    show some (Sum.inl (Instr.vldbc (fld wd 19) (fld wd 14) (fld wd 13) (fld wd 3))) = _
    rw [fld_eq wd 19 v g0, fld_eq wd 14 a g1, fld_eq wd 13 e g2, fld_sub wd 7 _ t 3 g5 (by decide) (by omega)]
  have hfix : wd &&& fnFixed 0xBC = 0 := by
    show wd &&& ((2 ^ 3 - 1) * 2 ^ 0) = 0
    rw [land_run, show wd / 2 ^ 0 % 2 ^ 3 = 0 from (run_sub wd 7 _ 0 3 g5 (by decide)).trans (by omega)] <;> rfl
  have hres : wd &&& reservedBits wd = reservedValue 0xBC := by
    rw [reservedBits_at _ h24 (by decide)]
    show wd &&& (((2 ^ 1 - 1) * 2 ^ 7) ||| ((2 ^ 5 - 1) * 2 ^ 8)) = 0x0
    rw [Nat.and_or_distrib_left, land_run, land_run, g4, g3] <;> rfl
  refine ⟨by omega, ?_⟩
  rw [decode_word h24 hf hfix wf.1 hres wf.2.1 (by omega)]; rfl

theorem vpref (a : BitVec 5) (e : BitVec 1) (t : BitVec 4) (k : BitVec 2) : Statement (Instr.vpref a e t k) := by
  intro _ wf
  have bk := k.isLt
  have bt := t.isLt
  generalize hwd : Instr.encodeNat (Instr.vpref a e t k) = wd
  replace hwd : encVM 0xBD 0 a.toNat e.toNat 0 0 (t.toNat * 8 + k.toNat) = wd := hwd
  obtain ⟨h24, hh, hl, g0, g1, g2, g3, g4, g5⟩ := vm_word hwd (by decide) a.isLt e.isLt (by decide) (by decide) (by omega)
  have hf : fieldsOf wd = some (Sum.inl (Instr.vpref a e t k)) := by
    rw [fieldsOf_B 13 (by omega) (by omega)]
    show some (Sum.inl (Instr.vpref (fld wd 14) (fld wd 13) (fld wd 3) (fld wd 0))) = _
    rw [fld_eq wd 14 a g1, fld_eq wd 13 e g2, fld_sub wd 7 _ t 3 g5 (by decide) (by omega), fld_sub wd 7 _ k 0 g5 (by decide) (by omega)]
  have hfix : wd &&& fnFixed 0xBD = 0 := by
    show wd &&& ((2 ^ 1 - 1) * 2 ^ 2) = 0
    rw [land_run, show wd / 2 ^ 2 % 2 ^ 1 = 0 from (run_sub wd 7 _ 2 1 g5 (by decide)).trans (by omega)] <;> rfl
  have hres : wd &&& reservedBits wd = reservedValue 0xBD := by
    rw [reservedBits_at _ h24 (by decide)]
    show wd &&& ((((2 ^ 1 - 1) * 2 ^ 7) ||| ((2 ^ 5 - 1) * 2 ^ 8)) ||| ((2 ^ 5 - 1) * 2 ^ 19)) = 0x0
    rw [Nat.and_or_distrib_left, Nat.and_or_distrib_left, land_run, land_run, land_run, g4, g3, g0] <;> rfl
  refine ⟨by omega, ?_⟩
  rw [decode_word h24 hf hfix wf.1 hres wf.2.1 (by omega)]; rfl

theorem vldsg (v : BitVec 5) (a : BitVec 5) (e : BitVec 1) (t : BitVec 4) (x : BitVec 3) : Statement (Instr.vldsg v a e t x) := by
  intro _ wf
  have bt := t.isLt
  have bx := x.isLt
  generalize hwd : Instr.encodeNat (Instr.vldsg v a e t x) = wd
  replace hwd : encVM 0xBE v.toNat a.toNat e.toNat 0 0 (t.toNat * 8 + x.toNat) = wd := hwd
  obtain ⟨h24, hh, hl, g0, g1, g2, g3, g4, g5⟩ := vm_word hwd v.isLt a.isLt e.isLt (by decide) (by decide) (by omega)
  have hf : fieldsOf wd = some (Sum.inl (Instr.vldsg v a e t x)) := by
    rw [fieldsOf_B 14 (by omega) (by omega)]
    show some (Sum.inl (Instr.vldsg (fld wd 19) (fld wd 14) (fld wd 13) (fld wd 3) (fld wd 0))) = _
    rw [fld_eq wd 19 v g0, fld_eq wd 14 a g1, fld_eq wd 13 e g2, fld_sub wd 7 _ t 3 g5 (by decide) (by omega), fld_sub wd 7 _ x 0 g5 (by decide) (by omega)]
  have hfix : wd &&& fnFixed 0xBE = 0 := by
    show wd &&& 0 = 0
    exact Nat.and_zero _
  have hres : wd &&& reservedBits wd = reservedValue 0xBE := by
    rw [reservedBits_at _ h24 (by decide)]
    show wd &&& (((2 ^ 1 - 1) * 2 ^ 7) ||| ((2 ^ 5 - 1) * 2 ^ 8)) = 0x0
    rw [Nat.and_or_distrib_left, land_run, land_run, g4, g3] <;> rfl
  refine ⟨by omega, ?_⟩
  rw [decode_word h24 hf hfix wf.1 hres wf.2.1 (by omega)]; rfl

theorem vstsg (v : BitVec 5) (a : BitVec 5) (e : BitVec 1) (t : BitVec 4) (x : BitVec 3) : Statement (Instr.vstsg v a e t x) := by
  intro _ wf
  have bt := t.isLt
  have bx := x.isLt
  generalize hwd : Instr.encodeNat (Instr.vstsg v a e t x) = wd
  replace hwd : encVM 0xBF v.toNat a.toNat e.toNat 0 0 (t.toNat * 8 + x.toNat) = wd := hwd
  obtain ⟨h24, hh, hl, g0, g1, g2, g3, g4, g5⟩ := vm_word hwd v.isLt a.isLt e.isLt (by decide) (by decide) (by omega)
  have hf : fieldsOf wd = some (Sum.inl (Instr.vstsg v a e t x)) := by
    rw [fieldsOf_B 15 (by omega) (by omega)]
    show some (Sum.inl (Instr.vstsg (fld wd 19) (fld wd 14) (fld wd 13) (fld wd 3) (fld wd 0))) = _
    rw [fld_eq wd 19 v g0, fld_eq wd 14 a g1, fld_eq wd 13 e g2, fld_sub wd 7 _ t 3 g5 (by decide) (by omega), fld_sub wd 7 _ x 0 g5 (by decide) (by omega)]
  have hfix : wd &&& fnFixed 0xBF = 0 := by
    show wd &&& 0 = 0
    exact Nat.and_zero _
  have hres : wd &&& reservedBits wd = reservedValue 0xBF := by
    rw [reservedBits_at _ h24 (by decide)]
    show wd &&& (((2 ^ 1 - 1) * 2 ^ 7) ||| ((2 ^ 5 - 1) * 2 ^ 8)) = 0x0
    rw [Nat.and_or_distrib_left, land_run, land_run, g4, g3] <;> rfl
  refine ⟨by omega, ?_⟩
  rw [decode_word h24 hf hfix wf.1 hres wf.2.1 (by omega)]; rfl

theorem vcvt (d : BitVec 5) (a : BitVec 5) (u : BitVec 4) (e : BitVec 1) (t : BitVec 4) (v : BitVec 3) : Statement (Instr.vcvt d a u e t v) := by
  intro _ wf
  have bt := t.isLt
  have bu := u.isLt
  have bv := v.isLt
  generalize hwd : Instr.encodeNat (Instr.vcvt d a u e t v) = wd
  replace hwd : encRRR 0xC0 d.toNat a.toNat u.toNat e.toNat 0 (t.toNat * 8 + v.toNat) = wd := hwd
  obtain ⟨h24, hh, hl, g0, g1, g2, g3, g4, g5⟩ := rrr_word hwd d.isLt a.isLt (by omega) e.isLt (by decide) (by omega)
  have hf : fieldsOf wd = some (Sum.inl (Instr.vcvt d a u e t v)) := by
    rw [fieldsOf_C 0 (by omega) (by omega)]
    show some (Sum.inl (Instr.vcvt (fld wd 19) (fld wd 14) (fld wd 9) (fld wd 8) (fld wd 3) (fld wd 0))) = _
    rw [fld_eq wd 19 d g0, fld_eq wd 14 a g1, fld_eq wd 9 u (by omega), fld_eq wd 8 e g3, fld_sub wd 7 _ t 3 g5 (by decide) (by omega), fld_sub wd 7 _ v 0 g5 (by decide) (by omega)]
  have hfix : wd &&& fnFixed 0xC0 = 0 := by
    show wd &&& 0 = 0
    exact Nat.and_zero _
  have hres : wd &&& reservedBits wd = reservedValue 0xC0 := by
    rw [reservedBits_at _ h24 (by decide)]
    show wd &&& (((2 ^ 1 - 1) * 2 ^ 7) ||| ((2 ^ 1 - 1) * 2 ^ 13)) = 0x0
    rw [Nat.and_or_distrib_left, land_run, land_run, g4, show wd / 2 ^ 13 % 2 ^ 1 = 0 by omega] <;> rfl
  refine ⟨by omega, ?_⟩
  rw [decode_word h24 hf hfix wf.1 hres wf.2.1 (by omega)]; rfl

theorem vcvti (d : BitVec 5) (a : BitVec 5) (u : BitVec 4) (e : BitVec 1) (t : BitVec 4) (v : BitVec 3) : Statement (Instr.vcvti d a u e t v) := by
  intro _ wf
  have bt := t.isLt
  have bu := u.isLt
  have bv := v.isLt
  generalize hwd : Instr.encodeNat (Instr.vcvti d a u e t v) = wd
  replace hwd : encRRR 0xC1 d.toNat a.toNat u.toNat e.toNat 0 (t.toNat * 8 + v.toNat) = wd := hwd
  obtain ⟨h24, hh, hl, g0, g1, g2, g3, g4, g5⟩ := rrr_word hwd d.isLt a.isLt (by omega) e.isLt (by decide) (by omega)
  have hf : fieldsOf wd = some (Sum.inl (Instr.vcvti d a u e t v)) := by
    rw [fieldsOf_C 1 (by omega) (by omega)]
    show some (Sum.inl (Instr.vcvti (fld wd 19) (fld wd 14) (fld wd 9) (fld wd 8) (fld wd 3) (fld wd 0))) = _
    rw [fld_eq wd 19 d g0, fld_eq wd 14 a g1, fld_eq wd 9 u (by omega), fld_eq wd 8 e g3, fld_sub wd 7 _ t 3 g5 (by decide) (by omega), fld_sub wd 7 _ v 0 g5 (by decide) (by omega)]
  have hfix : wd &&& fnFixed 0xC1 = 0 := by
    show wd &&& 0 = 0
    exact Nat.and_zero _
  have hres : wd &&& reservedBits wd = reservedValue 0xC1 := by
    rw [reservedBits_at _ h24 (by decide)]
    show wd &&& (((2 ^ 1 - 1) * 2 ^ 7) ||| ((2 ^ 1 - 1) * 2 ^ 13)) = 0x0
    rw [Nat.and_or_distrib_left, land_run, land_run, g4, show wd / 2 ^ 13 % 2 ^ 1 = 0 by omega] <;> rfl
  refine ⟨by omega, ?_⟩
  rw [decode_word h24 hf hfix wf.1 hres wf.2.1 (by omega)]; rfl

theorem vicvt (d : BitVec 5) (a : BitVec 5) (u : BitVec 4) (e : BitVec 1) (t : BitVec 4) (v : BitVec 3) : Statement (Instr.vicvt d a u e t v) := by
  intro _ wf
  have bt := t.isLt
  have bu := u.isLt
  have bv := v.isLt
  generalize hwd : Instr.encodeNat (Instr.vicvt d a u e t v) = wd
  replace hwd : encRRR 0xC2 d.toNat a.toNat u.toNat e.toNat 0 (t.toNat * 8 + v.toNat) = wd := hwd
  obtain ⟨h24, hh, hl, g0, g1, g2, g3, g4, g5⟩ := rrr_word hwd d.isLt a.isLt (by omega) e.isLt (by decide) (by omega)
  have hf : fieldsOf wd = some (Sum.inl (Instr.vicvt d a u e t v)) := by
    rw [fieldsOf_C 2 (by omega) (by omega)]
    show some (Sum.inl (Instr.vicvt (fld wd 19) (fld wd 14) (fld wd 9) (fld wd 8) (fld wd 3) (fld wd 0))) = _
    rw [fld_eq wd 19 d g0, fld_eq wd 14 a g1, fld_eq wd 9 u (by omega), fld_eq wd 8 e g3, fld_sub wd 7 _ t 3 g5 (by decide) (by omega), fld_sub wd 7 _ v 0 g5 (by decide) (by omega)]
  have hfix : wd &&& fnFixed 0xC2 = 0 := by
    show wd &&& 0 = 0
    exact Nat.and_zero _
  have hres : wd &&& reservedBits wd = reservedValue 0xC2 := by
    rw [reservedBits_at _ h24 (by decide)]
    show wd &&& (((2 ^ 1 - 1) * 2 ^ 7) ||| ((2 ^ 1 - 1) * 2 ^ 13)) = 0x0
    rw [Nat.and_or_distrib_left, land_run, land_run, g4, show wd / 2 ^ 13 % 2 ^ 1 = 0 by omega] <;> rfl
  refine ⟨by omega, ?_⟩
  rw [decode_word h24 hf hfix wf.1 hres wf.2.1 (by omega)]; rfl

theorem vnarw (d : BitVec 5) (a : BitVec 5) (u : BitVec 4) (e : BitVec 1) (t : BitVec 4) : Statement (Instr.vnarw d a u e t) := by
  intro _ wf
  have bt := t.isLt
  have bu := u.isLt
  generalize hwd : Instr.encodeNat (Instr.vnarw d a u e t) = wd
  replace hwd : encRRR 0xC3 d.toNat a.toNat u.toNat e.toNat 0 (t.toNat * 8) = wd := hwd
  obtain ⟨h24, hh, hl, g0, g1, g2, g3, g4, g5⟩ := rrr_word hwd d.isLt a.isLt (by omega) e.isLt (by decide) (by omega)
  have hf : fieldsOf wd = some (Sum.inl (Instr.vnarw d a u e t)) := by
    rw [fieldsOf_C 3 (by omega) (by omega)]
    show some (Sum.inl (Instr.vnarw (fld wd 19) (fld wd 14) (fld wd 9) (fld wd 8) (fld wd 3))) = _
    rw [fld_eq wd 19 d g0, fld_eq wd 14 a g1, fld_eq wd 9 u (by omega), fld_eq wd 8 e g3, fld_sub wd 7 _ t 3 g5 (by decide) (by omega)]
  have hfix : wd &&& fnFixed 0xC3 = 0 := by
    show wd &&& ((2 ^ 3 - 1) * 2 ^ 0) = 0
    rw [land_run, show wd / 2 ^ 0 % 2 ^ 3 = 0 from (run_sub wd 7 _ 0 3 g5 (by decide)).trans (by omega)] <;> rfl
  have hres : wd &&& reservedBits wd = reservedValue 0xC3 := by
    rw [reservedBits_at _ h24 (by decide)]
    show wd &&& (((2 ^ 1 - 1) * 2 ^ 7) ||| ((2 ^ 1 - 1) * 2 ^ 13)) = 0x0
    rw [Nat.and_or_distrib_left, land_run, land_run, g4, show wd / 2 ^ 13 % 2 ^ 1 = 0 by omega] <;> rfl
  refine ⟨by omega, ?_⟩
  rw [decode_word h24 hf hfix wf.1 hres wf.2.1 (by omega)]; rfl

theorem vwidn (d : BitVec 5) (a : BitVec 5) (u : BitVec 4) (e : BitVec 1) (t : BitVec 4) : Statement (Instr.vwidn d a u e t) := by
  intro _ wf
  have bt := t.isLt
  have bu := u.isLt
  generalize hwd : Instr.encodeNat (Instr.vwidn d a u e t) = wd
  replace hwd : encRRR 0xC4 d.toNat a.toNat u.toNat e.toNat 0 (t.toNat * 8) = wd := hwd
  obtain ⟨h24, hh, hl, g0, g1, g2, g3, g4, g5⟩ := rrr_word hwd d.isLt a.isLt (by omega) e.isLt (by decide) (by omega)
  have hf : fieldsOf wd = some (Sum.inl (Instr.vwidn d a u e t)) := by
    rw [fieldsOf_C 4 (by omega) (by omega)]
    show some (Sum.inl (Instr.vwidn (fld wd 19) (fld wd 14) (fld wd 9) (fld wd 8) (fld wd 3))) = _
    rw [fld_eq wd 19 d g0, fld_eq wd 14 a g1, fld_eq wd 9 u (by omega), fld_eq wd 8 e g3, fld_sub wd 7 _ t 3 g5 (by decide) (by omega)]
  have hfix : wd &&& fnFixed 0xC4 = 0 := by
    show wd &&& ((2 ^ 3 - 1) * 2 ^ 0) = 0
    rw [land_run, show wd / 2 ^ 0 % 2 ^ 3 = 0 from (run_sub wd 7 _ 0 3 g5 (by decide)).trans (by omega)] <;> rfl
  have hres : wd &&& reservedBits wd = reservedValue 0xC4 := by
    rw [reservedBits_at _ h24 (by decide)]
    show wd &&& (((2 ^ 1 - 1) * 2 ^ 7) ||| ((2 ^ 1 - 1) * 2 ^ 13)) = 0x0
    rw [Nat.and_or_distrib_left, land_run, land_run, g4, show wd / 2 ^ 13 % 2 ^ 1 = 0 by omega] <;> rfl
  refine ⟨by omega, ?_⟩
  rw [decode_word h24 hf hfix wf.1 hres wf.2.1 (by omega)]; rfl

theorem vqnt (d : BitVec 5) (a : BitVec 5) (b : BitVec 5) (e : BitVec 1) (f : BitVec 1) (q : BitVec 4) (g : BitVec 2) : Statement (Instr.vqnt d a b e f q g) := by
  intro _ wf
  have bg := g.isLt
  have bq := q.isLt
  generalize hwd : Instr.encodeNat (Instr.vqnt d a b e f q g) = wd
  replace hwd : encRRR 0xC5 d.toNat a.toNat b.toNat e.toNat f.toNat (q.toNat * 8 + g.toNat) = wd := hwd
  obtain ⟨h24, hh, hl, g0, g1, g2, g3, g4, g5⟩ := rrr_word hwd d.isLt a.isLt b.isLt e.isLt f.isLt (by omega)
  have hf : fieldsOf wd = some (Sum.inl (Instr.vqnt d a b e f q g)) := by
    rw [fieldsOf_C 5 (by omega) (by omega)]
    show some (Sum.inl (Instr.vqnt (fld wd 19) (fld wd 14) (fld wd 9) (fld wd 8) (fld wd 7) (fld wd 3) (fld wd 0))) = _
    rw [fld_eq wd 19 d g0, fld_eq wd 14 a g1, fld_eq wd 9 b g2, fld_eq wd 8 e g3, fld_eq wd 7 f g4, fld_sub wd 7 _ q 3 g5 (by decide) (by omega), fld_sub wd 7 _ g 0 g5 (by decide) (by omega)]
  have hfix : wd &&& fnFixed 0xC5 = 0 := by
    show wd &&& ((2 ^ 1 - 1) * 2 ^ 2) = 0
    rw [land_run, show wd / 2 ^ 2 % 2 ^ 1 = 0 from (run_sub wd 7 _ 2 1 g5 (by decide)).trans (by omega)] <;> rfl
  have hres : wd &&& reservedBits wd = reservedValue 0xC5 := by
    rw [reservedBits_at _ h24 (by decide)]
    show wd &&& 0 = 0x0
    exact Nat.and_zero _
  refine ⟨by omega, ?_⟩
  rw [decode_word h24 hf hfix wf.1 hres wf.2.1 (by omega)]; rfl

theorem vdqnt (d : BitVec 5) (a : BitVec 5) (b : BitVec 5) (e : BitVec 1) (f : BitVec 1) (q : BitVec 4) (g : BitVec 2) : Statement (Instr.vdqnt d a b e f q g) := by
  intro _ wf
  have bg := g.isLt
  have bq := q.isLt
  generalize hwd : Instr.encodeNat (Instr.vdqnt d a b e f q g) = wd
  replace hwd : encRRR 0xC6 d.toNat a.toNat b.toNat e.toNat f.toNat (q.toNat * 8 + g.toNat) = wd := hwd
  obtain ⟨h24, hh, hl, g0, g1, g2, g3, g4, g5⟩ := rrr_word hwd d.isLt a.isLt b.isLt e.isLt f.isLt (by omega)
  have hf : fieldsOf wd = some (Sum.inl (Instr.vdqnt d a b e f q g)) := by
    rw [fieldsOf_C 6 (by omega) (by omega)]
    show some (Sum.inl (Instr.vdqnt (fld wd 19) (fld wd 14) (fld wd 9) (fld wd 8) (fld wd 7) (fld wd 3) (fld wd 0))) = _
    rw [fld_eq wd 19 d g0, fld_eq wd 14 a g1, fld_eq wd 9 b g2, fld_eq wd 8 e g3, fld_eq wd 7 f g4, fld_sub wd 7 _ q 3 g5 (by decide) (by omega), fld_sub wd 7 _ g 0 g5 (by decide) (by omega)]
  have hfix : wd &&& fnFixed 0xC6 = 0 := by
    show wd &&& ((2 ^ 1 - 1) * 2 ^ 2) = 0
    rw [land_run, show wd / 2 ^ 2 % 2 ^ 1 = 0 from (run_sub wd 7 _ 2 1 g5 (by decide)).trans (by omega)] <;> rfl
  have hres : wd &&& reservedBits wd = reservedValue 0xC6 := by
    rw [reservedBits_at _ h24 (by decide)]
    show wd &&& 0 = 0x0
    exact Nat.and_zero _
  refine ⟨by omega, ?_⟩
  rw [decode_word h24 hf hfix wf.1 hres wf.2.1 (by omega)]; rfl

theorem vbscl (d : BitVec 5) (a : BitVec 5) (e : BitVec 1) (q : BitVec 4) (g : BitVec 2) : Statement (Instr.vbscl d a e q g) := by
  intro _ wf
  have bg := g.isLt
  have bq := q.isLt
  generalize hwd : Instr.encodeNat (Instr.vbscl d a e q g) = wd
  replace hwd : encRRR 0xC7 d.toNat a.toNat 0 e.toNat 0 (q.toNat * 8 + g.toNat) = wd := hwd
  obtain ⟨h24, hh, hl, g0, g1, g2, g3, g4, g5⟩ := rrr_word hwd d.isLt a.isLt (by decide) e.isLt (by decide) (by omega)
  have hf : fieldsOf wd = some (Sum.inl (Instr.vbscl d a e q g)) := by
    rw [fieldsOf_C 7 (by omega) (by omega)]
    show some (Sum.inl (Instr.vbscl (fld wd 19) (fld wd 14) (fld wd 8) (fld wd 3) (fld wd 0))) = _
    rw [fld_eq wd 19 d g0, fld_eq wd 14 a g1, fld_eq wd 8 e g3, fld_sub wd 7 _ q 3 g5 (by decide) (by omega), fld_sub wd 7 _ g 0 g5 (by decide) (by omega)]
  have hfix : wd &&& fnFixed 0xC7 = 0 := by
    show wd &&& ((2 ^ 1 - 1) * 2 ^ 2) = 0
    rw [land_run, show wd / 2 ^ 2 % 2 ^ 1 = 0 from (run_sub wd 7 _ 2 1 g5 (by decide)).trans (by omega)] <;> rfl
  have hres : wd &&& reservedBits wd = reservedValue 0xC7 := by
    rw [reservedBits_at _ h24 (by decide)]
    show wd &&& (((2 ^ 1 - 1) * 2 ^ 7) ||| ((2 ^ 5 - 1) * 2 ^ 9)) = 0x0
    rw [Nat.and_or_distrib_left, land_run, land_run, g4, g2] <;> rfl
  refine ⟨by omega, ?_⟩
  rw [decode_word h24 hf hfix wf.1 hres wf.2.1 (by omega)]; rfl

theorem vfrnd (d : BitVec 5) (a : BitVec 5) (e : BitVec 1) (t : BitVec 4) (v : BitVec 3) : Statement (Instr.vfrnd d a e t v) := by
  intro _ wf
  have bt := t.isLt
  have bv := v.isLt
  generalize hwd : Instr.encodeNat (Instr.vfrnd d a e t v) = wd
  replace hwd : encRRR 0xC8 d.toNat a.toNat 0 e.toNat 0 (t.toNat * 8 + v.toNat) = wd := hwd
  obtain ⟨h24, hh, hl, g0, g1, g2, g3, g4, g5⟩ := rrr_word hwd d.isLt a.isLt (by decide) e.isLt (by decide) (by omega)
  have hf : fieldsOf wd = some (Sum.inl (Instr.vfrnd d a e t v)) := by
    rw [fieldsOf_C 8 (by omega) (by omega)]
    show some (Sum.inl (Instr.vfrnd (fld wd 19) (fld wd 14) (fld wd 8) (fld wd 3) (fld wd 0))) = _
    rw [fld_eq wd 19 d g0, fld_eq wd 14 a g1, fld_eq wd 8 e g3, fld_sub wd 7 _ t 3 g5 (by decide) (by omega), fld_sub wd 7 _ v 0 g5 (by decide) (by omega)]
  have hfix : wd &&& fnFixed 0xC8 = 0 := by
    show wd &&& 0 = 0
    exact Nat.and_zero _
  have hres : wd &&& reservedBits wd = reservedValue 0xC8 := by
    rw [reservedBits_at _ h24 (by decide)]
    show wd &&& (((2 ^ 1 - 1) * 2 ^ 7) ||| ((2 ^ 5 - 1) * 2 ^ 9)) = 0x0
    rw [Nat.and_or_distrib_left, land_run, land_run, g4, g2] <;> rfl
  refine ⟨by omega, ?_⟩
  rw [decode_word h24 hf hfix wf.1 hres wf.2.1 (by omega)]; rfl

theorem vfcls (d : BitVec 5) (a : BitVec 5) (e : BitVec 1) (t : BitVec 4) : Statement (Instr.vfcls d a e t) := by
  intro _ wf
  have bt := t.isLt
  generalize hwd : Instr.encodeNat (Instr.vfcls d a e t) = wd
  replace hwd : encRRR 0xC9 d.toNat a.toNat 0 e.toNat 0 (t.toNat * 8) = wd := hwd
  obtain ⟨h24, hh, hl, g0, g1, g2, g3, g4, g5⟩ := rrr_word hwd d.isLt a.isLt (by decide) e.isLt (by decide) (by omega)
  have hf : fieldsOf wd = some (Sum.inl (Instr.vfcls d a e t)) := by
    rw [fieldsOf_C 9 (by omega) (by omega)]
    show some (Sum.inl (Instr.vfcls (fld wd 19) (fld wd 14) (fld wd 8) (fld wd 3))) = _
    rw [fld_eq wd 19 d g0, fld_eq wd 14 a g1, fld_eq wd 8 e g3, fld_sub wd 7 _ t 3 g5 (by decide) (by omega)]
  have hfix : wd &&& fnFixed 0xC9 = 0 := by
    show wd &&& ((2 ^ 3 - 1) * 2 ^ 0) = 0
    rw [land_run, show wd / 2 ^ 0 % 2 ^ 3 = 0 from (run_sub wd 7 _ 0 3 g5 (by decide)).trans (by omega)] <;> rfl
  have hres : wd &&& reservedBits wd = reservedValue 0xC9 := by
    rw [reservedBits_at _ h24 (by decide)]
    show wd &&& (((2 ^ 1 - 1) * 2 ^ 7) ||| ((2 ^ 5 - 1) * 2 ^ 9)) = 0x0
    rw [Nat.and_or_distrib_left, land_run, land_run, g4, g2] <;> rfl
  refine ⟨by omega, ?_⟩
  rw [decode_word h24 hf hfix wf.1 hres wf.2.1 (by omega)]; rfl

theorem vpk (d : BitVec 5) (a : BitVec 5) (b : BitVec 5) (e : BitVec 1) (f : BitVec 1) (t : BitVec 4) : Statement (Instr.vpk d a b e f t) := by
  intro _ wf
  have bt := t.isLt
  generalize hwd : Instr.encodeNat (Instr.vpk d a b e f t) = wd
  replace hwd : encRRR 0xCA d.toNat a.toNat b.toNat e.toNat f.toNat (t.toNat * 8) = wd := hwd
  obtain ⟨h24, hh, hl, g0, g1, g2, g3, g4, g5⟩ := rrr_word hwd d.isLt a.isLt b.isLt e.isLt f.isLt (by omega)
  have hf : fieldsOf wd = some (Sum.inl (Instr.vpk d a b e f t)) := by
    rw [fieldsOf_C 10 (by omega) (by omega)]
    show some (Sum.inl (Instr.vpk (fld wd 19) (fld wd 14) (fld wd 9) (fld wd 8) (fld wd 7) (fld wd 3))) = _
    rw [fld_eq wd 19 d g0, fld_eq wd 14 a g1, fld_eq wd 9 b g2, fld_eq wd 8 e g3, fld_eq wd 7 f g4, fld_sub wd 7 _ t 3 g5 (by decide) (by omega)]
  have hfix : wd &&& fnFixed 0xCA = 0 := by
    show wd &&& ((2 ^ 3 - 1) * 2 ^ 0) = 0
    rw [land_run, show wd / 2 ^ 0 % 2 ^ 3 = 0 from (run_sub wd 7 _ 0 3 g5 (by decide)).trans (by omega)] <;> rfl
  have hres : wd &&& reservedBits wd = reservedValue 0xCA := by
    rw [reservedBits_at _ h24 (by decide)]
    show wd &&& 0 = 0x0
    exact Nat.and_zero _
  refine ⟨by omega, ?_⟩
  rw [decode_word h24 hf hfix wf.1 hres wf.2.1 (by omega)]; rfl

theorem vupk (d : BitVec 5) (a : BitVec 5) (e : BitVec 1) (t : BitVec 4) (v : BitVec 1) : Statement (Instr.vupk d a e t v) := by
  intro _ wf
  have bt := t.isLt
  have bv := v.isLt
  generalize hwd : Instr.encodeNat (Instr.vupk d a e t v) = wd
  replace hwd : encRRR 0xCB d.toNat a.toNat 0 e.toNat 0 (t.toNat * 8 + v.toNat) = wd := hwd
  obtain ⟨h24, hh, hl, g0, g1, g2, g3, g4, g5⟩ := rrr_word hwd d.isLt a.isLt (by decide) e.isLt (by decide) (by omega)
  have hf : fieldsOf wd = some (Sum.inl (Instr.vupk d a e t v)) := by
    rw [fieldsOf_C 11 (by omega) (by omega)]
    show some (Sum.inl (Instr.vupk (fld wd 19) (fld wd 14) (fld wd 8) (fld wd 3) (fld wd 0))) = _
    rw [fld_eq wd 19 d g0, fld_eq wd 14 a g1, fld_eq wd 8 e g3, fld_sub wd 7 _ t 3 g5 (by decide) (by omega), fld_sub wd 7 _ v 0 g5 (by decide) (by omega)]
  have hfix : wd &&& fnFixed 0xCB = 0 := by
    show wd &&& ((2 ^ 2 - 1) * 2 ^ 1) = 0
    rw [land_run, show wd / 2 ^ 1 % 2 ^ 2 = 0 from (run_sub wd 7 _ 1 2 g5 (by decide)).trans (by omega)] <;> rfl
  have hres : wd &&& reservedBits wd = reservedValue 0xCB := by
    rw [reservedBits_at _ h24 (by decide)]
    show wd &&& (((2 ^ 1 - 1) * 2 ^ 7) ||| ((2 ^ 5 - 1) * 2 ^ 9)) = 0x0
    rw [Nat.and_or_distrib_left, land_run, land_run, g4, g2] <;> rfl
  refine ⟨by omega, ?_⟩
  rw [decode_word h24 hf hfix wf.1 hres wf.2.1 (by omega)]; rfl

theorem vbswp (d : BitVec 5) (a : BitVec 5) (e : BitVec 1) (t : BitVec 4) : Statement (Instr.vbswp d a e t) := by
  intro _ wf
  have bt := t.isLt
  generalize hwd : Instr.encodeNat (Instr.vbswp d a e t) = wd
  replace hwd : encRRR 0xCC d.toNat a.toNat 0 e.toNat 0 (t.toNat * 8) = wd := hwd
  obtain ⟨h24, hh, hl, g0, g1, g2, g3, g4, g5⟩ := rrr_word hwd d.isLt a.isLt (by decide) e.isLt (by decide) (by omega)
  have hf : fieldsOf wd = some (Sum.inl (Instr.vbswp d a e t)) := by
    rw [fieldsOf_C 12 (by omega) (by omega)]
    show some (Sum.inl (Instr.vbswp (fld wd 19) (fld wd 14) (fld wd 8) (fld wd 3))) = _
    rw [fld_eq wd 19 d g0, fld_eq wd 14 a g1, fld_eq wd 8 e g3, fld_sub wd 7 _ t 3 g5 (by decide) (by omega)]
  have hfix : wd &&& fnFixed 0xCC = 0 := by
    show wd &&& ((2 ^ 3 - 1) * 2 ^ 0) = 0
    rw [land_run, show wd / 2 ^ 0 % 2 ^ 3 = 0 from (run_sub wd 7 _ 0 3 g5 (by decide)).trans (by omega)] <;> rfl
  have hres : wd &&& reservedBits wd = reservedValue 0xCC := by
    rw [reservedBits_at _ h24 (by decide)]
    show wd &&& (((2 ^ 1 - 1) * 2 ^ 7) ||| ((2 ^ 5 - 1) * 2 ^ 9)) = 0x0
    rw [Nat.and_or_distrib_left, land_run, land_run, g4, g2] <;> rfl
  refine ⟨by omega, ?_⟩
  rw [decode_word h24 hf hfix wf.1 hres wf.2.1 (by omega)]; rfl

theorem vclz (d : BitVec 5) (a : BitVec 5) (e : BitVec 1) (t : BitVec 4) (v : BitVec 1) : Statement (Instr.vclz d a e t v) := by
  intro _ wf
  have bt := t.isLt
  have bv := v.isLt
  generalize hwd : Instr.encodeNat (Instr.vclz d a e t v) = wd
  replace hwd : encRRR 0xCD d.toNat a.toNat 0 e.toNat 0 (t.toNat * 8 + v.toNat) = wd := hwd
  obtain ⟨h24, hh, hl, g0, g1, g2, g3, g4, g5⟩ := rrr_word hwd d.isLt a.isLt (by decide) e.isLt (by decide) (by omega)
  have hf : fieldsOf wd = some (Sum.inl (Instr.vclz d a e t v)) := by
    rw [fieldsOf_C 13 (by omega) (by omega)]
    show some (Sum.inl (Instr.vclz (fld wd 19) (fld wd 14) (fld wd 8) (fld wd 3) (fld wd 0))) = _
    rw [fld_eq wd 19 d g0, fld_eq wd 14 a g1, fld_eq wd 8 e g3, fld_sub wd 7 _ t 3 g5 (by decide) (by omega), fld_sub wd 7 _ v 0 g5 (by decide) (by omega)]
  have hfix : wd &&& fnFixed 0xCD = 0 := by
    show wd &&& ((2 ^ 2 - 1) * 2 ^ 1) = 0
    rw [land_run, show wd / 2 ^ 1 % 2 ^ 2 = 0 from (run_sub wd 7 _ 1 2 g5 (by decide)).trans (by omega)] <;> rfl
  have hres : wd &&& reservedBits wd = reservedValue 0xCD := by
    rw [reservedBits_at _ h24 (by decide)]
    show wd &&& (((2 ^ 1 - 1) * 2 ^ 7) ||| ((2 ^ 5 - 1) * 2 ^ 9)) = 0x0
    rw [Nat.and_or_distrib_left, land_run, land_run, g4, g2] <;> rfl
  refine ⟨by omega, ?_⟩
  rw [decode_word h24 hf hfix wf.1 hres wf.2.1 (by omega)]; rfl

theorem vpopc (d : BitVec 5) (a : BitVec 5) (e : BitVec 1) (t : BitVec 4) : Statement (Instr.vpopc d a e t) := by
  intro _ wf
  have bt := t.isLt
  generalize hwd : Instr.encodeNat (Instr.vpopc d a e t) = wd
  replace hwd : encRRR 0xCE d.toNat a.toNat 0 e.toNat 0 (t.toNat * 8) = wd := hwd
  obtain ⟨h24, hh, hl, g0, g1, g2, g3, g4, g5⟩ := rrr_word hwd d.isLt a.isLt (by decide) e.isLt (by decide) (by omega)
  have hf : fieldsOf wd = some (Sum.inl (Instr.vpopc d a e t)) := by
    rw [fieldsOf_C 14 (by omega) (by omega)]
    show some (Sum.inl (Instr.vpopc (fld wd 19) (fld wd 14) (fld wd 8) (fld wd 3))) = _
    rw [fld_eq wd 19 d g0, fld_eq wd 14 a g1, fld_eq wd 8 e g3, fld_sub wd 7 _ t 3 g5 (by decide) (by omega)]
  have hfix : wd &&& fnFixed 0xCE = 0 := by
    show wd &&& ((2 ^ 3 - 1) * 2 ^ 0) = 0
    rw [land_run, show wd / 2 ^ 0 % 2 ^ 3 = 0 from (run_sub wd 7 _ 0 3 g5 (by decide)).trans (by omega)] <;> rfl
  have hres : wd &&& reservedBits wd = reservedValue 0xCE := by
    rw [reservedBits_at _ h24 (by decide)]
    show wd &&& (((2 ^ 1 - 1) * 2 ^ 7) ||| ((2 ^ 5 - 1) * 2 ^ 9)) = 0x0
    rw [Nat.and_or_distrib_left, land_run, land_run, g4, g2] <;> rfl
  refine ⟨by omega, ?_⟩
  rw [decode_word h24 hf hfix wf.1 hres wf.2.1 (by omega)]; rfl

theorem vhash (d : BitVec 5) (a : BitVec 5) (b : BitVec 5) (e : BitVec 1) (f : BitVec 1) : Statement (Instr.vhash d a b e f) := by
  intro _ wf
  generalize hwd : Instr.encodeNat (Instr.vhash d a b e f) = wd
  replace hwd : encRRR 0xCF d.toNat a.toNat b.toNat e.toNat f.toNat 0 = wd := hwd
  obtain ⟨h24, hh, hl, g0, g1, g2, g3, g4, g5⟩ := rrr_word hwd d.isLt a.isLt b.isLt e.isLt f.isLt (by decide)
  have hf : fieldsOf wd = some (Sum.inl (Instr.vhash d a b e f)) := by
    rw [fieldsOf_C 15 (by omega) (by omega)]
    show some (Sum.inl (Instr.vhash (fld wd 19) (fld wd 14) (fld wd 9) (fld wd 8) (fld wd 7))) = _
    rw [fld_eq wd 19 d g0, fld_eq wd 14 a g1, fld_eq wd 9 b g2, fld_eq wd 8 e g3, fld_eq wd 7 f g4]
  have hfix : wd &&& fnFixed 0xCF = 0 := by
    show wd &&& ((2 ^ 7 - 1) * 2 ^ 0) = 0
    rw [land_run, show wd / 2 ^ 0 % 2 ^ 7 = 0 from (by rw [Nat.pow_zero, Nat.div_one]; exact g5)] <;> rfl
  have hres : wd &&& reservedBits wd = reservedValue 0xCF := by
    rw [reservedBits_at _ h24 (by decide)]
    show wd &&& 0 = 0x0
    exact Nat.and_zero _
  refine ⟨by omega, ?_⟩
  rw [decode_word h24 hf hfix wf.1 hres wf.2.1 (by omega)]; rfl

theorem mlatch (d : BitVec 5) (a : BitVec 5) (b : BitVec 5) (e : BitVec 1) (f : BitVec 1) (t : BitVec 4) : Statement (Instr.mlatch d a b e f t) := by
  intro _ wf
  have bt := t.isLt
  generalize hwd : Instr.encodeNat (Instr.mlatch d a b e f t) = wd
  replace hwd : encRRR 0xD0 d.toNat a.toNat b.toNat e.toNat f.toNat (t.toNat * 8) = wd := hwd
  obtain ⟨h24, hh, hl, g0, g1, g2, g3, g4, g5⟩ := rrr_word hwd d.isLt a.isLt b.isLt e.isLt f.isLt (by omega)
  have hf : fieldsOf wd = some (Sum.inl (Instr.mlatch d a b e f t)) := by
    rw [fieldsOf_D 0 (by omega) (by omega)]
    show some (Sum.inl (Instr.mlatch (fld wd 19) (fld wd 14) (fld wd 9) (fld wd 8) (fld wd 7) (fld wd 3))) = _
    rw [fld_eq wd 19 d g0, fld_eq wd 14 a g1, fld_eq wd 9 b g2, fld_eq wd 8 e g3, fld_eq wd 7 f g4, fld_sub wd 7 _ t 3 g5 (by decide) (by omega)]
  have hfix : wd &&& fnFixed 0xD0 = 0 := by
    show wd &&& ((2 ^ 3 - 1) * 2 ^ 0) = 0
    rw [land_run, show wd / 2 ^ 0 % 2 ^ 3 = 0 from (run_sub wd 7 _ 0 3 g5 (by decide)).trans (by omega)] <;> rfl
  have hres : wd &&& reservedBits wd = reservedValue 0xD0 := by
    rw [reservedBits_at _ h24 (by decide)]
    show wd &&& 0 = 0x0
    exact Nat.and_zero _
  refine ⟨by omega, ?_⟩
  rw [decode_word h24 hf hfix wf.1 hres wf.2.1 (by omega)]; rfl

theorem mlatchv (a : BitVec 5) (b : BitVec 5) (e : BitVec 1) (f : BitVec 1) (t : BitVec 4) : Statement (Instr.mlatchv a b e f t) := by
  intro _ wf
  have bt := t.isLt
  generalize hwd : Instr.encodeNat (Instr.mlatchv a b e f t) = wd
  replace hwd : encRRR 0xD1 0 a.toNat b.toNat e.toNat f.toNat (t.toNat * 8) = wd := hwd
  obtain ⟨h24, hh, hl, g0, g1, g2, g3, g4, g5⟩ := rrr_word hwd (by decide) a.isLt b.isLt e.isLt f.isLt (by omega)
  have hf : fieldsOf wd = some (Sum.inl (Instr.mlatchv a b e f t)) := by
    rw [fieldsOf_D 1 (by omega) (by omega)]
    show some (Sum.inl (Instr.mlatchv (fld wd 14) (fld wd 9) (fld wd 8) (fld wd 7) (fld wd 3))) = _
    rw [fld_eq wd 14 a g1, fld_eq wd 9 b g2, fld_eq wd 8 e g3, fld_eq wd 7 f g4, fld_sub wd 7 _ t 3 g5 (by decide) (by omega)]
  have hfix : wd &&& fnFixed 0xD1 = 0 := by
    show wd &&& ((2 ^ 3 - 1) * 2 ^ 0) = 0
    rw [land_run, show wd / 2 ^ 0 % 2 ^ 3 = 0 from (run_sub wd 7 _ 0 3 g5 (by decide)).trans (by omega)] <;> rfl
  have hres : wd &&& reservedBits wd = reservedValue 0xD1 := by
    rw [reservedBits_at _ h24 (by decide)]
    show wd &&& ((2 ^ 5 - 1) * 2 ^ 19) = 0x0
    rw [land_run, g0] <;> rfl
  refine ⟨by omega, ?_⟩
  rw [decode_word h24 hf hfix wf.1 hres wf.2.1 (by omega)]; rfl

theorem mop (d : BitVec 5) (a : BitVec 5) (b : BitVec 5) (e : BitVec 1) (f : BitVec 1) (t : BitVec 4) (k : BitVec 1) (g : BitVec 2) : Statement (Instr.mop d a b e f t k g) := by
  intro _ wf
  have bg := g.isLt
  have bk := k.isLt
  have bt := t.isLt
  generalize hwd : Instr.encodeNat (Instr.mop d a b e f t k g) = wd
  replace hwd : encRRR 0xD2 d.toNat a.toNat b.toNat e.toNat f.toNat (t.toNat * 8 + k.toNat * 4 + g.toNat) = wd := hwd
  obtain ⟨h24, hh, hl, g0, g1, g2, g3, g4, g5⟩ := rrr_word hwd d.isLt a.isLt b.isLt e.isLt f.isLt (by omega)
  have hf : fieldsOf wd = some (Sum.inl (Instr.mop d a b e f t k g)) := by
    rw [fieldsOf_D 2 (by omega) (by omega)]
    show some (Sum.inl (Instr.mop (fld wd 19) (fld wd 14) (fld wd 9) (fld wd 8) (fld wd 7) (fld wd 3) (fld wd 2) (fld wd 0))) = _
    rw [fld_eq wd 19 d g0, fld_eq wd 14 a g1, fld_eq wd 9 b g2, fld_eq wd 8 e g3, fld_eq wd 7 f g4, fld_sub wd 7 _ t 3 g5 (by decide) (by omega), fld_sub wd 7 _ k 2 g5 (by decide) (by omega), fld_sub wd 7 _ g 0 g5 (by decide) (by omega)]
  have hfix : wd &&& fnFixed 0xD2 = 0 := by
    show wd &&& 0 = 0
    exact Nat.and_zero _
  have hres : wd &&& reservedBits wd = reservedValue 0xD2 := by
    rw [reservedBits_at _ h24 (by decide)]
    show wd &&& 0 = 0x0
    exact Nat.and_zero _
  refine ⟨by omega, ?_⟩
  rw [decode_word h24 hf hfix wf.1 hres wf.2.1 (by omega)]; rfl

theorem mopSp (d : BitVec 5) (a : BitVec 5) (b : BitVec 5) (e : BitVec 1) (f : BitVec 1) (t : BitVec 4) (k : BitVec 1) (g : BitVec 2) : Statement (Instr.mopSp d a b e f t k g) := by
  intro _ wf
  have bg := g.isLt
  have bk := k.isLt
  have bt := t.isLt
  generalize hwd : Instr.encodeNat (Instr.mopSp d a b e f t k g) = wd
  replace hwd : encRRR 0xD3 d.toNat a.toNat b.toNat e.toNat f.toNat (t.toNat * 8 + k.toNat * 4 + g.toNat) = wd := hwd
  obtain ⟨h24, hh, hl, g0, g1, g2, g3, g4, g5⟩ := rrr_word hwd d.isLt a.isLt b.isLt e.isLt f.isLt (by omega)
  have hf : fieldsOf wd = some (Sum.inl (Instr.mopSp d a b e f t k g)) := by
    rw [fieldsOf_D 3 (by omega) (by omega)]
    show some (Sum.inl (Instr.mopSp (fld wd 19) (fld wd 14) (fld wd 9) (fld wd 8) (fld wd 7) (fld wd 3) (fld wd 2) (fld wd 0))) = _
    rw [fld_eq wd 19 d g0, fld_eq wd 14 a g1, fld_eq wd 9 b g2, fld_eq wd 8 e g3, fld_eq wd 7 f g4, fld_sub wd 7 _ t 3 g5 (by decide) (by omega), fld_sub wd 7 _ k 2 g5 (by decide) (by omega), fld_sub wd 7 _ g 0 g5 (by decide) (by omega)]
  have hfix : wd &&& fnFixed 0xD3 = 0 := by
    show wd &&& 0 = 0
    exact Nat.and_zero _
  have hres : wd &&& reservedBits wd = reservedValue 0xD3 := by
    rw [reservedBits_at _ h24 (by decide)]
    show wd &&& 0 = 0x0
    exact Nat.and_zero _
  refine ⟨by omega, ?_⟩
  rw [decode_word h24 hf hfix wf.1 hres wf.2.1 (by omega)]; rfl

theorem mopPair (d : BitVec 5) (a : BitVec 5) (b : BitVec 5) (e : BitVec 1) (f : BitVec 1) (t : BitVec 4) (k : BitVec 1) (g : BitVec 2) : Statement (Instr.mopPair d a b e f t k g) := by
  intro _ wf
  have bg := g.isLt
  have bk := k.isLt
  have bt := t.isLt
  generalize hwd : Instr.encodeNat (Instr.mopPair d a b e f t k g) = wd
  replace hwd : encRRR 0xD4 d.toNat a.toNat b.toNat e.toNat f.toNat (t.toNat * 8 + k.toNat * 4 + g.toNat) = wd := hwd
  obtain ⟨h24, hh, hl, g0, g1, g2, g3, g4, g5⟩ := rrr_word hwd d.isLt a.isLt b.isLt e.isLt f.isLt (by omega)
  have hf : fieldsOf wd = some (Sum.inl (Instr.mopPair d a b e f t k g)) := by
    rw [fieldsOf_D 4 (by omega) (by omega)]
    show some (Sum.inl (Instr.mopPair (fld wd 19) (fld wd 14) (fld wd 9) (fld wd 8) (fld wd 7) (fld wd 3) (fld wd 2) (fld wd 0))) = _
    rw [fld_eq wd 19 d g0, fld_eq wd 14 a g1, fld_eq wd 9 b g2, fld_eq wd 8 e g3, fld_eq wd 7 f g4, fld_sub wd 7 _ t 3 g5 (by decide) (by omega), fld_sub wd 7 _ k 2 g5 (by decide) (by omega), fld_sub wd 7 _ g 0 g5 (by decide) (by omega)]
  have hfix : wd &&& fnFixed 0xD4 = 0 := by
    show wd &&& 0 = 0
    exact Nat.and_zero _
  have hres : wd &&& reservedBits wd = reservedValue 0xD4 := by
    rw [reservedBits_at _ h24 (by decide)]
    show wd &&& 0 = 0x0
    exact Nat.and_zero _
  refine ⟨by omega, ?_⟩
  rw [decode_word h24 hf hfix wf.1 hres wf.2.1 (by omega)]; rfl

theorem mpstat (d : BitVec 5) : Statement (Instr.mpstat d) := by
  intro _ wf
  generalize hwd : Instr.encodeNat (Instr.mpstat d) = wd
  replace hwd : encRRR 0xD5 d.toNat 0 0 0 0 0 = wd := hwd
  obtain ⟨h24, hh, hl, g0, g1, g2, g3, g4, g5⟩ := rrr_word hwd d.isLt (by decide) (by decide) (by decide) (by decide) (by decide)
  have hf : fieldsOf wd = some (Sum.inl (Instr.mpstat d)) := by
    rw [fieldsOf_D 5 (by omega) (by omega)]
    show some (Sum.inl (Instr.mpstat (fld wd 19))) = _
    rw [fld_eq wd 19 d g0]
  have hfix : wd &&& fnFixed 0xD5 = 0 := by
    show wd &&& ((2 ^ 7 - 1) * 2 ^ 0) = 0
    rw [land_run, show wd / 2 ^ 0 % 2 ^ 7 = 0 from (by rw [Nat.pow_zero, Nat.div_one]; exact g5)] <;> rfl
  have hres : wd &&& reservedBits wd = reservedValue 0xD5 := by
    rw [reservedBits_at _ h24 (by decide)]
    show wd &&& (((((2 ^ 1 - 1) * 2 ^ 7) ||| ((2 ^ 1 - 1) * 2 ^ 8)) ||| ((2 ^ 5 - 1) * 2 ^ 9)) ||| ((2 ^ 5 - 1) * 2 ^ 14)) = 0x0
    rw [Nat.and_or_distrib_left, Nat.and_or_distrib_left, Nat.and_or_distrib_left, land_run, land_run, land_run, land_run, g4, g3, g2, g1] <;> rfl
  refine ⟨by omega, ?_⟩
  rw [decode_word h24 hf hfix wf.1 hres wf.2.1 (by omega)]; rfl

theorem tzero (d : BitVec 5) : Statement (Instr.tzero d) := by
  intro _ wf
  generalize hwd : Instr.encodeNat (Instr.tzero d) = wd
  replace hwd : encRRR 0xD6 d.toNat 0 0 0 0 0 = wd := hwd
  obtain ⟨h24, hh, hl, g0, g1, g2, g3, g4, g5⟩ := rrr_word hwd d.isLt (by decide) (by decide) (by decide) (by decide) (by decide)
  have hf : fieldsOf wd = some (Sum.inl (Instr.tzero d)) := by
    rw [fieldsOf_D 6 (by omega) (by omega)]
    show some (Sum.inl (Instr.tzero (fld wd 19))) = _
    rw [fld_eq wd 19 d g0]
  have hfix : wd &&& fnFixed 0xD6 = 0 := by
    show wd &&& ((2 ^ 7 - 1) * 2 ^ 0) = 0
    rw [land_run, show wd / 2 ^ 0 % 2 ^ 7 = 0 from (by rw [Nat.pow_zero, Nat.div_one]; exact g5)] <;> rfl
  have hres : wd &&& reservedBits wd = reservedValue 0xD6 := by
    rw [reservedBits_at _ h24 (by decide)]
    show wd &&& (((((2 ^ 1 - 1) * 2 ^ 7) ||| ((2 ^ 1 - 1) * 2 ^ 8)) ||| ((2 ^ 5 - 1) * 2 ^ 9)) ||| ((2 ^ 5 - 1) * 2 ^ 14)) = 0x0
    rw [Nat.and_or_distrib_left, Nat.and_or_distrib_left, Nat.and_or_distrib_left, land_run, land_run, land_run, land_run, g4, g3, g2, g1] <;> rfl
  refine ⟨by omega, ?_⟩
  rw [decode_word h24 hf hfix wf.1 hres wf.2.1 (by omega)]; rfl

theorem tmov (d : BitVec 5) (a : BitVec 5) (e : BitVec 1) : Statement (Instr.tmov d a e) := by
  intro _ wf
  generalize hwd : Instr.encodeNat (Instr.tmov d a e) = wd
  replace hwd : encRRR 0xD7 d.toNat a.toNat 0 e.toNat 0 0 = wd := hwd
  obtain ⟨h24, hh, hl, g0, g1, g2, g3, g4, g5⟩ := rrr_word hwd d.isLt a.isLt (by decide) e.isLt (by decide) (by decide)
  have hf : fieldsOf wd = some (Sum.inl (Instr.tmov d a e)) := by
    rw [fieldsOf_D 7 (by omega) (by omega)]
    show some (Sum.inl (Instr.tmov (fld wd 19) (fld wd 14) (fld wd 8))) = _
    rw [fld_eq wd 19 d g0, fld_eq wd 14 a g1, fld_eq wd 8 e g3]
  have hfix : wd &&& fnFixed 0xD7 = 0 := by
    show wd &&& ((2 ^ 7 - 1) * 2 ^ 0) = 0
    rw [land_run, show wd / 2 ^ 0 % 2 ^ 7 = 0 from (by rw [Nat.pow_zero, Nat.div_one]; exact g5)] <;> rfl
  have hres : wd &&& reservedBits wd = reservedValue 0xD7 := by
    rw [reservedBits_at _ h24 (by decide)]
    show wd &&& (((2 ^ 1 - 1) * 2 ^ 7) ||| ((2 ^ 5 - 1) * 2 ^ 9)) = 0x0
    rw [Nat.and_or_distrib_left, land_run, land_run, g4, g2] <;> rfl
  refine ⟨by omega, ?_⟩
  rw [decode_word h24 hf hfix wf.1 hres wf.2.1 (by omega)]; rfl

theorem tadd (d : BitVec 5) (a : BitVec 5) (e : BitVec 1) (t : BitVec 4) : Statement (Instr.tadd d a e t) := by
  intro _ wf
  have bt := t.isLt
  generalize hwd : Instr.encodeNat (Instr.tadd d a e t) = wd
  replace hwd : encRRR 0xD8 d.toNat a.toNat 0 e.toNat 0 (t.toNat * 8) = wd := hwd
  obtain ⟨h24, hh, hl, g0, g1, g2, g3, g4, g5⟩ := rrr_word hwd d.isLt a.isLt (by decide) e.isLt (by decide) (by omega)
  have hf : fieldsOf wd = some (Sum.inl (Instr.tadd d a e t)) := by
    rw [fieldsOf_D 8 (by omega) (by omega)]
    show some (Sum.inl (Instr.tadd (fld wd 19) (fld wd 14) (fld wd 8) (fld wd 3))) = _
    rw [fld_eq wd 19 d g0, fld_eq wd 14 a g1, fld_eq wd 8 e g3, fld_sub wd 7 _ t 3 g5 (by decide) (by omega)]
  have hfix : wd &&& fnFixed 0xD8 = 0 := by
    show wd &&& ((2 ^ 3 - 1) * 2 ^ 0) = 0
    rw [land_run, show wd / 2 ^ 0 % 2 ^ 3 = 0 from (run_sub wd 7 _ 0 3 g5 (by decide)).trans (by omega)] <;> rfl
  have hres : wd &&& reservedBits wd = reservedValue 0xD8 := by
    rw [reservedBits_at _ h24 (by decide)]
    show wd &&& (((2 ^ 1 - 1) * 2 ^ 7) ||| ((2 ^ 5 - 1) * 2 ^ 9)) = 0x0
    rw [Nat.and_or_distrib_left, land_run, land_run, g4, g2] <;> rfl
  refine ⟨by omega, ?_⟩
  rw [decode_word h24 hf hfix wf.1 hres wf.2.1 (by omega)]; rfl

theorem tact (d : BitVec 5) (a : BitVec 5) (e : BitVec 1) (v : BitVec 2) (t : BitVec 4) : Statement (Instr.tact d a e v t) := by
  intro _ wf
  have bt := t.isLt
  have bv := v.isLt
  generalize hwd : Instr.encodeNat (Instr.tact d a e v t) = wd
  replace hwd : encRRR 0xD9 d.toNat a.toNat 0 e.toNat 0 (v.toNat + t.toNat * 8) = wd := hwd
  obtain ⟨h24, hh, hl, g0, g1, g2, g3, g4, g5⟩ := rrr_word hwd d.isLt a.isLt (by decide) e.isLt (by decide) (by omega)
  have hf : fieldsOf wd = some (Sum.inl (Instr.tact d a e v t)) := by
    rw [fieldsOf_D 9 (by omega) (by omega)]
    show some (Sum.inl (Instr.tact (fld wd 19) (fld wd 14) (fld wd 8) (fld wd 0) (fld wd 3))) = _
    rw [fld_eq wd 19 d g0, fld_eq wd 14 a g1, fld_eq wd 8 e g3, fld_sub wd 7 _ v 0 g5 (by decide) (by omega), fld_sub wd 7 _ t 3 g5 (by decide) (by omega)]
  have hfix : wd &&& fnFixed 0xD9 = 0 := by
    show wd &&& ((2 ^ 1 - 1) * 2 ^ 2) = 0
    rw [land_run, show wd / 2 ^ 2 % 2 ^ 1 = 0 from (run_sub wd 7 _ 2 1 g5 (by decide)).trans (by omega)] <;> rfl
  have hres : wd &&& reservedBits wd = reservedValue 0xD9 := by
    rw [reservedBits_at _ h24 (by decide)]
    show wd &&& (((2 ^ 1 - 1) * 2 ^ 7) ||| ((2 ^ 5 - 1) * 2 ^ 9)) = 0x0
    rw [Nat.and_or_distrib_left, land_run, land_run, g4, g2] <;> rfl
  refine ⟨by omega, ?_⟩
  rw [decode_word h24 hf hfix wf.1 hres wf.2.1 (by omega)]; rfl

theorem tstore (d : BitVec 5) (a : BitVec 5) (b : BitVec 5) (e : BitVec 1) (f : BitVec 1) (t : BitVec 4) (v : BitVec 1) : Statement (Instr.tstore d a b e f t v) := by
  intro _ wf
  have bt := t.isLt
  have bv := v.isLt
  generalize hwd : Instr.encodeNat (Instr.tstore d a b e f t v) = wd
  replace hwd : encRRR 0xDA d.toNat a.toNat b.toNat e.toNat f.toNat (t.toNat * 8 + v.toNat) = wd := hwd
  obtain ⟨h24, hh, hl, g0, g1, g2, g3, g4, g5⟩ := rrr_word hwd d.isLt a.isLt b.isLt e.isLt f.isLt (by omega)
  have hf : fieldsOf wd = some (Sum.inl (Instr.tstore d a b e f t v)) := by
    rw [fieldsOf_D 10 (by omega) (by omega)]
    show some (Sum.inl (Instr.tstore (fld wd 19) (fld wd 14) (fld wd 9) (fld wd 8) (fld wd 7) (fld wd 3) (fld wd 0))) = _
    rw [fld_eq wd 19 d g0, fld_eq wd 14 a g1, fld_eq wd 9 b g2, fld_eq wd 8 e g3, fld_eq wd 7 f g4, fld_sub wd 7 _ t 3 g5 (by decide) (by omega), fld_sub wd 7 _ v 0 g5 (by decide) (by omega)]
  have hfix : wd &&& fnFixed 0xDA = 0 := by
    show wd &&& ((2 ^ 2 - 1) * 2 ^ 1) = 0
    rw [land_run, show wd / 2 ^ 1 % 2 ^ 2 = 0 from (run_sub wd 7 _ 1 2 g5 (by decide)).trans (by omega)] <;> rfl
  have hres : wd &&& reservedBits wd = reservedValue 0xDA := by
    rw [reservedBits_at _ h24 (by decide)]
    show wd &&& 0 = 0x0
    exact Nat.and_zero _
  refine ⟨by omega, ?_⟩
  rw [decode_word h24 hf hfix wf.1 hres wf.2.1 (by omega)]; rfl

theorem tsave (d : BitVec 5) (a : BitVec 5) (e : BitVec 1) (k : BitVec 1) : Statement (Instr.tsave d a e k) := by
  intro _ wf
  have bk := k.isLt
  generalize hwd : Instr.encodeNat (Instr.tsave d a e k) = wd
  replace hwd : encRRR 0xDB d.toNat a.toNat 0 e.toNat 0 k.toNat = wd := hwd
  obtain ⟨h24, hh, hl, g0, g1, g2, g3, g4, g5⟩ := rrr_word hwd d.isLt a.isLt (by decide) e.isLt (by decide) (by omega)
  have hf : fieldsOf wd = some (Sum.inl (Instr.tsave d a e k)) := by
    rw [fieldsOf_D 11 (by omega) (by omega)]
    show some (Sum.inl (Instr.tsave (fld wd 19) (fld wd 14) (fld wd 8) (fld wd 0))) = _
    rw [fld_eq wd 19 d g0, fld_eq wd 14 a g1, fld_eq wd 8 e g3, fld_sub wd 7 _ k 0 g5 (by decide) (by omega)]
  have hfix : wd &&& fnFixed 0xDB = 0 := by
    show wd &&& ((2 ^ 6 - 1) * 2 ^ 1) = 0
    rw [land_run, show wd / 2 ^ 1 % 2 ^ 6 = 0 from (run_sub wd 7 _ 1 6 g5 (by decide)).trans (by omega)] <;> rfl
  have hres : wd &&& reservedBits wd = reservedValue 0xDB := by
    rw [reservedBits_at _ h24 (by decide)]
    show wd &&& (((2 ^ 1 - 1) * 2 ^ 7) ||| ((2 ^ 5 - 1) * 2 ^ 9)) = 0x0
    rw [Nat.and_or_distrib_left, land_run, land_run, g4, g2] <;> rfl
  refine ⟨by omega, ?_⟩
  rw [decode_word h24 hf hfix wf.1 hres wf.2.1 (by omega)]; rfl

theorem tload (d : BitVec 5) (a : BitVec 5) (e : BitVec 1) (k : BitVec 1) : Statement (Instr.tload d a e k) := by
  intro _ wf
  have bk := k.isLt
  generalize hwd : Instr.encodeNat (Instr.tload d a e k) = wd
  replace hwd : encRRR 0xDC d.toNat a.toNat 0 e.toNat 0 k.toNat = wd := hwd
  obtain ⟨h24, hh, hl, g0, g1, g2, g3, g4, g5⟩ := rrr_word hwd d.isLt a.isLt (by decide) e.isLt (by decide) (by omega)
  have hf : fieldsOf wd = some (Sum.inl (Instr.tload d a e k)) := by
    rw [fieldsOf_D 12 (by omega) (by omega)]
    show some (Sum.inl (Instr.tload (fld wd 19) (fld wd 14) (fld wd 8) (fld wd 0))) = _
    rw [fld_eq wd 19 d g0, fld_eq wd 14 a g1, fld_eq wd 8 e g3, fld_sub wd 7 _ k 0 g5 (by decide) (by omega)]
  have hfix : wd &&& fnFixed 0xDC = 0 := by
    show wd &&& ((2 ^ 6 - 1) * 2 ^ 1) = 0
    rw [land_run, show wd / 2 ^ 1 % 2 ^ 6 = 0 from (run_sub wd 7 _ 1 6 g5 (by decide)).trans (by omega)] <;> rfl
  have hres : wd &&& reservedBits wd = reservedValue 0xDC := by
    rw [reservedBits_at _ h24 (by decide)]
    show wd &&& (((2 ^ 1 - 1) * 2 ^ 7) ||| ((2 ^ 5 - 1) * 2 ^ 9)) = 0x0
    rw [Nat.and_or_distrib_left, land_run, land_run, g4, g2] <;> rfl
  refine ⟨by omega, ?_⟩
  rw [decode_word h24 hf hfix wf.1 hres wf.2.1 (by omega)]; rfl

theorem trdv (d : BitVec 5) (a : BitVec 5) (b : BitVec 5) (e : BitVec 1) (f : BitVec 1) (t : BitVec 4) (v : BitVec 1) : Statement (Instr.trdv d a b e f t v) := by
  intro _ wf
  have bt := t.isLt
  have bv := v.isLt
  generalize hwd : Instr.encodeNat (Instr.trdv d a b e f t v) = wd
  replace hwd : encRRR 0xDD d.toNat a.toNat b.toNat e.toNat f.toNat (t.toNat * 8 + v.toNat) = wd := hwd
  obtain ⟨h24, hh, hl, g0, g1, g2, g3, g4, g5⟩ := rrr_word hwd d.isLt a.isLt b.isLt e.isLt f.isLt (by omega)
  have hf : fieldsOf wd = some (Sum.inl (Instr.trdv d a b e f t v)) := by
    rw [fieldsOf_D 13 (by omega) (by omega)]
    show some (Sum.inl (Instr.trdv (fld wd 19) (fld wd 14) (fld wd 9) (fld wd 8) (fld wd 7) (fld wd 3) (fld wd 0))) = _
    rw [fld_eq wd 19 d g0, fld_eq wd 14 a g1, fld_eq wd 9 b g2, fld_eq wd 8 e g3, fld_eq wd 7 f g4, fld_sub wd 7 _ t 3 g5 (by decide) (by omega), fld_sub wd 7 _ v 0 g5 (by decide) (by omega)]
  have hfix : wd &&& fnFixed 0xDD = 0 := by
    show wd &&& ((2 ^ 2 - 1) * 2 ^ 1) = 0
    rw [land_run, show wd / 2 ^ 1 % 2 ^ 2 = 0 from (run_sub wd 7 _ 1 2 g5 (by decide)).trans (by omega)] <;> rfl
  have hres : wd &&& reservedBits wd = reservedValue 0xDD := by
    rw [reservedBits_at _ h24 (by decide)]
    show wd &&& 0 = 0x0
    exact Nat.and_zero _
  refine ⟨by omega, ?_⟩
  rw [decode_word h24 hf hfix wf.1 hres wf.2.1 (by omega)]; rfl

theorem twrv (d : BitVec 5) (a : BitVec 5) (b : BitVec 5) (e : BitVec 1) (f : BitVec 1) (t : BitVec 4) (v : BitVec 1) : Statement (Instr.twrv d a b e f t v) := by
  intro _ wf
  have bt := t.isLt
  have bv := v.isLt
  generalize hwd : Instr.encodeNat (Instr.twrv d a b e f t v) = wd
  replace hwd : encRRR 0xDE d.toNat a.toNat b.toNat e.toNat f.toNat (t.toNat * 8 + v.toNat) = wd := hwd
  obtain ⟨h24, hh, hl, g0, g1, g2, g3, g4, g5⟩ := rrr_word hwd d.isLt a.isLt b.isLt e.isLt f.isLt (by omega)
  have hf : fieldsOf wd = some (Sum.inl (Instr.twrv d a b e f t v)) := by
    rw [fieldsOf_D 14 (by omega) (by omega)]
    show some (Sum.inl (Instr.twrv (fld wd 19) (fld wd 14) (fld wd 9) (fld wd 8) (fld wd 7) (fld wd 3) (fld wd 0))) = _
    rw [fld_eq wd 19 d g0, fld_eq wd 14 a g1, fld_eq wd 9 b g2, fld_eq wd 8 e g3, fld_eq wd 7 f g4, fld_sub wd 7 _ t 3 g5 (by decide) (by omega), fld_sub wd 7 _ v 0 g5 (by decide) (by omega)]
  have hfix : wd &&& fnFixed 0xDE = 0 := by
    show wd &&& ((2 ^ 2 - 1) * 2 ^ 1) = 0
    rw [land_run, show wd / 2 ^ 1 % 2 ^ 2 = 0 from (run_sub wd 7 _ 1 2 g5 (by decide)).trans (by omega)] <;> rfl
  have hres : wd &&& reservedBits wd = reservedValue 0xDE := by
    rw [reservedBits_at _ h24 (by decide)]
    show wd &&& 0 = 0x0
    exact Nat.and_zero _
  refine ⟨by omega, ?_⟩
  rw [decode_word h24 hf hfix wf.1 hres wf.2.1 (by omega)]; rfl

theorem tfill (d : BitVec 5) (a : BitVec 5) (e : BitVec 1) (t : BitVec 4) : Statement (Instr.tfill d a e t) := by
  intro _ wf
  have bt := t.isLt
  generalize hwd : Instr.encodeNat (Instr.tfill d a e t) = wd
  replace hwd : encRRR 0xDF d.toNat a.toNat 0 e.toNat 0 (t.toNat * 8) = wd := hwd
  obtain ⟨h24, hh, hl, g0, g1, g2, g3, g4, g5⟩ := rrr_word hwd d.isLt a.isLt (by decide) e.isLt (by decide) (by omega)
  have hf : fieldsOf wd = some (Sum.inl (Instr.tfill d a e t)) := by
    rw [fieldsOf_D 15 (by omega) (by omega)]
    show some (Sum.inl (Instr.tfill (fld wd 19) (fld wd 14) (fld wd 8) (fld wd 3))) = _
    rw [fld_eq wd 19 d g0, fld_eq wd 14 a g1, fld_eq wd 8 e g3, fld_sub wd 7 _ t 3 g5 (by decide) (by omega)]
  have hfix : wd &&& fnFixed 0xDF = 0 := by
    show wd &&& ((2 ^ 3 - 1) * 2 ^ 0) = 0
    rw [land_run, show wd / 2 ^ 0 % 2 ^ 3 = 0 from (run_sub wd 7 _ 0 3 g5 (by decide)).trans (by omega)] <;> rfl
  have hres : wd &&& reservedBits wd = reservedValue 0xDF := by
    rw [reservedBits_at _ h24 (by decide)]
    show wd &&& (((2 ^ 1 - 1) * 2 ^ 7) ||| ((2 ^ 5 - 1) * 2 ^ 9)) = 0x0
    rw [Nat.and_or_distrib_left, land_run, land_run, g4, g2] <;> rfl
  refine ⟨by omega, ?_⟩
  rw [decode_word h24 hf hfix wf.1 hres wf.2.1 (by omega)]; rfl

theorem amo (d : BitVec 5) (a : BitVec 5) (e : BitVec 1) (s : BitVec 3) (o : BitVec 2) (p : BitVec 4) (t : BitVec 4) : Statement (Instr.amo d a e s o p t) := by
  intro _ wf
  have bp := p.isLt
  have bt := t.isLt
  generalize hwd : Instr.encodeNat (Instr.amo d a e s o p t) = wd
  replace hwd : encSY 0xE0 d.toNat a.toNat e.toNat s.toNat o.toNat (p.toNat * 16 + t.toNat) = wd := hwd
  obtain ⟨h24, hh, hl, g0, g1, g2, g3, g4, g5⟩ := sy_word hwd d.isLt a.isLt e.isLt s.isLt o.isLt (by omega)
  have hf : fieldsOf wd = some (Sum.inl (Instr.amo d a e s o p t)) := by
    rw [fieldsOf_E 0 (by omega) (by omega)]
    show some (Sum.inl (Instr.amo (fld wd 19) (fld wd 14) (fld wd 13) (fld wd 10) (fld wd 8) (fld wd 4) (fld wd 0))) = _
    rw [fld_eq wd 19 d g0, fld_eq wd 14 a g1, fld_eq wd 13 e g2, fld_eq wd 10 s g3, fld_eq wd 8 o g4, fld_sub wd 8 _ p 4 g5 (by decide) (by omega), fld_sub wd 8 _ t 0 g5 (by decide) (by omega)]
  have hfix : wd &&& fnFixed 0xE0 = 0 := by
    show wd &&& 0 = 0
    exact Nat.and_zero _
  have hres : wd &&& reservedBits wd = reservedValue 0xE0 := by
    rw [reservedBits_at _ h24 (by decide)]
    show wd &&& 0 = 0x0
    exact Nat.and_zero _
  refine ⟨by omega, ?_⟩
  rw [decode_word h24 hf hfix wf.1 hres wf.2.1 (by omega)]; rfl

theorem vamo (d : BitVec 5) (a : BitVec 5) (e : BitVec 1) (s : BitVec 3) (o : BitVec 2) (p : BitVec 4) (t : BitVec 4) : Statement (Instr.vamo d a e s o p t) := by
  intro _ wf
  have bp := p.isLt
  have bt := t.isLt
  generalize hwd : Instr.encodeNat (Instr.vamo d a e s o p t) = wd
  replace hwd : encSY 0xE1 d.toNat a.toNat e.toNat s.toNat o.toNat (p.toNat * 16 + t.toNat) = wd := hwd
  obtain ⟨h24, hh, hl, g0, g1, g2, g3, g4, g5⟩ := sy_word hwd d.isLt a.isLt e.isLt s.isLt o.isLt (by omega)
  have hf : fieldsOf wd = some (Sum.inl (Instr.vamo d a e s o p t)) := by
    rw [fieldsOf_E 1 (by omega) (by omega)]
    show some (Sum.inl (Instr.vamo (fld wd 19) (fld wd 14) (fld wd 13) (fld wd 10) (fld wd 8) (fld wd 4) (fld wd 0))) = _
    rw [fld_eq wd 19 d g0, fld_eq wd 14 a g1, fld_eq wd 13 e g2, fld_eq wd 10 s g3, fld_eq wd 8 o g4, fld_sub wd 8 _ p 4 g5 (by decide) (by omega), fld_sub wd 8 _ t 0 g5 (by decide) (by omega)]
  have hfix : wd &&& fnFixed 0xE1 = 0 := by
    show wd &&& 0 = 0
    exact Nat.and_zero _
  have hres : wd &&& reservedBits wd = reservedValue 0xE1 := by
    rw [reservedBits_at _ h24 (by decide)]
    show wd &&& 0 = 0x0
    exact Nat.and_zero _
  refine ⟨by omega, ?_⟩
  rw [decode_word h24 hf hfix wf.1 hres wf.2.1 (by omega)]; rfl

theorem vgll (d : BitVec 5) (a : BitVec 5) (e : BitVec 1) (s : BitVec 3) (o : BitVec 2) (t : BitVec 4) : Statement (Instr.vgll d a e s o t) := by
  intro _ wf
  have bt := t.isLt
  generalize hwd : Instr.encodeNat (Instr.vgll d a e s o t) = wd
  replace hwd : encSY 0xE2 d.toNat a.toNat e.toNat s.toNat o.toNat t.toNat = wd := hwd
  obtain ⟨h24, hh, hl, g0, g1, g2, g3, g4, g5⟩ := sy_word hwd d.isLt a.isLt e.isLt s.isLt o.isLt (by omega)
  have hf : fieldsOf wd = some (Sum.inl (Instr.vgll d a e s o t)) := by
    rw [fieldsOf_E 2 (by omega) (by omega)]
    show some (Sum.inl (Instr.vgll (fld wd 19) (fld wd 14) (fld wd 13) (fld wd 10) (fld wd 8) (fld wd 0))) = _
    rw [fld_eq wd 19 d g0, fld_eq wd 14 a g1, fld_eq wd 13 e g2, fld_eq wd 10 s g3, fld_eq wd 8 o g4, fld_sub wd 8 _ t 0 g5 (by decide) (by omega)]
  have hfix : wd &&& fnFixed 0xE2 = 0 := by
    show wd &&& ((2 ^ 4 - 1) * 2 ^ 4) = 0
    rw [land_run, show wd / 2 ^ 4 % 2 ^ 4 = 0 from (run_sub wd 8 _ 4 4 g5 (by decide)).trans (by omega)] <;> rfl
  have hres : wd &&& reservedBits wd = reservedValue 0xE2 := by
    rw [reservedBits_at _ h24 (by decide)]
    show wd &&& 0 = 0x0
    exact Nat.and_zero _
  refine ⟨by omega, ?_⟩
  rw [decode_word h24 hf hfix wf.1 hres wf.2.1 (by omega)]; rfl

theorem vscc (d : BitVec 5) (a : BitVec 5) (e : BitVec 1) (s : BitVec 3) (o : BitVec 2) (p : BitVec 3) (t : BitVec 4) : Statement (Instr.vscc d a e s o p t) := by
  intro _ wf
  have bp := p.isLt
  have bt := t.isLt
  generalize hwd : Instr.encodeNat (Instr.vscc d a e s o p t) = wd
  replace hwd : encSY 0xE3 d.toNat a.toNat e.toNat s.toNat o.toNat (p.toNat * 32 + t.toNat) = wd := hwd
  obtain ⟨h24, hh, hl, g0, g1, g2, g3, g4, g5⟩ := sy_word hwd d.isLt a.isLt e.isLt s.isLt o.isLt (by omega)
  have hf : fieldsOf wd = some (Sum.inl (Instr.vscc d a e s o p t)) := by
    rw [fieldsOf_E 3 (by omega) (by omega)]
    show some (Sum.inl (Instr.vscc (fld wd 19) (fld wd 14) (fld wd 13) (fld wd 10) (fld wd 8) (fld wd 5) (fld wd 0))) = _
    rw [fld_eq wd 19 d g0, fld_eq wd 14 a g1, fld_eq wd 13 e g2, fld_eq wd 10 s g3, fld_eq wd 8 o g4, fld_sub wd 8 _ p 5 g5 (by decide) (by omega), fld_sub wd 8 _ t 0 g5 (by decide) (by omega)]
  have hfix : wd &&& fnFixed 0xE3 = 0 := by
    show wd &&& ((2 ^ 1 - 1) * 2 ^ 4) = 0
    rw [land_run, show wd / 2 ^ 4 % 2 ^ 1 = 0 from (run_sub wd 8 _ 4 1 g5 (by decide)).trans (by omega)] <;> rfl
  have hres : wd &&& reservedBits wd = reservedValue 0xE3 := by
    rw [reservedBits_at _ h24 (by decide)]
    show wd &&& 0 = 0x0
    exact Nat.and_zero _
  refine ⟨by omega, ?_⟩
  rw [decode_word h24 hf hfix wf.1 hres wf.2.1 (by omega)]; rfl

theorem samo (d : BitVec 5) (a : BitVec 5) (e : BitVec 1) (p : BitVec 4) (t : BitVec 4) : Statement (Instr.samo d a e p t) := by
  intro _ wf
  have bp := p.isLt
  have bt := t.isLt
  generalize hwd : Instr.encodeNat (Instr.samo d a e p t) = wd
  replace hwd : encSY 0xE4 d.toNat a.toNat e.toNat 0 0 (p.toNat * 16 + t.toNat) = wd := hwd
  obtain ⟨h24, hh, hl, g0, g1, g2, g3, g4, g5⟩ := sy_word hwd d.isLt a.isLt e.isLt (by decide) (by decide) (by omega)
  have hf : fieldsOf wd = some (Sum.inl (Instr.samo d a e p t)) := by
    rw [fieldsOf_E 4 (by omega) (by omega)]
    show some (Sum.inl (Instr.samo (fld wd 19) (fld wd 14) (fld wd 13) (fld wd 4) (fld wd 0))) = _
    rw [fld_eq wd 19 d g0, fld_eq wd 14 a g1, fld_eq wd 13 e g2, fld_sub wd 8 _ p 4 g5 (by decide) (by omega), fld_sub wd 8 _ t 0 g5 (by decide) (by omega)]
  have hfix : wd &&& fnFixed 0xE4 = 0 := by
    show wd &&& 0 = 0
    exact Nat.and_zero _
  have hres : wd &&& reservedBits wd = reservedValue 0xE4 := by
    rw [reservedBits_at _ h24 (by decide)]
    show wd &&& (((2 ^ 2 - 1) * 2 ^ 8) ||| ((2 ^ 3 - 1) * 2 ^ 10)) = 0x0
    rw [Nat.and_or_distrib_left, land_run, land_run, g4, g3] <;> rfl
  refine ⟨by omega, ?_⟩
  rw [decode_word h24 hf hfix wf.1 hres wf.2.1 (by omega)]; rfl

theorem sred (d : BitVec 5) (a : BitVec 5) (e : BitVec 1) (p : BitVec 4) (t : BitVec 4) : Statement (Instr.sred d a e p t) := by
  intro _ wf
  have bp := p.isLt
  have bt := t.isLt
  generalize hwd : Instr.encodeNat (Instr.sred d a e p t) = wd
  replace hwd : encSY 0xE5 d.toNat a.toNat e.toNat 0 0 (p.toNat * 16 + t.toNat) = wd := hwd
  obtain ⟨h24, hh, hl, g0, g1, g2, g3, g4, g5⟩ := sy_word hwd d.isLt a.isLt e.isLt (by decide) (by decide) (by omega)
  have hf : fieldsOf wd = some (Sum.inl (Instr.sred d a e p t)) := by
    rw [fieldsOf_E 5 (by omega) (by omega)]
    show some (Sum.inl (Instr.sred (fld wd 19) (fld wd 14) (fld wd 13) (fld wd 4) (fld wd 0))) = _
    rw [fld_eq wd 19 d g0, fld_eq wd 14 a g1, fld_eq wd 13 e g2, fld_sub wd 8 _ p 4 g5 (by decide) (by omega), fld_sub wd 8 _ t 0 g5 (by decide) (by omega)]
  have hfix : wd &&& fnFixed 0xE5 = 0 := by
    show wd &&& 0 = 0
    exact Nat.and_zero _
  have hres : wd &&& reservedBits wd = reservedValue 0xE5 := by
    rw [reservedBits_at _ h24 (by decide)]
    show wd &&& (((2 ^ 2 - 1) * 2 ^ 8) ||| ((2 ^ 3 - 1) * 2 ^ 10)) = 0x0
    rw [Nat.and_or_distrib_left, land_run, land_run, g4, g3] <;> rfl
  refine ⟨by omega, ?_⟩
  rw [decode_word h24 hf hfix wf.1 hres wf.2.1 (by omega)]; rfl

theorem hacc (d : BitVec 5) (a : BitVec 5) (e : BitVec 1) (r : BitVec 5) (o : BitVec 3) : Statement (Instr.hacc d a e r o) := by
  intro _ wf
  have bo := o.isLt
  have br := r.isLt
  generalize hwd : Instr.encodeNat (Instr.hacc d a e r o) = wd
  replace hwd : encSY 0xE6 d.toNat a.toNat e.toNat 0 0 (r.toNat * 8 + o.toNat) = wd := hwd
  obtain ⟨h24, hh, hl, g0, g1, g2, g3, g4, g5⟩ := sy_word hwd d.isLt a.isLt e.isLt (by decide) (by decide) (by omega)
  have hf : fieldsOf wd = some (Sum.inl (Instr.hacc d a e r o)) := by
    rw [fieldsOf_E 6 (by omega) (by omega)]
    show some (Sum.inl (Instr.hacc (fld wd 19) (fld wd 14) (fld wd 13) (fld wd 3) (fld wd 0))) = _
    rw [fld_eq wd 19 d g0, fld_eq wd 14 a g1, fld_eq wd 13 e g2, fld_sub wd 8 _ r 3 g5 (by decide) (by omega), fld_sub wd 8 _ o 0 g5 (by decide) (by omega)]
  have hfix : wd &&& fnFixed 0xE6 = 0 := by
    show wd &&& 0 = 0
    exact Nat.and_zero _
  have hres : wd &&& reservedBits wd = reservedValue 0xE6 := by
    rw [reservedBits_at _ h24 (by decide)]
    show wd &&& (((2 ^ 2 - 1) * 2 ^ 8) ||| ((2 ^ 3 - 1) * 2 ^ 10)) = 0x0
    rw [Nat.and_or_distrib_left, land_run, land_run, g4, g3] <;> rfl
  refine ⟨by omega, ?_⟩
  rw [decode_word h24 hf hfix wf.1 hres wf.2.1 (by omega)]; rfl

theorem waita (d : BitVec 5) (a : BitVec 5) (e : BitVec 1) (s : BitVec 3) (o : BitVec 2) (c : BitVec 4) (z : BitVec 2) : Statement (Instr.waita d a e s o c z) := by
  intro _ wf
  have bc := c.isLt
  have bz := z.isLt
  generalize hwd : Instr.encodeNat (Instr.waita d a e s o c z) = wd
  replace hwd : encSY 0xE7 d.toNat a.toNat e.toNat s.toNat o.toNat (c.toNat * 16 + z.toNat) = wd := hwd
  obtain ⟨h24, hh, hl, g0, g1, g2, g3, g4, g5⟩ := sy_word hwd d.isLt a.isLt e.isLt s.isLt o.isLt (by omega)
  have hf : fieldsOf wd = some (Sum.inl (Instr.waita d a e s o c z)) := by
    rw [fieldsOf_E 7 (by omega) (by omega)]
    show some (Sum.inl (Instr.waita (fld wd 19) (fld wd 14) (fld wd 13) (fld wd 10) (fld wd 8) (fld wd 4) (fld wd 0))) = _
    rw [fld_eq wd 19 d g0, fld_eq wd 14 a g1, fld_eq wd 13 e g2, fld_eq wd 10 s g3, fld_eq wd 8 o g4, fld_sub wd 8 _ c 4 g5 (by decide) (by omega), fld_sub wd 8 _ z 0 g5 (by decide) (by omega)]
  have hfix : wd &&& fnFixed 0xE7 = 0 := by
    show wd &&& ((2 ^ 2 - 1) * 2 ^ 2) = 0
    rw [land_run, show wd / 2 ^ 2 % 2 ^ 2 = 0 from (run_sub wd 8 _ 2 2 g5 (by decide)).trans (by omega)] <;> rfl
  have hres : wd &&& reservedBits wd = reservedValue 0xE7 := by
    rw [reservedBits_at _ h24 (by decide)]
    show wd &&& 0 = 0x0
    exact Nat.and_zero _
  refine ⟨by omega, ?_⟩
  rw [decode_word h24 hf hfix wf.1 hres wf.2.1 (by omega)]; rfl

theorem vwait (d : BitVec 5) (a : BitVec 5) (e : BitVec 1) (s : BitVec 3) (o : BitVec 2) (p : BitVec 3) (c : BitVec 3) : Statement (Instr.vwait d a e s o p c) := by
  intro _ wf
  have bc := c.isLt
  have bp := p.isLt
  generalize hwd : Instr.encodeNat (Instr.vwait d a e s o p c) = wd
  replace hwd : encSY 0xE8 d.toNat a.toNat e.toNat s.toNat o.toNat (p.toNat * 32 + c.toNat) = wd := hwd
  obtain ⟨h24, hh, hl, g0, g1, g2, g3, g4, g5⟩ := sy_word hwd d.isLt a.isLt e.isLt s.isLt o.isLt (by omega)
  have hf : fieldsOf wd = some (Sum.inl (Instr.vwait d a e s o p c)) := by
    rw [fieldsOf_E 8 (by omega) (by omega)]
    show some (Sum.inl (Instr.vwait (fld wd 19) (fld wd 14) (fld wd 13) (fld wd 10) (fld wd 8) (fld wd 5) (fld wd 0))) = _
    rw [fld_eq wd 19 d g0, fld_eq wd 14 a g1, fld_eq wd 13 e g2, fld_eq wd 10 s g3, fld_eq wd 8 o g4, fld_sub wd 8 _ p 5 g5 (by decide) (by omega), fld_sub wd 8 _ c 0 g5 (by decide) (by omega)]
  have hfix : wd &&& fnFixed 0xE8 = 0 := by
    show wd &&& ((2 ^ 2 - 1) * 2 ^ 3) = 0
    rw [land_run, show wd / 2 ^ 3 % 2 ^ 2 = 0 from (run_sub wd 8 _ 3 2 g5 (by decide)).trans (by omega)] <;> rfl
  have hres : wd &&& reservedBits wd = reservedValue 0xE8 := by
    rw [reservedBits_at _ h24 (by decide)]
    show wd &&& 0 = 0x0
    exact Nat.and_zero _
  refine ⟨by omega, ?_⟩
  rw [decode_word h24 hf hfix wf.1 hres wf.2.1 (by omega)]; rfl

theorem arrive (d : BitVec 5) (a : BitVec 5) (e : BitVec 1) (s : BitVec 3) (o : BitVec 2) (x : BitVec 1) (l : BitVec 1) (n : BitVec 3) (g : BitVec 1) : Statement (Instr.arrive d a e s o x l n g) := by
  intro _ wf
  have bg := g.isLt
  have bl := l.isLt
  have bn := n.isLt
  have bx := x.isLt
  generalize hwd : Instr.encodeNat (Instr.arrive d a e s o x l n g) = wd
  replace hwd : encSY 0xE9 d.toNat a.toNat e.toNat s.toNat o.toNat (x.toNat * 32 + l.toNat * 16 + n.toNat * 2 + g.toNat) = wd := hwd
  obtain ⟨h24, hh, hl, g0, g1, g2, g3, g4, g5⟩ := sy_word hwd d.isLt a.isLt e.isLt s.isLt o.isLt (by omega)
  have hf : fieldsOf wd = some (Sum.inl (Instr.arrive d a e s o x l n g)) := by
    rw [fieldsOf_E 9 (by omega) (by omega)]
    show some (Sum.inl (Instr.arrive (fld wd 19) (fld wd 14) (fld wd 13) (fld wd 10) (fld wd 8) (fld wd 5) (fld wd 4) (fld wd 1) (fld wd 0))) = _
    rw [fld_eq wd 19 d g0, fld_eq wd 14 a g1, fld_eq wd 13 e g2, fld_eq wd 10 s g3, fld_eq wd 8 o g4, fld_sub wd 8 _ x 5 g5 (by decide) (by omega), fld_sub wd 8 _ l 4 g5 (by decide) (by omega), fld_sub wd 8 _ n 1 g5 (by decide) (by omega), fld_sub wd 8 _ g 0 g5 (by decide) (by omega)]
  have hfix : wd &&& fnFixed 0xE9 = 0 := by
    show wd &&& ((2 ^ 2 - 1) * 2 ^ 6) = 0
    rw [land_run, show wd / 2 ^ 6 % 2 ^ 2 = 0 from (run_sub wd 8 _ 6 2 g5 (by decide)).trans (by omega)] <;> rfl
  have hres : wd &&& reservedBits wd = reservedValue 0xE9 := by
    rw [reservedBits_at _ h24 (by decide)]
    show wd &&& 0 = 0x0
    exact Nat.and_zero _
  refine ⟨by omega, ?_⟩
  rw [decode_word h24 hf hfix wf.1 hres wf.2.1 (by omega)]; rfl

theorem await (d : BitVec 5) (a : BitVec 5) (e : BitVec 1) (s : BitVec 3) (l : BitVec 1) (n : BitVec 3) (g : BitVec 1) : Statement (Instr.await d a e s l n g) := by
  intro _ wf
  have bg := g.isLt
  have bl := l.isLt
  have bn := n.isLt
  generalize hwd : Instr.encodeNat (Instr.await d a e s l n g) = wd
  replace hwd : encSY 0xEA d.toNat a.toNat e.toNat s.toNat 1 (l.toNat * 16 + n.toNat * 2 + g.toNat) = wd := hwd
  obtain ⟨h24, hh, hl, g0, g1, g2, g3, g4, g5⟩ := sy_word hwd d.isLt a.isLt e.isLt s.isLt (by omega) (by omega)
  have hf : fieldsOf wd = some (Sum.inl (Instr.await d a e s l n g)) := by
    rw [fieldsOf_E 10 (by omega) (by omega)]
    show some (Sum.inl (Instr.await (fld wd 19) (fld wd 14) (fld wd 13) (fld wd 10) (fld wd 4) (fld wd 1) (fld wd 0))) = _
    rw [fld_eq wd 19 d g0, fld_eq wd 14 a g1, fld_eq wd 13 e g2, fld_eq wd 10 s g3, fld_sub wd 8 _ l 4 g5 (by decide) (by omega), fld_sub wd 8 _ n 1 g5 (by decide) (by omega), fld_sub wd 8 _ g 0 g5 (by decide) (by omega)]
  have hfix : wd &&& fnFixed 0xEA = 0 := by
    show wd &&& ((2 ^ 3 - 1) * 2 ^ 5) = 0
    rw [land_run, show wd / 2 ^ 5 % 2 ^ 3 = 0 from (run_sub wd 8 _ 5 3 g5 (by decide)).trans (by omega)] <;> rfl
  have hres : wd &&& reservedBits wd = reservedValue 0xEA := by
    rw [reservedBits_at _ h24 (by decide)]
    show wd &&& ((2 ^ 2 - 1) * 2 ^ 8) = 0x100
    rw [land_run, g4] <;> rfl
  refine ⟨by omega, ?_⟩
  rw [decode_word h24 hf hfix wf.1 hres wf.2.1 (by omega)]; rfl

theorem endph (s : BitVec 3) (l : BitVec 1) (n : BitVec 3) : Statement (Instr.endph s l n) := by
  intro _ wf
  have bl := l.isLt
  have bn := n.isLt
  generalize hwd : Instr.encodeNat (Instr.endph s l n) = wd
  replace hwd : encSY 0xEB 0 0 0 s.toNat 2 (l.toNat * 16 + n.toNat * 2) = wd := hwd
  obtain ⟨h24, hh, hl, g0, g1, g2, g3, g4, g5⟩ := sy_word hwd (by decide) (by decide) (by decide) s.isLt (by omega) (by omega)
  have hf : fieldsOf wd = some (Sum.inl (Instr.endph s l n)) := by
    rw [fieldsOf_E 11 (by omega) (by omega)]
    show some (Sum.inl (Instr.endph (fld wd 10) (fld wd 4) (fld wd 1))) = _
    rw [fld_eq wd 10 s g3, fld_sub wd 8 _ l 4 g5 (by decide) (by omega), fld_sub wd 8 _ n 1 g5 (by decide) (by omega)]
  have hfix : wd &&& fnFixed 0xEB = 0 := by
    show wd &&& (((2 ^ 1 - 1) * 2 ^ 0) ||| ((2 ^ 3 - 1) * 2 ^ 5)) = 0
    rw [Nat.and_or_distrib_left, land_run, land_run, show wd / 2 ^ 0 % 2 ^ 1 = 0 from (run_sub wd 8 _ 0 1 g5 (by decide)).trans (by omega), show wd / 2 ^ 5 % 2 ^ 3 = 0 from (run_sub wd 8 _ 5 3 g5 (by decide)).trans (by omega)] <;> rfl
  have hres : wd &&& reservedBits wd = reservedValue 0xEB := by
    rw [reservedBits_at _ h24 (by decide)]
    show wd &&& (((((2 ^ 2 - 1) * 2 ^ 8) ||| ((2 ^ 1 - 1) * 2 ^ 13)) ||| ((2 ^ 5 - 1) * 2 ^ 14)) ||| ((2 ^ 5 - 1) * 2 ^ 19)) = 0x200
    rw [Nat.and_or_distrib_left, Nat.and_or_distrib_left, Nat.and_or_distrib_left, land_run, land_run, land_run, land_run, g4, g2, g1, g0] <;> rfl
  refine ⟨by omega, ?_⟩
  rw [decode_word h24 hf hfix wf.1 hres wf.2.1 (by omega)]; rfl

theorem fence (s : BitVec 3) : Statement (Instr.fence s) := by
  intro _ wf
  generalize hwd : Instr.encodeNat (Instr.fence s) = wd
  replace hwd : encSY 0xEC 0 0 0 s.toNat 3 0 = wd := hwd
  obtain ⟨h24, hh, hl, g0, g1, g2, g3, g4, g5⟩ := sy_word hwd (by decide) (by decide) (by decide) s.isLt (by omega) (by decide)
  have hf : fieldsOf wd = some (Sum.inl (Instr.fence s)) := by
    rw [fieldsOf_E 12 (by omega) (by omega)]
    show some (Sum.inl (Instr.fence (fld wd 10))) = _
    rw [fld_eq wd 10 s g3]
  have hfix : wd &&& fnFixed 0xEC = 0 := by
    show wd &&& ((2 ^ 8 - 1) * 2 ^ 0) = 0
    rw [land_run, show wd / 2 ^ 0 % 2 ^ 8 = 0 from (by rw [Nat.pow_zero, Nat.div_one]; exact g5)] <;> rfl
  have hres : wd &&& reservedBits wd = reservedValue 0xEC := by
    rw [reservedBits_at _ h24 (by decide)]
    show wd &&& (((((2 ^ 2 - 1) * 2 ^ 8) ||| ((2 ^ 1 - 1) * 2 ^ 13)) ||| ((2 ^ 5 - 1) * 2 ^ 14)) ||| ((2 ^ 5 - 1) * 2 ^ 19)) = 0x300
    rw [Nat.and_or_distrib_left, Nat.and_or_distrib_left, Nat.and_or_distrib_left, land_run, land_run, land_run, land_run, g4, g2, g1, g0] <;> rfl
  refine ⟨by omega, ?_⟩
  rw [decode_word h24 hf hfix wf.1 hres wf.2.1 (by omega)]; rfl

theorem mprint (d : BitVec 5) (a : BitVec 5) (e : BitVec 1) : Statement (Instr.mprint d a e) := by
  intro _ wf
  generalize hwd : Instr.encodeNat (Instr.mprint d a e) = wd
  replace hwd : encSY 0xED d.toNat a.toNat e.toNat 0 0 0 = wd := hwd
  obtain ⟨h24, hh, hl, g0, g1, g2, g3, g4, g5⟩ := sy_word hwd d.isLt a.isLt e.isLt (by decide) (by decide) (by decide)
  have hf : fieldsOf wd = some (Sum.inl (Instr.mprint d a e)) := by
    rw [fieldsOf_E 13 (by omega) (by omega)]
    unfold fieldsE
    simp only [show wd % 256 = 0 by omega]
    rw [fld_eq wd 19 d g0, fld_eq wd 14 a g1, fld_eq wd 13 e g2]
  have hfix : wd &&& fnFixed 0xED = 0 := by
    show wd &&& 0 = 0
    exact Nat.and_zero _
  have hres : wd &&& reservedBits wd = reservedValue 0xED := by
    rw [reservedBits_at _ h24 (by decide)]
    show wd &&& (((2 ^ 2 - 1) * 2 ^ 8) ||| ((2 ^ 3 - 1) * 2 ^ 10)) = 0x0
    rw [Nat.and_or_distrib_left, land_run, land_run, g4, g3] <;> rfl
  refine ⟨by omega, ?_⟩
  rw [decode_word h24 hf hfix wf.1 hres wf.2.1 (by omega)]; rfl

theorem mprintFork (d : BitVec 5) (a : BitVec 5) (e : BitVec 1) : Statement (Instr.mprintFork d a e) := by
  intro _ wf
  generalize hwd : Instr.encodeNat (Instr.mprintFork d a e) = wd
  replace hwd : encSY 0xED d.toNat a.toNat e.toNat 0 0 1 = wd := hwd
  obtain ⟨h24, hh, hl, g0, g1, g2, g3, g4, g5⟩ := sy_word hwd d.isLt a.isLt e.isLt (by decide) (by decide) (by omega)
  have hf : fieldsOf wd = some (Sum.inl (Instr.mprintFork d a e)) := by
    rw [fieldsOf_E 13 (by omega) (by omega)]
    unfold fieldsE
    simp only [show wd % 256 = 1 by omega]
    rw [fld_eq wd 19 d g0, fld_eq wd 14 a g1, fld_eq wd 13 e g2]
  have hfix : wd &&& fnFixed 0xED = 0 := by
    show wd &&& 0 = 0
    exact Nat.and_zero _
  have hres : wd &&& reservedBits wd = reservedValue 0xED := by
    rw [reservedBits_at _ h24 (by decide)]
    show wd &&& (((2 ^ 2 - 1) * 2 ^ 8) ||| ((2 ^ 3 - 1) * 2 ^ 10)) = 0x0
    rw [Nat.and_or_distrib_left, land_run, land_run, g4, g3] <;> rfl
  refine ⟨by omega, ?_⟩
  rw [decode_word h24 hf hfix wf.1 hres wf.2.1 (by omega)]; rfl

theorem mstrike (d : BitVec 5) (a : BitVec 5) (e : BitVec 1) : Statement (Instr.mstrike d a e) := by
  intro _ wf
  generalize hwd : Instr.encodeNat (Instr.mstrike d a e) = wd
  replace hwd : encSY 0xED d.toNat a.toNat e.toNat 0 0 2 = wd := hwd
  obtain ⟨h24, hh, hl, g0, g1, g2, g3, g4, g5⟩ := sy_word hwd d.isLt a.isLt e.isLt (by decide) (by decide) (by omega)
  have hf : fieldsOf wd = some (Sum.inl (Instr.mstrike d a e)) := by
    rw [fieldsOf_E 13 (by omega) (by omega)]
    unfold fieldsE
    simp only [show wd % 256 = 2 by omega]
    rw [fld_eq wd 19 d g0, fld_eq wd 14 a g1, fld_eq wd 13 e g2]
  have hfix : wd &&& fnFixed 0xED = 0 := by
    show wd &&& 0 = 0
    exact Nat.and_zero _
  have hres : wd &&& reservedBits wd = reservedValue 0xED := by
    rw [reservedBits_at _ h24 (by decide)]
    show wd &&& (((2 ^ 2 - 1) * 2 ^ 8) ||| ((2 ^ 3 - 1) * 2 ^ 10)) = 0x0
    rw [Nat.and_or_distrib_left, land_run, land_run, g4, g3] <;> rfl
  refine ⟨by omega, ?_⟩
  rw [decode_word h24 hf hfix wf.1 hres wf.2.1 (by omega)]; rfl

theorem mquery (d : BitVec 5) (a : BitVec 5) (e : BitVec 1) : Statement (Instr.mquery d a e) := by
  intro _ wf
  generalize hwd : Instr.encodeNat (Instr.mquery d a e) = wd
  replace hwd : encSY 0xEE d.toNat a.toNat e.toNat 0 0 0 = wd := hwd
  obtain ⟨h24, hh, hl, g0, g1, g2, g3, g4, g5⟩ := sy_word hwd d.isLt a.isLt e.isLt (by decide) (by decide) (by decide)
  have hf : fieldsOf wd = some (Sum.inl (Instr.mquery d a e)) := by
    rw [fieldsOf_E 14 (by omega) (by omega)]
    unfold fieldsE
    simp only [show wd % 256 = 0 by omega]
    rw [fld_eq wd 19 d g0, fld_eq wd 14 a g1, fld_eq wd 13 e g2]
  have hfix : wd &&& fnFixed 0xEE = 0 := by
    show wd &&& 0 = 0
    exact Nat.and_zero _
  have hres : wd &&& reservedBits wd = reservedValue 0xEE := by
    rw [reservedBits_at _ h24 (by decide)]
    show wd &&& (((2 ^ 2 - 1) * 2 ^ 8) ||| ((2 ^ 3 - 1) * 2 ^ 10)) = 0x0
    rw [Nat.and_or_distrib_left, land_run, land_run, g4, g3] <;> rfl
  refine ⟨by omega, ?_⟩
  rw [decode_word h24 hf hfix wf.1 hres wf.2.1 (by omega)]; rfl

theorem mgrant (d : BitVec 5) (a : BitVec 5) (e : BitVec 1) : Statement (Instr.mgrant d a e) := by
  intro _ wf
  generalize hwd : Instr.encodeNat (Instr.mgrant d a e) = wd
  replace hwd : encSY 0xEE d.toNat a.toNat e.toNat 0 0 1 = wd := hwd
  obtain ⟨h24, hh, hl, g0, g1, g2, g3, g4, g5⟩ := sy_word hwd d.isLt a.isLt e.isLt (by decide) (by decide) (by omega)
  have hf : fieldsOf wd = some (Sum.inl (Instr.mgrant d a e)) := by
    rw [fieldsOf_E 14 (by omega) (by omega)]
    unfold fieldsE
    simp only [show wd % 256 = 1 by omega]
    rw [fld_eq wd 19 d g0, fld_eq wd 14 a g1, fld_eq wd 13 e g2]
  have hfix : wd &&& fnFixed 0xEE = 0 := by
    show wd &&& 0 = 0
    exact Nat.and_zero _
  have hres : wd &&& reservedBits wd = reservedValue 0xEE := by
    rw [reservedBits_at _ h24 (by decide)]
    show wd &&& (((2 ^ 2 - 1) * 2 ^ 8) ||| ((2 ^ 3 - 1) * 2 ^ 10)) = 0x0
    rw [Nat.and_or_distrib_left, land_run, land_run, g4, g3] <;> rfl
  refine ⟨by omega, ?_⟩
  rw [decode_word h24 hf hfix wf.1 hres wf.2.1 (by omega)]; rfl

theorem plshare (d : BitVec 5) (a : BitVec 5) (e : BitVec 1) (s : BitVec 5) : Statement (Instr.plshare d a e s) := by
  intro _ wf
  have bs := s.isLt
  generalize hwd : Instr.encodeNat (Instr.plshare d a e s) = wd
  replace hwd : encSY 0xEF d.toNat a.toNat e.toNat 0 0 (s.toNat * 8) = wd := hwd
  obtain ⟨h24, hh, hl, g0, g1, g2, g3, g4, g5⟩ := sy_word hwd d.isLt a.isLt e.isLt (by decide) (by decide) (by omega)
  have hf : fieldsOf wd = some (Sum.inl (Instr.plshare d a e s)) := by
    rw [fieldsOf_E 15 (by omega) (by omega)]
    unfold fieldsE
    simp only [show wd % 8 = 0 by omega]
    rw [fld_eq wd 19 d g0, fld_eq wd 14 a g1, fld_eq wd 13 e g2, fld_sub wd 8 _ s 3 g5 (by decide) (by omega)]
  have hfix : wd &&& fnFixed 0xEF = 0 := by
    show wd &&& 0 = 0
    exact Nat.and_zero _
  have hres : wd &&& reservedBits wd = reservedValue 0xEF := by
    rw [show reservedBits wd = (((2 ^ 2 - 1) * 2 ^ 8) ||| ((2 ^ 3 - 1) * 2 ^ 10)) by unfold reservedBits; rw [h24]; rw [if_neg (by omega)]; rfl]
    rw [Nat.and_or_distrib_left, land_run, land_run, g4, g3] <;> rfl
  refine ⟨by omega, ?_⟩
  rw [decode_word h24 hf hfix wf.1 hres wf.2.1 (by omega)]; rfl

theorem pldec (a : BitVec 5) (e : BitVec 1) (s : BitVec 5) : Statement (Instr.pldec a e s) := by
  intro _ wf
  have bs := s.isLt
  generalize hwd : Instr.encodeNat (Instr.pldec a e s) = wd
  replace hwd : encSY 0xEF 0 a.toNat e.toNat 0 0 (s.toNat * 8 + 1) = wd := hwd
  obtain ⟨h24, hh, hl, g0, g1, g2, g3, g4, g5⟩ := sy_word hwd (by decide) a.isLt e.isLt (by decide) (by decide) (by omega)
  have hf : fieldsOf wd = some (Sum.inl (Instr.pldec a e s)) := by
    rw [fieldsOf_E 15 (by omega) (by omega)]
    unfold fieldsE
    simp only [show wd % 8 = 1 by omega]
    rw [fld_eq wd 14 a g1, fld_eq wd 13 e g2, fld_sub wd 8 _ s 3 g5 (by decide) (by omega)]
  have hfix : wd &&& fnFixed 0xEF = 0 := by
    show wd &&& 0 = 0
    exact Nat.and_zero _
  have hres : wd &&& reservedBits wd = reservedValue 0xEF := by
    rw [show reservedBits wd = ((((2 ^ 2 - 1) * 2 ^ 8) ||| ((2 ^ 3 - 1) * 2 ^ 10)) ||| ((2 ^ 5 - 1) * 2 ^ 19)) by unfold reservedBits; rw [h24]; rw [if_pos ⟨rfl, by omega⟩]; rfl]
    rw [Nat.and_or_distrib_left, Nat.and_or_distrib_left, land_run, land_run, land_run, g4, g3, g0] <;> rfl
  refine ⟨by omega, ?_⟩
  rw [decode_word h24 hf hfix wf.1 hres wf.2.1 (by omega)]; rfl

theorem ecmd (d : BitVec 5) (a : BitVec 5) (e : BitVec 1) (f : BitVec 3) : Statement (Instr.ecmd d a e f) := by
  intro _ wf
  have bf := f.isLt
  generalize hwd : Instr.encodeNat (Instr.ecmd d a e f) = wd
  replace hwd : encSY 0xF0 d.toNat a.toNat e.toNat 0 0 f.toNat = wd := hwd
  obtain ⟨h24, hh, hl, g0, g1, g2, g3, g4, g5⟩ := sy_word hwd d.isLt a.isLt e.isLt (by decide) (by decide) (by omega)
  have hf : fieldsOf wd = some (Sum.inl (Instr.ecmd d a e f)) := by
    rw [fieldsOf_F 0 (by omega) (by omega)]
    show some (Sum.inl (Instr.ecmd (fld wd 19) (fld wd 14) (fld wd 13) (fld wd 0))) = _
    rw [fld_eq wd 19 d g0, fld_eq wd 14 a g1, fld_eq wd 13 e g2, fld_sub wd 8 _ f 0 g5 (by decide) (by omega)]
  have hfix : wd &&& fnFixed 0xF0 = 0 := by
    show wd &&& ((2 ^ 5 - 1) * 2 ^ 3) = 0
    rw [land_run, show wd / 2 ^ 3 % 2 ^ 5 = 0 from (run_sub wd 8 _ 3 5 g5 (by decide)).trans (by omega)] <;> rfl
  have hres : wd &&& reservedBits wd = reservedValue 0xF0 := by
    rw [reservedBits_at _ h24 (by decide)]
    show wd &&& (((2 ^ 2 - 1) * 2 ^ 8) ||| ((2 ^ 3 - 1) * 2 ^ 10)) = 0x0
    rw [Nat.and_or_distrib_left, land_run, land_run, g4, g3] <;> rfl
  refine ⟨by omega, ?_⟩
  rw [decode_word h24 hf hfix wf.1 hres wf.2.1 (by omega)]; rfl

theorem ecpoll (d : BitVec 5) (f : BitVec 3) : Statement (Instr.ecpoll d f) := by
  intro _ wf
  have bf := f.isLt
  generalize hwd : Instr.encodeNat (Instr.ecpoll d f) = wd
  replace hwd : encSY 0xF1 d.toNat 0 0 0 0 f.toNat = wd := hwd
  obtain ⟨h24, hh, hl, g0, g1, g2, g3, g4, g5⟩ := sy_word hwd d.isLt (by decide) (by decide) (by decide) (by decide) (by omega)
  have hf : fieldsOf wd = some (Sum.inl (Instr.ecpoll d f)) := by
    rw [fieldsOf_F 1 (by omega) (by omega)]
    show some (Sum.inl (Instr.ecpoll (fld wd 19) (fld wd 0))) = _
    rw [fld_eq wd 19 d g0, fld_sub wd 8 _ f 0 g5 (by decide) (by omega)]
  have hfix : wd &&& fnFixed 0xF1 = 0 := by
    show wd &&& ((2 ^ 5 - 1) * 2 ^ 3) = 0
    rw [land_run, show wd / 2 ^ 3 % 2 ^ 5 = 0 from (run_sub wd 8 _ 3 5 g5 (by decide)).trans (by omega)] <;> rfl
  have hres : wd &&& reservedBits wd = reservedValue 0xF1 := by
    rw [reservedBits_at _ h24 (by decide)]
    show wd &&& (((((2 ^ 2 - 1) * 2 ^ 8) ||| ((2 ^ 3 - 1) * 2 ^ 10)) ||| ((2 ^ 1 - 1) * 2 ^ 13)) ||| ((2 ^ 5 - 1) * 2 ^ 14)) = 0x0
    rw [Nat.and_or_distrib_left, Nat.and_or_distrib_left, Nat.and_or_distrib_left, land_run, land_run, land_run, land_run, g4, g3, g2, g1] <;> rfl
  refine ⟨by omega, ?_⟩
  rw [decode_word h24 hf hfix wf.1 hres wf.2.1 (by omega)]; rfl

theorem ecfence (d : BitVec 5) (f : BitVec 4) : Statement (Instr.ecfence d f) := by
  intro _ wf
  have bf := f.isLt
  generalize hwd : Instr.encodeNat (Instr.ecfence d f) = wd
  replace hwd : encSY 0xF2 d.toNat 0 0 0 0 f.toNat = wd := hwd
  obtain ⟨h24, hh, hl, g0, g1, g2, g3, g4, g5⟩ := sy_word hwd d.isLt (by decide) (by decide) (by decide) (by decide) (by omega)
  have hf : fieldsOf wd = some (Sum.inl (Instr.ecfence d f)) := by
    rw [fieldsOf_F 2 (by omega) (by omega)]
    show some (Sum.inl (Instr.ecfence (fld wd 19) (fld wd 0))) = _
    rw [fld_eq wd 19 d g0, fld_sub wd 8 _ f 0 g5 (by decide) (by omega)]
  have hfix : wd &&& fnFixed 0xF2 = 0 := by
    show wd &&& ((2 ^ 4 - 1) * 2 ^ 4) = 0
    rw [land_run, show wd / 2 ^ 4 % 2 ^ 4 = 0 from (run_sub wd 8 _ 4 4 g5 (by decide)).trans (by omega)] <;> rfl
  have hres : wd &&& reservedBits wd = reservedValue 0xF2 := by
    rw [reservedBits_at _ h24 (by decide)]
    show wd &&& (((((2 ^ 2 - 1) * 2 ^ 8) ||| ((2 ^ 3 - 1) * 2 ^ 10)) ||| ((2 ^ 1 - 1) * 2 ^ 13)) ||| ((2 ^ 5 - 1) * 2 ^ 14)) = 0x0
    rw [Nat.and_or_distrib_left, Nat.and_or_distrib_left, Nat.and_or_distrib_left, land_run, land_run, land_run, land_run, g4, g3, g2, g1] <;> rfl
  refine ⟨by omega, ?_⟩
  rw [decode_word h24 hf hfix wf.1 hres wf.2.1 (by omega)]; rfl

theorem ecabort (d : BitVec 5) (a : BitVec 5) (e : BitVec 1) (f : BitVec 3) : Statement (Instr.ecabort d a e f) := by
  intro _ wf
  have bf := f.isLt
  generalize hwd : Instr.encodeNat (Instr.ecabort d a e f) = wd
  replace hwd : encSY 0xF3 d.toNat a.toNat e.toNat 0 0 f.toNat = wd := hwd
  obtain ⟨h24, hh, hl, g0, g1, g2, g3, g4, g5⟩ := sy_word hwd d.isLt a.isLt e.isLt (by decide) (by decide) (by omega)
  have hf : fieldsOf wd = some (Sum.inl (Instr.ecabort d a e f)) := by
    rw [fieldsOf_F 3 (by omega) (by omega)]
    show some (Sum.inl (Instr.ecabort (fld wd 19) (fld wd 14) (fld wd 13) (fld wd 0))) = _
    rw [fld_eq wd 19 d g0, fld_eq wd 14 a g1, fld_eq wd 13 e g2, fld_sub wd 8 _ f 0 g5 (by decide) (by omega)]
  have hfix : wd &&& fnFixed 0xF3 = 0 := by
    show wd &&& ((2 ^ 5 - 1) * 2 ^ 3) = 0
    rw [land_run, show wd / 2 ^ 3 % 2 ^ 5 = 0 from (run_sub wd 8 _ 3 5 g5 (by decide)).trans (by omega)] <;> rfl
  have hres : wd &&& reservedBits wd = reservedValue 0xF3 := by
    rw [reservedBits_at _ h24 (by decide)]
    show wd &&& (((2 ^ 2 - 1) * 2 ^ 8) ||| ((2 ^ 3 - 1) * 2 ^ 10)) = 0x0
    rw [Nat.and_or_distrib_left, land_run, land_run, g4, g3] <;> rfl
  refine ⟨by omega, ?_⟩
  rw [decode_word h24 hf hfix wf.1 hres wf.2.1 (by omega)]; rfl

theorem ecstat (d : BitVec 5) (f : BitVec 3) : Statement (Instr.ecstat d f) := by
  intro _ wf
  have bf := f.isLt
  generalize hwd : Instr.encodeNat (Instr.ecstat d f) = wd
  replace hwd : encSY 0xF4 d.toNat 0 0 0 0 f.toNat = wd := hwd
  obtain ⟨h24, hh, hl, g0, g1, g2, g3, g4, g5⟩ := sy_word hwd d.isLt (by decide) (by decide) (by decide) (by decide) (by omega)
  have hf : fieldsOf wd = some (Sum.inl (Instr.ecstat d f)) := by
    rw [fieldsOf_F 4 (by omega) (by omega)]
    show some (Sum.inl (Instr.ecstat (fld wd 19) (fld wd 0))) = _
    rw [fld_eq wd 19 d g0, fld_sub wd 8 _ f 0 g5 (by decide) (by omega)]
  have hfix : wd &&& fnFixed 0xF4 = 0 := by
    show wd &&& ((2 ^ 5 - 1) * 2 ^ 3) = 0
    rw [land_run, show wd / 2 ^ 3 % 2 ^ 5 = 0 from (run_sub wd 8 _ 3 5 g5 (by decide)).trans (by omega)] <;> rfl
  have hres : wd &&& reservedBits wd = reservedValue 0xF4 := by
    rw [reservedBits_at _ h24 (by decide)]
    show wd &&& (((((2 ^ 2 - 1) * 2 ^ 8) ||| ((2 ^ 3 - 1) * 2 ^ 10)) ||| ((2 ^ 1 - 1) * 2 ^ 13)) ||| ((2 ^ 5 - 1) * 2 ^ 14)) = 0x0
    rw [Nat.and_or_distrib_left, Nat.and_or_distrib_left, Nat.and_or_distrib_left, land_run, land_run, land_run, land_run, g4, g3, g2, g1] <;> rfl
  refine ⟨by omega, ?_⟩
  rw [decode_word h24 hf hfix wf.1 hres wf.2.1 (by omega)]; rfl

theorem sleepto (d : BitVec 5) (a : BitVec 5) (e : BitVec 1) (f : BitVec 3) : Statement (Instr.sleepto d a e f) := by
  intro _ wf
  have bf := f.isLt
  generalize hwd : Instr.encodeNat (Instr.sleepto d a e f) = wd
  replace hwd : encSY 0xF5 d.toNat a.toNat e.toNat 0 0 f.toNat = wd := hwd
  obtain ⟨h24, hh, hl, g0, g1, g2, g3, g4, g5⟩ := sy_word hwd d.isLt a.isLt e.isLt (by decide) (by decide) (by omega)
  have hf : fieldsOf wd = some (Sum.inl (Instr.sleepto d a e f)) := by
    rw [fieldsOf_F 5 (by omega) (by omega)]
    show some (Sum.inl (Instr.sleepto (fld wd 19) (fld wd 14) (fld wd 13) (fld wd 0))) = _
    rw [fld_eq wd 19 d g0, fld_eq wd 14 a g1, fld_eq wd 13 e g2, fld_sub wd 8 _ f 0 g5 (by decide) (by omega)]
  have hfix : wd &&& fnFixed 0xF5 = 0 := by
    show wd &&& ((2 ^ 5 - 1) * 2 ^ 3) = 0
    rw [land_run, show wd / 2 ^ 3 % 2 ^ 5 = 0 from (run_sub wd 8 _ 3 5 g5 (by decide)).trans (by omega)] <;> rfl
  have hres : wd &&& reservedBits wd = reservedValue 0xF5 := by
    rw [reservedBits_at _ h24 (by decide)]
    show wd &&& (((2 ^ 2 - 1) * 2 ^ 8) ||| ((2 ^ 3 - 1) * 2 ^ 10)) = 0x0
    rw [Nat.and_or_distrib_left, land_run, land_run, g4, g3] <;> rfl
  refine ⟨by omega, ?_⟩
  rw [decode_word h24 hf hfix wf.1 hres wf.2.1 (by omega)]; rfl

theorem eret : Statement .eret := by
  intro _ wf
  generalize hwd : Instr.encodeNat Instr.eret = wd
  replace hwd : encWI 0x07 0 0 = wd := hwd
  obtain ⟨h24, hh, hl, g0, g1⟩ := wi_word hwd (by decide) (by decide)
  have hf : fieldsOf wd = some (Sum.inl Instr.eret) := by
    rw [fieldsOf_0 7 (by omega) (by omega)]
    show some (Sum.inl Instr.eret) = _
    rfl
  have hfix : wd &&& fnFixed 0x07 = 0 := by
    show wd &&& 0 = 0
    exact Nat.and_zero _
  have hres : wd &&& reservedBits wd = reservedValue 0x07 := by
    rw [reservedBits_at _ h24 (by decide)]
    show wd &&& (((2 ^ 19 - 1) * 2 ^ 0) ||| ((2 ^ 5 - 1) * 2 ^ 19)) = 0x0
    rw [Nat.and_or_distrib_left, land_run, land_run, show wd / 2 ^ 0 % 2 ^ 19 = 0 from (by rw [Nat.pow_zero, Nat.div_one]; exact g1), g0] <;> rfl
  refine ⟨by omega, ?_⟩
  rw [decode_word h24 hf hfix wf.1 hres wf.2.1 (by omega)]; rfl

theorem idle : Statement .idle := by
  intro _ wf
  generalize hwd : Instr.encodeNat Instr.idle = wd
  replace hwd : encWI 0x08 0 0 = wd := hwd
  obtain ⟨h24, hh, hl, g0, g1⟩ := wi_word hwd (by decide) (by decide)
  have hf : fieldsOf wd = some (Sum.inl Instr.idle) := by
    rw [fieldsOf_0 8 (by omega) (by omega)]
    show some (Sum.inl Instr.idle) = _
    rfl
  have hfix : wd &&& fnFixed 0x08 = 0 := by
    show wd &&& 0 = 0
    exact Nat.and_zero _
  have hres : wd &&& reservedBits wd = reservedValue 0x08 := by
    rw [reservedBits_at _ h24 (by decide)]
    show wd &&& (((2 ^ 19 - 1) * 2 ^ 0) ||| ((2 ^ 5 - 1) * 2 ^ 19)) = 0x0
    rw [Nat.and_or_distrib_left, land_run, land_run, show wd / 2 ^ 0 % 2 ^ 19 = 0 from (by rw [Nat.pow_zero, Nat.div_one]; exact g1), g0] <;> rfl
  refine ⟨by omega, ?_⟩
  rw [decode_word h24 hf hfix wf.1 hres wf.2.1 (by omega)]; rfl

theorem fencei : Statement .fencei := by
  intro _ wf
  generalize hwd : Instr.encodeNat Instr.fencei = wd
  replace hwd : encSY 0x0C 0 0 0 0 0 0 = wd := hwd
  obtain ⟨h24, hh, hl, g0, g1, g2, g3, g4, g5⟩ := sy_word hwd (by decide) (by decide) (by decide) (by decide) (by decide) (by decide)
  have hf : fieldsOf wd = some (Sum.inl Instr.fencei) := by
    rw [fieldsOf_0 12 (by omega) (by omega)]
    show some (Sum.inl Instr.fencei) = _
    rfl
  have hfix : wd &&& fnFixed 0x0C = 0 := by
    show wd &&& ((2 ^ 8 - 1) * 2 ^ 0) = 0
    rw [land_run, show wd / 2 ^ 0 % 2 ^ 8 = 0 from (by rw [Nat.pow_zero, Nat.div_one]; exact g5)] <;> rfl
  have hres : wd &&& reservedBits wd = reservedValue 0x0C := by
    rw [reservedBits_at _ h24 (by decide)]
    show wd &&& ((((((2 ^ 2 - 1) * 2 ^ 8) ||| ((2 ^ 3 - 1) * 2 ^ 10)) ||| ((2 ^ 1 - 1) * 2 ^ 13)) ||| ((2 ^ 5 - 1) * 2 ^ 14)) ||| ((2 ^ 5 - 1) * 2 ^ 19)) = 0x0
    rw [Nat.and_or_distrib_left, Nat.and_or_distrib_left, Nat.and_or_distrib_left, Nat.and_or_distrib_left, land_run, land_run, land_run, land_run, land_run, g4, g3, g2, g1, g0] <;> rfl
  refine ⟨by omega, ?_⟩
  rw [decode_word h24 hf hfix wf.1 hres wf.2.1 (by omega)]; rfl

theorem dhalt : Statement .dhalt := by
  intro _ wf
  generalize hwd : Instr.encodeNat Instr.dhalt = wd
  replace hwd : encWI 0x0D 0 0 = wd := hwd
  obtain ⟨h24, hh, hl, g0, g1⟩ := wi_word hwd (by decide) (by decide)
  have hf : fieldsOf wd = some (Sum.inl Instr.dhalt) := by
    rw [fieldsOf_0 13 (by omega) (by omega)]
    show some (Sum.inl Instr.dhalt) = _
    rfl
  have hfix : wd &&& fnFixed 0x0D = 0 := by
    show wd &&& 0 = 0
    exact Nat.and_zero _
  have hres : wd &&& reservedBits wd = reservedValue 0x0D := by
    rw [reservedBits_at _ h24 (by decide)]
    show wd &&& (((2 ^ 19 - 1) * 2 ^ 0) ||| ((2 ^ 5 - 1) * 2 ^ 19)) = 0x0
    rw [Nat.and_or_distrib_left, land_run, land_run, show wd / 2 ^ 0 % 2 ^ 19 = 0 from (by rw [Nat.pow_zero, Nat.div_one]; exact g1), g0] <;> rfl
  refine ⟨by omega, ?_⟩
  rw [decode_word h24 hf hfix wf.1 hres wf.2.1 (by omega)]; rfl

theorem nop : Statement .nop := by
  intro _ wf
  generalize hwd : Instr.encodeNat Instr.nop = wd
  replace hwd : encWI 0x0F 0 0 = wd := hwd
  obtain ⟨h24, hh, hl, g0, g1⟩ := wi_word hwd (by decide) (by decide)
  have hf : fieldsOf wd = some (Sum.inl Instr.nop) := by
    rw [fieldsOf_0 15 (by omega) (by omega)]
    show some (Sum.inl Instr.nop) = _
    rfl
  have hfix : wd &&& fnFixed 0x0F = 0 := by
    show wd &&& 0 = 0
    exact Nat.and_zero _
  have hres : wd &&& reservedBits wd = reservedValue 0x0F := by
    rw [reservedBits_at _ h24 (by decide)]
    show wd &&& (((2 ^ 19 - 1) * 2 ^ 0) ||| ((2 ^ 5 - 1) * 2 ^ 19)) = 0x0
    rw [Nat.and_or_distrib_left, land_run, land_run, show wd / 2 ^ 0 % 2 ^ 19 = 0 from (by rw [Nat.pow_zero, Nat.div_one]; exact g1), g0] <;> rfl
  refine ⟨by omega, ?_⟩
  rw [decode_word h24 hf hfix wf.1 hres wf.2.1 (by omega)]; rfl

theorem lcont : Statement .lcont := by
  intro _ wf
  generalize hwd : Instr.encodeNat Instr.lcont = wd
  replace hwd : encWI 0x5F 0 0 = wd := hwd
  obtain ⟨h24, hh, hl, g0, g1⟩ := wi_word hwd (by decide) (by decide)
  have hf : fieldsOf wd = some (Sum.inl Instr.lcont) := by
    rw [fieldsOf_5 15 (by omega) (by omega)]
    show some (Sum.inl Instr.lcont) = _
    rfl
  have hfix : wd &&& fnFixed 0x5F = 0 := by
    show wd &&& 0 = 0
    exact Nat.and_zero _
  have hres : wd &&& reservedBits wd = reservedValue 0x5F := by
    rw [reservedBits_at _ h24 (by decide)]
    show wd &&& ((2 ^ 5 - 1) * 2 ^ 19) = 0x0
    rw [land_run, g0] <;> rfl
  refine ⟨by omega, ?_⟩
  rw [decode_word h24 hf hfix wf.1 hres wf.2.1 (fun _ => g1)]; rfl

theorem yield : Statement .yield := by
  intro _ wf
  generalize hwd : Instr.encodeNat Instr.yield = wd
  replace hwd : encWI 0xF8 0 0 = wd := hwd
  obtain ⟨h24, hh, hl, g0, g1⟩ := wi_word hwd (by decide) (by decide)
  have hf : fieldsOf wd = some (Sum.inl Instr.yield) := by
    rw [fieldsOf_F 8 (by omega) (by omega)]
    show some (Sum.inl Instr.yield) = _
    rfl
  have hfix : wd &&& fnFixed 0xF8 = 0 := by
    show wd &&& 0 = 0
    exact Nat.and_zero _
  have hres : wd &&& reservedBits wd = reservedValue 0xF8 := by
    rw [reservedBits_at _ h24 (by decide)]
    show wd &&& (((2 ^ 19 - 1) * 2 ^ 0) ||| ((2 ^ 5 - 1) * 2 ^ 19)) = 0x0
    rw [Nat.and_or_distrib_left, land_run, land_run, show wd / 2 ^ 0 % 2 ^ 19 = 0 from (by rw [Nat.pow_zero, Nat.div_one]; exact g1), g0] <;> rfl
  refine ⟨by omega, ?_⟩
  rw [decode_word h24 hf hfix wf.1 hres wf.2.1 (by omega)]; rfl

theorem strend : Statement .strend := by
  intro _ wf
  generalize hwd : Instr.encodeNat Instr.strend = wd
  replace hwd : encWI 0xFA 0 0 = wd := hwd
  obtain ⟨h24, hh, hl, g0, g1⟩ := wi_word hwd (by decide) (by decide)
  have hf : fieldsOf wd = some (Sum.inl Instr.strend) := by
    rw [fieldsOf_F 10 (by omega) (by omega)]
    show some (Sum.inl Instr.strend) = _
    rfl
  have hfix : wd &&& fnFixed 0xFA = 0 := by
    show wd &&& 0 = 0
    exact Nat.and_zero _
  have hres : wd &&& reservedBits wd = reservedValue 0xFA := by
    rw [reservedBits_at _ h24 (by decide)]
    show wd &&& (((2 ^ 19 - 1) * 2 ^ 0) ||| ((2 ^ 5 - 1) * 2 ^ 19)) = 0x0
    rw [Nat.and_or_distrib_left, land_run, land_run, show wd / 2 ^ 0 % 2 ^ 19 = 0 from (by rw [Nat.pow_zero, Nat.div_one]; exact g1), g0] <;> rfl
  refine ⟨by omega, ?_⟩
  rw [decode_word h24 hf hfix wf.1 hres wf.2.1 (by omega)]; rfl

theorem strabt : Statement .strabt := by
  intro _ wf
  generalize hwd : Instr.encodeNat Instr.strabt = wd
  replace hwd : encWI 0xFB 0 0 = wd := hwd
  obtain ⟨h24, hh, hl, g0, g1⟩ := wi_word hwd (by decide) (by decide)
  have hf : fieldsOf wd = some (Sum.inl Instr.strabt) := by
    rw [fieldsOf_F 11 (by omega) (by omega)]
    show some (Sum.inl Instr.strabt) = _
    rfl
  have hfix : wd &&& fnFixed 0xFB = 0 := by
    show wd &&& 0 = 0
    exact Nat.and_zero _
  have hres : wd &&& reservedBits wd = reservedValue 0xFB := by
    rw [reservedBits_at _ h24 (by decide)]
    show wd &&& (((2 ^ 19 - 1) * 2 ^ 0) ||| ((2 ^ 5 - 1) * 2 ^ 19)) = 0x0
    rw [Nat.and_or_distrib_left, land_run, land_run, show wd / 2 ^ 0 % 2 ^ 19 = 0 from (by rw [Nat.pow_zero, Nat.div_one]; exact g1), g0] <;> rfl
  refine ⟨by omega, ?_⟩
  rw [decode_word h24 hf hfix wf.1 hres wf.2.1 (by omega)]; rfl

theorem sleep (a : BitVec 5) (e : BitVec 1) : Statement (Instr.sleep a e) := by
  intro _ wf
  generalize hwd : Instr.encodeNat (Instr.sleep a e) = wd
  replace hwd : encSY 0xF6 0 a.toNat e.toNat 0 0 0 = wd := hwd
  obtain ⟨h24, hh, hl, g0, g1, g2, g3, g4, g5⟩ := sy_word hwd (by decide) a.isLt e.isLt (by decide) (by decide) (by decide)
  have hf : fieldsOf wd = some (Sum.inr (LastRow.sleep a e)) := by
    rw [fieldsOf_F 6 (by omega) (by omega)]
    show some (Sum.inr (LastRow.sleep (fld wd 14) (fld wd 13))) = _
    rw [fld_eq wd 14 a g1, fld_eq wd 13 e g2]
  have hfix : wd &&& fnFixed 0xF6 = 0 := by
    show wd &&& ((2 ^ 8 - 1) * 2 ^ 0) = 0
    rw [land_run, show wd / 2 ^ 0 % 2 ^ 8 = 0 from (by rw [Nat.pow_zero, Nat.div_one]; exact g5)] <;> rfl
  have hres : wd &&& reservedBits wd = reservedValue 0xF6 := by
    rw [reservedBits_at _ h24 (by decide)]
    show wd &&& ((((2 ^ 2 - 1) * 2 ^ 8) ||| ((2 ^ 3 - 1) * 2 ^ 10)) ||| ((2 ^ 5 - 1) * 2 ^ 19)) = 0x0
    rw [Nat.and_or_distrib_left, Nat.and_or_distrib_left, land_run, land_run, land_run, g4, g3, g0] <;> rfl
  refine ⟨by omega, ?_⟩
  rw [decode_last h24 hf hfix rfl hres (by decide)]; rfl

theorem pause (n : BitVec 16) : Statement (Instr.pause n) := by
  intro _ wf
  have bn := n.isLt
  generalize hwd : Instr.encodeNat (Instr.pause n) = wd
  replace hwd : encWI 0xF7 0 n.toNat = wd := hwd
  obtain ⟨h24, hh, hl, g0, g1⟩ := wi_word hwd (by decide) (by omega)
  have hf : fieldsOf wd = some (Sum.inr (LastRow.pause n)) := by
    rw [fieldsOf_F 7 (by omega) (by omega)]
    show some (Sum.inr (LastRow.pause (fld wd 0))) = _
    rw [fld_sub wd 19 _ n 0 g1 (by decide) (by omega)]
  have hfix : wd &&& fnFixed 0xF7 = 0 := by
    show wd &&& 0 = 0
    exact Nat.and_zero _
  have hres : wd &&& reservedBits wd = reservedValue 0xF7 := by
    rw [reservedBits_at _ h24 (by decide)]
    show wd &&& (((2 ^ 3 - 1) * 2 ^ 16) ||| ((2 ^ 5 - 1) * 2 ^ 19)) = 0x0
    rw [Nat.and_or_distrib_left, land_run, land_run, show wd / 2 ^ 16 % 2 ^ 3 = 0 from (run_sub wd 19 _ 16 3 g1 (by decide)).trans (by omega), g0] <;> rfl
  refine ⟨by omega, ?_⟩
  rw [decode_last h24 hf hfix rfl hres (by decide)]; rfl

theorem setvli (d : BitVec 5) (n : BitVec 17) (w : BitVec 2) : Statement (Instr.setvli d n w) := by
  intro _ wf
  have bn := n.isLt
  have bw := w.isLt
  generalize hwd : Instr.encodeNat (Instr.setvli d n w) = wd
  replace hwd : encWI 0xF9 d.toNat (n.toNat * 4 + w.toNat) = wd := hwd
  obtain ⟨h24, hh, hl, g0, g1⟩ := wi_word hwd d.isLt (by omega)
  have hf : fieldsOf wd = some (Sum.inr (LastRow.setvli d n w)) := by
    rw [fieldsOf_F 9 (by omega) (by omega)]
    show some (Sum.inr (LastRow.setvli (fld wd 19) (fld wd 2) (fld wd 0))) = _
    rw [fld_eq wd 19 d g0, fld_sub wd 19 _ n 2 g1 (by decide) (by omega), fld_sub wd 19 _ w 0 g1 (by decide) (by omega)]
  have hfix : wd &&& fnFixed 0xF9 = 0 := by
    show wd &&& 0 = 0
    exact Nat.and_zero _
  have hres : wd &&& reservedBits wd = reservedValue 0xF9 := by
    rw [reservedBits_at _ h24 (by decide)]
    show wd &&& 0 = 0x0
    exact Nat.and_zero _
  refine ⟨by omega, ?_⟩
  rw [decode_last h24 hf hfix rfl hres (by decide)]; rfl

theorem hint (i : BitVec 19) : Statement (Instr.hint i) := by
  intro _ wf
  have bi := i.isLt
  generalize hwd : Instr.encodeNat (Instr.hint i) = wd
  replace hwd : encWI 0xFC 0 i.toNat = wd := hwd
  obtain ⟨h24, hh, hl, g0, g1⟩ := wi_word hwd (by decide) i.isLt
  have hf : fieldsOf wd = some (Sum.inr (LastRow.hint i)) := by
    rw [fieldsOf_F 12 (by omega) (by omega)]
    show some (Sum.inr (LastRow.hint (fld wd 0))) = _
    rw [fld_low wd i g1]
  have hfix : wd &&& fnFixed 0xFC = 0 := by
    show wd &&& 0 = 0
    exact Nat.and_zero _
  have hres : wd &&& reservedBits wd = reservedValue 0xFC := by
    rw [reservedBits_at _ h24 (by decide)]
    show wd &&& ((2 ^ 5 - 1) * 2 ^ 19) = 0x0
    rw [land_run, g0] <;> rfl
  refine ⟨by omega, ?_⟩
  rw [decode_last h24 hf hfix rfl hres (by decide)]; rfl

theorem prchk (d : BitVec 5) (a : BitVec 5) (e : BitVec 1) (f : BitVec 3) : Statement (Instr.prchk d a e f) := by
  intro _ wf
  have bf := f.isLt
  generalize hwd : Instr.encodeNat (Instr.prchk d a e f) = wd
  replace hwd : encSY 0xFD d.toNat a.toNat e.toNat 0 0 f.toNat = wd := hwd
  obtain ⟨h24, hh, hl, g0, g1, g2, g3, g4, g5⟩ := sy_word hwd d.isLt a.isLt e.isLt (by decide) (by decide) (by omega)
  have hf : fieldsOf wd = some (Sum.inr (LastRow.prchk d a e f)) := by
    rw [fieldsOf_F 13 (by omega) (by omega)]
    show some (Sum.inr (LastRow.prchk (fld wd 19) (fld wd 14) (fld wd 13) (fld wd 0))) = _
    rw [fld_eq wd 19 d g0, fld_eq wd 14 a g1, fld_eq wd 13 e g2, fld_sub wd 8 _ f 0 g5 (by decide) (by omega)]
  have hfix : wd &&& fnFixed 0xFD = 0 := by
    show wd &&& ((2 ^ 5 - 1) * 2 ^ 3) = 0
    rw [land_run, show wd / 2 ^ 3 % 2 ^ 5 = 0 from (run_sub wd 8 _ 3 5 g5 (by decide)).trans (by omega)] <;> rfl
  have hres : wd &&& reservedBits wd = reservedValue 0xFD := by
    rw [reservedBits_at _ h24 (by decide)]
    show wd &&& (((2 ^ 2 - 1) * 2 ^ 8) ||| ((2 ^ 3 - 1) * 2 ^ 10)) = 0x0
    rw [Nat.and_or_distrib_left, land_run, land_run, g4, g3] <;> rfl
  refine ⟨by omega, ?_⟩
  rw [decode_last h24 hf hfix wf.1 hres (by decide)]; rfl

theorem brkc (a : BitVec 5) (e : BitVec 1) (i : BitVec 13) : Statement (Instr.brkc a e i) := by
  intro _ wf
  have bi := i.isLt
  generalize hwd : Instr.encodeNat (Instr.brkc a e i) = wd
  replace hwd : encRI 0xFE 0 a.toNat e.toNat i.toNat = wd := hwd
  obtain ⟨h24, hh, hl, g0, g1, g2, g3⟩ := ri_word hwd (by decide) a.isLt e.isLt i.isLt
  have hf : fieldsOf wd = some (Sum.inr (LastRow.brkc a e i)) := by
    rw [fieldsOf_F 14 (by omega) (by omega)]
    show some (Sum.inr (LastRow.brkc (fld wd 14) (fld wd 13) (fld wd 0))) = _
    rw [fld_eq wd 14 a g1, fld_eq wd 13 e g2, fld_low wd i g3]
  have hfix : wd &&& fnFixed 0xFE = 0 := by
    show wd &&& 0 = 0
    exact Nat.and_zero _
  have hres : wd &&& reservedBits wd = reservedValue 0xFE := by
    rw [reservedBits_at _ h24 (by decide)]
    show wd &&& ((2 ^ 5 - 1) * 2 ^ 19) = 0x0
    rw [land_run, g0] <;> rfl
  refine ⟨by omega, ?_⟩
  rw [decode_last h24 hf hfix rfl hres (by decide)]; rfl

theorem brk (i : BitVec 24) : Statement (Instr.brk i) := by
  intro _ wf
  have bi := i.isLt
  generalize hwd : Instr.encodeNat (Instr.brk i) = wd
  replace hwd : encBK 0xFF i.toNat = wd := hwd
  obtain ⟨h24, hh, hl, g0⟩ := bk_word hwd i.isLt
  have hf : fieldsOf wd = some (Sum.inr (LastRow.brk i)) := by
    rw [fieldsOf_F 15 (by omega) (by omega)]
    show some (Sum.inr (LastRow.brk (fld wd 0))) = _
    rw [fld_low wd i g0]
  have hfix : wd &&& fnFixed 0xFF = 0 := by
    show wd &&& 0 = 0
    exact Nat.and_zero _
  have hres : wd &&& reservedBits wd = reservedValue 0xFF := by
    rw [reservedBits_at _ h24 (by decide)]
    show wd &&& 0 = 0x0
    exact Nat.and_zero _
  refine ⟨by omega, ?_⟩
  rw [decode_last h24 hf hfix rfl hres (by decide)]; rfl

theorem stripCommit (k : Agent) : Statement (.stripCommit k) := fun h => nomatch h
theorem rds (k : Nat) (gen : Nat) (line : Nat) (pts : Nat) (lease : Nat) : Statement (.rds k gen line pts lease) := fun h => nomatch h
theorem rnw (k : Nat) (gen : Nat) (line : Nat) (pts : Nat) (lease : Nat) (wts : Nat) (epoch : Nat) : Statement (.rnw k gen line pts lease wts epoch) := fun h => nomatch h
theorem rdo (k : Nat) (gen : Nat) (line : Nat) (pts : Nat) : Statement (.rdo k gen line pts) := fun h => nomatch h
theorem rdr (k : Nat) (gen : Nat) (line : Nat) (pts : Nat) : Statement (.rdr k gen line pts) := fun h => nomatch h
theorem val (k : Nat) (gen : Nat) (line : Nat) (tc : Nat) (wts : Nat) (epoch : Nat) : Statement (.val k gen line tc wts epoch) := fun h => nomatch h
theorem wb (o : Owner) (gen : Nat) (line : Nat) (ver : Nat) (wts : Nat) (rts : Nat) (data : LineData) (mask : LineMask) : Statement (.wb o gen line ver wts rts data mask) := fun h => nomatch h
theorem rel (o : Owner) (gen : Nat) (line : Nat) (ver : Nat) (wts : Nat) (rts : Nat) : Statement (.rel o gen line ver wts rts) := fun h => nomatch h
theorem nh (o : Owner) (gen : Nat) (line : Nat) (ver : Nat) : Statement (.nh o gen line ver) := fun h => nomatch h
theorem ppr (k : Nat) (gen : Nat) (line : Nat) : Statement (.ppr k gen line) := fun h => nomatch h
theorem ppa (k : Nat) (gen : Nat) (line : Nat) (tp : Nat) (bytes : Line) (mask : LineMask) : Statement (.ppa k gen line tp bytes mask) := fun h => nomatch h
theorem data (k : Nat) (line : Nat) (code : Nat) (sectors : Sectors) (wts : Nat) (leaseEnd : Nat) : Statement (.data k line code sectors wts leaseEnd) := fun h => nomatch h
theorem rnok (k : Nat) (line : Nat) (leaseEnd : Nat) : Statement (.rnok k line leaseEnd) := fun h => nomatch h
theorem grant (k : Nat) (line : Nat) (code : Nat) (sectors : Sectors) (wts : Nat) (rts : Nat) (ver : Nat) (forRead : Bool) : Statement (.grant k line code sectors wts rts ver forRead) := fun h => nomatch h
theorem vok (k : Nat) (line : Nat) : Statement (.vok k line) := fun h => nomatch h
theorem vfail (k : Nat) (line : Nat) : Statement (.vfail k line) := fun h => nomatch h
theorem rcl (o : Owner) (line : Nat) (ver : Nat) (mode : RecallMode) : Statement (.rcl o line ver mode) := fun h => nomatch h
theorem idleRuleTick (k : Agent) : Statement (.idleRuleTick k) := fun h => nomatch h
theorem repeatRule (k : Agent) : Statement (.repeatRule k) := fun h => nomatch h
theorem rebase : Statement .rebase := fun h => nomatch h
theorem deadAgent (o : Owner) : Statement (.deadAgent o) := fun h => nomatch h
theorem heatSweep (line : Nat) : Statement (.heatSweep line) := fun h => nomatch h
theorem hostMemrd (port : Nat) (line : Nat) (own : Bool) : Statement (.hostMemrd port line own) := fun h => nomatch h
theorem hostMemwr (port : Nat) (line : Nat) (bytes : Line) (mask : LineMask) : Statement (.hostMemwr port line bytes mask) := fun h => nomatch h
theorem birspi (line : Nat) : Statement (.birspi line) := fun h => nomatch h
theorem biasFlipDone (frame : Nat) : Statement (.biasFlipDone frame) := fun h => nomatch h
theorem peerLoad (src : Nat) (off : Nat) (size : Nat) (tag : Nat) : Statement (.peerLoad src off size tag) := fun h => nomatch h
theorem peerStore (src : Nat) (off : Nat) (size : Nat) (bytes : Line) (tag : Nat) : Statement (.peerStore src off size bytes tag) := fun h => nomatch h
theorem peerAtomic (src : Nat) (off : Nat) (op : BitVec 4) (ty : BitVec 4) (s : DWord) (s2 : DWord) (tag : Nat) : Statement (.peerAtomic src off op ty s s2 tag) := fun h => nomatch h
theorem peerCompletion (done : PeerDone) : Statement (.peerCompletion done) := fun h => nomatch h
theorem hostGlobalObservation (k : Agent) : Statement (.hostGlobalObservation k) := fun h => nomatch h
theorem persistenceFlushDone (k : Agent) : Statement (.persistenceFlushDone k) := fun h => nomatch h
theorem flitReceive (port : Nat) (head : BitVec 64) (slots : BitVec 1920) (crc : BitVec 64) : Statement (.flitReceive port head slots crc) := fun h => nomatch h
theorem portDown (port : Nat) : Statement (.portDown port) := fun h => nomatch h
theorem retrainAttempt (port : Nat) (cleanFlits : Nat) : Statement (.retrainAttempt port cleanFlits) := fun h => nomatch h
theorem retrainSuccess (port : Nat) : Statement (.retrainSuccess port) := fun h => nomatch h
theorem moduleReset (port0 : PortMode) (port1 : PortMode) (boot : BootInput) : Statement (.moduleReset port0 port1 boot) := fun h => nomatch h
theorem accountingInterval (meters : List MeterReading) : Statement (.accountingInterval meters) := fun h => nomatch h
theorem windowBoundary (predicted : List Nat) (cool : Bool) : Statement (.windowBoundary predicted cool) := fun h => nomatch h
theorem clockChange (die : Nat) (step : Nat) : Statement (.clockChange die step) := fun h => nomatch h
theorem thermalTrip : Statement .thermalTrip := fun h => nomatch h
theorem thermalShutdown : Statement .thermalShutdown := fun h => nomatch h
theorem correctedError (r : Region) : Statement (.correctedError r) := fun h => nomatch h
theorem uncorrectableError (r : Region) (lost : Damage) : Statement (.uncorrectableError r lost) := fun h => nomatch h
theorem wayRetireDone (die : Nat) (slice : Nat) : Statement (.wayRetireDone die slice) := fun h => nomatch h
theorem heartbeatMiss (die : Nat) : Statement (.heartbeatMiss die) := fun h => nomatch h
theorem fencedDieReissue (die : Nat) : Statement (.fencedDieReissue die) := fun h => nomatch h
theorem slateFetch (vi : Nat) (q : Nat) : Statement (.slateFetch vi q) := fun h => nomatch h
theorem slateAdmit (vi : Nat) (q : Nat) : Statement (.slateAdmit vi q) := fun h => nomatch h
theorem stageReserve (die : Nat) (slot : Nat) : Statement (.stageReserve die slot) := fun h => nomatch h
theorem bind (die : Nat) (row : Nat) (outer : Nat) (count : Nat) (saved : Nat) : Statement (.bind die row outer count saved) := fun h => nomatch h
theorem dispatchStart (k : Agent) : Statement (.dispatchStart k) := fun h => nomatch h
theorem contextResume (k : Agent) : Statement (.contextResume k) := fun h => nomatch h
theorem slateComplete (slot : Nat) : Statement (.slateComplete slot) := fun h => nomatch h
theorem preemptRequest (k : Agent) : Statement (.preemptRequest k) := fun h => nomatch h
theorem contextSave (k : Agent) : Statement (.contextSave k) := fun h => nomatch h
theorem forcedPreempt (k : Agent) : Statement (.forcedPreempt k) := fun h => nomatch h
theorem tlbpinwaitExpiry (k : Agent) (holder : Agent) : Statement (.tlbpinwaitExpiry k holder) := fun h => nomatch h
theorem tlbinvDone (k : Agent) : Statement (.tlbinvDone k) := fun h => nomatch h
theorem faultBatchPost (vi : Nat) : Statement (.faultBatchPost vi) := fun h => nomatch h
theorem eventPost (ring : RingId) (kind : Nat) (cid : Nat) (detail : Nat) (pc : Nat) : Statement (.eventPost ring kind cid detail pc) := fun h => nomatch h
theorem waitWake (k : Nat) (line : Nat) (t : Nat) : Statement (.waitWake k line t) := fun h => nomatch h
theorem waitDeadline (k : Agent) : Statement (.waitDeadline k) := fun h => nomatch h
theorem waitPoll (k : Agent) : Statement (.waitPoll k) := fun h => nomatch h
theorem sleepWake (k : Agent) : Statement (.sleepWake k) := fun h => nomatch h
theorem sleeptoWake (k : Agent) : Statement (.sleeptoWake k) := fun h => nomatch h
theorem pauseEnd (k : Agent) : Statement (.pauseEnd k) := fun h => nomatch h
theorem pairStart (k : Agent) : Statement (.pairStart k) := fun h => nomatch h
theorem pairwaitExpiry (k : Agent) : Statement (.pairwaitExpiry k) := fun h => nomatch h
theorem matrixChunk (k : Agent) : Statement (.matrixChunk k) := fun h => nomatch h
theorem engineSegmentIssue (c : ChainId) : Statement (.engineSegmentIssue c) := fun h => nomatch h
theorem dollyCopy (c : ChainId) : Statement (.dollyCopy c) := fun h => nomatch h
theorem dollyFill (c : ChainId) : Statement (.dollyFill c) := fun h => nomatch h
theorem dollyCopym (c : ChainId) : Statement (.dollyCopym c) := fun h => nomatch h
theorem followOnMatrix (c : ChainId) : Statement (.followOnMatrix c) := fun h => nomatch h
theorem castDispatch (c : ChainId) : Statement (.castDispatch c) := fun h => nomatch h
theorem mixCombine (c : ChainId) : Statement (.mixCombine c) := fun h => nomatch h
theorem collPut (c : ChainId) : Statement (.collPut c) := fun h => nomatch h
theorem collReduce (c : ChainId) : Statement (.collReduce c) := fun h => nomatch h
theorem collSignal (c : ChainId) : Statement (.collSignal c) := fun h => nomatch h
theorem dailiesDelta (c : ChainId) : Statement (.dailiesDelta c) := fun h => nomatch h
theorem engineFault (c : ChainId) (cause : Nat) (vaPage : Nat) (access : Nat) (detail : Nat) : Statement (.engineFault c cause vaPage access detail) := fun h => nomatch h
theorem commandComplete (c : ChainId) : Statement (.commandComplete c) := fun h => nomatch h
theorem modbudgetWrite (value : DWord) : Statement (.modbudgetWrite value) := fun h => nomatch h
theorem errorWindowWrite (value : DWord) : Statement (.errorWindowWrite value) := fun h => nomatch h
theorem fwcmdInstall (value : DWord) : Statement (.fwcmdInstall value) := fun h => nomatch h
theorem fwUpdateDone (result : Nat) : Statement (.fwUpdateDone result) := fun h => nomatch h
theorem reccmdRecovery (value : DWord) : Statement (.reccmdRecovery value) := fun h => nomatch h
theorem recoveryDone (result : Nat) : Statement (.recoveryDone result) := fun h => nomatch h
theorem attcmdRequest (who : RingId) (value : DWord) : Statement (.attcmdRequest who value) := fun h => nomatch h
theorem attestationSigned : Statement .attestationSigned := fun h => nomatch h
theorem owncmdWrite (value : DWord) : Statement (.owncmdWrite value) := fun h => nomatch h
theorem owncmdDone : Statement .owncmdDone := fun h => nomatch h
theorem victlEnable (vi : Nat) : Statement (.victlEnable vi) := fun h => nomatch h
theorem victlDisable (vi : Nat) : Statement (.victlDisable vi) := fun h => nomatch h
theorem victlDisableDone (vi : Nat) : Statement (.victlDisableDone vi) := fun h => nomatch h
theorem hostRangeWrite (vi : Nat) (k : Nat) (isSize : Bool) (value : DWord) : Statement (.hostRangeWrite vi k isSize value) := fun h => nomatch h
theorem viticketsWrite (vi : Nat) (value : DWord) : Statement (.viticketsWrite vi value) := fun h => nomatch h
theorem ctxcmdCreate (vi : Nat) : Statement (.ctxcmdCreate vi) := fun h => nomatch h
theorem ctxcmdDestroy (vi : Nat) (cid : Nat) : Statement (.ctxcmdDestroy vi cid) := fun h => nomatch h
theorem ctxprivWrite (value : DWord) : Statement (.ctxprivWrite value) := fun h => nomatch h
theorem queueEnable (vi : Nat) (q : Nat) : Statement (.queueEnable vi q) := fun h => nomatch h
theorem queueDisable (vi : Nat) (q : Nat) : Statement (.queueDisable vi q) := fun h => nomatch h
theorem queueTicketsWrite (vi : Nat) (q : Nat) (tickets : Nat) : Statement (.queueTicketsWrite vi q tickets) := fun h => nomatch h
theorem qtailWrite (vi : Nat) (q : Nat) (value : DWord) : Statement (.qtailWrite vi q value) := fun h => nomatch h
theorem fqbaseWrite (vi : Nat) (value : DWord) : Statement (.fqbaseWrite vi value) := fun h => nomatch h
theorem fqsizeWrite (vi : Nat) (value : DWord) : Statement (.fqsizeWrite vi value) := fun h => nomatch h
theorem fqheadWrite (vi : Nat) (value : DWord) : Statement (.fqheadWrite vi value) := fun h => nomatch h
theorem fqreplayRetry (vi : Nat) (tag : Nat) : Statement (.fqreplayRetry vi tag) := fun h => nomatch h
theorem fqreplayAbandon (vi : Nat) (tag : Nat) : Statement (.fqreplayAbandon vi tag) := fun h => nomatch h
theorem fqreplayReserved (vi : Nat) (value : DWord) : Statement (.fqreplayReserved vi value) := fun h => nomatch h
theorem cbcmdConvert (vi : Nat) (index : Nat) : Statement (.cbcmdConvert vi index) := fun h => nomatch h
theorem cbcmdRelease (vi : Nat) (index : Nat) : Statement (.cbcmdRelease vi index) := fun h => nomatch h
theorem cbcmdGrant (vi : Nat) (index : Nat) : Statement (.cbcmdGrant vi index) := fun h => nomatch h
theorem cbcmdNone (vi : Nat) : Statement (.cbcmdNone vi) := fun h => nomatch h
theorem cstataddrWrite (vi : Nat) (value : DWord) : Statement (.cstataddrWrite vi value) := fun h => nomatch h
theorem dbgcmdHalt (vi : Nat) : Statement (.dbgcmdHalt vi) := fun h => nomatch h
theorem dbgcmdRun (vi : Nat) : Statement (.dbgcmdRun vi) := fun h => nomatch h
theorem dbgcmdStep (vi : Nat) : Statement (.dbgcmdStep vi) := fun h => nomatch h
theorem dbgcmdStepGroup (vi : Nat) : Statement (.dbgcmdStepGroup vi) := fun h => nomatch h
theorem dbgcmdDump (vi : Nat) : Statement (.dbgcmdDump vi) := fun h => nomatch h
theorem linkctlRetrain (ports : BitVec 12) : Statement (.linkctlRetrain ports) := fun h => nomatch h
theorem tlbpinwaitWrite (value : DWord) : Statement (.tlbpinwaitWrite value) := fun h => nomatch h
theorem preemptdlWrite (value : DWord) : Statement (.preemptdlWrite value) := fun h => nomatch h
theorem heatctlWrite (value : DWord) : Statement (.heatctlWrite value) := fun h => nomatch h
theorem staledropRead (die : Nat) : Statement (.staledropRead die) := fun h => nomatch h
theorem phovlRead (die : Nat) : Statement (.phovlRead die) := fun h => nomatch h
theorem renewdRead (die : Nat) : Statement (.renewdRead die) := fun h => nomatch h
theorem renewfRead (die : Nat) : Statement (.renewfRead die) := fun h => nomatch h
theorem expevictRead (die : Nat) : Statement (.expevictRead die) := fun h => nomatch h
theorem exprecallRead (die : Nat) : Statement (.exprecallRead die) := fun h => nomatch h
theorem incompRead (die : Nat) : Statement (.incompRead die) := fun h => nomatch h
theorem poolexpRead (die : Nat) : Statement (.poolexpRead die) := fun h => nomatch h
theorem mdhitRead (die : Nat) : Statement (.mdhitRead die) := fun h => nomatch h
theorem mdmissRead (die : Nat) : Statement (.mdmissRead die) := fun h => nomatch h
theorem mdueRead (die : Nat) : Statement (.mdueRead die) := fun h => nomatch h
theorem mdleakRead (die : Nat) : Statement (.mdleakRead die) := fun h => nomatch h
theorem fqstatRead (vi : Nat) : Statement (.fqstatRead vi) := fun h => nomatch h
theorem owncmdRead : Statement .owncmdRead := fun h => nomatch h
theorem registerWrite (win : RingId) (offset : Nat) (value : DWord) : Statement (.registerWrite win offset value) := fun h => nomatch h
theorem stageBankOperation (op : StageOp) : Statement (.stageBankOperation op) := fun h => nomatch h
theorem stageAnswer (k : Nat) (bt : Nat) (result : Option DWord) : Statement (.stageAnswer k bt result) := fun h => nomatch h
theorem longLatencyResult (k : Agent) (r : RegRef) (value : Nat) : Statement (.longLatencyResult k r value) := fun h => nomatch h
theorem peerDataReturn (k : Agent) (value : DWord) (cause : Nat) : Statement (.peerDataReturn k value cause) := fun h => nomatch h
theorem hostReadCompletion (line : Nat) (bytes : Line) : Statement (.hostReadCompletion line bytes) := fun h => nomatch h
theorem phaseReserveReply (k : Nat) (line : Nat) (rts : Nat) : Statement (.phaseReserveReply k line rts) := fun h => nomatch h
theorem bisnpdatablkAnswer (line : Nat) (dirty : Option (Line × LineMask)) : Statement (.bisnpdatablkAnswer line dirty) := fun h => nomatch h
theorem ctxcmdDone (vi : Nat) : Statement (.ctxcmdDone vi) := fun h => nomatch h
theorem cbcmdDone (vi : Nat) : Statement (.cbcmdDone vi) := fun h => nomatch h
theorem hostRangeInvalidateDone (vi : Nat) : Statement (.hostRangeInvalidateDone vi) := fun h => nomatch h
end Sys2Proof.Laws.RoundTrip
end

