-- ==== Sys2Proof/Tests/Slice0.lean ====
section
/-!
SUPPORT. The tests of the model's author: ill-formed terms that WellFormed refuses, words of every row of the opcode table,
the spec's worked examples, and for each clause of Obligations.lean a state and operands that meet its hypotheses together
(wit_<statement>_<clause>).
-/
namespace Sys2Proof.Tests

open Sys2Proof.Machine Sys2Proof.Claims

set_option linter.unusedVariables false
set_option Elab.async false

/-- Sequencer 5 runs with the registers `q`. -/
def sq (q : Seq) : State := { State.reset with cur := 5, seqs := [(5, q)] }

/-- A sequencer that handles its traps, with g[4] = 0x7088 and g[5] = 7. -/
def hq : Seq := (({ n := { tvec := 0x40, stage := 1024, stgbase := 128 }, pts := 10 } : Seq).gSet 4 0x7088).gSet 5 7

def hs : State := sq hq

/-- Page 7 of context (3, 1): the plain page at 0x5000, of one entry of the translation buffer. -/
def leaf7 : Leaf := { entry := 0x100000, level := 0, base := 0x5000, w0 := 0x506F, w1 := 0 }

def bq : Seq :=
  { hq with bound := some { slot := 0, vi := 3, cid := 1, q := 0, number := 1, outer := 0, first := 0, count := 1, saveSlot := 0 } }

def line7 : Nat := 0x5000 / 128 + 1

def copy7 : Copy Nat := { data := 0x0123456789ABCDEF, wts := 4, rts := 20, own := true }

/-- A copy and a home's line as they are stored in a state whose timebase is 0 and that has not been rebased. -/
def kept (p : Copy Nat) : Copy (BitVec 24) := p.store State.reset

def tag (h : HomeLine Nat) : HomeLine (BitVec 24) := h.store State.reset

/-- The line of 0x7080 is owned by core 0. -/
def ws (q : Seq) : State :=
  { sq q with owners := [(5, 0x83)], copies := [(copyKey 0 line7, kept copy7)], coreTlb := [(0, [{ vi := 3, cid := 1, vpage := 7, log := 12, leaf := leaf7 }])] }

/-- The state that an outcome, or a part of one, answers. -/
def out (o : Out) : State := match o with
  | .next t => t
  | _ => State.reset

theorem next_out {o : Out} (h : (match o with | .next _ => true | _ => false) = true) : o = .next (out o) := by
  cases o <;> simp_all [out]

def okVal {α : Type} (d : α) (r : Res α) : α := match r with
  | .ok v _ => v
  | _ => d

def okState {α : Type} (r : Res α) : State := match r with
  | .ok _ s => s
  | _ => State.reset

theorem ok_out {α : Type} {d : α} {r : Res α} (h : (match r with | .ok _ _ => true | _ => false) = true) :
    r = .ok (okVal d r) (okState r) := by
  cases r <;> simp_all [okVal, okState]

theorem ok_is {α : Type} [DecidableEq α] {w : α} {r : Res α} (h : (match r with | .ok v _ => decide (v = w) | _ => false) = true) :
    r = .ok w (okState r) := by
  cases r <;> simp_all [okState]

theorem some_out {α : Type} {o : Option α} (h : o.isSome = true) : o = some (o.get h) := by simp

def narrow : State := sq { hq with c := { hq.c with nvlog := 2 } }

def emptyG4 : State := sq (hq.setFull (.g 4) false)

def limited : State := sq { hq with c := { hq.c with slim := 100 } }

def looped : State := sq { hq with loops := List.replicate 5 { start := 8, len := 1, index := 0, count := 2 } }

def ckpt : Ckpt := { pc := 0, g := Vector.replicate 32 0, gfull := 0, p := Vector.replicate 8 0, pfull := 0, loops := [], c := {} }

def stripped : State := ws { bq with strip := some { ckpt := ckpt } }

def atLine : State := ws { bq with pc := 0x70FC }

/-- Eight vector registers, VL 4 of 32 bits, all tiles held. -/
def vq : Seq :=
  let q := (hq.gSet 6 127).gSet 7 96
  { q with c := { q.c with nvlog := 3, vl := 4 }, n := { q.n with claim := 0xFF } }

def vs : State := sq vq

def vbq : Seq := { bq with c := vq.c }

def hqAt (o : DWord) : Seq := hq.gSet 4 o

def answered : State := sq { hqAt 1016 with note := some { value := some 9 } }

def stageStrip : State := sq { hqAt 1016 with strip := some { ckpt := ckpt } }

def stageWaits : State := sq { hq with note := some {}, wait := .stage }

def handling : State := sq { hq with n := { hq.n with intrap := true } }

/-- A bound sequencer with no handler. -/
def orphan : State :=
  { ws { bq with n := {} } with
    vis := [(3, { en := true, ctxs := [(1, { root := 0, slots := 1, maxTiles := 0, frames := [] })], queues := [(0, { ctx := 1 })] })] }

theorem inOneLine_of {o : VMemOp} {q : Seq} {l : Nat} (h : l % 128 = 0)
    (h' : ((fieldsNow o q).all fun x => (fieldPlace o q x.1 x.2).all fun a =>
      decide (a % (typeBits o.acc.t / 8) = 0) && decide (a / 128 = l / 128)) = true) : InOneLine o q l := by
  refine ⟨h, fun x hx a ha => ?_⟩
  have := (List.all_eq_true.mp h') x hx
  rw [ha] at this
  simpa using this

/-- The checks of `LineOwned`, as one Bool. -/
def ownedB (s : State) (va : Nat) (kind : Access) (l : Leaf) (p : Copy Nat) : Bool :=
  let cached (va : Nat) : Bool := decide (va < 2 ^ 57) && decide (coreLookup (seqAccessor s.cur s) va s = some l) &&
    decide (checkLeaf (seqAccessor s.cur s) va kind l s = none) && l.acc && l.dirty
  cached va && cached (va / 4096 * 4096) && !l.mv && !l.ph && !l.ns &&
    decide (tierOf (l.pa va) = .hbm ∨ tierOf (l.pa va) = .lpddr) && decide (s.copy (s.cur / 32) (l.pa va / 128) = some p) &&
    !p.poison && !commitLocked s.cur (l.pa va / 128) s && p.own && !p.forRead && (holders (s.cur / 32) (l.pa va / 128) s).isEmpty

def storableB (s : State) (t : Nat) : Bool := decide (t + idleSteps s + 65536 < s.tbase + 2 ^ 23)

theorem storable_of {s : State} {t : Nat} (h : storableB s t = true) : StorableAfter s t := by
  unfold StorableAfter Storable
  exact of_decide_eq_true h

theorem lineOwned_of {s : State} {va : Nat} {kind : Access} {l : Leaf} {p : Copy Nat} (h : ownedB s va kind l p = true) :
    LineOwned s va kind l p := by
  simp only [ownedB, Bool.and_eq_true, decide_eq_true_eq, Bool.not_eq_true', List.isEmpty_iff] at h
  obtain ⟨⟨⟨⟨⟨⟨⟨⟨⟨⟨⟨⟨⟨⟨⟨h1, h2⟩, h3⟩, h4⟩, h5⟩, ⟨⟨⟨h6, h7⟩, h8⟩, h9⟩, h10⟩, h11⟩, h12⟩, h13⟩, h14⟩, h15⟩, h16⟩, h17⟩, h18⟩, h19⟩, h20⟩ := h
  exact ⟨⟨⟨h1, h2, h3, h4, fun _ _ => h5⟩, ⟨h6, h7, h8, h9, fun _ _ => h10⟩, ⟨h11, h12, h13⟩, h14, h15, h16, h17⟩, h18, h19, h20⟩

theorem owned_of {s : State} {b n : Nat} {kind : Access} {l : Leaf} {p : Copy Nat} (hb : b % 128 + n ≤ 128)
    (hl : (decide (l.base % 4096 = 0) && storableB s s.me.pts && storableB s (max p.wts p.rts)) = true)
    (h : ((List.range n).all fun i => ownedB s (b + i) kind l p) = true) :
    BytesOwned s (spanning b n) kind (fun _ => l) (fun _ => p) := by
  simp only [Bool.and_eq_true, decide_eq_true_eq] at hl
  refine ⟨storable_of hl.1.2, fun va hv => ⟨?_, hl.1.1, storable_of hl.2⟩, fun va w hv hw _ => ?_⟩
  · obtain ⟨h1, h2⟩ := hv
    have := (List.all_eq_true.mp h) (va - b) (List.mem_range.mpr (by omega))
    rw [Nat.add_sub_cancel' h1] at this
    exact lineOwned_of this
  · obtain ⟨h1, h2⟩ := hv
    obtain ⟨h3, h4⟩ := hw
    omega

/-- Two elements of 32 bits, at the start of the line at 0x7080. -/
def spillQ : Seq := { (bq.gSet 4 0x7080) with c := { vq.c with vl := 2 } }

def filled (h : Nat) : State :=
  { ws spillQ with copies := [(copyKey 0 line7, kept { copy7 with data := BitVec.ofNat 1024 h })] }

def filledCopy (h : Nat) : Copy Nat := { copy7 with data := BitVec.ofNat 1024 h }

/-- Core 0's operand latch is filled, for interface 0. -/
def latch0 : Latch := { lv := true, ltype := 8, lk := 4, lm := 127, rows := List.replicate 127 0 }

def unitOf (l : Latch) (vi : Nat) : AMap LatchUnit := [(0, { latch := l, holder := some 5, vi := vi })]

/-! ### Matrix work -/

def mopQ : Seq := { (vq.gSet 8 3).gSet 9 32 with n := { vq.n with stage := 4224 } }

def mopS (l : Latch) : State := { sq mopQ with latches := unitOf l 128 }

def mopLong : State := mopS { latch0 with lk := 33 }

def mop8 (form : Nat) : Mop := { form := form, d := 7, t := 8, geo := 0, band := false, ga := 0, gb := 3 }

def running (form : Nat) (w : Wait) : Seq := { mopQ with mop := some (mop8 form), wait := w }

def mopRuns : State := { sq (running 0 .matrix) with matrix := [(0, [.seq 5])] }

def paired : State :=
  { sq {} with seqs := [(5, running 2 (.pair 0)), (37, running 2 (.pair 9))], matrix := [(0, [.seq 5]), (1, [.seq 37])] }

def unpaired : State := { sq (running 2 (.pair 0)) with matrix := [(0, [.seq 5])], cycle := 65536 }

theorem run_ne_pair {w : Wait} (h : w = .run) (n : Nat) : w ≠ .pair n := by
  intro h'; rw [h] at h'; cases h'

/-! ### A page of 2 MiB whose first 513 lines core 0 owns, for tile and latch images -/

def bigLeaf : Leaf := { entry := 0x100000, level := 1, base := 0x400000, w0 := 0x40006F, w1 := 0 }

def bigCopy (d : Nat) : Copy Nat := { copy7 with data := BitVec.ofNat 1024 d }

@[irreducible] def bigCopies (p : Copy Nat) : AMap (Copy (BitVec 24)) := (List.range 513).map fun i => (copyKey 0 (0x8000 + i), kept p)

def bigQ : Seq :=
  { ((bq.gSet 4 0x200000).gSet 5 0x7F00000000) with c := { vq.c with vstart := 127 }, n := vq.n }

def big (d : Nat) : State :=
  { sq bigQ with
    owners := (List.range 17).map fun i => (0x400 + i, 0x83), coreTlb := [(0, [{ vi := 3, cid := 1, vpage := 1, log := 21, leaf := bigLeaf }])],
    copies := bigCopies (bigCopy d), latches := unitOf latch0 3 }

theorem checkLeaf_frame {a : Accessor} {va w : Nat} {kind : Access} {l : Leaf} {s : State} (hm : l.mv = false)
    (ht : tierOf (l.pa va) = .hbm) (hw : tierOf (l.pa w) = .hbm) (hf : frameOf (l.pa va) = frameOf (l.pa w)) :
    checkLeaf a va kind l s = checkLeaf a w kind l s := by
  simp only [checkLeaf, hm, frameOk, ht, hw, hf]
  simp

theorem big_lookup {d va : Nat} (h : va / 2 ^ 21 = 1) : coreLookup (seqAccessor 5 (big d)) va (big d) = some bigLeaf := by
  have hc : ({ vi := 3, cid := 1, vpage := 1, log := 21, leaf := bigLeaf } : TlbEntry).covers 3 1 va = true := by
    simp only [TlbEntry.covers, h, decide_true, Bool.and_self]
  show (match [({ vi := 3, cid := 1, vpage := 1, log := 21, leaf := bigLeaf } : TlbEntry)].find? (fun e => e.covers 3 1 va) with
    | some e => some e.leaf
    | none => _) = _
  simp only [List.find?_cons, hc]

theorem big_pa {va : Nat} (h1 : 0x200000 ≤ va) (h2 : va < 0x210040) : bigLeaf.pa va = 0x200000 + va := by
  show 0x400000 + va % 2 ^ 21 = _
  omega

theorem big_cached {d va : Nat} {kind : Access} (hk : ((List.range 17).all fun i =>
      decide (checkLeaf (seqAccessor 5 (big d)) (0x200000 + 4096 * i) kind bigLeaf (big d) = none)) = true)
    (h1 : 0x200000 ≤ va) (h2 : va < 0x210040) : Cached (big d) va kind true bigLeaf := by
  have hbm {w : Nat} (h1 : 0x200000 ≤ w) (h2 : w < 0x210040) : tierOf (bigLeaf.pa w) = .hbm := by
    rw [big_pa h1 h2, tierOf, if_pos (by omega)]
  have := (List.all_eq_true.mp hk) (va / 4096 - 512) (List.mem_range.mpr (by omega))
  refine ⟨by omega, big_lookup (by omega), ?_, by decide +kernel, fun _ _ => by decide +kernel⟩
  rw [show (big d).cur = 5 from rfl,
    checkLeaf_frame (w := 0x200000 + 4096 * (va / 4096 - 512)) (by decide +kernel) (hbm h1 h2) (hbm (by omega) (by omega))
      (by rw [big_pa h1 h2, big_pa (by omega) (by omega)]; unfold frameOf; omega)]
  exact of_decide_eq_true this

theorem find_const {α : Type} {v : α} {k : Nat} : {m : AMap α} → (∀ e ∈ m, e.2 = v) → (∃ e ∈ m, e.1 = k) → m.find k = some v
  | [], _, h => by simp at h
  | e :: es, hv, h => by
    unfold AMap.find
    by_cases hk : e.1 = k
    · simp [hk, hv e (List.mem_cons_self ..)]
    · simp only [hk, if_false]
      exact find_const (fun x hx => hv x (List.mem_cons_of_mem _ hx)) (by
        obtain ⟨x, hx, he⟩ := h
        cases hx with
        | head => exact absurd he hk
        | tail _ hx => exact ⟨x, hx, he⟩)

theorem bigCopies_find {p : Copy Nat} {x : Nat} (h1 : 0x8000 ≤ x) (h2 : x < 0x8201) : (bigCopies p).find (copyKey 0 x) = some (kept p) := by
  unfold bigCopies
  generalize hn : (513 : Nat) = n
  refine find_const (fun e he => ?_) ⟨(copyKey 0 x, kept p), ?_, rfl⟩
  · obtain ⟨i, _, rfl⟩ := List.mem_map.mp he
    rfl
  · exact List.mem_map.mpr ⟨x - 0x8000, List.mem_range.mpr (by omega), by rw [Nat.add_sub_cancel' h1]⟩

theorem big_copies {d x : Nat} (h1 : 0x8000 ≤ x) (h2 : x < 0x8201) : (big d).copy 0 x = some (bigCopy d) := by
  unfold State.copy
  rw [show (big d).copies = bigCopies (bigCopy d) from rfl]
  rw [bigCopies_find h1 h2]
  rfl

theorem big_free {d c x : Nat} : holders c x (big d) = [] := by
  show List.map Prod.fst (List.filter (fun e : Nat × Seq => decide (clusterOfSeq e.1 = c) && e.2.holds.contains x) [(5, bigQ)]) = []
  rw [List.filter_cons_of_neg (by rw [show bigQ.holds = [] by decide +kernel]; simp)]
  rfl

theorem big_storable {d t : Nat} (h : t < 100) : storableB (big d) t = true := by
  unfold storableB idleSteps
  rw [show (big d).cycle = 0 from rfl, show (big d).tbase = 0 from rfl, Nat.zero_sub, Nat.zero_div]
  exact decide_eq_true (by omega)

theorem big_owned {d : Nat} {kind : Access} {D : Nat → Prop} (hD : ∀ va, D va → 0x200000 ≤ va ∧ va < 0x210040)
    (hk : ((List.range 17).all fun i =>
      decide (checkLeaf (seqAccessor 5 (big d)) (0x200000 + 4096 * i) kind bigLeaf (big d) = none)) = true) :
    BytesOwned (big d) D kind (fun _ => bigLeaf) (fun _ => bigCopy d) := by
  refine ⟨storable_of (big_storable (by decide) : storableB (big d) 10 = true),
    fun va hv => ⟨?_, (by decide +kernel : bigLeaf.base % 4096 = 0), storable_of (big_storable (by decide) : storableB (big d) 20 = true)⟩,
    fun va w hv hw h => ?_⟩
  · obtain ⟨h1, h2⟩ := hD va hv
    show LineOwned (big d) va kind bigLeaf (bigCopy d)
    have hp := big_pa h1 h2
    refine ⟨⟨big_cached hk h1 h2, big_cached hk (by omega) (by omega), by unfold Leaf.Plain; decide +kernel,
      .inl (by rw [hp, tierOf, if_pos (by omega)]), ?_, rfl, ?_⟩, rfl, rfl, big_free⟩
    · rw [hp, show (big d).cur / 32 = 0 from Nat.div_eq_of_lt (by show 5 < 32; omega)]
      exact big_copies (by omega) (by omega)
    · unfold commitLocked
      rw [big_free]
      rfl
  · have h : bigLeaf.pa va / 128 = bigLeaf.pa w / 128 := h
    rw [big_pa (hD va hv).1 (hD va hv).2, big_pa (hD w hw).1 (hD w hw).2] at h
    omega

theorem low_of {p : Nat → Bool} (h : ((List.range 64).all p) = true) (i : Nat) (hi : i < 64) : p i = true :=
  (List.all_eq_true.mp h) i (List.mem_range.mpr hi)

theorem rows_big {n : Nat} (h : n ≤ 512) (va : Nat) (hv : rowBytes 0x200000 512 127 128 n va) : 0x200000 ≤ va ∧ va < 0x210040 := by
  obtain ⟨r, h1, h2, h3, h4⟩ := hv
  omega

theorem span_big (va : Nat) (hv : spanning 0x200000 65600 va) : 0x200000 ≤ va ∧ va < 0x210040 := by
  obtain ⟨h1, h2⟩ := hv
  omega

theorem replicate_lt {n x : Nat} (h : 0 < x) (i : Nat) : (List.replicate n (0 : Bits)).getD i 0 < x := by
  rw [List.getD_eq_getElem?_getD, List.getElem?_replicate]
  split
  · exact h
  · exact h

/-! ### Atomics and waits -/

def homed (q : Seq) (o : Option Owner) : State := { ws q with homes := [(line7, tag { data := 5, wts := 0, rts := 0, own := o })] }

def keyedS : State := sq (vq.gSet 8 (4 * 2 ^ 32 + 896))

/-- The line of 0x7080 is at its home and no core has a copy. -/
def home7 : HomeLine Nat := { data := 0x0123456789ABCDEF, wts := 4, rts := 20 }

def atHome (q : Seq) : State := { ws q with copies := [], homes := [(line7, tag home7)] }

def vwaitQ : Seq := { (vbq.vSet 6 0x7080) with c := { vbq.c with sew := 3, vl := 1 } }

def parked : State :=
  { sq { hq with wait := .park { lines := [3, 7], poll := true, since := 0, deadline := some 1024 }, note := some { parked := [3, 7] } } with
    cycle := 1024 }

def barrierNote : State := sq { hqAt 1008 with note := some { value := some 9 } }

def rlxStrip : State := sq { hqAt 1008 with strip := some { ckpt := ckpt } }

def buf40 : BufEntry := { loc := .line 40, bytes := 5, mask := 1, leaf := 0, page := 0x1000, first := 0, count := 1 }

def phased (n : Option Note) : State := sq { hq with phase := [buf40, { buf40 with loc := .line 41 }], note := n }

def publishing (n : Nat) : State :=
  sq { hq with phase := [buf40, { buf40 with loc := .line 41 }].take n, wait := .publish, note := some { step := 1 } }

/-! ### Mattes, plates, system instructions, contexts -/

def framesOf (fs : List Nat) : AMap Nat := fs.map fun f => (f, 0x83)

/-- The page at 0x7000 is a matte: record 3 of the table at 0x200000. -/
def matteLeaf : Leaf := { leaf7 with w1 := 0x1000003 }

/-- A record that masks one line with a slot. -/
def recordOf (i slot : Nat) : Line := BitVec.ofNat 1024 (2 ^ i + slot * 2 ^ (8 * (16 + 3 * i)) + 2 ^ 32 + 5 * 2 ^ 64)

def anchorOf (n : Nat) : Line := BitVec.ofNat 1024 (0x200000 + 10 * 2 ^ 64 + 0x210000 * 2 ^ 128 + n * 2 ^ 192)

def poolLine : Line := BitVec.ofNat 1024 (40 + 5 * 2 ^ 32 + 1 * 2 ^ 64)

def poolFrames : Line := BitVec.ofNat 1024 (0x220000 + 0x230000 * 2 ^ 64 + 0x240000 * 2 ^ 128)

def homeOf (d : Line) : HomeLine Nat := { data := d, code := 3, wts := 5, rts := 50 }

def ctx1 : Ctx := { root := 0x100000, slots := 1, maxTiles := 1, frames := [] }

def matteS (q : Seq) (r anchor : Line) (more : AMap (HomeLine Nat)) : State :=
  { sq q with
    owners := framesOf [5, 0x100, 0x102, 0x200, 0x210, 0x220, 0x230, 0x240, 0x250, 0x260, 0x261, 0x262, 0x264, 0x266],
    vis := [(3, { en := true, ctxs := [(1, ctx1)], pltbase := 0x250000, pltsize := 8 })],
    coreTlb := [(0, [{ vi := 3, cid := 1, vpage := 7, log := 12, leaf := matteLeaf }])],
    homes := more.foldl (fun m e => AMap.set m e.1 (tag e.2)) [(0x102000 / 128, tag (homeOf anchor)), (0x102080 / 128, tag (homeOf poolLine)),
      (0x200180 / 128, tag (homeOf r)), (0x210000 / 128, tag (homeOf poolFrames))] }

/-- Line 5 of the page is masked with slot 34. -/
def printS (n : Option Note) : State :=
  matteS { bq with note := n } (recordOf 5 34) (anchorOf 3) [(0x5280 / 128, homeOf 77), (0x230100 / 128, homeOf 0x123456)]

def privQ : Seq := { (bq.gSet 7 0x261000) with n := { bq.n with priv := true } }

def queryCopy : Copy Nat := { copy7 with data := BitVec.ofNat 1024 (0x1000000000506F + 2 ^ 64 * 0x1000005) }

def queryS : State := { ws bq with copies := [(copyKey 0 0x2000, kept queryCopy)] }

/-- Tables that map 0x7000 through plate 0 and hold an invalid entry for 0x109000. -/
def tables : Memory :=
  [(0x100000, 0x1), (0x100002, 0x26), (0x260000, 0x1), (0x260001, 0x20), (0x260002, 0x26), (0x262000, 0x1), (0x262001,
    0x40), (0x262002, 0x26), (0x264000, 0x1), (0x264001, 0x60), (0x264002, 0x26), (0x266070, 0x27), (0x266071, 0x50),
    (0x266076, 0x10), (0x26607D, 0x1), (0x267090, 0x4A), (0x267091, 0x90), (0x267092, 0x99), (0x267098, 0x7), (0x26709B,
    0x1)]

/-- Entries 0 and 1 of the plate table, each with K 7. -/
def plates : HomeLine Nat := homeOf (BitVec.ofNat 1024 ((0x5 + 2 ^ 40 + 7 * 2 ^ 64) * (1 + 2 ^ 128)))

def plateS (q : Seq) (more : AMap (HomeLine Nat)) : State :=
  let s := matteS q 0 (anchorOf 3) ((0x267090 / 128, homeOf (tables.line (0x267090 / 128))) :: (0x250000 / 128, plates) :: more)
  { s with mem := tables, owners := s.owners ++ [(0x267, 0x83)] }

def pteGet (r : Res (Faulty (Option Pte))) : Pte := match r with
  | .ok (.ok (some x)) _ => x
  | _ => { entry := 0, w0 := 0, w1 := 0 }

theorem pte_out {r : Res (Faulty (Option Pte))} (h : (match r with | .ok (.ok (some _)) _ => true | _ => false) = true) :
    r = .ok (.ok (some (pteGet r))) (okState r) := by
  revert h
  split <;> simp_all [pteGet, okState]

def shareQ : Seq := (bq.gSet 4 0x7123).gSet 6 0x109000

def invS : State := sq { hq with wait := .inv, inval := some { kind := 0, vi := 3, cid := 1, va := 0x7000, since := 0, holders := [] } }

def flipQ (n : Option Note) : Seq := { (privQ.gSet 7 0x5000) with note := n }

def flipS (n : Option Note) : State := { matteS (flipQ n) 0 (anchorOf 3) [] with ports := [.cxl, .cxl] }

def flipping : State := { sq { hq with wait := .flip 5 } with flipping := [(5, (1, [], [5]))] }

def work : Binding := { slot := 2, vi := 3, cid := 1, q := 4, number := 9, outer := 1, first := 3, count := 2, saveSlot := 0 }

def slate2 : Slate :=
  { vi := 3, cid := 1, q := 4, number := 9, flags := 1, pc := 0x4000, arg := 77, stackBase := 0x100000, stackSize := 4096, nvlog := 2,
    tiles := 2, stage := 8192, energy := 5,
    levels := [{ extent := 2, chunk := 0, domain := 1, scope := 5 }, { extent := 10, chunk := 1, domain := 4, scope := 0 }], admitT := 40,
    doneT := 41, dies := [0, 1, 2, 3], resv := [(0, 4096)], bound := [(1, [(3, 2)])], doneCount := 18 }

def saved : SavedCtx :=
  { die := 0, work := work, tag := none, answer := none, rolled := false, named := [], fails := 1, age := none, forced := false,
    cut := none, phase := [], came := [], stores := [], halted := false, stepReq := 0 }

def ctx2 : Ctx := { root := 0x100000, slots := 1, maxTiles := 1, frames := (List.range 28).map fun i => 0x300000 + 4096 * i, priv := true, saved := [saved] }

def entry (r : Bool) : CallEntry := { valid := true, resume := r, work := work }

def workS (q : Seq) (r : Bool) : State :=
  { sq q with
    owners := framesOf (0x100 :: (List.range 28).map (0x300 + ·)), cycle := 100000,
    vis := [(3, { en := true, ctxs := [(1, ctx2)], queues := [(4, { en := true, ctx := 1 })] })], slates := [(2, slate2)],
    dies := (Vector.replicate 4 ({} : Die)).set 0 { rows := [(5, [entry r, entry false])] } }

theorem run_ne_batch {w : Wait} (h : w = .run) (n : Nat) : w ≠ .batch n := by
  intro h'; rw [h] at h'; cases h'

def forcedS : State := workS { bound := some work, preempt := some 0, strip := some { ckpt := ckpt } } false

def pinS : State :=
  { workS { bound := some work, pins := [{ vi := 3, cid := 1, vpage := 7, log := 12, leaf := leaf7 }], inval := some { kind := 0, vi := 3, cid := 1, va := 0x7000, since := 0, holders := [5] } } false with
    cycle := 100000 }

def fencedS : State := { workS {} false with dies := (Vector.replicate 4 ({} : Die)).set 0 { fenced := true } }

/-! ### Slates -/

def slate1 : Slate := { slate2 with resv := [], bound := [], doneCount := 20 }

def page0 : Leaf := { entry := 0x100000, level := 1, base := 0x200000, w0 := 0x20006F, w1 := 0 }

def slateBytes : Nat :=
  2 ^ 64 + 2 ^ 80 + 0x4000 * 2 ^ 128 + 77 * 2 ^ 192 + 4096 * 2 ^ 384 + (4 + 2 * 2 ^ 32 + 4 * 2 ^ 64) * 2 ^ 1024

def queueS (Q : Queue) (b : Nat) : State :=
  { sq {} with
    cycle := 500, owners := framesOf [0x100, 0x200, 0x300], dieTlb := [(0, [{ vi := 3, cid := 1, vpage := 0, log := 21, leaf := page0 }])],
    homes := [(0x200100 / 128, tag (homeOf (BitVec.ofNat 1024 b))), (0x200180 / 128, tag (homeOf (BitVec.ofNat 1024 (b / 2 ^ 1024))))],
    vis := [(3, { en := true, ctxs := [(1, ctx1)], queues := [(4, Q)] })], slates := [(1, slate1)] }

def fetchQ : Queue := { en := true, ctx := 1, qhead := 0x100, qtail := 1, est := 3 }

def readyQ : Queue := { fetchQ with ready := [{ n := 1, addr := 0x100, bytes := slateBytes, t := 0 }] }

def doneQ : Queue := { fetchQ with doneAddr := 0x110, qdone := 8 }

/-! ### Rings, homes, copies, commits -/

def fault7 : FaultEntry := { page := 0x7000, access := 3, cause := 31, first := 65535, count := 1, detail := 0 }

def ringS (q : List Posting) : State :=
  { sq { wait := .posting } with
    owners := framesOf ((List.range 64).map (0x300 + ·))
    vis := [(3, { en := true, ctxs := [(1, ctx1)], ring := { ready := true, base := 0x300000, tail := 257, head := 2, queue := q.map fun p => { post := p } } })] }

def ownedHome (c : Nat) : HomeLine Nat := { data := 7, code := 3, wts := 5, rts := 20, own := some (.l1 c), ver := 4 }

def ownedS (c : Nat) : State := { sq {} with homes := [(0x900, (ownedHome c).store { State.reset with tbase := 3 })], tbase := 3 }

def publishedS : State :=
  { sq { wait := .publish } with homes := [(0x900, tag { data := 7, wts := 0, rts := 0, pubs := [{ id := 1, k := 5, tp := none, mask := 0, lapped := [] }] })] }

def copyS (o : Bool) (q : Seq) : State := { sq q with copies := [(copyKey 0 0x900, kept { copy7 with own := o, ver := 4 })] }

theorem of_all {α : Type} {o : Option α} {p : α → Bool} (h : o.all p = true) (x : α) (hx : o = some x) : p x = true := by
  subst hx; simpa using h

def stored : BufEntry := { loc := .line 0x900, bytes := 0xABCD, mask := 3, leaf := 0x100000, page := 0x7000, first := 0, count := 1 }

def readStrip : Strip := { ckpt := ckpt, reads := [(0x900, { wts := 2, epoch := 0 })] }

def writeStrip : Strip := { ckpt := ckpt, buf := [stored] }

def committing (f : Bool) : Seq := { strip := some writeStrip, commit := some { tc := some 30, failed := f }, holds := [0x900] }

/-! ### Chains and engines -/

def entryOf (xs : List (Nat × Nat)) : Nat := xs.foldl (fun a x => a + x.2 * 2 ^ (8 * x.1)) 0

def chain7 (eng : Nat) : ChainId := { vi := 3, cid := 1, die := 0, eng := eng }

def leaf8 : Leaf := { entry := 0x100010, level := 0, base := 0x6000, w0 := 0x606F, w1 := 0 }

def pin7 : TlbEntry := { vi := 3, cid := 1, vpage := 7, log := 12, leaf := leaf7 }
def pin8 : TlbEntry := { vi := 3, cid := 1, vpage := 8, log := 12, leaf := leaf8 }

def cmdOf (ent : Nat) : Cmd :=
  { n := 4, va := 0x7000, entry := ent, k := 5, slot := 1, priv := false, fctl := 0, clock := 60, promise := 0, pins := [pin7, pin8] }

def fillEntry (d : Nat) : Nat := entryOf [(8, 1), (12, 1), (16, 0x0807060504030201), (24, d), (32, 128)]
def copyEntry : Nat := entryOf [(8, 0), (12, 1), (16, 0x8080), (24, 0x7080), (32, 128)]
def putEntry : Nat := entryOf [(8, 0), (12, 128), (16, 0x8080), (24, 0x7080)]
def reduceEntry : Nat := entryOf [(8, 1), (10, 6), (11, 0), (12, 5), (16, 0x8080), (24, 0x7080)]
def copymEntry : Nat := entryOf [(8, 2), (12, 10), (16, 0x8080), (24, 0x20)]
def signalEntry : Nat := entryOf [(8, 2), (24, 0x7108), (32, 0x55AA)]
def peerSignal : Nat := entryOf [(8, 2), (24, 2 ^ 63 + 0x108), (32, 0x55AA)]
def castEntry : Nat := entryOf [(8, 0), (10, 2), (12, 5), (24, 64), (28, 8), (48, 0x7100)]
def dailiesEntry : Nat := entryOf [(12, 5), (24, 0x7110)]

def engLine : Copy Nat := { data := BitVec.allOnes 1024, wts := 4, rts := 70, own := true, ver := 9 }

def engHome (d : Line) : HomeLine Nat := { data := d, code := 3, wts := 3, rts := 9 }

/-- The head of an engine's chain is `x`; the engine owns the line of 0x7080. -/
def engS (eng : Nat) (x : Cmd) : State :=
  { sq { bq with follow := 1 } with
    owners := framesOf [5, 6], chains := [(chainKey (chain7 eng), { last := 4, done := 2, doneStatus := 1, cmds := [x] })],
    engCopies := [(engKey 0 eng line7, kept engLine)],
    homes := [(line7, tag { data := 7, wts := 0, rts := 0, own := some (.engine 0 eng), ver := 9 }), (0x5100 / 128, tag (engHome 7)),
      (0x6080 / 128, tag (engHome 0x0123456789ABCDEF))],
    slates := [(1, { slate2 with commands := 1 })] }

def engOp (ent n : Nat) : Cmd := { cmdOf ent with phase := .operate, segEnd := n }

theorem pinned_of {s : State} {c : ChainId} {x : Cmd} {va : Nat} {kind : Access} {l : Leaf} (e : TlbEntry)
    (h : (va < 2 ^ 57 ∧ (x.pins.find? fun e => e.covers c.vi c.cid va) = some e ∧ e.leaf = l) ∧ l.level = 0 ∧
      checkLeaf (engAccessor c s) va kind l s = none ∧ l.acc = true ∧ l.dirty = true ∧ l.mv = false ∧ l.ph = false ∧ l.sh = false ∧
      isMemory (l.pa va) = true ∧ l.pa va % 128 = va % 128) : EngPinned s c x va kind l :=
  ⟨h.1.1, ⟨e, h.1.2⟩, h.2⟩

def chainsS (q : Seq) (cs : List Cmd) : State :=
  { sq q with chains := [(chainKey (chain7 1), { last := 4, done := 2, doneStatus := 1, cmds := cs })] }

def chainQ : Seq := (bq.gSet 8 2).gSet 9 4

def cmd4 : Cmd := { cmdOf castEntry with phase := .operate }

def entryS (d : Nat) : State :=
  { filled d with vis := [(3, { en := true, queues := [(4, { en := true, ctx := 1, qtail := 7, qdone := 7 })] })] }


/-! ### The host, peers, links -/

def hostS : State := { atHome {} with mgmt := { exports := [(0, (0x5000, 0x1000, 0xFFFF, 7))] } }

def biasS : State := { hostS with ports := [.cxl, .cxl], bias := [5] }

def waiter (w : Wait) : Seq := { wait := w }

def answerS (q : Seq) (w : Wait) : State := { sq q with seqs := [(5, q), (9, waiter w)] }

def linkS (l : LinkPort) : State := { State.reset with links := (Vector.replicate 12 ({} : LinkPort)).set 3 l }

/-! ### The package, the virtual interfaces and their registers -/

theorem plain_of {s : State} {pa n : Nat} (hd : s.devWrites = [])
    (h : ((List.range (n / 128 + 2)).all fun i =>
      let x := pa / 128 + i
      isMemory (128 * x) && decide (s.homes.find x = none) && decide (s.converted.find (x / 32) = none) && !s.hostBias x &&
        decide (s.mts x + 500 < s.tbase + 2 ^ 23)) = true) :
    BytesPlain s pa n := by
  intro x h1 h2
  have := (List.all_eq_true.mp h) (x - pa / 128) (List.mem_range.mpr (by omega))
  rw [Nat.add_sub_cancel' h1] at this
  simp only [Bool.and_eq_true, decide_eq_true_eq, Bool.not_eq_true'] at this
  obtain ⟨⟨⟨⟨h3, h4⟩, h5⟩, h6⟩, h7⟩ := this
  exact ⟨h3, h4, h5, h6, ⟨by rw [hd]; simp, h7⟩⟩

def heatS : State :=
  { State.reset with cycle := 2 ^ 26 * 5, mgmt := { heatbase := 0x1000000, heatEn := true }, mem := Memory.write [] (0x1000000 + 128 * 7) 0x401234 4 }

def region7 : Region := .page 7

def erring (n : Nat) : State := { State.reset with cycle := 900, errTimes := [(57, List.replicate n 800)] }

def retiringS : State :=
  { State.reset with homes := [(0x900, tag (ownedHome 3))], slices := [(69, { retiring := some 4, retired := [4] })] }

def recoveringS : State := { State.reset with recovery := true }

def viS (v : Vi) : State := { State.reset with owners := framesOf (0 :: 5 :: 0x40 :: 0x60 :: 0x70 :: 0x90 :: (List.range 11).map (0x50 + ·)), vis := [(3, v)] }

def idleVi : Vi := { en := true, ctxs := [(1, { ctx1 with maxTiles := 0 })], ctxdesc := 0x60000 }

def descriptorS : State :=
  let s := viS idleVi
  { s with
    owners := s.owners ++ [(0x100, 0x83), (0x101, 0x83), (0x102, 0x83), (0x103, 0x83)],
    mem := Memory.write [] 0x60000 (0x100000 + 2 ^ 64 + 0x70000 * 2 ^ 128) 24 }

theorem descriptor_bytes : descriptorS.peekBytes 0x60000 64 = 0x100000 + 2 ^ 64 + 0x70000 * 2 ^ 128 := by decide +kernel

theorem descriptor_good : GoodDescriptor descriptorS 3 (descriptorS.peekBytes 0x60000 64) := by
  rw [descriptor_bytes]
  exact ⟨by decide +kernel, by decide +kernel, by decide +kernel, by decide +kernel, by decide +kernel, by decide +kernel,
    by decide +kernel, by decide +kernel, by decide +kernel⟩

theorem descriptor_read : readDescriptor 3 descriptorS =
    (0, 2, some { root := 0x100000, slots := 1, maxTiles := 0, frames := frameList 0x70000 12 descriptorS }) := by
  have h : (descriptorS.vi 3).ctxdesc.toNat = 0x60000 := by decide +kernel
  unfold readDescriptor
  simp only [h, descriptor_bytes]
  decide +kernel

theorem one_of {p : Nat → Prop} (h : p 1) (j : Nat) (h1 : 1 ≤ j) (h2 : j < 2) : p j := by
  rw [show j = 1 by omega]
  exact h

def boundQ : Seq := { bound := some { work with cid := 1 }, halted := true, pc := 0x1234 }

def dyingVi : Vi := { idleVi with ctxBusy := true, ctxPend := (0, 0, 1), ctxs := [(1, { ctx1 with dying := true })] }

def batch8 (src : PostSrc) : Batch := { tag := 8, src := src, cid := 1 }

def ringVi (src : PostSrc) : Vi :=
  { idleVi with ring := { ready := true, base := 0x300000, tail := 9, head := 2, batches := [batch8 src] } }

def answeredS (q : Seq) (src : PostSrc) : State := { viS (ringVi src) with seqs := [(5, q)] }

def poolS (w0 w1 : Nat) : State :=
  { viS { idleVi with cptbase := 0x90000, cptsize := 4, cbframe := 0x40000, dbgsel := BitVec.ofNat 64 (5 * 2 ^ 32 + 256), dbgbuf := 0x50000 } with
    mem := Memory.write [] 0x90020 (w0 + w1 * 2 ^ 64) 12, seqs := [(5, boundQ)], mgmt := { mdbaseh := 0x80001 } }

def reportS : State :=
  { viS { idleVi with att := { qNonce := [1, 2, 3, 4], qBuf := 0x50040, busy := true } } with attQueue := [.vi 3] }

theorem low32_of {p : Nat → Bool} (h : ((List.range 32).all p) = true) (i : Nat) (hi : i < 32) : p i = true :=
  (List.all_eq_true.mp h) i (List.mem_range.mpr hi)

theorem low12_of {p : Nat → Bool} (h : ((List.range 12).all p) = true) (i : Nat) (hi : i < 12) : p i = true :=
  (List.all_eq_true.mp h) i (List.mem_range.mpr hi)

theorem only_of {p : Nat → Bool} {j : Nat} {P : Nat → Prop} (h : ((List.range 32).all fun i => !p i || decide (i = j)) = true)
    (hj : P j) (i : Nat) (hi : i < 32) (hp : p i = true) : P i := by
  have := low32_of h i hi
  simp only [hp, Bool.not_true, Bool.false_or, decide_eq_true_eq] at this
  rw [this]
  exact hj

/-- The checks of `HomeReady`, as one Bool. -/
def readyB (s : State) (x : Nat) (h : HomeLine Nat) : Bool :=
  decide (s.home x = some h ∧ h.own = none ∧ h.pubs = [] ∧ h.code ≠ 15 ∧ h.hx = none ∧ s.hostBias x = false ∧
    s.flipping.find (x / 32) = none ∧ freeWays s x ≠ [] ∧ 16 ≤ (freeSectors s x).length ∧ roomQueue x s = [] ∧
    ∀ w ∈ s.devWrites, w.1 ≠ x)

theorem ready_of {s : State} {x : Nat} {h : HomeLine Nat} (hr : readyB s x h = true) : HomeReady s x h := by
  unfold HomeReady
  exact of_decide_eq_true hr

theorem slot_of {s : State} {vi : Nat} {r : Ring} (h : (decide (r.base.toNat % 512 = 0) && decide (s.mgmt.heatEn = false) &&
    decide (s.devWrites = []) && (List.range 4).all fun j =>
      let x := ringSlot r / 128 + j
      isMemory (128 * x) && decide (s.frameOwner (x / 32) = vi) && decide (s.homes.find x = none) &&
        decide (s.converted.find (x / 32) = none) && !s.hostBias x && decide (s.mts x + 4 < s.tbase + 2 ^ 23)) = true) :
    SlotPlain s vi r := by
  simp only [Bool.and_eq_true, decide_eq_true_eq, List.all_eq_true, List.mem_range, Bool.not_eq_true'] at h
  obtain ⟨⟨⟨h1, h2⟩, h3⟩, h4⟩ := h
  refine ⟨h1, h2, fun j hj => ?_⟩
  obtain ⟨⟨⟨⟨⟨a1, a2⟩, a3⟩, a4⟩, a5⟩, a6⟩ := h4 j hj
  exact ⟨a1, a2, a3, a4, a5, ⟨by rw [h3]; simp, a6⟩⟩

/-- A CRC that is not that of a flit of zeros. -/
theorem crc_differs : ¬ Config.flitCrc ((0 : BitVec 1920) ++ (0 : BitVec 64)) =
    Config.flitCrc ((0 : BitVec 1920) ++ (0 : BitVec 64)) + 1 := fun h =>
  absurd (BitVec.add_right_eq_self.mp h.symm) (by decide)

/-- Cluster 0 is fenced, and one of its slices owned a line that its home had asked for. -/
def fencedOwner : State :=
  { State.reset with
    homes := [(0x900, tag { data := 7, code := 3, wts := 5, rts := 20, own := some (.l1 0), ver := 4, recalled := true })]
    dies := (Vector.replicate 4 ({} : Die)).set 0 { fencedClusters := [0] } }

/-! ## Well-formed instructions: each check refuses an ill-formed term -/

theorem test_wf_accepts : Instr.WellFormed (.add 3 1 2 0 1 2 0) ∧ Instr.WellFormed (.rds 8191 15 (2 ^ 45 - 1) 0 0) ∧
    Instr.WellFormed (.queueEnable 127 63) ∧ Instr.WellFormed (.bind 3 2047 0 0 0) ∧ Instr.WellFormed (.flitReceive 11 0 0 0) := by
  decide +kernel
/-- 13 R295: VQNT has no variant 0. -/
theorem test_wf_refuses_variant : ¬ Instr.WellFormed (.vqnt 1 2 3 0 0 8 0) := by decide +kernel
/-- 13 R295: SRED has no .SWAP. -/
theorem test_wf_refuses_operation : ¬ Instr.WellFormed (.sred 1 2 0 0 2) := by decide +kernel
/-- 15 R345: FMASKP.W has no d. -/
theorem test_wf_refuses_field : ¬ Instr.WellFormed (.fmaskp 1 2 0 1) := by decide +kernel
theorem test_wf_refuses_sequencer : ¬ Instr.WellFormed (.stripCommit 8192) := by decide +kernel
theorem test_wf_refuses_generation : ¬ Instr.WellFormed (.rds 0 16 0 0 0) := by decide +kernel
theorem test_wf_refuses_line : ¬ Instr.WellFormed (.heatSweep (2 ^ 45)) := by decide +kernel
theorem test_wf_refuses_version : ¬ Instr.WellFormed (.rcl (.l1 0) 0 256 .i) := by decide +kernel
theorem test_wf_refuses_port : ¬ Instr.WellFormed (.portDown 12) := by decide +kernel
theorem test_wf_refuses_die : ¬ Instr.WellFormed (.heartbeatMiss 4) := by decide +kernel
theorem test_wf_refuses_slice : ¬ Instr.WellFormed (.wayRetireDone 0 64) := by decide +kernel
theorem test_wf_refuses_interface : ¬ Instr.WellFormed (.victlEnable 128) := by decide +kernel
theorem test_wf_refuses_queue : ¬ Instr.WellFormed (.queueEnable 0 64) := by decide +kernel
theorem test_wf_refuses_slot : ¬ Instr.WellFormed (.slateComplete 1024) := by decide +kernel
theorem test_wf_refuses_row : ¬ Instr.WellFormed (.bind 0 2048 0 0 0) := by decide +kernel
theorem test_wf_refuses_frame : ¬ Instr.WellFormed (.biasFlipDone (2 ^ 40)) := by decide +kernel

/-! ## Decoding: words built from the rows of the opcode table by placing each field at its bits (13 R292) -/

def decodesAs (xs : List (Nat × Instr)) : Bool := xs.all fun e => decide (decodeWord e.1 = .instr e.2)

theorem test_decode_system : decodesAs
    [(0x00A53CF1, .trapz 0xA53CF1), (0x01B00071, .ctlr 22 0x71), (0x02036071, .ctlw 13 1 0x71),
      (0x03B36071, .ctls 22 13 1 0x71), (0x04B36071, .ctlc 22 13 1 0x71), (0x05B36071, .ctlx 22 13 1 0x71),
      (0x06035A71, .syscall 0x35A71), (0x07000000, .eret), (0x08000000, .idle), (0x09B36000, .tlbinv 22 13 1 0),
      (0x0AB36000, .bflip 22 13 1 0), (0x0BB01A71, .enrd 22 0x1A71), (0x0C000000, .fencei), (0x0D000000, .dhalt),
      (0x0E035A71, .dmark 0x35A71), (0x0F000000, .nop)] = true := by decide +kernel
theorem test_decode_integer : decodesAs
    [(0x10B36330, .add 22 13 17 1 0 6 0), (0x11B36330, .sub 22 13 17 1 0 6 0), (0x12B36330, .mul 22 13 17 1 0 6 0),
      (0x13B36330, .mulh 22 13 17 1 0 6 0), (0x14B36330, .div 22 13 17 1 0 6 0), (0x15B36330, .rem 22 13 17 1 0 6 0),
      (0x16B36330, .min 22 13 17 1 0 6 0), (0x17B36330, .max 22 13 17 1 0 6 0), (0x18B36300, .and 22 13 17 1 0),
      (0x19B36300, .or 22 13 17 1 0), (0x1AB36300, .xor 22 13 17 1 0), (0x1BB36300, .andn 22 13 17 1 0),
      (0x1CB36330, .shl 22 13 17 1 0 6 0), (0x1DB36330, .shr 22 13 17 1 0 6 0), (0x1EB36330, .rot 22 13 17 1 0 6 0),
      (0x1FB36330, .cmp 22 13 17 1 0 6 0)] = true := by decide +kernel
theorem test_decode_immediate : decodesAs
    [(0x20B37A5D, .addi 22 13 1 0x1A5D), (0x21B37A5D, .muli 22 13 1 0x1A5D), (0x22B37A5D, .andi 22 13 1 0x1A5D),
      (0x23B37A5D, .ori 22 13 1 0x1A5D), (0x24B37A5D, .xori 22 13 1 0x1A5D), (0x25B36031, .shli 22 13 1 49),
      (0x26B36031, .shri 22 13 1 0 49), (0x27B36031, .roti 22 13 1 49), (0x28B37A5D, .slti 22 13 1 0x1A5D),
      (0x29B37A5D, .sltni 22 13 1 0x1A5D), (0x2AB37A5D, .seqi 22 13 1 0x1A5D), (0x2BB37A5D, .mini 22 13 1 0x1A5D),
      (0x2CB37A5D, .maxi 22 13 1 0x1A5D), (0x2DB37A5D, .divi 22 13 1 0x1A5D), (0x2EB37A5D, .remi 22 13 1 0x1A5D),
      (0x2FB37A5D, .subfi 22 13 1 0x1A5D)] = true := by decide +kernel
theorem test_decode_bits : decodesAs
    [(0x30B35A71, .movi 22 0x35A71), (0x31B35A71, .ldhi 22 0x35A71), (0x32B35A71, .addpc 22 0x35A71),
      (0x33B34130, .clz 22 13 1 6), (0x34B34130, .ctz 22 13 1 6), (0x35B34130, .popc 22 13 1 6), (0x36B34130, .brev 22 13 1 6),
      (0x37B34130, .bswap 22 13 1 6), (0x38B36C71, .ext 22 13 1 0 49 49), (0x39B36C71, .ins 22 13 1 49 49),
      (0x3AB36300, .sel 22 13 17 1 0 0), (0x3BB36330, .mac 22 13 17 1 0 6 0), (0x3CB34130, .abs 22 13 1 6 0),
      (0x3DB34130, .cvtw 22 13 1 6 0), (0x3EB36330, .crc 22 13 17 1 0 6), (0x3FB36300, .hash 22 13 17 1 0)] = true := by decide +kernel
theorem test_decode_float : decodesAs
    [(0x40B36330, .fadd 22 13 17 1 0 6 0), (0x41B36330, .fsub 22 13 17 1 0 6 0), (0x42B36330, .fmul 22 13 17 1 0 6 0),
      (0x43B36330, .fdiv 22 13 17 1 0 6 0), (0x44B34130, .fsqrt 22 13 1 6 0), (0x45B36330, .fmin 22 13 17 1 0 6 0),
      (0x46B36330, .fmax 22 13 17 1 0 6 0), (0x47B36268, .fma 22 13 17 6 1 0), (0x48B36268, .fnma 22 13 17 6 1 0),
      (0x49B36330, .fcmp 22 13 17 1 0 6 0), (0x4AB34130, .fcvt 22 13 0 1 6 0), (0x4BB34130, .fcvti 22 13 0 1 6 0),
      (0x4CB34130, .icvtf 22 13 0 1 6 0), (0x4DB34130, .fclass 22 13 1 6), (0x4EB34130, .fexp2 22 13 1 6 0),
      (0x4FB34130, .flog2 22 13 1 6 0)] = true := by decide +kernel
theorem test_decode_branches : decodesAs
    [(0x5002B3C5, .jmp 0x2B3C5), (0x5102B3C5, .call 0x2B3C5), (0x526EB3C5, .beqz 13 1 0x2B3C5),
      (0x536EB3C5, .bnez 13 1 0x2B3C5), (0x546EB3C5, .bltz 13 1 0x2B3C5), (0x556EB3C5, .bgez 13 1 0x2B3C5),
      (0x566EB3C5, .bgtz 13 1 0x2B3C5), (0x576EB3C5, .blez 13 1 0x2B3C5), (0x586EB3C5, .bpany 13 1 0x2B3C5),
      (0x596EB3C5, .bpnone 13 1 0x2B3C5), (0x5A037A5D, .jr 13 1 0x1A5D), (0x5BB37A5D, .callr 22 13 1 0x1A5D),
      (0x5C6EB3C5, .loop 13 1 0x2B3C5), (0x5D05A3C1, .lbrk 0x5A3C1), (0x5EB5A3C1, .lidx 22 0x5A3C1), (0x5F000000, .lcont)] = true := by decide +kernel
theorem test_decode_memory : decodesAs
    [(0x60B37A5D, .ldb 22 13 1 0x1A5D), (0x61B37A5D, .ldbn 22 13 1 0x1A5D), (0x62B37A5D, .ldh 22 13 1 0x1A5D),
      (0x63B37A5D, .ldhn 22 13 1 0x1A5D), (0x64B37A5D, .ldw 22 13 1 0x1A5D), (0x65B37A5D, .ldwn 22 13 1 0x1A5D),
      (0x66B37A5D, .ldd 22 13 1 0x1A5D), (0x67B37A5D, .stb 22 13 1 0x1A5D), (0x68B37A5D, .sth 22 13 1 0x1A5D),
      (0x69B37A5D, .stw 22 13 1 0x1A5D), (0x6AB37A5D, .std 22 13 1 0x1A5D), (0x6BB36100, .ldo 22 13 1 0 0 0),
      (0x6CB36200, .sto 22 13 1 0 0), (0x6DB37A5D, .sld 22 13 1 0x1A5D), (0x6EB37A5D, .sst 22 13 1 0x1A5D),
      (0x6F137A5D, .pref 2 13 1 0x1A5D)] = true := by decide +kernel
theorem test_decode_vector_integer : decodesAs
    [(0x70000000, .vcfg 0), (0x71B36000, .setvl 22 13 1 0), (0x72B36330, .vadd 22 13 17 1 0 6 0),
      (0x73B36330, .vsub 22 13 17 1 0 6 0), (0x74B36330, .vmul 22 13 17 1 0 6 0), (0x75B36330, .vmulh 22 13 17 1 0 6 0),
      (0x76B36330, .vdiv 22 13 17 1 0 6 0), (0x77B36330, .vrem 22 13 17 1 0 6 0), (0x78B36330, .vmin 22 13 17 1 0 6 0),
      (0x79B36330, .vmax 22 13 17 1 0 6 0), (0x7AB36330, .vand 22 13 17 1 0 6 0), (0x7BB36330, .vor 22 13 17 1 0 6 0),
      (0x7CB36330, .vxor 22 13 17 1 0 6 0), (0x7DB36330, .vshl 22 13 17 1 0 6 0), (0x7EB36330, .vshr 22 13 17 1 0 6 0),
      (0x7FB36330, .vrot 22 13 17 1 0 6 0)] = true := by decide +kernel
theorem test_decode_vector_float : decodesAs
    [(0x80B36330, .vfadd 22 13 17 1 0 6 0), (0x81B36330, .vfsub 22 13 17 1 0 6 0), (0x82B36330, .vfmul 22 13 17 1 0 6 0),
      (0x83B36330, .vfdiv 22 13 17 1 0 6 0), (0x84B34130, .vfsqrt 22 13 1 6), (0x85B36330, .vfmin 22 13 17 1 0 6 0),
      (0x86B36330, .vfmax 22 13 17 1 0 6 0), (0x87B36268, .vfma 22 13 17 6 1 0), (0x88B36268, .vfnma 22 13 17 6 1 0),
      (0x89B34130, .vfexp2 22 13 1 6), (0x8AB34130, .vflog2 22 13 1 6), (0x8BB34130, .vfrcp 22 13 1 6),
      (0x8CB34130, .vfrsq 22 13 1 6), (0x8DB34130, .vftanh 22 13 1 6), (0x8EB34130, .vabs 22 13 1 6 0),
      (0x8FB34130, .vneg 22 13 1 6 0)] = true := by decide +kernel
theorem test_decode_compares_predicates : decodesAs
    [(0x90B36330, .vcmp 22 13 17 1 0 6 0), (0x91B36330, .vcmps 22 13 17 1 0 6 0), (0x92B36330, .vfcmp 22 13 17 1 0 6 0),
      (0x93B36330, .vfcmps 22 13 17 1 0 6 0), (0x94B36300, .pand 22 13 17 1 0), (0x95B36300, .por 22 13 17 1 0),
      (0x96B36300, .pxor 22 13 17 1 0), (0x97B36300, .pandn 22 13 17 1 0), (0x98B34100, .pnot 22 13 1),
      (0x99B34100, .pcnt 22 13 1), (0x9AB34100, .pfirst 22 13 1), (0x9BB34102, .pset 22 13 1 2), (0x9CB00000, .ppack 22),
      (0x9D034100, .punpk 13 1), (0x9EB34100, .pmov 22 13 1 0), (0x9F034101, .fmaskp 0 13 1 1)] = true := by decide +kernel
theorem test_decode_elements_reductions : decodesAs
    [(0xA0B34130, .vmov 22 13 1 6), (0xA1B34130, .vbcst 22 13 1 6), (0xA2B36330, .vext 22 13 17 1 0 6),
      (0xA3B36330, .vins 22 13 17 1 0 6), (0xA4B36330, .vslup 22 13 17 1 0 6), (0xA5B36330, .vsldn 22 13 17 1 0 6),
      (0xA6B36330, .vcprs 22 13 17 1 0 6), (0xA7B36330, .vexpd 22 13 17 1 0 6), (0xA8B36330, .vperm 22 13 17 1 0 6),
      (0xA9B34130, .viota 22 13 1 6 0), (0xAAB36330, .vsel 22 13 17 1 0 6), (0xABB36330, .vred 22 13 17 1 0 6 0),
      (0xACB36330, .vfred 22 13 17 1 0 6 0), (0xADB36330, .vscan 22 13 17 1 0 6 0), (0xAEB36330, .vfscan 22 13 17 1 0 6 0),
      (0xAFB36330, .vdot 22 13 17 1 0 6)] = true := by decide +kernel
theorem test_decode_vector_memory : decodesAs
    [(0xB0CB6030, .vld 25 13 1 6), (0xB1CB6030, .vst 25 13 1 6), (0xB2CB6030, .vldff 25 13 1 6),
      (0xB3CB7130, .vgth 25 13 1 17 0 6), (0xB4CB7130, .vsct 25 13 1 17 0 6), (0xB5CB7130, .vgthw 25 13 1 17 0 6 0),
      (0xB6CB6030, .vlds 25 13 1 6), (0xB7CB6030, .vsts 25 13 1 6), (0xB8CB7130, .vgths 25 13 1 17 0 6),
      (0xB9CB7130, .vscts 25 13 1 17 0 6), (0xBACB6000, .vspill 25 13 1), (0xBBCB6000, .vfill 25 13 1),
      (0xBCCB6030, .vldbc 25 13 1 6), (0xBD036030, .vpref 13 1 6 0), (0xBECB6030, .vldsg 25 13 1 6 0),
      (0xBFCB6030, .vstsg 25 13 1 6 0)] = true := by decide +kernel
theorem test_decode_conversions : decodesAs
    [(0xC0B34130, .vcvt 22 13 0 1 6 0), (0xC1B34130, .vcvti 22 13 0 1 6 0), (0xC2B34130, .vicvt 22 13 0 1 6 0),
      (0xC3B34130, .vnarw 22 13 0 1 6), (0xC4B34130, .vwidn 22 13 0 1 6), (0xC5B3634A, .vqnt 22 13 17 1 0 9 2),
      (0xC6B3634A, .vdqnt 22 13 17 1 0 9 2), (0xC7B3414A, .vbscl 22 13 1 9 2), (0xC8B34130, .vfrnd 22 13 1 6 0),
      (0xC9B34130, .vfcls 22 13 1 6), (0xCAB36330, .vpk 22 13 17 1 0 6), (0xCBB34130, .vupk 22 13 1 6 0),
      (0xCCB34130, .vbswp 22 13 1 6), (0xCDB34130, .vclz 22 13 1 6 0), (0xCEB34130, .vpopc 22 13 1 6),
      (0xCFB36300, .vhash 22 13 17 1 0)] = true := by decide +kernel
theorem test_decode_matrix : decodesAs
    [(0xD0B36330, .mlatch 22 13 17 1 0 6), (0xD1036330, .mlatchv 13 17 1 0 6), (0xD2B36330, .mop 22 13 17 1 0 6 0 0),
      (0xD3B36330, .mopSp 22 13 17 1 0 6 0 0), (0xD4B36330, .mopPair 22 13 17 1 0 6 0 0), (0xD5B00000, .mpstat 22),
      (0xD6B00000, .tzero 22), (0xD7B34100, .tmov 22 13 1), (0xD8B34168, .tadd 22 13 1 13), (0xD9B34169, .tact 22 13 1 1 13),
      (0xDAB36330, .tstore 22 13 17 1 0 6 0), (0xDBB34100, .tsave 22 13 1 0), (0xDCB34100, .tload 22 13 1 0),
      (0xDDB36330, .trdv 22 13 17 1 0 6 0), (0xDEB36330, .twrv 22 13 17 1 0 6 0), (0xDFB34130, .tfill 22 13 1 6)] = true := by decide +kernel
theorem test_decode_atomics_waits : decodesAs
    [(0xE0B36006, .amo 22 13 1 0 0 0 6), (0xE1B36006, .vamo 22 13 1 0 0 0 6), (0xE2B36006, .vgll 22 13 1 0 0 6),
      (0xE3B36006, .vscc 22 13 1 0 0 0 6), (0xE4B36006, .samo 22 13 1 0 6), (0xE5B36016, .sred 22 13 1 1 6),
      (0xE6B36098, .hacc 22 13 1 19 0), (0xE7B36000, .waita 22 13 1 0 0 0 0), (0xE8B36000, .vwait 22 13 1 0 0 0 0),
      (0xE9B37200, .arrive 22 13 1 4 2 0 0 0 0), (0xEAB36100, .await 22 13 1 0 0 0 0), (0xEB000200, .endph 0 0 0),
      (0xEC000300, .fence 0), (0xEDB36000, .mprint 22 13 1), (0xEDB36001, .mprintFork 22 13 1), (0xEDB36002, .mstrike 22 13 1),
      (0xEEB36000, .mquery 22 13 1), (0xEEB36001, .mgrant 22 13 1), (0xEFB36058, .plshare 22 13 1 11),
      (0xEF036059, .pldec 13 1 11)] = true := by decide +kernel
theorem test_decode_engines : decodesAs
    [(0xF0B36000, .ecmd 22 13 1 0), (0xF1B00000, .ecpoll 22 0), (0xF2B00000, .ecfence 22 0), (0xF3B36000, .ecabort 22 13 1 0),
      (0xF4B00000, .ecstat 22 0), (0xF5B36000, .sleepto 22 13 1 0), (0xF8000000, .yield), (0xFA000000, .strend),
      (0xFB000000, .strabt)] = true := by decide +kernel
/-- The rows of the last primaries. -/
theorem test_decode_last : (decodeWord 0xF6036000).toInstr = some (.sleep 13 1) ∧
    (decodeWord 0xF7005A71).toInstr = some (.pause 0x5A71) ∧
    (decodeWord 0xF9B569C4).toInstr = some (.setvli 22 0x15A71 0) ∧
    (decodeWord 0xFC035A71).toInstr = some (.hint 0x35A71) ∧
    (decodeWord 0xFDB36000).toInstr = some (.prchk 22 13 1 0) ∧
    (decodeWord 0xFE037A5D).toInstr = some (.brkc 13 1 0x1A5D) ∧
    (decodeWord 0xFF2B5A71).toInstr = some (.brk 0x2B5A71) :=
  ⟨rfl, rfl, rfl, rfl, rfl, rfl, rfl⟩
/-- 13 R291: the word is little-endian; the spec's bytes of ADD.s32 g3, g1, g2!. -/
theorem test_decode_bytes : decodeBytes [0x90, 0x44, 0x18, 0x10] = .instr (.add 3 1 2 0 1 2 0) := by decide +kernel
theorem test_decode_short : decodeBytes [0x90, 0x44, 0x18] = .short := by decide +kernel
/-- 13 R301's example words, and unassigned values of R295, R299 and 18 R409. -/
theorem test_decode_unassigned : decodeWord 0x6C299606 = .unassigned ∧ decodeWord 0xC5000000 = .unassigned ∧
    decodeWord 0xE5000002 = .unassigned ∧ decodeWord 0xE9000080 = .unassigned := by decide +kernel
theorem test_decode_reserved : decodeWord 0x6C299402 = .reserved ∧ decodeWord 0x01000100 = .reserved := by decide +kernel
/-- 14 R325: LCONT with an immediate that is not 0. -/
theorem test_decode_operand : decodeWord 0x5F000001 = .operand := by decide +kernel
/-- The table's numbering reaches the decoder, and the step runs the word as the first instruction. -/
theorem test_decode_table : decodeTableWord 32 0x10184490 = some (.add 3 1 2 0 1 2 0) := by decide +kernel
theorem test_first_step : let t := out (step (State.reset.withFetchWord 32 0x30480007))
    ((t.seq t.cur).gRead 9, (t.seq t.cur).full.g.getLsbD 9) = (7, true) := by decide +kernel

/-! ## The spec's worked examples, one step each -/

def after (q : Seq) (i : Instr) : Seq := (out (exec i (sq q))).seq 5

/-- 13 R301: ADD.s32 g3, g1, g2! with both sources full: the sum, sign-extended. -/
theorem test_add : (after ((({} : Seq).gSet 1 0x7FFFFFFF).gSet 2 1) (.add 3 1 2 0 1 2 0)).gRead 3 = 0xFFFFFFFF80000000 := by decide +kernel
/-- g2 empty: empty-register trap, TVAL 0x002; g1 empty and g2 full: it waits. -/
theorem test_add_traps : let q := after (hq.setFull (.g 2) false) (.add 3 1 2 0 1 2 0)
    q.n.cause = 6 ∧ q.n.tval = 2 ∧ q.pc = 0x40 := by decide +kernel
theorem test_add_waits : (after (({} : Seq).setFull (.g 1) false) (.add 3 1 2 0 1 2 0)).wait = .full := by decide +kernel
/-- Type 0xF is judged before emptiness: illegal operand, TVAL the word. -/
theorem test_add_type : let q := after (hq.setFull (.g 2) false) (.add 3 1 2 0 1 15 0)
    q.n.cause = 3 ∧ q.n.tval = 0x101844F8 := by decide +kernel
/-- 14 R323's nested loops: LOOP at 12 pushes START 16 and END 36; LIDX reads INDEX; ADD at the last word goes back. -/
theorem test_loop : let q := after { ({} : Seq).gSet 5 2 with pc := 12 } (.loop 5 0 6)
    q.loops = [{ start := 16, len := 5, count := 2, index := 0 }] ∧ q.pc = 16 := by decide +kernel
theorem test_loop_back : let q := after { hq with pc := 36, loops := [{ start := 16, len := 5, count := 2, index := 0 }] } (.add 7 7 8 0 0 7 0)
    q.loops = [{ start := 16, len := 5, count := 2, index := 1 }] ∧ q.pc = 16 := by decide +kernel
/-- 15 R349: 40 of 32 bits at NVLOG 5, an open strip. -/
theorem test_setvl : let q := after { ({} : Seq).gSet 1 40 with c := { nvlog := 5 } } (.setvl 2 1 0 2)
    q.gRead 2 = 40 ∧ q.c.vl = 40 ∧ q.strip.isSome = true := by decide +kernel

def sumsQ (masked : Bool) (v : Nat) : Seq :=
  let q := ((({} : Seq).vSet 2 v).pSet 1 (2 ^ 36 - 1)).gSet 5 0x3F800000
  { q with c := { q.c with nvlog := 5, vl := 40, vmask := if masked then 9 else 0 } }

def f32s (xs : List Nat) : Nat := xs.foldr (fun x a => x + 2 ^ 32 * a) 0

/-- 0 to 39 as f32. -/
def floats : List Nat :=
  [0, 0x3F800000, 0x40000000, 0x40400000, 0x40800000, 0x40A00000, 0x40C00000, 0x40E00000, 0x41000000, 0x41100000, 0x41200000,
    0x41300000, 0x41400000, 0x41500000, 0x41600000, 0x41700000] ++
  (List.range 16).map (0x41800000 + 0x80000 * ·) ++ (List.range 8).map (0x42000000 + 0x40000 * ·)

/-- 15's sums under a mask: 780 of all, then 1.0 added to the active elements, whose sum is 666. -/
theorem test_vicvt : (after ((sumsQ false 0).vSet 1 (f32s (List.range 40))) (.vicvt 2 1 6 0 13 0)).vRead 2 = f32s floats := by decide +kernel
theorem test_vfred : (after (sumsQ false (f32s floats)) (.vfred 3 2 0 0 0 13 0)).gRead 3 = 0x44430000 := by decide +kernel
theorem test_vfadd_masked : (after (sumsQ true (f32s floats)) (.vfadd 2 2 5 0 0 13 4)).vRead 2 =
    f32s (((floats.drop 1).take 35 ++ [0x42100000]) ++ floats.drop 36) := by decide +kernel
theorem test_vfred_masked : (after (sumsQ true (f32s (((floats.drop 1).take 35 ++ [0x42100000]) ++ floats.drop 36)))
    (.vfred 7 2 0 0 0 13 0)).gRead 7 = 0x44268000 := by decide +kernel
theorem test_vcmps : (after (((sumsQ false 0).vSet 1 (f32s (List.range 40))).gSet 4 36) (.vcmps 1 1 4 0 0 6 2)).pRead 1 = 2 ^ 36 - 1 := by
  decide +kernel

/-- 10 R232's block: 0.75, −3, 12, 0, 1.5, 24, −0.2, 5 gives S 0x0900 and the word 0x287105A0, with NX and UF. -/
def blockQ : Seq :=
  let q := (({} : Seq).vSet 2 (f32s [0x3F400000, 0xC0400000, 0x41400000, 0, 0x3FC00000, 0x41C00000, 0xBE4CCCCD, 0x40A00000])).vSet 3 0x0900
  { q with c := { q.c with nvlog := 5, vl := 8 } }
theorem test_vbscl : (after blockQ (.vbscl 4 2 0 8 1)).vRead 4 % 2 ^ 16 = 0x0900 := by decide +kernel
theorem test_vqnt : let q := after blockQ (.vqnt 4 2 3 0 0 8 1)
    (q.vRead 4 % 2 ^ 32, q.c.fflags) = (0x287105A0, 0x18) := by decide +kernel

/-- 18 R405: HACC stops at a full run of 16 slots. -/
def haccS : State :=
  let q := (((({} : Seq).vSet 4 (f32s [35, 36, 67, 8])).vSet 5 (f32s [10, 20, 30, 40])).gSet 5 0x500004000)
  { sq { q with c := { q.c with nvlog := 3, vl := 4 }, n := { q.n with stage := 0x8000 } } with
    stage := Memory.write [] 0x4020 (f32s ((List.range 32).map fun i => if i % 2 = 0 then 100 + i else 0)) 128 }
theorem test_hacc : let t := out (exec (.hacc 4 5 0 7 0) haccS)
    ((t.seq 5).land.gRead 7, (t.seq 5).c.vstart, t.stage.read 0x4018 4, t.stage.read 0x401C 4) = (1, 0, 36, 10) := by decide +kernel

/-- 08 R181's line of pointers: code 3, one sector, and its image. -/
def pointers : Nat := (List.range 16).foldl (fun n k => n + (0x00007F0000001000 + 8 * k) * 2 ^ (64 * k)) 0
theorem test_bdz : (Bdz.code pointers, Bdz.nsec 3 pointers) = (3, 1) := by decide +kernel
theorem test_bdz_image : Bdz.payload 3 pointers = 0x78706860585048403830282018100800 * 2 ^ 64 + 0x00007F0000001000 := by decide +kernel

/-- 07 R155's flag seen late: an RDS at t = 100 leaves rts 116; an RDO after it performs the write at 117. -/
theorem test_rds : ((out (exec (.rds 9 0 0x900 90 16) { State.reset with homes := [(0x900, tag { wts := 100, rts := 100 })] })).homes.find 0x900).map
    (fun h => (h.wts, h.rts)) = some (100, 116) := by decide +kernel

/-- 18 R402: VAMO.ADD.n32 with indices 5, 5, 7 and operands 1, 2, 4 returns 10, 11, 0 and leaves 13 in word 5. -/
def vamoS : State :=
  let q := ((bq.gSet 4 0x7080).vSet 4 (f32s [1, 2, 4])).vSet 5 (f32s [5, 5, 7])
  { ws { q with c := { q.c with nvlog := 3, vl := 3 } } with
    copies := [(copyKey 0 line7, kept { copy7 with data := BitVec.ofNat 1024 (10 * 2 ^ 160) })] }
theorem test_vamo : let t := out (exec (.vamo 4 4 0 0 0 1 6) vamoS)
    ((t.seq 5).land.vRead 4, (t.copy 0 line7).map fun p => p.data.toNat) = (f32s [10, 11, 0], some (13 * 2 ^ 160 + 4 * 2 ^ 224)) := by decide +kernel

/-! ## Witnesses: the hypotheses of each clause, met together -/

theorem wit_DecodeEncode_0 :
    ∃ (i : Instr) (rest : List Byte),
    (i.isEncoded = true) ∧ (
    (i.WellFormed)) := by
    refine ⟨.vfma 15 14 13 1 1 4, [0xFF], ?_, ?_⟩ <;> decide +kernel

theorem wit_StepRunsDecodedInstruction_0 :
    ∃ (s t : State) (k : Agent) (w : Word32),
    (TurnOf k s) ∧ (
    (fetchWord k (atTurn k s) = .ok w t) ∧ (
    ∃ i,
    ((decodeWord w.toNat).toInstr = some i))) := by
    refine ⟨(State.reset.withFetchWord 32 (Instr.vadd 1 2 3 0 0 2 0).encodeNat), _, 0, _, ?_, ok_out (d := default) (by decide +kernel), _, some_out (by decide +kernel)⟩ <;> (first | decide +kernel | ((repeat (first | unfold TurnOf)); first | decide +kernel | (intro _ h; cases h <;> decide +kernel)))

theorem wit_StepRunsDecodedInstruction_1 :
    ∃ (s t : State) (k : Agent) (w : Word32),
    (TurnOf k s) ∧ (
    (fetchWord k (atTurn k s) = .ok w t) ∧ (
    ∃ c v,
    (refusedWord w (decodeWord w.toNat) = some (c, v)))) := by
    refine ⟨(State.reset.withFetchWord 32 0xC5000000), _, 0, 0xC5000000, ?_, ok_is (by decide +kernel), 0x01, 1, by decide +kernel⟩ <;> (first | decide +kernel | ((repeat (first | unfold TurnOf)); first | decide +kernel | (intro _ h; cases h <;> decide +kernel)))

theorem wit_StepRunsDecodedInstruction_2 :
    ∃ (s : State) (w : Word32),
    ((s.me.fetched.find s.me.pc.toNat) = some w) := by
    refine ⟨(sq { hq with fetched := [(0, 9)] }), 9, ?_⟩ <;> decide +kernel

theorem wit_StepRunsDecodedInstruction_3 :
    ∃ (s : State) (l : Leaf),
    let va := s.me.pc.toNat
    let x := fetchLine s.cur va l s
    (s.me.fetched.find va = none) ∧ (
    (Cached s va .fetch false l) ∧ (
    ((tierOf (l.pa va) = .hbm ∨ tierOf (l.pa va) = .lpddr)) ∧ (
    (recordBad s.cur l s = false) ∧ (
    (fetchOpens x s = false) ∧ (
    (lineBad x s = false)))))) := by
    refine ⟨atLine, leaf7, ?_, ?_, ?_, ?_, ?_, ?_⟩ <;> (first | decide +kernel | ((repeat (first | unfold Cached)); first | decide +kernel | (intro _ h; cases h <;> decide +kernel)))

theorem wit_StepRunsDecodedInstruction_4 :
    ∃ (w : Word32) (i : Instr),
    ((decodeWord w.toNat).toInstr = some i) := by
    refine ⟨0xFFFFFFFF, _, some_out (by decide +kernel)⟩ <;> decide +kernel

theorem wit_MemoriesStayCanonical_0 :
    ∃ s t : State,
    (s.Canonical) ∧ (
    (step s = .next t)) := by
    refine ⟨State.reset, _, ?_, next_out (by decide +kernel)⟩ <;> (first | decide +kernel | ((repeat (first | unfold State.Canonical)); first | decide +kernel | (intro _ h; cases h <;> decide +kernel)))

theorem wit_JudgingOrder_0 :
    ∃ (i : Instr) (s : State),
    (Handled s.me) ∧ (
    (s.me.n.priv = false) ∧ (
    ((∃ d a e k, i = .tlbinv d a e k) ∨ (∃ d a e k, i = .bflip d a e k) ∨ (∃ d a e, i = .mgrant d a e)))) := by
    refine ⟨(.mgrant 1 2 0), hs, ?_, ?_, .inr (.inr ⟨1, 2, 0, rfl⟩)⟩ <;> (first | decide +kernel | ((repeat (first | unfold Handled)); first | decide +kernel | (intro _ h; cases h <;> decide +kernel)))

theorem wit_JudgingOrder_1 :
    ∃ (s : State) (d a b : BitVec 5) (e f : BitVec 1) (t : BitVec 4) (v : BitVec 3),
    (Handled s.me) ∧ (
    (2 ^ s.me.c.nvlog ≤ d.toNat)) := by
    refine ⟨hs, 31, 0, 0, 0, 0, 0, 0, ?_, ?_⟩ <;> (first | decide +kernel | ((repeat (first | unfold Handled)); first | decide +kernel | (intro _ h; cases h <;> decide +kernel)))

theorem wit_JudgingOrder_2 :
    ∃ (s : State) (d a b : BitVec 5) (e f : BitVec 1) (t : BitVec 4) (v : BitVec 3),
    (Handled s.me) ∧ (
    (d.toNat < 2 ^ s.me.c.nvlog) ∧ (
    (2 ^ s.me.c.nvlog ≤ a.toNat))) := by
    refine ⟨narrow, 3, 4, 0, 0, 0, 0, 0, ?_, ?_, ?_⟩ <;> (first | decide +kernel | ((repeat (first | unfold Handled)); first | decide +kernel | (intro _ h; cases h <;> decide +kernel)))

theorem wit_JudgingOrder_3 :
    ∃ (s : State) (d a b : BitVec 5) (e f : BitVec 1) (t : BitVec 4) (v : BitVec 3),
    (Handled s.me) ∧ (
    (8 ≤ d.toNat)) := by
    refine ⟨hs, 8, 0, 0, 0, 0, 0, 0, ?_, ?_⟩ <;> (first | decide +kernel | ((repeat (first | unfold Handled)); first | decide +kernel | (intro _ h; cases h <;> decide +kernel)))

theorem wit_JudgingOrder_4 :
    ∃ (s : State) (d a b : BitVec 5) (e f : BitVec 1) (t : BitVec 4) (v : BitVec 3),
    (Handled s.me) ∧ (
    (8 ≤ d.toNat ∨ s.me.n.claim.getLsbD d.toNat = false)) := by
    refine ⟨hs, 7, 0, 0, 0, 0, 0, 0, ?_, ?_⟩ <;> (first | decide +kernel | ((repeat (first | unfold Handled)); first | decide +kernel | (intro _ h; cases h <;> decide +kernel)))

theorem wit_JudgingOrder_5 :
    ∃ (s : State) (d : BitVec 5) (n : BitVec 8),
    (Handled s.me) ∧ (
    (ctlExists n.toNat = false)) := by
    refine ⟨hs, 0, 0xFF, ?_, ?_⟩ <;> (first | decide +kernel | ((repeat (first | unfold Handled)); first | decide +kernel | (intro _ h; cases h <;> decide +kernel)))

theorem wit_JudgingOrder_6 :
    ∃ (s : State) (d a b : BitVec 5) (e f : BitVec 1) (t : BitVec 4) (v : BitVec 3),
    (Handled s.me) ∧ (
    let full (r : BitVec 5) : Bool := s.me.isFull (.g r.toNat)
    let i := Instr.add d a b e f t v
    (8 ≤ t.toNat)) := by
    refine ⟨hs, 0, 0, 0, 0, 0, 8, 0, ?_, ?_⟩ <;> (first | decide +kernel | ((repeat (first | unfold Handled)); first | decide +kernel | (intro _ h; cases h <;> decide +kernel)))

theorem wit_JudgingOrder_7 :
    ∃ (s : State) (d a b : BitVec 5) (e f : BitVec 1) (t : BitVec 4) (v : BitVec 3),
    (Handled s.me) ∧ (
    let full (r : BitVec 5) : Bool := s.me.isFull (.g r.toNat)
    let i := Instr.add d a b e f t v
    (t.toNat < 8) ∧ (
    (e = 1) ∧ (
    (full a = false)))) := by
    refine ⟨emptyG4, 0, 4, 5, 1, 0, 7, 0, ?_, ?_, ?_, ?_⟩ <;> (first | decide +kernel | ((repeat (first | unfold Handled)); first | decide +kernel | (intro _ h; cases h <;> decide +kernel)))

theorem wit_JudgingOrder_8 :
    ∃ (s : State) (d a b : BitVec 5) (e f : BitVec 1) (t : BitVec 4) (v : BitVec 3),
    (Handled s.me) ∧ (
    let full (r : BitVec 5) : Bool := s.me.isFull (.g r.toNat)
    let i := Instr.add d a b e f t v
    (t.toNat < 8) ∧ (
    (e = 0 ∨ full a = true) ∧ (
    (f = 1) ∧ (
    (full b = false))))) := by
    refine ⟨emptyG4, 0, 5, 4, 1, 1, 7, 0, ?_, ?_, ?_, ?_, ?_⟩ <;> (first | decide +kernel | ((repeat (first | unfold Handled)); first | decide +kernel | (intro _ h; cases h <;> decide +kernel)))

theorem wit_JudgingOrder_9 :
    ∃ (s : State) (d a b : BitVec 5) (e f : BitVec 1) (t : BitVec 4) (v : BitVec 3),
    (Handled s.me) ∧ (
    let full (r : BitVec 5) : Bool := s.me.isFull (.g r.toNat)
    let i := Instr.add d a b e f t v
    (t.toNat < 8) ∧ (
    (e = 0 ∨ full a = true) ∧ (
    (f = 0 ∨ full b = true) ∧ (
    (full a = false ∨ full b = false ∨ full d = false))))) := by
    refine ⟨emptyG4, 0, 4, 4, 0, 0, 7, 0, ?_, ?_, ?_, ?_, ?_⟩ <;> (first | decide +kernel | ((repeat (first | unfold Handled)); first | decide +kernel | (intro _ h; cases h <;> decide +kernel)))

theorem wit_ScalarResults_0 :
    ∃ (i : Instr) (s : State) (o : ScalarOp),
    (scalarOp i = some o) ∧ (
    (o.ok = true) ∧ (
    (s.me.Ready (.g o.d :: o.srcs)) ∧ (
    (s.me.Writable o.d (o.value s.me)) ∧ (
    (s.Fresh))))) := by
    refine ⟨(.add 31 4 4 1 1 3 1), hs, _, rfl, ?_, ?_, ?_, ?_⟩ <;> (first | decide +kernel | ((repeat (first | unfold Seq.Ready | unfold Seq.Writable | unfold State.Fresh)); first | decide +kernel | (intro _ h; cases h <;> decide +kernel)))

theorem wit_ScalarResults_1 :
    ∃ (i : Instr) (s : State) (o : ScalarOp),
    (floatResult i = some o) ∧ (
    (o.ok = true) ∧ (
    (s.me.Ready (.g o.d :: o.srcs)) ∧ (
    (s.me.Writable o.d (o.value s.me)) ∧ (
    (s.Fresh))))) := by
    refine ⟨(.fadd 4 4 4 1 1 14 6), hs, _, rfl, ?_, ?_, ?_, ?_⟩ <;> (first | decide +kernel | ((repeat (first | unfold Seq.Ready | unfold Seq.Writable | unfold State.Fresh)); first | decide +kernel | (intro _ h; cases h <;> decide +kernel)))

theorem wit_LateScalarResult_0 :
    ∃ (i : Instr) (s : State) (o : ScalarOp),
    (lateResult i = some o) ∧ (
    (o.ok = true) ∧ (
    (s.me.Ready (.g o.d :: o.srcs)) ∧ (
    (s.me.Writable o.d (o.value s.me)) ∧ (
    (s.Fresh))))) := by
    refine ⟨(.div 0 4 4 1 1 3 0), hs, _, rfl, ?_, ?_, ?_, ?_⟩ <;> (first | decide +kernel | ((repeat (first | unfold Seq.Ready | unfold Seq.Writable | unfold State.Fresh)); first | decide +kernel | (intro _ h; cases h <;> decide +kernel)))

theorem wit_ControlRegisters_0 :
    ∃ (i : Instr) (s : State) (m : CtlMove),
    (ctlMove i = some m) ∧ (
    (ctlExists m.n = true) ∧ (
    (s.me.Ready ((m.d.toList ++ m.a.toList).map RegRef.g)) ∧ (
    ((∀ d, m.d = some d → s.me.Writable d (ctlRead s.cur m.n s))) ∧ (
    (s.Fresh))))) := by
    refine ⟨(.ctls 4 4 0 0x08), hs, _, rfl, ?_, ?_, fun _ h => by cases h; unfold Seq.Writable; decide +kernel, ?_⟩ <;> (first | decide +kernel | ((repeat (first | unfold Seq.Ready | unfold Seq.Writable | unfold State.Fresh)); first | decide +kernel | (intro _ h; cases h <;> decide +kernel)))

theorem wit_ControlRegisters_1 :
    ∃ (s : State) (k : Agent) (n : Nat) (v : DWord),
    ∃ w,
    (ctlWritten (ctlRead k n s) v n = some w) := by
    refine ⟨hs, 5, 0x0F, 4097, _, some_out (by decide +kernel)⟩ <;> decide +kernel

theorem wit_ControlRegisters_2 :
    ∃ (s : State) (k : Agent) (n : Nat) (v : DWord),
    (ctlReadOnly n = true) := by
    refine ⟨hs, 5, 0x29, 4097, ?_⟩ <;> decide +kernel

theorem wit_ControlRegisters_3 :
    ∃ (s : State) (k : Agent) (n : Nat) (v : DWord),
    ∃ m,
    (m ≠ n) := by
    refine ⟨hs, 5, 0x29, 4097, 0x28, ?_⟩ <;> decide +kernel

theorem wit_BranchesAndLoops_0 :
    ∃ (i : Instr) (s : State) (o : BranchOp),
    (branchOp i = some o) ∧ (
    (s.me.Ready o.regs) ∧ (
    (o.ok s.me = true) ∧ (
    (s.Fresh)))) := by
    refine ⟨(.loop 5 0 65536), looped, _, rfl, ?_, ?_, ?_⟩ <;> (first | decide +kernel | ((repeat (first | unfold Seq.Ready | unfold State.Fresh)); first | decide +kernel | (intro _ h; cases h <;> decide +kernel)))

theorem wit_BranchesAndLoops_2 :
    ∃ (x : DWord) (es : List LoopEntry),
    ∃ e rest,
    (es = e :: rest) ∧ (
    (endOf e = x) ∧ (
    (e.index + 1 < e.count))) := by
    refine ⟨12, [{ start := 8, len := 1, index := 0, count := 2 }], _, _, rfl, ?_, ?_⟩ <;> decide +kernel

theorem wit_BranchesAndLoops_3 :
    ∃ (x : DWord) (es : List LoopEntry),
    ∃ e rest,
    (es = e :: rest) ∧ (
    (endOf e = x) ∧ (
    (e.count ≤ e.index + 1))) := by
    refine ⟨12, [{ start := 8, len := 1, index := 1, count := 2 }], _, _, rfl, ?_, ?_⟩ <;> decide +kernel

theorem wit_BranchesAndLoops_4 :
    ∃ (x : DWord) (es : List LoopEntry),
    ∃ e rest,
    (es = e :: rest) ∧ (
    (endOf e ≠ x)) := by
    refine ⟨16, [{ start := 8, len := 1, index := 1, count := 2 }], _, _, rfl, ?_⟩ <;> decide +kernel

theorem wit_ScalarLoads_0 :
    ∃ (i : Instr) (s t : State) (o : LoadOp) (v : Nat),
    (loadOp i = some o) ∧ (
    (s.me.Ready [.g o.d.toNat, .g o.a.toNat]) ∧ (
    (loadAt (o.va s.me) o.n s = .ok v t) ∧ (
    (t.me.Writable o.d.toNat (loaded o.n o.signed v))))) := by
    refine ⟨(.ldd 4 4 0 0), (ws bq), _, _, _, rfl, ?_, ok_out (d := default) (by decide +kernel), ?_⟩ <;> (first | decide +kernel | ((repeat (first | unfold Seq.Ready | unfold Seq.Writable)); first | decide +kernel | (intro _ h; cases h <;> decide +kernel)))

theorem wit_ScalarLoads_1 :
    ∃ (i : Instr) (s : State) (o : LoadOp) (l : Leaf) (p : Copy Nat),
    (loadOp i = some o) ∧ (
    let va := o.va s.me
    let x := l.pa va / 128
    let c := s.cur / 32
    let t := max s.me.pts p.wts
    let r := loaded o.n o.signed (lineField (overlay s.me.buffers (.line x) p.data) (l.pa va % 128) o.n)
    (s.me.Ready [.g o.d.toNat, .g o.a.toNat]) ∧ (
    (va % o.n = 0) ∧ (
    (Cached s va .read false l) ∧ (
    (Leaf.Plain l) ∧ (
    ((tierOf (l.pa va) = .hbm ∨ tierOf (l.pa va) = .lpddr)) ∧ (
    (s.copy c x = some p) ∧ (
    (p.poison = false) ∧ (
    ((p.own = true ∨ t ≤ p.rts)) ∧ (
    (Storable s t) ∧ (
    (commitLocked s.cur x s = false) ∧ (
    ((∀ st, s.me.strip = some st → st.ownMode = false ∧ st.reads.length < 2048)) ∧ (
    (s.Fresh) ∧ (
    (s.me.Writable o.d.toNat r)))))))))))))) := by
    refine ⟨(.ldo 4 4 0 7 1 3), (ws bq), _, leaf7, copy7, rfl, ?_, ?_, ?_, ?_, ?_, some_out (by decide +kernel), ?_, ?_, ?_, ?_, ?_, ?_, ?_⟩ <;> (first | decide +kernel | ((repeat (first | unfold Storable | unfold Cached | unfold Leaf.Plain | unfold Seq.Ready | unfold Seq.Writable | unfold State.Fresh)); first | decide +kernel | (intro _ h; cases h <;> decide +kernel)))

theorem wit_ScalarStores_0 :
    ∃ (i : Instr) (s t : State) (o : StoreOp),
    (storeOp i = some o) ∧ (
    (s.me.Ready [.g o.d.toNat, .g o.a.toNat]) ∧ (
    ((∀ c, o.rel = some c → s.me.Closed ∧ Released c s)) ∧ (
    (storeAt (o.va s.me) o.n (s.me.gRead o.d.toNat).toNat s = .ok () t)))) := by
    refine ⟨(.std 5 4 0 0), (ws bq), _, _, rfl, ?_, ?_, ok_out (d := default) (by decide +kernel)⟩ <;> (first | decide +kernel | ((repeat (first | unfold Seq.Ready | unfold Seq.Closed | unfold Released)); first | decide +kernel | (intro _ h; cases h <;> decide +kernel)))

theorem wit_ScalarStores_1 :
    ∃ (i : Instr) (s : State) (o : StoreOp) (l : Leaf) (p : Copy Nat),
    (storeOp i = some o) ∧ (
    let va := o.va s.me
    let x := l.pa va / 128
    let c := s.cur / 32
    let T := max s.me.pts (p.rts + 1)
    (s.me.Ready [.g o.d.toNat, .g o.a.toNat]) ∧ (
    ((∀ c, o.rel = some c → s.me.Closed ∧ Released c s)) ∧ (
    (Storable s T) ∧ (
    (va % o.n = 0) ∧ (
    (Cached s va .write true l) ∧ (
    (Leaf.Plain l) ∧ (
    ((tierOf (l.pa va) = .hbm ∨ tierOf (l.pa va) = .lpddr)) ∧ (
    (s.copy c x = some p) ∧ (
    (p.own = true) ∧ (
    (p.forRead = false) ∧ (
    (p.poison = false) ∧ (
    (holders c x s = []) ∧ (
    (s.me.strip = none) ∧ (
    (s.me.phase = []) ∧ (
    (s.me.commit = none) ∧ (
    (s.me.holds = []))))))))))))))))) := by
    refine ⟨(.sto 5 4 0 4 3), (ws bq), _, leaf7, copy7, rfl, ?_, ?_, ?_, ?_, ?_, ?_, ?_, some_out (by decide +kernel), ?_, ?_, ?_, ?_, ?_, ?_, ?_, ?_⟩ <;> (first | decide +kernel | ((repeat (first | unfold Storable | unfold Released | unfold Cached | unfold Leaf.Plain | unfold Seq.Ready | unfold Seq.Closed)); first | decide +kernel | (intro _ h; cases h <;> decide +kernel)))

theorem wit_ScalarStores_2 :
    ∃ (i : Instr) (s : State) (o : StoreOp) (l : Leaf) (st : Strip),
    (storeOp i = some o) ∧ (
    (o.rel = none) ∧ (
    let va := o.va s.me
    (s.me.Ready [.g o.d.toNat, .g o.a.toNat]) ∧ (
    (va % o.n = 0) ∧ (
    (Cached s va .write false l) ∧ (
    (l.mv = false) ∧ (
    (l.ph = false) ∧ (
    ((tierOf (l.pa va) = .hbm ∨ tierOf (l.pa va) = .lpddr)) ∧ (
    (s.me.strip = some st) ∧ (
    (s.me.buffered + 8 ≤ 131072) ∧ (
    (SliceRoom s (l.pa va / 128) 8))))))))))) := by
    refine ⟨(.stb 5 4 0 127), stripped, _, leaf7, _, rfl, ?_, ?_, ?_, ?_, ?_, ?_, ?_, some_out (by decide +kernel), ?_, ?_⟩ <;> (first | decide +kernel | ((repeat (first | unfold SliceRoom | unfold Cached | unfold Seq.Ready)); first | decide +kernel | (intro _ h; cases h <;> decide +kernel)))

theorem wit_ScalarTraps_0 :
    ∃ (i : Instr) (s : State),
    (Handled s.me) ∧ (
    (s.Fresh) ∧ (
    ∃ o,
    (loadOp i = some o) ∧ (
    (s.me.Ready [.g o.d.toNat, .g o.a.toNat]) ∧ (
    (o.va s.me % o.n ≠ 0))))) := by
    refine ⟨(.ldh 3 4 0 1), hs, ?_, ?_, _, rfl, ?_, ?_⟩ <;> (first | decide +kernel | ((repeat (first | unfold Handled | unfold Seq.Ready | unfold State.Fresh)); first | decide +kernel | (intro _ h; cases h <;> decide +kernel)))

theorem wit_ScalarTraps_1 :
    ∃ (i : Instr) (s : State),
    (Handled s.me) ∧ (
    (s.Fresh) ∧ (
    ∃ o,
    (storeOp i = some o) ∧ (
    (s.me.Ready [.g o.d.toNat, .g o.a.toNat]) ∧ (
    ((o.rel.isSome = true → s.me.Closed)) ∧ (
    (o.va s.me % o.n ≠ 0)))))) := by
    refine ⟨(.std 3 4 0 1), hs, ?_, ?_, _, rfl, ?_, ?_, ?_⟩ <;> (first | decide +kernel | ((repeat (first | unfold Handled | unfold Seq.Ready | unfold State.Fresh | unfold Seq.Closed)); first | decide +kernel | (intro _ h; cases h <;> decide +kernel)))

theorem wit_ScalarTraps_2 :
    ∃ (i : Instr) (s : State),
    (Handled s.me) ∧ (
    (s.Fresh) ∧ (
    ∃ d a e m,
    (i = .sld d a e m ∨ i = .sst d a e m) ∧ (
    (s.me.Ready [.g d.toNat, .g a.toNat]) ∧ (
    let o := offsetOf a m s.me
    (o % 8 ≠ 0))))) := by
    refine ⟨(.sst 3 4 0 1), hs, ?_, ?_, _, _, _, _, .inr rfl, ?_, ?_⟩ <;> (first | decide +kernel | ((repeat (first | unfold Handled | unfold Seq.Ready | unfold State.Fresh)); first | decide +kernel | (intro _ h; cases h <;> decide +kernel)))

theorem wit_ScalarTraps_3 :
    ∃ (i : Instr) (s : State),
    (Handled s.me) ∧ (
    (s.Fresh) ∧ (
    ∃ d a e m,
    (i = .sld d a e m ∨ i = .sst d a e m) ∧ (
    (s.me.Ready [.g d.toNat, .g a.toNat]) ∧ (
    let o := offsetOf a m s.me
    (o % 8 = 0) ∧ (
    (s.me.n.stage < o + 8)))))) := by
    refine ⟨(.sld 3 0 0 1024), hs, ?_, ?_, _, _, _, _, .inl rfl, ?_, ?_, ?_⟩ <;> (first | decide +kernel | ((repeat (first | unfold Handled | unfold Seq.Ready | unfold State.Fresh)); first | decide +kernel | (intro _ h; cases h <;> decide +kernel)))

theorem wit_ScalarTraps_4 :
    ∃ (i : Instr) (s : State),
    (Handled s.me) ∧ (
    (s.Fresh) ∧ (
    ∃ d a e m,
    (i = .jr a e m ∨ i = .callr d a e m) ∧ (
    (s.me.Ready [.g d.toNat, .g a.toNat]) ∧ (
    (offsetOf a m s.me % 4 ≠ 0))))) := by
    refine ⟨(.callr 31 4 0 2), hs, ?_, ?_, _, _, _, _, .inr rfl, ?_, ?_⟩ <;> (first | decide +kernel | ((repeat (first | unfold Handled | unfold Seq.Ready | unfold State.Fresh)); first | decide +kernel | (intro _ h; cases h <;> decide +kernel)))

theorem wit_ScalarTraps_5 :
    ∃ (i : Instr) (s : State),
    (Handled s.me) ∧ (
    (s.Fresh) ∧ (
    ∃ d a e l p x,
    (i = .ext d a e x l p ∨ i = .ins d a e l p) ∧ (
    (s.me.Ready [.g d.toNat, .g a.toNat]) ∧ (
    (64 < p.toNat + (l.toNat + 1)))))) := by
    refine ⟨(.ext 3 4 0 1 63 1), hs, ?_, ?_, _, _, _, _, _, _, .inl rfl, ?_, ?_⟩ <;> (first | decide +kernel | ((repeat (first | unfold Handled | unfold Seq.Ready | unfold State.Fresh)); first | decide +kernel | (intro _ h; cases h <;> decide +kernel)))

theorem wit_ScalarTraps_6 :
    ∃ (i : Instr) (s : State),
    (Handled s.me) ∧ (
    (s.Fresh) ∧ (
    ∃ a e o,
    (i = .loop a e o) ∧ (
    (s.me.Ready [.g a.toNat]) ∧ (
    (o.toInt < 1 ∨ 65536 < o.toInt ∨ 16777215 < (s.me.gRead a.toNat).toNat ∨ (s.me.gRead a.toNat ≠ 0 ∧ 6 ≤ s.me.loops.length)))))) := by
    refine ⟨(.loop 0 0 65537), hs, ?_, ?_, _, _, _, rfl, ?_, ?_⟩ <;> (first | decide +kernel | ((repeat (first | unfold Handled | unfold Seq.Ready | unfold State.Fresh)); first | decide +kernel | (intro _ h; cases h <;> decide +kernel)))

theorem wit_ScalarTraps_7 :
    ∃ (i : Instr) (s : State),
    (Handled s.me) ∧ (
    (s.Fresh) ∧ (
    ∃ d k,
    ((i = .lbrk k ∧ (k = 0 ∨ s.me.loops.length < k.toNat)) ∨
        (i = .lidx d k ∧ s.me.Ready [.g d.toNat] ∧ s.me.loops.length ≤ k.toNat) ∨ (i = .lcont ∧ s.me.loops = [])))) := by
    refine ⟨(.lbrk 1), hs, ?_, ?_, 0, _, .inl ⟨rfl, .inr (by decide +kernel)⟩⟩ <;> (first | decide +kernel | ((repeat (first | unfold Handled | unfold Seq.Ready | unfold State.Fresh)); first | decide +kernel | (intro _ h; cases h <;> decide +kernel)))

theorem wit_ScalarTraps_8 :
    ∃ (i : Instr) (s : State),
    (Handled s.me) ∧ (
    (s.Fresh) ∧ (
    ∃ o,
    (scalarOp i = some o ∨ floatResult i = some o ∨ lateResult i = some o) ∧ (
    (o.ok = true) ∧ (
    (s.me.Ready (.g o.d :: o.srcs)) ∧ (
    (o.d = 31) ∧ (
    (s.me.c.slim ≠ 0) ∧ (
    ((o.value s.me).toNat < s.me.c.slim.toNat)))))))) := by
    refine ⟨(.divi 31 4 0 4095), limited, ?_, ?_, _, .inr (.inr rfl), ?_, ?_, ?_, ?_, ?_⟩ <;> (first | decide +kernel | ((repeat (first | unfold Handled | unfold Seq.Ready | unfold State.Fresh)); first | decide +kernel | (intro _ h; cases h <;> decide +kernel)))

theorem wit_StageAccessAndBanks_0 :
    ∃ (s : State) (d a : BitVec 5) (e : BitVec 1) (i : BitVec 13),
    (s.me.Ready [.g d.toNat, .g a.toNat]) ∧ (
    (s.Fresh) ∧ (
    (StageOk s.me (offsetOf a i s.me) 8) ∧ (
    let op (act : StageAct) (x : DWord) : StageOp :=
      { die := dieOfSeq s.cur, off := s.me.n.stgbase + offsetOf a i s.me, size := 8, act := act, s := x, s2 := 0,
        clock := s.me.pts, k := s.cur, dest := none }
    let asked (act : StageAct) (x : DWord) : State :=
      (s.updMe fun q => { q with note := some (q.note.getD {}), wait := .stage }).post (.stageBankOperation (op act x))
    (s.me.note.bind Note.value = none)))) := by
    refine ⟨(sq (hqAt 1016)), 3, 4, 0, 0, ?_, ?_, ?_, ?_⟩ <;> (first | decide +kernel | ((repeat (first | unfold Seq.Ready | unfold State.Fresh | unfold StageOk)); first | decide +kernel | (intro _ h; cases h <;> decide +kernel)))

theorem wit_StageAccessAndBanks_1 :
    ∃ (s : State) (d a : BitVec 5) (e : BitVec 1) (i : BitVec 13),
    (s.me.Ready [.g d.toNat, .g a.toNat]) ∧ (
    (s.Fresh) ∧ (
    (StageOk s.me (offsetOf a i s.me) 8) ∧ (
    let op (act : StageAct) (x : DWord) : StageOp :=
      { die := dieOfSeq s.cur, off := s.me.n.stgbase + offsetOf a i s.me, size := 8, act := act, s := x, s2 := 0,
        clock := s.me.pts, k := s.cur, dest := none }
    let asked (act : StageAct) (x : DWord) : State :=
      (s.updMe fun q => { q with note := some (q.note.getD {}), wait := .stage }).post (.stageBankOperation (op act x))
    ∃ v,
    (s.me.note.bind Note.value = some v) ∧ (
    ∃ r : DWord,
    (s.me.Writable d.toNat r) ∧ (
    ((∀ j, j < 8 → BitVec.ofNat 8 (r.toNat / 2 ^ (8 * j)) =
        ownStage s.me (stagePlace s (offsetOf a i s.me) + j) (BitVec.ofNat 8 (v.toNat / 2 ^ (8 * j)))))))))) := by
    refine ⟨answered, 3, 4, 0, 0, ?_, ?_, ?_, _, some_out (by decide +kernel), 9, ?_, by decide +kernel⟩ <;> (first | decide +kernel | ((repeat (first | unfold Seq.Ready | unfold Seq.Writable | unfold State.Fresh | unfold StageOk)); first | decide +kernel | (intro _ h; cases h <;> decide +kernel)))

theorem wit_StageAccessAndBanks_2 :
    ∃ (s : State) (d a : BitVec 5) (e : BitVec 1) (i : BitVec 13),
    (s.me.Ready [.g d.toNat, .g a.toNat]) ∧ (
    (s.Fresh) ∧ (
    (StageOk s.me (offsetOf a i s.me) 8) ∧ (
    let op (act : StageAct) (x : DWord) : StageOp :=
      { die := dieOfSeq s.cur, off := s.me.n.stgbase + offsetOf a i s.me, size := 8, act := act, s := x, s2 := 0,
        clock := s.me.pts, k := s.cur, dest := none }
    let asked (act : StageAct) (x : DWord) : State :=
      (s.updMe fun q => { q with note := some (q.note.getD {}), wait := .stage }).post (.stageBankOperation (op act x))
    (s.me.strip = none) ∧ (
    (s.me.note.bind Note.value = none))))) := by
    refine ⟨(sq (hqAt 1016)), 3, 4, 0, 0, ?_, ?_, ?_, ?_, ?_⟩ <;> (first | decide +kernel | ((repeat (first | unfold Seq.Ready | unfold State.Fresh | unfold StageOk)); first | decide +kernel | (intro _ h; cases h <;> decide +kernel)))

theorem wit_StageAccessAndBanks_3 :
    ∃ (s : State) (d a : BitVec 5) (e : BitVec 1) (i : BitVec 13),
    (s.me.Ready [.g d.toNat, .g a.toNat]) ∧ (
    (s.Fresh) ∧ (
    (StageOk s.me (offsetOf a i s.me) 8) ∧ (
    let op (act : StageAct) (x : DWord) : StageOp :=
      { die := dieOfSeq s.cur, off := s.me.n.stgbase + offsetOf a i s.me, size := 8, act := act, s := x, s2 := 0,
        clock := s.me.pts, k := s.cur, dest := none }
    let asked (act : StageAct) (x : DWord) : State :=
      (s.updMe fun q => { q with note := some (q.note.getD {}), wait := .stage }).post (.stageBankOperation (op act x))
    (s.me.strip = none) ∧ (
    ((s.me.note.bind Note.value).isSome = true))))) := by
    refine ⟨answered, 3, 4, 0, 0, ?_, ?_, ?_, ?_, ?_⟩ <;> (first | decide +kernel | ((repeat (first | unfold Seq.Ready | unfold State.Fresh | unfold StageOk)); first | decide +kernel | (intro _ h; cases h <;> decide +kernel)))

theorem wit_StageAccessAndBanks_4 :
    ∃ (s : State) (d a : BitVec 5) (e : BitVec 1) (i : BitVec 13),
    (s.me.Ready [.g d.toNat, .g a.toNat]) ∧ (
    (s.Fresh) ∧ (
    (StageOk s.me (offsetOf a i s.me) 8) ∧ (
    let op (act : StageAct) (x : DWord) : StageOp :=
      { die := dieOfSeq s.cur, off := s.me.n.stgbase + offsetOf a i s.me, size := 8, act := act, s := x, s2 := 0,
        clock := s.me.pts, k := s.cur, dest := none }
    let asked (act : StageAct) (x : DWord) : State :=
      (s.updMe fun q => { q with note := some (q.note.getD {}), wait := .stage }).post (.stageBankOperation (op act x))
    ∃ st,
    (s.me.strip = some st) ∧ (
    (s.me.buffered + 8 ≤ 131072))))) := by
    refine ⟨stageStrip, 3, 4, 0, 0, ?_, ?_, ?_, _, some_out (by decide +kernel), ?_⟩ <;> (first | decide +kernel | ((repeat (first | unfold Seq.Ready | unfold State.Fresh | unfold StageOk)); first | decide +kernel | (intro _ h; cases h <;> decide +kernel)))

theorem wit_StageAccessAndBanks_5 :
    ∃ (s : State) (o : StageOp),
    (s.Canonical) := by
    refine ⟨hs, { die := 3, off := 2 ^ 26 - 8, size := 8, act := .load, s := 0, s2 := 0, clock := 0, k := 5, dest := none }, ?_⟩ <;> (first | decide +kernel | ((repeat (first | unfold State.Canonical)); first | decide +kernel | (intro _ h; cases h <;> decide +kernel)))

theorem wit_StageAccessAndBanks_6 :
    ∃ (s : State) (k bt : Nat) (r : Option DWord),
    ∃ n,
    ((s.seq k).note = some n) ∧ (
    ((s.seq k).wait = .stage)) := by
    refine ⟨stageWaits, 5, 7, none, _, some_out (by decide +kernel), ?_⟩ <;> decide +kernel

theorem wit_StageAccessAndBanks_7 :
    ∃ (s : State) (k bt : Nat) (r : Option DWord),
    ((s.seq k).wait ≠ .stage) := by
    refine ⟨hs, 5, 7, none, ?_⟩ <;> decide +kernel

theorem wit_PrefetchesComplete_0 :
    ∃ (s : State) (kd a : BitVec 5) (e : BitVec 1) (i : BitVec 13),
    (s.me.Ready [.g a.toNat]) := by
    refine ⟨hs, 31, 4, 0, 8191, ?_⟩ <;> (first | decide +kernel | ((repeat (first | unfold Seq.Ready)); first | decide +kernel | (intro _ h; cases h <;> decide +kernel)))

theorem wit_PrefetchesComplete_1 :
    ∃ (s : State) (a : BitVec 5) (e : BitVec 1) (t : BitVec 4) (k : BitVec 2),
    (t.toNat < 15) ∧ (
    (s.me.Ready (.g a.toNat :: maskRegs s.me))) := by
    refine ⟨hs, 4, 0, 14, 3, ?_, ?_⟩ <;> (first | decide +kernel | ((repeat (first | unfold Seq.Ready)); first | decide +kernel | (intro _ h; cases h <;> decide +kernel)))

theorem wit_VectorElementResult_0 :
    ∃ (i : Instr) (s : State) (o : VecOp),
    (vecOp i = some o) ∧ (
    (o.ok = true) ∧ (
    ((∀ w ∈ o.widths, w ≤ s.me.c.sewBits)) ∧ (
    (s.me.Ready (.v o.d :: (o.srcs ++ maskRegs s.me))) ∧ (
    (s.Fresh))))) := by
    refine ⟨(.vadd 7 1 2 0 0 6 1), vs, _, rfl, ?_, ?_, ?_, ?_⟩ <;> (first | decide +kernel | ((repeat (first | unfold Seq.Ready | unfold State.Fresh)); first | decide +kernel | (intro _ h; cases h <;> decide +kernel)))

theorem wit_PredicateResults_0 :
    ∃ (i : Instr) (s : State) (o : PredOp),
    (predOp i = some o) ∧ (
    (o.ok = true) ∧ (
    ((∀ w ∈ o.widths, w ≤ s.me.c.sewBits)) ∧ (
    (s.me.Ready (.p o.d :: (o.srcs ++ if o.masked then maskRegs s.me else []))) ∧ (
    (s.Fresh))))) := by
    refine ⟨(.vcmps 7 1 4 0 0 6 2), vs, _, rfl, ?_, ?_, ?_, ?_⟩ <;> (first | decide +kernel | ((repeat (first | unfold Seq.Ready | unfold State.Fresh)); first | decide +kernel | (intro _ h; cases h <;> decide +kernel)))

theorem wit_PredicateResults_1 :
    ∃ (i : Instr) (s : State) (o : MoveOp),
    (moveOp i = some o) ∧ (
    (o.ok s.me = true) ∧ (
    (s.me.Ready o.regs) ∧ (
    (s.Fresh)))) := by
    refine ⟨(.ppack 7), vs, _, rfl, ?_, ?_, ?_⟩ <;> (first | decide +kernel | ((repeat (first | unfold Seq.Ready | unfold State.Fresh)); first | decide +kernel | (intro _ h; cases h <;> decide +kernel)))

theorem wit_CrossElementResults_0 :
    ∃ (i : Instr) (s : State) (o : CrossOp),
    (crossOp i = some o) ∧ (
    (o.ok = true) ∧ (
    (o.w ≤ s.me.c.sewBits) ∧ (
    (s.me.Ready (.v o.d :: (o.srcs ++ if o.masked then maskRegs s.me else []))) ∧ (
    (s.Fresh))))) := by
    refine ⟨(.viota 7 0 0 6 1), vs, _, rfl, ?_, ?_, ?_, ?_⟩ <;> (first | decide +kernel | ((repeat (first | unfold Seq.Ready | unfold State.Fresh)); first | decide +kernel | (intro _ h; cases h <;> decide +kernel)))

theorem wit_CrossElementResults_1 :
    ∃ (i : Instr) (s : State) (o : GatherOp),
    (gatherOp i = some o) ∧ (
    (o.ok = true) ∧ (
    ((∀ w ∈ o.widths, w ≤ s.me.c.sewBits)) ∧ (
    (s.me.Ready (.g o.d :: (o.srcs ++ if o.masked then maskRegs s.me else []))) ∧ (
    (s.me.Writable o.d (o.value s.me)) ∧ (
    (s.Fresh)))))) := by
    refine ⟨(.vdot 31 1 7 0 0 2), vs, _, rfl, ?_, ?_, ?_, ?_, ?_⟩ <;> (first | decide +kernel | ((repeat (first | unfold Seq.Ready | unfold Seq.Writable | unfold State.Fresh)); first | decide +kernel | (intro _ h; cases h <;> decide +kernel)))

theorem wit_VectorConfiguration_1 :
    ∃ (s : State) (n : BitVec 3),
    (n.toNat ≤ 5) ∧ (
    (s.me.Closed) ∧ (
    (s.Fresh))) := by
    refine ⟨hs, 5, ?_, ?_, ?_⟩ <;> (first | decide +kernel | ((repeat (first | unfold State.Fresh | unfold Seq.Closed)); first | decide +kernel | (intro _ h; cases h <;> decide +kernel)))

theorem wit_VectorConfiguration_2 :
    ∃ (i : Instr) (s : State) (d : BitVec 5) (rs : List RegRef) (n : Nat) (w : BitVec 2),
    (setvlOp s i = some (d, rs, n, w)) ∧ (
    (s.me.Closed) ∧ (
    (s.me.Ready rs) ∧ (
    (s.me.preempt = none) ∧ (
    (s.me.Writable d.toNat (BitVec.ofNat 64 (granted s.me n w))) ∧ (
    (s.Fresh)))))) := by
    refine ⟨(.setvl 31 4 0 2), vs, _, _, _, _, rfl, ?_, ?_, ?_, ?_, ?_⟩ <;> (first | decide +kernel | ((repeat (first | unfold Seq.Ready | unfold Seq.Closed | unfold Seq.Writable | unfold State.Fresh)); first | decide +kernel | (intro _ h; cases h <;> decide +kernel)))

theorem wit_SimpleInstructions_0 :
    ∃ (i : Instr) (s : State) (o : SimpleOp),
    (simpleOp i = some o) ∧ (
    (s.me.Ready o.regs) ∧ (
    ((o.closes = true → s.me.Closed)) ∧ (
    (o.ok s) ∧ (
    (s.Fresh))))) := by
    refine ⟨.fencei, hs, _, rfl, ?_, ?_, by show ∀ k ∈ hs.cur :: hs.me.came, (hs.seq k).peerOut = []; decide +kernel, ?_⟩ <;> (first | decide +kernel | ((repeat (first | unfold Seq.Ready | unfold State.Fresh | unfold Seq.Closed)); first | decide +kernel | (intro _ h; cases h <;> decide +kernel)))

theorem wit_TrapInstructions_0 :
    ∃ (s : State),
    (Handled s.me) ∧ (
    (s.Fresh)) := by
    refine ⟨hs, ?_, ?_⟩ <;> (first | decide +kernel | ((repeat (first | unfold Handled | unfold State.Fresh)); first | decide +kernel | (intro _ h; cases h <;> decide +kernel)))

theorem wit_TrapInstructions_1 :
    ∃ (s : State),
    (Handled s.me) ∧ (
    (s.Fresh) ∧ (
    ∃ i : BitVec 19,
    (s.me.Closed))) := by
    refine ⟨hs, ?_, ?_, 0x7FFFF, ?_⟩ <;> (first | decide +kernel | ((repeat (first | unfold Handled | unfold State.Fresh | unfold Seq.Closed)); first | decide +kernel | (intro _ h; cases h <;> decide +kernel)))

theorem wit_TrapInstructions_2 :
    ∃ (s : State),
    (Handled s.me) ∧ (
    (s.Fresh) ∧ (
    ∃ i : BitVec 19,
    (s.me.Closed))) := by
    refine ⟨hs, ?_, ?_, 0x7FFFF, ?_⟩ <;> (first | decide +kernel | ((repeat (first | unfold Handled | unfold State.Fresh | unfold Seq.Closed)); first | decide +kernel | (intro _ h; cases h <;> decide +kernel)))

theorem wit_TrapInstructions_3 :
    ∃ (s : State),
    (Handled s.me) ∧ (
    (s.Fresh) ∧ (
    ∃ (a : BitVec 5) (e : BitVec 1) (i : BitVec 13),
    (s.me.Closed) ∧ (
    (s.me.Ready [.g a.toNat]) ∧ (
    (s.me.gRead a.toNat ≠ 0))))) := by
    refine ⟨hs, ?_, ?_, 4, 0, 0x1FFF, ?_, ?_, ?_⟩ <;> (first | decide +kernel | ((repeat (first | unfold Handled | unfold Seq.Ready | unfold State.Fresh | unfold Seq.Closed)); first | decide +kernel | (intro _ h; cases h <;> decide +kernel)))

theorem wit_TrapInstructions_4 :
    ∃ (s : State),
    (s.me.Closed) ∧ (
    (s.Fresh) ∧ (
    (s.me.n.intrap = true))) := by
    refine ⟨handling, ?_, ?_, ?_⟩ <;> (first | decide +kernel | ((repeat (first | unfold State.Fresh | unfold Seq.Closed)); first | decide +kernel | (intro _ h; cases h <;> decide +kernel)))

theorem wit_TrapInstructions_5 :
    ∃ (s : State),
    (s.me.Closed) ∧ (
    (s.Fresh) ∧ (
    (s.me.n.intrap = false) ∧ (
    (s.me.n.tvec ≠ 0)))) := by
    refine ⟨hs, ?_, ?_, ?_, ?_⟩ <;> (first | decide +kernel | ((repeat (first | unfold State.Fresh | unfold Seq.Closed)); first | decide +kernel | (intro _ h; cases h <;> decide +kernel)))

theorem wit_TrapsTaken_0 :
    ∃ (s : State) (k : Agent) (st : Strip) (c v : Nat),
    ((s.seq k).strip = some st) ∧ (
    ((s.seq k).n.tvec ≠ 0) ∧ (
    ((s.seq k).n.intrap = false))) := by
    refine ⟨stripped, 5, _, 0x0C, 0, some_out (by decide +kernel), ?_, ?_⟩ <;> decide +kernel

theorem wit_TrapsTaken_1 :
    ∃ (s : State) (k : Agent) (c v : Nat) (b : Binding) (x : Ctx),
    ((s.seq k).bound = some b) ∧ (
    ((s.seq k).strip = none) ∧ (
    (((s.seq k).n.tvec = 0 ∨ (s.seq k).n.intrap = true)) ∧ (
    ((s.vi b.vi).ctxs.find b.cid = some x)))) := by
    refine ⟨orphan, 5, 0x0C, 0, _, _, some_out (by decide +kernel), ?_, ?_, some_out (by decide +kernel)⟩ <;> decide +kernel

theorem wit_TrapsTaken_2 :
    ∃ (s : State) (k : Agent) (c v : Nat) (b : Binding) (x : Ctx),
    ((s.seq k).bound = some b) ∧ (
    ((s.seq k).strip = none) ∧ (
    (((s.seq k).n.tvec = 0 ∨ (s.seq k).n.intrap = true)) ∧ (
    ((s.vi b.vi).ctxs.find b.cid = some x) ∧ (
    let t := takeTrap k c v s
    ∃ n Q,
    ((t.vi b.vi).queues.find n = some Q) ∧ (
    (Q.ctx = b.cid)))))) := by
    refine ⟨orphan, 5, 0x0C, 0, _, _, some_out (by decide +kernel), ?_, ?_, some_out (by decide +kernel), 0, _, some_out (by decide +kernel), ?_⟩ <;> decide +kernel

theorem wit_VectorLoads_0 :
    ∃ (i : Instr) (s t : State) (o : VMemOp) (f : Flow),
    (vmemOp i = some o) ∧ (
    (o.acc.t < 15) ∧ (
    (s.me.Ready (o.needs s.me)) ∧ (
    (o.access s = .ok f t)))) := by
    refine ⟨(.vld 7 4 0 2), (ws vbq), _, _, _, rfl, ?_, ?_, ok_out (d := Flow.next) (by decide +kernel)⟩ <;> (first | decide +kernel | ((repeat (first | unfold Seq.Ready)); first | decide +kernel | (intro _ h; cases h <;> decide +kernel)))

theorem wit_VectorLoads_1 :
    ∃ (i : Instr) (s : State) (o : VMemOp),
    (vmemOp i = some o) ∧ (
    (o.slot = false) ∧ (
    (o.acc.t < 15) ∧ (
    (s.me.Ready (o.needs s.me)) ∧ (
    (typeBits o.acc.t ≤ s.me.c.sewBits) ∧ (
    (pendingElems s.me true = []) ∧ (
    (s.Fresh))))))) := by
    refine ⟨(.vld 7 4 0 2), (ws { vbq with c := { vbq.c with vl := 0 } }), _, rfl, ?_, ?_, ?_, ?_, ?_, ?_⟩ <;> (first | decide +kernel | ((repeat (first | unfold Seq.Ready | unfold State.Fresh)); first | decide +kernel | (intro _ h; cases h <;> decide +kernel)))

theorem wit_VectorLoads_2 :
    ∃ (i : Instr) (s : State) (o : VMemOp) (lb l : Leaf) (p : Copy Nat) (at_ : Nat),
    (vmemOp i = some o) ∧ (
    (o.store = false) ∧ (
    let q := s.me
    let T := max q.pts p.wts
    (PlainVector o q) ∧ (
    (RawBase s (q.gRead o.acc.a).toNat .read lb) ∧ (
    (InOneLine o q at_) ∧ (
    (LineRaw s at_ .read l p) ∧ (
    ((p.own = true ∨ T ≤ p.rts)) ∧ (
    (Storable s T)))))))) := by
    refine ⟨(.vldsg 6 4 0 2 1), (ws vbq), _, leaf7, leaf7, copy7, 0x7080, rfl, ?_, ?_, ?_, inOneLine_of (by decide +kernel) (by decide +kernel), ?_, ?_, ?_⟩ <;> (first | decide +kernel | ((repeat (first | unfold Storable | unfold RawBase | unfold InOneLine | unfold PlainVector | unfold LineRaw | unfold Cached | unfold Calm | unfold Seq.Ready | unfold LineHeld | unfold Leaf.Plain)); first | decide +kernel | (intro _ h; cases h <;> decide +kernel)))

theorem wit_VectorStores_0 :
    ∃ (i : Instr) (s : State) (o : VMemOp) (lb l : Leaf) (p : Copy Nat) (at_ : Nat),
    (vmemOp i = some o) ∧ (
    (o.store = true) ∧ (
    let q := s.me
    let x := l.pa at_ / 128
    let c := s.cur / 32
    (PlainVector o q) ∧ (
    (RawBase s (q.gRead o.acc.a).toNat .write lb) ∧ (
    (InOneLine o q at_) ∧ (
    (LineRaw s at_ .write l p) ∧ (
    (p.own = true) ∧ (
    (p.forRead = false) ∧ (
    (holders c x s = []) ∧ (
    (Storable s (max q.pts (p.rts + 1)))))))))))) := by
    refine ⟨(.vst 6 4 0 2), (ws vbq), _, leaf7, leaf7, copy7, 0x7080, rfl, ?_, ?_, ?_, inOneLine_of (by decide +kernel) (by decide +kernel), ?_, ?_, ?_, ?_, ?_⟩ <;> (first | decide +kernel | ((repeat (first | unfold Storable | unfold RawBase | unfold InOneLine | unfold PlainVector | unfold LineRaw | unfold Cached | unfold Calm | unfold Seq.Ready | unfold LineHeld | unfold Leaf.Plain)); first | decide +kernel | (intro _ h; cases h <;> decide +kernel)))

theorem wit_VectorStageAccess_0 :
    ∃ (i : Instr) (s : State) (o : VMemOp),
    (vmemOp i = some o) ∧ (
    (o.stage = true) ∧ (
    (o.store = false) ∧ (
    (o.acc.t < 15) ∧ (
    (s.me.Ready (o.needs s.me)) ∧ (
    (StageReachable o s.me) ∧ (
    (s.Fresh))))))) := by
    refine ⟨(.vlds 6 0 0 2), vs, _, rfl, ?_, ?_, ?_, ?_, ?_, ?_⟩ <;> (first | decide +kernel | ((repeat (first | unfold Seq.Ready | unfold State.Fresh | unfold StageReachable)); first | decide +kernel | (intro _ h; cases h <;> decide +kernel)))

theorem wit_VectorStageAccess_1 :
    ∃ (i : Instr) (s : State) (o : VMemOp),
    (vmemOp i = some o) ∧ (
    (o.stage = true) ∧ (
    (o.store = true) ∧ (
    (o.acc.t < 15) ∧ (
    (s.me.Ready (o.needs s.me)) ∧ (
    (StageReachable o s.me) ∧ (
    (s.Fresh) ∧ (
    (s.Canonical) ∧ (
    ((s.me.strip.isSome = true → s.me.buffered + 8 * (elemsNow s.me true).length ≤ 131072)))))))))) := by
    refine ⟨(.vsts 6 7 0 2), vs, _, rfl, ?_, ?_, ?_, ?_, ?_, ?_, ?_, ?_⟩ <;> (first | decide +kernel | ((repeat (first | unfold Seq.Ready | unfold State.Fresh | unfold State.Canonical | unfold StageReachable)); first | decide +kernel | (intro _ h; cases h <;> decide +kernel)))

theorem wit_SpillAndFill_0 :
    ∃ (s : State) (v a : BitVec 5) (e : BitVec 1) (L : Nat → Leaf) (P : Nat → Copy Nat),
    let base := (s.me.gRead a.toNat).toNat
    let n := 2 ^ s.me.c.sew
    let D := spanning base (16 + n * s.me.c.vl)
    (base % 64 = 0) ∧ (
    (base + 16 + n * s.me.c.vl ≤ 2 ^ 57) ∧ (
    (s.me.c.sew < 4) ∧ (
    (s.me.c.vl < 2 ^ 32) ∧ (
    (s.me.c.nvlog < 6) ∧ (
    (s.me.Ready [.g a.toNat, .v v.toNat]) ∧ (
    (s.me.strip = none) ∧ (
    (Calm s.me) ∧ (
    (BytesOwned s D .write L P))))))))) := by
    refine ⟨(ws spillQ), 7, 4, 0, (fun _ => leaf7), (fun _ => copy7), ?_, ?_, ?_, ?_, ?_, ?_, ?_, ?_, owned_of (by decide +kernel) (by decide +kernel) (by decide +kernel)⟩ <;> (first | decide +kernel | ((repeat (first | unfold Calm | unfold BytesOwned | unfold Seq.Ready | unfold StorableAfter | unfold LineOwned | unfold Storable | unfold LineHeld | unfold Cached | unfold Leaf.Plain)); first | decide +kernel | (intro _ h; cases h <;> decide +kernel)))

theorem wit_SpillAndFill_1 :
    ∃ (s : State) (v a : BitVec 5) (e : BitVec 1) (vl c : Nat) (L : Nat → Leaf) (P : Nat → Copy Nat),
    let base := (s.me.gRead a.toNat).toNat
    (base % 64 = 0) ∧ (
    (base + 16 + 2 ^ c * vl ≤ 2 ^ 57) ∧ (
    (s.me.Ready [.g a.toNat, .v v.toNat]) ∧ (
    (s.me.strip = none) ∧ (
    (Calm s.me) ∧ (
    (BytesOwned s (spanning base (16 + 2 ^ c * vl)) .read L P) ∧ (
    (vl < 2 ^ 32) ∧ (
    ((∀ i, i < 4 → heldByte P (base + i) = BitVec.ofNat 8 (vl / 256 ^ i))) ∧ (
    (heldByte P (base + 4) = BitVec.ofNat 8 c) ∧ (
    (c < 256) ∧ (
    (c ≤ 3 ∧ 2 ^ c * vl ≤ s.me.c.rlen ∧ heldByte P (base + 5) = BitVec.ofNat 8 s.me.c.nvlog ∧ s.me.c.nvlog < 6))))))))))) := by
    refine ⟨(filled 0x30200000002), 7, 4, 0, 2, 2, (fun _ => leaf7), (fun _ => filledCopy 0x30200000002), ?_, ?_, ?_, ?_, ?_, owned_of (by decide +kernel) (by decide +kernel) (by decide +kernel), ?_, ?_, ?_, ?_, ?_⟩ <;> (first | decide +kernel | ((repeat (first | unfold Calm | unfold BytesOwned | unfold Seq.Ready | unfold StorableAfter | unfold LineOwned | unfold Storable | unfold LineHeld | unfold Cached | unfold Leaf.Plain)); first | decide +kernel | (intro _ h; cases h <;> decide +kernel)))

theorem wit_SpillAndFill_2 :
    ∃ (s : State) (v a : BitVec 5) (e : BitVec 1) (vl c : Nat) (L : Nat → Leaf) (P : Nat → Copy Nat),
    let base := (s.me.gRead a.toNat).toNat
    (base % 64 = 0) ∧ (
    (base + 16 + 2 ^ c * vl ≤ 2 ^ 57) ∧ (
    (s.me.Ready [.g a.toNat, .v v.toNat]) ∧ (
    (s.me.strip = none) ∧ (
    (Calm s.me) ∧ (
    (BytesOwned s (spanning base (16 + 2 ^ c * vl)) .read L P) ∧ (
    (vl < 2 ^ 32) ∧ (
    ((∀ i, i < 4 → heldByte P (base + i) = BitVec.ofNat 8 (vl / 256 ^ i))) ∧ (
    (heldByte P (base + 4) = BitVec.ofNat 8 c) ∧ (
    (c < 256) ∧ (
    (3 < c) ∧ (
    (Handled s.me)))))))))))) := by
    refine ⟨(filled 0x400000002), 7, 4, 0, 2, 4, (fun _ => leaf7), (fun _ => filledCopy 0x400000002), ?_, ?_, ?_, ?_, ?_, owned_of (by decide +kernel) (by decide +kernel) (by decide +kernel), ?_, ?_, ?_, ?_, ?_, ?_⟩ <;> (first | decide +kernel | ((repeat (first | unfold Handled | unfold Calm | unfold BytesOwned | unfold Seq.Ready | unfold StorableAfter | unfold LineOwned | unfold Storable | unfold LineHeld | unfold Cached | unfold Leaf.Plain)); first | decide +kernel | (intro _ h; cases h <;> decide +kernel)))

theorem wit_WholeTileResult_0 :
    ∃ (i : Instr) (s : State) (o : TileOp),
    (tileOp i = some o) ∧ (
    (o.ok s.me = true) ∧ (
    (s.me.Ready (o.regs ++ if o.masked then maskRegs s.me else [])) ∧ (
    (s.me.Closed) ∧ (
    (ArrayFree s) ∧ (
    (s.Fresh)))))) := by
    refine ⟨(.tadd 7 7 0 13), vs, _, rfl, ?_, ?_, ?_, ?_, ?_⟩ <;> (first | decide +kernel | ((repeat (first | unfold Seq.Ready | unfold State.Fresh | unfold Seq.Closed | unfold ArrayFree)); first | decide +kernel | (intro _ h; cases h <;> decide +kernel)))

theorem wit_WholeTileResult_1 :
    ∃ (s : State) (d a b : BitVec 5) (e f : BitVec 1) (ty : BitVec 4) (v : BitVec 1),
    (8 ≤ ty.toNat ∧ ty.toNat ≤ 14) ∧ (
    (typeBits ty.toNat ≤ s.me.c.sewBits) ∧ (
    (s.me.c.vl ≤ 128) ∧ (
    ((s.me.gRead b.toNat).toNat ≤ 127) ∧ (
    (s.me.Ready ([.v d.toNat, .a a.toNat, .g b.toNat] ++ maskRegs s.me)) ∧ (
    (s.me.Closed) ∧ (
    (ArrayFree s) ∧ (
    (s.Fresh)))))))) := by
    refine ⟨vs, 7, 7, 6, 0, 0, 13, 0, ?_, ?_, ?_, ?_, ?_, ?_, ?_, ?_⟩ <;> (first | decide +kernel | ((repeat (first | unfold ArrayFree | unfold Seq.Ready | unfold Seq.Closed | unfold State.Fresh)); first | decide +kernel | (intro _ h; cases h <;> decide +kernel)))

theorem wit_WholeTileResult_2 :
    ∃ (s : State) (d : BitVec 5),
    (s.me.Ready [.g d.toNat]) ∧ (
    (s.me.Closed) ∧ (
    (ArrayFree s) ∧ (
    (s.Fresh) ∧ (
    ((s.latch s.cur).lm ≤ 128) ∧ (
    ((s.latch s.cur).lk ≤ 1024) ∧ (
    ((s.latch s.cur).ltype < 16) ∧ (
    (s.me.pair.pst < 8) ∧ (
    (s.me.pair.steps < 2048) ∧ (
    (((s.latch s.cur).lv = true → 1 ≤ (s.latch s.cur).lm ∧ 1 ≤ (s.latch s.cur).lk)) ∧ (
    (s.me.Writable d.toNat (statusWord s)))))))))))) := by
    refine ⟨({ sq vq with latches := unitOf latch0 128 }), 31, ?_, ?_, ?_, ?_, ?_, ?_, ?_, ?_, ?_, ?_, ?_⟩ <;> (first | decide +kernel | ((repeat (first | unfold ArrayFree | unfold Seq.Ready | unfold Seq.Closed | unfold Seq.Writable | unfold State.Fresh)); first | decide +kernel | (intro _ h; cases h <;> decide +kernel)))

theorem wit_LatchFills_0 :
    ∃ (s : State) (d a b : BitVec 5) (e f : BitVec 1) (ty : BitVec 4),
    (s.me.Ready ([.g d.toNat, .g a.toNat, .v b.toNat] ++ maskRegs s.me)) ∧ (
    (s.me.Closed) ∧ (
    (ArrayFree s) ∧ (
    (s.Fresh) ∧ (
    let r := latchDesc s d a ty.toNat
    (r.Ok s d b ty.toNat))))) := by
    refine ⟨vs, 0, 7, 7, 0, 0, 12, ?_, ?_, ?_, ?_, ?_⟩ <;> (first | decide +kernel | ((repeat (first | unfold Seq.Ready | unfold State.Fresh | unfold Seq.Closed | unfold ArrayFree | unfold LatchRows.Ok)); first | decide +kernel | (intro _ h; cases h <;> decide +kernel)))

theorem wit_LatchFills_1 :
    ∃ (s : State) (a b : BitVec 5) (e f : BitVec 1) (ty : BitVec 4),
    (s.me.Ready [.g a.toNat, .v b.toNat]) ∧ (
    (s.me.Closed) ∧ (
    (ArrayFree s) ∧ (
    (s.Fresh) ∧ (
    let r := (s.me.gRead a.toNat).toNat
    let vl := s.me.c.vl
    (8 ≤ ty.toNat ∧ ty.toNat ≤ 12) ∧ (
    (typeBits ty.toNat ≤ s.me.c.sewBits) ∧ (
    (1 ≤ vl) ∧ (
    (vl * typeBits ty.toNat ≤ 4096) ∧ (
    (r ≤ 127) ∧ (
    ((r ≠ 0 → (s.latch s.cur).lv = true ∧ (s.latch s.cur).ltype = ty.toNat ∧ (s.latch s.cur).lk = vl ∧ r ≤ (s.latch s.cur).lm ∧ (s.latch s.cur).rows.length = (s.latch s.cur).lm))))))))))) := by
    refine ⟨({ sq vq with latches := unitOf latch0 128 }), 6, 7, 0, 0, 8, ?_, ?_, ?_, ?_, ?_, ?_, ?_, ?_, ?_, ?_⟩ <;> (first | decide +kernel | ((repeat (first | unfold ArrayFree | unfold Seq.Ready | unfold Seq.Closed | unfold State.Fresh)); first | decide +kernel | (intro _ h; cases h <;> decide +kernel)))

theorem wit_MatrixMultiply_0 :
    ∃ (i : Instr) (s : State) (m : Mop) (rs : List RegRef),
    (mopForm s i = some (m, rs, true)) ∧ (
    (m.form ≠ 2) ∧ (
    (s.me.Ready rs) ∧ (
    (s.me.Closed) ∧ (
    (ArrayFree s) ∧ (
    (s.Fresh) ∧ (
    (m.illegal s.me.c.vstart = false) ∧ (
    ((s.latch s.cur).lv = true) ∧ (
    (m.refuses (s.latch s.cur) = false) ∧ (
    (m.place s.me.n.stage = none) ∧ (
    (lastChunk m s.me))))))))))) := by
    refine ⟨(.mop 7 0 8 0 0 8 0 0), (mopS latch0), _, _, rfl, ?_, ?_, ?_, ?_, ?_, ?_, ?_, ?_, ?_, ?_⟩ <;> (first | decide +kernel | ((repeat (first | unfold ArrayFree | unfold lastChunk | unfold Seq.Ready | unfold Seq.Closed | unfold State.Fresh)); first | decide +kernel | (intro _ h; cases h <;> decide +kernel)))

theorem wit_MatrixMultiply_1 :
    ∃ (i : Instr) (s : State) (m : Mop) (rs : List RegRef),
    (mopForm s i = some (m, rs, true)) ∧ (
    (m.form ≠ 2) ∧ (
    (s.me.Ready rs) ∧ (
    (s.me.Closed) ∧ (
    (ArrayFree s) ∧ (
    (s.Fresh) ∧ (
    (m.illegal s.me.c.vstart = false) ∧ (
    ((s.latch s.cur).lv = true) ∧ (
    (m.refuses (s.latch s.cur) = false) ∧ (
    (m.place s.me.n.stage = none) ∧ (
    (¬ lastChunk m s.me) ∧ (
    (s.me.preempt = none)))))))))))) := by
    refine ⟨(.mop 7 0 9 0 0 8 0 0), mopLong, _, _, rfl, ?_, ?_, ?_, ?_, ?_, ?_, ?_, ?_, ?_, ?_, ?_⟩ <;> (first | decide +kernel | ((repeat (first | unfold ArrayFree | unfold lastChunk | unfold Seq.Ready | unfold Seq.Closed | unfold State.Fresh)); first | decide +kernel | (intro _ h; cases h <;> decide +kernel)))

theorem wit_MatrixMultiply_2 :
    ∃ (s : State) (k : Agent) (m : Mop),
    ((s.seq k).wait = .matrix) ∧ (
    ((s.seq k).mop = some m) ∧ (
    (m.form ≠ 2) ∧ (
    (s.matrix.getD (k / 32) [] = [.seq k]) ∧ (
    ((s.seq k).holds = []) ∧ (
    (lastChunk m (s.seq k))))))) := by
    refine ⟨mopRuns, 5, _, ?_, some_out (by decide +kernel), ?_, ?_, ?_, ?_⟩ <;> (first | decide +kernel | ((repeat (first | unfold lastChunk)); first | decide +kernel | (intro _ h; cases h <;> decide +kernel)))

theorem wit_MatrixMultiply_3 :
    ∃ (i : Instr) (s : State) (m : Mop) (rs : List RegRef),
    (mopForm s i = some (m, rs, true)) ∧ (
    (m.form = 2) ∧ (
    (s.me.Ready rs) ∧ (
    (s.me.Closed) ∧ (
    (ArrayFree s) ∧ (
    (s.Fresh) ∧ (
    (m.illegal s.me.c.vstart = false) ∧ (
    ((s.latch s.cur).lv = true) ∧ (
    (m.place s.me.n.stage = none) ∧ (
    ((∀ n, (s.seq (partner s.cur)).wait ≠ .pair n))))))))))) := by
    refine ⟨(.mopPair 7 0 8 0 0 8 0 0), (mopS latch0), _, _, rfl, ?_, ?_, ?_, ?_, ?_, ?_, ?_, ?_, run_ne_pair (by decide +kernel)⟩ <;> (first | decide +kernel | ((repeat (first | unfold ArrayFree | unfold Seq.Ready | unfold Seq.Closed | unfold State.Fresh)); first | decide +kernel | (intro _ h; cases h <;> decide +kernel)))

theorem wit_MatrixMultiply_4 :
    ∃ (s : State) (k : Agent) (m n : Mop) (x y : Nat),
    let j := partner k
    ((s.seq k).wait = .pair x) ∧ (
    ((s.seq k).mop = some m) ∧ (
    ((s.seq j).wait = .pair y) ∧ (
    ((s.seq j).mop = some n) ∧ (
    (s.matrix.getD (k / 32) [] = [.seq k]) ∧ (
    (s.matrix.getD (j / 32) [] = [.seq j]) ∧ (
    ((s.seq k).holds = []) ∧ (
    ((s.seq j).holds = [])))))))) := by
    refine ⟨paired, 5, (mop8 2), (mop8 2), 0, 9, ?_, ?_, ?_, ?_, ?_, ?_, ?_, ?_⟩ <;> decide +kernel

theorem wit_MatrixMultiply_5 :
    ∃ (s : State) (k : Agent) (x : Nat),
    ((s.seq k).wait = .pair x) ∧ (
    ((∀ y, (s.seq (partner k)).wait ≠ .pair y)) ∧ (
    (x + (s.seq k).c.pairwait.toNat ≤ s.cycle) ∧ (
    ((s.seq k).holds = []) ∧ (
    (s.matrix.getD (k / 32) [] = [.seq k]))))) := by
    refine ⟨unpaired, 5, 0, ?_, run_ne_pair (by decide +kernel), ?_, ?_, ?_⟩ <;> decide +kernel

theorem wit_DenseChunkElement_0 :
    ∃ (m : Mop) (l : Latch) (c : Nat) (rc : Nat → RoundCtl) (rd : Nat → Nat → Nat) (x : Bits) (i j b : Nat),
    (m.form ≠ 1) ∧ (
    (m.geo = 0) ∧ (
    (m.band = false) ∧ (
    (m.bands = none) ∧ (
    (32 * c < m.k) ∧ (
    (i < 128) ∧ (
    (j < 128) ∧ (
    (b < 32)))))))) := by
    refine ⟨{ mop8 0 with gb := 1023 }, latch0, 31, (fun _ => { rm := 0 }), (fun _ _ => 0), 0, 127, 127, 31, ?_, ?_, ?_, ?_, ?_, ?_, ?_, ?_⟩ <;> decide +kernel

theorem wit_TileMemory_0 :
    ∃ (s : State) (d a b : BitVec 5) (e f : BitVec 1) (t : BitVec 4) (v : BitVec 1) (L : Nat → Leaf) (P : Nat → Copy Nat),
    let base := (s.me.gRead a.toNat).toNat
    let g := s.me.gRead b.toNat
    let n := 16 * typeBits t.toNat
    let unit := max 1 (typeBits t.toNat / 8)
    let R := (g.extractLsb' 32 7).toNat + 1
    let pitch := if g.extractLsb' 0 32 = 0 then n else (g.extractLsb' 0 32).toNat
    let D := rowBytes base pitch s.me.c.vstart R n
    (8 ≤ t.toNat ∧ t.toNat ≤ 14) ∧ (
    (g.extractLsb' 39 25 = 0) ∧ (
    (base % unit = 0) ∧ (
    (pitch % unit = 0) ∧ (
    (base + (R - 1) * pitch + n ≤ 2 ^ 57) ∧ (
    (s.me.c.vstart < R) ∧ (
    (s.me.Ready [.a d.toNat, .g a.toNat, .g b.toNat]) ∧ (
    (s.me.Closed) ∧ (
    (Calm s.me) ∧ (
    (ArrayFree s) ∧ (
    (s.me.preempt = none) ∧ (
    (RawBase s base .write (L (base / 4096))) ∧ (
    ((∀ va, D va → (L (va / 4096)).fv = false)) ∧ (
    (BytesOwned s D .write L P)))))))))))))) := by
    refine ⟨(big 0), 7, 4, 5, 0, 0, 13, 0, (fun _ => bigLeaf), (fun _ => bigCopy 0), ?_, ?_, ?_, ?_, ?_, ?_, ?_, ?_, ?_, ?_, ?_, ?_, fun _ _ => (by decide +kernel : bigLeaf.fv = false), big_owned (d := 0) (rows_big (by decide +kernel)) (by decide +kernel)⟩ <;> (first | decide +kernel | ((repeat (first | unfold ArrayFree | unfold Calm | unfold RawBase | unfold BytesOwned | unfold Seq.Ready | unfold Seq.Closed | unfold Cached | unfold StorableAfter | unfold LineOwned | unfold Storable | unfold LineHeld | unfold Leaf.Plain)); first | decide +kernel | (intro _ h; cases h <;> decide +kernel)))

theorem wit_TileMemory_1 :
    ∃ (s : State) (d a : BitVec 5) (e : BitVec 1) (L : Nat → Leaf) (P : Nat → Copy Nat),
    let base := (s.me.gRead a.toNat).toNat
    let lo := s.me.c.vstart
    (base % 64 = 0) ∧ (
    (base + 65600 ≤ 2 ^ 57) ∧ (
    (s.me.Closed) ∧ (
    (Calm s.me) ∧ (
    (ArrayFree s) ∧ (
    (s.me.preempt = none) ∧ (
    (lo < 128) ∧ (
    (s.me.Ready [.a d.toNat, .g a.toNat]) ∧ (
    (BytesOwned s (rowBytes base 512 lo 128 512) .write L P))))))))) := by
    refine ⟨(big 0), 7, 4, 0, (fun _ => bigLeaf), (fun _ => bigCopy 0), ?_, ?_, ?_, ?_, ?_, ?_, ?_, ?_, big_owned (d := 0) (rows_big (by decide +kernel)) (by decide +kernel)⟩ <;> (first | decide +kernel | ((repeat (first | unfold ArrayFree | unfold Calm | unfold BytesOwned | unfold Seq.Ready | unfold Seq.Closed | unfold StorableAfter | unfold LineOwned | unfold Storable | unfold LineHeld | unfold Cached | unfold Leaf.Plain)); first | decide +kernel | (intro _ h; cases h <;> decide +kernel)))

theorem wit_TileMemory_2 :
    ∃ (s : State) (d a : BitVec 5) (e : BitVec 1) (L : Nat → Leaf) (P : Nat → Copy Nat),
    let base := (s.me.gRead a.toNat).toNat
    let lo := s.me.c.vstart
    (base % 64 = 0) ∧ (
    (base + 65600 ≤ 2 ^ 57) ∧ (
    (s.me.Closed) ∧ (
    (Calm s.me) ∧ (
    (ArrayFree s) ∧ (
    (s.me.preempt = none) ∧ (
    (lo < 128) ∧ (
    (s.me.Ready [.a d.toNat, .g a.toNat]) ∧ (
    (BytesOwned s (rowBytes base 512 lo 128 512) .read L P))))))))) := by
    refine ⟨(big 0), 7, 4, 0, (fun _ => bigLeaf), (fun _ => bigCopy 0), ?_, ?_, ?_, ?_, ?_, ?_, ?_, ?_, big_owned (d := 0) (rows_big (by decide +kernel)) (by decide +kernel)⟩ <;> (first | decide +kernel | ((repeat (first | unfold ArrayFree | unfold Calm | unfold BytesOwned | unfold Seq.Ready | unfold Seq.Closed | unfold StorableAfter | unfold LineOwned | unfold Storable | unfold LineHeld | unfold Cached | unfold Leaf.Plain)); first | decide +kernel | (intro _ h; cases h <;> decide +kernel)))

theorem wit_TileMemory_3 :
    ∃ (s : State) (d a : BitVec 5) (e : BitVec 1) (L : Nat → Leaf) (P : Nat → Copy Nat),
    let base := (s.me.gRead a.toNat).toNat
    (base % 64 = 0) ∧ (
    (base + 65600 ≤ 2 ^ 57) ∧ (
    (s.me.Closed) ∧ (
    (Calm s.me) ∧ (
    (ArrayFree s) ∧ (
    (s.me.preempt = none) ∧ (
    (s.me.Ready [.g a.toNat]) ∧ (
    ∃ l : Latch,
    (l = (s.latch s.cur)) ∧ (
    (l.lv = true) ∧ (
    (l.lk < 65536) ∧ (
    (l.lm < 129) ∧ (
    (l.ltype < 256) ∧ (
    ((∀ i, l.rows.getD i 0 < 2 ^ 4096)) ∧ (
    (BytesOwned s (spanning base 65600) .write L P)))))))))))))) := by
    refine ⟨(big 0), 7, 4, 0, (fun _ => bigLeaf), (fun _ => bigCopy 0), ?_, ?_, ?_, ?_, ?_, ?_, ?_, latch0, rfl, ?_, ?_, ?_, ?_, fun i => Nat.lt_of_lt_of_le (replicate_lt Nat.one_pos i) (Nat.one_le_two_pow (n := 4096)), big_owned (d := 0) span_big (by decide +kernel)⟩ <;> (first | decide +kernel | ((repeat (first | unfold ArrayFree | unfold Calm | unfold BytesOwned | unfold Seq.Ready | unfold Seq.Closed | unfold StorableAfter | unfold LineOwned | unfold Storable | unfold LineHeld | unfold Cached | unfold Leaf.Plain)); first | decide +kernel | (intro _ h; cases h <;> decide +kernel)))

theorem wit_TileMemory_4 :
    ∃ (s : State) (d a : BitVec 5) (e : BitVec 1) (L : Nat → Leaf) (P : Nat → Copy Nat),
    let base := (s.me.gRead a.toNat).toNat
    (base % 64 = 0) ∧ (
    (base + 65600 ≤ 2 ^ 57) ∧ (
    (s.me.Closed) ∧ (
    (Calm s.me) ∧ (
    (ArrayFree s) ∧ (
    (s.me.preempt = none) ∧ (
    (s.me.Ready [.g a.toNat]) ∧ (
    (BytesOwned s (spanning base 65600) .read L P) ∧ (
    let at_ (i n : Nat) : Nat := ((List.range n).map fun j => (heldByte P (base + i + j)).toNat * 256 ^ j).sum
    let w := typeBits (at_ 4 1)
    let sound := at_ 5 1 = 1 ∧ 8 ≤ at_ 4 1 ∧ at_ 4 1 ≤ 12 ∧ 1 ≤ at_ 2 2 ∧ at_ 2 2 ≤ 128 ∧ 1 ≤ at_ 0 2 ∧ at_ 0 2 * w ≤ 4096 ∧ ∀ i, 6 ≤ i → i < 64 → heldByte P (base + i) = 0
    (sound))))))))) := by
    refine ⟨(big 0x10800800200), 7, 4, 0, (fun _ => bigLeaf), (fun _ => bigCopy 0x10800800200), ?_, ?_, ?_, ?_, ?_, ?_, ?_, big_owned (d := 0x10800800200) span_big (by decide +kernel), ⟨by decide +kernel, by decide +kernel, by decide +kernel, by decide +kernel, by decide +kernel, by decide +kernel, by decide +kernel, fun i h6 h64 => of_decide_eq_true (low_of (p := fun i => decide (6 ≤ i → heldByte (fun _ => bigCopy 0x10800800200) (0x200000 + i) = 0)) (by decide +kernel) i h64) h6⟩⟩ <;> (first | decide +kernel | ((repeat (first | unfold ArrayFree | unfold Calm | unfold BytesOwned | unfold Seq.Ready | unfold Seq.Closed | unfold StorableAfter | unfold LineOwned | unfold Storable | unfold LineHeld | unfold Cached | unfold Leaf.Plain)); first | decide +kernel | (intro _ h; cases h <;> decide +kernel)))

theorem wit_TileMemory_5 :
    ∃ (s : State) (d a : BitVec 5) (e : BitVec 1) (L : Nat → Leaf) (P : Nat → Copy Nat),
    let base := (s.me.gRead a.toNat).toNat
    (base % 64 = 0) ∧ (
    (base + 65600 ≤ 2 ^ 57) ∧ (
    (s.me.Closed) ∧ (
    (Calm s.me) ∧ (
    (ArrayFree s) ∧ (
    (s.me.preempt = none) ∧ (
    (s.me.Ready [.g a.toNat]) ∧ (
    (BytesOwned s (spanning base 65600) .read L P) ∧ (
    let at_ (i n : Nat) : Nat := ((List.range n).map fun j => (heldByte P (base + i + j)).toNat * 256 ^ j).sum
    let w := typeBits (at_ 4 1)
    let sound := at_ 5 1 = 1 ∧ 8 ≤ at_ 4 1 ∧ at_ 4 1 ≤ 12 ∧ 1 ≤ at_ 2 2 ∧ at_ 2 2 ≤ 128 ∧ 1 ≤ at_ 0 2 ∧ at_ 0 2 * w ≤ 4096 ∧ ∀ i, 6 ≤ i → i < 64 → heldByte P (base + i) = 0
    (¬ sound) ∧ (
    (Handled s.me)))))))))) := by
    refine ⟨(big 0), 7, 4, 0, (fun _ => bigLeaf), (fun _ => bigCopy 0), ?_, ?_, ?_, ?_, ?_, ?_, ?_, big_owned (d := 0) span_big (by decide +kernel), fun h => absurd h.1 (by decide +kernel), by unfold Handled; decide +kernel⟩ <;> (first | decide +kernel | ((repeat (first | unfold Handled | unfold ArrayFree | unfold Calm | unfold BytesOwned | unfold Seq.Ready | unfold Seq.Closed | unfold StorableAfter | unfold LineOwned | unfold Storable | unfold LineHeld | unfold Cached | unfold Leaf.Plain)); first | decide +kernel | (intro _ h; cases h <;> decide +kernel)))

theorem wit_ScalarAtomics_0 :
    ∃ (s : State) (d a : BitVec 5) (e : BitVec 1) (sc : BitVec 3) (o : BitVec 2) (p t : BitVec 4) (l : Leaf) (cp : Copy Nat),
    let n := typeBits t.toNat / 8
    let va := (s.me.gRead a.toNat).toNat
    let old := lineField cp.data (l.pa va % 128) n
    let x := Claims.extended t.toNat old
    (atomicTypeOk p.toNat t.toNat true = true) ∧ (
    (va % n = 0) ∧ (
    (s.me.Ready (amoRegs d a p)) ∧ (
    (s.me.Closed) ∧ (
    (Calm s.me) ∧ (
    (LineOwned s va .atomic l cp) ∧ (
    (StorableAfter s (max s.me.pts cp.rts)) ∧ (
    ((2 ≤ o.toNat → Released sc.toNat s)) ∧ (
    (s.me.Writable d.toNat x))))))))) := by
    refine ⟨(ws bq), 5, 4, 0, 6, 3, 7, 7, leaf7, copy7, ?_, ?_, ?_, ?_, ?_, by unfold LineOwned LineHeld Leaf.Plain Cached; decide +kernel, ?_, ?_, ?_⟩ <;> (first | decide +kernel | ((repeat (first | unfold StorableAfter | unfold Released | unfold LineOwned | unfold Calm | unfold Seq.Ready | unfold Seq.Closed | unfold Seq.Writable | unfold Storable | unfold LineHeld | unfold Cached | unfold Leaf.Plain)); first | decide +kernel | (intro _ h; cases h <;> decide +kernel)))

theorem wit_ScalarAtomics_1 :
    ∃ (s : State) (d a : BitVec 5) (e : BitVec 1) (p t : BitVec 4),
    let n := typeBits t.toNat / 8
    let off := (s.me.gRead a.toNat).toNat
    (atomicTypeOk p.toNat t.toNat false = true) ∧ (
    (s.me.Ready (amoRegs d a p)) ∧ (
    (s.me.Closed) ∧ (
    (s.Fresh) ∧ (
    (StageOk s.me off n) ∧ (
    (s.me.note.bind Note.value = none)))))) := by
    refine ⟨(sq (hqAt 1016)), 5, 4, 0, 7, 7, ?_, ?_, ?_, ?_, ?_, ?_⟩ <;> (first | decide +kernel | ((repeat (first | unfold StageOk | unfold Seq.Ready | unfold Seq.Closed | unfold State.Fresh)); first | decide +kernel | (intro _ h; cases h <;> decide +kernel)))

theorem wit_ScalarAtomics_2 :
    ∃ (s : State) (d a : BitVec 5) (e : BitVec 1) (p t : BitVec 4),
    let n := typeBits t.toNat / 8
    let off := (s.me.gRead a.toNat).toNat
    (atomicTypeOk p.toNat t.toNat false = true) ∧ (
    (s.me.Ready (amoRegs d a p)) ∧ (
    (s.me.Closed) ∧ (
    (s.Fresh) ∧ (
    (StageOk s.me off n) ∧ (
    ∃ v,
    (s.me.note.bind Note.value = some v) ∧ (
    let x := Claims.extended t.toNat (v.toNat % 2 ^ (8 * n))
    (s.me.Writable d.toNat x))))))) := by
    refine ⟨answered, 5, 4, 0, 7, 7, ?_, ?_, ?_, ?_, ?_, 9, by decide +kernel, ?_⟩ <;> (first | decide +kernel | ((repeat (first | unfold StageOk | unfold Seq.Ready | unfold Seq.Closed | unfold Seq.Writable | unfold State.Fresh)); first | decide +kernel | (intro _ h; cases h <;> decide +kernel)))

theorem wit_VectorAtomics_0 :
    ∃ (s : State) (d a : BitVec 5) (e : BitVec 1) (sc : BitVec 3) (o : BitVec 2) (t : BitVec 4) (l : Leaf) (cp : Copy Nat) (h : HomeLine Nat),
    let w := typeBits t.toNat
    let n := w / 8
    let base := (s.me.gRead a.toNat).toNat
    let x := l.pa base / 128
    let es := activeElems s.me
    (8 ≤ w) ∧ (
    (w ≤ s.me.c.sewBits) ∧ (
    (s.me.Ready (indexedRegs s.me d a)) ∧ (
    (s.me.Closed) ∧ (
    (Calm s.me) ∧ (
    (es ≠ []) ∧ (
    ((∀ i ∈ es, indexedAt s.me a d n i % n = 0 ∧ indexedAt s.me a d n i / 128 = base / 128)) ∧ (
    (l.level = 0) ∧ (
    ((2 ≤ o.toNat → Released sc.toNat s)) ∧ (
    (s.home x = some h) ∧ (
    (h.own = some (l1Of (s.cur / 32) x)) ∧ (
    (StorableAfter s (max s.me.pts (max cp.wts cp.rts))) ∧ (
    ∃ p : BitVec 4,
    (atomicTypeOk p.toNat t.toNat true = true) ∧ (
    (p ≠ 7) ∧ (
    (LineOwned s base .atomic l cp))))))))))))))) := by
    refine ⟨(homed vbq (some (l1Of 0 line7))), 6, 4, 0, 6, 3, 6, leaf7, copy7, _, ?_, ?_, ?_, ?_, ?_, ?_, ?_, ?_, ?_, some_out (by decide +kernel), ?_, ?_, 0, ?_, ?_, by unfold LineOwned LineHeld Leaf.Plain Cached; decide +kernel⟩ <;> (first | decide +kernel | ((repeat (first | unfold StorableAfter | unfold Released | unfold LineOwned | unfold Calm | unfold Seq.Ready | unfold Seq.Closed | unfold Storable | unfold LineHeld | unfold Cached | unfold Leaf.Plain)); first | decide +kernel | (intro _ h; cases h <;> decide +kernel)))

theorem wit_VectorAtomics_1 :
    ∃ (s : State) (d a : BitVec 5) (e : BitVec 1) (sc : BitVec 3) (o : BitVec 2) (t : BitVec 4) (l : Leaf) (cp : Copy Nat) (h : HomeLine Nat),
    let w := typeBits t.toNat
    let n := w / 8
    let base := (s.me.gRead a.toNat).toNat
    let x := l.pa base / 128
    let es := activeElems s.me
    (8 ≤ w) ∧ (
    (w ≤ s.me.c.sewBits) ∧ (
    (s.me.Ready (indexedRegs s.me d a)) ∧ (
    (s.me.Closed) ∧ (
    (Calm s.me) ∧ (
    (es ≠ []) ∧ (
    ((∀ i ∈ es, indexedAt s.me a d n i % n = 0 ∧ indexedAt s.me a d n i / 128 = base / 128)) ∧ (
    (l.level = 0) ∧ (
    ((2 ≤ o.toNat → Released sc.toNat s)) ∧ (
    (s.home x = some h) ∧ (
    (h.own = some (l1Of (s.cur / 32) x)) ∧ (
    (StorableAfter s (max s.me.pts (max cp.wts cp.rts))) ∧ (
    (t.toNat ≤ 14) ∧ (
    (LineHeld s base .read l cp) ∧ (
    (cp.own = true))))))))))))))) := by
    refine ⟨(homed vbq (some (l1Of 0 line7))), 6, 4, 0, 6, 3, 6, leaf7, copy7, _, ?_, ?_, ?_, ?_, ?_, ?_, ?_, ?_, ?_, some_out (by decide +kernel), ?_, ?_, ?_, by unfold LineHeld Leaf.Plain Cached; decide +kernel, ?_⟩ <;> (first | decide +kernel | ((repeat (first | unfold StorableAfter | unfold Released | unfold LineHeld | unfold Calm | unfold Seq.Ready | unfold Seq.Closed | unfold Storable | unfold Cached | unfold Leaf.Plain)); first | decide +kernel | (intro _ h; cases h <;> decide +kernel)))

theorem wit_VectorAtomics_2 :
    ∃ (s : State) (d a : BitVec 5) (e : BitVec 1) (sc : BitVec 3) (o : BitVec 2) (t : BitVec 4) (l : Leaf) (cp : Copy Nat) (h : HomeLine Nat),
    let w := typeBits t.toNat
    let n := w / 8
    let base := (s.me.gRead a.toNat).toNat
    let x := l.pa base / 128
    let es := activeElems s.me
    (8 ≤ w) ∧ (
    (w ≤ s.me.c.sewBits) ∧ (
    (s.me.Ready (indexedRegs s.me d a)) ∧ (
    (s.me.Closed) ∧ (
    (Calm s.me) ∧ (
    (es ≠ []) ∧ (
    ((∀ i ∈ es, indexedAt s.me a d n i % n = 0 ∧ indexedAt s.me a d n i / 128 = base / 128)) ∧ (
    (l.level = 0) ∧ (
    ((2 ≤ o.toNat → Released sc.toNat s)) ∧ (
    (s.home x = some h) ∧ (
    (h.own = some (l1Of (s.cur / 32) x)) ∧ (
    (StorableAfter s (max s.me.pts (max cp.wts cp.rts))) ∧ (
    ∃ p : BitVec 3,
    (t.toNat ≤ 14) ∧ (
    (s.me.Ready [.p p.toNat]) ∧ (
    (LineOwned s base .atomic l cp))))))))))))))) := by
    refine ⟨(homed vbq (some (l1Of 0 line7))), 6, 4, 0, 6, 3, 6, leaf7, copy7, _, ?_, ?_, ?_, ?_, ?_, ?_, ?_, ?_, ?_, some_out (by decide +kernel), ?_, ?_, 7, ?_, ?_, by unfold LineOwned LineHeld Leaf.Plain Cached; decide +kernel⟩ <;> (first | decide +kernel | ((repeat (first | unfold StorableAfter | unfold Released | unfold LineOwned | unfold Calm | unfold Seq.Ready | unfold Seq.Closed | unfold Storable | unfold LineHeld | unfold Cached | unfold Leaf.Plain)); first | decide +kernel | (intro _ h; cases h <;> decide +kernel)))

theorem wit_StageReductions_0 :
    ∃ (s : State) (d a : BitVec 5) (e : BitVec 1) (p t : BitVec 4),
    let w := typeBits t.toNat
    (atomicTypeOk p.toNat t.toNat false = true) ∧ (
    (p ≠ 7) ∧ (
    (w ≤ s.me.c.sewBits) ∧ (
    (s.me.Ready (indexedRegs s.me d a)) ∧ (
    (s.me.Closed) ∧ (
    (s.Fresh) ∧ (
    ((∀ i ∈ activeElems s.me, StageOk s.me (indexedAt s.me a d (w / 8) i) (w / 8))))))))) := by
    refine ⟨vs, 6, 7, 0, 0, 6, ?_, ?_, ?_, ?_, ?_, ?_, ?_⟩ <;> (first | decide +kernel | ((repeat (first | unfold Seq.Ready | unfold State.Fresh | unfold Seq.Closed | unfold StageOk)); first | decide +kernel | (intro _ h; cases h <;> decide +kernel)))

theorem wit_StageReductions_1 :
    ∃ (s : State) (d a : BitVec 5) (e : BitVec 1) (r : BitVec 5) (o : BitVec 3),
    let g := s.me.gRead a.toNat
    let off := (g.extractLsb' 0 26).toNat
    let L := (g.extractLsb' 32 5).toNat
    let es := (List.range s.me.c.vl).filter fun i => s.me.c.vstart ≤ i
    let x := placeKeys s.me o.toNat (stagePlace s off) L d es s.stage
    (o.toNat ≤ 4) ∧ (
    (s.me.c.sew = 2) ∧ (
    (g.extractLsb' 26 6 = 0) ∧ (
    (g.extractLsb' 37 27 = 0) ∧ (
    (4 ≤ L) ∧ (
    (L ≤ 20) ∧ (
    (off % 8 = 0) ∧ (
    (off + 8 * 2 ^ L ≤ s.me.n.stage) ∧ (
    (s.me.Closed) ∧ (
    (s.Fresh) ∧ (
    (s.me.Ready ([.v d.toNat, .g a.toNat, .g r.toNat] ++ (if o = 4 then [] else [.v (d.toNat + 1)]) ++ maskRegs s.me)) ∧ (
    (s.me.Writable r.toNat (BitVec.ofNat 64 x.1))))))))))))) := by
    refine ⟨keyedS, 6, 8, 0, 31, 3, ?_, ?_, ?_, ?_, ?_, ?_, ?_, ?_, ?_, ?_, ?_, ?_⟩ <;> (first | decide +kernel | ((repeat (first | unfold Seq.Ready | unfold Seq.Writable | unfold State.Fresh | unfold Seq.Closed)); first | decide +kernel | (intro _ h; cases h <;> decide +kernel)))

theorem wit_MemoryWaits_0 :
    ∃ (s : State) (d a : BitVec 5) (e : BitVec 1) (sc : BitVec 3) (o : BitVec 2) (c : BitVec 4) (z : BitVec 2) (l : Leaf) (h : HomeLine Nat),
    let n := 2 ^ z.toNat
    let va := (s.me.gRead a.toNat).toNat
    let x := l.pa va / 128
    let dl := (s.me.gRead (d.toNat + 1)).toNat
    let v := lineField h.data (l.pa va % 128) n
    let ok := meets c.toNat n v ((s.me.gRead d.toNat).toNat % 2 ^ (8 * n)) || (dl ≠ 0 && decide (dl ≤ s.cycle))
    (va % n = 0) ∧ (
    (c.toNat ≤ 7) ∧ (
    (s.me.Ready [.g d.toNat, .g a.toNat, .g (d.toNat + 1)]) ∧ (
    (s.me.Closed) ∧ (
    (Calm s.me) ∧ (
    (Cached s va .read false l) ∧ (
    (Leaf.Plain l) ∧ (
    ((tierOf (l.pa va) = .hbm ∨ tierOf (l.pa va) = .lpddr)) ∧ (
    (HomeReady s x h) ∧ (
    (Storable s (max s.me.pts h.wts + s.me.c.lease)) ∧ (
    ((2 ≤ o.toNat → Released sc.toNat s)) ∧ (
    (s.me.Writable d.toNat (BitVec.ofNat 64 v)) ∧ (
    (ok = true))))))))))))) := by
    refine ⟨(atHome bq), 5, 4, 0, 6, 3, 7, 3, leaf7, home7, ?_, ?_, ?_, ?_, ?_, ?_, ?_, ?_, ?_, ?_, ?_, ?_, ?_⟩ <;> (first | decide +kernel | ((repeat (first | unfold Storable | unfold Released | unfold Cached | unfold Leaf.Plain | unfold Calm | unfold HomeReady | unfold Seq.Ready | unfold Seq.Closed | unfold Seq.Writable)); first | decide +kernel | (intro _ h; cases h <;> decide +kernel)))

theorem wit_MemoryWaits_1 :
    ∃ (s : State) (d a : BitVec 5) (e : BitVec 1) (sc : BitVec 3) (o : BitVec 2) (c : BitVec 4) (z : BitVec 2) (l : Leaf) (h : HomeLine Nat),
    let n := 2 ^ z.toNat
    let va := (s.me.gRead a.toNat).toNat
    let x := l.pa va / 128
    let dl := (s.me.gRead (d.toNat + 1)).toNat
    let v := lineField h.data (l.pa va % 128) n
    let ok := meets c.toNat n v ((s.me.gRead d.toNat).toNat % 2 ^ (8 * n)) || (dl ≠ 0 && decide (dl ≤ s.cycle))
    (va % n = 0) ∧ (
    (c.toNat ≤ 7) ∧ (
    (s.me.Ready [.g d.toNat, .g a.toNat, .g (d.toNat + 1)]) ∧ (
    (s.me.Closed) ∧ (
    (Calm s.me) ∧ (
    (Cached s va .read false l) ∧ (
    (Leaf.Plain l) ∧ (
    ((tierOf (l.pa va) = .hbm ∨ tierOf (l.pa va) = .lpddr)) ∧ (
    (HomeReady s x h) ∧ (
    (Storable s (max s.me.pts h.wts + s.me.c.lease)) ∧ (
    ((2 ≤ o.toNat → Released sc.toNat s)) ∧ (
    (s.me.Writable d.toNat (BitVec.ofNat 64 v)) ∧ (
    (ok = false) ∧ (
    (h.waiters.length < 64) ∧ (
    (o.toNat < 2))))))))))))))) := by
    refine ⟨(atHome bq), 5, 4, 0, 6, 1, 0, 3, leaf7, home7, ?_, ?_, ?_, ?_, ?_, ?_, ?_, ?_, ?_, ?_, ?_, ?_, ?_, ?_, ?_⟩ <;> (first | decide +kernel | ((repeat (first | unfold Storable | unfold Released | unfold Cached | unfold Leaf.Plain | unfold Calm | unfold HomeReady | unfold Seq.Ready | unfold Seq.Closed | unfold Seq.Writable)); first | decide +kernel | (intro _ h; cases h <;> decide +kernel)))

theorem wit_MemoryWaits_2 :
    ∃ (s : State) (d a : BitVec 5) (e : BitVec 1) (sc : BitVec 3) (o : BitVec 2) (p c : BitVec 3) (l : Leaf) (h : HomeLine Nat) (at_ : Nat),
    let x := l.pa at_ / 128
    let es := activeElems s.me
    let va (i : Nat) : Nat := element (s.me.vRead d.toNat) 64 i
    let dl := (s.me.gRead (a.toNat + 1)).toNat
    let left := es.filter fun i => !meetsAll c.toNat (lineField h.data (va i % 128) 8) (s.me.gRead a.toNat).toNat
    (s.me.c.sew = 3) ∧ (
    (es ≠ []) ∧ (
    ((∀ i ∈ es, va i % 8 = 0 ∧ va i / 128 = at_ / 128)) ∧ (
    (c.toNat ≤ 4) ∧ (
    (at_ % 128 = 0) ∧ (
    (s.me.Ready ([.v d.toNat, .g a.toNat, .g (a.toNat + 1), .p p.toNat] ++ maskRegs s.me)) ∧ (
    (s.me.Closed) ∧ (
    (Calm s.me) ∧ (
    (Cached s at_ .read false l) ∧ (
    (Cached s (at_ / 4096 * 4096) .read false l) ∧ (
    (Leaf.Plain l) ∧ (
    ((tierOf (l.pa at_) = .hbm ∨ tierOf (l.pa at_) = .lpddr)) ∧ (
    (HomeReady s x h) ∧ (
    ((2 ≤ o.toNat → Released sc.toNat s)) ∧ (
    (Storable s (max s.me.pts h.wts + s.me.c.lease)) ∧ (
    (left = [] ∨ (dl ≠ 0 ∧ dl ≤ s.cycle))))))))))))))))) := by
    refine ⟨(atHome vwaitQ), 6, 4, 0, 6, 3, 7, 1, leaf7, home7, 0x7080, ?_, ?_, ?_, ?_, ?_, ?_, ?_, ?_, ?_, ?_, ?_, ?_, ?_, ?_, ?_, ?_⟩ <;> (first | decide +kernel | ((repeat (first | unfold Storable | unfold Released | unfold Cached | unfold Leaf.Plain | unfold Calm | unfold HomeReady | unfold Seq.Ready | unfold Seq.Closed)); first | decide +kernel | (intro _ h; cases h <;> decide +kernel)))

theorem wit_MemoryWaits_3 :
    ∃ (s : State) (d a : BitVec 5) (e : BitVec 1) (sc : BitVec 3) (o : BitVec 2) (p c : BitVec 3) (l : Leaf) (h : HomeLine Nat) (at_ : Nat),
    let x := l.pa at_ / 128
    let es := activeElems s.me
    let va (i : Nat) : Nat := element (s.me.vRead d.toNat) 64 i
    let dl := (s.me.gRead (a.toNat + 1)).toNat
    let left := es.filter fun i => !meetsAll c.toNat (lineField h.data (va i % 128) 8) (s.me.gRead a.toNat).toNat
    (s.me.c.sew = 3) ∧ (
    (es ≠ []) ∧ (
    ((∀ i ∈ es, va i % 8 = 0 ∧ va i / 128 = at_ / 128)) ∧ (
    (c.toNat ≤ 4) ∧ (
    (at_ % 128 = 0) ∧ (
    (s.me.Ready ([.v d.toNat, .g a.toNat, .g (a.toNat + 1), .p p.toNat] ++ maskRegs s.me)) ∧ (
    (s.me.Closed) ∧ (
    (Calm s.me) ∧ (
    (Cached s at_ .read false l) ∧ (
    (Cached s (at_ / 4096 * 4096) .read false l) ∧ (
    (Leaf.Plain l) ∧ (
    ((tierOf (l.pa at_) = .hbm ∨ tierOf (l.pa at_) = .lpddr)) ∧ (
    (HomeReady s x h) ∧ (
    ((2 ≤ o.toNat → Released sc.toNat s)) ∧ (
    (Storable s (max s.me.pts h.wts + s.me.c.lease)) ∧ (
    (left ≠ []) ∧ (
    (dl = 0) ∧ (
    (h.waiters.length < 64) ∧ (
    (o.toNat < 2))))))))))))))))))) := by
    refine ⟨(atHome vwaitQ), 6, 8, 0, 6, 1, 7, 0, leaf7, home7, 0x7080, ?_, ?_, ?_, ?_, ?_, ?_, ?_, ?_, ?_, ?_, ?_, ?_, ?_, ?_, ?_, ?_, ?_, ?_, ?_⟩ <;> (first | decide +kernel | ((repeat (first | unfold Storable | unfold Released | unfold Cached | unfold Leaf.Plain | unfold Calm | unfold HomeReady | unfold Seq.Ready | unfold Seq.Closed)); first | decide +kernel | (intro _ h; cases h <;> decide +kernel)))

theorem wit_MemoryWaits_4 :
    ∃ (s : State) (k x T : Nat) (w : Park) (n : Note),
    ((s.seq k).wait = .park w) ∧ (
    ((s.seq k).note = some n) ∧ (
    (x ∈ w.lines))) := by
    refine ⟨parked, 5, 7, 99, { lines := [3, 7], poll := true, since := 0, deadline := some 1024 }, _, by decide +kernel, some_out (by decide +kernel), ?_⟩ <;> decide +kernel

theorem wit_MemoryWaits_5 :
    ∃ (s : State) (k t : Nat) (w : Park),
    ((s.seq k).wait = .park w) ∧ (
    (w.deadline = some t) ∧ (
    (t ≤ s.cycle))) := by
    refine ⟨parked, 5, 1024, { lines := [3, 7], poll := true, since := 0, deadline := some 1024 }, ?_, by decide +kernel, ?_⟩ <;> decide +kernel

theorem wit_MemoryWaits_6 :
    ∃ (s : State) (k : Nat) (w : Park),
    ((s.seq k).wait = .park w) ∧ (
    (w.poll = true) ∧ (
    (w.since + 1024 ≤ s.cycle))) := by
    refine ⟨parked, 5, { lines := [3, 7], poll := true, since := 0, deadline := some 1024 }, ?_, ?_, ?_⟩ <;> decide +kernel

theorem wit_BarrierInstructions_0 :
    ∃ (s : State) (d a : BitVec 5) (e : BitVec 1) (sc : BitVec 3) (o : BitVec 2) (lv : BitVec 1) (n : BitVec 3) (scope : Nat) (x : BitVec 1),
    let va := (s.me.gRead a.toNat).toNat
    let at_ := stagePlace s va
    let gen := s.stage.read (at_ + 8) 4
    (levelScope lv.toNat n.toNat sc.toNat s = some scope) ∧ (
    (va % 16 = 0) ∧ (
    (s.me.Ready [.g d.toNat, .g a.toNat]) ∧ (
    (StageOk s.me va 16) ∧ (
    (s.Canonical) ∧ (
    (s.me.Closed) ∧ (
    (Calm s.me) ∧ (
    ((2 ≤ o.toNat → Released scope s)) ∧ (
    (s.me.Writable d.toNat (BitVec.ofNat 64 gen)))))))))) := by
    refine ⟨(sq (hqAt 1008)), 5, 4, 0, 6, 3, 0, 7, _, 1, some_out (by decide +kernel), ?_, ?_, ?_, ?_, ?_, ?_, ?_, ?_⟩ <;> (first | decide +kernel | ((repeat (first | unfold Seq.Ready | unfold Seq.Writable | unfold Seq.Closed | unfold Released | unfold State.Canonical | unfold StageOk | unfold Calm)); first | decide +kernel | (intro _ h; cases h <;> decide +kernel)))

theorem wit_BarrierInstructions_1 :
    ∃ (s : State) (d a : BitVec 5) (e : BitVec 1) (sc : BitVec 3) (o : BitVec 2) (lv : BitVec 1) (n : BitVec 3) (scope : Nat) (x : BitVec 1),
    let va := (s.me.gRead a.toNat).toNat
    (levelScope lv.toNat n.toNat sc.toNat s = some scope) ∧ (
    (va % 16 = 0) ∧ (
    (s.me.Ready [.g d.toNat, .g a.toNat]) ∧ (
    (StageOk s.me va 16) ∧ (
    (x = 1) ∧ (
    (s.Fresh) ∧ (
    ∃ st,
    (s.me.strip = some st))))))) := by
    refine ⟨rlxStrip, 5, 4, 0, 6, 3, 0, 7, _, 1, some_out (by decide +kernel), ?_, ?_, ?_, ?_, ?_, _, some_out (by decide +kernel)⟩ <;> (first | decide +kernel | ((repeat (first | unfold StageOk | unfold Seq.Ready | unfold State.Fresh)); first | decide +kernel | (intro _ h; cases h <;> decide +kernel)))

theorem wit_BarrierInstructions_2 :
    ∃ (s : State) (d a : BitVec 5) (e : BitVec 1) (sc : BitVec 3) (o : BitVec 2) (lv : BitVec 1) (n : BitVec 3) (scope : Nat) (x : BitVec 1),
    let va := (s.me.gRead a.toNat).toNat
    (levelScope lv.toNat n.toNat sc.toNat s = some scope) ∧ (
    (va % 16 = 0) ∧ (
    (s.me.Ready [.g d.toNat, .g a.toNat]) ∧ (
    ∃ (l : Leaf) (cp : Copy Nat),
    let off := l.pa va % 128
    let g := lineField cp.data (off + 8) 4
    (s.me.Closed) ∧ (
    (Calm s.me) ∧ (
    (LineOwned s va .atomic l cp) ∧ (
    (StorableAfter s (max s.me.pts cp.rts)) ∧ (
    ((2 ≤ o.toNat → Released scope s)) ∧ (
    (s.me.Writable d.toNat (BitVec.ofNat 64 g)))))))))) := by
    refine ⟨(ws spillQ), 5, 4, 0, 6, 3, 0, 7, _, 1, some_out (by decide +kernel), ?_, ?_, leaf7, copy7, ?_, ?_, by unfold LineOwned LineHeld Leaf.Plain Cached; decide +kernel, ?_, ?_, ?_⟩ <;> (first | decide +kernel | ((repeat (first | unfold StorableAfter | unfold Released | unfold LineOwned | unfold Calm | unfold Seq.Ready | unfold Seq.Closed | unfold Seq.Writable | unfold Storable | unfold LineHeld | unfold Cached | unfold Leaf.Plain)); first | decide +kernel | (intro _ h; cases h <;> decide +kernel)))

theorem wit_BarrierInstructions_3 :
    ∃ (s : State) (d a : BitVec 5) (e : BitVec 1) (sc : BitVec 3) (lv : BitVec 1) (n : BitVec 3) (scope : Nat) (l : Leaf) (h : HomeLine Nat),
    let va := (s.me.gRead a.toNat).toNat
    let x := l.pa (va + 8) / 128
    let gen := lineField h.data (l.pa (va + 8) % 128) 4
    (levelScope lv.toNat n.toNat sc.toNat s = some scope) ∧ (
    (va % 16 = 0) ∧ (
    (s.me.Ready [.g d.toNat, .g a.toNat]) ∧ (
    (s.me.Closed) ∧ (
    (Calm s.me) ∧ (
    (Cached s va .read false l) ∧ (
    (Leaf.Plain l) ∧ (
    ((tierOf (l.pa (va + 8)) = .hbm ∨ tierOf (l.pa (va + 8)) = .lpddr)) ∧ (
    (HomeReady s x h) ∧ (
    (Storable s (max s.me.pts h.wts + s.me.c.lease)) ∧ (
    (s.me.Writable d.toNat (BitVec.ofNat 64 gen)) ∧ (
    (gen ≠ (s.me.gRead d.toNat).toNat % 2 ^ 32)))))))))))) := by
    refine ⟨(atHome spillQ), 5, 4, 0, 6, 0, 7, _, leaf7, home7, some_out (by decide +kernel), ?_, ?_, ?_, ?_, ?_, ?_, ?_, ?_, ?_, ?_, ?_⟩ <;> (first | decide +kernel | ((repeat (first | unfold Storable | unfold Cached | unfold Leaf.Plain | unfold Calm | unfold HomeReady | unfold Seq.Ready | unfold Seq.Closed | unfold Seq.Writable)); first | decide +kernel | (intro _ h; cases h <;> decide +kernel)))

theorem wit_BarrierInstructions_4 :
    ∃ (s : State) (d a : BitVec 5) (e : BitVec 1) (sc : BitVec 3) (lv : BitVec 1) (n : BitVec 3) (scope : Nat) (l : Leaf) (h : HomeLine Nat),
    let va := (s.me.gRead a.toNat).toNat
    let x := l.pa (va + 8) / 128
    let gen := lineField h.data (l.pa (va + 8) % 128) 4
    (levelScope lv.toNat n.toNat sc.toNat s = some scope) ∧ (
    (va % 16 = 0) ∧ (
    (s.me.Ready [.g d.toNat, .g a.toNat]) ∧ (
    (s.me.Closed) ∧ (
    (Calm s.me) ∧ (
    (Cached s va .read false l) ∧ (
    (Leaf.Plain l) ∧ (
    ((tierOf (l.pa (va + 8)) = .hbm ∨ tierOf (l.pa (va + 8)) = .lpddr)) ∧ (
    (HomeReady s x h) ∧ (
    (Storable s (max s.me.pts h.wts + s.me.c.lease)) ∧ (
    (s.me.Writable d.toNat (BitVec.ofNat 64 gen)) ∧ (
    (gen = (s.me.gRead d.toNat).toNat % 2 ^ 32) ∧ (
    (h.waiters.length < 64))))))))))))) := by
    refine ⟨(atHome spillQ), 8, 4, 0, 6, 0, 7, _, leaf7, home7, some_out (by decide +kernel), ?_, ?_, ?_, ?_, ?_, ?_, ?_, ?_, ?_, ?_, ?_, ?_⟩ <;> (first | decide +kernel | ((repeat (first | unfold Storable | unfold Cached | unfold Leaf.Plain | unfold Calm | unfold HomeReady | unfold Seq.Ready | unfold Seq.Closed | unfold Seq.Writable)); first | decide +kernel | (intro _ h; cases h <;> decide +kernel)))

theorem wit_BarrierInstructions_5 :
    ∃ (s : State) (d a : BitVec 5) (e : BitVec 1) (sc : BitVec 3) (lv : BitVec 1) (n : BitVec 3) (scope : Nat),
    let off := (s.me.gRead a.toNat).toNat
    (levelScope lv.toNat n.toNat sc.toNat s = some scope) ∧ (
    (off % 16 = 0) ∧ (
    (s.me.Ready [.g d.toNat, .g a.toNat]) ∧ (
    (s.me.Closed) ∧ (
    (s.Fresh) ∧ (
    (off + 16 ≤ s.me.n.stage) ∧ (
    (s.me.note = none))))))) := by
    refine ⟨(sq (hqAt 1008)), 5, 4, 0, 6, 0, 7, _, some_out (by decide +kernel), ?_, ?_, ?_, ?_, ?_, ?_⟩ <;> (first | decide +kernel | ((repeat (first | unfold Seq.Ready | unfold Seq.Closed | unfold State.Fresh)); first | decide +kernel | (intro _ h; cases h <;> decide +kernel)))

theorem wit_BarrierInstructions_6 :
    ∃ (s : State) (d a : BitVec 5) (e : BitVec 1) (sc : BitVec 3) (lv : BitVec 1) (n : BitVec 3) (scope : Nat),
    let off := (s.me.gRead a.toNat).toNat
    (levelScope lv.toNat n.toNat sc.toNat s = some scope) ∧ (
    (off % 16 = 0) ∧ (
    (s.me.Ready [.g d.toNat, .g a.toNat]) ∧ (
    (s.me.Closed) ∧ (
    (s.Fresh) ∧ (
    (off + 16 ≤ s.me.n.stage) ∧ (
    ∃ (w : Note) (v : DWord),
    (s.me.note = some w) ∧ (
    (w.value = some v) ∧ (
    (w.parked = []) ∧ (
    let gen := v.toNat % 2 ^ 32
    (gen ≠ (s.me.gRead d.toNat).toNat % 2 ^ 32) ∧ (
    (s.me.Writable d.toNat (BitVec.ofNat 64 gen)))))))))))) := by
    refine ⟨barrierNote, 5, 4, 0, 6, 0, 7, _, some_out (by decide +kernel), ?_, ?_, ?_, ?_, ?_, { value := some 9 }, 9, by decide +kernel, by decide +kernel, ?_, ?_, ?_⟩ <;> (first | decide +kernel | ((repeat (first | unfold Seq.Ready | unfold Seq.Closed | unfold Seq.Writable | unfold State.Fresh)); first | decide +kernel | (intro _ h; cases h <;> decide +kernel)))

theorem wit_PhasesAndFences_0 :
    ∃ (s : State) (sc : BitVec 3),
    (s.me.Closed) ∧ (
    (s.Fresh) ∧ (
    (Released sc.toNat s))) := by
    refine ⟨hs, 6, ?_, ?_, ?_⟩ <;> (first | decide +kernel | ((repeat (first | unfold State.Fresh | unfold Seq.Closed | unfold Released)); first | decide +kernel | (intro _ h; cases h <;> decide +kernel)))

theorem wit_PhasesAndFences_1 :
    ∃ (s : State) (sc : BitVec 3) (lv : BitVec 1) (n : BitVec 3) (scope : Nat),
    (levelScope lv.toNat n.toNat sc.toNat s = some scope) ∧ (
    (s.me.Closed) ∧ (
    (s.Fresh) ∧ (
    (s.me.phase = []) ∧ (
    (Released scope s))))) := by
    refine ⟨hs, 6, 0, 7, _, some_out (by decide +kernel), ?_, ?_, ?_, ?_⟩ <;> (first | decide +kernel | ((repeat (first | unfold State.Fresh | unfold Seq.Closed | unfold Released)); first | decide +kernel | (intro _ h; cases h <;> decide +kernel)))

theorem wit_PhasesAndFences_2 :
    ∃ (s : State) (sc : BitVec 3) (lv : BitVec 1) (n : BitVec 3) (scope : Nat),
    (levelScope lv.toNat n.toNat sc.toNat s = some scope) ∧ (
    (s.me.Closed) ∧ (
    (s.Fresh) ∧ (
    ∃ w,
    (s.me.phase ≠ []) ∧ (
    (s.me.note = some w) ∧ (
    (w.step = 3) ∧ (
    (Released scope s))))))) := by
    refine ⟨(phased (some { step := 3 })), 6, 0, 7, _, some_out (by decide +kernel), ?_, ?_, _, ?_, some_out (by decide +kernel), ?_, ?_⟩ <;> (first | decide +kernel | ((repeat (first | unfold State.Fresh | unfold Seq.Closed | unfold Released)); first | decide +kernel | (intro _ h; cases h <;> decide +kernel)))

theorem wit_PhasesAndFences_3 :
    ∃ (s : State) (sc : BitVec 3) (lv : BitVec 1) (n : BitVec 3) (scope : Nat),
    (levelScope lv.toNat n.toNat sc.toNat s = some scope) ∧ (
    (s.me.Closed) ∧ (
    (s.Fresh) ∧ (
    (s.me.phase ≠ []) ∧ (
    (s.me.note = none) ∧ (
    ((∀ b ∈ s.me.phase, b.leaf = 0 ∧ b.loc.isPeer = false))))))) := by
    refine ⟨(phased none), 6, 0, 7, _, some_out (by decide +kernel), ?_, ?_, ?_, ?_, ?_⟩ <;> (first | decide +kernel | ((repeat (first | unfold State.Fresh | unfold Seq.Closed)); first | decide +kernel | (intro _ h; cases h <;> decide +kernel)))

theorem wit_PhasesAndFences_4 :
    ∃ (s : State) (k x rts : Nat) (w : Note),
    ((s.seq k).wait = .publish) ∧ (
    ((s.seq k).note = some w) ∧ (
    (w.step = 1) ∧ (
    let ls := w.lines.set x rts
    let xs := dedup (((s.seq k).phase.filter fun b => !b.loc.isPeer).map fun b => b.loc.order)
    ((∃ y ∈ xs, ls.find y = none))))) := by
    refine ⟨(publishing 2), 5, 41, 60, _, ?_, some_out (by decide +kernel), ?_, ⟨40, by decide +kernel, by decide +kernel⟩⟩ <;> decide +kernel

theorem wit_PhasesAndFences_5 :
    ∃ (s : State) (k x rts : Nat) (w : Note),
    ((s.seq k).wait = .publish) ∧ (
    ((s.seq k).note = some w) ∧ (
    (w.step = 1) ∧ (
    let ls := w.lines.set x rts
    let xs := dedup (((s.seq k).phase.filter fun b => !b.loc.isPeer).map fun b => b.loc.order)
    ((∀ y ∈ xs, (ls.find y).isSome = true))))) := by
    refine ⟨(publishing 1), 5, 40, 60, _, ?_, some_out (by decide +kernel), ?_, ?_⟩ <;> decide +kernel

theorem wit_MatteFolds_0 :
    ∃ (s u : State) (d a : BitVec 5) (e : BitVec 1) (f : Flow),
    (s.me.Ready [.g d.toNat, .g a.toNat]) ∧ (
    (s.me.Closed) ∧ (
    (fold .print d.toNat a.toNat s = .ok f u))) := by
    refine ⟨(printS none), _, 6, 4, 0, _, ?_, ?_, ok_out (d := Flow.next) (by decide +kernel)⟩ <;> (first | decide +kernel | ((repeat (first | unfold Seq.Ready | unfold Seq.Closed)); first | decide +kernel | (intro _ h; cases h <;> decide +kernel)))

theorem wit_MatteFolds_1 :
    ∃ (s u : State) (d a : BitVec 5) (e : BitVec 1) (f : Flow),
    (s.me.Ready [.g d.toNat, .g a.toNat]) ∧ (
    (s.me.Closed) ∧ (
    (fold .fork d.toNat a.toNat s = .ok f u))) := by
    refine ⟨(printS (some { step := 7 })), _, 6, 4, 0, _, ?_, ?_, ok_out (d := Flow.next) (by decide +kernel)⟩ <;> (first | decide +kernel | ((repeat (first | unfold Seq.Ready | unfold Seq.Closed)); first | decide +kernel | (intro _ h; cases h <;> decide +kernel)))

theorem wit_MatteFolds_2 :
    ∃ (s u : State) (d a : BitVec 5) (e : BitVec 1) (f : Flow),
    (s.me.Ready [.g d.toNat, .g a.toNat]) ∧ (
    (s.me.Closed) ∧ (
    (fold .strike d.toNat a.toNat s = .ok f u))) := by
    refine ⟨(printS (some { step := 7 })), _, 6, 4, 0, _, ?_, ?_, ok_out (d := Flow.next) (by decide +kernel)⟩ <;> (first | decide +kernel | ((repeat (first | unfold Seq.Ready | unfold Seq.Closed)); first | decide +kernel | (intro _ h; cases h <;> decide +kernel)))

theorem wit_MatteFolds_3 :
    ∃ (s : State) (d a : BitVec 5) (e : BitVec 1) (l : Leaf) (rh ph : HomeLine Nat),
    let va := (s.me.gRead a.toNat).toNat
    let n := ((List.range 32).filter fun i => masked rh.data i).length
    (s.me.Ready [.g d.toNat, .g a.toNat]) ∧ (
    (s.me.Closed) ∧ (
    (Calm s.me) ∧ (
    (Cached s va .write true l) ∧ (
    (l.mv = true) ∧ (
    (tierOf l.base ≠ .peer) ∧ (
    (HomeReady s (recordLine s l) rh) ∧ (
    (HomeReady s (poolAnchor s) ph) ∧ (
    (n ≠ 0) ∧ (
    (s.me.Writable d.toNat 0) ∧ (
    ((s.vi s.me.vi).cstat = 0) ∧ (
    (StorableAfter s (max s.me.pts (max rh.rts ph.rts))) ∧ (
    ((∀ i, i < 32 → masked rh.data i = true → slotFault s.me.vi (myRoot s) (recPtr rh.data i) s = none ∧ (∃ h, HomeReady s (slotLine s rh.data i) h) ∧ slotLine s rh.data i ∉ lookups s rh.data)) ∧ (
    (Apart (recordLine s l :: poolAnchor s :: ((List.range 32).filter fun i => masked rh.data i).map (slotLine s rh.data))) ∧ (
    ((∀ w ∈ lookups s rh.data, w ≠ recordLine s l ∧ w ≠ poolAnchor s)))))))))))))))) := by
    refine ⟨(matteS bq (recordOf 31 70) (anchorOf 3) [(0x240300 / 128, homeOf 0)]), 6, 4, 0, matteLeaf, (homeOf (recordOf 31 70)), (homeOf poolLine), ?_, ?_, ?_, ?_, ?_, ?_, ?_, ?_, ?_, ?_, ?_, ?_, only_of (j := 31) (by decide +kernel) ⟨by decide +kernel, ⟨homeOf 0, ready_of (by decide +kernel)⟩, by decide +kernel⟩, ?_, ?_⟩ <;> (first | decide +kernel | ((repeat (first | unfold StorableAfter | unfold Cached | unfold Calm | unfold HomeReady | unfold Apart | unfold Seq.Ready | unfold Seq.Closed | unfold Seq.Writable | unfold Storable)); first | decide +kernel | (intro _ h; cases h <;> decide +kernel)))

theorem wit_MatteFolds_4 :
    ∃ (s : State) (d a : BitVec 5) (e : BitVec 1) (l : Leaf) (rh ph lh sh : HomeLine Nat) (i : Nat),
    let va := (s.me.gRead a.toNat).toNat
    let z := slotLine s rh.data i
    let y := l.base / 128 + i
    (s.me.Ready [.g d.toNat, .g a.toNat]) ∧ (
    (s.me.Closed) ∧ (
    (Calm s.me) ∧ (
    (Cached s va .write true l) ∧ (
    (l.mv = true) ∧ (
    (l.sh = false) ∧ (
    (tierOf l.base ≠ .peer) ∧ (
    (l.base % 4096 = 0) ∧ (
    ((l.lk = true → s.me.n.priv = true)) ∧ (
    (i < 32) ∧ (
    ((∀ j, j < 32 → masked rh.data j = decide (j = i))) ∧ (
    (HomeReady s (recordLine s l) rh) ∧ (
    (HomeReady s (poolAnchor s) ph) ∧ (
    (HomeReady s y lh) ∧ (
    (HomeReady s z sh) ∧ (
    (slotFault s.me.vi (myRoot s) (recPtr rh.data i) s = none) ∧ (
    ((s.vi s.me.vi).cstat = 0) ∧ (
    (StorableAfter s (max (max s.me.pts ph.rts) (max lh.rts rh.rts))) ∧ (
    ([recordLine s l, poolAnchor s, y, z].Pairwise (· ≠ ·)) ∧ (
    ((∀ w ∈ lookups s rh.data, w ∉ [recordLine s l, poolAnchor s, y, z])) ∧ (
    (s.me.Writable d.toNat 0))))))))))))))))))))) := by
    refine ⟨(printS none), 6, 4, 0, matteLeaf, (homeOf (recordOf 5 34)), (homeOf poolLine), (homeOf 77), (homeOf 0x123456), 5, ?_, ?_, ?_, ?_, ?_, ?_, ?_, ?_, ?_, ?_, ?_, ?_, ?_, ?_, ?_, ?_, ?_, ?_, ?_, ?_, ?_⟩ <;> (first | decide +kernel | ((repeat (first | unfold StorableAfter | unfold Cached | unfold Calm | unfold HomeReady | unfold Seq.Ready | unfold Seq.Closed | unfold Seq.Writable | unfold Storable)); first | decide +kernel | (intro _ h; cases h <;> decide +kernel)))

theorem wit_MatteFolds_5 :
    ∃ (s : State) (d a : BitVec 5) (e : BitVec 1) (w : Note),
    (s.me.Ready [.g d.toNat, .g a.toNat]) ∧ (
    (s.me.Closed) ∧ (
    (s.Fresh) ∧ (
    (s.me.note = some w) ∧ (
    (w.step = 7) ∧ (
    (w.time = 0) ∧ (
    (s.me.Writable d.toNat 0))))))) := by
    refine ⟨(printS (some { step := 7 })), 6, 4, 0, _, ?_, ?_, ?_, some_out (by decide +kernel), ?_, ?_, ?_⟩ <;> (first | decide +kernel | ((repeat (first | unfold Seq.Ready | unfold Seq.Closed | unfold Seq.Writable | unfold State.Fresh)); first | decide +kernel | (intro _ h; cases h <;> decide +kernel)))

theorem wit_MatteControl_0 :
    ∃ (s : State) (d a : BitVec 5) (e : BitVec 1) (l : Leaf) (cp : Copy Nat),
    let va := (s.me.gRead a.toNat).toNat
    let x := l.entry / 128
    let t := max s.me.pts cp.wts
    let w0 := BitVec.ofNat 64 (lineField cp.data (l.entry % 128) 8)
    let w1 := BitVec.ofNat 64 (lineField cp.data (l.entry % 128 + 8) 8)
    let r : DWord := (if w1.getLsbD 24 then 1 <<< 63 else 0) ||| (if w0.getLsbD 52 then 1 <<< 62 else 0) ||| (if w0.getLsbD 8 then 1 <<< 61 else 0) ||| ((w1.setWidth 24).setWidth 64 <<< 32)
    (s.me.Ready [.g d.toNat, .g a.toNat]) ∧ (
    (s.me.strip = none) ∧ (
    (Calm s.me) ∧ (
    (Cached s va .read false l) ∧ (
    (l.mv = false) ∧ (
    (l.entry % 16 = 0) ∧ (
    ((tierOf l.entry = .hbm ∨ tierOf l.entry = .lpddr)) ∧ (
    (s.copy (s.cur / 32) x = some cp) ∧ (
    (cp.poison = false) ∧ (
    ((cp.own = true ∨ t ≤ cp.rts)) ∧ (
    (Storable s t) ∧ (
    (commitLocked s.cur x s = false) ∧ (
    (s.me.Writable d.toNat r))))))))))))) := by
    refine ⟨queryS, 6, 4, 0, leaf7, queryCopy, ?_, ?_, ?_, ?_, ?_, ?_, ?_, ?_, ?_, ?_, ?_, ?_, ?_⟩ <;> (first | decide +kernel | ((repeat (first | unfold Storable | unfold Cached | unfold Calm | unfold Seq.Ready | unfold Seq.Writable)); first | decide +kernel | (intro _ h; cases h <;> decide +kernel)))

theorem wit_MatteControl_1 :
    ∃ (s : State) (d a : BitVec 5) (e : BitVec 1) (cid : Nat) (ph ah th : HomeLine Nat),
    let frame := (s.me.gRead a.toNat).toNat / 4096 * 4096
    let root := rootOf s.me.vi cid s
    let n := lineField ah.data 24 4
    let pft := pftBase root s + 8 * n
    (s.me.n.priv = true) ∧ (
    (s.Canonical) ∧ (
    (s.me.Ready [.g d.toNat, .g a.toNat]) ∧ (
    (s.me.Closed) ∧ (
    (Calm s.me) ∧ (
    (root % 16384 = 0) ∧ (
    (pft % 8 = 0) ∧ (
    (namedContext (s.me.gRead d.toNat) s = some cid) ∧ (
    (isMemory frame = true) ∧ (
    (s.frameOwner (frame / 4096) = s.me.vi) ∧ (
    (n < 2 ^ 19) ∧ (
    (HomeReady s ((root + 0x2080) / 128) ph) ∧ (
    (HomeReady s ((root + 0x2000) / 128) ah) ∧ (
    (HomeReady s (pft / 128) th) ∧ (
    (structOk s.me.vi pft s = true) ∧ (
    ((s.vi s.me.vi).cstat = 0) ∧ (
    (StorableAfter s (max (max s.me.pts ph.rts) (max ah.rts th.rts))) ∧ (
    ((∀ j, j < 32 → ∃ h, HomeReady s (frame / 128 + j) h ∧ StorableAfter s h.rts)) ∧ (
    (Apart ([(root + 0x2080) / 128, (root + 0x2000) / 128, pft / 128] ++ (List.range 32).map fun j => frame / 128 + j)) ∧ (
    (s.me.Writable d.toNat 0)))))))))))))))))))) := by
    refine ⟨(matteS privQ 0 (anchorOf 0) ((List.range 32).map fun j => (0x261000 / 128 + j, homeOf 0))), 6, 7, 0, _, (homeOf poolLine), (homeOf (anchorOf 0)), (homeOf poolFrames), ?_, ?_, ?_, ?_, ?_, ?_, ?_, some_out (by decide +kernel), ?_, ?_, ?_, ?_, ?_, ?_, ?_, ?_, ?_, fun j hj => ⟨homeOf 0, ready_of (low32_of (p := fun j => readyB _ (0x261000 / 128 + j) (homeOf 0)) (by decide +kernel) j hj), storable_of (by decide +kernel)⟩, ?_, ?_⟩ <;> (first | decide +kernel | ((repeat (first | unfold StorableAfter | unfold Calm | unfold HomeReady | unfold Apart | unfold State.Canonical | unfold Seq.Ready | unfold Seq.Closed | unfold Seq.Writable | unfold Storable)); first | decide +kernel | (intro _ h; cases h <;> decide +kernel)))

theorem wit_MatteControl_2 :
    ∃ (s s1 s2 : State) (d a : BitVec 5) (e : BitVec 1) (r : BitVec 5) (cid : Nat) (x y : Pte) (xh yh : HomeLine Nat),
    let ea := (s2.vi s.me.vi).pltbase.toNat + 16 * x.leaf.plix
    (s.me.Ready [.g d.toNat, .g a.toNat, .g r.toNat]) ∧ (
    (s.me.Closed) ∧ (
    (Calm s.me) ∧ (
    (namedContext (s.me.gRead r.toNat) s = some cid) ∧ (
    (pteOf s.me.cid (s.me.gRead a.toNat).toNat s = .ok (.ok (some x)) s1) ∧ (
    (pteOf cid (s.me.gRead d.toNat).toNat s1 = .ok (.ok (some y)) s2) ∧ (
    (s2.me = { s.me with pts := s2.me.pts }) ∧ (
    (s2.cur = s.cur) ∧ (
    (s2.stage = s.stage) ∧ (
    (x.shared = true) ∧ (
    (y.w0.getLsbD 0 = false) ∧ (
    (x.leaf.plix < (s2.vi s.me.vi).pltsize) ∧ (
    (ea % 16 = 0) ∧ (
    (y.entry % 16 = 0) ∧ (
    (HomeReady s2 (ea / 128) xh) ∧ (
    (HomeReady s2 (y.entry / 128) yh) ∧ (
    (ea / 128 ≠ y.entry / 128) ∧ (
    ((s2.vi s.me.vi).cstat = 0) ∧ (
    (StorableAfter s2 (max s2.me.pts (max xh.rts yh.rts))) ∧ (
    (lineField xh.data (ea % 128 + 5) 1 % 2 = 1) ∧ (
    (0 < lineField xh.data (ea % 128 + 8) 2) ∧ (
    (lineField xh.data (ea % 128 + 8) 2 < 65535) ∧ (
    (s.me.Writable r.toNat 0))))))))))))))))))))))) := by
    refine ⟨(plateS shareQ []), _, _, 6, 4, 0, 8, _, _, _, plates, (homeOf (tables.line (0x267090 / 128))), ?_, ?_, ?_, some_out (by decide +kernel), pte_out (by decide +kernel), pte_out (by decide +kernel), by unfold HomeReady Seq.Writable StorableAfter Storable; decide +kernel⟩ <;> (first | decide +kernel | ((repeat (first | unfold StorableAfter | unfold Calm | unfold HomeReady | unfold Seq.Ready | unfold Seq.Closed | unfold Seq.Writable | unfold Storable)); first | decide +kernel | (intro _ h; cases h <;> decide +kernel)))

theorem wit_MatteControl_3 :
    ∃ (s : State) (a : BitVec 5) (e : BitVec 1) (r : BitVec 5) (cid : Nat),
    (s.me.Ready [.g a.toNat, .g r.toNat]) ∧ (
    (s.me.Closed) ∧ (
    (s.me.holds = []) ∧ (
    (namedContext (s.me.gRead r.toNat) s = some cid) ∧ (
    ∃ s1 x xh,
    (s.me.note = none) ∧ (
    (s.me.phase = []) ∧ (
    (s.me.commit = none) ∧ (
    (pteOf cid (s.me.gRead a.toNat).toNat s = .ok (.ok (some x)) s1) ∧ (
    (s1.me = { s.me with pts := s1.me.pts }) ∧ (
    (s1.cur = s.cur) ∧ (
    (x.shared = true) ∧ (
    ((plateState x.leaf.plix s1).1 = true) ∧ (
    (0 < (plateState x.leaf.plix s1).2) ∧ (
    (x.leaf.mv = false) ∧ (
    (x.entry % 16 = 0) ∧ (
    (HomeReady s1 (x.entry / 128) xh) ∧ (
    (s.me.Writable r.toNat 0) ∧ (
    ((s1.vi s.me.vi).cstat = 0) ∧ (
    (StorableAfter s1 (max s1.me.pts xh.rts)))))))))))))))))))) := by
    refine ⟨(plateS shareQ [(0x266070 / 128, homeOf (tables.line (0x266070 / 128)))]), 4, 0, 8, _, ?_, ?_, ?_, some_out (by decide +kernel), _, _, (homeOf (tables.line (0x266070 / 128))), ?_, ?_, ?_, pte_out (by decide +kernel), by unfold HomeReady Seq.Writable StorableAfter Storable; decide +kernel⟩ <;> (first | decide +kernel | ((repeat (first | unfold StorableAfter | unfold HomeReady | unfold Seq.Ready | unfold Seq.Closed | unfold Seq.Writable | unfold Storable)); first | decide +kernel | (intro _ h; cases h <;> decide +kernel)))

theorem wit_MatteControl_4 :
    ∃ (s : State) (a : BitVec 5) (e : BitVec 1) (r : BitVec 5) (cid : Nat),
    (s.me.Ready [.g a.toNat, .g r.toNat]) ∧ (
    (s.me.Closed) ∧ (
    (s.me.holds = []) ∧ (
    (namedContext (s.me.gRead r.toNat) s = some cid) ∧ (
    ∃ (w : Note) (xh : HomeLine Nat),
    let ea := (s.vi s.me.vi).pltbase.toNat + 16 * (w.time - 1)
    let k := lineField xh.data (ea % 128 + 8) 2
    (s.me.note = some w) ∧ (
    (w.step = 7) ∧ (
    (0 < w.time) ∧ (
    (ea % 16 = 0) ∧ (
    (HomeReady s (ea / 128) xh) ∧ (
    (2 ≤ k) ∧ (
    (s.me.Writable r.toNat 0) ∧ (
    ((s.vi s.me.vi).cstat = 0) ∧ (
    (StorableAfter s (max s.me.pts xh.rts)))))))))))))) := by
    refine ⟨(plateS { shareQ with note := some { step := 7, time := 1 } } []), 4, 0, 8, _, ?_, ?_, ?_, some_out (by decide +kernel), { step := 7, time := 1 }, plates, by decide +kernel, ?_, ?_, ?_, ?_, ?_, ?_, ?_, ?_⟩ <;> (first | decide +kernel | ((repeat (first | unfold StorableAfter | unfold HomeReady | unfold Seq.Ready | unfold Seq.Closed | unfold Seq.Writable | unfold Storable)); first | decide +kernel | (intro _ h; cases h <;> decide +kernel)))

theorem wit_SystemInstructions_0 :
    ∃ (s : State) (d a : BitVec 5) (e : BitVec 1) (k : BitVec 2) (cid : Nat),
    (s.me.n.priv = true) ∧ (
    (s.me.Ready [.g d.toNat, .g a.toNat]) ∧ (
    (s.me.Closed) ∧ (
    (s.Fresh) ∧ (
    (namedContext (s.me.gRead d.toNat) s = some cid) ∧ (
    (k.toNat ≤ 2) ∧ (
    (s.me.note = none) ∧ (
    (s.me.Writable d.toNat 0)))))))) := by
    refine ⟨(matteS privQ 0 (anchorOf 3) []), 6, 7, 0, 2, _, ?_, ?_, ?_, ?_, some_out (by decide +kernel), ?_, ?_, ?_⟩ <;> (first | decide +kernel | ((repeat (first | unfold Seq.Ready | unfold Seq.Closed | unfold Seq.Writable | unfold State.Fresh)); first | decide +kernel | (intro _ h; cases h <;> decide +kernel)))

theorem wit_SystemInstructions_1 :
    ∃ (s : State) (d a : BitVec 5) (e : BitVec 1) (k : BitVec 2) (cid : Nat),
    (s.me.n.priv = true) ∧ (
    (s.me.Ready [.g d.toNat, .g a.toNat]) ∧ (
    (s.me.Closed) ∧ (
    (s.Fresh) ∧ (
    (namedContext (s.me.gRead d.toNat) s = some cid) ∧ (
    (k.toNat ≤ 2) ∧ (
    ∃ n,
    (s.me.note = some n) ∧ (
    (n.step = 7) ∧ (
    (s.me.Writable d.toNat 0))))))))) := by
    refine ⟨(matteS { privQ with note := some { step := 7 } } 0 (anchorOf 3) []), 6, 7, 0, 2, _, ?_, ?_, ?_, ?_, some_out (by decide +kernel), ?_, _, some_out (by decide +kernel), ?_, ?_⟩ <;> (first | decide +kernel | ((repeat (first | unfold Seq.Ready | unfold Seq.Writable | unfold State.Fresh | unfold Seq.Closed)); first | decide +kernel | (intro _ h; cases h <;> decide +kernel)))

theorem wit_SystemInstructions_2 :
    ∃ (s : State) (k : Agent) (i : Inval),
    ((s.seq k).wait = .inv) ∧ (
    ((s.seq k).inval = some i) ∧ (
    (i.holders = []) ∧ (
    (i.stores = [])))) := by
    refine ⟨invS, 5, _, ?_, some_out (by decide +kernel), ?_, ?_⟩ <;> decide +kernel

theorem wit_SystemInstructions_3 :
    ∃ (s : State) (d a : BitVec 5) (e k : BitVec 1),
    (s.me.n.priv = true) ∧ (
    (s.me.Ready [.g d.toNat, .g a.toNat]) ∧ (
    (s.me.Closed) ∧ (
    (s.Fresh) ∧ (
    (s.me.Writable d.toNat 0) ∧ (
    let pa := (s.me.gRead a.toNat).toNat
    let f := pa / 4096
    ∃ n,
    (s.me.note = some n) ∧ (
    (n.step = 30))))))) := by
    refine ⟨(flipS (some { step := 30 })), 6, 7, 0, 1, ?_, ?_, ?_, ?_, ?_, _, some_out (by decide +kernel), ?_⟩ <;> (first | decide +kernel | ((repeat (first | unfold Seq.Ready | unfold Seq.Writable | unfold State.Fresh | unfold Seq.Closed)); first | decide +kernel | (intro _ h; cases h <;> decide +kernel)))

theorem wit_SystemInstructions_4 :
    ∃ (s : State) (d a : BitVec 5) (e k : BitVec 1),
    (s.me.n.priv = true) ∧ (
    (s.me.Ready [.g d.toNat, .g a.toNat]) ∧ (
    (s.me.Closed) ∧ (
    (s.Fresh) ∧ (
    (s.me.Writable d.toNat 0) ∧ (
    let pa := (s.me.gRead a.toNat).toNat
    let f := pa / 4096
    (s.me.note = none) ∧ (
    (pa % 4096 = 0) ∧ (
    (isMemory pa = true) ∧ (
    (s.frameOwner f = s.me.vi) ∧ (
    (portOf s.me.vi s = .cxl) ∧ (
    (s.flipping.find f = none) ∧ (
    (s.bias.contains f = decide (k = 1))))))))))))) := by
    refine ⟨(flipS none), 6, 7, 0, 0, ?_, ?_, ?_, ?_, ?_, ?_, ?_, ?_, ?_, ?_, ?_, ?_⟩ <;> (first | decide +kernel | ((repeat (first | unfold Seq.Ready | unfold Seq.Writable | unfold State.Fresh | unfold Seq.Closed)); first | decide +kernel | (intro _ h; cases h <;> decide +kernel)))

theorem wit_SystemInstructions_5 :
    ∃ (s : State) (d a : BitVec 5) (e k : BitVec 1),
    (s.me.n.priv = true) ∧ (
    (s.me.Ready [.g d.toNat, .g a.toNat]) ∧ (
    (s.me.Closed) ∧ (
    (s.Fresh) ∧ (
    (s.me.Writable d.toNat 0) ∧ (
    let pa := (s.me.gRead a.toNat).toNat
    let f := pa / 4096
    (s.me.note = none) ∧ (
    (pa % 4096 = 0) ∧ (
    (isMemory pa = true) ∧ (
    (s.frameOwner f = s.me.vi) ∧ (
    (portOf s.me.vi s = .cxl) ∧ (
    (s.flipping.find f = none) ∧ (
    (s.bias.contains f ≠ decide (k = 1)) ∧ (
    ((k = 1 → s.converted.find f = none)) ∧ (
    (flipLeft (decide (k = 1)) f s = [])))))))))))))) := by
    refine ⟨(flipS none), 6, 7, 0, 1, ?_, ?_, ?_, ?_, ?_, ?_, ?_, ?_, ?_, ?_, ?_, ?_, ?_, ?_⟩ <;> (first | decide +kernel | ((repeat (first | unfold Seq.Ready | unfold Seq.Writable | unfold State.Fresh | unfold Seq.Closed)); first | decide +kernel | (intro _ h; cases h <;> decide +kernel)))

theorem wit_SystemInstructions_6 :
    ∃ (s : State) (f b : Nat) (left : List Nat) (k : Agent),
    (s.flipping.find f = some (b, left, [k])) ∧ (
    ((s.seq k).wait = .flip f) ∧ (
    (b ≤ 1) ∧ (
    (flipLeft (decide (b = 1)) f s = [])))) := by
    refine ⟨flipping, 5, 1, [], 5, by decide +kernel, ?_, ?_, ?_⟩ <;> decide +kernel

theorem wit_SystemInstructions_7 :
    ∃ (s : State) (b : Binding) (sl : Slate),
    (s.me.Closed) ∧ (
    (AllArrived s.me) ∧ (
    (s.me.bound = some b) ∧ (
    (s.slates.find b.slot = some sl) ∧ (
    (s.cur < 8192))))) := by
    refine ⟨(workS { bound := some work, n := { claim := 3 } } false), _, _, ?_, ?_, some_out (by decide +kernel), some_out (by decide +kernel), ?_⟩ <;> (first | decide +kernel | ((repeat (first | unfold Seq.Closed | unfold AllArrived)); first | decide +kernel | (intro _ h; cases h <;> decide +kernel)))

theorem wit_SystemInstructions_8 :
    ∃ (s : State) (k : Agent) (u : Nat),
    (u ≤ s.cycle) ∧ (
    ((s.seq k).wait = .sleep u)) := by
    refine ⟨(sq { hq with wait := .sleep 0 }), 5, 0, ?_, ?_⟩ <;> decide +kernel

theorem wit_SystemInstructions_9 :
    ∃ (s : State) (k : Agent) (u : Nat),
    (u ≤ s.cycle) ∧ (
    ((s.seq k).wait = .pause u)) := by
    refine ⟨(sq { hq with wait := .pause 0 }), 5, 0, ?_, ?_⟩ <;> decide +kernel

theorem wit_BindingAndContexts_0 :
    ∃ (s : State) (d row outer count saved : Nat),
    (d < 4) ∧ (
    (row < 2048) ∧ (
    (takesWork (2048 * d + row) s = true) ∧ (
    ((rowOf (2048 * d + row) s).length < 4) ∧ (
    ((∀ v ∈ s.vis, ∀ Q ∈ v.2.queues, Q.1 < 64)) ∧ (
    ((∃ v ∈ s.vis, ∃ Q ∈ v.2.queues, (nextBind v.1 Q.1 (2048 * d + row) outer count saved s).isSome = true))))))) := by
    refine ⟨{ workS {} false with dies := Vector.replicate 4 {} }, 0, 5, 0, 4, 1, ?_, ?_, ?_, ?_, ?_, ?_⟩ <;> decide +kernel

theorem wit_BindingAndContexts_1 :
    ∃ (s : State) (k : Agent) (e : CallEntry) (es : List CallEntry) (sl : Slate),
    ((s.seq k).bound = none) ∧ (
    (takesWork k s = true) ∧ (
    (rowOf k s = e :: es) ∧ (
    (s.slates.find e.work.slot = some sl) ∧ (
    (sl.abandoned = false) ∧ (
    (e.valid = true) ∧ (
    (e.resume = true))))))) := by
    refine ⟨(workS {} true), 5, (entry true), [entry false], _, ?_, ?_, ?_, some_out (by decide +kernel), ?_, ?_, ?_⟩ <;> decide +kernel

theorem wit_BindingAndContexts_2 :
    ∃ (s : State) (k : Agent) (e : CallEntry) (es : List CallEntry) (sl : Slate),
    ((s.seq k).bound = none) ∧ (
    (takesWork k s = true) ∧ (
    (rowOf k s = e :: es) ∧ (
    (s.slates.find e.work.slot = some sl) ∧ (
    (sl.abandoned = false) ∧ (
    (e.valid = true) ∧ (
    (e.resume = false))))))) := by
    refine ⟨(workS {} false), 5, (entry false), [entry false], _, ?_, ?_, ?_, some_out (by decide +kernel), ?_, ?_, ?_⟩ <;> decide +kernel

theorem wit_BindingAndContexts_3 :
    ∃ (s : State) (k : Agent) (b : Binding) (c : Ctx) (sl : Slate),
    ((s.seq k).preempt.isSome = true) ∧ (
    ((s.seq k).saveReady = true) ∧ (
    ((s.seq k).bound = some b) ∧ (
    ((s.vi b.vi).ctxs.find b.cid = some c) ∧ (
    (c.dying = false) ∧ (
    (slotOwned b.vi c b.saveSlot s = true) ∧ (
    (s.slates.find b.slot = some sl) ∧ (
    (k < 8192) ∧ (
    ((∀ t, (s.seq k).wait ≠ .batch t)))))))))) := by
    refine ⟨(workS { bound := some work, preempt := some 4 } false), 5, _, _, _, ?_, ?_, some_out (by decide +kernel), some_out (by decide +kernel), ?_, ?_, some_out (by decide +kernel), ?_, run_ne_batch (by decide +kernel)⟩ <;> decide +kernel

theorem wit_BindingAndContexts_4 :
    ∃ (s : State) (k : Agent) (e : CallEntry) (es : List CallEntry) (c : Ctx) (sl : Slate) (x : SavedCtx),
    ((s.seq k).bound = none) ∧ (
    (rowOf k s = e :: es) ∧ (
    (e.resume = true) ∧ (
    (takesWork k s = true) ∧ (
    ((s.vi e.work.vi).ctxs.find e.work.cid = some c) ∧ (
    (s.slates.find e.work.slot = some sl) ∧ (
    ((c.saved.find? fun y => y.work = e.work) = some x) ∧ (
    (x.tag = none)))))))) := by
    refine ⟨(workS {} true), 5, (entry true), [entry false], _, _, _, ?_, ?_, ?_, ?_, some_out (by decide +kernel), some_out (by decide +kernel), some_out (by decide +kernel), ?_⟩ <;> decide +kernel

theorem wit_BindingAndContexts_5 :
    ∃ (s : State) (k : Agent),
    ((s.seq k).bound.isSome = true) ∧ (
    ((s.seq k).strip = none)) := by
    refine ⟨(workS { bound := some work } false), 5, ?_, ?_⟩ <;> decide +kernel

theorem wit_BindingAndContexts_6 :
    ∃ (s : State) (k : Agent) (st : Strip),
    ((s.seq k).forceDue s = true) ∧ (
    ((s.seq k).strip = some st) ∧ (
    ((s.seq k).commit = none))) := by
    refine ⟨forcedS, 5, _, ?_, some_out (by decide +kernel), ?_⟩ <;> decide +kernel

theorem wit_BindingAndContexts_7 :
    ∃ (s : State) (k h : Agent) (i : Inval),
    ((s.seq k).inval = some i) ∧ (
    (h ∈ i.holders) ∧ (
    (i.since + s.mgmt.tlbpinwait ≤ s.cycle) ∧ (
    ((s.seq h).bound.isSome = true) ∧ (
    ((s.seq h).pinsNamed i = true))))) := by
    refine ⟨pinS, 5, 5, _, some_out (by decide +kernel), ?_, ?_, ?_, ?_⟩ <;> decide +kernel

theorem wit_BindingAndContexts_8 :
    ∃ (s : State) (d : Nat),
    (d < 4) ∧ (
    ((s.die d).fenced = false)) := by
    refine ⟨(workS {} false), 3, ?_, ?_⟩ <;> decide +kernel

theorem wit_BindingAndContexts_9 :
    ∃ (s : State) (d : Nat),
    ((s.die d).fenced = true) ∧ (
    ((s.die d).reissued = false) ∧ (
    ((∀ e ∈ s.seqs, e.1 / 2048 = d → e.2.bound = none)))) := by
    refine ⟨fencedS, 0, ?_, ?_, ?_⟩ <;> decide +kernel

theorem wit_SlateLife_0 :
    ∃ (s : State) (vi q : Nat) (l : Leaf) (h0 h1 : HomeLine Nat),
    let Q := (s.vi vi).queues.getD q {}
    let va := Q.qhead.toNat
    let x := l.pa va / 128
    let b := h0.data.toNat + 2 ^ 1024 * h1.data.toNat
    (MayFetch (s.vi vi) Q) ∧ (
    (Q.linkOf = none) ∧ (
    (va % 256 = 0) ∧ (
    (DirectorCached s vi Q.ctx (.req (.slateFetch vi q)) va .read l) ∧ (
    (HomeReady s x h0) ∧ (
    (HomeReady s (x + 1) h1) ∧ (
    (Storable s (max h0.wts h1.wts)) ∧ (
    (l.pa va % 256 = 0) ∧ (
    (slateOk b q Q.next (((s.vi vi).ctxs.find Q.ctx).elim 0 Ctx.maxTiles) = true))))))))) := by
    refine ⟨(queueS fetchQ slateBytes), 3, 4, page0, (homeOf (BitVec.ofNat 1024 slateBytes)), (homeOf (BitVec.ofNat 1024 (slateBytes / 2 ^ 1024))), ⟨by decide +kernel, by decide +kernel, by decide +kernel, by decide +kernel, by decide +kernel, ctx1, by decide +kernel, rfl, rfl⟩, ?_, ?_, ?_, ?_, ?_, ?_, ?_, ?_⟩ <;> (first | decide +kernel | ((repeat (first | unfold Storable | unfold HomeReady | unfold DirectorCached | unfold MayFetch)); first | decide +kernel | (intro _ h; cases h <;> decide +kernel)))

theorem wit_SlateLife_1 :
    ∃ (s : State) (vi q : Nat) (l : Leaf) (h0 h1 : HomeLine Nat),
    let Q := (s.vi vi).queues.getD q {}
    let va := Q.qhead.toNat
    let x := l.pa va / 128
    let b := h0.data.toNat + 2 ^ 1024 * h1.data.toNat
    (MayFetch (s.vi vi) Q) ∧ (
    (Q.linkOf = none) ∧ (
    (va % 256 = 0) ∧ (
    (DirectorCached s vi Q.ctx (.req (.slateFetch vi q)) va .read l) ∧ (
    (HomeReady s x h0) ∧ (
    (HomeReady s (x + 1) h1) ∧ (
    (Storable s (max h0.wts h1.wts)) ∧ (
    (l.pa va % 256 = 0) ∧ (
    (slateOk b q Q.next (((s.vi vi).ctxs.find Q.ctx).elim 0 Ctx.maxTiles) = false))))))))) := by
    refine ⟨(queueS fetchQ 0), 3, 4, page0, (homeOf (BitVec.ofNat 1024 0)), (homeOf (BitVec.ofNat 1024 (0 / 2 ^ 1024))), ⟨by decide +kernel, by decide +kernel, by decide +kernel, by decide +kernel, by decide +kernel, ctx1, by decide +kernel, rfl, rfl⟩, ?_, ?_, ?_, ?_, ?_, ?_, ?_, ?_⟩ <;> (first | decide +kernel | ((repeat (first | unfold Storable | unfold HomeReady | unfold DirectorCached | unfold MayFetch)); first | decide +kernel | (intro _ h; cases h <;> decide +kernel)))

theorem wit_SlateLife_2 :
    ∃ (s : State) (vi q slot : Nat) (f : Fetched) (rest : List Fetched),
    let Q := (s.vi vi).queues.getD q {}
    let own := slateField f.bytes 56 8
    let guess := if own = 0 then Q.est.toNat else own
    (Q.ready = f :: rest) ∧ (
    (DepsMet s vi f.bytes) ∧ (
    ((bitsAt (slateField f.bytes 11 1) 1 1 = 1 → f.n ≤ Q.qdone + 1)) ∧ (
    ((∃ c, (s.vi vi).ctxs.find Q.ctx = some c ∧ c.lost = false ∧ c.dying = false)) ∧ (
    (s.slates.length < 1024) ∧ (
    ((s.slates.filter fun e => e.2.vi = vi).length < 64) ∧ (
    (s.mgmt.elect = false) ∧ (
    (EnergyAdmits s (guess + Q.excess)) ∧ (
    (liveDies s ≠ []) ∧ (
    (slot < 1024) ∧ (
    (s.slates.find slot = none) ∧ (
    ((∀ n, n < slot → (s.slates.find n).isSome = true))))))))))))) := by
    refine ⟨(queueS readyQ slateBytes), 3, 4, 0, { n := 1, addr := 0x100, bytes := slateBytes, t := 0 }, [], by decide +kernel, ?_, ?_, ⟨ctx1, by decide +kernel, rfl, rfl⟩, ?_, ?_, ?_, ?_, ?_, ?_, ?_, ?_⟩ <;> (first | decide +kernel | ((repeat (first | unfold DepsMet | unfold EnergyAdmits)); first | decide +kernel | (intro _ h; cases h <;> decide +kernel)))

theorem wit_SlateLife_3 :
    ∃ (s : State) (die slot : Nat) (sl : Slate),
    (s.slates.find slot = some sl) ∧ (
    (sl.resv.find die = none) ∧ (
    (sl.abandoned = false) ∧ (
    ((s.die die).fenced = false) ∧ (
    (die < 4) ∧ (
    (die ∈ sl.homeDies) ∧ (
    ((∃ b, StageRoom s die sl.stage b)))))))) := by
    refine ⟨(queueS fetchQ 0), 1, 1, _, some_out (by decide +kernel), ?_, ?_, ?_, ?_, ?_, ⟨2 ^ 26 - 8192, by unfold StageRoom; decide +kernel⟩⟩ <;> (first | decide +kernel | ((repeat (first | unfold StageRoom)); first | decide +kernel | (intro _ h; cases h <;> decide +kernel)))

theorem wit_SlateLife_4 :
    ∃ (s : State) (slot : Nat) (sl : Slate),
    (slot < 1024) ∧ (
    (s.slates.find slot = some sl) ∧ (
    (sl.abandoned = false) ∧ (
    (product sl.extents ≤ sl.doneCount) ∧ (
    (sl.commands = 0))))) := by
    refine ⟨(queueS fetchQ 0), 1, _, ?_, some_out (by decide +kernel), ?_, ?_, ?_⟩ <;> decide +kernel

theorem wit_SlateLife_5 :
    ∃ (s : State) (vi q : Nat) (l : Leaf) (h : HomeLine Nat),
    (q < 64) ∧ (
    let Q := (s.vi vi).queues.getD q {}
    let va := Q.doneAddr.toNat
    let x := l.pa va / 128
    (Q.wordWait = false) ∧ (
    (Q.wordHalt = false) ∧ (
    (Q.hostFrom = []) ∧ (
    (((s.vi vi).ctxs.find Q.ctx).isSome = true) ∧ (
    (va % 8 = 0) ∧ (
    (l.pa va % 8 = 0) ∧ (
    (DirectorCached s vi Q.ctx (.req (.slateComplete (1024 + 64 * vi + q))) va .write l) ∧ (
    (HomeReady s x h) ∧ (
    (Storable s (max (doneTimes vi q Q.qdone s) (h.rts + 1)))))))))))) := by
    refine ⟨(queueS doneQ 0), 3, 4, page0, (homeOf (BitVec.ofNat 1024 0)), ?_, ?_, ?_, ?_, ?_, ?_, ?_, ?_, ?_, ?_⟩ <;> (first | decide +kernel | ((repeat (first | unfold Storable | unfold HomeReady | unfold DirectorCached)); first | decide +kernel | (intro _ h; cases h <;> decide +kernel)))

theorem wit_FaultRings_0 :
    ∃ (s : State) (vi k cid pc number : Nat) (e : FaultEntry) (w : Bool),
    let r := (s.vi vi).ring
    ((s.vi vi).en = true) ∧ (
    (Ring.Takes r) ∧ (
    (r.queue = [{ post := .batch (.seq k) cid pc number [e], waited := w }]) ∧ (
    ((s.seq k).wait = .posting) ∧ (
    ((s.seq k).strip = none) ∧ (
    (s.Canonical) ∧ (
    (SlotPlain s vi r) ∧ (
    (r.nextTag ≠ 0) ∧ (
    (r.nextTag < 2 ^ 32) ∧ (
    ((∀ b ∈ r.batches, b.tag ≠ r.nextTag)) ∧ (
    (e.page % 4096 = 0) ∧ (
    (e.page < 2 ^ 57) ∧ (
    (e.access < 4) ∧ (
    (e.cause < 32) ∧ (
    (e.first < 65536) ∧ (
    (k < 8192) ∧ (
    (pc < 2 ^ 64) ∧ (
    (number < 2 ^ 64)))))))))))))))))) := by
    refine ⟨(ringS [.batch (.seq 5) 1 0xFFFFFFFFFFFFFFFF 0xFFFFFFFFFFFFFFFF [fault7]]), 3, 5, 1, 0xFFFFFFFFFFFFFFFF, 0xFFFFFFFFFFFFFFFF, fault7, false, ?_, ?_, ?_, ?_, ?_, ?_, slot_of (by decide +kernel), ?_, ?_, ?_, ?_, ?_, ?_, ?_, ?_, ?_, ?_, ?_⟩ <;> (first | decide +kernel | ((repeat (first | unfold Ring.Takes | unfold SlotPlain | unfold State.Canonical | unfold Storable)); first | decide +kernel | (intro _ h; cases h <;> decide +kernel)))

theorem wit_FaultRings_1 :
    ∃ (s : State) (vi kind cid detail pc : Nat),
    let r := (s.vi vi).ring
    ((s.vi vi).en = true) ∧ (
    (Ring.Takes r) ∧ (
    (r.queue = []) ∧ (
    (s.Canonical) ∧ (
    (SlotPlain s vi r) ∧ (
    (kind < 256) ∧ (
    (detail < 2 ^ 64))))))) := by
    refine ⟨(ringS []), 3, 255, 1, 0xFFFFFFFFFFFFFFFF, 0, ?_, ?_, ?_, ?_, slot_of (by decide +kernel), ?_, ?_⟩ <;> (first | decide +kernel | ((repeat (first | unfold Ring.Takes | unfold SlotPlain | unfold State.Canonical | unfold Storable)); first | decide +kernel | (intro _ h; cases h <;> decide +kernel)))

theorem wit_HomesAnswer_0 :
    ∃ (s : State) (k gen x pts lease : Nat) (h : HomeLine Nat),
    ((s.seq k).gen = gen) ∧ (
    (HomeReady s x h) ∧ (
    let T := max pts h.wts
    (Storable s (T + lease)))) := by
    refine ⟨(atHome bq), 5, 0, line7, 10, 4096, home7, ?_, ?_, ?_⟩ <;> (first | decide +kernel | ((repeat (first | unfold Storable | unfold HomeReady)); first | decide +kernel | (intro _ h; cases h <;> decide +kernel)))

theorem wit_HomesAnswer_1 :
    ∃ (s : State) (k gen x pts : Nat) (h : HomeLine Nat) (r : Bool),
    ((s.seq k).gen = gen) ∧ (
    (HomeReady s x h)) := by
    refine ⟨(atHome bq), 5, 0, line7, 10, home7, true, ?_, ?_⟩ <;> (first | decide +kernel | ((repeat (first | unfold HomeReady)); first | decide +kernel | (intro _ h; cases h <;> decide +kernel)))

theorem wit_HomesAnswer_2 :
    ∃ (s : State) (k gen x pts : Nat) (h : HomeLine Nat) (r : Bool),
    ((s.seq k).gen = gen) ∧ (
    ∃ o,
    (s.home x = some h) ∧ (
    (h.own = some o) ∧ (
    (o ≠ l1Of (k / 32) x) ∧ (
    (h.recalled = false) ∧ (
    (s.hostBias x = false) ∧ (
    (s.flipping.find (x / 32) = none) ∧ (
    (roomQueue x s = []) ∧ (
    ((∀ w ∈ s.devWrites, w.1 ≠ x)))))))))) := by
    refine ⟨(ownedS 4), 5, 0, 0x900, 10, (ownedHome 4), false, ?_, (.l1 4), ?_, ?_, ?_, ?_, ?_, ?_, ?_, ?_⟩ <;> decide +kernel

theorem wit_HomesAnswer_3 :
    ∃ (s : State) (k gen x tc wts epoch : Nat) (h : HomeLine Nat),
    ((s.seq k).gen = gen) ∧ (
    (HomeReady s x h) ∧ (
    (h.wts = wts ∧ epoch = s.rebases) ∧ (
    (Storable s tc)))) := by
    refine ⟨(atHome bq), 5, 0, line7, 40, 4, 0, home7, ?_, ?_, ?_, ?_⟩ <;> (first | decide +kernel | ((repeat (first | unfold Storable | unfold HomeReady)); first | decide +kernel | (intro _ h; cases h <;> decide +kernel)))

theorem wit_HomesAnswer_4 :
    ∃ (s : State) (k gen x tc wts epoch : Nat) (h : HomeLine Nat),
    ((s.seq k).gen = gen) ∧ (
    (HomeReady s x h) ∧ (
    (¬(h.wts = wts ∧ epoch = s.rebases)))) := by
    refine ⟨(atHome bq), 5, 0, line7, 40, 5, 0, home7, ?_, ?_, fun h => absurd h.1 (by decide +kernel)⟩ <;> (first | decide +kernel | ((repeat (first | unfold HomeReady)); first | decide +kernel | (intro _ h; cases h <;> decide +kernel)))

theorem wit_HomesAnswer_5 :
    ∃ (s : State) (o : Owner) (gen x ver wts rts : Nat) (bytes : Line) (mask : LineMask) (h : HomeLine Nat),
    (OwnedBy s x h o gen ver) ∧ (
    (Storable s wts) ∧ (
    (Storable s rts) ∧ (
    (TakesWrite s x 128 h)))) := by
    refine ⟨(ownedS 0), (.l1 0), 0, 0x900, 4, 9, 99, 0xAABB, 3, (ownedHome 0), ?_, ?_, ?_, ?_⟩ <;> (first | decide +kernel | ((repeat (first | unfold Storable | unfold OwnedBy | unfold TakesWrite)); first | decide +kernel | (intro _ h; cases h <;> decide +kernel)))

theorem wit_HomesAnswer_6 :
    ∃ (s : State) (k gen x tp i : Nat) (bytes : Line) (mask : LineMask) (h : HomeLine Nat),
    ((s.seq k).gen = gen) ∧ (
    (HomeReady s x h)) := by
    refine ⟨(atHome bq), 5, 0, line7, 40, 1, 0xAABB, 3, home7, ?_, ?_⟩ <;> (first | decide +kernel | ((repeat (first | unfold HomeReady)); first | decide +kernel | (intro _ h; cases h <;> decide +kernel)))

theorem wit_HomesAnswer_7 :
    ∃ (s : State) (k gen x tp i : Nat) (bytes : Line) (mask : LineMask) (h : HomeLine Nat),
    ((s.seq k).gen = gen) ∧ (
    (s.home x = some h) ∧ (
    (h.pubs = [{ id := i, k := k, tp := none, mask := 0, lapped := [] }]) ∧ (
    (TakesWrite s x (s.seq k).vi h) ∧ (
    (Storable s (max h.wts tp)))))) := by
    refine ⟨publishedS, 5, 0, 0x900, 40, 1, 0xAABB, 3, { data := 7, wts := 0, rts := 0, pubs := [{ id := 1, k := 5, tp := none, mask := 0, lapped := [] }] }, ?_, ?_, ?_, ?_, ?_⟩ <;> (first | decide +kernel | ((repeat (first | unfold Storable | unfold TakesWrite)); first | decide +kernel | (intro _ h; cases h <;> decide +kernel)))

theorem wit_HomesAnswer_8 :
    ∃ (s : State) (k gen x a b c : Nat) (o : Owner) (bytes : Line) (mask : LineMask) (p : Bool),
    (roomQueue x s = []) ∧ (
    ((s.seq k).gen ≠ gen)) := by
    refine ⟨(atHome bq), 5, 1, line7, 0, 0, 0, (.l1 0), 0, 0, false, ?_, ?_⟩ <;> decide +kernel

theorem wit_HomesAnswer_9 :
    ∃ (s : State) (k gen x a b c : Nat) (o : Owner) (bytes : Line) (mask : LineMask) (p : Bool),
    (roomQueue x s = []) ∧ (
    ((∀ h, s.home x = some h → h.ver ≠ c ∨ gen ≠ ownerGen o s))) := by
    refine ⟨(ownedS 0), 5, 0, 0x900, 9, 99, 5, (.l1 0), 0, 0, false, ?_, fun h hh => .inl (by rw [show (ownedS 0).home 0x900 = some (ownedHome 0) by decide +kernel] at hh; rw [← Option.some.inj hh]; decide +kernel)⟩ <;> decide +kernel

theorem wit_SlicesAnswer_0 :
    ∃ (s : State) (k x wts rts ver : Nat) (f : Form) (r : Bool),
    let c := k / 32
    (s.tbase ≤ wts) ∧ (
    (s.tbase ≤ rts) ∧ (
    (Storable s wts) ∧ (
    (Storable s rts) ∧ (
    (sliceUse (sliceOf c x) s + 128 ≤ 262144) ∧ (
    ((∀ y, s.copy c x = some y → y.own = false))))))) := by
    refine ⟨(atHome bq), 5, line7, 4, 20, 9, { code := 3, nsec := 1, image := 7 }, false, ?_, ?_, ?_, ?_, ?_, by decide +kernel⟩ <;> (first | decide +kernel | ((repeat (first | unfold Storable)); first | decide +kernel | (intro _ h; cases h <;> decide +kernel)))

theorem wit_SlicesAnswer_1 :
    ∃ (s : State) (k x wts rts ver : Nat) (f : Form) (r : Bool),
    let c := k / 32
    (s.tbase ≤ wts) ∧ (
    (s.tbase ≤ rts) ∧ (
    (Storable s wts) ∧ (
    (Storable s rts) ∧ (
    (sliceUse (sliceOf c x) s + 128 ≤ 262144) ∧ (
    ∃ y,
    (s.copy c x = some y)))))) := by
    refine ⟨(copyS true {}), 5, 0x900, 4, 20, 9, { code := 3, nsec := 1, image := 7 }, false, ?_, ?_, ?_, ?_, ?_, _, some_out (by decide +kernel)⟩ <;> (first | decide +kernel | ((repeat (first | unfold Storable)); first | decide +kernel | (intro _ h; cases h <;> decide +kernel)))

theorem wit_SlicesAnswer_2 :
    ∃ (s : State) (k x wts rts ver : Nat) (f : Form) (r : Bool),
    let c := k / 32
    (s.tbase ≤ wts) ∧ (
    (s.tbase ≤ rts) ∧ (
    (Storable s wts) ∧ (
    (Storable s rts) ∧ (
    (sliceUse (sliceOf c x) s + 128 ≤ 262144) ∧ (
    (s.copy c x = none)))))) := by
    refine ⟨(atHome bq), 5, line7, 4, 20, 9, { code := 3, nsec := 1, image := 7 }, true, ?_, ?_, ?_, ?_, ?_, ?_⟩ <;> (first | decide +kernel | ((repeat (first | unfold Storable)); first | decide +kernel | (intro _ h; cases h <;> decide +kernel)))

theorem wit_SlicesAnswer_3 :
    ∃ (s : State) (k x : Nat) (c : Commit),
    ((s.seq k).commit = some c) := by
    refine ⟨(sq (committing false)), 5, 0x900, _, some_out (by decide +kernel)⟩ <;> decide +kernel

theorem wit_SlicesAnswer_4 :
    ∃ (s : State) (c x ver : Nat) (m : RecallMode) (p : Copy Nat),
    (s.copy c x = some p) ∧ (
    (p.own = true) ∧ (
    (p.ver = ver) ∧ (
    ((∀ e ∈ s.seqs, e.1 / 32 = c → x ∉ e.2.holds))))) := by
    refine ⟨(copyS true {}), 0, 0x900, 4, .i, _, some_out (by decide +kernel), ?_, ?_, ?_⟩ <;> decide +kernel

theorem wit_SlicesAnswer_5 :
    ∃ (s : State) (c x ver : Nat) (m : RecallMode) (p : Copy Nat),
    (s.copy c x = some p) ∧ (
    (p.own = false ∨ p.ver ≠ ver)) := by
    refine ⟨(copyS true {}), 0, 0x900, 5, .i, _, some_out (by decide +kernel), ?_⟩ <;> decide +kernel

theorem wit_SlicesAnswer_6 :
    ∃ (s : State) (k n : Nat),
    (n = (s.cycle - (s.seq k).lastStore) / 1024) ∧ (
    (n ≠ 0)) := by
    refine ⟨({ sq {} with cycle := 4096 }), 5, 4, ?_, ?_⟩ <;> decide +kernel

theorem wit_SlicesAnswer_7 :
    ∃ (s : State) (k : Nat) (p : Copy Nat),
    (64 ≤ (s.seq k).loadRun) ∧ (
    (s.copy (k / 32) (s.seq k).loadLine = some p)) := by
    refine ⟨(copyS true { loadRun := 64, loadLine := 0x900 }), 5, _, ?_, some_out (by decide +kernel)⟩ <;> decide +kernel

theorem wit_SlicesAnswer_8 :
    ∃ (s : State) (sl x0 : Nat) (h0 : HomeLine (BitVec 24)),
    let o := Owner.l1 sl
    let c := sl / 4
    ((x0, h0) ∈ s.homes) ∧ (
    (h0.own = some o) ∧ (
    (h0.recalled = true) ∧ (
    ((s.die (c / 64)).fencedClusters.contains c = true) ∧ (
    ((∀ e ∈ s.homes, s.homes.find e.1 = some e.2)) ∧ (
    ((∀ e ∈ s.homes, e.2.own = some o → Storable s (max (e.2.load s).wts (e.2.load s).rts + 1))) ∧ (
    ((∀ e ∈ s.seqs, e.1 / 32 = c → e.2.bound = none)) ∧ (
    ((∀ e ∈ s.homes, ∀ p ∈ e.2.pubs, p.k / 32 ≠ c))))))))) := by
    refine ⟨fencedOwner, 0, 0x900, _, List.mem_cons_self, ?_, ?_, ?_, ?_, ?_, ?_, ?_⟩ <;> (first | decide +kernel | ((repeat (first | unfold Storable)); first | decide +kernel | (intro _ h; cases h <;> decide +kernel)))

theorem wit_StripCommits_0 :
    ∃ (s : State) (k : Nat) (st : Strip),
    ((s.seq k).strip = some st) ∧ (
    ((s.seq k).commit = none) ∧ (
    (st.buf = []) ∧ (
    (st.rlx = []) ∧ (
    (st.reads ≠ []) ∧ (
    ((∀ e ∈ st.reads, ∀ p, s.copy (k / 32) e.1 = some p → p.own = false)) ∧ (
    (Storable s (s.seq k).pts))))))) := by
    refine ⟨(copyS false { strip := some readStrip }), 5, readStrip, by decide +kernel, ?_, ?_, ?_, ?_, fun e he p hp => by simpa using of_all (p := fun y => !y.own) ((by decide +kernel : ∀ e ∈ readStrip.reads, (((copyS false { strip := some readStrip }).copy 0 e.1).all fun y => !y.own) = true) e he) p hp, ?_⟩ <;> (first | decide +kernel | ((repeat (first | unfold Storable)); first | decide +kernel | (intro _ h; cases h <;> decide +kernel)))

theorem wit_StripCommits_1 :
    ∃ (s : State) (k x Tc : Nat) (st : Strip) (c : Commit) (e : BufEntry) (p : Copy Nat),
    ((s.seq k).strip = some st) ∧ (
    ((s.seq k).commit = some c) ∧ (
    (c.tc = some Tc) ∧ (
    (c.pending = []) ∧ (
    (c.failed = false) ∧ (
    (c.stored = false) ∧ (
    (c.slots = []) ∧ (
    (st.buf = [e]) ∧ (
    (st.phbuf = []) ∧ (
    (st.sst = []) ∧ (
    (st.rlx = []) ∧ (
    (e.loc = .line x) ∧ (
    (isMemory (128 * x) = true) ∧ (
    (s.copy (k / 32) x = some p) ∧ (
    (p.own = true) ∧ (
    (p.forRead = false) ∧ (
    (p.poison = false) ∧ (
    ((s.seq k).holds = [x]) ∧ (
    (s.tbase ≤ Tc) ∧ (
    (Storable s Tc)))))))))))))))))))) := by
    refine ⟨(copyS true (committing false)), 5, 0x900, 30, writeStrip, { tc := some 30 }, stored, _, by decide +kernel, by decide +kernel, rfl, ?_, ?_, ?_, ?_, ?_, ?_, ?_, ?_, ?_, ?_, some_out (by decide +kernel), ?_, ?_, ?_, ?_, ?_, ?_⟩ <;> (first | decide +kernel | ((repeat (first | unfold Storable)); first | decide +kernel | (intro _ h; cases h <;> decide +kernel)))

theorem wit_StripCommits_2 :
    ∃ (s : State) (k Tc : Nat) (st : Strip) (c : Commit),
    ((s.seq k).strip = some st) ∧ (
    ((s.seq k).commit = some c) ∧ (
    (c.tc = some Tc) ∧ (
    (c.pending = []) ∧ (
    (c.failed = true) ∧ (
    (c.slots = [])))))) := by
    refine ⟨(copyS true (committing true)), 5, 30, _, { tc := some 30, failed := true }, some_out (by decide +kernel), by decide +kernel, rfl, ?_, ?_, ?_⟩ <;> decide +kernel

theorem wit_ChainInstructions_0 :
    ∃ (s : State) (d a : BitVec 5) (e : BitVec 1) (f : BitVec 3) (l : Leaf) (p : Copy Nat),
    let E := (s.me.gRead a.toNat).toNat
    let ent := lineField p.data (l.pa E % 128) 64
    let c := chainOf s f.toNat
    let n := (s.chain c).last + 1
    (E % 64 = 0) ∧ (
    (l.pa E % 64 = 0) ∧ (
    (s.me.Ready [.g d.toNat, .g a.toNat]) ∧ (
    (s.me.Closed) ∧ (
    (Calm s.me) ∧ (
    (LineHeld s E .read l p) ∧ (
    ((p.own = true ∨ max s.me.pts p.wts ≤ p.rts)) ∧ (
    (Storable s (max s.me.pts p.wts)) ∧ (
    (validEntry (dieOfSeq s.cur) f.toNat ent = true) ∧ (
    (f.toNat ≤ 4) ∧ (
    ((f = 0 → entryField ent 8 1 = 2 → s.me.n.claim.getLsbD (entryField ent 11 1 % 8) = true)) ∧ (
    (chainFull c s = false) ∧ (
    (s.me.Writable d.toNat (BitVec.ofNat 64 n)) ∧ (
    (n < 2 ^ 64)))))))))))))) := by
    refine ⟨(filled (fillEntry 0x7080)), 31, 4, 0, 0, leaf7, (filledCopy (fillEntry 0x7080)), ?_, ?_, ?_, ?_, ?_, ?_, ?_, ?_, ?_, ?_, ?_, ?_, ?_, ?_⟩ <;> (first | decide +kernel | ((repeat (first | unfold Storable | unfold LineHeld | unfold Calm | unfold Seq.Ready | unfold Seq.Closed | unfold Seq.Writable | unfold Cached | unfold Leaf.Plain)); first | decide +kernel | (intro _ h; cases h <;> decide +kernel)))

theorem wit_ChainInstructions_1 :
    ∃ (s : State) (d a : BitVec 5) (e : BitVec 1) (f : BitVec 3) (l : Leaf) (p : Copy Nat),
    let E := (s.me.gRead a.toNat).toNat
    let ent := lineField p.data (l.pa E % 128) 64
    (E % 64 = 0) ∧ (
    (l.pa E % 64 = 0) ∧ (
    (s.me.Ready [.g d.toNat, .g a.toNat]) ∧ (
    (s.me.Closed) ∧ (
    (Calm s.me) ∧ (
    (LineHeld s E .read l p) ∧ (
    ((p.own = true ∨ max s.me.pts p.wts ≤ p.rts)) ∧ (
    (Storable s (max s.me.pts p.wts)) ∧ (
    (validEntry (dieOfSeq s.cur) f.toNat ent = true) ∧ (
    (f = 5) ∧ (
    let q := entryField ent 10 1
    let Q := (s.vi s.me.vi).queues.getD q {}
    let m := Q.qtail.toNat + 1
    (Q.ctx ≠ 0) ∧ (
    (Q.ctx = s.me.cid) ∧ (
    (Q.halt = false) ∧ (
    (Q.qtail.toNat ≤ Q.qdone) ∧ (
    (m < 2 ^ 64) ∧ (
    (s.me.Writable d.toNat (BitVec.ofNat 64 m))))))))))))))))) := by
    refine ⟨(entryS (entryOf [(8, 0), (10, 4), (16, 0x100)])), 31, 4, 0, 5, leaf7, (filledCopy (entryOf [(8, 0), (10, 4), (16, 0x100)])), ?_, ?_, ?_, ?_, ?_, ?_, ?_, ?_, ?_, ?_, ?_, ?_, ?_, ?_, ?_, ?_⟩ <;> (first | decide +kernel | ((repeat (first | unfold Storable | unfold LineHeld | unfold Calm | unfold Seq.Ready | unfold Seq.Closed | unfold Seq.Writable | unfold Cached | unfold Leaf.Plain)); first | decide +kernel | (intro _ h; cases h <;> decide +kernel)))

theorem wit_ChainInstructions_2 :
    ∃ (s : State) (d : BitVec 5) (f : BitVec 3),
    let ch := s.chain (chainOf s f.toNat)
    let stat := ch.last % 2 ^ 32 * 2 ^ 32 + ch.cmds.length % 2 ^ 16 * 2 ^ 16 + ch.doneStatus % 256 * 2 ^ 8
    (s.me.Ready [.g d.toNat]) ∧ (
    (s.Fresh) ∧ (
    (s.me.Writable d.toNat (BitVec.ofNat 64 ch.done)))) := by
    refine ⟨(chainsS chainQ [cmd4]), 31, 1, ?_, ?_, ?_⟩ <;> (first | decide +kernel | ((repeat (first | unfold Seq.Ready | unfold Seq.Writable | unfold State.Fresh)); first | decide +kernel | (intro _ h; cases h <;> decide +kernel)))

theorem wit_ChainInstructions_3 :
    ∃ (s : State) (d : BitVec 5) (f : BitVec 3),
    let ch := s.chain (chainOf s f.toNat)
    let stat := ch.last % 2 ^ 32 * 2 ^ 32 + ch.cmds.length % 2 ^ 16 * 2 ^ 16 + ch.doneStatus % 256 * 2 ^ 8
    (s.me.Ready [.g d.toNat]) ∧ (
    (s.Fresh) ∧ (
    (s.me.Writable d.toNat (BitVec.ofNat 64 stat)))) := by
    refine ⟨(chainsS chainQ [cmd4]), 31, 1, ?_, ?_, ?_⟩ <;> (first | decide +kernel | ((repeat (first | unfold Seq.Ready | unfold Seq.Writable | unfold State.Fresh)); first | decide +kernel | (intro _ h; cases h <;> decide +kernel)))

theorem wit_ChainInstructions_4 :
    ∃ (s : State) (d : BitVec 5) (f : BitVec 3),
    let ch := s.chain (chainOf s f.toNat)
    let stat := ch.last % 2 ^ 32 * 2 ^ 32 + ch.cmds.length % 2 ^ 16 * 2 ^ 16 + ch.doneStatus % 256 * 2 ^ 8
    (s.me.Ready [.g d.toNat]) ∧ (
    (s.Fresh) ∧ (
    (s.me.Closed) ∧ (
    (ch.cmds ≠ [])))) := by
    refine ⟨(chainsS chainQ [cmd4]), 31, 1, ?_, ?_, ?_, ?_⟩ <;> (first | decide +kernel | ((repeat (first | unfold Seq.Ready | unfold State.Fresh | unfold Seq.Closed)); first | decide +kernel | (intro _ h; cases h <;> decide +kernel)))

theorem wit_ChainInstructions_5 :
    ∃ (s : State) (d : BitVec 5) (f : BitVec 3),
    let ch := s.chain (chainOf s f.toNat)
    let stat := ch.last % 2 ^ 32 * 2 ^ 32 + ch.cmds.length % 2 ^ 16 * 2 ^ 16 + ch.doneStatus % 256 * 2 ^ 8
    (s.me.Ready [.g d.toNat]) ∧ (
    (s.Fresh) ∧ (
    (s.me.Closed) ∧ (
    (ch.cmds = []) ∧ (
    (s.me.Writable d.toNat (BitVec.ofNat 64 ch.done)))))) := by
    refine ⟨(chainsS chainQ []), 31, 1, ?_, ?_, ?_, ?_, ?_⟩ <;> (first | decide +kernel | ((repeat (first | unfold Seq.Ready | unfold Seq.Writable | unfold State.Fresh | unfold Seq.Closed)); first | decide +kernel | (intro _ h; cases h <;> decide +kernel)))

theorem wit_ChainInstructions_6 :
    ∃ (s : State) (d : BitVec 5) (f : BitVec 3),
    let ch := s.chain (chainOf s f.toNat)
    let stat := ch.last % 2 ^ 32 * 2 ^ 32 + ch.cmds.length % 2 ^ 16 * 2 ^ 16 + ch.doneStatus % 256 * 2 ^ 8
    (s.me.Ready [.g d.toNat]) ∧ (
    (s.Fresh) ∧ (
    (s.me.Closed) ∧ (
    ((∀ j, j ≤ 4 → (s.chain (chainOf s j)).cmds = [])) ∧ (
    (s.me.Writable d.toNat 0))))) := by
    refine ⟨(chainsS chainQ []), 31, 1, ?_, ?_, ?_, ?_, ?_⟩ <;> (first | decide +kernel | ((repeat (first | unfold Seq.Ready | unfold Seq.Writable | unfold State.Fresh | unfold Seq.Closed)); first | decide +kernel | (intro _ h; cases h <;> decide +kernel)))

theorem wit_ChainInstructions_7 :
    ∃ (s : State) (d a : BitVec 5) (e : BitVec 1) (f : BitVec 3),
    let ch := s.chain (chainOf s f.toNat)
    let n := (s.me.gRead a.toNat).toNat
    (s.me.Ready [.g d.toNat, .g a.toNat]) ∧ (
    (s.me.Closed) ∧ (
    (s.Fresh) ∧ (
    (s.me.note = none) ∧ (
    ((∀ x ∈ ch.cmds, x.n < n ∧ x.stop = false)) ∧ (
    (s.me.Writable d.toNat 0)))))) := by
    refine ⟨(chainsS chainQ [cmd4]), 31, 5, 0, 1, ?_, ?_, ?_, ?_, ?_, ?_⟩ <;> (first | decide +kernel | ((repeat (first | unfold Seq.Ready | unfold Seq.Writable | unfold State.Fresh | unfold Seq.Closed)); first | decide +kernel | (intro _ h; cases h <;> decide +kernel)))

theorem wit_ChainInstructions_8 :
    ∃ (s : State) (d a : BitVec 5) (e : BitVec 1) (f : BitVec 3),
    let ch := s.chain (chainOf s f.toNat)
    let n := (s.me.gRead a.toNat).toNat
    (s.me.Ready [.g d.toNat, .g a.toNat]) ∧ (
    (s.me.Closed) ∧ (
    (s.Fresh) ∧ (
    (s.me.note = none) ∧ (
    ((∀ x ∈ ch.cmds, x.waiting = none)) ∧ (
    ((∃ x ∈ ch.cmds, stopsAt n x = true)) ∧ (
    (s.me.Writable d.toNat (BitVec.ofNat 64 (ch.cmds.filter (stopsAt n)).length)))))))) := by
    refine ⟨(chainsS chainQ [cmd4]), 31, 9, 0, 1, ?_, ?_, ?_, ?_, ?_, ?_, ?_⟩ <;> (first | decide +kernel | ((repeat (first | unfold Seq.Ready | unfold Seq.Closed | unfold Seq.Writable | unfold State.Fresh)); first | decide +kernel | (intro _ h; cases h <;> decide +kernel)))

theorem wit_ChainInstructions_9 :
    ∃ (s : State) (d a : BitVec 5) (e : BitVec 1) (f : BitVec 3),
    let ch := s.chain (chainOf s f.toNat)
    let n := (s.me.gRead a.toNat).toNat
    (s.me.Ready [.g d.toNat, .g a.toNat]) ∧ (
    (s.me.Closed) ∧ (
    (s.Fresh) ∧ (
    ∃ (w : Note) (v : DWord),
    (s.me.note = some w) ∧ (
    (w.value = some v) ∧ (
    ((∀ x ∈ ch.cmds, n ≤ x.n → x.stop = false)) ∧ (
    (s.me.Writable d.toNat v))))))) := by
    refine ⟨(chainsS { chainQ with note := some { value := some 5 } } [cmd4]), 31, 5, 0, 1, ?_, ?_, ?_, { value := some 5 }, 5, by decide +kernel, by decide +kernel, ?_, ?_⟩ <;> (first | decide +kernel | ((repeat (first | unfold Seq.Ready | unfold Seq.Writable | unfold State.Fresh | unfold Seq.Closed)); first | decide +kernel | (intro _ h; cases h <;> decide +kernel)))

theorem wit_ChainInstructions_10 :
    ∃ (s : State) (d a : BitVec 5) (e : BitVec 1) (f : BitVec 3),
    let ch := s.chain (chainOf s f.toNat)
    (s.me.Ready [.g d.toNat, .g a.toNat]) ∧ (
    (s.Fresh) ∧ (
    ∃ n,
    (n = (s.me.gRead a.toNat).toNat) ∧ (
    (n ≠ 0) ∧ (
    (n ≤ ch.last) ∧ (
    (n ≤ ch.done) ∧ (
    (s.me.Writable d.toNat 0))))))) := by
    refine ⟨(chainsS chainQ [cmd4]), 31, 8, 0, 1, ?_, ?_, 2, ?_, ?_, ?_, ?_, ?_⟩ <;> (first | decide +kernel | ((repeat (first | unfold Seq.Ready | unfold Seq.Writable | unfold State.Fresh)); first | decide +kernel | (intro _ h; cases h <;> decide +kernel)))

theorem wit_ChainInstructions_11 :
    ∃ (s : State) (d a : BitVec 5) (e : BitVec 1) (f : BitVec 3),
    let ch := s.chain (chainOf s f.toNat)
    (s.me.Ready [.g d.toNat, .g a.toNat]) ∧ (
    (s.Fresh) ∧ (
    ∃ n,
    (n = (s.me.gRead a.toNat).toNat) ∧ (
    (n ≠ 0) ∧ (
    (n ≤ ch.last) ∧ (
    ∃ x,
    (ch.done < n) ∧ (
    ((ch.cmds.find? fun x => x.n = n) = some x) ∧ (
    let v : DWord := if s.cycle ≤ x.promise then 1 else 2
    (s.me.Writable d.toNat v)))))))) := by
    refine ⟨(chainsS chainQ [cmd4]), 31, 9, 0, 1, ?_, ?_, 4, ?_, ?_, ?_, _, ?_, some_out (by decide +kernel), ?_⟩ <;> (first | decide +kernel | ((repeat (first | unfold Seq.Ready | unfold Seq.Writable | unfold State.Fresh)); first | decide +kernel | (intro _ h; cases h <;> decide +kernel)))

theorem wit_ChainInstructions_12 :
    ∃ (s : State) (d a : BitVec 5) (e : BitVec 1) (f : BitVec 3),
    let ch := s.chain (chainOf s f.toNat)
    (s.me.Ready [.g d.toNat, .g a.toNat]) ∧ (
    (s.Fresh) ∧ (
    (s.me.Closed) ∧ (
    let n := (s.me.gRead d.toNat).toNat
    let u := (s.me.gRead a.toNat).toNat
    (n ≠ 0) ∧ (
    (n ≤ ch.last) ∧ (
    (n ≤ ch.done)))))) := by
    refine ⟨(chainsS chainQ [cmd4]), 8, 0, 0, 1, ?_, ?_, ?_, ?_, ?_, ?_⟩ <;> (first | decide +kernel | ((repeat (first | unfold Seq.Ready | unfold State.Fresh | unfold Seq.Closed)); first | decide +kernel | (intro _ h; cases h <;> decide +kernel)))

theorem wit_ChainInstructions_13 :
    ∃ (s : State) (d a : BitVec 5) (e : BitVec 1) (f : BitVec 3),
    let ch := s.chain (chainOf s f.toNat)
    (s.me.Ready [.g d.toNat, .g a.toNat]) ∧ (
    (s.Fresh) ∧ (
    (s.me.Closed) ∧ (
    let n := (s.me.gRead d.toNat).toNat
    let u := (s.me.gRead a.toNat).toNat
    (n ≠ 0) ∧ (
    (n ≤ ch.last) ∧ (
    (ch.done < n) ∧ (
    (s.cycle < u))))))) := by
    refine ⟨(chainsS chainQ [cmd4]), 9, 4, 0, 1, ?_, ?_, ?_, ?_, ?_, ?_, ?_⟩ <;> (first | decide +kernel | ((repeat (first | unfold Seq.Ready | unfold State.Fresh | unfold Seq.Closed)); first | decide +kernel | (intro _ h; cases h <;> decide +kernel)))

theorem wit_ChainInstructions_14 :
    ∃ (s : State) (d a : BitVec 5) (e : BitVec 1) (f : BitVec 3),
    let ch := s.chain (chainOf s f.toNat)
    (s.me.Ready [.g d.toNat, .g a.toNat]) ∧ (
    (s.Fresh) ∧ (
    (s.me.Closed) ∧ (
    let n := (s.me.gRead d.toNat).toNat
    let u := (s.me.gRead a.toNat).toNat
    (n ≠ 0) ∧ (
    (n ≤ ch.last) ∧ (
    (ch.done < n) ∧ (
    (u ≤ s.cycle) ∧ (
    (Handled s.me)))))))) := by
    refine ⟨(chainsS chainQ [cmd4]), 9, 0, 0, 1, ?_, ?_, ?_, ?_, ?_, ?_, ?_, ?_⟩ <;> (first | decide +kernel | ((repeat (first | unfold Handled | unfold Seq.Ready | unfold State.Fresh | unfold Seq.Closed)); first | decide +kernel | (intro _ h; cases h <;> decide +kernel)))

theorem wit_ChainInstructions_15 :
    ∃ (s : State) (k eng n u : Nat),
    ((s.seq k).wait = .sleepto eng n u) := by
    refine ⟨(sq { hq with wait := .sleepto 1 4 9 }), 5, 1, 4, 9, ?_⟩ <;> decide +kernel

theorem wit_EngineStreams_0 :
    ∃ (s : State) (c : ChainId) (x : Cmd) (n d : Nat) (l : Leaf) (h : HomeLine Nat),
    let y := l.pa d / 128
    (s.headCmd c = some x) ∧ (
    (x.phase = .segment) ∧ (
    (c.eng = 0) ∧ (
    (x.op = 1) ∧ (
    (x.stop = false) ∧ (
    (x.front = []) ∧ (
    (x.owned = []) ∧ (
    (OneLine c x n d (x.field 16 8)) ∧ (
    (EngPinned s c x d .write l) ∧ (
    (HomeReady s y h) ∧ (
    (s.engCopy c.die c.eng y = none))))))))))) := by
    refine ⟨(engS 0 (cmdOf (fillEntry 0x7100))), (chain7 0), (cmdOf (fillEntry 0x7100)), 128, 0x7100, leaf7, (engHome 7), by decide +kernel, ?_, ?_, ?_, ?_, ?_, ?_, ?_, pinned_of pin7 (by decide +kernel), ?_, ?_⟩ <;> (first | decide +kernel | ((repeat (first | unfold HomeReady | unfold EngPinned | unfold OneLine)); first | decide +kernel | (intro _ h; cases h <;> decide +kernel)))

theorem wit_EngineStreams_1 :
    ∃ (s : State) (c : ChainId) (x : Cmd) (n d a : Nat) (l : Leaf) (p : Copy Nat),
    (OneLine c x n d a) ∧ (
    (x.segEnd = n) ∧ (
    (EngPinned s c x d .write l) ∧ (
    (s.engCopy c.die c.eng (l.pa d / 128) = some p) ∧ (
    (p.poison = false) ∧ (
    (Storable s (max x.clock (max p.wts p.rts) + 17)) ∧ (
    (Operating s c x 0 1))))))) := by
    refine ⟨(engS 0 (engOp (fillEntry 0x7080) 128)), (chain7 0), (engOp (fillEntry 0x7080) 128), 128, 0x7080, 0x0807060504030201, leaf7, engLine, ?_, ?_, pinned_of pin7 (by decide +kernel), ?_, ?_, ?_, ?_⟩ <;> (first | decide +kernel | ((repeat (first | unfold Storable | unfold EngPinned | unfold Operating | unfold OneLine)); first | decide +kernel | (intro _ h; cases h <;> decide +kernel)))

theorem wit_EngineStreams_2 :
    ∃ (s : State) (c : ChainId) (x : Cmd) (n d a : Nat) (l : Leaf) (p : Copy Nat),
    (OneLine c x n d a) ∧ (
    (x.segEnd = n) ∧ (
    (EngPinned s c x d .write l) ∧ (
    (s.engCopy c.die c.eng (l.pa d / 128) = some p) ∧ (
    (p.poison = false) ∧ (
    (Storable s (max x.clock (max p.wts p.rts) + 17)) ∧ (
    ∃ (l2 : Leaf) (h : HomeLine Nat),
    (a % 128 = 0) ∧ (
    (EngPinned s c x a .read l2) ∧ (
    (HomeReady s (l2.pa a / 128) h) ∧ (
    (s.engCopy c.die c.eng (l2.pa a / 128) = none) ∧ (
    (Storable s (max (max x.clock h.wts) (max p.wts p.rts) + 17)) ∧ (
    (Operating s c x 0 0)))))))))))) := by
    refine ⟨(engS 0 (engOp copyEntry 128)), (chain7 0), (engOp copyEntry 128), 128, 0x7080, 0x8080, leaf7, engLine, ?_, ?_, pinned_of pin7 (by decide +kernel), ?_, ?_, ?_, leaf8, (engHome 0x0123456789ABCDEF), ?_, pinned_of pin8 (by decide +kernel), ?_, ?_, ?_, ?_⟩ <;> (first | decide +kernel | ((repeat (first | unfold Storable | unfold HomeReady | unfold EngPinned | unfold Operating | unfold OneLine)); first | decide +kernel | (intro _ h; cases h <;> decide +kernel)))

theorem wit_EngineStreams_3 :
    ∃ (s : State) (c : ChainId) (x : Cmd) (n d a : Nat) (l : Leaf) (p : Copy Nat),
    (OneLine c x n d a) ∧ (
    (x.segEnd = n) ∧ (
    (EngPinned s c x d .write l) ∧ (
    (s.engCopy c.die c.eng (l.pa d / 128) = some p) ∧ (
    (p.poison = false) ∧ (
    (Storable s (max x.clock (max p.wts p.rts) + 17)) ∧ (
    ∃ (l2 : Leaf) (h : HomeLine Nat),
    (a % 128 = 0) ∧ (
    (EngPinned s c x a .read l2) ∧ (
    (HomeReady s (l2.pa a / 128) h) ∧ (
    (s.engCopy c.die c.eng (l2.pa a / 128) = none) ∧ (
    (Storable s (max (max x.clock h.wts) (max p.wts p.rts) + 17)) ∧ (
    (Operating s c x 3 0)))))))))))) := by
    refine ⟨(engS 3 (engOp putEntry 128)), (chain7 3), (engOp putEntry 128), 128, 0x7080, 0x8080, leaf7, engLine, ?_, ?_, pinned_of pin7 (by decide +kernel), ?_, ?_, ?_, leaf8, (engHome 0x0123456789ABCDEF), ?_, pinned_of pin8 (by decide +kernel), ?_, ?_, ?_, ?_⟩ <;> (first | decide +kernel | ((repeat (first | unfold Storable | unfold HomeReady | unfold EngPinned | unfold Operating | unfold OneLine)); first | decide +kernel | (intro _ h; cases h <;> decide +kernel)))

theorem wit_EngineStreams_4 :
    ∃ (s : State) (c : ChainId) (x : Cmd) (n d a : Nat) (l : Leaf) (p : Copy Nat),
    (OneLine c x n d a) ∧ (
    (x.segEnd = n) ∧ (
    (EngPinned s c x d .write l) ∧ (
    (s.engCopy c.die c.eng (l.pa d / 128) = some p) ∧ (
    (p.poison = false) ∧ (
    (Storable s (max x.clock (max p.wts p.rts) + 17)) ∧ (
    ∃ (l2 : Leaf) (h : HomeLine Nat),
    (a % 128 = 0) ∧ (
    (EngPinned s c x a .read l2) ∧ (
    (HomeReady s (l2.pa a / 128) h) ∧ (
    (s.engCopy c.die c.eng (l2.pa a / 128) = none) ∧ (
    (Storable s (max (max x.clock h.wts) (max p.wts p.rts) + 17)) ∧ (
    (EngPinned s c x d .read l) ∧ (
    (Operating s c x 3 1))))))))))))) := by
    refine ⟨(engS 3 (engOp reduceEntry 20)), (chain7 3), (engOp reduceEntry 20), 20, 0x7080, 0x8080, leaf7, engLine, ?_, ?_, pinned_of pin7 (by decide +kernel), ?_, ?_, ?_, leaf8, (engHome 0x0123456789ABCDEF), ?_, pinned_of pin8 (by decide +kernel), ?_, ?_, ?_, pinned_of pin7 (by decide +kernel), ?_⟩ <;> (first | decide +kernel | ((repeat (first | unfold Storable | unfold HomeReady | unfold EngPinned | unfold Operating | unfold OneLine)); first | decide +kernel | (intro _ h; cases h <;> decide +kernel)))

theorem wit_EngineStreams_5 :
    ∃ (s : State) (c : ChainId) (x : Cmd) (n a o b : Nat) (l : Leaf) (h : HomeLine Nat) (sl : Slate),
    (Operating s c x 0 2) ∧ (
    (x.pos = 0) ∧ (
    (x.wrote = []) ∧ (
    (x.data = none) ∧ (
    (x.segEnd = n) ∧ (
    (x.field 12 4 = n) ∧ (
    (x.field 24 4 = o) ∧ (
    (x.field 16 8 = a) ∧ (
    (0 < n) ∧ (
    (o % 128 + n ≤ 128) ∧ (
    (a % 128 + n ≤ 128) ∧ (
    (EngPinned s c x a .read l) ∧ (
    (HomeReady s (l.pa a / 128) h) ∧ (
    (s.engCopy c.die c.eng (l.pa a / 128) = none) ∧ (
    (s.slates.find x.slot = some sl) ∧ (
    (sl.resv.find c.die = some b) ∧ (
    (o + n ≤ sl.stage) ∧ (
    (s.Canonical) ∧ (
    (Storable s (max x.clock h.wts + 16)))))))))))))))))))) := by
    refine ⟨(engS 0 (engOp copymEntry 10)), (chain7 0), (engOp copymEntry 10), 10, 0x8080, 32, 4096, leaf8, (engHome 0x0123456789ABCDEF), _, ?_, ?_, ?_, ?_, ?_, ?_, ?_, ?_, ?_, ?_, ?_, pinned_of pin8 (by decide +kernel), ?_, ?_, some_out (by decide +kernel), by decide +kernel, ?_, ?_, ?_⟩ <;> (first | decide +kernel | ((repeat (first | unfold Storable | unfold HomeReady | unfold EngPinned | unfold Operating | unfold State.Canonical)); first | decide +kernel | (intro _ h; cases h <;> decide +kernel)))

theorem wit_EngineStreams_6 :
    ∃ (s : State) (c : ChainId) (x : Cmd) (r : Run),
    (x.owned = []) ∧ (
    (x.run c = some r) ∧ (
    (r.total ≤ x.pos) ∧ (
    (Operating s c x 0 0)))) := by
    refine ⟨(engS 0 { engOp copyEntry 0 with pos := 128 }), (chain7 0), { engOp copyEntry 0 with pos := 128 }, _, ?_, some_out (by decide +kernel), ?_, ?_⟩ <;> (first | decide +kernel | ((repeat (first | unfold Operating)); first | decide +kernel | (intro _ h; cases h <;> decide +kernel)))

theorem wit_EngineStreams_7 :
    ∃ (s : State) (c : ChainId) (x : Cmd) (r : Run),
    (x.owned = []) ∧ (
    (x.run c = some r) ∧ (
    (r.total ≤ x.pos) ∧ (
    (Operating s c x 0 1)))) := by
    refine ⟨(engS 0 { engOp (fillEntry 0x7080) 0 with pos := 128 }), (chain7 0), { engOp (fillEntry 0x7080) 0 with pos := 128 }, _, ?_, some_out (by decide +kernel), ?_, ?_⟩ <;> (first | decide +kernel | ((repeat (first | unfold Operating)); first | decide +kernel | (intro _ h; cases h <;> decide +kernel)))

theorem wit_EngineStreams_8 :
    ∃ (s : State) (c : ChainId) (x : Cmd) (r : Run),
    (x.owned = []) ∧ (
    (x.run c = some r) ∧ (
    (r.total ≤ x.pos) ∧ (
    (Operating s c x 3 0)))) := by
    refine ⟨(engS 3 { engOp putEntry 0 with pos := 128 }), (chain7 3), { engOp putEntry 0 with pos := 128 }, _, ?_, some_out (by decide +kernel), ?_, ?_⟩ <;> (first | decide +kernel | ((repeat (first | unfold Operating)); first | decide +kernel | (intro _ h; cases h <;> decide +kernel)))

theorem wit_EngineStreams_9 :
    ∃ (s : State) (c : ChainId) (x : Cmd) (r : Run),
    (x.owned = []) ∧ (
    (x.run c = some r) ∧ (
    (r.total ≤ x.pos) ∧ (
    (Operating s c x 3 1)))) := by
    refine ⟨(engS 3 { engOp reduceEntry 0 with pos := 20 }), (chain7 3), { engOp reduceEntry 0 with pos := 20 }, _, ?_, some_out (by decide +kernel), ?_, ?_⟩ <;> (first | decide +kernel | ((repeat (first | unfold Operating)); first | decide +kernel | (intro _ h; cases h <;> decide +kernel)))

theorem wit_EngineStreams_10 :
    ∃ (s : State) (c : ChainId) (x : Cmd) (r : Run),
    (x.owned = []) ∧ (
    (x.run c = some r) ∧ (
    (r.total ≤ x.pos) ∧ (
    (Operating s c x 0 2)))) := by
    refine ⟨(engS 0 { engOp copymEntry 0 with pos := 10 }), (chain7 0), { engOp copymEntry 0 with pos := 10 }, _, ?_, some_out (by decide +kernel), ?_, ?_⟩ <;> (first | decide +kernel | ((repeat (first | unfold Operating)); first | decide +kernel | (intro _ h; cases h <;> decide +kernel)))

theorem wit_EngineStreams_11 :
    ∃ (s : State) (c : ChainId) (x : Cmd) (r : Run),
    (x.owned = []) ∧ (
    (x.run c = some r) ∧ (
    (r.total ≤ x.pos) ∧ (
    ∃ op,
    (Operating s c x 2 op) ∧ (
    (x.unit < x.field 12 4))))) := by
    refine ⟨(engS 2 { engOp castEntry 0 with pos := 64 }), (chain7 2), { engOp castEntry 0 with pos := 64 }, _, ?_, some_out (by decide +kernel), ?_, 0, ?_, ?_⟩ <;> (first | decide +kernel | ((repeat (first | unfold Operating)); first | decide +kernel | (intro _ h; cases h <;> decide +kernel)))

theorem wit_EngineStreams_12 :
    ∃ (s : State) (c : ChainId) (x : Cmd) (op : Nat),
    (x.owned = []) ∧ (
    (x.field 12 4 ≤ x.unit) ∧ (
    (x.row = none) ∧ (
    (x.data = none) ∧ (
    (Operating s c x 1 op))))) := by
    refine ⟨(engS 1 { engOp castEntry 0 with unit := 5 }), (chain7 1), { engOp castEntry 0 with unit := 5 }, 0, ?_, ?_, ?_, ?_, ?_⟩ <;> (first | decide +kernel | ((repeat (first | unfold Operating)); first | decide +kernel | (intro _ h; cases h <;> decide +kernel)))

theorem wit_EngineStreams_13 :
    ∃ (s : State) (c : ChainId) (x : Cmd) (op : Nat),
    (x.owned = []) ∧ (
    (x.field 12 4 ≤ x.unit) ∧ (
    (x.row = none) ∧ (
    (x.data = none) ∧ (
    (Operating s c x 2 op))))) := by
    refine ⟨(engS 2 { engOp castEntry 0 with unit := 5 }), (chain7 2), { engOp castEntry 0 with unit := 5 }, 0, ?_, ?_, ?_, ?_, ?_⟩ <;> (first | decide +kernel | ((repeat (first | unfold Operating)); first | decide +kernel | (intro _ h; cases h <;> decide +kernel)))

theorem wit_EngineStreams_14 :
    ∃ (s : State) (c : ChainId) (x : Cmd) (op : Nat),
    (x.owned = []) ∧ (
    (x.field 12 4 ≤ x.unit) ∧ (
    (x.row = none) ∧ (
    (x.data = none) ∧ (
    (Operating s c x 4 op))))) := by
    refine ⟨(engS 4 { engOp dailiesEntry 0 with unit := 5 }), (chain7 4), { engOp dailiesEntry 0 with unit := 5 }, 0, ?_, ?_, ?_, ?_, ?_⟩ <;> (first | decide +kernel | ((repeat (first | unfold Operating)); first | decide +kernel | (intro _ h; cases h <;> decide +kernel)))

theorem wit_EngineStreams_15 :
    ∃ (s : State) (c : ChainId) (x : Cmd) (op : Nat) (l : Leaf) (h : HomeLine Nat),
    ∃ slot dest,
    (Operating s c x 1 op) ∧ (
    (x.row = some (slot, dest)) ∧ (
    (x.field 24 4 ≤ x.pos) ∧ (
    (slot < 2 ^ 32) ∧ (
    let va := x.field 48 8 + 4 * (x.field 10 1 * x.unit + x.sub)
    (EngStores s c x va 4 l h))))) := by
    refine ⟨(engS 1 { engOp castEntry 0 with unit := 1, sub := 1, row := some (4294967295, 9), pos := 64 }), (chain7 1), { engOp castEntry 0 with unit := 1, sub := 1, row := some (4294967295, 9), pos := 64 }, 0, leaf7, (engHome 7), 4294967295, 9, ?_, rfl, ?_, ?_, ⟨pinned_of pin7 (by decide +kernel), by unfold HomeReady; decide +kernel, by unfold Storable; decide +kernel, by decide +kernel, by decide +kernel⟩⟩ <;> (first | decide +kernel | ((repeat (first | unfold EngStores | unfold Operating | unfold Storable | unfold HomeReady | unfold EngPinned)); first | decide +kernel | (intro _ h; cases h <;> decide +kernel)))

theorem wit_EngineStreams_16 :
    ∃ (s : State) (c : ChainId) (x : Cmd) (op : Nat) (l : Leaf) (h : HomeLine Nat),
    ∃ data hash z,
    (Operating s c x 4 op) ∧ (
    (x.data = some data) ∧ (
    (x.row = some (hash, z)) ∧ (
    (65552 ≤ x.pos) ∧ (
    (hash < 2 ^ 128) ∧ (
    let va := x.field 24 8 + 16 * x.unit
    (EngStores s c x va 16 l h)))))) := by
    refine ⟨(engS 4 { engOp dailiesEntry 0 with data := some 5, row := some (2 ^ 128 - 1, 9), pos := 65552 }), (chain7 4), { engOp dailiesEntry 0 with data := some 5, row := some (2 ^ 128 - 1, 9), pos := 65552 }, 0, leaf7, (engHome 7), 5, (2 ^ 128 - 1), 9, ?_, rfl, rfl, ?_, ?_, ⟨pinned_of pin7 (by decide +kernel), by unfold HomeReady; decide +kernel, by unfold Storable; decide +kernel, by decide +kernel, by decide +kernel⟩⟩ <;> (first | decide +kernel | ((repeat (first | unfold EngStores | unfold Operating | unfold Storable | unfold HomeReady | unfold EngPinned)); first | decide +kernel | (intro _ h; cases h <;> decide +kernel)))

theorem wit_EngineStreams_17 :
    ∃ (s : State) (c : ChainId) (x : Cmd) (op : Nat) (l : Leaf) (h : HomeLine Nat),
    (Operating s c x 3 2) ∧ (
    (x.owned = []) ∧ (
    (EngStores s c x (x.field 24 8) 8 l h))) := by
    refine ⟨(engS 3 (engOp signalEntry 0)), (chain7 3), (engOp signalEntry 0), 2, leaf7, (engHome 7), ?_, ?_, ⟨pinned_of pin7 (by decide +kernel), by unfold HomeReady; decide +kernel, by unfold Storable; decide +kernel, by decide +kernel, by decide +kernel⟩⟩ <;> (first | decide +kernel | ((repeat (first | unfold EngStores | unfold Operating | unfold Storable | unfold HomeReady | unfold EngPinned)); first | decide +kernel | (intro _ h; cases h <;> decide +kernel)))

theorem wit_EngineCompletion_0 :
    ∃ (s : State) (c : ChainId) (x : Cmd),
    (s.headCmd c = some x) ∧ (
    (x.phase = .follow) ∧ (
    ((s.seq x.k).follow ≠ 0) ∧ (
    ∃ (cl : Nat) (jobs : List MatrixJob),
    (cl = x.k / 32) ∧ (
    (jobs = s.matrix.getD cl []) ∧ (
    (.follow c ∉ jobs) ∧ (
    (jobs.length < 16))))))) := by
    refine ⟨(engS 0 { cmdOf copymEntry with phase := .follow }), (chain7 0), { cmdOf copymEntry with phase := .follow }, by decide +kernel, ?_, ?_, 0, [], ?_, ?_, ?_, ?_⟩ <;> decide +kernel

theorem wit_EngineCompletion_1 :
    ∃ (s : State) (c : ChainId) (x : Cmd),
    (s.headCmd c = some x) ∧ (
    (x.phase = .follow) ∧ (
    ((s.seq x.k).follow ≠ 0) ∧ (
    ∃ (cl : Nat) (jobs : List MatrixJob),
    (cl = x.k / 32) ∧ (
    (jobs = s.matrix.getD cl []) ∧ (
    ∃ (rest : List MatrixJob) (m : Mop),
    (jobs = .follow c :: rest) ∧ (
    (x.mop = some m) ∧ (
    (m.chunks ≤ x.chunk) ∧ (
    (x.owned = []) ∧ (
    (c.eng = 0) ∧ (
    (x.op = 2))))))))))) := by
    refine ⟨{ engS 0 { cmdOf copymEntry with phase := .follow, mop := some (mop8 0), chunk := 1 } with matrix := [(0, [.follow (chain7 0)])] }, (chain7 0), { cmdOf copymEntry with phase := .follow, mop := some (mop8 0), chunk := 1 }, by decide +kernel, ?_, ?_, 0, [.follow (chain7 0)], ?_, ?_, [], (mop8 0), rfl, rfl, ?_, ?_, ?_, ?_⟩ <;> decide +kernel

theorem wit_EngineCompletion_2 :
    ∃ (s : State) (c : ChainId) (x : Cmd) (cause va access detail : Nat),
    (s.headCmd c = some x) ∧ (
    ((∀ z ∈ (s.vi c.vi).ctxs, z.1 = c.cid → z.2.dying = false))) := by
    refine ⟨(engS 0 (cmdOf copymEntry)), (chain7 0), (cmdOf copymEntry), 3, 0x7000, 1, 0, ?_, ?_⟩ <;> decide +kernel

theorem wit_EngineCompletion_3 :
    ∃ (s : State) (c : ChainId) (x : Cmd) (xs : List Cmd) (st : Nat) (l : Leaf) (h : HomeLine Nat),
    ((s.chain c).cmds = x :: xs) ∧ (
    (x.phase = .record) ∧ (
    (x.status = some st) ∧ (
    (x.flag 0 = false) ∧ (
    (x.flushed ≠ some false) ∧ (
    (engStoresOut c s = []) ∧ (
    (engRefused c s = []) ∧ (
    let done := x.field 0 8
    ((done ≠ 0 → EngStores s c x done 16 l h ∧ x.count c < 2 ^ 32))))))))) := by
    refine ⟨(engS 1 { cmdOf (castEntry + 0x7110) with phase := .record, status := some 1, aux := 5 }), (chain7 1), { cmdOf (castEntry + 0x7110) with phase := .record, status := some 1, aux := 5 }, [], 1, leaf7, (engHome 7), ?_, ?_, rfl, ?_, ?_, ?_, ?_, fun _ => ⟨⟨pinned_of pin7 (by decide +kernel), by unfold HomeReady; decide +kernel, by unfold Storable; decide +kernel, by decide +kernel, by decide +kernel⟩, by decide +kernel⟩⟩ <;> (first | decide +kernel | ((repeat (first | unfold EngStores | unfold Storable | unfold HomeReady | unfold EngPinned)); first | decide +kernel | (intro _ h; cases h <;> decide +kernel)))

theorem wit_HostAndPeerAccesses_0 :
    ∃ (s : State) (port x : Nat) (own : Bool) (h : HomeLine Nat),
    (hostReaches port x s = true) ∧ (
    (HomeReady s x h)) := by
    refine ⟨hostS, 0, line7, true, home7, ?_, ?_⟩ <;> (first | decide +kernel | ((repeat (first | unfold HomeReady)); first | decide +kernel | (intro _ h; cases h <;> decide +kernel)))

theorem wit_HostAndPeerAccesses_1 :
    ∃ (s : State) (port x : Nat) (own : Bool) (h : HomeLine Nat),
    (hostReaches port x s = true) ∧ (
    (s.home x = some h) ∧ (
    (h.own = none) ∧ (
    (h.pubs = []) ∧ (
    (s.flipping.find (x / 32) = none) ∧ (
    (s.hostBias x = true) ∧ (
    (roomQueue x s = []) ∧ (
    ((∀ w ∈ s.devWrites, w.1 ≠ x)) ∧ (
    (s.ports.getD port .absent ≠ .pcie) ∧ (
    ((dirMates x s).length < 16)))))))))) := by
    refine ⟨biasS, 0, line7, true, home7, ?_, ?_, ?_, ?_, ?_, ?_, ?_, ?_, ?_, ?_⟩ <;> decide +kernel

theorem wit_HostAndPeerAccesses_2 :
    ∃ (s : State) (port x : Nat) (bytes : Line) (mask : LineMask) (h : HomeLine Nat),
    (hostReaches port x s = true) ∧ (
    (frameLocked (x / 32) s = false) ∧ (
    (HomeReady s x h) ∧ (
    (TakesWrite s x 128 h) ∧ (
    let T := max h.wts h.rts + 1
    (Storable s T))))) := by
    refine ⟨hostS, 0, line7, 7, 3, home7, ?_, ?_, ?_, ?_, ?_⟩ <;> (first | decide +kernel | ((repeat (first | unfold Storable | unfold HomeReady | unfold TakesWrite)); first | decide +kernel | (intro _ h; cases h <;> decide +kernel)))

theorem wit_HostAndPeerAccesses_3 :
    ∃ (s : State) (port x : Nat) (bytes : Line) (mask : LineMask) (h : HomeLine Nat),
    (hostReaches port x s = true) ∧ (
    (frameLocked (x / 32) s = true)) := by
    refine ⟨{ hostS with owners := [(5, 1)] }, 0, line7, 7, 3, home7, ?_, ?_⟩ <;> decide +kernel

theorem wit_HostAndPeerAccesses_6 :
    ∃ (s : State) (src off size tag : Nat) (h : HomeLine Nat),
    (HomeReady s (off / 128) h) ∧ (
    (exportOk src off size 0 s = true)) := by
    refine ⟨hostS, 2, 0x5080, 8, 1, home7, ?_, ?_⟩ <;> (first | decide +kernel | ((repeat (first | unfold HomeReady)); first | decide +kernel | (intro _ h; cases h <;> decide +kernel)))

theorem wit_HostAndPeerAccesses_7 :
    ∃ (s : State) (src off size tag : Nat) (bytes : Line) (h : HomeLine Nat),
    (HomeReady s (off / 128) h) ∧ (
    (TakesWrite s (off / 128) 128 h) ∧ (
    (frameLocked (off / 4096) s = false) ∧ (
    (exportOk src off size 1 s = true) ∧ (
    let T := max h.wts h.rts + 1
    (Storable s T))))) := by
    refine ⟨hostS, 2, 0x5080, 8, 1, 7, home7, ?_, ?_, ?_, ?_, ?_⟩ <;> (first | decide +kernel | ((repeat (first | unfold Storable | unfold HomeReady | unfold TakesWrite)); first | decide +kernel | (intro _ h; cases h <;> decide +kernel)))

theorem wit_HostAndPeerAccesses_8 :
    ∃ (s : State) (src off tag : Nat) (op ty : BitVec 4) (x x2 : DWord) (h : HomeLine Nat),
    (HomeReady s (off / 128) h) ∧ (
    (TakesWrite s (off / 128) 128 h) ∧ (
    (frameLocked (off / 4096) s = false) ∧ (
    let T := max h.wts h.rts + 1
    let n := if op = 15 then 16 else typeBits ty.toNat / 8
    (Storable s T) ∧ (
    (exportOk src off n 2 s = true) ∧ (
    (off % n = 0) ∧ (
    (0 < n) ∧ (
    ((op.toNat ≤ 10 ∧ atomicTypeOk op.toNat ty.toNat true = true ∨ op = 15))))))))) := by
    refine ⟨hostS, 2, 0x5080, 1, 0, 3, 9, 0, home7, ?_, ?_, ?_, ?_, ?_, ?_, ?_, ?_⟩ <;> (first | decide +kernel | ((repeat (first | unfold Storable | unfold HomeReady | unfold TakesWrite)); first | decide +kernel | (intro _ h; cases h <;> decide +kernel)))

theorem wit_HostAndPeerAccesses_9 :
    ∃ (s : State) (src off size tag : Nat) (bytes : Line) (op ty : BitVec 4) (x x2 : DWord),
    (exportOk src off size 0 s = false) := by
    refine ⟨State.reset, 2, 0x5080, 8, 1, 7, 0, 3, 9, 0, ?_⟩ <;> decide +kernel

theorem wit_HostAndPeerAccesses_10 :
    ∃ (s : State) (src off size tag : Nat) (bytes : Line) (op ty : BitVec 4) (x x2 : DWord),
    (exportOk src off size 1 s = false) := by
    refine ⟨State.reset, 2, 0x5080, 8, 1, 7, 0, 3, 9, 0, ?_⟩ <;> decide +kernel

theorem wit_HostAndPeerAccesses_11 :
    ∃ (s : State) (src off size tag : Nat) (bytes : Line) (op ty : BitVec 4) (x x2 : DWord),
    (op ≠ 15) ∧ (
    (exportOk src off (typeBits ty.toNat / 8) 2 s = false)) := by
    refine ⟨State.reset, 2, 0x5080, 8, 1, 7, 0, 3, 9, 0, ?_, ?_⟩ <;> decide +kernel

theorem wit_AnswersAndPorts_0 :
    ∃ (s : State) (k addr cause : Nat) (p : PeerStore),
    (k < 8192) ∧ (
    (storeTo addr (s.seq k).peerOut = some p)) := by
    refine ⟨(answerS { peerOut := [{ addr := 0x8000000000080, bytes := 7, mask := 3, page := 0x7000, vi := 3, cid := 1 }] } .peer), 5, 0x8000000000090, 0, _, ?_, some_out (by decide +kernel)⟩ <;> decide +kernel

theorem wit_AnswersAndPorts_1 :
    ∃ (s : State) (k j : Nat),
    (k < 8192) ∧ (
    (j ≠ k) ∧ (
    ((s.seq k).hostOut = 1) ∧ (
    ((s.seq j).wait = .host) ∧ (
    ((s.seq j).note = none))))) := by
    refine ⟨(answerS { hostOut := 1 } .host), 5, 9, ?_, ?_, ?_, ?_, ?_⟩ <;> decide +kernel

theorem wit_AnswersAndPorts_2 :
    ∃ (s : State) (k j : Nat),
    (k < 8192) ∧ (
    (j ≠ k) ∧ (
    (1 < (s.seq k).hostOut) ∧ (
    ((∀ v ∈ s.vis, ∀ Q ∈ v.2.queues, Q.2.hostFrom = []))))) := by
    refine ⟨(answerS { hostOut := 2 } .host), 5, 9, ?_, ?_, ?_, ?_⟩ <;> decide +kernel

theorem wit_AnswersAndPorts_3 :
    ∃ (s : State) (k j : Nat),
    (k < 8192) ∧ (
    (j ≠ k) ∧ (
    ∃ v ∈ s.vis,
    ∃ Q ∈ v.2.queues,
    (Q.2.hostFrom = [(k, 1)]) ∧ (
    (0 < (s.seq k).hostOut)))) := by
    refine ⟨({ answerS { hostOut := 2 } .host with vis := [(3, { queues := [(4, { hostFrom := [(5, 1)] })] })] }), 5, 9, ?_, ?_, _, List.mem_cons_self, _, List.mem_cons_self, rfl, ?_⟩ <;> decide +kernel

theorem wit_AnswersAndPorts_4 :
    ∃ (s : State) (k j : Nat),
    (k < 8192) ∧ (
    (j ≠ k) ∧ (
    ((s.seq k).wait = .persist))) := by
    refine ⟨(answerS (waiter .persist) .host), 5, 9, ?_, ?_, ?_⟩ <;> decide +kernel

theorem wit_AnswersAndPorts_5 :
    ∃ (s : State) (k cause : Nat) (v : DWord) (n : Note),
    (k < 8192) ∧ (
    ((s.seq k).wait = .peer) ∧ (
    ((s.seq k).note = some n) ∧ (
    (n.asked ≠ 0) ∧ (
    (n.cause = 0) ∧ (
    (n.lines.find (n.asked - 1) = none)))))) := by
    refine ⟨(answerS { wait := .peer, note := some { asked := 5 } } .host), 5, 0, 7, { asked := 5 }, ?_, ?_, ?_, ?_, ?_, ?_⟩ <;> decide +kernel

theorem wit_AnswersAndPorts_6 :
    ∃ (s : State) (x : Nat) (b : Line),
    (x ∈ s.hostAsked) := by
    refine ⟨{ State.reset with hostAsked := [4] }, 4, 9, ?_⟩ <;> decide +kernel

theorem wit_AnswersAndPorts_7 :
    ∃ (s : State) (p : Nat) (head : BitVec 64) (slots : BitVec 1920) (crc : BitVec 64),
    (p < 12) ∧ (
    ((s.link p).up = true) ∧ (
    let field (lo n : Nat) : Nat := head.toNat / 2 ^ lo % 2 ^ n
    let good : Prop := Config.flitCrc (slots ++ head) = crc
    (good) ∧ (
    ((s.link p).queue = []) ∧ (
    (field 52 12 = (s.link p).rxSeq))))) := by
    refine ⟨(linkS {}), 3, 0, 0, _, ?_, ?_, rfl, ?_, ?_⟩ <;> decide +kernel

theorem wit_AnswersAndPorts_8 :
    ∃ (s : State) (p : Nat) (head : BitVec 64) (slots : BitVec 1920) (crc : BitVec 64),
    (p < 12) ∧ (
    ((s.link p).up = true) ∧ (
    let field (lo n : Nat) : Nat := head.toNat / 2 ^ lo % 2 ^ n
    let good : Prop := Config.flitCrc (slots ++ head) = crc
    (good) ∧ (
    ((s.link p).queue = []) ∧ (
    (field 52 12 ≠ (s.link p).rxSeq))))) := by
    refine ⟨(linkS { rxSeq := 4 }), 3, 0, 0, _, ?_, ?_, rfl, ?_, ?_⟩ <;> decide +kernel

theorem wit_AnswersAndPorts_9 :
    ∃ (s : State) (p : Nat) (head : BitVec 64) (slots : BitVec 1920) (crc : BitVec 64),
    (p < 12) ∧ (
    ((s.link p).up = true) ∧ (
    let good : Prop := Config.flitCrc (slots ++ head) = crc
    (¬ good) ∧ (
    ((s.link p).retries < 8)))) := by
    refine ⟨(linkS { retries := 7 }), 3, 0, 0, _, ?_, ?_, crc_differs, ?_⟩ <;> decide +kernel

theorem wit_AnswersAndPorts_10 :
    ∃ (s : State) (p : Nat) (head : BitVec 64) (slots : BitVec 1920) (crc : BitVec 64),
    (p < 12) ∧ (
    ((s.link p).up = true) ∧ (
    let good : Prop := Config.flitCrc (slots ++ head) = crc
    (¬ good) ∧ (
    (8 ≤ (s.link p).retries)))) := by
    refine ⟨(linkS { retries := 8 }), 3, 0, 0, _, ?_, ?_, crc_differs, ?_⟩ <;> decide +kernel

theorem wit_AnswersAndPorts_11 :
    ∃ (s : State) (m : PeerMsg) (p : Nat),
    ((∀ j, j < 12 → (s.link j).pending = [])) ∧ (
    ((routePorts m.key.1 s)[Config.linkHash m.key.2 % max 1 (routePorts m.key.1 s).length]? = some p)) := by
    refine ⟨({ State.reset with mgmt := { route := [(0, 8)] } }), (.read 0x8000000000080 8 5), 3, ?_, ?_⟩
    · exact fun j hj => of_decide_eq_true (low12_of (p := fun j => decide (((({ State.reset with mgmt := { route := [(0, 8)] } } : State)).link j).pending = []))
        (by decide +kernel) j hj)
    · rw [show routePorts (PeerMsg.read 0x8000000000080 8 5).key.1 { State.reset with mgmt := { route := [(0, 8)] } } = [3] by decide +kernel]
      simp [Nat.mod_one]

theorem wit_AnswersAndPorts_12 :
    ∃ (s : State) (p n : Nat),
    (p < 12) ∧ (
    ((s.link p).up = false) ∧ (
    ((s.link p).stopped = false ∨ (s.link p).retrain = true) ∧ (
    (1024 ≤ n)))) := by
    refine ⟨(linkS { up := false, stopped := true, retrain := true }), 3, 1024, ?_, ?_, ?_, ?_⟩ <;> decide +kernel

theorem wit_AnswersAndPorts_13 :
    ∃ (s : State) (p n : Nat),
    (p < 12) ∧ (
    ((s.link p).up = false) ∧ (
    ((s.link p).stopped = false ∨ (s.link p).retrain = true) ∧ (
    (n < 1024)))) := by
    refine ⟨(linkS { up := false }), 3, 1023, ?_, ?_, ?_, ?_⟩ <;> decide +kernel

theorem wit_PackageOperation_1 :
    ∃ (s : State) (m : MeterReading),
    (m.engine = []) ∧ (
    (m.die < 4) ∧ (
    (s.residue = []) ∧ (
    (m.activity = [])))) := by
    refine ⟨State.reset, { die := 3, energy := 9, engine := [], activity := [] }, ?_, ?_, ?_, ?_⟩ <;> decide +kernel

theorem wit_PackageOperation_2 :
    ∃ (s : State) (m : MeterReading),
    (m.engine = []) ∧ (
    (m.die < 4) ∧ (
    (s.residue = []) ∧ (
    ∃ a,
    (m.activity = [a]) ∧ (
    (a.1 < 128) ∧ (
    (a.2.1 < 64)))))) := by
    refine ⟨State.reset, { die := 3, energy := 9, engine := [], activity := [(127, 63, 1, 0, 0, 0)] }, ?_, ?_, ?_, (127, 63, 1, 0, 0, 0), ?_, ?_, ?_⟩ <;> decide +kernel

theorem wit_PackageOperation_3 :
    ∃ (s : State) (d : Nat),
    (s.thermal = false) := by
    refine ⟨State.reset, 2, ?_⟩ <;> decide +kernel

theorem wit_PackageOperation_5 :
    ∃ (s : State) (k : Nat),
    let base := s.mgmt.heatbase.toNat
    let ea := base + 184549376 + k
    let d := (s.cycle / 2 ^ 26 % 256 + 256 - s.mem.read ea 1) % 256
    (s.mgmt.heatEn = true) ∧ (
    (k < 1441792) ∧ (
    (base % 4096 = 0) ∧ (
    (s.Canonical) ∧ (
    (BytesPlain s (base + 128 * k) 128) ∧ (
    (BytesPlain s ea 1) ∧ (
    (d ≠ 0))))))) := by
    refine ⟨heatS, 7, ?_, ?_, ?_, ?_, plain_of rfl (by decide +kernel), plain_of rfl (by decide +kernel), ?_⟩ <;> (first | decide +kernel | ((repeat (first | unfold State.Canonical)); first | decide +kernel | (intro _ h; cases h <;> decide +kernel)))

theorem wit_ErrorsAndRetirement_0 :
    ∃ (s : State) (r : Region),
    (Lasting s r) ∧ (
    (r ∉ s.retiredLog)) := by
    refine ⟨(erring 2), region7, ⟨by decide +kernel, 800, by decide +kernel, by decide +kernel⟩, ?_⟩ <;> (first | decide +kernel | ((repeat (first | unfold Lasting)); first | decide +kernel | (intro _ h; cases h <;> decide +kernel)))

theorem wit_ErrorsAndRetirement_1 :
    ∃ (s : State) (r : Region),
    ∃ es,
    (es = (s.cycle :: (s.errTimes.getD (regionKey r) []).take (s.mgmt.thresh - 1)).take s.mgmt.thresh) ∧ (
    (¬ Lasting s r)) := by
    refine ⟨(erring 1), region7, _, rfl, fun h => absurd h.1 (by decide +kernel)⟩ <;> (first | decide +kernel | ((repeat (first | unfold Lasting)); first | decide +kernel | (intro _ h; cases h <;> decide +kernel)))

theorem wit_ErrorsAndRetirement_2 :
    ∃ (s : State) (f x : Nat),
    (x / 32 = f) ∧ (
    (s.converted.find f = none) ∧ (
    (Region.page f ∉ s.retiredLog))) := by
    refine ⟨(erring 1), 7, 230, ?_, ?_, ?_⟩ <;> decide +kernel

theorem wit_ErrorsAndRetirement_3 :
    ∃ (s : State) (d n w x : Nat) (h : HomeLine (BitVec 24)),
    (s.homes.find x = some h) ∧ (
    (homeSlice x = 64 * d + n) ∧ (
    (h.way = w) ∧ (
    (Region.llcWay d n w ∉ s.retiredLog)))) := by
    refine ⟨retiringS, homeSlice 0x900 / 64, homeSlice 0x900 % 64, 0, 0x900, tag (ownedHome 3), ?_, (Nat.div_add_mod _ _).symm, ?_, List.not_mem_nil⟩ <;> decide +kernel

theorem wit_ErrorsAndRetirement_4 :
    ∃ (s : State) (c k : Nat) (b : Binding) (x : Ctx),
    (Region.cluster c ∈ s.retiredLog) ∧ (
    (k / 32 = c) ∧ (
    ((s.seq k).bound = some b) ∧ (
    ((s.vi b.vi).ctxs.find b.cid = some x)))) := by
    refine ⟨({ workS { bound := some work } false with retiredLog := [.cluster 0] }), 0, 5, _, _, ?_, ?_, some_out (by decide +kernel), some_out (by decide +kernel)⟩ <;> decide +kernel

theorem wit_ErrorsAndRetirement_5 :
    ∃ (s : State) (d n w : Nat),
    ((s.slices.getD (64 * d + n) {}).retiring = some w) ∧ (
    ((s.slices.getD (64 * d + n) {}).retireNext = []) ∧ (
    ((∀ e ∈ s.homes, homeSlice e.1 = 64 * d + n → e.2.way ≠ w ∧ ∀ i ∈ e.2.sects, i / 2 ≠ w)))) := by
    refine ⟨{ retiringS with homes := [] }, 1, 5, 4, ?_, ?_, ?_⟩ <;> decide +kernel

theorem wit_ErrorsAndRetirement_6 :
    ∃ (s : State) (v : DWord),
    (Managed s) := by
    refine ⟨State.reset, 600, ?_⟩ <;> (first | decide +kernel | ((repeat (first | unfold Managed)); first | decide +kernel | (intro _ h; cases h <;> decide +kernel)))

theorem wit_TrustAndOwnership_0 :
    ∃ (s : State) (v : DWord),
    (Managed s) ∧ (
    (s.mgmt.fwBusy = true)) := by
    refine ⟨{ State.reset with mgmt := { fwBusy := true } }, 0x2000000000001000, ?_, ?_⟩ <;> (first | decide +kernel | ((repeat (first | unfold Managed)); first | decide +kernel | (intro _ h; cases h <;> decide +kernel)))

theorem wit_TrustAndOwnership_1 :
    ∃ (s : State) (v : DWord),
    (Managed s) ∧ (
    (v.toNat / 2 ^ 60 = 1) ∧ (
    (s.mgmt.fwBusy = false))) := by
    refine ⟨State.reset, 0x1000000000001000, ?_, ?_, ?_⟩ <;> (first | decide +kernel | ((repeat (first | unfold Managed)); first | decide +kernel | (intro _ h; cases h <;> decide +kernel)))

theorem wit_TrustAndOwnership_2 :
    ∃ (s : State) (flash : Nat),
    (s.mgmt.fwBusy = true) := by
    refine ⟨{ State.reset with mgmt := { fwBusy := true, fwCopy := some [1] } }, 0, ?_⟩ <;> decide +kernel

theorem wit_TrustAndOwnership_3 :
    ∃ s : State,
    (s.recovery = true) ∧ (
    (s.pfPresent = true) ∧ (
    (s.mgmt.recBusy = false))) := by
    refine ⟨recoveringS, ?_, ?_, ?_⟩ <;> decide +kernel

theorem wit_TrustAndOwnership_4 :
    ∃ (s : State) (flash : Nat),
    (s.mgmt.recBusy = true) := by
    refine ⟨{ recoveringS with mgmt := { recBusy := true, reclen := 64 } }, 0, ?_⟩ <;> decide +kernel

theorem wit_TrustAndOwnership_5 :
    ∃ (s : State) (who : RingId) (v : DWord),
    ((who = .pf ∧ Managed s) ∨ (∃ n, who = .vi n ∧ Open s n)) ∧ (
    ((s.attest who).busy = true)) := by
    refine ⟨reportS, (.vi 3), 2, .inr ⟨3, rfl, by unfold Open; decide +kernel⟩, ?_⟩ <;> (first | decide +kernel | ((repeat (first | unfold Open | unfold Managed)); first | decide +kernel | (intro _ h; cases h <;> decide +kernel)))

theorem wit_TrustAndOwnership_6 :
    ∃ (s : State) (who : RingId),
    ((who = .pf ∧ Managed s) ∨ (∃ n, who = .vi n ∧ Open s n)) ∧ (
    ((s.attest who).busy = false)) := by
    refine ⟨(viS idleVi), .pf, .inl ⟨rfl, by unfold Managed; decide +kernel⟩, ?_⟩ <;> (first | decide +kernel | ((repeat (first | unfold Open | unfold Managed)); first | decide +kernel | (intro _ h; cases h <;> decide +kernel)))

theorem wit_TrustAndOwnership_7 :
    ∃ (s : State) (who : RingId) (rest : List RingId),
    (s.attQueue = who :: rest) ∧ (
    let a := s.attest who
    (a.qBuf % 64 = 0) ∧ (
    (a.qNonce.length = 4) ∧ (
    (BytesPlain s a.qBuf 29920) ∧ (
    (s.Canonical) ∧ (
    (s.mgmt.heatEn = false)))))) := by
    refine ⟨reportS, (.vi 3), [], ?_, ?_, ?_, plain_of rfl (by decide +kernel), ?_, ?_⟩ <;> (first | decide +kernel | ((repeat (first | unfold BytesPlain | unfold State.Canonical | unfold Storable)); first | decide +kernel | (intro _ h; cases h <;> decide +kernel)))

theorem wit_TrustAndOwnership_8 :
    ∃ (s : State) (v : DWord),
    (Managed s) ∧ (
    (s.mgmt.ownBusy = false)) := by
    refine ⟨State.reset, 0x850000000003, ?_, ?_⟩ <;> (first | decide +kernel | ((repeat (first | unfold Managed)); first | decide +kernel | (intro _ h; cases h <;> decide +kernel)))

theorem wit_TrustAndOwnership_9 :
    ∃ s : State,
    (s.mgmt.ownBusy = true) ∧ (
    (pinned (fun e => e.maps s.mgmt.ownset s.mgmt.ownCount) s = false)) := by
    refine ⟨{ State.reset with mgmt := { ownBusy := true, ownset := 5, ownCount := 3 } }, ?_, ?_⟩ <;> decide +kernel

theorem wit_InterfacesAndContexts_0 :
    ∃ (s : State) (vi : Nat),
    (vi < 128) ∧ (
    (Managed s) ∧ (
    ((s.vi vi).en = false) ∧ (
    ((s.vi vi).busy = false) ∧ (
    (portOf vi s ≠ .absent))))) := by
    refine ⟨State.reset, 3, ?_, ?_, ?_, ?_, ?_⟩ <;> (first | decide +kernel | ((repeat (first | unfold Managed)); first | decide +kernel | (intro _ h; cases h <;> decide +kernel)))

theorem wit_InterfacesAndContexts_1 :
    ∃ (s : State) (vi : Nat),
    (vi < 128) ∧ (
    (Managed s) ∧ (
    ((s.vi vi).en = true) ∧ (
    ((s.vi vi).busy = false)))) := by
    refine ⟨(viS idleVi), 3, ?_, ?_, ?_, ?_⟩ <;> (first | decide +kernel | ((repeat (first | unfold Managed)); first | decide +kernel | (intro _ h; cases h <;> decide +kernel)))

theorem wit_InterfacesAndContexts_2 :
    ∃ (s : State) (vi : Nat),
    (vi < 128) ∧ (
    (Managed s) ∧ (
    ((s.vi vi).busy = true) ∧ (
    ((s.vi vi).ctxs = [])))) := by
    refine ⟨(viS { busy := true }), 3, ?_, ?_, ?_, ?_⟩ <;> (first | decide +kernel | ((repeat (first | unfold Managed)); first | decide +kernel | (intro _ h; cases h <;> decide +kernel)))

theorem wit_InterfacesAndContexts_4 :
    ∃ (s : State) (vi k : Nat) (v : DWord),
    (vi < 128) ∧ (
    (k < 8) ∧ (
    (Managed s) ∧ (
    ((s.vi vi).hrBase.length = 8) ∧ (
    ((s.vi vi).hrSize.length = 8) ∧ (
    ((s.vi vi).hrBusy = true) ∧ (
    (pinned (fun e => decide (e.vi = vi)) s = false))))))) := by
    refine ⟨(viS { idleVi with hrBusy := true }), 3, 7, 0x5000, ?_, ?_, ?_, ?_, ?_, ?_, ?_⟩ <;> (first | decide +kernel | ((repeat (first | unfold Managed)); first | decide +kernel | (intro _ h; cases h <;> decide +kernel)))

theorem wit_InterfacesAndContexts_5 :
    ∃ (s : State) (vi id : Nat),
    (Open s vi) ∧ (
    ((s.vi vi).ctxBusy = false) ∧ (
    (ownBytes vi (s.vi vi).ctxdesc.toNat 64 s = true) ∧ (
    let d := s.peekBytes (s.vi vi).ctxdesc.toNat 64
    (GoodDescriptor s vi d) ∧ (
    (1 ≤ id) ∧ (
    (id < 256) ∧ (
    ((s.vi vi).ctxs.find id = none) ∧ (
    ((∀ j, 1 ≤ j → j < id → ((s.vi vi).ctxs.find j).isSome = true))))))))) := by
    refine ⟨descriptorS, 3, 2, ?_, ?_, ?_, descriptor_good, ?_, ?_, ?_, one_of (p := fun j => ((descriptorS.vi 3).ctxs.find j).isSome = true) (by decide +kernel)⟩ <;> (first | decide +kernel | ((repeat (first | unfold Open | unfold GoodDescriptor)); first | decide +kernel | (intro _ h; cases h <;> decide +kernel)))

theorem wit_InterfacesAndContexts_6 :
    ∃ (s : State) (vi cid : Nat),
    (Open s vi) ∧ (
    ((s.vi vi).ctxBusy = false) ∧ (
    ((s.vi vi).ctxs.find cid = none))) := by
    refine ⟨(viS idleVi), 3, 2, ?_, ?_, ?_⟩ <;> (first | decide +kernel | ((repeat (first | unfold Open)); first | decide +kernel | (intro _ h; cases h <;> decide +kernel)))

theorem wit_InterfacesAndContexts_7 :
    ∃ (s : State) (vi cid : Nat),
    (Open s vi) ∧ (
    ((s.vi vi).ctxBusy = false) ∧ (
    ∃ c,
    ((s.vi vi).ctxs.find cid = some c) ∧ (
    ((∃ e ∈ (s.vi vi).queues, e.2.ctx = cid))))) := by
    refine ⟨(viS { idleVi with queues := [(4, { ctx := 1 })] }), 3, 1, ?_, ?_, _, some_out (by decide +kernel), ?_⟩ <;> (first | decide +kernel | ((repeat (first | unfold Open)); first | decide +kernel | (intro _ h; cases h <;> decide +kernel)))

theorem wit_InterfacesAndContexts_8 :
    ∃ (s : State) (vi cid : Nat),
    (Open s vi) ∧ (
    ((s.vi vi).ctxBusy = false) ∧ (
    ∃ c,
    ((s.vi vi).ctxs.find cid = some c) ∧ (
    ((∀ e ∈ (s.vi vi).queues, e.2.ctx ≠ cid))))) := by
    refine ⟨(viS { idleVi with queues := [(4, { ctx := 0 })] }), 3, 1, ?_, ?_, _, some_out (by decide +kernel), ?_⟩ <;> (first | decide +kernel | ((repeat (first | unfold Open)); first | decide +kernel | (intro _ h; cases h <;> decide +kernel)))

theorem wit_InterfacesAndContexts_9 :
    ∃ (s : State) (vi r n w : Nat),
    ((s.vi vi).ctxBusy = true) ∧ (
    ((s.vi vi).ctxPend = (r, n, w)) ∧ (
    ((s.vi vi).busy = false) ∧ (
    ((∀ e ∈ (s.vi vi).ctxs, e.2.dying = false)) ∧ (
    ((s.vi vi).ctxs.find w = none))))) := by
    refine ⟨(viS { idleVi with ctxBusy := true, ctxPend := (0, 2, 0) }), 3, 0, 2, 0, ?_, ?_, ?_, ?_, ?_⟩ <;> decide +kernel

theorem wit_InterfacesAndContexts_10 :
    ∃ (s : State) (vi r n w : Nat),
    ((s.vi vi).ctxBusy = true) ∧ (
    ((s.vi vi).ctxPend = (r, n, w)) ∧ (
    ((s.vi vi).busy = false) ∧ (
    ∃ c,
    ((s.vi vi).ctxs.find w = some c) ∧ (
    (c.dying = true) ∧ (
    ((∀ e ∈ (s.vi vi).ctxs, e.1 ≠ w → e.2.dying = false)) ∧ (
    (boundTo vi w s = []) ∧ (
    ((∀ e ∈ s.chains, (chainOfKey e.1).vi = vi → (chainOfKey e.1).cid = w → e.2.cmds = [])) ∧ (
    ((∀ e ∈ s.chains, chainKey (chainOfKey e.1) = e.1)) ∧ (
    ((∀ e ∈ s.chains, s.chains.find e.1 = some e.2))))))))))) := by
    refine ⟨(viS dyingVi), 3, 0, 0, 1, ?_, ?_, ?_, _, some_out (by decide +kernel), ?_, ?_, ?_, ?_, ?_, ?_⟩ <;> decide +kernel

theorem wit_InterfacesAndContexts_11 :
    ∃ (s : State) (v : DWord) (c : Ctx),
    (Managed s) ∧ (
    let vi := v.toNat / 65536 % 128
    let cid := v.toNat / 256 % 256
    ((s.vi vi).ctxs.find cid = some c)) := by
    refine ⟨(viS idleVi), 0x30100, { ctx1 with maxTiles := 0 }, ?_, ?_⟩ <;> (first | decide +kernel | ((repeat (first | unfold Managed)); first | decide +kernel | (intro _ h; cases h <;> decide +kernel)))

theorem wit_QueuesAndAnswers_0 :
    ∃ (s : State) (vi q : Nat),
    (Open s vi) ∧ (
    (q < 64) ∧ (
    let Q := queueOf s vi q
    (Q.en = false))) := by
    refine ⟨(viS idleVi), 3, 63, ?_, ?_, ?_⟩ <;> (first | decide +kernel | ((repeat (first | unfold Open)); first | decide +kernel | (intro _ h; cases h <;> decide +kernel)))

theorem wit_QueuesAndAnswers_1 :
    ∃ (s : State) (vi q : Nat),
    (Open s vi) ∧ (
    (q < 64) ∧ (
    let Q := queueOf s vi q
    ∃ v : DWord,
    (v.toNat < Q.qtail.toNat))) := by
    refine ⟨(viS { idleVi with queues := [(63, { qtail := 7 })] }), 3, 63, ?_, ?_, 6, ?_⟩ <;> (first | decide +kernel | ((repeat (first | unfold Open)); first | decide +kernel | (intro _ h; cases h <;> decide +kernel)))

theorem wit_QueuesAndAnswers_2 :
    ∃ (s : State) (vi q : Nat),
    (Open s vi) ∧ (
    (q < 64) ∧ (
    let Q := queueOf s vi q
    ∃ v : DWord,
    (Q.qtail.toNat ≤ v.toNat))) := by
    refine ⟨(viS { idleVi with queues := [(63, { qtail := 7 })] }), 3, 63, ?_, ?_, 7, ?_⟩ <;> (first | decide +kernel | ((repeat (first | unfold Open)); first | decide +kernel | (intro _ h; cases h <;> decide +kernel)))

theorem wit_QueuesAndAnswers_3 :
    ∃ (s : State) (vi : Nat) (v : DWord),
    (Open s vi) ∧ (
    ((s.vi vi).ring.queue = []) ∧ (
    (v.toNat % 16 ≤ 8))) := by
    refine ⟨(viS (ringVi (.queueFetch 4))), 3, 0x300000, ?_, ?_, ?_⟩ <;> (first | decide +kernel | ((repeat (first | unfold Open)); first | decide +kernel | (intro _ h; cases h <;> decide +kernel)))

theorem wit_QueuesAndAnswers_4 :
    ∃ (s : State) (vi : Nat) (v : DWord),
    (Open s vi) ∧ (
    ((s.vi vi).ring.queue = []) ∧ (
    (8 < v.toNat % 16))) := by
    refine ⟨(viS (ringVi (.queueFetch 4))), 3, 9, ?_, ?_, ?_⟩ <;> (first | decide +kernel | ((repeat (first | unfold Open)); first | decide +kernel | (intro _ h; cases h <;> decide +kernel)))

theorem wit_QueuesAndAnswers_5 :
    ∃ (s : State) (vi : Nat) (v : DWord),
    (Open s vi) ∧ (
    ((s.vi vi).ring.queue = []) ∧ (
    let r := (s.vi vi).ring
    ((v - r.head).toNat ≤ (r.tail - r.head).toNat))) := by
    refine ⟨(viS (ringVi (.queueFetch 4))), 3, 8, ?_, ?_, ?_⟩ <;> (first | decide +kernel | ((repeat (first | unfold Open)); first | decide +kernel | (intro _ h; cases h <;> decide +kernel)))

theorem wit_QueuesAndAnswers_6 :
    ∃ (s : State) (vi : Nat) (v : DWord),
    (Open s vi) ∧ (
    ((s.vi vi).ring.queue = []) ∧ (
    let r := (s.vi vi).ring
    ((r.tail - r.head).toNat < (v - r.head).toNat))) := by
    refine ⟨(viS (ringVi (.queueFetch 4))), 3, 10, ?_, ?_, ?_⟩ <;> (first | decide +kernel | ((repeat (first | unfold Open)); first | decide +kernel | (intro _ h; cases h <;> decide +kernel)))

theorem wit_QueuesAndAnswers_7 :
    ∃ (s : State) (vi tag k : Nat) (b : Batch),
    (Open s vi) ∧ (
    (((s.vi vi).ring.batches.find? fun b => b.tag = tag) = some b) ∧ (
    (b.src = .seq k) ∧ (
    (savedTag vi b.cid tag s = none) ∧ (
    ((s.seq k).wait = .batch tag) ∧ (
    ((s.seq k).vi = vi) ∧ (
    ((s.seq k).cid = b.cid) ∧ (
    ((s.seq k).peerRetry = []) ∧ (
    (b.rolled = false) ∧ (
    (Handled (s.seq k))))))))))) := by
    refine ⟨(answeredS { hq with bound := some { work with cid := 1 }, wait := .batch 8 } (.seq 5)), 3, 8, 5, (batch8 (.seq 5)), ?_, ?_, ?_, ?_, ?_, ?_, ?_, ?_, ?_, ?_⟩ <;> (first | decide +kernel | ((repeat (first | unfold Handled | unfold Open)); first | decide +kernel | (intro _ h; cases h <;> decide +kernel)))

theorem wit_QueuesAndAnswers_8 :
    ∃ (s : State) (vi tag q : Nat) (b : Batch),
    (Open s vi) ∧ (
    (((s.vi vi).ring.batches.find? fun b => b.tag = tag) = some b) ∧ (
    (b.src = .queueFetch q))) := by
    refine ⟨(answeredS {} (.queueFetch 4)), 3, 8, 4, (batch8 (.queueFetch 4)), ?_, ?_, ?_⟩ <;> (first | decide +kernel | ((repeat (first | unfold Open)); first | decide +kernel | (intro _ h; cases h <;> decide +kernel)))

theorem wit_QueuesAndAnswers_9 :
    ∃ (s : State) (vi tag q : Nat) (b : Batch),
    (Open s vi) ∧ (
    (((s.vi vi).ring.batches.find? fun b => b.tag = tag) = some b) ∧ (
    (b.src = .queueDone q))) := by
    refine ⟨(answeredS {} (.queueDone 4)), 3, 8, 4, (batch8 (.queueDone 4)), ?_, ?_, ?_⟩ <;> (first | decide +kernel | ((repeat (first | unfold Open)); first | decide +kernel | (intro _ h; cases h <;> decide +kernel)))

theorem wit_QueuesAndAnswers_10 :
    ∃ (s : State) (vi tag : Nat),
    ((∀ b ∈ (s.vi vi).ring.batches, b.tag ≠ tag)) := by
    refine ⟨(answeredS {} (.queueDone 4)), 3, 9, ?_⟩ <;> decide +kernel

theorem wit_CompressionAndDebug_0 :
    ∃ (s : State) (vi i : Nat),
    let pa := (s.vi vi).cbframe.toNat / 4096 * 4096
    (Open s vi) ∧ (
    ((s.vi vi).cbBusy = false) ∧ (
    (i < (s.vi vi).cptsize) ∧ (
    (PoolPlain s vi i (pa / 4096)) ∧ (
    (s.Canonical) ∧ (
    (isMemory pa = true) ∧ (
    (s.frameOwner (pa / 4096) = vi) ∧ (
    (pa / 4096 < 2 ^ 40) ∧ (
    (bitsAt (poolWords s vi i).1 40 1 = 0) ∧ (
    (tierEnabled pa s = true)))))))))) := by
    refine ⟨(poolS 0 0), 3, 2, ?_, ?_, ?_, ⟨by decide +kernel, plain_of rfl (by decide +kernel), by decide +kernel, by decide +kernel, rfl, fun x h hx hh => by rw [show (poolS 0 0).home x = none from rfl] at hh; cases hh⟩, ?_, ?_, ?_, ?_, ?_, ?_⟩ <;> (first | decide +kernel | ((repeat (first | unfold Open | unfold PoolPlain | unfold State.Canonical | unfold Storable | unfold BytesPlain)); first | decide +kernel | (intro _ h; cases h <;> decide +kernel)))

theorem wit_CompressionAndDebug_1 :
    ∃ (s : State) (vi i : Nat),
    let pa := (s.vi vi).cbframe.toNat / 4096 * 4096
    (Open s vi) ∧ (
    ((s.vi vi).cbBusy = false) ∧ (
    (i < (s.vi vi).cptsize) ∧ (
    (PoolPlain s vi i (pa / 4096)) ∧ (
    (s.Canonical) ∧ (
    (isMemory pa = true) ∧ (
    (s.frameOwner (pa / 4096) = vi) ∧ (
    (pa / 4096 < 2 ^ 40) ∧ (
    (bitsAt (poolWords s vi i).1 40 1 = 0) ∧ (
    (s.converted.find (pa / 4096) = none) ∧ (
    ((∀ j, j < (s.vi vi).cptsize → bitsAt (s.peekField ((s.vi vi).cptbase.toNat + 16 * j) 8) 40 1 = 1 → s.peekField ((s.vi vi).cptbase.toNat + 16 * j) 8 % 2 ^ 40 ≠ pa / 4096)))))))))))) := by
    refine ⟨(poolS 0 0), 3, 2, ?_, ?_, ?_, ⟨by decide +kernel, plain_of rfl (by decide +kernel), by decide +kernel, by decide +kernel, rfl, fun x h hx hh => by rw [show (poolS 0 0).home x = none from rfl] at hh; cases hh⟩, ?_, ?_, ?_, ?_, ?_, ?_, by decide +kernel⟩ <;> (first | decide +kernel | ((repeat (first | unfold Open | unfold PoolPlain | unfold State.Canonical | unfold Storable | unfold BytesPlain)); first | decide +kernel | (intro _ h; cases h <;> decide +kernel)))

theorem wit_CompressionAndDebug_2 :
    ∃ (s : State) (vi i : Nat) (grant : Bool),
    let f := (poolWords s vi i).1 % 2 ^ 40
    (Open s vi) ∧ (
    ((s.vi vi).cbBusy = false) ∧ (
    (i < (s.vi vi).cptsize) ∧ (
    (PoolPlain s vi i f) ∧ (
    (s.Canonical) ∧ (
    (isMemory (4096 * f) = true) ∧ (
    (s.frameOwner f = vi) ∧ (
    ((s.converted.find f).isSome = !grant) ∧ (
    (bitsAt (poolWords s vi i).1 40 1 = 1) ∧ (
    (bitsAt (poolWords s vi i).1 41 1 = (if grant then 1 else 0)) ∧ (
    ((poolWords s vi i).2 = (if grant then (if i = 0 then 0xFFFFFFFE else 0xFFFFFFFF) else 0xFFFFFF00)))))))))))) := by
    refine ⟨(poolS (5 + 2 ^ 40 + 2 ^ 41) 0xFFFFFFFF), 3, 2, true, ?_, ?_, ?_, ⟨by decide +kernel, plain_of rfl (by decide +kernel), by decide +kernel, by decide +kernel, rfl, fun x h hx hh => by rw [show (poolS (5 + 2 ^ 40 + 2 ^ 41) 0xFFFFFFFF).home x = none from rfl] at hh; cases hh⟩, ?_, ?_, ?_, ?_, ?_, ?_, ?_⟩ <;> (first | decide +kernel | ((repeat (first | unfold Open | unfold PoolPlain | unfold State.Canonical | unfold Storable | unfold BytesPlain)); first | decide +kernel | (intro _ h; cases h <;> decide +kernel)))

theorem wit_CompressionAndDebug_3 :
    ∃ (s : State) (vi : Nat),
    (Open s vi) := by
    refine ⟨(poolS 0 0), 3, ?_⟩ <;> (first | decide +kernel | ((repeat (first | unfold Open)); first | decide +kernel | (intro _ h; cases h <;> decide +kernel)))

theorem wit_CompressionAndDebug_4 :
    ∃ (s : State) (vi : Nat),
    ((s.vi vi).cbBusy = true) := by
    refine ⟨(viS { idleVi with cbBusy := true }), 3, ?_⟩ <;> decide +kernel

theorem wit_CompressionAndDebug_5 :
    ∃ (s : State) (vi : Nat),
    ∃ v : DWord,
    (Open s vi) ∧ (
    (v = 0 ∨ (v.toNat % 128 = 0 ∧ isMemory v.toNat = true ∧ s.frameOwner (v.toNat / 4096) = vi))) := by
    refine ⟨(viS idleVi), 3, 0x5080, ?_, ?_⟩ <;> (first | decide +kernel | ((repeat (first | unfold Open)); first | decide +kernel | (intro _ h; cases h <;> decide +kernel)))

theorem wit_CompressionAndDebug_6 :
    ∃ (s : State) (vi : Nat),
    ∃ v : DWord,
    (Open s vi) ∧ (
    (v ≠ 0) ∧ (
    (v.toNat % 128 ≠ 0 ∨ isMemory v.toNat = false ∨ s.frameOwner (v.toNat / 4096) ≠ vi))) := by
    refine ⟨(viS idleVi), 3, 0x5081, ?_, ?_, ?_⟩ <;> (first | decide +kernel | ((repeat (first | unfold Open)); first | decide +kernel | (intro _ h; cases h <;> decide +kernel)))

theorem wit_CompressionAndDebug_7 :
    ∃ (s : State) (vi : Nat) (b : Binding),
    let sel := (s.vi vi).dbgsel.toNat
    let k := sel / 2 ^ 32 % 8192
    let cid := sel / 256 % 256
    (Open s vi) ∧ (
    (((s.vi vi).ctxs.find cid).isSome = true) ∧ (
    ((s.seq k).bound = some b) ∧ (
    (b.vi = vi) ∧ (
    (b.cid = cid) ∧ (
    ((s.seq k).preempt = none ∨ (s.seq k).strip = none)))))) := by
    refine ⟨(poolS 0 0), 3, { work with cid := 1 }, ?_, ?_, ?_, ?_, ?_, .inl (by decide +kernel)⟩ <;> (first | decide +kernel | ((repeat (first | unfold Open)); first | decide +kernel | (intro _ h; cases h <;> decide +kernel)))

theorem wit_CompressionAndDebug_8 :
    ∃ (s : State) (vi : Nat) (b : Binding),
    let sel := (s.vi vi).dbgsel.toNat
    let k := sel / 2 ^ 32 % 8192
    let cid := sel / 256 % 256
    (Open s vi) ∧ (
    (((s.vi vi).ctxs.find cid).isSome = true) ∧ (
    ((s.seq k).bound = some b) ∧ (
    (b.vi = vi) ∧ (
    (b.cid = cid) ∧ (
    let said (t : State) : State := t.updVi vi fun v => { v with dbgResult := 0 }
    ((s.seq k).halted = true)))))) := by
    refine ⟨(poolS 0 0), 3, { work with cid := 1 }, ?_, ?_, ?_, ?_, ?_, ?_⟩ <;> (first | decide +kernel | ((repeat (first | unfold Open)); first | decide +kernel | (intro _ h; cases h <;> decide +kernel)))

theorem wit_CompressionAndDebug_9 :
    ∃ (s : State) (vi : Nat) (b : Binding),
    let sel := (s.vi vi).dbgsel.toNat
    let k := sel / 2 ^ 32 % 8192
    let cid := sel / 256 % 256
    (Open s vi) ∧ (
    (((s.vi vi).ctxs.find cid).isSome = true) ∧ (
    ((s.seq k).bound = some b) ∧ (
    (b.vi = vi) ∧ (
    (b.cid = cid) ∧ (
    ∃ a,
    (a = (s.vi vi).dbgbuf.toNat / 4096 * 4096) ∧ (
    (ownBytes vi a (11 * 4096) s = true) ∧ (
    (BytesPlain s a (11 * 4096)) ∧ (
    (s.Canonical) ∧ (
    (s.mgmt.heatEn = false)))))))))) := by
    refine ⟨(poolS 0 0), 3, { work with cid := 1 }, ?_, ?_, ?_, ?_, ?_, 0x50000, ?_, ?_, plain_of rfl (by decide +kernel), ?_, ?_⟩ <;> (first | decide +kernel | ((repeat (first | unfold BytesPlain | unfold Open | unfold State.Canonical | unfold Storable)); first | decide +kernel | (intro _ h; cases h <;> decide +kernel)))

theorem wit_RegisterWindows_0 :
    ∃ (i : Instr) (s : State) (d : Nat) (f : Die → Nat) (c : Die → Die),
    (readAndClear i = some (d, f, c)) ∧ (
    (d < 4) ∧ (
    (Managed s))) := by
    refine ⟨(.staledropRead 3), State.reset, 3, _, _, rfl, ?_, ?_⟩ <;> (first | decide +kernel | ((repeat (first | unfold Managed)); first | decide +kernel | (intro _ h; cases h <;> decide +kernel)))

theorem wit_RegisterWindows_1 :
    ∃ (s : State) (vi : Nat),
    (Open s vi) := by
    refine ⟨(viS idleVi), 3, ?_⟩ <;> (first | decide +kernel | ((repeat (first | unfold Open)); first | decide +kernel | (intro _ h; cases h <;> decide +kernel)))

theorem wit_RegisterWindows_2 :
    ∃ s : State,
    (Managed s) := by
    refine ⟨State.reset, ?_⟩ <;> (first | decide +kernel | ((repeat (first | unfold Managed)); first | decide +kernel | (intro _ h; cases h <;> decide +kernel)))

theorem wit_RegisterWindows_3 :
    ∃ (s : State) (o : Nat) (v : DWord),
    (Managed s) ∧ (
    ∃ f,
    (keepMgmt o v = some f)) := by
    refine ⟨State.reset, 0x110, 0x5000, ?_, _, rfl⟩ <;> (first | decide +kernel | ((repeat (first | unfold Managed)); first | decide +kernel | (intro _ h; cases h <;> decide +kernel)))

theorem wit_RegisterWindows_4 :
    ∃ (s : State) (o : Nat) (v : DWord),
    (Managed s) ∧ (
    ∃ vi f,
    (Open s vi) ∧ (
    (keepVi o v = some f))) := by
    refine ⟨(viS idleVi), 0x20000, 0x5000, ?_, 3, _, ?_, rfl⟩ <;> (first | decide +kernel | ((repeat (first | unfold Open | unfold Managed)); first | decide +kernel | (intro _ h; cases h <;> decide +kernel)))

theorem wit_RegisterWindows_5 :
    ∃ (s : State) (vi : Nat) (v : DWord),
    (Managed s) ∧ (
    (Open s vi)) := by
    refine ⟨(viS idleVi), 3, 0x5000, ?_, ?_⟩ <;> (first | decide +kernel | ((repeat (first | unfold Open | unfold Managed)); first | decide +kernel | (intro _ h; cases h <;> decide +kernel)))

theorem wit_LimitRegisters_1 :
    ∃ (s : State) (v : DWord),
    (Managed s) := by
    refine ⟨State.reset, 5, ?_⟩ <;> (first | decide +kernel | ((repeat (first | unfold Managed)); first | decide +kernel | (intro _ h; cases h <;> decide +kernel)))

theorem wit_WorkCompletes_0 :
    ∃ (s : State) (d : Nat),
    (d < 4) ∧ (
    ((s.die d).fenced = false)) := by
    refine ⟨(workS {} false), 3, ?_, ?_⟩ <;> decide +kernel

theorem wit_WorkCompletes_1 :
    ∃ (s : State) (d : Nat),
    (d < 4) ∧ (
    ((s.die d).fenced = true) ∧ (
    ((s.die d).reissued = false) ∧ (
    ((∀ e ∈ s.seqs, e.1 / 2048 = d → e.2.bound = none))))) := by
    refine ⟨fencedS, 0, ?_, ?_, ?_, ?_⟩ <;> decide +kernel

theorem wit_WorkCompletes_2 :
    ∃ (s : State) (d row outer count saved : Nat),
    let k := 2048 * d + row
    (d < 4) ∧ (
    (row < 2048) ∧ (
    (takesWork k s = true) ∧ (
    ((rowOf k s).length < 4) ∧ (
    ((∀ v ∈ s.vis, ∀ Q ∈ v.2.queues, Q.1 < 64)) ∧ (
    ((∃ v ∈ s.vis, ∃ Q ∈ v.2.queues, (nextBind v.1 Q.1 k outer count saved s).isSome = true))))))) := by
    refine ⟨{ workS {} false with dies := Vector.replicate 4 {} }, 0, 5, 0, 4, 1, ?_, ?_, ?_, ?_, ?_, ?_⟩ <;> decide +kernel

theorem wit_WorkCompletes_3 :
    ∃ (s : State) (k : Agent) (e : CallEntry) (es : List CallEntry) (sl : Slate),
    ((s.seq k).bound = none) ∧ (
    (takesWork k s = true) ∧ (
    (rowOf k s = e :: es) ∧ (
    (s.slates.find e.work.slot = some sl) ∧ (
    (sl.abandoned = false) ∧ (
    (e.valid = true) ∧ (
    (e.resume = false))))))) := by
    refine ⟨(workS {} false), 5, (entry false), [entry false], _, ?_, ?_, ?_, some_out (by decide +kernel), ?_, ?_, ?_⟩ <;> decide +kernel

theorem wit_WorkCompletes_4 :
    ∃ (s : State) (k : Agent) (e : CallEntry) (es : List CallEntry) (c : Ctx) (sl : Slate) (x : SavedCtx),
    ((s.seq k).bound = none) ∧ (
    (takesWork k s = true) ∧ (
    (rowOf k s = e :: es) ∧ (
    (e.resume = true) ∧ (
    ((s.vi e.work.vi).ctxs.find e.work.cid = some c) ∧ (
    (s.slates.find e.work.slot = some sl) ∧ (
    ((c.saved.find? fun y => y.work = e.work) = some x) ∧ (
    (x.tag = none)))))))) := by
    refine ⟨(workS {} true), 5, (entry true), [entry false], _, _, _, ?_, ?_, ?_, ?_, some_out (by decide +kernel), some_out (by decide +kernel), some_out (by decide +kernel), ?_⟩ <;> decide +kernel

theorem wit_WorkCompletes_5 :
    ∃ (s : State) (k : Agent),
    ((s.seq k).bound.isSome = true) ∧ (
    ((s.seq k).strip = none)) := by
    refine ⟨(workS { bound := some work } false), 5, ?_, ?_⟩ <;> decide +kernel

theorem wit_WorkCompletes_6 :
    ∃ (s : State) (k : Agent) (b : Binding) (c : Ctx),
    ((s.seq k).preempt.isSome = true) ∧ (
    ((s.seq k).saveReady = true) ∧ (
    ((s.seq k).bound = some b) ∧ (
    ((s.vi b.vi).ctxs.find b.cid = some c) ∧ (
    (c.dying = false) ∧ (
    (slotOwned b.vi c b.saveSlot s = true)))))) := by
    refine ⟨(workS { bound := some work, preempt := some 4 } false), 5, _, _, ?_, ?_, some_out (by decide +kernel), some_out (by decide +kernel), ?_, ?_⟩ <;> decide +kernel

theorem wit_WorkCompletes_7 :
    ∃ (s : State) (k : Agent) (st : Strip),
    ((s.seq k).forceDue s = true) ∧ (
    ((s.seq k).strip = some st) ∧ (
    ((s.seq k).commit = none))) := by
    refine ⟨forcedS, 5, _, ?_, some_out (by decide +kernel), ?_⟩ <;> decide +kernel

theorem wit_WorkCompletes_8 :
    ∃ (s : State) (k h : Agent) (i : Inval),
    ((s.seq k).inval = some i) ∧ (
    (h ∈ i.holders) ∧ (
    (i.since + s.mgmt.tlbpinwait ≤ s.cycle) ∧ (
    ((s.seq h).bound.isSome = true) ∧ (
    ((s.seq h).pinsNamed i = true))))) := by
    refine ⟨pinS, 5, 5, _, some_out (by decide +kernel), ?_, ?_, ?_, ?_⟩ <;> decide +kernel

theorem wit_WorkCompletes_9 :
    ∃ (s : State) (c : ChainId) (x : Cmd),
    (s.headCmd c = some x) ∧ (
    (x.phase = .segment) ∧ (
    (x.stop = false) ∧ (
    (x.front = []) ∧ (
    (x.run c = none))))) := by
    refine ⟨(engS 1 (cmdOf castEntry)), (chain7 1), (cmdOf castEntry), ?_, ?_, ?_, ?_, ?_⟩ <;> decide +kernel

theorem wit_WorkCompletes_10 :
    ∃ (s : State) (c : ChainId) (x : Cmd) (r : Run),
    (x.owned = []) ∧ (
    (x.run c = some r) ∧ (
    (r.total ≤ x.pos) ∧ (
    (Operating s c x 0 0)))) := by
    refine ⟨(engS 0 { engOp copyEntry 0 with pos := 128 }), (chain7 0), { engOp copyEntry 0 with pos := 128 }, _, ?_, some_out (by decide +kernel), ?_, ?_⟩ <;> (first | decide +kernel | ((repeat (first | unfold Operating)); first | decide +kernel | (intro _ h; cases h <;> decide +kernel)))

theorem wit_WorkCompletes_11 :
    ∃ (s : State) (c : ChainId) (x : Cmd) (r : Run),
    (x.owned = []) ∧ (
    (x.run c = some r) ∧ (
    (r.total ≤ x.pos) ∧ (
    (Operating s c x 0 1)))) := by
    refine ⟨(engS 0 { engOp (fillEntry 0x7080) 0 with pos := 128 }), (chain7 0), { engOp (fillEntry 0x7080) 0 with pos := 128 }, _, ?_, some_out (by decide +kernel), ?_, ?_⟩ <;> (first | decide +kernel | ((repeat (first | unfold Operating)); first | decide +kernel | (intro _ h; cases h <;> decide +kernel)))

theorem wit_WorkCompletes_12 :
    ∃ (s : State) (c : ChainId) (x : Cmd) (r : Run),
    (x.owned = []) ∧ (
    (x.run c = some r) ∧ (
    (r.total ≤ x.pos) ∧ (
    (Operating s c x 0 2)))) := by
    refine ⟨(engS 0 { engOp copymEntry 0 with pos := 10 }), (chain7 0), { engOp copymEntry 0 with pos := 10 }, _, ?_, some_out (by decide +kernel), ?_, ?_⟩ <;> (first | decide +kernel | ((repeat (first | unfold Operating)); first | decide +kernel | (intro _ h; cases h <;> decide +kernel)))

theorem wit_WorkCompletes_13 :
    ∃ (s : State) (c : ChainId) (x : Cmd) (r : Run),
    (x.owned = []) ∧ (
    (x.run c = some r) ∧ (
    (r.total ≤ x.pos) ∧ (
    (Operating s c x 3 0)))) := by
    refine ⟨(engS 3 { engOp putEntry 0 with pos := 128 }), (chain7 3), { engOp putEntry 0 with pos := 128 }, _, ?_, some_out (by decide +kernel), ?_, ?_⟩ <;> (first | decide +kernel | ((repeat (first | unfold Operating)); first | decide +kernel | (intro _ h; cases h <;> decide +kernel)))

theorem wit_WorkCompletes_14 :
    ∃ (s : State) (c : ChainId) (x : Cmd) (r : Run),
    (x.owned = []) ∧ (
    (x.run c = some r) ∧ (
    (r.total ≤ x.pos) ∧ (
    (Operating s c x 3 1)))) := by
    refine ⟨(engS 3 { engOp reduceEntry 0 with pos := 20 }), (chain7 3), { engOp reduceEntry 0 with pos := 20 }, _, ?_, some_out (by decide +kernel), ?_, ?_⟩ <;> (first | decide +kernel | ((repeat (first | unfold Operating)); first | decide +kernel | (intro _ h; cases h <;> decide +kernel)))

theorem wit_WorkCompletes_15 :
    ∃ (s : State) (c : ChainId) (x : Cmd) (op : Nat),
    (x.owned = []) ∧ (
    (x.field 12 4 ≤ x.unit) ∧ (
    (x.row = none) ∧ (
    (x.data = none) ∧ (
    (Operating s c x 1 op))))) := by
    refine ⟨(engS 1 { engOp castEntry 0 with unit := 5 }), (chain7 1), { engOp castEntry 0 with unit := 5 }, 0, ?_, ?_, ?_, ?_, ?_⟩ <;> (first | decide +kernel | ((repeat (first | unfold Operating)); first | decide +kernel | (intro _ h; cases h <;> decide +kernel)))

theorem wit_WorkCompletes_16 :
    ∃ (s : State) (c : ChainId) (x : Cmd) (op : Nat),
    (x.owned = []) ∧ (
    (x.field 12 4 ≤ x.unit) ∧ (
    (x.row = none) ∧ (
    (x.data = none) ∧ (
    (Operating s c x 2 op))))) := by
    refine ⟨(engS 2 { engOp castEntry 0 with unit := 5 }), (chain7 2), { engOp castEntry 0 with unit := 5 }, 0, ?_, ?_, ?_, ?_, ?_⟩ <;> (first | decide +kernel | ((repeat (first | unfold Operating)); first | decide +kernel | (intro _ h; cases h <;> decide +kernel)))

theorem wit_WorkCompletes_17 :
    ∃ (s : State) (c : ChainId) (x : Cmd) (op : Nat),
    (x.owned = []) ∧ (
    (x.field 12 4 ≤ x.unit) ∧ (
    (x.row = none) ∧ (
    (x.data = none) ∧ (
    (Operating s c x 4 op))))) := by
    refine ⟨(engS 4 { engOp dailiesEntry 0 with unit := 5 }), (chain7 4), { engOp dailiesEntry 0 with unit := 5 }, 0, ?_, ?_, ?_, ?_, ?_⟩ <;> (first | decide +kernel | ((repeat (first | unfold Operating)); first | decide +kernel | (intro _ h; cases h <;> decide +kernel)))

theorem wit_WorkCompletes_18 :
    ∃ (s : State) (c : ChainId) (x : Cmd),
    (Operating s c x 3 2) ∧ (
    (x.owned = []) ∧ (
    (peerEnabled c.vi s = true) ∧ (
    (2 ^ 63 ≤ x.field 24 8) ∧ (
    (x.field 24 8 % 128 ≤ 120) ∧ (
    (reachable (2 ^ 51 + x.field 24 8 % 2 ^ 51) s = true)))))) := by
    refine ⟨{ engS 3 (engOp peerSignal 0) with mgmt := { peeren0 := 8, route := [(0, 8)] } }, (chain7 3), (engOp peerSignal 0), ?_, ?_, ?_, ?_, ?_, ?_⟩ <;> (first | decide +kernel | ((repeat (first | unfold Operating)); first | decide +kernel | (intro _ h; cases h <;> decide +kernel)))

theorem wit_WorkCompletes_19 :
    ∃ (s : State) (vi : Nat),
    (vi < 128) ∧ (
    (Managed s) ∧ (
    ((s.vi vi).en = false) ∧ (
    ((s.vi vi).busy = false) ∧ (
    (portOf vi s ≠ .absent))))) := by
    refine ⟨State.reset, 3, ?_, ?_, ?_, ?_, ?_⟩ <;> (first | decide +kernel | ((repeat (first | unfold Managed)); first | decide +kernel | (intro _ h; cases h <;> decide +kernel)))

theorem wit_WorkCompletes_20 :
    ∃ (s : State) (vi : Nat),
    (vi < 128) ∧ (
    (Managed s) ∧ (
    ((s.vi vi).en = true) ∧ (
    ((s.vi vi).busy = false)))) := by
    refine ⟨(viS idleVi), 3, ?_, ?_, ?_, ?_⟩ <;> (first | decide +kernel | ((repeat (first | unfold Managed)); first | decide +kernel | (intro _ h; cases h <;> decide +kernel)))

theorem wit_WorkCompletes_21 :
    ∃ (s : State) (vi : Nat),
    ((s.vi vi).busy = true) ∧ (
    ((s.vi vi).ctxs = [])) := by
    refine ⟨(viS { busy := true }), 3, ?_, ?_⟩ <;> decide +kernel

theorem wit_WorkCompletes_22 :
    ∃ (s : State) (vi k : Nat) (v : DWord),
    (vi < 128) ∧ (
    (k < 8) ∧ (
    (Managed s) ∧ (
    ((s.vi vi).hrBase.length = 8) ∧ (
    ((s.vi vi).hrSize.length = 8))))) := by
    refine ⟨(viS idleVi), 3, 7, 0x5000, ?_, ?_, ?_, ?_, ?_⟩ <;> (first | decide +kernel | ((repeat (first | unfold Managed)); first | decide +kernel | (intro _ h; cases h <;> decide +kernel)))

theorem wit_WorkCompletes_23 :
    ∃ (s : State) (vi : Nat),
    ((s.vi vi).hrBusy = true) ∧ (
    (pinned (fun e => decide (e.vi = vi)) s = false)) := by
    refine ⟨(viS { idleVi with hrBusy := true }), 3, ?_, ?_⟩ <;> decide +kernel

theorem wit_WorkCompletes_24 :
    ∃ (s : State) (vi id : Nat) (c : Ctx),
    (Open s vi) ∧ (
    ((s.vi vi).ctxBusy = false) ∧ (
    (readDescriptor vi s = (0, id, some c)))) := by
    refine ⟨descriptorS, 3, 2, _, ?_, ?_, descriptor_read⟩ <;> (first | decide +kernel | ((repeat (first | unfold Open)); first | decide +kernel | (intro _ h; cases h <;> decide +kernel)))

theorem wit_WorkCompletes_25 :
    ∃ (s : State) (vi cid : Nat) (c : Ctx),
    (Open s vi) ∧ (
    ((s.vi vi).ctxBusy = false) ∧ (
    ((s.vi vi).ctxs.find cid = some c) ∧ (
    ((∀ e ∈ (s.vi vi).queues, e.2.ctx ≠ cid))))) := by
    refine ⟨(viS { idleVi with queues := [(4, { ctx := 0 })] }), 3, 1, _, ?_, ?_, some_out (by decide +kernel), ?_⟩ <;> (first | decide +kernel | ((repeat (first | unfold Open)); first | decide +kernel | (intro _ h; cases h <;> decide +kernel)))

theorem wit_WorkCompletes_26 :
    ∃ (s : State) (vi r n w : Nat),
    ((s.vi vi).ctxBusy = true) ∧ (
    ((s.vi vi).ctxPend = (r, n, w)) ∧ (
    ((∀ e ∈ (s.vi vi).ctxs, e.2.dying = false)) ∧ (
    ((s.vi vi).ctxs.find w = none)))) := by
    refine ⟨(viS { idleVi with ctxBusy := true, ctxPend := (0, 2, 0) }), 3, 0, 2, 0, ?_, ?_, ?_, ?_⟩ <;> decide +kernel

theorem wit_WorkCompletes_27 :
    ∃ (s : State) (v : DWord) (c : Ctx),
    (Managed s) ∧ (
    let vi := v.toNat / 65536 % 128
    let cid := v.toNat / 256 % 256
    ((s.vi vi).ctxs.find cid = some c)) := by
    refine ⟨(viS idleVi), 0x30100, { ctx1 with maxTiles := 0 }, ?_, ?_⟩ <;> (first | decide +kernel | ((repeat (first | unfold Managed)); first | decide +kernel | (intro _ h; cases h <;> decide +kernel)))

theorem wit_WorkCompletes_28 :
    ∃ (s : State) (vi q : Nat),
    (Open s vi) ∧ (
    (q < 64) ∧ (
    ((queueOf s vi q).en = false))) := by
    refine ⟨(viS idleVi), 3, 63, ?_, ?_, ?_⟩ <;> (first | decide +kernel | ((repeat (first | unfold Open)); first | decide +kernel | (intro _ h; cases h <;> decide +kernel)))

theorem wit_WorkCompletes_29 :
    ∃ (s : State) (vi q : Nat),
    (Open s vi) ∧ (
    (q < 64) ∧ (
    ∃ v : DWord,
    ((queueOf s vi q).qtail.toNat ≤ v.toNat))) := by
    refine ⟨(viS { idleVi with queues := [(63, { qtail := 7 })] }), 3, 63, ?_, ?_, 7, ?_⟩ <;> (first | decide +kernel | ((repeat (first | unfold Open)); first | decide +kernel | (intro _ h; cases h <;> decide +kernel)))

theorem wit_WorkCompletes_30 :
    ∃ (s : State) (vi : Nat) (v : DWord),
    (Open s vi) ∧ (
    ((s.vi vi).ring.queue = []) ∧ (
    (v.toNat % 16 ≤ 8))) := by
    refine ⟨(viS (ringVi (.queueFetch 4))), 3, 8, ?_, ?_, ?_⟩ <;> (first | decide +kernel | ((repeat (first | unfold Open)); first | decide +kernel | (intro _ h; cases h <;> decide +kernel)))

theorem wit_WorkCompletes_31 :
    ∃ (s : State) (vi : Nat) (v : DWord),
    (Open s vi) ∧ (
    ((s.vi vi).ring.queue = []) ∧ (
    ((v - (s.vi vi).ring.head).toNat ≤ ((s.vi vi).ring.tail - (s.vi vi).ring.head).toNat))) := by
    refine ⟨(viS (ringVi (.queueFetch 4))), 3, 9, ?_, ?_, ?_⟩ <;> (first | decide +kernel | ((repeat (first | unfold Open)); first | decide +kernel | (intro _ h; cases h <;> decide +kernel)))

theorem wit_WorkCompletes_32 :
    ∃ (s : State) (vi tag k : Nat) (b : Batch),
    (Open s vi) ∧ (
    (((s.vi vi).ring.batches.find? fun b => b.tag = tag) = some b) ∧ (
    (b.src = .seq k) ∧ (
    (savedTag vi b.cid tag s = none) ∧ (
    ((s.seq k).wait = .batch tag) ∧ (
    ((s.seq k).vi = vi) ∧ (
    ((s.seq k).cid = b.cid) ∧ (
    ((s.seq k).peerRetry = []) ∧ (
    (b.rolled = false) ∧ (
    (Handled (s.seq k))))))))))) := by
    refine ⟨(answeredS { hq with bound := some { work with cid := 1 }, wait := .batch 8 } (.seq 5)), 3, 8, 5, (batch8 (.seq 5)), ?_, ?_, ?_, ?_, ?_, ?_, ?_, ?_, ?_, ?_⟩ <;> (first | decide +kernel | ((repeat (first | unfold Handled | unfold Open)); first | decide +kernel | (intro _ h; cases h <;> decide +kernel)))

theorem wit_WorkCompletes_33 :
    ∃ (s : State) (v : DWord),
    (Managed s) ∧ (
    (v.toNat / 2 ^ 60 = 1) ∧ (
    (s.mgmt.fwBusy = false))) := by
    refine ⟨State.reset, 0x1000000000001000, ?_, ?_, ?_⟩ <;> (first | decide +kernel | ((repeat (first | unfold Managed)); first | decide +kernel | (intro _ h; cases h <;> decide +kernel)))

theorem wit_WorkCompletes_34 :
    ∃ (s : State) (flash : Nat) (i : List Byte),
    (s.mgmt.fwBusy = true) ∧ (
    (s.mgmt.fwCopy = some i)) := by
    refine ⟨{ State.reset with mgmt := { fwBusy := true, fwCopy := some [1] } }, 0, [1], ?_, ?_⟩ <;> decide +kernel

theorem wit_WorkCompletes_35 :
    ∃ s : State,
    (s.recovery = true) ∧ (
    (s.pfPresent = true) ∧ (
    (s.mgmt.recBusy = false))) := by
    refine ⟨recoveringS, ?_, ?_, ?_⟩ <;> decide +kernel

theorem wit_WorkCompletes_36 :
    ∃ (s : State) (flash : Nat),
    (s.mgmt.recBusy = true) := by
    refine ⟨{ recoveringS with mgmt := { recBusy := true, reclen := 64 } }, 0, ?_⟩ <;> decide +kernel

theorem wit_WorkCompletes_37 :
    ∃ (s : State) (n : Nat),
    (Open s n) ∧ (
    ((s.attest (.vi n)).busy = false) ∧ (
    ((s.attest (.vi n)).buf.toNat % 64 = 0) ∧ (
    (ownBytes n (s.attest (.vi n)).buf.toNat 29920 s = true)))) := by
    refine ⟨(viS { idleVi with att := { buf := 0x50040 } }), 3, ?_, ?_, ?_, ?_⟩ <;> (first | decide +kernel | ((repeat (first | unfold Open)); first | decide +kernel | (intro _ h; cases h <;> decide +kernel)))

theorem wit_WorkCompletes_38 :
    ∃ (s : State) (who : RingId) (rest : List RingId),
    (s.attQueue = who :: rest) := by
    refine ⟨reportS, (.vi 3), [], ?_⟩ <;> decide +kernel

theorem wit_WorkCompletes_39 :
    ∃ (s : State) (v : DWord) (f : Nat),
    (Managed s) ∧ (
    (s.mgmt.ownBusy = false) ∧ (
    let n := v.toNat % 2 ^ 21
    (1 ≤ n) ∧ (
    (n ≤ 2 ^ 20) ∧ (
    (isMemory (4096 * s.mgmt.ownset) = true) ∧ (
    (tierOf (4096 * s.mgmt.ownset) = tierOf (4096 * (s.mgmt.ownset + n - 1))) ∧ (
    (s.mgmt.ownset ≤ f) ∧ (
    (f < s.mgmt.ownset + n)))))))) := by
    refine ⟨{ State.reset with mgmt := { ownset := 5 } }, 0x850000000003, 7, ?_, ?_, ?_, ?_, ?_, ?_, ?_, ?_⟩ <;> (first | decide +kernel | ((repeat (first | unfold Managed)); first | decide +kernel | (intro _ h; cases h <;> decide +kernel)))

theorem wit_WorkCompletes_40 :
    ∃ s : State,
    (s.mgmt.ownBusy = true) ∧ (
    (pinned (fun e => e.maps s.mgmt.ownset s.mgmt.ownCount) s = false)) := by
    refine ⟨{ State.reset with mgmt := { ownBusy := true, ownset := 5, ownCount := 3 } }, ?_, ?_⟩ <;> decide +kernel

theorem wit_WorkCompletes_41 :
    ∃ (s : State) (vi k cid pc number : Nat) (es : List FaultEntry) (w : Bool),
    ((s.vi vi).en = true) ∧ (
    ((s.vi vi).ring.ready = true) ∧ (
    ((s.vi vi).ring.queue = [{ post := .batch (.seq k) cid pc number es, waited := w }]) ∧ (
    ((s.seq k).wait = .posting) ∧ (
    ((s.seq k).strip = none) ∧ (
    ((inRecords es).length ≤ (s.vi vi).ring.room) ∧ (
    (slotSnoops vi (inRecords es).length s = []))))))) := by
    refine ⟨(ringS [.batch (.seq 5) 1 0xFFFFFFFFFFFFFFFF 0xFFFFFFFFFFFFFFFF [fault7]]), 3, 5, 1, 0xFFFFFFFFFFFFFFFF, 0xFFFFFFFFFFFFFFFF, [fault7], false, ?_, ?_, ?_, ?_, ?_, ?_, ?_⟩ <;> decide +kernel

end Sys2Proof.Tests
end

/-!
PROOFS. The registers of the host's windows (03 R50, R55; 07 R175; 08 R187): what an open window lets through, what a read that
clears returns, and what a write to each offset does.
-/
namespace Sys2Proof.Machine

open Sys2Proof.Claims

/-! ## Dies and the value returned -/

@[simp] theorem State.die_updDie_same (s : State) {d : Nat} (f : Die → Die) (hd : d < 4) : (s.updDie d f).die d = f (s.die d) := by
  simp [State.updDie, State.die, hd]

theorem State.die_updDie_other (s : State) {d j : Nat} (f : Die → Die) (h : j ≠ d) : (s.updDie d f).die j = s.die j := by
  unfold State.updDie
  split
  · unfold State.die
    split
    · exact Vector.getElem_set_ne (hi := ‹_›) (hj := ‹_›) (Ne.symm h)
    · rfl
  · rfl

@[simp] theorem find_hostVal_returned (x : DWord) (s : State) : (returned x s).hostVal.find 0 = some x :=
  AMap.find_set_same _ _ _

@[simp] theorem die_returned (x : DWord) (s : State) (d : Nat) : (returned x s).die d = s.die d := rfl

@[simp] theorem vi_updRing (s : State) (vi : Nat) (f : Ring → Ring) :
    (s.updRing vi f).vi vi = { s.vi vi with ring := f (s.vi vi).ring } :=
  AMap.getD_set_same _ _ _ _

/-! ## Open windows -/

theorem inManagement_of_managed {s : State} (hs : Managed s) (f : State → State) : inManagement f s = f s := by
  obtain ⟨hrec, hpf⟩ := hs
  simp [inManagement, hrec, hpf]

theorem inWindow_of_open {s : State} {vi : Nat} (hs : Open s vi) (f : State → State) : inWindow vi f s = f s := by
  obtain ⟨hvi, hen, hrec⟩ := hs
  simp [inWindow, hvi, hen, hrec]

theorem reg_pf_of_managed {s : State} (hs : Managed s) (o : Nat) : s.reg .pf o = BitVec.ofNat 64 (pfReg o s) := by
  obtain ⟨hrec, hpf⟩ := hs
  simp [State.reg, hrec, hpf]

theorem reg_vi_of_open {s : State} {vi : Nat} (hs : Open s vi) (o : Nat) : s.reg (.vi vi) o = BitVec.ofNat 64 (viReg vi o s) := by
  obtain ⟨-, -, hrec⟩ := hs
  simp [State.reg, hrec]

theorem exec_registerWrite_pf {s : State} (hs : Managed s) (o : Nat) (v : DWord) :
    exec (.registerWrite .pf o v) s = .next (pfWrite o v s) := by
  obtain ⟨hrec, hpf⟩ := hs
  change Host.Outcome.next _ = _
  simp [hrec, hpf]

theorem exec_registerWrite_vi {s : State} {vi : Nat} (hs : Open s vi) (o : Nat) (v : DWord) :
    exec (.registerWrite (.vi vi) o v) s = .next (viWrite vi o v s) :=
  congrArg Host.Outcome.next (inWindow_of_open hs (viWrite vi o v))

/-! ## Reads that clear -/

/-- The coherence counters of a die stand in its block of 32 bytes (07 R175). -/
theorem pfReg_coherenceOffset (s : State) {d i : Nat} (hd : d < 4) (hi : i < 4) :
    pfReg (coherenceOffset d i) s = coherenceReg d (8 * i) s := by
  have hdie : (0x440 + 0x20 * d + 8 * i - 0x440) / 0x20 = d := by omega
  have hoff : (0x440 + 0x20 * d + 8 * i) % 0x20 = 8 * i := by omega
  unfold pfReg coherenceOffset
  rw [if_neg (by omega), if_pos (by omega), hdie, hoff]

/-- The compression counters of a die stand in its block of 256 bytes (08 R187). -/
theorem pfReg_cacheOffset (s : State) {d o : Nat} (hd : d < 4) (ho : o < 0x100) : pfReg (cacheOffset d o) s = cacheReg d o s := by
  have hdie : (0x800 + 0x100 * d + o - 0x800) / 0x100 = d := by omega
  have hoff : (0x800 + 0x100 * d + o) % 0x100 = o := by omega
  unfold pfReg cacheOffset
  rw [if_neg (by omega), if_neg (by omega), if_pos (by omega), hdie, hoff]

/-- Each instruction of `readAndClear` is `readCount` at an offset where the management window shows its count. -/
theorem exec_readAndClear {i : Instr} {d : Nat} {f : Die → Nat} {c : Die → Die} (h : readAndClear i = some (d, f, c)) (hd : d < 4)
    (s : State) : ∃ o, exec i s = readCount d o c s ∧ pfReg o s = f (s.die d) := by
  unfold readAndClear at h
  split at h <;> cases h
  case h_1 => exact ⟨_, rfl, pfReg_coherenceOffset s hd (i := 0) (by decide)⟩
  case h_2 => exact ⟨_, rfl, pfReg_coherenceOffset s hd (i := 1) (by decide)⟩
  case h_3 => exact ⟨_, rfl, pfReg_coherenceOffset s hd (i := 2) (by decide)⟩
  case h_4 => exact ⟨_, rfl, pfReg_coherenceOffset s hd (i := 3) (by decide)⟩
  case h_5 => exact ⟨_, rfl, pfReg_cacheOffset s hd (o := 0x88) (by decide)⟩
  case h_6 => exact ⟨_, rfl, pfReg_cacheOffset s hd (o := 0x90) (by decide)⟩
  case h_7 => exact ⟨_, rfl, pfReg_cacheOffset s hd (o := 0x98) (by decide)⟩
  case h_8 => exact ⟨_, rfl, pfReg_cacheOffset s hd (o := 0xA0) (by decide)⟩
  case h_9 => exact ⟨_, rfl, pfReg_cacheOffset s hd (o := 0xA8) (by decide)⟩
  case h_10 => exact ⟨_, rfl, pfReg_cacheOffset s hd (o := 0xB0) (by decide)⟩
  case h_11 => exact ⟨_, rfl, pfReg_cacheOffset s hd (o := 0xB8) (by decide)⟩
  case h_12 => exact ⟨_, rfl, pfReg_cacheOffset s hd (o := 0xC0) (by decide)⟩

/-- A count read through the open management window is returned, and only the die's count changes. -/
theorem readCount_of_managed {s : State} (hs : Managed s) {d : Nat} (hd : d < 4) (o : Nat) (c : Die → Die) :
    ∃ t, readCount d o c s = .next t ∧ t.hostVal.find 0 = some (BitVec.ofNat 64 (pfReg o s)) ∧ t.die d = c (s.die d) ∧
      (∀ j, j ≠ d → t.die j = s.die j) ∧ t.mem = s.mem ∧ t.seqs = s.seqs ∧ t.vis = s.vis := by
  refine ⟨(returned (s.reg .pf o) s).updDie d c, congrArg Host.Outcome.next (inManagement_of_managed hs _), ?_, ?_,
    fun j hj => State.die_updDie_other _ c hj, ?_, ?_, ?_⟩
  · simp [reg_pf_of_managed hs]
  · simp [hd]
  · exact State.updDie_mem _ d c
  · exact State.updDie_seqs _ d c
  · exact State.updDie_vis _ d c

theorem viReg_fqstat {s : State} {vi : Nat} (hen : (s.vi vi).en = true) :
    viReg vi 0x1028 s = (if (s.vi vi).ring.badcmd then 1 else 0) + (s.vi vi).ring.waits * 2 ^ 32 := by
  simp [viReg, hen, bitAt, fieldAt]

theorem exec_fqstatRead_of_open {s : State} {vi : Nat} (hs : Open s vi) :
    exec (.fqstatRead vi) s = .next ((returned (s.reg (.vi vi) 0x1028) s).updRing vi fun r => { r with waits := 0 }) :=
  congrArg Host.Outcome.next (inWindow_of_open hs _)

theorem exec_owncmdRead_of_managed {s : State} (hs : Managed s) :
    exec .owncmdRead s = .next ((returned (s.reg .pf 0x208) s).updMgmt fun m => { m with ownOverrun := false }) :=
  congrArg Host.Outcome.next (inManagement_of_managed hs _)

theorem pfReg_owncmd (s : State) :
    pfReg 0x208 s = (if s.mgmt.ownBusy then 2 ^ 63 else 0) + (if s.mgmt.ownOverrun then 2 ^ 62 else 0) +
      s.mgmt.ownResult * 2 ^ 60 + s.mgmt.ownOwner * 2 ^ 40 + s.mgmt.ownCount := rfl

/-! ## Registers that keep -/

theorem pfWrite_of_keepMgmt {o : Nat} {v : DWord} {f : Mgmt → Mgmt} (h : keepMgmt o v = some f) (s : State) :
    pfWrite o v s = s.updMgmt f := by
  simp only [keepMgmt] at h
  iterate 8
    split at h
    · cases h
      subst o
      rfl
  cases h

theorem viWrite_of_keepVi {o : Nat} {v : DWord} {f : Vi → Vi} (h : keepVi o v = some f) (vi : Nat) (s : State) :
    viWrite vi o v s = s.updVi vi f := by
  simp only [keepVi] at h
  iterate 8
    split at h
    · cases h
      subst o
      rfl
  cases h

/-! ## Registers that act -/

/-- An instruction that makes its change through the management window makes that change where the window is open. -/
theorem next_eq_exec_of_inManagement {s : State} (hs : Managed s) {i : Instr} {f : State → State} (h : exec i s = .next (inManagement f s)) :
    .next (f s) = exec i s := by
  rw [h, inManagement_of_managed hs]

/-- The same through the window of an interface. -/
theorem next_eq_exec_of_inWindow {s : State} {vi : Nat} (hs : Open s vi) {i : Instr} {f : State → State}
    (h : exec i s = .next (inWindow vi f s)) : .next (f s) = exec i s := by
  rw [h, inWindow_of_open hs]

theorem pfWrite_acts {s : State} (hs : Managed s) (v : DWord) :
    ∀ e ∈ [(0x100, Instr.errorWindowWrite v), (0x108, .modbudgetWrite v), (0x128, .fwcmdInstall v), (0x180, .linkctlRetrain (v.setWidth 12)),
      (0x208, .owncmdWrite v), (0x308, .heatctlWrite v), (0x318, .tlbpinwaitWrite v), (0x320, .preemptdlWrite v), (0x600, .ctxprivWrite v),
      (0x168, .attcmdRequest .pf v)], .next (pfWrite e.1 v s) = exec e.2 s := by
  simp only [List.forall_mem_cons, List.not_mem_nil, false_implies, implies_true, and_true]
  exact ⟨next_eq_exec_of_inManagement hs (f := writeErrorWindow v) rfl, next_eq_exec_of_inManagement hs (f := writeBudget v) rfl,
    next_eq_exec_of_inManagement hs (f := startUpdate v) rfl, rfl, next_eq_exec_of_inManagement hs (f := writeOwners v) rfl,
    next_eq_exec_of_inManagement hs (f := writeHeat v) rfl, rfl, rfl, next_eq_exec_of_inManagement hs (f := setPriv v) rfl,
    next_eq_exec_of_inManagement hs (f := requestReport .pf v) rfl⟩

theorem viWrite_acts {s : State} {vi : Nat} (hs : Open s vi) (v : DWord) :
    ∀ e ∈ [(0x1000, Instr.fqbaseWrite vi v), (0x1008, .fqsizeWrite vi v), (0x1010, .fqheadWrite vi v), (0x3028, .attcmdRequest (.vi vi) v),
      (0x20110, .cstataddrWrite vi v), (0x10010, .qtailWrite vi 0 v)], .next (viWrite vi e.1 v s) = exec e.2 s := by
  simp only [List.forall_mem_cons, List.not_mem_nil, false_implies, implies_true, and_true]
  exact ⟨next_eq_exec_of_inWindow hs (f := writeBase vi v) rfl, next_eq_exec_of_inWindow hs (f := writeSize vi v) rfl,
    next_eq_exec_of_inWindow hs (f := writeHead vi v) rfl, next_eq_exec_of_inWindow hs (f := requestReport (.vi vi) v) rfl,
    next_eq_exec_of_inWindow hs (f := writeStat vi v) rfl, next_eq_exec_of_inWindow hs (f := writeTail vi 0 v) rfl⟩

/-- Settles O58: the reads by the value that the open window shows and the one field cleared, the writes by the change that each
offset stands for. -/
theorem registerWindows : Obligations.RegisterWindows := by
  unfold Obligations.RegisterWindows
  refine ⟨?counts, ?fqstat, ?owncmd, ?keep, ?act⟩
  case counts =>
    intro i s d f c hi hd hs
    obtain ⟨o, hexec, hval⟩ := exec_readAndClear hi hd s
    rw [hexec, ← hval]
    exact readCount_of_managed hs hd o c
  case fqstat =>
    intro s vi hs
    have hen : (s.vi vi).en = true := hs.2.1
    refine ⟨_, exec_fqstatRead_of_open hs, ?_, vi_updRing _ vi _, rfl, rfl⟩
    rw [← viReg_fqstat hen, ← reg_vi_of_open hs]
    exact find_hostVal_returned _ s
  case owncmd =>
    intro s hs
    refine ⟨_, exec_owncmdRead_of_managed hs, rfl, rfl, ?_⟩
    rw [← pfReg_owncmd, ← reg_pf_of_managed hs]
    exact find_hostVal_returned _ s
  case keep =>
    intro s o v hs
    constructor
    · intro f hf
      rw [exec_registerWrite_pf hs, pfWrite_of_keepMgmt hf]
      rfl
    · intro vi f hvi hf
      rw [exec_registerWrite_vi hvi, viWrite_of_keepVi hf]
  case act =>
    intro s vi v hs hvi
    constructor
    · intro e he
      rw [exec_registerWrite_pf hs]
      exact pfWrite_acts hs v e he
    · intro e he
      rw [exec_registerWrite_vi hvi]
      exact viWrite_acts hvi v e he

end Sys2Proof.Machine

/-!
PROOFS. The two registers that bound how long the package waits before it forces a pre-emption: TLBPINWAIT (04 R97) and PREEMPTDL
(05 R121).
-/
namespace Sys2Proof.Machine

open Sys2Proof.Claims

/-- The management window is open at reset. -/
theorem managed_reset : Managed State.reset := ⟨rfl, rfl⟩

/-- The cycles that a write of `v` to one of the two registers sets (04 R97; 05 R121). -/
def limitCycles (v : DWord) : Nat := max 1000 (v.toNat % 2 ^ 32)

@[simp] theorem pfReg_tlbpinwait (s : State) : pfReg 0x318 s = s.mgmt.tlbpinwait := rfl

@[simp] theorem pfReg_preemptdl (s : State) : pfReg 0x320 s = s.mgmt.preemptdl := rfl

theorem pfWrite_tlbpinwait {s : State} (hs : Managed s) (v : DWord) :
    pfWrite 0x318 v s = s.updMgmt fun m => { m with tlbpinwait := limitCycles v } :=
  inManagement_of_managed hs fun s => s.updMgmt fun m => { m with tlbpinwait := limitCycles v }

theorem pfWrite_preemptdl {s : State} (hs : Managed s) (v : DWord) :
    pfWrite 0x320 v s = s.updMgmt fun m => { m with preemptdl := limitCycles v } :=
  inManagement_of_managed hs fun s => s.updMgmt fun m => { m with preemptdl := limitCycles v }

/-- Changing the package's registers leaves the management window open. -/
theorem managed_updMgmt {s : State} (hs : Managed s) (f : Mgmt → Mgmt) : Managed (s.updMgmt f) := hs

/-- Settles O59: the reset values as the open window reads them, then each write as the change its offset stands for, read back
through the window, which the write leaves open. -/
theorem limitRegisters : Obligations.LimitRegisters := by
  unfold Obligations.LimitRegisters
  refine ⟨?resetPinwait, ?resetPreemptdl, fun s v hs => ⟨⟨?writePinwait, ?readPinwait⟩, ?writePreemptdl, ?readPreemptdl⟩⟩
  case resetPinwait =>
    rw [reg_pf_of_managed managed_reset, pfReg_tlbpinwait]
    rfl
  case resetPreemptdl =>
    rw [reg_pf_of_managed managed_reset, pfReg_preemptdl]
    rfl
  case writePinwait =>
    rw [exec_registerWrite_pf hs, pfWrite_tlbpinwait hs]
    rfl
  case readPinwait =>
    exact reg_pf_of_managed (managed_updMgmt hs fun m => { m with tlbpinwait := limitCycles v }) 0x318
  case writePreemptdl =>
    rw [exec_registerWrite_pf hs, pfWrite_preemptdl hs]
    rfl
  case readPreemptdl =>
    exact reg_pf_of_managed (managed_updMgmt hs fun m => { m with preemptdl := limitCycles v }) 0x320

end Sys2Proof.Machine
